-- ==== Sys2Proof/Word.lean ====
section
/-! DEFINITION. The word types of the A9 and the sparse map in which plain data is held (00 R5, 02 R24). -/

namespace Sys2Proof

/-- A g register, a control word, an address or a pc (02 R24, R30). -/
abbrev Word := BitVec 64

/-- A byte of memory. -/
abbrev Byte := BitVec 8

/-- A v register (02 R24, R26). -/
abbrev VWord := BitVec 512

/-- A register number. -/
abbrev Reg := BitVec 5

/-- A sparse map: pairs in rising order of their keys. A key that is not listed stands for its unit's reset value. -/
abbrev AMap (α : Type) := List (Nat × α)

end Sys2Proof
end

