-- ==== Sys2Proof/Syntax.lean ====
section
/-! DEFINITION. The abstract syntax: one constructor of `Instr` per row of spec/opcode_table.json.
An encoded row carries exactly the bit fields the table gives it (03 R42, R46-R60), a literal row its register
fields and the literal word (R44), and an event row (a step that the hardware, the host or firmware takes, which has
no encoding) the data that says which unit takes it and on what. The payload types come first. -/

namespace Sys2Proof

/-- Where a value that comes back from memory goes: nowhere (a load to g0), a g register or plane with the size code
of R48, or bytes of a v register from byte `lo` on. `plane` is 0 for the primal, 1 and 2 for d1 and d2. -/
inductive Dst where
  | none
  | g (r : BitVec 5) (plane sz : Nat)
  | v (r : BitVec 5) (plane lo : Nat)
  deriving DecidableEq, Repr

/-- What a request asks of a home slice (10 R185). AMO and RED carry their operation codes of R49. -/
inductive ReqKind where
  | load | store | sigadd | ctrrd | waitge | discard
  | amo (op : Nat)
  | red (op : Nat)
  deriving DecidableEq, Repr

/-- On whose behalf a request is made: the requester classes of SWHIT (23 R406). -/
inductive Agent where
  | thread | copy | remote | host | service | system
  deriving DecidableEq, Repr

/-- A request on its way to a home slice, or its reply on the way back (10 R185-R193, 14 R284, R285). -/
structure Req where
  who   : Nat            -- thread key of the issuer
  agent : Agent
  cid   : Nat            -- the writer of R413; 0xFFF is SHARED
  kind  : ReqKind
  pa    : Nat
  home  : Nat            -- router index of the home slice
  p00   : Bool           -- the page has PLACE = 00, so that its home follows the partition's layout
  len   : Nat            -- bytes addressed
  data  : BitVec 512     -- bytes to write, or the bytes read once served
  mask  : BitVec 64      -- active bytes
  cmp   : BitVec 64      -- CAS compare value, or the target of a wait
  va    : BitVec 64      -- the address named, for TVAL
  dst   : Dst
  acq   : Bool
  rel   : Bool
  fill  : Bool           -- the reply may refill L1
  rm    : Bool           -- page with RM = 1
  die   : Nat            -- the requester's die
  spec  : Option (Nat × Nat)  -- mark to leave: channel and generation (R284)
  chans : List (Nat × BitVec 32)  -- the issuer's channels, with the first superstep it had not arrived in (R285)
  own   : BitVec 4       -- owner mask of reduction addends (R193)
  lanes : List (Nat × BitVec 64)  -- reduction addends by lane of the line (R193)
  iss   : Nat            -- one more than the cc of its instruction's issue
  pl    : Nat            -- its plane: 0 primal, 1 d1, 2 d2 (R102)
  drain : Bool           -- a held store that its commit sends (14 R287), or addends sent by forced message (R194)
  deriving DecidableEq, Repr

/-- The access kinds of the walker (20 R366). -/
inductive AccessKind where
  | load | store | fetch | rmw
  deriving DecidableEq, Repr

/-- A page walk in flight (20 R366, R367). -/
structure WalkReq where
  cid  : Nat
  core : Nat
  va   : BitVec 64
  kind : AccessKind
  priv : Nat
  deriving DecidableEq, Repr

/-- An arrival on its way into the barrier tree (14 R274). -/
structure Arrival where
  tk    : Nat
  chan  : Nat
  hdl   : Nat
  vote  : Nat
  leave : Bool
  deriving DecidableEq, Repr

/-- A flit on a route (18 R312): `src` is the sending core-and-context, `dst` the destination word of R314. -/
structure Flit where
  src    : Nat
  sport  : Nat
  route  : Nat           -- number of the route among those of the send port
  dst    : BitVec 64
  nxm    : Bool
  data   : BitVec 512
  resume : Bool
  deriving DecidableEq, Repr

/-- A transport request or its reply (21 R388-R393). `status` is 0 performed, 1 refused, 2 hold. -/
structure NetReq where
  part   : Nat           -- source partition
  dst    : Nat           -- destination partition
  seq    : Nat
  op     : Nat           -- OP of R251: 5 RPUT, 6 RGET, 7 RATOM, 8 NRED
  va     : BitVec 64     -- address at the peer
  len    : Nat
  data   : List (BitVec 8)
  imgs   : List (BitVec 64 × Nat × List (BitVec 8))  -- tangent images: address, length and data
  aux    : BitVec 32
  cmp    : BitVec 64
  wide   : Bool          -- RATOM of 8 bytes, NRED of S64
  tag    : Nat
  count  : Nat
  dead   : Nat           -- NRED deadline in cc
  recvd  : Nat           -- NRED contributions received
  nstat  : Nat           -- NRED status of R393
  tk     : Nat           -- issuing thread set
  cc     : Nat           -- its core and context
  entry  : Nat
  burst  : Nat
  sends  : Nat
  status : Nat
  deriving DecidableEq, Repr

/-- An error that a storage, a link or a parity check finds (24 R411-R418). `level` 1 is L2, 2 the memory-side cache,
3 LPDDR6; of a bank, 2 its backing area. `fix` says that the code corrected it. -/
structure ErrorFound where
  src     : Nat          -- SRC of R416
  fix     : Bool
  level   : Nat
  cluster : Nat
  core    : Nat          -- core of the state that failed
  cid     : Nat
  pa      : Nat
  index   : Nat          -- physical bank, or entry of the waiter table
  way     : Nat          -- L2 way
  finder  : Option Nat   -- core whose access found it
  deriving DecidableEq, Repr

/-- The instructions and events of the machine, in the order of spec/opcode_table.json. -/
inductive Instr where
  /-- Writes the 64-bit wrapped sum of g[a] and g[b] to g[d] (R88). -/
  | add (d : BitVec 5) (a : BitVec 5) (b : BitVec 5)
  /-- Writes the 64-bit wrapped difference of g[a] and g[b] to g[d] (R88). -/
  | sub (d : BitVec 5) (a : BitVec 5) (b : BitVec 5)
  /-- Writes the bitwise AND of g[a] and g[b] to g[d] (R88). -/
  | and (d : BitVec 5) (a : BitVec 5) (b : BitVec 5)
  /-- Writes the bitwise OR of g[a] and g[b] to g[d] (R88). -/
  | or (d : BitVec 5) (a : BitVec 5) (b : BitVec 5)
  /-- Writes the bitwise XOR of g[a] and g[b] to g[d] (R88). -/
  | xor (d : BitVec 5) (a : BitVec 5) (b : BitVec 5)
  /-- Writes g[a] AND NOT g[b] to g[d] (R88). -/
  | andn (d : BitVec 5) (a : BitVec 5) (b : BitVec 5)
  /-- Shifts g[a] left by the saturated unsigned count in g[b] (R88). -/
  | sll (d : BitVec 5) (a : BitVec 5) (b : BitVec 5)
  /-- Shifts g[a] right with zero fill by the saturated count in g[b] (R88). -/
  | srl (d : BitVec 5) (a : BitVec 5) (b : BitVec 5)
  /-- Shifts g[a] right with sign fill by the saturated count in g[b] (R88). -/
  | sra (d : BitVec 5) (a : BitVec 5) (b : BitVec 5)
  /-- Rotates g[a] right by g[b] modulo 64 (R88). -/
  | ror (d : BitVec 5) (a : BitVec 5) (b : BitVec 5)
  /-- Writes 1 if g[a] is less than g[b] as signed values, else 0 (R88). -/
  | slt (d : BitVec 5) (a : BitVec 5) (b : BitVec 5)
  /-- Writes 1 if g[a] is less than g[b] as unsigned values, else 0 (R88). -/
  | sltu (d : BitVec 5) (a : BitVec 5) (b : BitVec 5)
  /-- Writes the signed smaller of g[a] and g[b] (R88). -/
  | min (d : BitVec 5) (a : BitVec 5) (b : BitVec 5)
  /-- Writes the signed larger of g[a] and g[b] (R88). -/
  | max (d : BitVec 5) (a : BitVec 5) (b : BitVec 5)
  /-- Writes the unsigned smaller of g[a] and g[b] (R88). -/
  | minu (d : BitVec 5) (a : BitVec 5) (b : BitVec 5)
  /-- Writes the unsigned larger of g[a] and g[b] (R88). -/
  | maxu (d : BitVec 5) (a : BitVec 5) (b : BitVec 5)
  /-- Writes the low 64 bits of the product of g[a] and g[b] (R88). -/
  | mul (d : BitVec 5) (a : BitVec 5) (b : BitVec 5)
  /-- Writes the high 64 bits of the signed product (R88). -/
  | mulh (d : BitVec 5) (a : BitVec 5) (b : BitVec 5)
  /-- Writes the high 64 bits of the unsigned product (R88). -/
  | mulhu (d : BitVec 5) (a : BitVec 5) (b : BitVec 5)
  /-- Writes the high 64 bits of the signed-by-unsigned product (R88). -/
  | mulhsu (d : BitVec 5) (a : BitVec 5) (b : BitVec 5)
  /-- Writes the signed quotient, saturating on overflow and division by zero (R89). -/
  | div (d : BitVec 5) (a : BitVec 5) (b : BitVec 5)
  /-- Writes the unsigned quotient, saturating on division by zero (R89). -/
  | divu (d : BitVec 5) (a : BitVec 5) (b : BitVec 5)
  /-- Writes the signed remainder, 0 in the saturating cases (R89). -/
  | rem (d : BitVec 5) (a : BitVec 5) (b : BitVec 5)
  /-- Writes the unsigned remainder, 0 on division by zero (R89). -/
  | remu (d : BitVec 5) (a : BitVec 5) (b : BitVec 5)
  /-- Writes the number of leading zero bits of g[a] (R88). -/
  | clz (d : BitVec 5) (a : BitVec 5)
  /-- Writes the number of trailing zero bits of g[a] (R88). -/
  | ctz (d : BitVec 5) (a : BitVec 5)
  /-- Writes the number of one bits of g[a] (R88). -/
  | popc (d : BitVec 5) (a : BitVec 5)
  /-- Sign-extends the low byte of g[a] (R88). -/
  | sextB (d : BitVec 5) (a : BitVec 5)
  /-- Sign-extends the low halfword of g[a] (R88). -/
  | sextH (d : BitVec 5) (a : BitVec 5)
  /-- Sign-extends the low word of g[a] (R88). -/
  | sextW (d : BitVec 5) (a : BitVec 5)
  /-- Zero-extends the low halfword of g[a] (R88). -/
  | zextH (d : BitVec 5) (a : BitVec 5)
  /-- Zero-extends the low word of g[a] (R88). -/
  | zextW (d : BitVec 5) (a : BitVec 5)
  /-- Writes the sign-extended 32-bit sum (R88). -/
  | addw (d : BitVec 5) (a : BitVec 5) (b : BitVec 5)
  /-- Writes the sign-extended 32-bit difference (R88). -/
  | subw (d : BitVec 5) (a : BitVec 5) (b : BitVec 5)
  /-- ADD with operand b taken from the sign-extended literal word at pc + 4 (R44). -/
  | addLit (d : BitVec 5) (a : BitVec 5) (lit : BitVec 32)
  /-- SUB with a literal word as operand b (R44). -/
  | subLit (d : BitVec 5) (a : BitVec 5) (lit : BitVec 32)
  /-- AND with a literal word as operand b (R44). -/
  | andLit (d : BitVec 5) (a : BitVec 5) (lit : BitVec 32)
  /-- OR with a literal word as operand b (R44). -/
  | orLit (d : BitVec 5) (a : BitVec 5) (lit : BitVec 32)
  /-- XOR with a literal word as operand b (R44). -/
  | xorLit (d : BitVec 5) (a : BitVec 5) (lit : BitVec 32)
  /-- ANDN with a literal word as operand b (R44). -/
  | andnLit (d : BitVec 5) (a : BitVec 5) (lit : BitVec 32)
  /-- SLL with a literal word as operand b (R44). -/
  | sllLit (d : BitVec 5) (a : BitVec 5) (lit : BitVec 32)
  /-- SRL with a literal word as operand b (R44). -/
  | srlLit (d : BitVec 5) (a : BitVec 5) (lit : BitVec 32)
  /-- SRA with a literal word as operand b (R44). -/
  | sraLit (d : BitVec 5) (a : BitVec 5) (lit : BitVec 32)
  /-- ROR with a literal word as operand b (R44). -/
  | rorLit (d : BitVec 5) (a : BitVec 5) (lit : BitVec 32)
  /-- SLT with a literal word as operand b (R44). -/
  | sltLit (d : BitVec 5) (a : BitVec 5) (lit : BitVec 32)
  /-- SLTU with a literal word as operand b (R44). -/
  | sltuLit (d : BitVec 5) (a : BitVec 5) (lit : BitVec 32)
  /-- MIN with a literal word as operand b (R44). -/
  | minLit (d : BitVec 5) (a : BitVec 5) (lit : BitVec 32)
  /-- MAX with a literal word as operand b (R44). -/
  | maxLit (d : BitVec 5) (a : BitVec 5) (lit : BitVec 32)
  /-- MINU with a literal word as operand b (R44). -/
  | minuLit (d : BitVec 5) (a : BitVec 5) (lit : BitVec 32)
  /-- MAXU with a literal word as operand b (R44). -/
  | maxuLit (d : BitVec 5) (a : BitVec 5) (lit : BitVec 32)
  /-- MUL with a literal word as operand b (R44). -/
  | mulLit (d : BitVec 5) (a : BitVec 5) (lit : BitVec 32)
  /-- MULH with a literal word as operand b (R44). -/
  | mulhLit (d : BitVec 5) (a : BitVec 5) (lit : BitVec 32)
  /-- MULHU with a literal word as operand b (R44). -/
  | mulhuLit (d : BitVec 5) (a : BitVec 5) (lit : BitVec 32)
  /-- MULHSU with a literal word as operand b (R44). -/
  | mulhsuLit (d : BitVec 5) (a : BitVec 5) (lit : BitVec 32)
  /-- DIV with a literal word as operand b (R44). -/
  | divLit (d : BitVec 5) (a : BitVec 5) (lit : BitVec 32)
  /-- DIVU with a literal word as operand b (R44). -/
  | divuLit (d : BitVec 5) (a : BitVec 5) (lit : BitVec 32)
  /-- REM with a literal word as operand b (R44). -/
  | remLit (d : BitVec 5) (a : BitVec 5) (lit : BitVec 32)
  /-- REMU with a literal word as operand b (R44). -/
  | remuLit (d : BitVec 5) (a : BitVec 5) (lit : BitVec 32)
  /-- ADDW with a literal word as operand b (R44). -/
  | addwLit (d : BitVec 5) (a : BitVec 5) (lit : BitVec 32)
  /-- SUBW with a literal word as operand b (R44). -/
  | subwLit (d : BitVec 5) (a : BitVec 5) (lit : BitVec 32)
  /-- Adds the sign-extended immediate to g[a] (R90). -/
  | addi (d : BitVec 5) (a : BitVec 5) (imm : BitVec 16)
  /-- ANDs g[a] with the zero-extended immediate (R90). -/
  | andi (d : BitVec 5) (a : BitVec 5) (imm : BitVec 16)
  /-- ORs g[a] with the zero-extended immediate (R90). -/
  | ori (d : BitVec 5) (a : BitVec 5) (imm : BitVec 16)
  /-- XORs g[a] with the zero-extended immediate (R90). -/
  | xori (d : BitVec 5) (a : BitVec 5) (imm : BitVec 16)
  /-- Writes 1 if g[a] is less than the sign-extended immediate, signed (R90). -/
  | slti (d : BitVec 5) (a : BitVec 5) (imm : BitVec 16)
  /-- Writes 1 if g[a] is less than the sign-extended immediate, unsigned (R90). -/
  | sltiu (d : BitVec 5) (a : BitVec 5) (imm : BitVec 16)
  /-- Shifts g[a] left by the immediate amount (R90). -/
  | slli (d : BitVec 5) (a : BitVec 5) (n : BitVec 6)
  /-- Shifts g[a] right with zero fill by the immediate amount (R90). -/
  | srli (d : BitVec 5) (a : BitVec 5) (n : BitVec 6)
  /-- Shifts g[a] right with sign fill by the immediate amount (R90). -/
  | srai (d : BitVec 5) (a : BitVec 5) (n : BitVec 6)
  /-- Rotates g[a] right by the immediate amount (R90). -/
  | rori (d : BitVec 5) (a : BitVec 5) (n : BitVec 6)
  /-- Sets g[d] to the sign-extended immediate shifted left by 16 (R43). -/
  | lui (d : BitVec 5) (imm : BitVec 16)
  /-- Sets g[d] to pc plus four times the sign-extended immediate (R43). -/
  | addpc (d : BitVec 5) (imm : BitVec 16)
  /-- Writes a + b rounded once under FMODE.RM at F32 or F64 (R92). -/
  | fadd (d : BitVec 5) (a : BitVec 5) (b : BitVec 5) (p : BitVec 2)
  /-- Writes a − b rounded once (R92). -/
  | fsub (d : BitVec 5) (a : BitVec 5) (b : BitVec 5) (p : BitVec 2)
  /-- Writes a · b rounded once (R92). -/
  | fmul (d : BitVec 5) (a : BitVec 5) (b : BitVec 5) (p : BitVec 2)
  /-- Writes a / b rounded once (R92). -/
  | fdiv (d : BitVec 5) (a : BitVec 5) (b : BitVec 5) (p : BitVec 2)
  /-- Writes the square root of a rounded once (R92). -/
  | fsqrt (d : BitVec 5) (a : BitVec 5) (p : BitVec 2)
  /-- Writes the smaller of a and b, preferring numbers to NaN (R93). -/
  | fmin (d : BitVec 5) (a : BitVec 5) (b : BitVec 5) (p : BitVec 2)
  /-- Writes the larger of a and b, preferring numbers to NaN (R93). -/
  | fmax (d : BitVec 5) (a : BitVec 5) (b : BitVec 5) (p : BitVec 2)
  /-- Writes a with the sign of b (R93). -/
  | fsgnj (d : BitVec 5) (a : BitVec 5) (b : BitVec 5) (p : BitVec 2)
  /-- Writes a with the inverted sign of b (R93). -/
  | fsgnjn (d : BitVec 5) (a : BitVec 5) (b : BitVec 5) (p : BitVec 2)
  /-- Writes a with sign a xor sign b (R93). -/
  | fsgnjx (d : BitVec 5) (a : BitVec 5) (b : BitVec 5) (p : BitVec 2)
  /-- Writes 1 when a equals b, else 0 (R94). -/
  | feq (d : BitVec 5) (a : BitVec 5) (b : BitVec 5) (p : BitVec 2)
  /-- Writes 1 when a is less than b; NaN sets NV (R94). -/
  | flt (d : BitVec 5) (a : BitVec 5) (b : BitVec 5) (p : BitVec 2)
  /-- Writes 1 when a is at most b; NaN sets NV (R94). -/
  | fle (d : BitVec 5) (a : BitVec 5) (b : BitVec 5) (p : BitVec 2)
  /-- Writes the class word of a (R94). -/
  | fclass (d : BitVec 5) (a : BitVec 5) (p : BitVec 2)
  /-- Converts a float to a signed integer under FMODE.RM (R95). -/
  | fcvtS (d : BitVec 5) (a : BitVec 5) (p : BitVec 2)
  /-- Converts a float to an unsigned integer under FMODE.RM (R95). -/
  | fcvtZ (d : BitVec 5) (a : BitVec 5) (p : BitVec 2)
  /-- Converts a signed integer to a float (R95). -/
  | fcvtfS (d : BitVec 5) (a : BitVec 5) (p : BitVec 2)
  /-- Converts an unsigned integer to a float (R95). -/
  | fcvtfZ (d : BitVec 5) (a : BitVec 5) (p : BitVec 2)
  /-- Converts between F32 and F64 to the named precision (R95). -/
  | fcvtp (d : BitVec 5) (a : BitVec 5) (p : BitVec 2)
  /-- Writes a · b + d with one rounding (R92). -/
  | fmadd (d : BitVec 5) (a : BitVec 5) (b : BitVec 5) (p : BitVec 2)
  /-- Writes a · b − d with one rounding (R92). -/
  | fmsub (d : BitVec 5) (a : BitVec 5) (b : BitVec 5) (p : BitVec 2)
  /-- Writes −(a · b + d) with one rounding (R92). -/
  | fnmadd (d : BitVec 5) (a : BitVec 5) (b : BitVec 5) (p : BitVec 2)
  /-- Converts a float to a signed integer toward zero (R95). -/
  | fcvtSt (d : BitVec 5) (a : BitVec 5) (p : BitVec 2)
  /-- FADD with an FP32 literal word as operand b (R44). -/
  | faddLit (d : BitVec 5) (a : BitVec 5) (p : BitVec 2) (lit : BitVec 32)
  /-- FSUB with a literal word as operand b (R44). -/
  | fsubLit (d : BitVec 5) (a : BitVec 5) (p : BitVec 2) (lit : BitVec 32)
  /-- FMUL with a literal word as operand b (R44). -/
  | fmulLit (d : BitVec 5) (a : BitVec 5) (p : BitVec 2) (lit : BitVec 32)
  /-- FDIV with a literal word as operand b (R44). -/
  | fdivLit (d : BitVec 5) (a : BitVec 5) (p : BitVec 2) (lit : BitVec 32)
  /-- FMIN with a literal word as operand b (R44). -/
  | fminLit (d : BitVec 5) (a : BitVec 5) (p : BitVec 2) (lit : BitVec 32)
  /-- FMAX with a literal word as operand b (R44). -/
  | fmaxLit (d : BitVec 5) (a : BitVec 5) (p : BitVec 2) (lit : BitVec 32)
  /-- FSGNJ with a literal word as operand b (R44). -/
  | fsgnjLit (d : BitVec 5) (a : BitVec 5) (p : BitVec 2) (lit : BitVec 32)
  /-- FSGNJN with a literal word as operand b (R44). -/
  | fsgnjnLit (d : BitVec 5) (a : BitVec 5) (p : BitVec 2) (lit : BitVec 32)
  /-- FSGNJX with a literal word as operand b (R44). -/
  | fsgnjxLit (d : BitVec 5) (a : BitVec 5) (p : BitVec 2) (lit : BitVec 32)
  /-- FEQ with a literal word as operand b (R44). -/
  | feqLit (d : BitVec 5) (a : BitVec 5) (p : BitVec 2) (lit : BitVec 32)
  /-- FLT with a literal word as operand b (R44). -/
  | fltLit (d : BitVec 5) (a : BitVec 5) (p : BitVec 2) (lit : BitVec 32)
  /-- FLE with a literal word as operand b (R44). -/
  | fleLit (d : BitVec 5) (a : BitVec 5) (p : BitVec 2) (lit : BitVec 32)
  /-- FMADD with a literal word as operand b (R44). -/
  | fmaddLit (d : BitVec 5) (a : BitVec 5) (p : BitVec 2) (lit : BitVec 32)
  /-- FMSUB with a literal word as operand b (R44). -/
  | fmsubLit (d : BitVec 5) (a : BitVec 5) (p : BitVec 2) (lit : BitVec 32)
  /-- FNMADD with a literal word as operand b (R44). -/
  | fnmaddLit (d : BitVec 5) (a : BitVec 5) (p : BitVec 2) (lit : BitVec 32)
  /-- Loads a sized value from global memory, plain, FRESH or acquiring (R99). -/
  | ld (d : BitVec 5) (a : BitVec 5) (z : BitVec 3) (q : BitVec 2) (o : BitVec 11)
  /-- Stores the low bits of g[s] to global memory at the home slice, plain or release (R99). -/
  | st (src : BitVec 5) (a : BitVec 5) (z : BitVec 2) (q : BitVec 2) (o : BitVec 12)
  /-- Loads a sized value from the core's local bank space (R101). -/
  | ldl (d : BitVec 5) (a : BitVec 5) (z : BitVec 3) (o : BitVec 11)
  /-- Stores the low bits of g[s] into the core's local bank space (R101). -/
  | stl (src : BitVec 5) (a : BitVec 5) (z : BitVec 2) (o : BitVec 12)
  /-- Atomically swaps a word at its home slice, returning the old value (R188). -/
  | amoSwap (d : BitVec 5) (a : BitVec 5) (b : BitVec 5) (w : BitVec 1) (o : BitVec 2) (sc : BitVec 3)
  /-- Atomically adds at the home slice (R188). -/
  | amoAdd (d : BitVec 5) (a : BitVec 5) (b : BitVec 5) (w : BitVec 1) (o : BitVec 2) (sc : BitVec 3)
  /-- Atomically ANDs at the home slice (R188). -/
  | amoAnd (d : BitVec 5) (a : BitVec 5) (b : BitVec 5) (w : BitVec 1) (o : BitVec 2) (sc : BitVec 3)
  /-- Atomically ORs at the home slice (R188). -/
  | amoOr (d : BitVec 5) (a : BitVec 5) (b : BitVec 5) (w : BitVec 1) (o : BitVec 2) (sc : BitVec 3)
  /-- Atomically XORs at the home slice (R188). -/
  | amoXor (d : BitVec 5) (a : BitVec 5) (b : BitVec 5) (w : BitVec 1) (o : BitVec 2) (sc : BitVec 3)
  /-- Atomically takes the signed minimum at the home slice (R188). -/
  | amoMin (d : BitVec 5) (a : BitVec 5) (b : BitVec 5) (w : BitVec 1) (o : BitVec 2) (sc : BitVec 3)
  /-- Atomically takes the signed maximum at the home slice (R188). -/
  | amoMax (d : BitVec 5) (a : BitVec 5) (b : BitVec 5) (w : BitVec 1) (o : BitVec 2) (sc : BitVec 3)
  /-- Atomically takes the unsigned minimum at the home slice (R188). -/
  | amoMinu (d : BitVec 5) (a : BitVec 5) (b : BitVec 5) (w : BitVec 1) (o : BitVec 2) (sc : BitVec 3)
  /-- Atomically takes the unsigned maximum at the home slice (R188). -/
  | amoMaxu (d : BitVec 5) (a : BitVec 5) (b : BitVec 5) (w : BitVec 1) (o : BitVec 2) (sc : BitVec 3)
  /-- Atomically compares with g[d] and writes g[b] on a match (R188). -/
  | amoCas (d : BitVec 5) (a : BitVec 5) (b : BitVec 5) (w : BitVec 1) (o : BitVec 2) (sc : BitVec 3)
  /-- Sends an F32 addend, scalar or vector, to be added at the home slice (R189). -/
  | redAddF32 (a : BitVec 5) (b : BitVec 5) (v : BitVec 1)
  /-- Sends a BF16 addend to be added at the home slice (R189). -/
  | redAddBf16 (a : BitVec 5) (b : BitVec 5) (v : BitVec 1)
  /-- Sends an S32 addend to be added modulo 2^32 (R189). -/
  | redAddS32 (a : BitVec 5) (b : BitVec 5) (v : BitVec 1)
  /-- Sends an S64 addend to be added modulo 2^64 (R189). -/
  | redAddS64 (a : BitVec 5) (b : BitVec 5) (v : BitVec 1)
  /-- Sends an F32 value whose maximum is taken at the home slice (R189). -/
  | redMaxF32 (a : BitVec 5) (b : BitVec 5) (v : BitVec 1)
  /-- Sends an F32 value whose minimum is taken at the home slice (R189). -/
  | redMinF32 (a : BitVec 5) (b : BitVec 5) (v : BitVec 1)
  /-- Stalls until the thread set's earlier accesses are ordered as acquire, release or both (R187). -/
  | fence (k : BitVec 5) (sc : BitVec 5)
  /-- Releases and adds an unsigned amount to a counter at its home slice (R198). -/
  | sigadd (a : BitVec 5) (b : BitVec 5)
  /-- Waits until a counter reaches a target, then writes it and acquires (R199). -/
  | waitge (d : BitVec 5) (a : BitVec 5) (b : BitVec 5)
  /-- Reads a counter at its home slice and acquires (R200). -/
  | ctrrd (d : BitVec 5) (a : BitVec 5)
  /-- Sends the thread set's residual entries and stalls until they are applied (R195). -/
  | rflush
  /-- Drops the dirty sectors and accepted reductions of a line at its home slice (R201). -/
  | discard (a : BitVec 5)
  /-- Drops every sector of the issuing core's L1 (R202). -/
  | l1inv
  /-- Branches when g[a] equals g[b] (R104). -/
  | beq (a : BitVec 5) (b : BitVec 5) (o : BitVec 16)
  /-- Branches when g[a] differs from g[b] (R104). -/
  | bne (a : BitVec 5) (b : BitVec 5) (o : BitVec 16)
  /-- Branches when g[a] is less than g[b], signed (R104). -/
  | blt (a : BitVec 5) (b : BitVec 5) (o : BitVec 16)
  /-- Branches when g[a] is at least g[b], signed (R104). -/
  | bge (a : BitVec 5) (b : BitVec 5) (o : BitVec 16)
  /-- Branches when g[a] is less than g[b], unsigned (R104). -/
  | bltu (a : BitVec 5) (b : BitVec 5) (o : BitVec 16)
  /-- Branches when g[a] is at least g[b], unsigned (R104). -/
  | bgeu (a : BitVec 5) (b : BitVec 5) (o : BitVec 16)
  /-- Links pc + 4 into g[d] and jumps by the word offset (R104). -/
  | jal (d : BitVec 5) (o : BitVec 21)
  /-- Links pc + 4 and jumps to g[a] plus the immediate (R43). -/
  | jalr (d : BitVec 5) (a : BitVec 5) (imm : BitVec 16)
  /-- Sets up and arms a hardware loop level, or skips the body on a count of 0 (R105). -/
  | lspan (l : BitVec 1) (c : BitVec 1) (b : BitVec 12) (n : BitVec 12)
  /-- Disarms an armed loop level and transfers to LE + 4 (R108). -/
  | lexit (l : BitVec 1)
  /-- Disarms a loop level and continues at pc + 4 (R108). -/
  | ldis (l : BitVec 1)
  /-- Adds vector lanes under a write mask (R117). -/
  | vadd (d : BitVec 5) (a : BitVec 5) (b : BitVec 5) (m : BitVec 3) (t : BitVec 3)
  /-- Subtracts vector lanes (R117). -/
  | vsub (d : BitVec 5) (a : BitVec 5) (b : BitVec 5) (m : BitVec 3) (t : BitVec 3)
  /-- Multiplies vector lanes (R117). -/
  | vmul (d : BitVec 5) (a : BitVec 5) (b : BitVec 5) (m : BitVec 3) (t : BitVec 3)
  /-- Fused multiply-add a · b + d per lane (R117). -/
  | vfma (d : BitVec 5) (a : BitVec 5) (b : BitVec 5) (m : BitVec 3) (t : BitVec 3)
  /-- Fused multiply-subtract a · b − d per lane (R117). -/
  | vfms (d : BitVec 5) (a : BitVec 5) (b : BitVec 5) (m : BitVec 3) (t : BitVec 3)
  /-- Lane-wise minimum (R117). -/
  | vmin (d : BitVec 5) (a : BitVec 5) (b : BitVec 5) (m : BitVec 3) (t : BitVec 3)
  /-- Lane-wise maximum (R117). -/
  | vmax (d : BitVec 5) (a : BitVec 5) (b : BitVec 5) (m : BitVec 3) (t : BitVec 3)
  /-- Lane-wise bitwise AND (R117). -/
  | vand (d : BitVec 5) (a : BitVec 5) (b : BitVec 5) (m : BitVec 3) (t : BitVec 3)
  /-- Lane-wise bitwise OR (R117). -/
  | vor (d : BitVec 5) (a : BitVec 5) (b : BitVec 5) (m : BitVec 3) (t : BitVec 3)
  /-- Lane-wise bitwise XOR (R117). -/
  | vxor (d : BitVec 5) (a : BitVec 5) (b : BitVec 5) (m : BitVec 3) (t : BitVec 3)
  /-- Lane-wise shift left by the low bits of b (R117). -/
  | vshl (d : BitVec 5) (a : BitVec 5) (b : BitVec 5) (m : BitVec 3) (t : BitVec 3)
  /-- Lane-wise shift right, arithmetic or logical by type (R117). -/
  | vshr (d : BitVec 5) (a : BitVec 5) (b : BitVec 5) (m : BitVec 3) (t : BitVec 3)
  /-- Writes a mask of lanes where a equals b (R120). -/
  | vceq (d : BitVec 3) (a : BitVec 5) (b : BitVec 5) (m : BitVec 3) (t : BitVec 3)
  /-- Writes a mask of lanes where a is less than b (R120). -/
  | vclt (d : BitVec 3) (a : BitVec 5) (b : BitVec 5) (m : BitVec 3) (t : BitVec 3)
  /-- Writes a mask of lanes where a is at most b (R120). -/
  | vcle (d : BitVec 3) (a : BitVec 5) (b : BitVec 5) (m : BitVec 3) (t : BitVec 3)
  /-- Selects each lane from va or vb by a select mask (R121). -/
  | vsel (d : BitVec 5) (a : BitVec 5) (b : BitVec 5) (m : BitVec 3) (t : BitVec 3)
  /-- Lane-wise absolute value (R117). -/
  | vabs (d : BitVec 5) (a : BitVec 5) (m : BitVec 3) (t : BitVec 3)
  /-- Lane-wise negation (R117). -/
  | vneg (d : BitVec 5) (a : BitVec 5) (m : BitVec 3) (t : BitVec 3)
  /-- Lane-wise correctly rounded reciprocal (R119). -/
  | vrcp (d : BitVec 5) (a : BitVec 5) (m : BitVec 3) (t : BitVec 3)
  /-- Lane-wise reciprocal square root (R119). -/
  | vrsq (d : BitVec 5) (a : BitVec 5) (m : BitVec 3) (t : BitVec 3)
  /-- Lane-wise base-2 exponential (R119). -/
  | vexp2 (d : BitVec 5) (a : BitVec 5) (m : BitVec 3) (t : BitVec 3)
  /-- Lane-wise base-2 logarithm (R119). -/
  | vlog2 (d : BitVec 5) (a : BitVec 5) (m : BitVec 3) (t : BitVec 3)
  /-- Lane-wise square root (R119). -/
  | vsqrt (d : BitVec 5) (a : BitVec 5) (m : BitVec 3) (t : BitVec 3)
  /-- Lane-wise division (R117). -/
  | vdiv (d : BitVec 5) (a : BitVec 5) (b : BitVec 5) (m : BitVec 3) (t : BitVec 3)
  /-- Adds a broadcast g value to each lane (R117). -/
  | vaddg (d : BitVec 5) (a : BitVec 5) (b : BitVec 5) (m : BitVec 3) (t : BitVec 3)
  /-- Multiplies each lane by a broadcast g value (R117). -/
  | vmulg (d : BitVec 5) (a : BitVec 5) (b : BitVec 5) (m : BitVec 3) (t : BitVec 3)
  /-- Fused multiply-add with a broadcast g value (R117). -/
  | vfmag (d : BitVec 5) (a : BitVec 5) (b : BitVec 5) (m : BitVec 3) (t : BitVec 3)
  /-- Lane-wise minimum with a broadcast g value (R117). -/
  | vming (d : BitVec 5) (a : BitVec 5) (b : BitVec 5) (m : BitVec 3) (t : BitVec 3)
  /-- Lane-wise maximum with a broadcast g value (R117). -/
  | vmaxg (d : BitVec 5) (a : BitVec 5) (b : BitVec 5) (m : BitVec 3) (t : BitVec 3)
  /-- Broadcasts a g value into the active lanes (R121). -/
  | vmovg (d : BitVec 5) (b : BitVec 5) (m : BitVec 3) (t : BitVec 3)
  /-- Extracts one lane into a g register (R121). -/
  | vext (d : BitVec 5) (a : BitVec 5) (b : BitVec 5) (t : BitVec 3)
  /-- Inserts a g value into one lane (R121). -/
  | vins (d : BitVec 5) (a : BitVec 5) (b : BitVec 5) (t : BitVec 3)
  /-- Narrows 16 F32 lanes into one BF16 half of vd (R123). -/
  | vcvtBf16F32 (d : BitVec 5) (a : BitVec 5) (h : BitVec 1) (m : BitVec 3)
  /-- Widens one BF16 half of va to 16 F32 lanes (R123). -/
  | vcvtF32Bf16 (d : BitVec 5) (a : BitVec 5) (h : BitVec 1) (m : BitVec 3)
  /-- Narrows 16 F32 lanes into one F16 half of vd (R123). -/
  | vcvtF16F32 (d : BitVec 5) (a : BitVec 5) (h : BitVec 1) (m : BitVec 3)
  /-- Widens one F16 half of va to F32 (R123). -/
  | vcvtF32F16 (d : BitVec 5) (a : BitVec 5) (h : BitVec 1) (m : BitVec 3)
  /-- Narrows 16 F32 lanes into one E4M3 quarter of vd (R123). -/
  | vcvtE4m3F32 (d : BitVec 5) (a : BitVec 5) (q : BitVec 2) (m : BitVec 3)
  /-- Widens one E4M3 quarter of va to F32 (R123). -/
  | vcvtF32E4m3 (d : BitVec 5) (a : BitVec 5) (q : BitVec 2) (m : BitVec 3)
  /-- Narrows 16 F32 lanes into one E5M2 quarter of vd (R123). -/
  | vcvtE5m2F32 (d : BitVec 5) (a : BitVec 5) (q : BitVec 2) (m : BitVec 3)
  /-- Widens one E5M2 quarter of va to F32 (R123). -/
  | vcvtF32E5m2 (d : BitVec 5) (a : BitVec 5) (q : BitVec 2) (m : BitVec 3)
  /-- Converts 16 F32 lanes to S32 (R124). -/
  | vcvtS32F32 (d : BitVec 5) (a : BitVec 5) (m : BitVec 3)
  /-- Converts 16 S32 lanes to F32 (R124). -/
  | vcvtF32S32 (d : BitVec 5) (a : BitVec 5) (m : BitVec 3)
  /-- Saturates 16 S32 lanes into one S8 quarter of vd (R124). -/
  | vcvtS8S32 (d : BitVec 5) (a : BitVec 5) (q : BitVec 2) (m : BitVec 3)
  /-- Encodes 32 BF16 lanes into one BFP-k block (R125). -/
  | bfpenc (d : BitVec 5) (a : BitVec 5) (m : BitVec 3) (k : BitVec 3)
  /-- Decodes one BFP-k block into 32 BF16 lanes (R125). -/
  | bfpdec (d : BitVec 5) (a : BitVec 5) (m : BitVec 3) (k : BitVec 3)
  /-- Loads 64 bytes from an attached bank (R129). -/
  | vldL (d : BitVec 5) (a : BitVec 5) (b : BitVec 5) (m : BitVec 3) (t : BitVec 3)
  /-- Stores the active lanes' bytes into an attached bank (R129). -/
  | vstL (d : BitVec 5) (a : BitVec 5) (b : BitVec 5) (m : BitVec 3) (t : BitVec 3)
  /-- Loads 64 bytes of global memory as a plain load (R128). -/
  | vldG (d : BitVec 5) (a : BitVec 5) (b : BitVec 5) (m : BitVec 3) (t : BitVec 3)
  /-- Stores the active lanes to global memory as one access at the home slice (R128). -/
  | vstG (d : BitVec 5) (a : BitVec 5) (b : BitVec 5) (m : BitVec 3) (t : BitVec 3)
  /-- Loads each active lane from a strided global address (R128). -/
  | vlds (d : BitVec 5) (a : BitVec 5) (b : BitVec 5) (m : BitVec 3) (t : BitVec 3)
  /-- Gathers 32-bit lanes from local addresses given by vb (R130). -/
  | vgathL (d : BitVec 5) (a : BitVec 5) (b : BitVec 5) (m : BitVec 3) (t : BitVec 3)
  /-- Scatters 32-bit lanes to local addresses given by vb (R130). -/
  | vscatL (d : BitVec 5) (a : BitVec 5) (b : BitVec 5) (m : BitVec 3) (t : BitVec 3)
  /-- Permutes lanes of va by indices in vb (R133). -/
  | vperm (d : BitVec 5) (a : BitVec 5) (b : BitVec 5) (m : BitVec 3) (t : BitVec 3)
  /-- Sums the active lanes into a g register with one rounding (R134). -/
  | vredsum (d : BitVec 5) (a : BitVec 5) (m : BitVec 3) (t : BitVec 3)
  /-- Writes the largest active lane to a g register (R134). -/
  | vredmax (d : BitVec 5) (a : BitVec 5) (m : BitVec 3) (t : BitVec 3)
  /-- Writes the smallest active lane to a g register (R134). -/
  | vredmin (d : BitVec 5) (a : BitVec 5) (m : BitVec 3) (t : BitVec 3)
  /-- ANDs two mask registers (R135). -/
  | mand (d : BitVec 3) (a : BitVec 3) (b : BitVec 3)
  /-- ORs two mask registers (R135). -/
  | mor (d : BitVec 3) (a : BitVec 3) (b : BitVec 3)
  /-- Inverts a mask register (R135). -/
  | mnot (d : BitVec 3) (a : BitVec 3)
  /-- Counts the set bits of a mask below the lane count (R135). -/
  | mpop (d : BitVec 5) (a : BitVec 3) (t : BitVec 3)
  /-- Opens a window of dual semantics over the next instructions (R60). -/
  | dual (w : BitVec 3) (p : BitVec 2)
  /-- Copies a tangent plane of a register into a primal register (R298). -/
  | dget (d : BitVec 5) (a : BitVec 5) (c : BitVec 1) (p : BitVec 2)
  /-- Copies a primal register into a tangent plane (R298). -/
  | dset (d : BitVec 5) (a : BitVec 5) (c : BitVec 1) (p : BitVec 2)
  /-- Clears named tangent planes of one register (R298). -/
  | dclr (d : BitVec 5) (c : BitVec 1) (p : BitVec 2)
  /-- Clears named tangent planes of every register of a class (R298). -/
  | dclrAll (c : BitVec 1) (p : BitVec 2)
  /-- Checks and queues a BF16 tile multiply-accumulate (R237). -/
  | mmaBf16 (d : BitVec 5) (a : BitVec 5) (b : BitVec 5) (c : BitVec 5) (e : BitVec 2) (o : BitVec 1)
  /-- Checks and queues an FP16 tile multiply-accumulate (R237). -/
  | mmaF16 (d : BitVec 5) (a : BitVec 5) (b : BitVec 5) (c : BitVec 5) (e : BitVec 2) (o : BitVec 1)
  /-- Checks and queues an E4M3 tile multiply-accumulate (R237). -/
  | mmaE4m3 (d : BitVec 5) (a : BitVec 5) (b : BitVec 5) (c : BitVec 5) (e : BitVec 2) (o : BitVec 1)
  /-- Checks and queues an E5M2 tile multiply-accumulate (R237). -/
  | mmaE5m2 (d : BitVec 5) (a : BitVec 5) (b : BitVec 5) (c : BitVec 5) (e : BitVec 2) (o : BitVec 1)
  /-- Checks and queues a mixed E4M3 by E5M2 tile multiply-accumulate (R237). -/
  | mmaE4e5 (d : BitVec 5) (a : BitVec 5) (b : BitVec 5) (c : BitVec 5) (e : BitVec 2) (o : BitVec 1)
  /-- Checks and queues a BFP-k tile multiply-accumulate (R237). -/
  | mmaBfp (d : BitVec 5) (a : BitVec 5) (b : BitVec 5) (c : BitVec 5) (e : BitVec 2) (o : BitVec 1) (k : BitVec 3)
  /-- Checks and queues an S8 integer tile multiply-accumulate (R237). -/
  | mmaS8 (d : BitVec 5) (a : BitVec 5) (b : BitVec 5) (e : BitVec 2)
  /-- Queues a zeroing of a 32x32 tile (R245). -/
  | mzero (d : BitVec 5) (e : BitVec 2) (w : BitVec 1)
  /-- Queues a transpose of a 32x32 tile (R245). -/
  | mtrn (d : BitVec 5) (a : BitVec 5) (e : BitVec 2) (w : BitVec 1)
  /-- Attaches a fresh scrubbed bank to a slot within quota (R160). -/
  | batt (d : BitVec 5) (sl : BitVec 3)
  /-- Marks a slot Outgoing and returns its bank after the drain (R161). -/
  | bdet (sl : BitVec 3)
  /-- Hands a slot's bank to a slot of another core of the cluster after the drain (R162). -/
  | hover (d : BitVec 5) (a : BitVec 5) (t : BitVec 3) (sl : BitVec 3)
  /-- Waits until a slot is Attached (R165). -/
  | bwait (sl : BitVec 3)
  /-- Writes the slot state word to g[d] (R166). -/
  | bqry (d : BitVec 5) (sl : BitVec 3)
  /-- Writes one field of a TC register (R255). -/
  | tcset (a : BitVec 5) (f : BitVec 3) (t : BitVec 2)
  /-- Captures, checks and issues a tile command word to the copy engine (R256). -/
  | tcissue (a : BitVec 5) (t : BitVec 2)
  /-- Writes the state of the last copy issued from a TC register (R260). -/
  | tcqry (d : BitVec 5) (t : BitVec 2)
  /-- Checks a destination word and sends a guidon opening a route (R316). -/
  | sopen (a : BitVec 5) (p : BitVec 2)
  /-- Sends one 64-byte data flit on an open route once a credit is held (R317). -/
  | ssend (a : BitVec 5) (v : BitVec 1) (p : BitVec 2)
  /-- Sends a furl flit and closes the send port (R318). -/
  | sclose (p : BitVec 2)
  /-- Waits for ring progress or a furl, then writes the ring word and acquires (R321). -/
  | recv (d : BitVec 5) (p : BitVec 2)
  /-- Frees ring bytes and returns credits to the route (R320). -/
  | rrls (a : BitVec 5) (p : BitVec 2)
  /-- Configures or unconfigures a receive port's ring (R319). -/
  | rring (a : BitVec 5) (b : BitVec 5) (p : BitVec 2)
  /-- Arrives at a barrier channel with a vote after a release (R274). -/
  | barr (a : BitVec 5) (h : BitVec 3)
  /-- Waits for the superstep to complete and delivers the vote result (R275). -/
  | barw (d : BitVec 5) (h : BitVec 3)
  /-- Waits like BARW, or checkpoints and speculates past an incomplete barrier (R281). -/
  | barws (d : BitVec 5) (h : BitVec 3)
  /-- Reads the cluster's membership or arrival bitmap and S (R277). -/
  | barq (d : BitVec 5) (q : BitVec 1) (h : BitVec 3)
  /-- Arrives with the identity vote and leaves the channel at completion (R274). -/
  | barl (h : BitVec 3)
  /-- Claims one iteration and serves a pending split request (R140). -/
  | rtnext (d : BitVec 5)
  /-- Releases and appends a launch record to its queue, returning a status (R329). -/
  | tspawn (d : BitVec 5) (a : BitVec 5)
  /-- Ends the bound task after drains, residual delivery and release (R142). -/
  | tdone
  /-- Parks the bound task in favour of another bindable task, or acts as NOP (R143). -/
  | yield
  /-- Releases and drops dispatcher-cached records or TCBs, acting on resume or abandon requests (R344). -/
  | tsync (a : BitVec 5)
  /-- Raises the ECALL trap (R354). -/
  | ecall
  /-- Raises the BREAK trap (R354). -/
  | ebreak
  /-- Restores STATUS from ESCR and returns to EPC (R355). -/
  | eret
  /-- Stalls until an interrupt is pending, a pre-emption begins or the context ends (R356). -/
  | wfi
  /-- Releases and removes translations in a scope, completing on every acknowledgement (R369). -/
  | tlbinv (a : BitVec 5) (sc : BitVec 3) (f : BitVec 2)
  /-- Stops the issuing system-core thread set until a start arrives (R357). -/
  | halt
  /-- Reads a control word into g[d] (R110). -/
  | crd (d : BitVec 5) (imm : BitVec 10)
  /-- Writes g[a] to a control word (R110). -/
  | cwr (a : BitVec 5) (imm : BitVec 10)
  /-- Sets the bits of g[a] in a control word in one step (R110). -/
  | csetb (a : BitVec 5) (imm : BitVec 10)
  /-- Clears the bits of g[a] in a control word in one step (R110). -/
  | cclrb (a : BitVec 5) (imm : BitVec 10)
  /-- A pending interrupt or CONTEXT_TERMINATED is taken at an instruction boundary (R353). -/
  | interruptDelivery (tk : Nat)
  /-- A multi-cycle result such as a divide or FP operation becomes ready for dependants (R86). -/
  | resultReady (tk : Nat)
  /-- After 4096 counted quiet cc the tangent planes are gated (R27). -/
  | planeGating (tk : Nat)
  /-- After 40 cc the gated planes are awake and the stalled instruction proceeds (R28). -/
  | planeWakeDone (tk : Nat)
  /-- The home slice or a replica serves a load request (R99). -/
  | homeLoadServe (r : Req)
  /-- A load reply arrives, writes its destination and may fill L1 (R87). -/
  | loadReply (r : Req)
  /-- The home slice applies a store, sending any abort before acknowledging (R185). -/
  | homeStoreApply (r : Req)
  /-- Replica dies acknowledge invalidation so the home performs the waiting write (R183). -/
  | replicaCollapseAck (r : Req)
  /-- The home slice performs an AMO in one step and replies with the old value (R188). -/
  | amoSliceApply (r : Req)
  /-- The AMO reply arrives and writes g[d], then acquires if ordered (R188). -/
  | amoReply (r : Req)
  /-- A waiting release is performed once earlier accesses and residual messages are applied (R186). -/
  | releasePerformed (tk : Nat)
  /-- A reduction request at the home slice is accepted and applied or refused (R192). -/
  | redArrival (r : Req)
  /-- A refused addend returns to its core and is forwarded, merged or entered in the residual tile (R308). -/
  | refusalReturn (r : Req)
  /-- A forced residual message is applied at the home slice, waiting for a queue entry (R194). -/
  | forcedMessageApply (r : Req)
  /-- A residual entry reaching age 4096 cc is sent by forced message (R194). -/
  | residualAgeExpiry (core : Nat)
  /-- Every 1024 cc the slices begin a new reduction quota window (R192). -/
  | quotaWindowStart
  /-- A reduction queue entry carries its merged value to the array and frees (R191). -/
  | reductionQueueDrain (slice : Nat)
  /-- The home slice adds to a counter, checks overflow and wakes registered waiters (R198). -/
  | sigaddApply (r : Req)
  /-- A woken or satisfied WAITGE writes the observed value and acquires (R199). -/
  | waitgeWake (tk : Nat)
  /-- A WAITGE without a waiter entry re-reads its counter every 1024 cc (R199). -/
  | waitgeRepoll (tk : Nat)
  /-- A wait clock exceeding WLIMIT raises WAIT_TIMEOUT (R145). -/
  | waitTimeout (tk : Nat)
  /-- Every 1024 cc each context's BAL is refilled up to CAP, halved under THROT (R152). -/
  | energyRefill
  /-- The arbiter binds an eligible queue head to a free lane group and debits BAL (R234). -/
  | tensorBind (cluster : Nat)
  /-- A lane group ends its occupancy and the write-back of D begins (R240). -/
  | mmaOccupancyEnd (cluster lane : Nat)
  /-- After write-back and earlier retirements the tensor operation retires and delivers flags (R240). -/
  | mmaRetire (cc entry : Nat)
  /-- The copy engine starts a burst chosen by priority and round-robin (R259). -/
  | copyBurstStart (cluster : Nat)
  /-- A burst's bytes are performed and its counter addition is released (R257). -/
  | copyBurstComplete (cc entry burst : Nat)
  /-- A copy with all bursts and additions done retires in order and frees its entry (R257). -/
  | copyRetire (cc entry : Nat)
  /-- A page walk ends with a translation, a fault or a restart, updating A and D (R366). -/
  | pageWalkDone (w : WalkReq)
  /-- A non-resident bank becomes resident and stalled accesses proceed (R172). -/
  | bankRefillDone (cc slot : Nat)
  /-- A scrub ends after 1024 cc, raising SGEN and freeing the bank (R170). -/
  | bankScrubDone (cluster bank : Nat)
  /-- A BATT stalled for a free bank attaches one when it frees (R160). -/
  | battWake (tk : Nat)
  /-- After the drain the bank moves to the target slot in one step (R163). -/
  | hoverTableStep (tk : Nat)
  /-- After the drain the slot empties and the bank goes to scrubbing (R161). -/
  | bdetTableStep (tk : Nat)
  /-- A waiting BWAIT completes after its slot is filled (R165). -/
  | bwaitWake (tk : Nat)
  /-- After BARR's release, the arrival is registered and its vote combined (R274). -/
  | barrierArrival (v : Arrival)
  /-- A waiting BARW or BARWS completes once its state is done (R275). -/
  | barwWake (tk : Nat)
  /-- The completion reaches a speculating member, which commits and drains held stores (R287). -/
  | specCommit (tk : Nat)
  /-- An abort reaches a speculating member, which restores its checkpoint and waits again (R286). -/
  | specAbort (tk ch gen : Nat)
  /-- A guidon binds an unbound configured receive port and returns credits, or waits (R316). -/
  | guidonArrival (f : Flit)
  /-- A data flit lands in the ring and the tail advances by 64 (R315). -/
  | dataFlitLand (f : Flit)
  /-- A furl flit unbinds the receive port and sets FURL (R318). -/
  | furlLand (f : Flit)
  /-- A pause flit releases the links while the port stays bound (R322). -/
  | pauseFlitLand (f : Flit)
  /-- Credits reach the sender, releasing stalled SSENDs (R320). -/
  | creditArrival (cc port n : Nat)
  /-- A route whose hold clock passes the limit, or whose slot is empty, is torn (R322). -/
  | routeTear (cc port : Nat)
  /-- A waiting RECV completes after tail progress or a furl (R321). -/
  | recvWake (tk : Nat)
  /-- A host write of a new TAIL appends entries to a queue or sets ERR (R327). -/
  | hostDoorbell (fn q : Nat) (tail : BitVec 64)
  /-- The dispatcher takes a queue head, checks it and creates its initial tasks (R331). -/
  | admission (part : Nat)
  /-- An admission waiting on PREDN, a counter, channels or TCBs proceeds (R331). -/
  | admissionWaitEnd (part : Nat)
  /-- The dispatcher binds a candidate task to an Idle thread set (R339). -/
  | taskBind (pos : Nat)
  /-- An Idle thread set with no candidate places a split request on a victim (R341). -/
  | splitRequest (pos : Nat)
  /-- A split request unmet for 1024 cc is withdrawn (R341). -/
  | splitWithdrawTimeout (part tcb : Nat)
  /-- A WAITGE past the yield threshold is parked for a lower-ordinal task (R342). -/
  | yieldPark (tk : Nat)
  /-- A waiting fault-queue entry is written when the ring has room (R334). -/
  | faultQueueWrite (part : Nat)
  /-- The dispatcher acknowledges a TSYNC, ending its stall (R344). -/
  | tsyncAck (tk : Nat)
  /-- The append status returns and ends TSPAWN's stall (R329). -/
  | tspawnStatus (tk : Nat)
  /-- Streams the named CID into the standby place, evicting the standby first (R359). -/
  | cnextLoad (core cid : Nat)
  /-- Requests pre-emption of the active context in favour of the standby (R359). -/
  | cnextSwitch (core : Nat)
  /-- Posts interrupt lines 0-5 to a thread-set position of a context (R359). -/
  | ipost (lines : BitVec 8) (pos cid : Nat)
  /-- At quantum end the active context is pre-empted and the standby issues within 100 cc (R361). -/
  | preemption (core : Nat)
  /-- A context image finishes streaming in or out (R360). -/
  | contextStreamEnd (core : Nat)
  /-- Starts termination of a CID, or sets TERR (R426). -/
  | ctermGo (die cid : Nat)
  /-- Termination steps 1-4 complete, TBUSY clears and CONTEXT_TERMINATED is posted (R364). -/
  | terminationDone (die : Nat)
  /-- A cluster acknowledges a TLBINV after removals and draining accesses (R369). -/
  | tlbinvAck (tk cluster : Nat)
  /-- Starts quiescing every die of the partition (R379). -/
  | pctlQuiesce (die : Nat)
  /-- Checks the new layout and moves the partition to RESUMING, or sets RES (R380). -/
  | pctlResume (die : Nat)
  /-- Returns a quiescing partition to RUN (R378). -/
  | pctlAbort (die : Nat)
  /-- QBUSY non-zero for QTIMEOUT·1024 cc returns the partition to RUN with BUSY (R378). -/
  | quiesceTimeout (part : Nat)
  /-- Once QBUSY is 0, contexts are pre-empted, caches written back and the state becomes QUIESCED (R379). -/
  | quiesceDrain (part : Nat)
  /-- A resuming partition enters RUN (R378). -/
  | resumeDone (part : Nat)
  /-- Starts a shoot-down of every translation and dispatcher cache of the die (R375). -/
  | shootGo (die : Nat)
  /-- A shoot-down ends, clearing SBUSY and setting DONE unless a layout write intervened (R375). -/
  | shootdownDone (die : Nat)
  /-- A store to a memory-mapped register with no behaviour of its own updates its RW fields (R7). -/
  | registerWrite (pa : Nat) (val : BitVec 64)
  /-- Signals MSI-X vectors 48-61 of the partition's function (R385). -/
  | hnote (cluster : Nat) (note : BitVec 14)
  /-- A host posted write through BAR2 is performed at the home slices (R383). -/
  | hostBar2Write (fn off : Nat) (data : List (BitVec 8))
  /-- A host read through BAR2 is served, or aborted when the partition is not in RUN (R383). -/
  | hostBar2Read (fn off len : Nat)
  /-- A host ATS translation request is answered from the HOST context's tables (R383). -/
  | atsRequest (fn : Nat) (va : BitVec 64) (write : Bool)
  /-- An Ethernet frame arrives; foreign EtherTypes go to the system cores (R386). -/
  | ethFrameArrival (port etype : Nat) (data : List (BitVec 8))
  /-- A transport request arrives at the peer and is performed, replayed or held (R389). -/
  | transportRequest (n : NetReq)
  /-- A transport reply arrives at the requester and counts its bytes (R390). -/
  | transportReply (n : NetReq)
  /-- A request without reply after 65536 cc is resent or fails after 16 sends (R389). -/
  | transportRetransmit (part dst seq : Nat)
  /-- The root adds an NRED contribution and sends the sum at the count (R393). -/
  | nredContribution (n : NetReq)
  /-- An NRED instance past its deadline sends partial sums with TIMEOUT (R393). -/
  | nredDeadline (part tag : Nat)
  /-- A PMC wrapping sets PMOVF and may freeze, interrupt or trace (R401). -/
  | pmcOverflow (tk idx : Nat)
  /-- Arms a domain stop at the channel's next completion (R410). -/
  | dstopArm (ch : Nat)
  /-- When every member is settled the stop lands and members take interrupt 0x87 (R410). -/
  | domainStopLand (ch : Nat)
  /-- The background scrub reads storage and corrects or reports errors (R412). -/
  | scrubRead (e : ErrorFound)
  /-- A parity error in per-context state stops the context and writes a fatal record (R418). -/
  | parityError (e : ErrorFound)
  /-- A mesh or ring link failing after retries is partition-fatal (R411). -/
  | linkFailure (die cluster : Nat)
  /-- A kept severe record is written when the record ring has room (R415). -/
  | errorRecordFlush (die : Nat)
  /-- A severe or quarantine record raises MACHINE_CHECK on system core 0 (R417). -/
  | machineCheck (die rec : Nat)
  /-- Releases a held line with its recovered value and serves held accesses (R421). -/
  | mcrel (die rec : Nat)
  /-- Reset sets every die OFF, halts the system cores and starts image listening (R431). -/
  | powerOnReset
  /-- A complete boot image arrives in frames of the ROM's EtherType: the Ethernet port and the image (R431). -/
  | imageArrivalEth (data : Nat × List (BitVec 8))
  /-- Submits the BAR4 window as a boot image for checking (R384). -/
  | imggo
  /-- Image verification ends, rejecting it or loading stages and starting system cores (R433). -/
  | imageCheckDone
  /-- A start on the service ring resumes a halted system core (R436). -/
  | systemCoreStart (die unit : Nat) (pc arg : BitVec 64)
  /-- Requests an attestation report over NONCE (R438). -/
  | attgo (host : Bool) (nonce : BitVec 512)
  /-- Jostauth finishes signing a report and sets REPRDY (R438). -/
  | attestationDone
  /-- The partition manager extends PM7 over the service ring (R434). -/
  | pm7Extend (item : List (BitVec 8))
  /-- The partition manager appends an entry to Jostauth's repair list (R432). -/
  | repairListAppend (item : BitVec 64)
  /-- A sag sensor trips and the package clock is stretched on all dies (R439). -/
  | sagDetect (die lag len : Nat)
  /-- 64 cc after the last sag the stretch ends (R439). -/
  | stretchEnd
  /-- In every cc the package cycle count, CYCLE, STRETCH and wait clocks advance, each thread set's PMCs count the events of that cc, and each core chooses a Ready thread set by its round-robin pointer (R401). -/
  | coreClockCycle
  /-- A word that is not an instruction (reserved major, reserved sub-code, bad field) reaches decode and raises ILLEGAL_INSN (R64). -/
  | notAnInstruction (w : BitVec 32)
  /-- The fetch of the first word at pc raises PAGE_FAULT_X or matches a fetch watchpoint before the word is decoded (R65). -/
  | instructionFetch
  /-- A store that changes PART, NBOUND or MILV of a die clears SHOOT.DONE and keeps a running shoot-down from setting it (R374). -/
  | partNboundMilvWrite (die off : Nat) (val : BitVec 64)
  /-- A host write to the MSI-X table of BAR0 that unmasks a vector whose pending bit is set sends the held message (R385). -/
  | msixTableWrite (fn off : Nat) (val : BitVec 64)
  deriving DecidableEq, Repr

end Sys2Proof
end

