-- ==== Sys2Proof/WellFormed.lean ====
section
/-! DEFINITION. Which instruction terms the spec's words can stand for: reserved field values and fields that must be
zero (03 R47-R60, R64). Events have no encoding and are always well formed. -/

namespace Sys2Proof.WellFormed

/-- FOP precision codes 10 and 11 are reserved (R47). -/
def precOk (p : BitVec 2) : Bool := p.toNat < 2
/-- Load size 111 is reserved (R48). -/
def loadSizeOk (z : BitVec 3) : Bool := z.toNat < 7
/-- LD qualifier 11 is reserved (R48). -/
def loadQualOk (q : BitVec 2) : Bool := q.toNat < 3
/-- ST qualifiers 10 and 11 are reserved (R48). -/
def storeQualOk (q : BitVec 2) : Bool := q.toNat < 2
/-- Scope codes 5-7 are reserved (R49). -/
def scopeOk (sc : BitVec 3) : Bool := sc.toNat < 5
/-- FENCE kinds 4-31 are reserved (R50). -/
def fenceKindOk (k : BitVec 5) : Bool := k.toNat < 4
/-- FENCE holds its scope code in the b field (R50). -/
def fenceScopeOk (sc : BitVec 5) : Bool := sc.toNat < 5
/-- TLBINV form 3 is reserved, and `.all` names no register (R59). -/
def tlbFormOk (f : BitVec 2) (a : BitVec 5) : Bool := f.toNat < 2 || (f.toNat == 2 && a.toNat == 0)
/-- A body of 0, or a register count with bits [11:5] set, is illegal (R52). -/
def spanOk (b : BitVec 12) (c : BitVec 1) (n : BitVec 12) : Bool :=
  b.toNat != 0 && (c.toNat == 0 || n.toNat < 32)
/-- Types F32, BF16 and F16 (R53). -/
def floatType (t : BitVec 3) : Bool := t.toNat < 3
/-- The integer types S32 to Z8 (R53). -/
def intType (t : BitVec 3) : Bool := 3 ≤ t.toNat
/-- The 32-bit types F32, S32 and Z32 (R55). -/
def wordType (t : BitVec 3) : Bool := t.toNat == 0 || t.toNat == 3 || t.toNat == 6
/-- m0 as a destination is illegal (R24, R53, R56). -/
def maskDst (d : BitVec 3) : Bool := d.toNat != 0
/-- k - 2 = 7 is reserved (R54, R58). -/
def bfpOk (k : BitVec 3) : Bool := k.toNat < 7
/-- Planes 00 is illegal (R57, R60). -/
def planesOk (p : BitVec 2) : Bool := p.toNat != 0
/-- DGET and DSET name one plane (R57). -/
def onePlane (p : BitVec 2) : Bool := p.toNat == 1 || p.toNat == 2

end Sys2Proof.WellFormed

namespace Sys2Proof
open WellFormed

/-- The checks of R64 on an instruction's fields. -/
def Instr.wf : Instr → Bool
  | .add _ _ _ => true
  | .sub _ _ _ => true
  | .and _ _ _ => true
  | .or _ _ _ => true
  | .xor _ _ _ => true
  | .andn _ _ _ => true
  | .sll _ _ _ => true
  | .srl _ _ _ => true
  | .sra _ _ _ => true
  | .ror _ _ _ => true
  | .slt _ _ _ => true
  | .sltu _ _ _ => true
  | .min _ _ _ => true
  | .max _ _ _ => true
  | .minu _ _ _ => true
  | .maxu _ _ _ => true
  | .mul _ _ _ => true
  | .mulh _ _ _ => true
  | .mulhu _ _ _ => true
  | .mulhsu _ _ _ => true
  | .div _ _ _ => true
  | .divu _ _ _ => true
  | .rem _ _ _ => true
  | .remu _ _ _ => true
  | .clz _ _ => true
  | .ctz _ _ => true
  | .popc _ _ => true
  | .sextB _ _ => true
  | .sextH _ _ => true
  | .sextW _ _ => true
  | .zextH _ _ => true
  | .zextW _ _ => true
  | .addw _ _ _ => true
  | .subw _ _ _ => true
  | .addLit _ _ _ => true
  | .subLit _ _ _ => true
  | .andLit _ _ _ => true
  | .orLit _ _ _ => true
  | .xorLit _ _ _ => true
  | .andnLit _ _ _ => true
  | .sllLit _ _ _ => true
  | .srlLit _ _ _ => true
  | .sraLit _ _ _ => true
  | .rorLit _ _ _ => true
  | .sltLit _ _ _ => true
  | .sltuLit _ _ _ => true
  | .minLit _ _ _ => true
  | .maxLit _ _ _ => true
  | .minuLit _ _ _ => true
  | .maxuLit _ _ _ => true
  | .mulLit _ _ _ => true
  | .mulhLit _ _ _ => true
  | .mulhuLit _ _ _ => true
  | .mulhsuLit _ _ _ => true
  | .divLit _ _ _ => true
  | .divuLit _ _ _ => true
  | .remLit _ _ _ => true
  | .remuLit _ _ _ => true
  | .addwLit _ _ _ => true
  | .subwLit _ _ _ => true
  | .addi _ _ _ => true
  | .andi _ _ _ => true
  | .ori _ _ _ => true
  | .xori _ _ _ => true
  | .slti _ _ _ => true
  | .sltiu _ _ _ => true
  | .slli _ _ _ => true
  | .srli _ _ _ => true
  | .srai _ _ _ => true
  | .rori _ _ _ => true
  | .lui _ _ => true
  | .addpc _ _ => true
  | .fadd _ _ _ p => precOk p
  | .fsub _ _ _ p => precOk p
  | .fmul _ _ _ p => precOk p
  | .fdiv _ _ _ p => precOk p
  | .fsqrt _ _ p => precOk p
  | .fmin _ _ _ p => precOk p
  | .fmax _ _ _ p => precOk p
  | .fsgnj _ _ _ p => precOk p
  | .fsgnjn _ _ _ p => precOk p
  | .fsgnjx _ _ _ p => precOk p
  | .feq _ _ _ p => precOk p
  | .flt _ _ _ p => precOk p
  | .fle _ _ _ p => precOk p
  | .fclass _ _ p => precOk p
  | .fcvtS _ _ p => precOk p
  | .fcvtZ _ _ p => precOk p
  | .fcvtfS _ _ p => precOk p
  | .fcvtfZ _ _ p => precOk p
  | .fcvtp _ _ p => precOk p
  | .fmadd _ _ _ p => precOk p
  | .fmsub _ _ _ p => precOk p
  | .fnmadd _ _ _ p => precOk p
  | .fcvtSt _ _ p => precOk p
  | .faddLit _ _ p _ => precOk p
  | .fsubLit _ _ p _ => precOk p
  | .fmulLit _ _ p _ => precOk p
  | .fdivLit _ _ p _ => precOk p
  | .fminLit _ _ p _ => precOk p
  | .fmaxLit _ _ p _ => precOk p
  | .fsgnjLit _ _ p _ => precOk p
  | .fsgnjnLit _ _ p _ => precOk p
  | .fsgnjxLit _ _ p _ => precOk p
  | .feqLit _ _ p _ => precOk p
  | .fltLit _ _ p _ => precOk p
  | .fleLit _ _ p _ => precOk p
  | .fmaddLit _ _ p _ => precOk p
  | .fmsubLit _ _ p _ => precOk p
  | .fnmaddLit _ _ p _ => precOk p
  | .ld _ _ z q _ => loadSizeOk z && loadQualOk q
  | .st _ _ _ q _ => storeQualOk q
  | .ldl _ _ z _ => loadSizeOk z
  | .stl _ _ _ _ => true
  | .amoSwap _ _ _ _ _ sc => scopeOk sc
  | .amoAdd _ _ _ _ _ sc => scopeOk sc
  | .amoAnd _ _ _ _ _ sc => scopeOk sc
  | .amoOr _ _ _ _ _ sc => scopeOk sc
  | .amoXor _ _ _ _ _ sc => scopeOk sc
  | .amoMin _ _ _ _ _ sc => scopeOk sc
  | .amoMax _ _ _ _ _ sc => scopeOk sc
  | .amoMinu _ _ _ _ _ sc => scopeOk sc
  | .amoMaxu _ _ _ _ _ sc => scopeOk sc
  | .amoCas _ _ _ _ _ sc => scopeOk sc
  | .redAddF32 _ _ _ => true
  | .redAddBf16 _ _ _ => true
  | .redAddS32 _ _ _ => true
  | .redAddS64 _ _ _ => true
  | .redMaxF32 _ _ _ => true
  | .redMinF32 _ _ _ => true
  | .fence k sc => fenceKindOk k && fenceScopeOk sc
  | .sigadd _ _ => true
  | .waitge _ _ _ => true
  | .ctrrd _ _ => true
  | .rflush => true
  | .discard _ => true
  | .l1inv => true
  | .beq _ _ _ => true
  | .bne _ _ _ => true
  | .blt _ _ _ => true
  | .bge _ _ _ => true
  | .bltu _ _ _ => true
  | .bgeu _ _ _ => true
  | .jal _ _ => true
  | .jalr _ _ _ => true
  | .lspan _ c b n => spanOk b c n
  | .lexit _ => true
  | .ldis _ => true
  | .vadd _ _ _ _ _ => true
  | .vsub _ _ _ _ _ => true
  | .vmul _ _ _ _ _ => true
  | .vfma _ _ _ _ t => floatType t
  | .vfms _ _ _ _ t => floatType t
  | .vmin _ _ _ _ _ => true
  | .vmax _ _ _ _ _ => true
  | .vand _ _ _ _ t => intType t
  | .vor _ _ _ _ t => intType t
  | .vxor _ _ _ _ t => intType t
  | .vshl _ _ _ _ t => intType t
  | .vshr _ _ _ _ t => intType t
  | .vceq d _ _ _ _ => maskDst d
  | .vclt d _ _ _ _ => maskDst d
  | .vcle d _ _ _ _ => maskDst d
  | .vsel _ _ _ _ _ => true
  | .vabs _ _ _ _ => true
  | .vneg _ _ _ _ => true
  | .vrcp _ _ _ t => floatType t
  | .vrsq _ _ _ t => floatType t
  | .vexp2 _ _ _ t => floatType t
  | .vlog2 _ _ _ t => floatType t
  | .vsqrt _ _ _ t => floatType t
  | .vdiv _ _ _ _ t => floatType t
  | .vaddg _ _ _ _ _ => true
  | .vmulg _ _ _ _ _ => true
  | .vfmag _ _ _ _ t => floatType t
  | .vming _ _ _ _ _ => true
  | .vmaxg _ _ _ _ _ => true
  | .vmovg _ _ _ _ => true
  | .vext _ _ _ _ => true
  | .vins _ _ _ _ => true
  | .vcvtBf16F32 _ _ _ _ => true
  | .vcvtF32Bf16 _ _ _ _ => true
  | .vcvtF16F32 _ _ _ _ => true
  | .vcvtF32F16 _ _ _ _ => true
  | .vcvtE4m3F32 _ _ _ _ => true
  | .vcvtF32E4m3 _ _ _ _ => true
  | .vcvtE5m2F32 _ _ _ _ => true
  | .vcvtF32E5m2 _ _ _ _ => true
  | .vcvtS32F32 _ _ _ => true
  | .vcvtF32S32 _ _ _ => true
  | .vcvtS8S32 _ _ _ _ => true
  | .bfpenc _ _ _ k => bfpOk k
  | .bfpdec _ _ _ k => bfpOk k
  | .vldL _ _ _ _ _ => true
  | .vstL _ _ _ _ _ => true
  | .vldG _ _ _ _ _ => true
  | .vstG _ _ _ _ _ => true
  | .vlds _ _ _ _ _ => true
  | .vgathL _ _ _ _ t => wordType t
  | .vscatL _ _ _ _ t => wordType t
  | .vperm _ _ _ _ _ => true
  | .vredsum _ _ _ _ => true
  | .vredmax _ _ _ _ => true
  | .vredmin _ _ _ _ => true
  | .mand d _ _ => maskDst d
  | .mor d _ _ => maskDst d
  | .mnot d _ => maskDst d
  | .mpop _ _ _ => true
  | .dual _ p => planesOk p
  | .dget _ _ _ p => onePlane p
  | .dset _ _ _ p => onePlane p
  | .dclr _ _ p => planesOk p
  | .dclrAll _ p => planesOk p
  | .mmaBf16 _ _ _ _ _ _ => true
  | .mmaF16 _ _ _ _ _ _ => true
  | .mmaE4m3 _ _ _ _ _ _ => true
  | .mmaE5m2 _ _ _ _ _ _ => true
  | .mmaE4e5 _ _ _ _ _ _ => true
  | .mmaBfp _ _ _ _ _ _ k => bfpOk k
  | .mmaS8 _ _ _ _ => true
  | .mzero _ _ _ => true
  | .mtrn _ _ _ _ => true
  | .batt _ _ => true
  | .bdet _ => true
  | .hover _ _ _ _ => true
  | .bwait _ => true
  | .bqry _ _ => true
  | .tcset _ _ _ => true
  | .tcissue _ _ => true
  | .tcqry _ _ => true
  | .sopen _ _ => true
  | .ssend _ _ _ => true
  | .sclose _ => true
  | .recv _ _ => true
  | .rrls _ _ => true
  | .rring _ _ _ => true
  | .barr _ _ => true
  | .barw _ _ => true
  | .barws _ _ => true
  | .barq _ _ _ => true
  | .barl _ => true
  | .rtnext _ => true
  | .tspawn _ _ => true
  | .tdone => true
  | .yield => true
  | .tsync _ => true
  | .ecall => true
  | .ebreak => true
  | .eret => true
  | .wfi => true
  | .tlbinv a sc f => scopeOk sc && tlbFormOk f a
  | .halt => true
  | .crd _ _ => true
  | .cwr _ _ => true
  | .csetb _ _ => true
  | .cclrb _ _ => true
  | .interruptDelivery _ => true
  | .resultReady _ => true
  | .planeGating _ => true
  | .planeWakeDone _ => true
  | .homeLoadServe _ => true
  | .loadReply _ => true
  | .homeStoreApply _ => true
  | .replicaCollapseAck _ => true
  | .amoSliceApply _ => true
  | .amoReply _ => true
  | .releasePerformed _ => true
  | .redArrival _ => true
  | .refusalReturn _ => true
  | .forcedMessageApply _ => true
  | .residualAgeExpiry _ => true
  | .quotaWindowStart => true
  | .reductionQueueDrain _ => true
  | .sigaddApply _ => true
  | .waitgeWake _ => true
  | .waitgeRepoll _ => true
  | .waitTimeout _ => true
  | .energyRefill => true
  | .tensorBind _ => true
  | .mmaOccupancyEnd _ _ => true
  | .mmaRetire _ _ => true
  | .copyBurstStart _ => true
  | .copyBurstComplete _ _ _ => true
  | .copyRetire _ _ => true
  | .pageWalkDone _ => true
  | .bankRefillDone _ _ => true
  | .bankScrubDone _ _ => true
  | .battWake _ => true
  | .hoverTableStep _ => true
  | .bdetTableStep _ => true
  | .bwaitWake _ => true
  | .barrierArrival _ => true
  | .barwWake _ => true
  | .specCommit _ => true
  | .specAbort _ _ _ => true
  | .guidonArrival _ => true
  | .dataFlitLand _ => true
  | .furlLand _ => true
  | .pauseFlitLand _ => true
  | .creditArrival _ _ _ => true
  | .routeTear _ _ => true
  | .recvWake _ => true
  | .hostDoorbell _ _ _ => true
  | .admission _ => true
  | .admissionWaitEnd _ => true
  | .taskBind _ => true
  | .splitRequest _ => true
  | .splitWithdrawTimeout _ _ => true
  | .yieldPark _ => true
  | .faultQueueWrite _ => true
  | .tsyncAck _ => true
  | .tspawnStatus _ => true
  | .cnextLoad _ _ => true
  | .cnextSwitch _ => true
  | .ipost _ _ _ => true
  | .preemption _ => true
  | .contextStreamEnd _ => true
  | .ctermGo _ _ => true
  | .terminationDone _ => true
  | .tlbinvAck _ _ => true
  | .pctlQuiesce _ => true
  | .pctlResume _ => true
  | .pctlAbort _ => true
  | .quiesceTimeout _ => true
  | .quiesceDrain _ => true
  | .resumeDone _ => true
  | .shootGo _ => true
  | .shootdownDone _ => true
  | .registerWrite _ _ => true
  | .hnote _ _ => true
  | .hostBar2Write _ _ _ => true
  | .hostBar2Read _ _ _ => true
  | .atsRequest _ _ _ => true
  | .ethFrameArrival _ _ _ => true
  | .transportRequest _ => true
  | .transportReply _ => true
  | .transportRetransmit _ _ _ => true
  | .nredContribution _ => true
  | .nredDeadline _ _ => true
  | .pmcOverflow _ _ => true
  | .dstopArm _ => true
  | .domainStopLand _ => true
  | .scrubRead _ => true
  | .parityError _ => true
  | .linkFailure _ _ => true
  | .errorRecordFlush _ => true
  | .machineCheck _ _ => true
  | .mcrel _ _ => true
  | .powerOnReset => true
  | .imageArrivalEth _ => true
  | .imggo => true
  | .imageCheckDone => true
  | .systemCoreStart _ _ _ _ => true
  | .attgo _ _ => true
  | .attestationDone => true
  | .pm7Extend _ => true
  | .repairListAppend _ => true
  | .sagDetect _ lag _ => decide (lag ≤ 4)
  | .stretchEnd => true
  | .coreClockCycle => true
  | .notAnInstruction _ => true
  | .instructionFetch => true
  | .partNboundMilvWrite _ _ _ => true
  | .msixTableWrite _ _ _ => true

end Sys2Proof
end

