-- ==== Sys2Proof/Decode.lean ====
section
/-! DEFINITION. Decoding, total on any words, rejecting by name; then the encoder, from the same tables (03 R42-R64).
Words are handled as naturals with bit 31 the most significant (R5), so that a field is a quotient and a remainder. -/

namespace Sys2Proof

/-- Why a word is no instruction (R64). -/
inductive DecodeError where
  | illegalMajor      -- majors 0x00, 0x3F and the reserved ones
  | reservedCode      -- a reserved fn or sub-code
  | nonzeroField      -- a field that must be zero is not, or L = 1 where no literal is taken
  | reservedValue     -- a reserved field value, a type not accepted, or m0 as a destination
  | truncated         -- fewer bytes than the instruction has
  deriving DecidableEq, Repr

/-- `n` bits of the word `w` from bit `lo` on. -/
def fld (w lo n : Nat) : BitVec n := BitVec.ofNat n (w / 2 ^ lo)

/-- Major 0x01. -/
def decodeOpr (w : Nat) (lit : BitVec 32) : Except DecodeError Instr :=
  let fn := w / 2 ^ 0 % 2 ^ 10
  if fn = 0 then (if w / 2 ^ 10 % 2 = 1 then (if w / 2 ^ 11 % 2 ^ 5 = 0 then .ok (.addLit (fld w 21 5) (fld w 16 5) lit) else .error .nonzeroField) else (.ok (.add (fld w 21 5) (fld w 16 5) (fld w 11 5))))
  else if fn = 1 then (if w / 2 ^ 10 % 2 = 1 then (if w / 2 ^ 11 % 2 ^ 5 = 0 then .ok (.subLit (fld w 21 5) (fld w 16 5) lit) else .error .nonzeroField) else (.ok (.sub (fld w 21 5) (fld w 16 5) (fld w 11 5))))
  else if fn = 2 then (if w / 2 ^ 10 % 2 = 1 then (if w / 2 ^ 11 % 2 ^ 5 = 0 then .ok (.andLit (fld w 21 5) (fld w 16 5) lit) else .error .nonzeroField) else (.ok (.and (fld w 21 5) (fld w 16 5) (fld w 11 5))))
  else if fn = 3 then (if w / 2 ^ 10 % 2 = 1 then (if w / 2 ^ 11 % 2 ^ 5 = 0 then .ok (.orLit (fld w 21 5) (fld w 16 5) lit) else .error .nonzeroField) else (.ok (.or (fld w 21 5) (fld w 16 5) (fld w 11 5))))
  else if fn = 4 then (if w / 2 ^ 10 % 2 = 1 then (if w / 2 ^ 11 % 2 ^ 5 = 0 then .ok (.xorLit (fld w 21 5) (fld w 16 5) lit) else .error .nonzeroField) else (.ok (.xor (fld w 21 5) (fld w 16 5) (fld w 11 5))))
  else if fn = 5 then (if w / 2 ^ 10 % 2 = 1 then (if w / 2 ^ 11 % 2 ^ 5 = 0 then .ok (.andnLit (fld w 21 5) (fld w 16 5) lit) else .error .nonzeroField) else (.ok (.andn (fld w 21 5) (fld w 16 5) (fld w 11 5))))
  else if fn = 6 then (if w / 2 ^ 10 % 2 = 1 then (if w / 2 ^ 11 % 2 ^ 5 = 0 then .ok (.sllLit (fld w 21 5) (fld w 16 5) lit) else .error .nonzeroField) else (.ok (.sll (fld w 21 5) (fld w 16 5) (fld w 11 5))))
  else if fn = 7 then (if w / 2 ^ 10 % 2 = 1 then (if w / 2 ^ 11 % 2 ^ 5 = 0 then .ok (.srlLit (fld w 21 5) (fld w 16 5) lit) else .error .nonzeroField) else (.ok (.srl (fld w 21 5) (fld w 16 5) (fld w 11 5))))
  else if fn = 8 then (if w / 2 ^ 10 % 2 = 1 then (if w / 2 ^ 11 % 2 ^ 5 = 0 then .ok (.sraLit (fld w 21 5) (fld w 16 5) lit) else .error .nonzeroField) else (.ok (.sra (fld w 21 5) (fld w 16 5) (fld w 11 5))))
  else if fn = 9 then (if w / 2 ^ 10 % 2 = 1 then (if w / 2 ^ 11 % 2 ^ 5 = 0 then .ok (.rorLit (fld w 21 5) (fld w 16 5) lit) else .error .nonzeroField) else (.ok (.ror (fld w 21 5) (fld w 16 5) (fld w 11 5))))
  else if fn = 10 then (if w / 2 ^ 10 % 2 = 1 then (if w / 2 ^ 11 % 2 ^ 5 = 0 then .ok (.sltLit (fld w 21 5) (fld w 16 5) lit) else .error .nonzeroField) else (.ok (.slt (fld w 21 5) (fld w 16 5) (fld w 11 5))))
  else if fn = 11 then (if w / 2 ^ 10 % 2 = 1 then (if w / 2 ^ 11 % 2 ^ 5 = 0 then .ok (.sltuLit (fld w 21 5) (fld w 16 5) lit) else .error .nonzeroField) else (.ok (.sltu (fld w 21 5) (fld w 16 5) (fld w 11 5))))
  else if fn = 12 then (if w / 2 ^ 10 % 2 = 1 then (if w / 2 ^ 11 % 2 ^ 5 = 0 then .ok (.minLit (fld w 21 5) (fld w 16 5) lit) else .error .nonzeroField) else (.ok (.min (fld w 21 5) (fld w 16 5) (fld w 11 5))))
  else if fn = 13 then (if w / 2 ^ 10 % 2 = 1 then (if w / 2 ^ 11 % 2 ^ 5 = 0 then .ok (.maxLit (fld w 21 5) (fld w 16 5) lit) else .error .nonzeroField) else (.ok (.max (fld w 21 5) (fld w 16 5) (fld w 11 5))))
  else if fn = 14 then (if w / 2 ^ 10 % 2 = 1 then (if w / 2 ^ 11 % 2 ^ 5 = 0 then .ok (.minuLit (fld w 21 5) (fld w 16 5) lit) else .error .nonzeroField) else (.ok (.minu (fld w 21 5) (fld w 16 5) (fld w 11 5))))
  else if fn = 15 then (if w / 2 ^ 10 % 2 = 1 then (if w / 2 ^ 11 % 2 ^ 5 = 0 then .ok (.maxuLit (fld w 21 5) (fld w 16 5) lit) else .error .nonzeroField) else (.ok (.maxu (fld w 21 5) (fld w 16 5) (fld w 11 5))))
  else if fn = 16 then (if w / 2 ^ 10 % 2 = 1 then (if w / 2 ^ 11 % 2 ^ 5 = 0 then .ok (.mulLit (fld w 21 5) (fld w 16 5) lit) else .error .nonzeroField) else (.ok (.mul (fld w 21 5) (fld w 16 5) (fld w 11 5))))
  else if fn = 17 then (if w / 2 ^ 10 % 2 = 1 then (if w / 2 ^ 11 % 2 ^ 5 = 0 then .ok (.mulhLit (fld w 21 5) (fld w 16 5) lit) else .error .nonzeroField) else (.ok (.mulh (fld w 21 5) (fld w 16 5) (fld w 11 5))))
  else if fn = 18 then (if w / 2 ^ 10 % 2 = 1 then (if w / 2 ^ 11 % 2 ^ 5 = 0 then .ok (.mulhuLit (fld w 21 5) (fld w 16 5) lit) else .error .nonzeroField) else (.ok (.mulhu (fld w 21 5) (fld w 16 5) (fld w 11 5))))
  else if fn = 19 then (if w / 2 ^ 10 % 2 = 1 then (if w / 2 ^ 11 % 2 ^ 5 = 0 then .ok (.mulhsuLit (fld w 21 5) (fld w 16 5) lit) else .error .nonzeroField) else (.ok (.mulhsu (fld w 21 5) (fld w 16 5) (fld w 11 5))))
  else if fn = 20 then (if w / 2 ^ 10 % 2 = 1 then (if w / 2 ^ 11 % 2 ^ 5 = 0 then .ok (.divLit (fld w 21 5) (fld w 16 5) lit) else .error .nonzeroField) else (.ok (.div (fld w 21 5) (fld w 16 5) (fld w 11 5))))
  else if fn = 21 then (if w / 2 ^ 10 % 2 = 1 then (if w / 2 ^ 11 % 2 ^ 5 = 0 then .ok (.divuLit (fld w 21 5) (fld w 16 5) lit) else .error .nonzeroField) else (.ok (.divu (fld w 21 5) (fld w 16 5) (fld w 11 5))))
  else if fn = 22 then (if w / 2 ^ 10 % 2 = 1 then (if w / 2 ^ 11 % 2 ^ 5 = 0 then .ok (.remLit (fld w 21 5) (fld w 16 5) lit) else .error .nonzeroField) else (.ok (.rem (fld w 21 5) (fld w 16 5) (fld w 11 5))))
  else if fn = 23 then (if w / 2 ^ 10 % 2 = 1 then (if w / 2 ^ 11 % 2 ^ 5 = 0 then .ok (.remuLit (fld w 21 5) (fld w 16 5) lit) else .error .nonzeroField) else (.ok (.remu (fld w 21 5) (fld w 16 5) (fld w 11 5))))
  else if fn = 24 then (if w / 2 ^ 10 % 2 ^ 6 = 0 then .ok (.clz (fld w 21 5) (fld w 16 5)) else .error .nonzeroField)
  else if fn = 25 then (if w / 2 ^ 10 % 2 ^ 6 = 0 then .ok (.ctz (fld w 21 5) (fld w 16 5)) else .error .nonzeroField)
  else if fn = 26 then (if w / 2 ^ 10 % 2 ^ 6 = 0 then .ok (.popc (fld w 21 5) (fld w 16 5)) else .error .nonzeroField)
  else if fn = 27 then (if w / 2 ^ 10 % 2 ^ 6 = 0 then .ok (.sextB (fld w 21 5) (fld w 16 5)) else .error .nonzeroField)
  else if fn = 28 then (if w / 2 ^ 10 % 2 ^ 6 = 0 then .ok (.sextH (fld w 21 5) (fld w 16 5)) else .error .nonzeroField)
  else if fn = 29 then (if w / 2 ^ 10 % 2 ^ 6 = 0 then .ok (.sextW (fld w 21 5) (fld w 16 5)) else .error .nonzeroField)
  else if fn = 30 then (if w / 2 ^ 10 % 2 ^ 6 = 0 then .ok (.zextH (fld w 21 5) (fld w 16 5)) else .error .nonzeroField)
  else if fn = 31 then (if w / 2 ^ 10 % 2 ^ 6 = 0 then .ok (.zextW (fld w 21 5) (fld w 16 5)) else .error .nonzeroField)
  else if fn = 32 then (if w / 2 ^ 10 % 2 = 1 then (if w / 2 ^ 11 % 2 ^ 5 = 0 then .ok (.addwLit (fld w 21 5) (fld w 16 5) lit) else .error .nonzeroField) else (.ok (.addw (fld w 21 5) (fld w 16 5) (fld w 11 5))))
  else if fn = 33 then (if w / 2 ^ 10 % 2 = 1 then (if w / 2 ^ 11 % 2 ^ 5 = 0 then .ok (.subwLit (fld w 21 5) (fld w 16 5) lit) else .error .nonzeroField) else (.ok (.subw (fld w 21 5) (fld w 16 5) (fld w 11 5))))
  else .error .reservedCode

/-- Major 0x08. -/
def decodeShi (w : Nat) : Except DecodeError Instr :=
  let fn := w / 2 ^ 14 % 2 ^ 2
  if fn = 0 then (if w / 2 ^ 6 % 2 ^ 8 = 0 then .ok (.slli (fld w 21 5) (fld w 16 5) (fld w 0 6)) else .error .nonzeroField)
  else if fn = 1 then (if w / 2 ^ 6 % 2 ^ 8 = 0 then .ok (.srli (fld w 21 5) (fld w 16 5) (fld w 0 6)) else .error .nonzeroField)
  else if fn = 2 then (if w / 2 ^ 6 % 2 ^ 8 = 0 then .ok (.srai (fld w 21 5) (fld w 16 5) (fld w 0 6)) else .error .nonzeroField)
  else if fn = 3 then (if w / 2 ^ 6 % 2 ^ 8 = 0 then .ok (.rori (fld w 21 5) (fld w 16 5) (fld w 0 6)) else .error .nonzeroField)
  else .error .reservedCode

/-- Major 0x0B. -/
def decodeFop (w : Nat) (lit : BitVec 32) : Except DecodeError Instr :=
  let fn := w / 2 ^ 0 % 2 ^ 8
  if fn = 0 then (if w / 2 ^ 10 % 2 = 1 then (if w / 2 ^ 11 % 2 ^ 5 = 0 then .ok (.faddLit (fld w 21 5) (fld w 16 5) (fld w 8 2) lit) else .error .nonzeroField) else (.ok (.fadd (fld w 21 5) (fld w 16 5) (fld w 11 5) (fld w 8 2))))
  else if fn = 1 then (if w / 2 ^ 10 % 2 = 1 then (if w / 2 ^ 11 % 2 ^ 5 = 0 then .ok (.fsubLit (fld w 21 5) (fld w 16 5) (fld w 8 2) lit) else .error .nonzeroField) else (.ok (.fsub (fld w 21 5) (fld w 16 5) (fld w 11 5) (fld w 8 2))))
  else if fn = 2 then (if w / 2 ^ 10 % 2 = 1 then (if w / 2 ^ 11 % 2 ^ 5 = 0 then .ok (.fmulLit (fld w 21 5) (fld w 16 5) (fld w 8 2) lit) else .error .nonzeroField) else (.ok (.fmul (fld w 21 5) (fld w 16 5) (fld w 11 5) (fld w 8 2))))
  else if fn = 3 then (if w / 2 ^ 10 % 2 = 1 then (if w / 2 ^ 11 % 2 ^ 5 = 0 then .ok (.fdivLit (fld w 21 5) (fld w 16 5) (fld w 8 2) lit) else .error .nonzeroField) else (.ok (.fdiv (fld w 21 5) (fld w 16 5) (fld w 11 5) (fld w 8 2))))
  else if fn = 4 then (if w / 2 ^ 10 % 2 ^ 6 = 0 then .ok (.fsqrt (fld w 21 5) (fld w 16 5) (fld w 8 2)) else .error .nonzeroField)
  else if fn = 5 then (if w / 2 ^ 10 % 2 = 1 then (if w / 2 ^ 11 % 2 ^ 5 = 0 then .ok (.fminLit (fld w 21 5) (fld w 16 5) (fld w 8 2) lit) else .error .nonzeroField) else (.ok (.fmin (fld w 21 5) (fld w 16 5) (fld w 11 5) (fld w 8 2))))
  else if fn = 6 then (if w / 2 ^ 10 % 2 = 1 then (if w / 2 ^ 11 % 2 ^ 5 = 0 then .ok (.fmaxLit (fld w 21 5) (fld w 16 5) (fld w 8 2) lit) else .error .nonzeroField) else (.ok (.fmax (fld w 21 5) (fld w 16 5) (fld w 11 5) (fld w 8 2))))
  else if fn = 7 then (if w / 2 ^ 10 % 2 = 1 then (if w / 2 ^ 11 % 2 ^ 5 = 0 then .ok (.fsgnjLit (fld w 21 5) (fld w 16 5) (fld w 8 2) lit) else .error .nonzeroField) else (.ok (.fsgnj (fld w 21 5) (fld w 16 5) (fld w 11 5) (fld w 8 2))))
  else if fn = 8 then (if w / 2 ^ 10 % 2 = 1 then (if w / 2 ^ 11 % 2 ^ 5 = 0 then .ok (.fsgnjnLit (fld w 21 5) (fld w 16 5) (fld w 8 2) lit) else .error .nonzeroField) else (.ok (.fsgnjn (fld w 21 5) (fld w 16 5) (fld w 11 5) (fld w 8 2))))
  else if fn = 9 then (if w / 2 ^ 10 % 2 = 1 then (if w / 2 ^ 11 % 2 ^ 5 = 0 then .ok (.fsgnjxLit (fld w 21 5) (fld w 16 5) (fld w 8 2) lit) else .error .nonzeroField) else (.ok (.fsgnjx (fld w 21 5) (fld w 16 5) (fld w 11 5) (fld w 8 2))))
  else if fn = 10 then (if w / 2 ^ 10 % 2 = 1 then (if w / 2 ^ 11 % 2 ^ 5 = 0 then .ok (.feqLit (fld w 21 5) (fld w 16 5) (fld w 8 2) lit) else .error .nonzeroField) else (.ok (.feq (fld w 21 5) (fld w 16 5) (fld w 11 5) (fld w 8 2))))
  else if fn = 11 then (if w / 2 ^ 10 % 2 = 1 then (if w / 2 ^ 11 % 2 ^ 5 = 0 then .ok (.fltLit (fld w 21 5) (fld w 16 5) (fld w 8 2) lit) else .error .nonzeroField) else (.ok (.flt (fld w 21 5) (fld w 16 5) (fld w 11 5) (fld w 8 2))))
  else if fn = 12 then (if w / 2 ^ 10 % 2 = 1 then (if w / 2 ^ 11 % 2 ^ 5 = 0 then .ok (.fleLit (fld w 21 5) (fld w 16 5) (fld w 8 2) lit) else .error .nonzeroField) else (.ok (.fle (fld w 21 5) (fld w 16 5) (fld w 11 5) (fld w 8 2))))
  else if fn = 13 then (if w / 2 ^ 10 % 2 ^ 6 = 0 then .ok (.fclass (fld w 21 5) (fld w 16 5) (fld w 8 2)) else .error .nonzeroField)
  else if fn = 14 then (if w / 2 ^ 10 % 2 ^ 6 = 0 then .ok (.fcvtS (fld w 21 5) (fld w 16 5) (fld w 8 2)) else .error .nonzeroField)
  else if fn = 15 then (if w / 2 ^ 10 % 2 ^ 6 = 0 then .ok (.fcvtZ (fld w 21 5) (fld w 16 5) (fld w 8 2)) else .error .nonzeroField)
  else if fn = 16 then (if w / 2 ^ 10 % 2 ^ 6 = 0 then .ok (.fcvtfS (fld w 21 5) (fld w 16 5) (fld w 8 2)) else .error .nonzeroField)
  else if fn = 17 then (if w / 2 ^ 10 % 2 ^ 6 = 0 then .ok (.fcvtfZ (fld w 21 5) (fld w 16 5) (fld w 8 2)) else .error .nonzeroField)
  else if fn = 18 then (if w / 2 ^ 10 % 2 ^ 6 = 0 then .ok (.fcvtp (fld w 21 5) (fld w 16 5) (fld w 8 2)) else .error .nonzeroField)
  else if fn = 19 then (if w / 2 ^ 10 % 2 = 1 then (if w / 2 ^ 11 % 2 ^ 5 = 0 then .ok (.fmaddLit (fld w 21 5) (fld w 16 5) (fld w 8 2) lit) else .error .nonzeroField) else (.ok (.fmadd (fld w 21 5) (fld w 16 5) (fld w 11 5) (fld w 8 2))))
  else if fn = 20 then (if w / 2 ^ 10 % 2 = 1 then (if w / 2 ^ 11 % 2 ^ 5 = 0 then .ok (.fmsubLit (fld w 21 5) (fld w 16 5) (fld w 8 2) lit) else .error .nonzeroField) else (.ok (.fmsub (fld w 21 5) (fld w 16 5) (fld w 11 5) (fld w 8 2))))
  else if fn = 21 then (if w / 2 ^ 10 % 2 = 1 then (if w / 2 ^ 11 % 2 ^ 5 = 0 then .ok (.fnmaddLit (fld w 21 5) (fld w 16 5) (fld w 8 2) lit) else .error .nonzeroField) else (.ok (.fnmadd (fld w 21 5) (fld w 16 5) (fld w 11 5) (fld w 8 2))))
  else if fn = 22 then (if w / 2 ^ 10 % 2 ^ 6 = 0 then .ok (.fcvtSt (fld w 21 5) (fld w 16 5) (fld w 8 2)) else .error .nonzeroField)
  else .error .reservedCode

/-- Major 0x10. -/
def decodeAmo (w : Nat) : Except DecodeError Instr :=
  let fn := w / 2 ^ 6 % 2 ^ 4
  if fn = 0 then (if w / 2 ^ 10 % 2 ^ 1 = 0 then .ok (.amoSwap (fld w 21 5) (fld w 16 5) (fld w 11 5) (fld w 5 1) (fld w 3 2) (fld w 0 3)) else .error .nonzeroField)
  else if fn = 1 then (if w / 2 ^ 10 % 2 ^ 1 = 0 then .ok (.amoAdd (fld w 21 5) (fld w 16 5) (fld w 11 5) (fld w 5 1) (fld w 3 2) (fld w 0 3)) else .error .nonzeroField)
  else if fn = 2 then (if w / 2 ^ 10 % 2 ^ 1 = 0 then .ok (.amoAnd (fld w 21 5) (fld w 16 5) (fld w 11 5) (fld w 5 1) (fld w 3 2) (fld w 0 3)) else .error .nonzeroField)
  else if fn = 3 then (if w / 2 ^ 10 % 2 ^ 1 = 0 then .ok (.amoOr (fld w 21 5) (fld w 16 5) (fld w 11 5) (fld w 5 1) (fld w 3 2) (fld w 0 3)) else .error .nonzeroField)
  else if fn = 4 then (if w / 2 ^ 10 % 2 ^ 1 = 0 then .ok (.amoXor (fld w 21 5) (fld w 16 5) (fld w 11 5) (fld w 5 1) (fld w 3 2) (fld w 0 3)) else .error .nonzeroField)
  else if fn = 5 then (if w / 2 ^ 10 % 2 ^ 1 = 0 then .ok (.amoMin (fld w 21 5) (fld w 16 5) (fld w 11 5) (fld w 5 1) (fld w 3 2) (fld w 0 3)) else .error .nonzeroField)
  else if fn = 6 then (if w / 2 ^ 10 % 2 ^ 1 = 0 then .ok (.amoMax (fld w 21 5) (fld w 16 5) (fld w 11 5) (fld w 5 1) (fld w 3 2) (fld w 0 3)) else .error .nonzeroField)
  else if fn = 7 then (if w / 2 ^ 10 % 2 ^ 1 = 0 then .ok (.amoMinu (fld w 21 5) (fld w 16 5) (fld w 11 5) (fld w 5 1) (fld w 3 2) (fld w 0 3)) else .error .nonzeroField)
  else if fn = 8 then (if w / 2 ^ 10 % 2 ^ 1 = 0 then .ok (.amoMaxu (fld w 21 5) (fld w 16 5) (fld w 11 5) (fld w 5 1) (fld w 3 2) (fld w 0 3)) else .error .nonzeroField)
  else if fn = 9 then (if w / 2 ^ 10 % 2 ^ 1 = 0 then .ok (.amoCas (fld w 21 5) (fld w 16 5) (fld w 11 5) (fld w 5 1) (fld w 3 2) (fld w 0 3)) else .error .nonzeroField)
  else .error .reservedCode

/-- Major 0x11. -/
def decodeRed (w : Nat) : Except DecodeError Instr :=
  let fn := w / 2 ^ 6 % 2 ^ 3
  if fn = 0 then (if w / 2 ^ 0 % 2 ^ 6 = 0 ∧ w / 2 ^ 10 % 2 ^ 1 = 0 ∧ w / 2 ^ 21 % 2 ^ 11 = 544 then .ok (.redAddF32 (fld w 16 5) (fld w 11 5) (fld w 9 1)) else .error .nonzeroField)
  else if fn = 1 then (if w / 2 ^ 0 % 2 ^ 6 = 0 ∧ w / 2 ^ 10 % 2 ^ 1 = 0 ∧ w / 2 ^ 21 % 2 ^ 11 = 544 then .ok (.redAddBf16 (fld w 16 5) (fld w 11 5) (fld w 9 1)) else .error .nonzeroField)
  else if fn = 2 then (if w / 2 ^ 0 % 2 ^ 6 = 0 ∧ w / 2 ^ 10 % 2 ^ 1 = 0 ∧ w / 2 ^ 21 % 2 ^ 11 = 544 then .ok (.redAddS32 (fld w 16 5) (fld w 11 5) (fld w 9 1)) else .error .nonzeroField)
  else if fn = 3 then (if w / 2 ^ 0 % 2 ^ 6 = 0 ∧ w / 2 ^ 10 % 2 ^ 1 = 0 ∧ w / 2 ^ 21 % 2 ^ 11 = 544 then .ok (.redAddS64 (fld w 16 5) (fld w 11 5) (fld w 9 1)) else .error .nonzeroField)
  else if fn = 4 then (if w / 2 ^ 0 % 2 ^ 6 = 0 ∧ w / 2 ^ 10 % 2 ^ 1 = 0 ∧ w / 2 ^ 21 % 2 ^ 11 = 544 then .ok (.redMaxF32 (fld w 16 5) (fld w 11 5) (fld w 9 1)) else .error .nonzeroField)
  else if fn = 5 then (if w / 2 ^ 0 % 2 ^ 6 = 0 ∧ w / 2 ^ 10 % 2 ^ 1 = 0 ∧ w / 2 ^ 21 % 2 ^ 11 = 544 then .ok (.redMinF32 (fld w 16 5) (fld w 11 5) (fld w 9 1)) else .error .nonzeroField)
  else .error .reservedCode

/-- Major 0x12. -/
def decodeSync (w : Nat) : Except DecodeError Instr :=
  let fn := w / 2 ^ 0 % 2 ^ 10
  if fn = 0 then (if w / 2 ^ 10 % 2 ^ 1 = 0 ∧ w / 2 ^ 16 % 2 ^ 5 = 0 then .ok (.fence (fld w 21 5) (fld w 11 5)) else .error .nonzeroField)
  else if fn = 1 then (if w / 2 ^ 10 % 2 ^ 1 = 0 ∧ w / 2 ^ 21 % 2 ^ 11 = 576 then .ok (.sigadd (fld w 16 5) (fld w 11 5)) else .error .nonzeroField)
  else if fn = 2 then (if w / 2 ^ 10 % 2 ^ 1 = 0 then .ok (.waitge (fld w 21 5) (fld w 16 5) (fld w 11 5)) else .error .nonzeroField)
  else if fn = 3 then (if w / 2 ^ 10 % 2 ^ 6 = 0 then .ok (.ctrrd (fld w 21 5) (fld w 16 5)) else .error .nonzeroField)
  else if fn = 4 then (if w / 2 ^ 10 % 2 ^ 22 = 1179648 then .ok (.rflush) else .error .nonzeroField)
  else if fn = 5 then (if w / 2 ^ 10 % 2 ^ 6 = 0 ∧ w / 2 ^ 21 % 2 ^ 11 = 576 then .ok (.discard (fld w 16 5)) else .error .nonzeroField)
  else if fn = 6 then (if w / 2 ^ 10 % 2 ^ 22 = 1179648 then .ok (.l1inv) else .error .nonzeroField)
  else .error .reservedCode

/-- Major 0x1C. -/
def decodeLctl (w : Nat) : Except DecodeError Instr :=
  let fn := w / 2 ^ 1 % 2 ^ 2
  if fn = 0 then (if w / 2 ^ 3 % 2 ^ 29 = 234881024 then .ok (.lexit (fld w 0 1)) else .error .nonzeroField)
  else if fn = 1 then (if w / 2 ^ 3 % 2 ^ 29 = 234881024 then .ok (.ldis (fld w 0 1)) else .error .nonzeroField)
  else .error .reservedCode

/-- Major 0x20. -/
def decodeVop (w : Nat) : Except DecodeError Instr :=
  let fn := w / 2 ^ 0 % 2 ^ 5
  if fn = 0 then (.ok (.vadd (fld w 21 5) (fld w 16 5) (fld w 11 5) (fld w 8 3) (fld w 5 3)))
  else if fn = 1 then (.ok (.vsub (fld w 21 5) (fld w 16 5) (fld w 11 5) (fld w 8 3) (fld w 5 3)))
  else if fn = 2 then (.ok (.vmul (fld w 21 5) (fld w 16 5) (fld w 11 5) (fld w 8 3) (fld w 5 3)))
  else if fn = 3 then (.ok (.vfma (fld w 21 5) (fld w 16 5) (fld w 11 5) (fld w 8 3) (fld w 5 3)))
  else if fn = 4 then (.ok (.vfms (fld w 21 5) (fld w 16 5) (fld w 11 5) (fld w 8 3) (fld w 5 3)))
  else if fn = 5 then (.ok (.vmin (fld w 21 5) (fld w 16 5) (fld w 11 5) (fld w 8 3) (fld w 5 3)))
  else if fn = 6 then (.ok (.vmax (fld w 21 5) (fld w 16 5) (fld w 11 5) (fld w 8 3) (fld w 5 3)))
  else if fn = 7 then (.ok (.vand (fld w 21 5) (fld w 16 5) (fld w 11 5) (fld w 8 3) (fld w 5 3)))
  else if fn = 8 then (.ok (.vor (fld w 21 5) (fld w 16 5) (fld w 11 5) (fld w 8 3) (fld w 5 3)))
  else if fn = 9 then (.ok (.vxor (fld w 21 5) (fld w 16 5) (fld w 11 5) (fld w 8 3) (fld w 5 3)))
  else if fn = 10 then (.ok (.vshl (fld w 21 5) (fld w 16 5) (fld w 11 5) (fld w 8 3) (fld w 5 3)))
  else if fn = 11 then (.ok (.vshr (fld w 21 5) (fld w 16 5) (fld w 11 5) (fld w 8 3) (fld w 5 3)))
  else if fn = 12 then (if w / 2 ^ 24 % 2 ^ 8 = 128 then .ok (.vceq (fld w 21 3) (fld w 16 5) (fld w 11 5) (fld w 8 3) (fld w 5 3)) else .error .nonzeroField)
  else if fn = 13 then (if w / 2 ^ 24 % 2 ^ 8 = 128 then .ok (.vclt (fld w 21 3) (fld w 16 5) (fld w 11 5) (fld w 8 3) (fld w 5 3)) else .error .nonzeroField)
  else if fn = 14 then (if w / 2 ^ 24 % 2 ^ 8 = 128 then .ok (.vcle (fld w 21 3) (fld w 16 5) (fld w 11 5) (fld w 8 3) (fld w 5 3)) else .error .nonzeroField)
  else if fn = 15 then (.ok (.vsel (fld w 21 5) (fld w 16 5) (fld w 11 5) (fld w 8 3) (fld w 5 3)))
  else if fn = 16 then (if w / 2 ^ 11 % 2 ^ 5 = 0 then .ok (.vabs (fld w 21 5) (fld w 16 5) (fld w 8 3) (fld w 5 3)) else .error .nonzeroField)
  else if fn = 17 then (if w / 2 ^ 11 % 2 ^ 5 = 0 then .ok (.vneg (fld w 21 5) (fld w 16 5) (fld w 8 3) (fld w 5 3)) else .error .nonzeroField)
  else if fn = 18 then (if w / 2 ^ 11 % 2 ^ 5 = 0 then .ok (.vrcp (fld w 21 5) (fld w 16 5) (fld w 8 3) (fld w 5 3)) else .error .nonzeroField)
  else if fn = 19 then (if w / 2 ^ 11 % 2 ^ 5 = 0 then .ok (.vrsq (fld w 21 5) (fld w 16 5) (fld w 8 3) (fld w 5 3)) else .error .nonzeroField)
  else if fn = 20 then (if w / 2 ^ 11 % 2 ^ 5 = 0 then .ok (.vexp2 (fld w 21 5) (fld w 16 5) (fld w 8 3) (fld w 5 3)) else .error .nonzeroField)
  else if fn = 21 then (if w / 2 ^ 11 % 2 ^ 5 = 0 then .ok (.vlog2 (fld w 21 5) (fld w 16 5) (fld w 8 3) (fld w 5 3)) else .error .nonzeroField)
  else if fn = 22 then (if w / 2 ^ 11 % 2 ^ 5 = 0 then .ok (.vsqrt (fld w 21 5) (fld w 16 5) (fld w 8 3) (fld w 5 3)) else .error .nonzeroField)
  else if fn = 23 then (.ok (.vdiv (fld w 21 5) (fld w 16 5) (fld w 11 5) (fld w 8 3) (fld w 5 3)))
  else if fn = 24 then (.ok (.vaddg (fld w 21 5) (fld w 16 5) (fld w 11 5) (fld w 8 3) (fld w 5 3)))
  else if fn = 25 then (.ok (.vmulg (fld w 21 5) (fld w 16 5) (fld w 11 5) (fld w 8 3) (fld w 5 3)))
  else if fn = 26 then (.ok (.vfmag (fld w 21 5) (fld w 16 5) (fld w 11 5) (fld w 8 3) (fld w 5 3)))
  else if fn = 27 then (.ok (.vming (fld w 21 5) (fld w 16 5) (fld w 11 5) (fld w 8 3) (fld w 5 3)))
  else if fn = 28 then (.ok (.vmaxg (fld w 21 5) (fld w 16 5) (fld w 11 5) (fld w 8 3) (fld w 5 3)))
  else if fn = 29 then (if w / 2 ^ 16 % 2 ^ 5 = 0 then .ok (.vmovg (fld w 21 5) (fld w 11 5) (fld w 8 3) (fld w 5 3)) else .error .nonzeroField)
  else if fn = 30 then (if w / 2 ^ 8 % 2 ^ 3 = 0 then .ok (.vext (fld w 21 5) (fld w 16 5) (fld w 11 5) (fld w 5 3)) else .error .nonzeroField)
  else if fn = 31 then (if w / 2 ^ 8 % 2 ^ 3 = 0 then .ok (.vins (fld w 21 5) (fld w 16 5) (fld w 11 5) (fld w 5 3)) else .error .nonzeroField)
  else .error .reservedCode

/-- Major 0x21. -/
def decodeVcvt (w : Nat) : Except DecodeError Instr :=
  let fn := w / 2 ^ 0 % 2 ^ 5
  if fn = 0 then (if w / 2 ^ 5 % 2 ^ 3 = 0 ∧ w / 2 ^ 12 % 2 ^ 4 = 0 then .ok (.vcvtBf16F32 (fld w 21 5) (fld w 16 5) (fld w 11 1) (fld w 8 3)) else .error .nonzeroField)
  else if fn = 1 then (if w / 2 ^ 5 % 2 ^ 3 = 0 ∧ w / 2 ^ 12 % 2 ^ 4 = 0 then .ok (.vcvtF32Bf16 (fld w 21 5) (fld w 16 5) (fld w 11 1) (fld w 8 3)) else .error .nonzeroField)
  else if fn = 2 then (if w / 2 ^ 5 % 2 ^ 3 = 0 ∧ w / 2 ^ 12 % 2 ^ 4 = 0 then .ok (.vcvtF16F32 (fld w 21 5) (fld w 16 5) (fld w 11 1) (fld w 8 3)) else .error .nonzeroField)
  else if fn = 3 then (if w / 2 ^ 5 % 2 ^ 3 = 0 ∧ w / 2 ^ 12 % 2 ^ 4 = 0 then .ok (.vcvtF32F16 (fld w 21 5) (fld w 16 5) (fld w 11 1) (fld w 8 3)) else .error .nonzeroField)
  else if fn = 4 then (if w / 2 ^ 5 % 2 ^ 3 = 0 ∧ w / 2 ^ 13 % 2 ^ 3 = 0 then .ok (.vcvtE4m3F32 (fld w 21 5) (fld w 16 5) (fld w 11 2) (fld w 8 3)) else .error .nonzeroField)
  else if fn = 5 then (if w / 2 ^ 5 % 2 ^ 3 = 0 ∧ w / 2 ^ 13 % 2 ^ 3 = 0 then .ok (.vcvtF32E4m3 (fld w 21 5) (fld w 16 5) (fld w 11 2) (fld w 8 3)) else .error .nonzeroField)
  else if fn = 6 then (if w / 2 ^ 5 % 2 ^ 3 = 0 ∧ w / 2 ^ 13 % 2 ^ 3 = 0 then .ok (.vcvtE5m2F32 (fld w 21 5) (fld w 16 5) (fld w 11 2) (fld w 8 3)) else .error .nonzeroField)
  else if fn = 7 then (if w / 2 ^ 5 % 2 ^ 3 = 0 ∧ w / 2 ^ 13 % 2 ^ 3 = 0 then .ok (.vcvtF32E5m2 (fld w 21 5) (fld w 16 5) (fld w 11 2) (fld w 8 3)) else .error .nonzeroField)
  else if fn = 8 then (if w / 2 ^ 5 % 2 ^ 3 = 0 ∧ w / 2 ^ 11 % 2 ^ 5 = 0 then .ok (.vcvtS32F32 (fld w 21 5) (fld w 16 5) (fld w 8 3)) else .error .nonzeroField)
  else if fn = 9 then (if w / 2 ^ 5 % 2 ^ 3 = 0 ∧ w / 2 ^ 11 % 2 ^ 5 = 0 then .ok (.vcvtF32S32 (fld w 21 5) (fld w 16 5) (fld w 8 3)) else .error .nonzeroField)
  else if fn = 10 then (if w / 2 ^ 5 % 2 ^ 3 = 0 ∧ w / 2 ^ 13 % 2 ^ 3 = 0 then .ok (.vcvtS8S32 (fld w 21 5) (fld w 16 5) (fld w 11 2) (fld w 8 3)) else .error .nonzeroField)
  else if fn = 11 then (if w / 2 ^ 11 % 2 ^ 5 = 0 then .ok (.bfpenc (fld w 21 5) (fld w 16 5) (fld w 8 3) (fld w 5 3)) else .error .nonzeroField)
  else if fn = 12 then (if w / 2 ^ 11 % 2 ^ 5 = 0 then .ok (.bfpdec (fld w 21 5) (fld w 16 5) (fld w 8 3) (fld w 5 3)) else .error .nonzeroField)
  else .error .reservedCode

/-- Major 0x22. -/
def decodeVmem (w : Nat) : Except DecodeError Instr :=
  let fn := w / 2 ^ 0 % 2 ^ 5
  if fn = 0 then (.ok (.vldL (fld w 21 5) (fld w 16 5) (fld w 11 5) (fld w 8 3) (fld w 5 3)))
  else if fn = 1 then (.ok (.vstL (fld w 21 5) (fld w 16 5) (fld w 11 5) (fld w 8 3) (fld w 5 3)))
  else if fn = 2 then (.ok (.vldG (fld w 21 5) (fld w 16 5) (fld w 11 5) (fld w 8 3) (fld w 5 3)))
  else if fn = 3 then (.ok (.vstG (fld w 21 5) (fld w 16 5) (fld w 11 5) (fld w 8 3) (fld w 5 3)))
  else if fn = 4 then (.ok (.vlds (fld w 21 5) (fld w 16 5) (fld w 11 5) (fld w 8 3) (fld w 5 3)))
  else if fn = 5 then (.ok (.vgathL (fld w 21 5) (fld w 16 5) (fld w 11 5) (fld w 8 3) (fld w 5 3)))
  else if fn = 6 then (.ok (.vscatL (fld w 21 5) (fld w 16 5) (fld w 11 5) (fld w 8 3) (fld w 5 3)))
  else .error .reservedCode

/-- Major 0x23. -/
def decodeVprm (w : Nat) : Except DecodeError Instr :=
  let fn := w / 2 ^ 0 % 2 ^ 5
  if fn = 0 then (.ok (.vperm (fld w 21 5) (fld w 16 5) (fld w 11 5) (fld w 8 3) (fld w 5 3)))
  else if fn = 1 then (if w / 2 ^ 11 % 2 ^ 5 = 0 then .ok (.vredsum (fld w 21 5) (fld w 16 5) (fld w 8 3) (fld w 5 3)) else .error .nonzeroField)
  else if fn = 2 then (if w / 2 ^ 11 % 2 ^ 5 = 0 then .ok (.vredmax (fld w 21 5) (fld w 16 5) (fld w 8 3) (fld w 5 3)) else .error .nonzeroField)
  else if fn = 3 then (if w / 2 ^ 11 % 2 ^ 5 = 0 then .ok (.vredmin (fld w 21 5) (fld w 16 5) (fld w 8 3) (fld w 5 3)) else .error .nonzeroField)
  else if fn = 4 then (if w / 2 ^ 5 % 2 ^ 6 = 0 ∧ w / 2 ^ 14 % 2 ^ 2 = 0 ∧ w / 2 ^ 19 % 2 ^ 2 = 0 ∧ w / 2 ^ 24 % 2 ^ 8 = 140 then .ok (.mand (fld w 21 3) (fld w 16 3) (fld w 11 3)) else .error .nonzeroField)
  else if fn = 5 then (if w / 2 ^ 5 % 2 ^ 6 = 0 ∧ w / 2 ^ 14 % 2 ^ 2 = 0 ∧ w / 2 ^ 19 % 2 ^ 2 = 0 ∧ w / 2 ^ 24 % 2 ^ 8 = 140 then .ok (.mor (fld w 21 3) (fld w 16 3) (fld w 11 3)) else .error .nonzeroField)
  else if fn = 6 then (if w / 2 ^ 5 % 2 ^ 11 = 0 ∧ w / 2 ^ 19 % 2 ^ 2 = 0 ∧ w / 2 ^ 24 % 2 ^ 8 = 140 then .ok (.mnot (fld w 21 3) (fld w 16 3)) else .error .nonzeroField)
  else if fn = 7 then (if w / 2 ^ 8 % 2 ^ 8 = 0 ∧ w / 2 ^ 19 % 2 ^ 2 = 0 then .ok (.mpop (fld w 21 5) (fld w 16 3) (fld w 5 3)) else .error .nonzeroField)
  else .error .reservedCode

/-- Major 0x25. -/
def decodeDmov (w : Nat) : Except DecodeError Instr :=
  let fn := w / 2 ^ 0 % 2 ^ 2
  if fn = 0 then (if w / 2 ^ 5 % 2 ^ 11 = 0 then .ok (.dget (fld w 21 5) (fld w 16 5) (fld w 4 1) (fld w 2 2)) else .error .nonzeroField)
  else if fn = 1 then (if w / 2 ^ 5 % 2 ^ 11 = 0 then .ok (.dset (fld w 21 5) (fld w 16 5) (fld w 4 1) (fld w 2 2)) else .error .nonzeroField)
  else if fn = 2 then (if w / 2 ^ 5 % 2 = 1 then (if w / 2 ^ 6 % 2 ^ 26 = 38797312 then .ok (.dclrAll (fld w 4 1) (fld w 2 2)) else .error .nonzeroField) else (if w / 2 ^ 6 % 2 ^ 15 = 0 then .ok (.dclr (fld w 21 5) (fld w 4 1) (fld w 2 2)) else .error .nonzeroField))
  else .error .reservedCode

/-- Major 0x2F. -/
def decodeMaux (w : Nat) : Except DecodeError Instr :=
  let fn := w / 2 ^ 6 % 2 ^ 5
  if fn = 0 then (if w / 2 ^ 0 % 2 ^ 3 = 0 ∧ w / 2 ^ 11 % 2 ^ 10 = 0 then .ok (.mzero (fld w 21 5) (fld w 4 2) (fld w 3 1)) else .error .nonzeroField)
  else if fn = 1 then (if w / 2 ^ 0 % 2 ^ 3 = 0 ∧ w / 2 ^ 11 % 2 ^ 5 = 0 then .ok (.mtrn (fld w 21 5) (fld w 16 5) (fld w 4 2) (fld w 3 1)) else .error .nonzeroField)
  else .error .reservedCode

/-- Major 0x30. -/
def decodeBank (w : Nat) : Except DecodeError Instr :=
  let fn := w / 2 ^ 0 % 2 ^ 3
  if fn = 0 then (if w / 2 ^ 6 % 2 ^ 15 = 0 then .ok (.batt (fld w 21 5) (fld w 3 3)) else .error .nonzeroField)
  else if fn = 1 then (if w / 2 ^ 6 % 2 ^ 26 = 50331648 then .ok (.bdet (fld w 3 3)) else .error .nonzeroField)
  else if fn = 2 then (if w / 2 ^ 9 % 2 ^ 7 = 0 then .ok (.hover (fld w 21 5) (fld w 16 5) (fld w 6 3) (fld w 3 3)) else .error .nonzeroField)
  else if fn = 3 then (if w / 2 ^ 6 % 2 ^ 26 = 50331648 then .ok (.bwait (fld w 3 3)) else .error .nonzeroField)
  else if fn = 4 then (if w / 2 ^ 6 % 2 ^ 15 = 0 then .ok (.bqry (fld w 21 5) (fld w 3 3)) else .error .nonzeroField)
  else .error .reservedCode

/-- Major 0x31. -/
def decodeTcmd (w : Nat) : Except DecodeError Instr :=
  let fn := w / 2 ^ 0 % 2 ^ 2
  if fn = 0 then (if w / 2 ^ 7 % 2 ^ 9 = 0 ∧ w / 2 ^ 21 % 2 ^ 11 = 1568 then .ok (.tcset (fld w 16 5) (fld w 4 3) (fld w 2 2)) else .error .nonzeroField)
  else if fn = 1 then (if w / 2 ^ 4 % 2 ^ 12 = 0 ∧ w / 2 ^ 21 % 2 ^ 11 = 1568 then .ok (.tcissue (fld w 16 5) (fld w 2 2)) else .error .nonzeroField)
  else if fn = 2 then (if w / 2 ^ 4 % 2 ^ 17 = 0 then .ok (.tcqry (fld w 21 5) (fld w 2 2)) else .error .nonzeroField)
  else .error .reservedCode

/-- Major 0x32. -/
def decodeStrm (w : Nat) : Except DecodeError Instr :=
  let fn := w / 2 ^ 0 % 2 ^ 3
  if fn = 0 then (if w / 2 ^ 5 % 2 ^ 11 = 0 ∧ w / 2 ^ 21 % 2 ^ 11 = 1600 then .ok (.sopen (fld w 16 5) (fld w 3 2)) else .error .nonzeroField)
  else if fn = 1 then (if w / 2 ^ 6 % 2 ^ 10 = 0 ∧ w / 2 ^ 21 % 2 ^ 11 = 1600 then .ok (.ssend (fld w 16 5) (fld w 5 1) (fld w 3 2)) else .error .nonzeroField)
  else if fn = 2 then (if w / 2 ^ 5 % 2 ^ 27 = 104857600 then .ok (.sclose (fld w 3 2)) else .error .nonzeroField)
  else if fn = 3 then (if w / 2 ^ 5 % 2 ^ 16 = 0 then .ok (.recv (fld w 21 5) (fld w 3 2)) else .error .nonzeroField)
  else if fn = 4 then (if w / 2 ^ 5 % 2 ^ 11 = 0 ∧ w / 2 ^ 21 % 2 ^ 11 = 1600 then .ok (.rrls (fld w 16 5) (fld w 3 2)) else .error .nonzeroField)
  else if fn = 5 then (if w / 2 ^ 5 % 2 ^ 6 = 0 ∧ w / 2 ^ 21 % 2 ^ 11 = 1600 then .ok (.rring (fld w 16 5) (fld w 11 5) (fld w 3 2)) else .error .nonzeroField)
  else .error .reservedCode

/-- Major 0x33. -/
def decodeBar (w : Nat) : Except DecodeError Instr :=
  let fn := w / 2 ^ 0 % 2 ^ 3
  if fn = 0 then (if w / 2 ^ 6 % 2 ^ 10 = 0 ∧ w / 2 ^ 21 % 2 ^ 11 = 1632 then .ok (.barr (fld w 16 5) (fld w 3 3)) else .error .nonzeroField)
  else if fn = 1 then (if w / 2 ^ 6 % 2 ^ 15 = 0 then .ok (.barw (fld w 21 5) (fld w 3 3)) else .error .nonzeroField)
  else if fn = 2 then (if w / 2 ^ 6 % 2 ^ 15 = 0 then .ok (.barws (fld w 21 5) (fld w 3 3)) else .error .nonzeroField)
  else if fn = 3 then (if w / 2 ^ 7 % 2 ^ 14 = 0 then .ok (.barq (fld w 21 5) (fld w 6 1) (fld w 3 3)) else .error .nonzeroField)
  else if fn = 4 then (if w / 2 ^ 6 % 2 ^ 26 = 53477376 then .ok (.barl (fld w 3 3)) else .error .nonzeroField)
  else .error .reservedCode

/-- Major 0x34. -/
noncomputable def decodeTask (w : Nat) : Except DecodeError Instr :=
  let fn := w / 2 ^ 0 % 2 ^ 3
  if fn = 0 then (if w / 2 ^ 3 % 2 ^ 18 = 0 then .ok (.rtnext (fld w 21 5)) else .error .nonzeroField)
  else if fn = 1 then (if w / 2 ^ 3 % 2 ^ 13 = 0 then .ok (.tspawn (fld w 21 5) (fld w 16 5)) else .error .nonzeroField)
  else if fn = 2 then (if w / 2 ^ 3 % 2 ^ 29 = 436207616 then .ok (.tdone) else .error .nonzeroField)
  else if fn = 3 then (if w / 2 ^ 3 % 2 ^ 29 = 436207616 then .ok (.yield) else .error .nonzeroField)
  else if fn = 4 then (if w / 2 ^ 3 % 2 ^ 13 = 0 ∧ w / 2 ^ 21 % 2 ^ 11 = 1664 then .ok (.tsync (fld w 16 5)) else .error .nonzeroField)
  else .error .reservedCode

/-- Major 0x35. -/
noncomputable def decodeSys (w : Nat) : Except DecodeError Instr :=
  let fn := w / 2 ^ 0 % 2 ^ 3
  if fn = 0 then (if w / 2 ^ 3 % 2 ^ 29 = 444596224 then .ok (.ecall) else .error .nonzeroField)
  else if fn = 1 then (if w / 2 ^ 3 % 2 ^ 29 = 444596224 then .ok (.ebreak) else .error .nonzeroField)
  else if fn = 2 then (if w / 2 ^ 3 % 2 ^ 29 = 444596224 then .ok (.eret) else .error .nonzeroField)
  else if fn = 3 then (if w / 2 ^ 3 % 2 ^ 29 = 444596224 then .ok (.wfi) else .error .nonzeroField)
  else if fn = 4 then (if w / 2 ^ 8 % 2 ^ 8 = 0 ∧ w / 2 ^ 21 % 2 ^ 11 = 1696 then .ok (.tlbinv (fld w 16 5) (fld w 5 3) (fld w 3 2)) else .error .nonzeroField)
  else if fn = 5 then (if w / 2 ^ 3 % 2 ^ 29 = 444596224 then .ok (.halt) else .error .nonzeroField)
  else .error .reservedCode

/-- The instruction that the first word `w`, with the literal word `lit` where it takes one, spells before the
checks of its field values (R45). -/
noncomputable def decodeFields (w : Nat) (lit : BitVec 32) : Except DecodeError Instr :=
  let op := w / 2 ^ 26
  if op = 0x01 then decodeOpr w lit
  else if op = 0x02 then (.ok (.addi (fld w 21 5) (fld w 16 5) (fld w 0 16)))
  else if op = 0x03 then (.ok (.andi (fld w 21 5) (fld w 16 5) (fld w 0 16)))
  else if op = 0x04 then (.ok (.ori (fld w 21 5) (fld w 16 5) (fld w 0 16)))
  else if op = 0x05 then (.ok (.xori (fld w 21 5) (fld w 16 5) (fld w 0 16)))
  else if op = 0x06 then (.ok (.slti (fld w 21 5) (fld w 16 5) (fld w 0 16)))
  else if op = 0x07 then (.ok (.sltiu (fld w 21 5) (fld w 16 5) (fld w 0 16)))
  else if op = 0x08 then decodeShi w
  else if op = 0x09 then (if w / 2 ^ 16 % 2 ^ 5 = 0 then .ok (.lui (fld w 21 5) (fld w 0 16)) else .error .nonzeroField)
  else if op = 0x0A then (if w / 2 ^ 16 % 2 ^ 5 = 0 then .ok (.addpc (fld w 21 5) (fld w 0 16)) else .error .nonzeroField)
  else if op = 0x0B then decodeFop w lit
  else if op = 0x0C then (.ok (.ld (fld w 21 5) (fld w 16 5) (fld w 13 3) (fld w 11 2) (fld w 0 11)))
  else if op = 0x0D then (.ok (.st (fld w 21 5) (fld w 16 5) (fld w 14 2) (fld w 12 2) (fld w 0 12)))
  else if op = 0x0E then (if w / 2 ^ 11 % 2 ^ 2 = 0 then .ok (.ldl (fld w 21 5) (fld w 16 5) (fld w 13 3) (fld w 0 11)) else .error .nonzeroField)
  else if op = 0x0F then (if w / 2 ^ 12 % 2 ^ 2 = 0 then .ok (.stl (fld w 21 5) (fld w 16 5) (fld w 14 2) (fld w 0 12)) else .error .nonzeroField)
  else if op = 0x10 then decodeAmo w
  else if op = 0x11 then decodeRed w
  else if op = 0x12 then decodeSync w
  else if op = 0x13 then (.ok (.beq (fld w 21 5) (fld w 16 5) (fld w 0 16)))
  else if op = 0x14 then (.ok (.bne (fld w 21 5) (fld w 16 5) (fld w 0 16)))
  else if op = 0x15 then (.ok (.blt (fld w 21 5) (fld w 16 5) (fld w 0 16)))
  else if op = 0x16 then (.ok (.bge (fld w 21 5) (fld w 16 5) (fld w 0 16)))
  else if op = 0x17 then (.ok (.bltu (fld w 21 5) (fld w 16 5) (fld w 0 16)))
  else if op = 0x18 then (.ok (.bgeu (fld w 21 5) (fld w 16 5) (fld w 0 16)))
  else if op = 0x19 then (.ok (.jal (fld w 21 5) (fld w 0 21)))
  else if op = 0x1A then (.ok (.jalr (fld w 21 5) (fld w 16 5) (fld w 0 16)))
  else if op = 0x1B then (.ok (.lspan (fld w 25 1) (fld w 24 1) (fld w 12 12) (fld w 0 12)))
  else if op = 0x1C then decodeLctl w
  else if op = 0x20 then decodeVop w
  else if op = 0x21 then decodeVcvt w
  else if op = 0x22 then decodeVmem w
  else if op = 0x23 then decodeVprm w
  else if op = 0x24 then (if w / 2 ^ 0 % 2 ^ 21 = 0 then .ok (.dual (fld w 23 3) (fld w 21 2)) else .error .nonzeroField)
  else if op = 0x25 then decodeDmov w
  else if op = 0x28 then (if w / 2 ^ 0 % 2 ^ 3 = 0 then .ok (.mmaBf16 (fld w 21 5) (fld w 16 5) (fld w 11 5) (fld w 6 5) (fld w 4 2) (fld w 3 1)) else .error .nonzeroField)
  else if op = 0x29 then (if w / 2 ^ 0 % 2 ^ 3 = 0 then .ok (.mmaF16 (fld w 21 5) (fld w 16 5) (fld w 11 5) (fld w 6 5) (fld w 4 2) (fld w 3 1)) else .error .nonzeroField)
  else if op = 0x2A then (if w / 2 ^ 0 % 2 ^ 3 = 0 then .ok (.mmaE4m3 (fld w 21 5) (fld w 16 5) (fld w 11 5) (fld w 6 5) (fld w 4 2) (fld w 3 1)) else .error .nonzeroField)
  else if op = 0x2B then (if w / 2 ^ 0 % 2 ^ 3 = 0 then .ok (.mmaE5m2 (fld w 21 5) (fld w 16 5) (fld w 11 5) (fld w 6 5) (fld w 4 2) (fld w 3 1)) else .error .nonzeroField)
  else if op = 0x2C then (if w / 2 ^ 0 % 2 ^ 3 = 0 then .ok (.mmaE4e5 (fld w 21 5) (fld w 16 5) (fld w 11 5) (fld w 6 5) (fld w 4 2) (fld w 3 1)) else .error .nonzeroField)
  else if op = 0x2D then (.ok (.mmaBfp (fld w 21 5) (fld w 16 5) (fld w 11 5) (fld w 6 5) (fld w 4 2) (fld w 3 1) (fld w 0 3)))
  else if op = 0x2E then (if w / 2 ^ 0 % 2 ^ 4 = 0 ∧ w / 2 ^ 6 % 2 ^ 5 = 0 then .ok (.mmaS8 (fld w 21 5) (fld w 16 5) (fld w 11 5) (fld w 4 2)) else .error .nonzeroField)
  else if op = 0x2F then decodeMaux w
  else if op = 0x30 then decodeBank w
  else if op = 0x31 then decodeTcmd w
  else if op = 0x32 then decodeStrm w
  else if op = 0x33 then decodeBar w
  else if op = 0x34 then decodeTask w
  else if op = 0x35 then decodeSys w
  else if op = 0x36 then (if w / 2 ^ 10 % 2 ^ 11 = 0 then .ok (.crd (fld w 21 5) (fld w 0 10)) else .error .nonzeroField)
  else if op = 0x37 then (if w / 2 ^ 10 % 2 ^ 6 = 0 ∧ w / 2 ^ 21 % 2 ^ 11 = 1760 then .ok (.cwr (fld w 16 5) (fld w 0 10)) else .error .nonzeroField)
  else if op = 0x38 then (if w / 2 ^ 10 % 2 ^ 6 = 0 ∧ w / 2 ^ 21 % 2 ^ 11 = 1792 then .ok (.csetb (fld w 16 5) (fld w 0 10)) else .error .nonzeroField)
  else if op = 0x39 then (if w / 2 ^ 10 % 2 ^ 6 = 0 ∧ w / 2 ^ 21 % 2 ^ 11 = 1824 then .ok (.cclrb (fld w 16 5) (fld w 0 10)) else .error .nonzeroField)
  else .error .illegalMajor

/-- Decoding of a word and its literal (R64): the fields, then their values. -/
noncomputable def decode (w lit : BitVec 32) : Except DecodeError Instr :=
  match decodeFields w.toNat lit with
  | .ok i => if i.wf then .ok i else .error .reservedValue
  | .error e => .error e

/-- A word is followed by a literal when it is OPR or FOP with L = 1 (R41, R44). -/
def hasLiteral (w : BitVec 32) : Bool :=
  (w.toNat / 2 ^ 26 == 0x01 || w.toNat / 2 ^ 26 == 0x0B) && w.toNat / 2 ^ 10 % 2 == 1

/-- Little-endian bytes to a word (R5). -/
def wordOfBytes (a b c d : BitVec 8) : BitVec 32 :=
  BitVec.ofNat 32 (a.toNat + 2 ^ 8 * b.toNat + 2 ^ 16 * c.toNat + 2 ^ 24 * d.toNat)

/-- A word as it lies in memory, lowest address first (R5). -/
def bytesOfWord (w : BitVec 32) : List (BitVec 8) :=
  [BitVec.ofNat 8 w.toNat, BitVec.ofNat 8 (w.toNat / 2 ^ 8), BitVec.ofNat 8 (w.toNat / 2 ^ 16),
   BitVec.ofNat 8 (w.toNat / 2 ^ 24)]

/-- Decodes the instruction at the head of a list of bytes and returns the bytes that follow it. -/
noncomputable def decodeBytes : List (BitVec 8) → Except DecodeError (Instr × List (BitVec 8))
  | a :: b :: c :: d :: rest =>
    let w := wordOfBytes a b c d
    if hasLiteral w then
      match rest with
      | e :: f :: g :: h :: rest' => (decode w (wordOfBytes e f g h)).map (·, rest')
      | _ => .error .truncated
    else (decode w 0).map (·, rest)
  | _ => .error .truncated

/-- The decoder's answer on an instruction whose bits are `w`, numbered as spec/opcode_table.json numbers them. The
bits above `nbits` are zero, and the words are laid out as memory holds them. -/
noncomputable def decodeTableWord (nbits w : Nat) : Option Instr :=
  let v := w % 2 ^ nbits
  match decodeBytes (bytesOfWord (BitVec.ofNat 32 v) ++ bytesOfWord (BitVec.ofNat 32 (v / 2 ^ 32))) with
  | .ok (i, _) => some i
  | .error _ => none

/-- A word from its fixed bits and the values of its fields, each at its lowest bit. -/
def asm (fixed : Nat) : List (Nat × Nat) → Nat
  | [] => fixed
  | (v, lo) :: fs => asm fixed fs + v * 2 ^ lo

/-- The first word of an encoded instruction as a natural: its fixed bits and its fields (R42-R60). Events have no
word and answer 0. -/
def Instr.firstWord : Instr → Nat
  | .add d a b => asm 0x04000000 [(d.toNat, 21), (a.toNat, 16), (b.toNat, 11)]
  | .sub d a b => asm 0x04000001 [(d.toNat, 21), (a.toNat, 16), (b.toNat, 11)]
  | .and d a b => asm 0x04000002 [(d.toNat, 21), (a.toNat, 16), (b.toNat, 11)]
  | .or d a b => asm 0x04000003 [(d.toNat, 21), (a.toNat, 16), (b.toNat, 11)]
  | .xor d a b => asm 0x04000004 [(d.toNat, 21), (a.toNat, 16), (b.toNat, 11)]
  | .andn d a b => asm 0x04000005 [(d.toNat, 21), (a.toNat, 16), (b.toNat, 11)]
  | .sll d a b => asm 0x04000006 [(d.toNat, 21), (a.toNat, 16), (b.toNat, 11)]
  | .srl d a b => asm 0x04000007 [(d.toNat, 21), (a.toNat, 16), (b.toNat, 11)]
  | .sra d a b => asm 0x04000008 [(d.toNat, 21), (a.toNat, 16), (b.toNat, 11)]
  | .ror d a b => asm 0x04000009 [(d.toNat, 21), (a.toNat, 16), (b.toNat, 11)]
  | .slt d a b => asm 0x0400000A [(d.toNat, 21), (a.toNat, 16), (b.toNat, 11)]
  | .sltu d a b => asm 0x0400000B [(d.toNat, 21), (a.toNat, 16), (b.toNat, 11)]
  | .min d a b => asm 0x0400000C [(d.toNat, 21), (a.toNat, 16), (b.toNat, 11)]
  | .max d a b => asm 0x0400000D [(d.toNat, 21), (a.toNat, 16), (b.toNat, 11)]
  | .minu d a b => asm 0x0400000E [(d.toNat, 21), (a.toNat, 16), (b.toNat, 11)]
  | .maxu d a b => asm 0x0400000F [(d.toNat, 21), (a.toNat, 16), (b.toNat, 11)]
  | .mul d a b => asm 0x04000010 [(d.toNat, 21), (a.toNat, 16), (b.toNat, 11)]
  | .mulh d a b => asm 0x04000011 [(d.toNat, 21), (a.toNat, 16), (b.toNat, 11)]
  | .mulhu d a b => asm 0x04000012 [(d.toNat, 21), (a.toNat, 16), (b.toNat, 11)]
  | .mulhsu d a b => asm 0x04000013 [(d.toNat, 21), (a.toNat, 16), (b.toNat, 11)]
  | .div d a b => asm 0x04000014 [(d.toNat, 21), (a.toNat, 16), (b.toNat, 11)]
  | .divu d a b => asm 0x04000015 [(d.toNat, 21), (a.toNat, 16), (b.toNat, 11)]
  | .rem d a b => asm 0x04000016 [(d.toNat, 21), (a.toNat, 16), (b.toNat, 11)]
  | .remu d a b => asm 0x04000017 [(d.toNat, 21), (a.toNat, 16), (b.toNat, 11)]
  | .clz d a => asm 0x04000018 [(d.toNat, 21), (a.toNat, 16)]
  | .ctz d a => asm 0x04000019 [(d.toNat, 21), (a.toNat, 16)]
  | .popc d a => asm 0x0400001A [(d.toNat, 21), (a.toNat, 16)]
  | .sextB d a => asm 0x0400001B [(d.toNat, 21), (a.toNat, 16)]
  | .sextH d a => asm 0x0400001C [(d.toNat, 21), (a.toNat, 16)]
  | .sextW d a => asm 0x0400001D [(d.toNat, 21), (a.toNat, 16)]
  | .zextH d a => asm 0x0400001E [(d.toNat, 21), (a.toNat, 16)]
  | .zextW d a => asm 0x0400001F [(d.toNat, 21), (a.toNat, 16)]
  | .addw d a b => asm 0x04000020 [(d.toNat, 21), (a.toNat, 16), (b.toNat, 11)]
  | .subw d a b => asm 0x04000021 [(d.toNat, 21), (a.toNat, 16), (b.toNat, 11)]
  | .addLit d a _ => asm 0x04000400 [(d.toNat, 21), (a.toNat, 16)]
  | .subLit d a _ => asm 0x04000401 [(d.toNat, 21), (a.toNat, 16)]
  | .andLit d a _ => asm 0x04000402 [(d.toNat, 21), (a.toNat, 16)]
  | .orLit d a _ => asm 0x04000403 [(d.toNat, 21), (a.toNat, 16)]
  | .xorLit d a _ => asm 0x04000404 [(d.toNat, 21), (a.toNat, 16)]
  | .andnLit d a _ => asm 0x04000405 [(d.toNat, 21), (a.toNat, 16)]
  | .sllLit d a _ => asm 0x04000406 [(d.toNat, 21), (a.toNat, 16)]
  | .srlLit d a _ => asm 0x04000407 [(d.toNat, 21), (a.toNat, 16)]
  | .sraLit d a _ => asm 0x04000408 [(d.toNat, 21), (a.toNat, 16)]
  | .rorLit d a _ => asm 0x04000409 [(d.toNat, 21), (a.toNat, 16)]
  | .sltLit d a _ => asm 0x0400040A [(d.toNat, 21), (a.toNat, 16)]
  | .sltuLit d a _ => asm 0x0400040B [(d.toNat, 21), (a.toNat, 16)]
  | .minLit d a _ => asm 0x0400040C [(d.toNat, 21), (a.toNat, 16)]
  | .maxLit d a _ => asm 0x0400040D [(d.toNat, 21), (a.toNat, 16)]
  | .minuLit d a _ => asm 0x0400040E [(d.toNat, 21), (a.toNat, 16)]
  | .maxuLit d a _ => asm 0x0400040F [(d.toNat, 21), (a.toNat, 16)]
  | .mulLit d a _ => asm 0x04000410 [(d.toNat, 21), (a.toNat, 16)]
  | .mulhLit d a _ => asm 0x04000411 [(d.toNat, 21), (a.toNat, 16)]
  | .mulhuLit d a _ => asm 0x04000412 [(d.toNat, 21), (a.toNat, 16)]
  | .mulhsuLit d a _ => asm 0x04000413 [(d.toNat, 21), (a.toNat, 16)]
  | .divLit d a _ => asm 0x04000414 [(d.toNat, 21), (a.toNat, 16)]
  | .divuLit d a _ => asm 0x04000415 [(d.toNat, 21), (a.toNat, 16)]
  | .remLit d a _ => asm 0x04000416 [(d.toNat, 21), (a.toNat, 16)]
  | .remuLit d a _ => asm 0x04000417 [(d.toNat, 21), (a.toNat, 16)]
  | .addwLit d a _ => asm 0x04000420 [(d.toNat, 21), (a.toNat, 16)]
  | .subwLit d a _ => asm 0x04000421 [(d.toNat, 21), (a.toNat, 16)]
  | .addi d a imm => asm 0x08000000 [(d.toNat, 21), (a.toNat, 16), (imm.toNat, 0)]
  | .andi d a imm => asm 0x0C000000 [(d.toNat, 21), (a.toNat, 16), (imm.toNat, 0)]
  | .ori d a imm => asm 0x10000000 [(d.toNat, 21), (a.toNat, 16), (imm.toNat, 0)]
  | .xori d a imm => asm 0x14000000 [(d.toNat, 21), (a.toNat, 16), (imm.toNat, 0)]
  | .slti d a imm => asm 0x18000000 [(d.toNat, 21), (a.toNat, 16), (imm.toNat, 0)]
  | .sltiu d a imm => asm 0x1C000000 [(d.toNat, 21), (a.toNat, 16), (imm.toNat, 0)]
  | .slli d a n => asm 0x20000000 [(d.toNat, 21), (a.toNat, 16), (n.toNat, 0)]
  | .srli d a n => asm 0x20004000 [(d.toNat, 21), (a.toNat, 16), (n.toNat, 0)]
  | .srai d a n => asm 0x20008000 [(d.toNat, 21), (a.toNat, 16), (n.toNat, 0)]
  | .rori d a n => asm 0x2000C000 [(d.toNat, 21), (a.toNat, 16), (n.toNat, 0)]
  | .lui d imm => asm 0x24000000 [(d.toNat, 21), (imm.toNat, 0)]
  | .addpc d imm => asm 0x28000000 [(d.toNat, 21), (imm.toNat, 0)]
  | .fadd d a b p => asm 0x2C000000 [(d.toNat, 21), (a.toNat, 16), (b.toNat, 11), (p.toNat, 8)]
  | .fsub d a b p => asm 0x2C000001 [(d.toNat, 21), (a.toNat, 16), (b.toNat, 11), (p.toNat, 8)]
  | .fmul d a b p => asm 0x2C000002 [(d.toNat, 21), (a.toNat, 16), (b.toNat, 11), (p.toNat, 8)]
  | .fdiv d a b p => asm 0x2C000003 [(d.toNat, 21), (a.toNat, 16), (b.toNat, 11), (p.toNat, 8)]
  | .fsqrt d a p => asm 0x2C000004 [(d.toNat, 21), (a.toNat, 16), (p.toNat, 8)]
  | .fmin d a b p => asm 0x2C000005 [(d.toNat, 21), (a.toNat, 16), (b.toNat, 11), (p.toNat, 8)]
  | .fmax d a b p => asm 0x2C000006 [(d.toNat, 21), (a.toNat, 16), (b.toNat, 11), (p.toNat, 8)]
  | .fsgnj d a b p => asm 0x2C000007 [(d.toNat, 21), (a.toNat, 16), (b.toNat, 11), (p.toNat, 8)]
  | .fsgnjn d a b p => asm 0x2C000008 [(d.toNat, 21), (a.toNat, 16), (b.toNat, 11), (p.toNat, 8)]
  | .fsgnjx d a b p => asm 0x2C000009 [(d.toNat, 21), (a.toNat, 16), (b.toNat, 11), (p.toNat, 8)]
  | .feq d a b p => asm 0x2C00000A [(d.toNat, 21), (a.toNat, 16), (b.toNat, 11), (p.toNat, 8)]
  | .flt d a b p => asm 0x2C00000B [(d.toNat, 21), (a.toNat, 16), (b.toNat, 11), (p.toNat, 8)]
  | .fle d a b p => asm 0x2C00000C [(d.toNat, 21), (a.toNat, 16), (b.toNat, 11), (p.toNat, 8)]
  | .fclass d a p => asm 0x2C00000D [(d.toNat, 21), (a.toNat, 16), (p.toNat, 8)]
  | .fcvtS d a p => asm 0x2C00000E [(d.toNat, 21), (a.toNat, 16), (p.toNat, 8)]
  | .fcvtZ d a p => asm 0x2C00000F [(d.toNat, 21), (a.toNat, 16), (p.toNat, 8)]
  | .fcvtfS d a p => asm 0x2C000010 [(d.toNat, 21), (a.toNat, 16), (p.toNat, 8)]
  | .fcvtfZ d a p => asm 0x2C000011 [(d.toNat, 21), (a.toNat, 16), (p.toNat, 8)]
  | .fcvtp d a p => asm 0x2C000012 [(d.toNat, 21), (a.toNat, 16), (p.toNat, 8)]
  | .fmadd d a b p => asm 0x2C000013 [(d.toNat, 21), (a.toNat, 16), (b.toNat, 11), (p.toNat, 8)]
  | .fmsub d a b p => asm 0x2C000014 [(d.toNat, 21), (a.toNat, 16), (b.toNat, 11), (p.toNat, 8)]
  | .fnmadd d a b p => asm 0x2C000015 [(d.toNat, 21), (a.toNat, 16), (b.toNat, 11), (p.toNat, 8)]
  | .fcvtSt d a p => asm 0x2C000016 [(d.toNat, 21), (a.toNat, 16), (p.toNat, 8)]
  | .faddLit d a p _ => asm 0x2C000400 [(d.toNat, 21), (a.toNat, 16), (p.toNat, 8)]
  | .fsubLit d a p _ => asm 0x2C000401 [(d.toNat, 21), (a.toNat, 16), (p.toNat, 8)]
  | .fmulLit d a p _ => asm 0x2C000402 [(d.toNat, 21), (a.toNat, 16), (p.toNat, 8)]
  | .fdivLit d a p _ => asm 0x2C000403 [(d.toNat, 21), (a.toNat, 16), (p.toNat, 8)]
  | .fminLit d a p _ => asm 0x2C000405 [(d.toNat, 21), (a.toNat, 16), (p.toNat, 8)]
  | .fmaxLit d a p _ => asm 0x2C000406 [(d.toNat, 21), (a.toNat, 16), (p.toNat, 8)]
  | .fsgnjLit d a p _ => asm 0x2C000407 [(d.toNat, 21), (a.toNat, 16), (p.toNat, 8)]
  | .fsgnjnLit d a p _ => asm 0x2C000408 [(d.toNat, 21), (a.toNat, 16), (p.toNat, 8)]
  | .fsgnjxLit d a p _ => asm 0x2C000409 [(d.toNat, 21), (a.toNat, 16), (p.toNat, 8)]
  | .feqLit d a p _ => asm 0x2C00040A [(d.toNat, 21), (a.toNat, 16), (p.toNat, 8)]
  | .fltLit d a p _ => asm 0x2C00040B [(d.toNat, 21), (a.toNat, 16), (p.toNat, 8)]
  | .fleLit d a p _ => asm 0x2C00040C [(d.toNat, 21), (a.toNat, 16), (p.toNat, 8)]
  | .fmaddLit d a p _ => asm 0x2C000413 [(d.toNat, 21), (a.toNat, 16), (p.toNat, 8)]
  | .fmsubLit d a p _ => asm 0x2C000414 [(d.toNat, 21), (a.toNat, 16), (p.toNat, 8)]
  | .fnmaddLit d a p _ => asm 0x2C000415 [(d.toNat, 21), (a.toNat, 16), (p.toNat, 8)]
  | .ld d a z q o => asm 0x30000000 [(d.toNat, 21), (a.toNat, 16), (z.toNat, 13), (q.toNat, 11), (o.toNat, 0)]
  | .st src a z q o => asm 0x34000000 [(src.toNat, 21), (a.toNat, 16), (z.toNat, 14), (q.toNat, 12), (o.toNat, 0)]
  | .ldl d a z o => asm 0x38000000 [(d.toNat, 21), (a.toNat, 16), (z.toNat, 13), (o.toNat, 0)]
  | .stl src a z o => asm 0x3C000000 [(src.toNat, 21), (a.toNat, 16), (z.toNat, 14), (o.toNat, 0)]
  | .amoSwap d a b w o sc => asm 0x40000000 [(d.toNat, 21), (a.toNat, 16), (b.toNat, 11), (w.toNat, 5), (o.toNat, 3), (sc.toNat, 0)]
  | .amoAdd d a b w o sc => asm 0x40000040 [(d.toNat, 21), (a.toNat, 16), (b.toNat, 11), (w.toNat, 5), (o.toNat, 3), (sc.toNat, 0)]
  | .amoAnd d a b w o sc => asm 0x40000080 [(d.toNat, 21), (a.toNat, 16), (b.toNat, 11), (w.toNat, 5), (o.toNat, 3), (sc.toNat, 0)]
  | .amoOr d a b w o sc => asm 0x400000C0 [(d.toNat, 21), (a.toNat, 16), (b.toNat, 11), (w.toNat, 5), (o.toNat, 3), (sc.toNat, 0)]
  | .amoXor d a b w o sc => asm 0x40000100 [(d.toNat, 21), (a.toNat, 16), (b.toNat, 11), (w.toNat, 5), (o.toNat, 3), (sc.toNat, 0)]
  | .amoMin d a b w o sc => asm 0x40000140 [(d.toNat, 21), (a.toNat, 16), (b.toNat, 11), (w.toNat, 5), (o.toNat, 3), (sc.toNat, 0)]
  | .amoMax d a b w o sc => asm 0x40000180 [(d.toNat, 21), (a.toNat, 16), (b.toNat, 11), (w.toNat, 5), (o.toNat, 3), (sc.toNat, 0)]
  | .amoMinu d a b w o sc => asm 0x400001C0 [(d.toNat, 21), (a.toNat, 16), (b.toNat, 11), (w.toNat, 5), (o.toNat, 3), (sc.toNat, 0)]
  | .amoMaxu d a b w o sc => asm 0x40000200 [(d.toNat, 21), (a.toNat, 16), (b.toNat, 11), (w.toNat, 5), (o.toNat, 3), (sc.toNat, 0)]
  | .amoCas d a b w o sc => asm 0x40000240 [(d.toNat, 21), (a.toNat, 16), (b.toNat, 11), (w.toNat, 5), (o.toNat, 3), (sc.toNat, 0)]
  | .redAddF32 a b v => asm 0x44000000 [(a.toNat, 16), (b.toNat, 11), (v.toNat, 9)]
  | .redAddBf16 a b v => asm 0x44000040 [(a.toNat, 16), (b.toNat, 11), (v.toNat, 9)]
  | .redAddS32 a b v => asm 0x44000080 [(a.toNat, 16), (b.toNat, 11), (v.toNat, 9)]
  | .redAddS64 a b v => asm 0x440000C0 [(a.toNat, 16), (b.toNat, 11), (v.toNat, 9)]
  | .redMaxF32 a b v => asm 0x44000100 [(a.toNat, 16), (b.toNat, 11), (v.toNat, 9)]
  | .redMinF32 a b v => asm 0x44000140 [(a.toNat, 16), (b.toNat, 11), (v.toNat, 9)]
  | .fence k sc => asm 0x48000000 [(k.toNat, 21), (sc.toNat, 11)]
  | .sigadd a b => asm 0x48000001 [(a.toNat, 16), (b.toNat, 11)]
  | .waitge d a b => asm 0x48000002 [(d.toNat, 21), (a.toNat, 16), (b.toNat, 11)]
  | .ctrrd d a => asm 0x48000003 [(d.toNat, 21), (a.toNat, 16)]
  | .rflush => asm 0x48000004 []
  | .discard a => asm 0x48000005 [(a.toNat, 16)]
  | .l1inv => asm 0x48000006 []
  | .beq a b o => asm 0x4C000000 [(a.toNat, 21), (b.toNat, 16), (o.toNat, 0)]
  | .bne a b o => asm 0x50000000 [(a.toNat, 21), (b.toNat, 16), (o.toNat, 0)]
  | .blt a b o => asm 0x54000000 [(a.toNat, 21), (b.toNat, 16), (o.toNat, 0)]
  | .bge a b o => asm 0x58000000 [(a.toNat, 21), (b.toNat, 16), (o.toNat, 0)]
  | .bltu a b o => asm 0x5C000000 [(a.toNat, 21), (b.toNat, 16), (o.toNat, 0)]
  | .bgeu a b o => asm 0x60000000 [(a.toNat, 21), (b.toNat, 16), (o.toNat, 0)]
  | .jal d o => asm 0x64000000 [(d.toNat, 21), (o.toNat, 0)]
  | .jalr d a imm => asm 0x68000000 [(d.toNat, 21), (a.toNat, 16), (imm.toNat, 0)]
  | .lspan l c b n => asm 0x6C000000 [(l.toNat, 25), (c.toNat, 24), (b.toNat, 12), (n.toNat, 0)]
  | .lexit l => asm 0x70000000 [(l.toNat, 0)]
  | .ldis l => asm 0x70000002 [(l.toNat, 0)]
  | .vadd d a b m t => asm 0x80000000 [(d.toNat, 21), (a.toNat, 16), (b.toNat, 11), (m.toNat, 8), (t.toNat, 5)]
  | .vsub d a b m t => asm 0x80000001 [(d.toNat, 21), (a.toNat, 16), (b.toNat, 11), (m.toNat, 8), (t.toNat, 5)]
  | .vmul d a b m t => asm 0x80000002 [(d.toNat, 21), (a.toNat, 16), (b.toNat, 11), (m.toNat, 8), (t.toNat, 5)]
  | .vfma d a b m t => asm 0x80000003 [(d.toNat, 21), (a.toNat, 16), (b.toNat, 11), (m.toNat, 8), (t.toNat, 5)]
  | .vfms d a b m t => asm 0x80000004 [(d.toNat, 21), (a.toNat, 16), (b.toNat, 11), (m.toNat, 8), (t.toNat, 5)]
  | .vmin d a b m t => asm 0x80000005 [(d.toNat, 21), (a.toNat, 16), (b.toNat, 11), (m.toNat, 8), (t.toNat, 5)]
  | .vmax d a b m t => asm 0x80000006 [(d.toNat, 21), (a.toNat, 16), (b.toNat, 11), (m.toNat, 8), (t.toNat, 5)]
  | .vand d a b m t => asm 0x80000007 [(d.toNat, 21), (a.toNat, 16), (b.toNat, 11), (m.toNat, 8), (t.toNat, 5)]
  | .vor d a b m t => asm 0x80000008 [(d.toNat, 21), (a.toNat, 16), (b.toNat, 11), (m.toNat, 8), (t.toNat, 5)]
  | .vxor d a b m t => asm 0x80000009 [(d.toNat, 21), (a.toNat, 16), (b.toNat, 11), (m.toNat, 8), (t.toNat, 5)]
  | .vshl d a b m t => asm 0x8000000A [(d.toNat, 21), (a.toNat, 16), (b.toNat, 11), (m.toNat, 8), (t.toNat, 5)]
  | .vshr d a b m t => asm 0x8000000B [(d.toNat, 21), (a.toNat, 16), (b.toNat, 11), (m.toNat, 8), (t.toNat, 5)]
  | .vceq d a b m t => asm 0x8000000C [(d.toNat, 21), (a.toNat, 16), (b.toNat, 11), (m.toNat, 8), (t.toNat, 5)]
  | .vclt d a b m t => asm 0x8000000D [(d.toNat, 21), (a.toNat, 16), (b.toNat, 11), (m.toNat, 8), (t.toNat, 5)]
  | .vcle d a b m t => asm 0x8000000E [(d.toNat, 21), (a.toNat, 16), (b.toNat, 11), (m.toNat, 8), (t.toNat, 5)]
  | .vsel d a b m t => asm 0x8000000F [(d.toNat, 21), (a.toNat, 16), (b.toNat, 11), (m.toNat, 8), (t.toNat, 5)]
  | .vabs d a m t => asm 0x80000010 [(d.toNat, 21), (a.toNat, 16), (m.toNat, 8), (t.toNat, 5)]
  | .vneg d a m t => asm 0x80000011 [(d.toNat, 21), (a.toNat, 16), (m.toNat, 8), (t.toNat, 5)]
  | .vrcp d a m t => asm 0x80000012 [(d.toNat, 21), (a.toNat, 16), (m.toNat, 8), (t.toNat, 5)]
  | .vrsq d a m t => asm 0x80000013 [(d.toNat, 21), (a.toNat, 16), (m.toNat, 8), (t.toNat, 5)]
  | .vexp2 d a m t => asm 0x80000014 [(d.toNat, 21), (a.toNat, 16), (m.toNat, 8), (t.toNat, 5)]
  | .vlog2 d a m t => asm 0x80000015 [(d.toNat, 21), (a.toNat, 16), (m.toNat, 8), (t.toNat, 5)]
  | .vsqrt d a m t => asm 0x80000016 [(d.toNat, 21), (a.toNat, 16), (m.toNat, 8), (t.toNat, 5)]
  | .vdiv d a b m t => asm 0x80000017 [(d.toNat, 21), (a.toNat, 16), (b.toNat, 11), (m.toNat, 8), (t.toNat, 5)]
  | .vaddg d a b m t => asm 0x80000018 [(d.toNat, 21), (a.toNat, 16), (b.toNat, 11), (m.toNat, 8), (t.toNat, 5)]
  | .vmulg d a b m t => asm 0x80000019 [(d.toNat, 21), (a.toNat, 16), (b.toNat, 11), (m.toNat, 8), (t.toNat, 5)]
  | .vfmag d a b m t => asm 0x8000001A [(d.toNat, 21), (a.toNat, 16), (b.toNat, 11), (m.toNat, 8), (t.toNat, 5)]
  | .vming d a b m t => asm 0x8000001B [(d.toNat, 21), (a.toNat, 16), (b.toNat, 11), (m.toNat, 8), (t.toNat, 5)]
  | .vmaxg d a b m t => asm 0x8000001C [(d.toNat, 21), (a.toNat, 16), (b.toNat, 11), (m.toNat, 8), (t.toNat, 5)]
  | .vmovg d b m t => asm 0x8000001D [(d.toNat, 21), (b.toNat, 11), (m.toNat, 8), (t.toNat, 5)]
  | .vext d a b t => asm 0x8000001E [(d.toNat, 21), (a.toNat, 16), (b.toNat, 11), (t.toNat, 5)]
  | .vins d a b t => asm 0x8000001F [(d.toNat, 21), (a.toNat, 16), (b.toNat, 11), (t.toNat, 5)]
  | .vcvtBf16F32 d a h m => asm 0x84000000 [(d.toNat, 21), (a.toNat, 16), (h.toNat, 11), (m.toNat, 8)]
  | .vcvtF32Bf16 d a h m => asm 0x84000001 [(d.toNat, 21), (a.toNat, 16), (h.toNat, 11), (m.toNat, 8)]
  | .vcvtF16F32 d a h m => asm 0x84000002 [(d.toNat, 21), (a.toNat, 16), (h.toNat, 11), (m.toNat, 8)]
  | .vcvtF32F16 d a h m => asm 0x84000003 [(d.toNat, 21), (a.toNat, 16), (h.toNat, 11), (m.toNat, 8)]
  | .vcvtE4m3F32 d a q m => asm 0x84000004 [(d.toNat, 21), (a.toNat, 16), (q.toNat, 11), (m.toNat, 8)]
  | .vcvtF32E4m3 d a q m => asm 0x84000005 [(d.toNat, 21), (a.toNat, 16), (q.toNat, 11), (m.toNat, 8)]
  | .vcvtE5m2F32 d a q m => asm 0x84000006 [(d.toNat, 21), (a.toNat, 16), (q.toNat, 11), (m.toNat, 8)]
  | .vcvtF32E5m2 d a q m => asm 0x84000007 [(d.toNat, 21), (a.toNat, 16), (q.toNat, 11), (m.toNat, 8)]
  | .vcvtS32F32 d a m => asm 0x84000008 [(d.toNat, 21), (a.toNat, 16), (m.toNat, 8)]
  | .vcvtF32S32 d a m => asm 0x84000009 [(d.toNat, 21), (a.toNat, 16), (m.toNat, 8)]
  | .vcvtS8S32 d a q m => asm 0x8400000A [(d.toNat, 21), (a.toNat, 16), (q.toNat, 11), (m.toNat, 8)]
  | .bfpenc d a m k => asm 0x8400000B [(d.toNat, 21), (a.toNat, 16), (m.toNat, 8), (k.toNat, 5)]
  | .bfpdec d a m k => asm 0x8400000C [(d.toNat, 21), (a.toNat, 16), (m.toNat, 8), (k.toNat, 5)]
  | .vldL d a b m t => asm 0x88000000 [(d.toNat, 21), (a.toNat, 16), (b.toNat, 11), (m.toNat, 8), (t.toNat, 5)]
  | .vstL d a b m t => asm 0x88000001 [(d.toNat, 21), (a.toNat, 16), (b.toNat, 11), (m.toNat, 8), (t.toNat, 5)]
  | .vldG d a b m t => asm 0x88000002 [(d.toNat, 21), (a.toNat, 16), (b.toNat, 11), (m.toNat, 8), (t.toNat, 5)]
  | .vstG d a b m t => asm 0x88000003 [(d.toNat, 21), (a.toNat, 16), (b.toNat, 11), (m.toNat, 8), (t.toNat, 5)]
  | .vlds d a b m t => asm 0x88000004 [(d.toNat, 21), (a.toNat, 16), (b.toNat, 11), (m.toNat, 8), (t.toNat, 5)]
  | .vgathL d a b m t => asm 0x88000005 [(d.toNat, 21), (a.toNat, 16), (b.toNat, 11), (m.toNat, 8), (t.toNat, 5)]
  | .vscatL d a b m t => asm 0x88000006 [(d.toNat, 21), (a.toNat, 16), (b.toNat, 11), (m.toNat, 8), (t.toNat, 5)]
  | .vperm d a b m t => asm 0x8C000000 [(d.toNat, 21), (a.toNat, 16), (b.toNat, 11), (m.toNat, 8), (t.toNat, 5)]
  | .vredsum d a m t => asm 0x8C000001 [(d.toNat, 21), (a.toNat, 16), (m.toNat, 8), (t.toNat, 5)]
  | .vredmax d a m t => asm 0x8C000002 [(d.toNat, 21), (a.toNat, 16), (m.toNat, 8), (t.toNat, 5)]
  | .vredmin d a m t => asm 0x8C000003 [(d.toNat, 21), (a.toNat, 16), (m.toNat, 8), (t.toNat, 5)]
  | .mand d a b => asm 0x8C000004 [(d.toNat, 21), (a.toNat, 16), (b.toNat, 11)]
  | .mor d a b => asm 0x8C000005 [(d.toNat, 21), (a.toNat, 16), (b.toNat, 11)]
  | .mnot d a => asm 0x8C000006 [(d.toNat, 21), (a.toNat, 16)]
  | .mpop d a t => asm 0x8C000007 [(d.toNat, 21), (a.toNat, 16), (t.toNat, 5)]
  | .dual w p => asm 0x90000000 [(w.toNat, 23), (p.toNat, 21)]
  | .dget d a c p => asm 0x94000000 [(d.toNat, 21), (a.toNat, 16), (c.toNat, 4), (p.toNat, 2)]
  | .dset d a c p => asm 0x94000001 [(d.toNat, 21), (a.toNat, 16), (c.toNat, 4), (p.toNat, 2)]
  | .dclr d c p => asm 0x94000002 [(d.toNat, 21), (c.toNat, 4), (p.toNat, 2)]
  | .dclrAll c p => asm 0x94000022 [(c.toNat, 4), (p.toNat, 2)]
  | .mmaBf16 d a b c e o => asm 0xA0000000 [(d.toNat, 21), (a.toNat, 16), (b.toNat, 11), (c.toNat, 6), (e.toNat, 4), (o.toNat, 3)]
  | .mmaF16 d a b c e o => asm 0xA4000000 [(d.toNat, 21), (a.toNat, 16), (b.toNat, 11), (c.toNat, 6), (e.toNat, 4), (o.toNat, 3)]
  | .mmaE4m3 d a b c e o => asm 0xA8000000 [(d.toNat, 21), (a.toNat, 16), (b.toNat, 11), (c.toNat, 6), (e.toNat, 4), (o.toNat, 3)]
  | .mmaE5m2 d a b c e o => asm 0xAC000000 [(d.toNat, 21), (a.toNat, 16), (b.toNat, 11), (c.toNat, 6), (e.toNat, 4), (o.toNat, 3)]
  | .mmaE4e5 d a b c e o => asm 0xB0000000 [(d.toNat, 21), (a.toNat, 16), (b.toNat, 11), (c.toNat, 6), (e.toNat, 4), (o.toNat, 3)]
  | .mmaBfp d a b c e o k => asm 0xB4000000 [(d.toNat, 21), (a.toNat, 16), (b.toNat, 11), (c.toNat, 6), (e.toNat, 4), (o.toNat, 3), (k.toNat, 0)]
  | .mmaS8 d a b e => asm 0xB8000000 [(d.toNat, 21), (a.toNat, 16), (b.toNat, 11), (e.toNat, 4)]
  | .mzero d e w => asm 0xBC000000 [(d.toNat, 21), (e.toNat, 4), (w.toNat, 3)]
  | .mtrn d a e w => asm 0xBC000040 [(d.toNat, 21), (a.toNat, 16), (e.toNat, 4), (w.toNat, 3)]
  | .batt d sl => asm 0xC0000000 [(d.toNat, 21), (sl.toNat, 3)]
  | .bdet sl => asm 0xC0000001 [(sl.toNat, 3)]
  | .hover d a t sl => asm 0xC0000002 [(d.toNat, 21), (a.toNat, 16), (t.toNat, 6), (sl.toNat, 3)]
  | .bwait sl => asm 0xC0000003 [(sl.toNat, 3)]
  | .bqry d sl => asm 0xC0000004 [(d.toNat, 21), (sl.toNat, 3)]
  | .tcset a f t => asm 0xC4000000 [(a.toNat, 16), (f.toNat, 4), (t.toNat, 2)]
  | .tcissue a t => asm 0xC4000001 [(a.toNat, 16), (t.toNat, 2)]
  | .tcqry d t => asm 0xC4000002 [(d.toNat, 21), (t.toNat, 2)]
  | .sopen a p => asm 0xC8000000 [(a.toNat, 16), (p.toNat, 3)]
  | .ssend a v p => asm 0xC8000001 [(a.toNat, 16), (v.toNat, 5), (p.toNat, 3)]
  | .sclose p => asm 0xC8000002 [(p.toNat, 3)]
  | .recv d p => asm 0xC8000003 [(d.toNat, 21), (p.toNat, 3)]
  | .rrls a p => asm 0xC8000004 [(a.toNat, 16), (p.toNat, 3)]
  | .rring a b p => asm 0xC8000005 [(a.toNat, 16), (b.toNat, 11), (p.toNat, 3)]
  | .barr a h => asm 0xCC000000 [(a.toNat, 16), (h.toNat, 3)]
  | .barw d h => asm 0xCC000001 [(d.toNat, 21), (h.toNat, 3)]
  | .barws d h => asm 0xCC000002 [(d.toNat, 21), (h.toNat, 3)]
  | .barq d q h => asm 0xCC000003 [(d.toNat, 21), (q.toNat, 6), (h.toNat, 3)]
  | .barl h => asm 0xCC000004 [(h.toNat, 3)]
  | .rtnext d => asm 0xD0000000 [(d.toNat, 21)]
  | .tspawn d a => asm 0xD0000001 [(d.toNat, 21), (a.toNat, 16)]
  | .tdone => asm 0xD0000002 []
  | .yield => asm 0xD0000003 []
  | .tsync a => asm 0xD0000004 [(a.toNat, 16)]
  | .ecall => asm 0xD4000000 []
  | .ebreak => asm 0xD4000001 []
  | .eret => asm 0xD4000002 []
  | .wfi => asm 0xD4000003 []
  | .tlbinv a sc f => asm 0xD4000004 [(a.toNat, 16), (sc.toNat, 5), (f.toNat, 3)]
  | .halt => asm 0xD4000005 []
  | .crd d imm => asm 0xD8000000 [(d.toNat, 21), (imm.toNat, 0)]
  | .cwr a imm => asm 0xDC000000 [(a.toNat, 16), (imm.toNat, 0)]
  | .csetb a imm => asm 0xE0000000 [(a.toNat, 16), (imm.toNat, 0)]
  | .cclrb a imm => asm 0xE4000000 [(a.toNat, 16), (imm.toNat, 0)]
  | .interruptDelivery _ => 0
  | .resultReady _ => 0
  | .planeGating _ => 0
  | .planeWakeDone _ => 0
  | .homeLoadServe _ => 0
  | .loadReply _ => 0
  | .homeStoreApply _ => 0
  | .replicaCollapseAck _ => 0
  | .amoSliceApply _ => 0
  | .amoReply _ => 0
  | .releasePerformed _ => 0
  | .redArrival _ => 0
  | .refusalReturn _ => 0
  | .forcedMessageApply _ => 0
  | .residualAgeExpiry _ => 0
  | .quotaWindowStart => 0
  | .reductionQueueDrain _ => 0
  | .sigaddApply _ => 0
  | .waitgeWake _ => 0
  | .waitgeRepoll _ => 0
  | .waitTimeout _ => 0
  | .energyRefill => 0
  | .tensorBind _ => 0
  | .mmaOccupancyEnd _ _ => 0
  | .mmaRetire _ _ => 0
  | .copyBurstStart _ => 0
  | .copyBurstComplete _ _ _ => 0
  | .copyRetire _ _ => 0
  | .pageWalkDone _ => 0
  | .bankRefillDone _ _ => 0
  | .bankScrubDone _ _ => 0
  | .battWake _ => 0
  | .hoverTableStep _ => 0
  | .bdetTableStep _ => 0
  | .bwaitWake _ => 0
  | .barrierArrival _ => 0
  | .barwWake _ => 0
  | .specCommit _ => 0
  | .specAbort _ _ _ => 0
  | .guidonArrival _ => 0
  | .dataFlitLand _ => 0
  | .furlLand _ => 0
  | .pauseFlitLand _ => 0
  | .creditArrival _ _ _ => 0
  | .routeTear _ _ => 0
  | .recvWake _ => 0
  | .hostDoorbell _ _ _ => 0
  | .admission _ => 0
  | .admissionWaitEnd _ => 0
  | .taskBind _ => 0
  | .splitRequest _ => 0
  | .splitWithdrawTimeout _ _ => 0
  | .yieldPark _ => 0
  | .faultQueueWrite _ => 0
  | .tsyncAck _ => 0
  | .tspawnStatus _ => 0
  | .cnextLoad _ _ => 0
  | .cnextSwitch _ => 0
  | .ipost _ _ _ => 0
  | .preemption _ => 0
  | .contextStreamEnd _ => 0
  | .ctermGo _ _ => 0
  | .terminationDone _ => 0
  | .tlbinvAck _ _ => 0
  | .pctlQuiesce _ => 0
  | .pctlResume _ => 0
  | .pctlAbort _ => 0
  | .quiesceTimeout _ => 0
  | .quiesceDrain _ => 0
  | .resumeDone _ => 0
  | .shootGo _ => 0
  | .shootdownDone _ => 0
  | .registerWrite _ _ => 0
  | .hnote _ _ => 0
  | .hostBar2Write _ _ _ => 0
  | .hostBar2Read _ _ _ => 0
  | .atsRequest _ _ _ => 0
  | .ethFrameArrival _ _ _ => 0
  | .transportRequest _ => 0
  | .transportReply _ => 0
  | .transportRetransmit _ _ _ => 0
  | .nredContribution _ => 0
  | .nredDeadline _ _ => 0
  | .pmcOverflow _ _ => 0
  | .dstopArm _ => 0
  | .domainStopLand _ => 0
  | .scrubRead _ => 0
  | .parityError _ => 0
  | .linkFailure _ _ => 0
  | .errorRecordFlush _ => 0
  | .machineCheck _ _ => 0
  | .mcrel _ _ => 0
  | .powerOnReset => 0
  | .imageArrivalEth _ => 0
  | .imggo => 0
  | .imageCheckDone => 0
  | .systemCoreStart _ _ _ _ => 0
  | .attgo _ _ => 0
  | .attestationDone => 0
  | .pm7Extend _ => 0
  | .repairListAppend _ => 0
  | .sagDetect _ _ _ => 0
  | .stretchEnd => 0
  | .coreClockCycle => 0
  | .notAnInstruction _ => 0
  | .instructionFetch => 0
  | .partNboundMilvWrite _ _ _ => 0
  | .msixTableWrite _ _ _ => 0

/-- The literal word of an instruction that has one (R44). -/
def Instr.literal : Instr → Option (BitVec 32)
  | .addLit _ _ lit => some lit
  | .subLit _ _ lit => some lit
  | .andLit _ _ lit => some lit
  | .orLit _ _ lit => some lit
  | .xorLit _ _ lit => some lit
  | .andnLit _ _ lit => some lit
  | .sllLit _ _ lit => some lit
  | .srlLit _ _ lit => some lit
  | .sraLit _ _ lit => some lit
  | .rorLit _ _ lit => some lit
  | .sltLit _ _ lit => some lit
  | .sltuLit _ _ lit => some lit
  | .minLit _ _ lit => some lit
  | .maxLit _ _ lit => some lit
  | .minuLit _ _ lit => some lit
  | .maxuLit _ _ lit => some lit
  | .mulLit _ _ lit => some lit
  | .mulhLit _ _ lit => some lit
  | .mulhuLit _ _ lit => some lit
  | .mulhsuLit _ _ lit => some lit
  | .divLit _ _ lit => some lit
  | .divuLit _ _ lit => some lit
  | .remLit _ _ lit => some lit
  | .remuLit _ _ lit => some lit
  | .addwLit _ _ lit => some lit
  | .subwLit _ _ lit => some lit
  | .faddLit _ _ _ lit => some lit
  | .fsubLit _ _ _ lit => some lit
  | .fmulLit _ _ _ lit => some lit
  | .fdivLit _ _ _ lit => some lit
  | .fminLit _ _ _ lit => some lit
  | .fmaxLit _ _ _ lit => some lit
  | .fsgnjLit _ _ _ lit => some lit
  | .fsgnjnLit _ _ _ lit => some lit
  | .fsgnjxLit _ _ _ lit => some lit
  | .feqLit _ _ _ lit => some lit
  | .fltLit _ _ _ lit => some lit
  | .fleLit _ _ _ lit => some lit
  | .fmaddLit _ _ _ lit => some lit
  | .fmsubLit _ _ _ lit => some lit
  | .fnmaddLit _ _ _ lit => some lit
  | _ => none

/-- Whether the instruction has a word: all but the event rows. -/
def Instr.encoded : Instr → Bool
  | .interruptDelivery _ => false
  | .resultReady _ => false
  | .planeGating _ => false
  | .planeWakeDone _ => false
  | .homeLoadServe _ => false
  | .loadReply _ => false
  | .homeStoreApply _ => false
  | .replicaCollapseAck _ => false
  | .amoSliceApply _ => false
  | .amoReply _ => false
  | .releasePerformed _ => false
  | .redArrival _ => false
  | .refusalReturn _ => false
  | .forcedMessageApply _ => false
  | .residualAgeExpiry _ => false
  | .quotaWindowStart => false
  | .reductionQueueDrain _ => false
  | .sigaddApply _ => false
  | .waitgeWake _ => false
  | .waitgeRepoll _ => false
  | .waitTimeout _ => false
  | .energyRefill => false
  | .tensorBind _ => false
  | .mmaOccupancyEnd _ _ => false
  | .mmaRetire _ _ => false
  | .copyBurstStart _ => false
  | .copyBurstComplete _ _ _ => false
  | .copyRetire _ _ => false
  | .pageWalkDone _ => false
  | .bankRefillDone _ _ => false
  | .bankScrubDone _ _ => false
  | .battWake _ => false
  | .hoverTableStep _ => false
  | .bdetTableStep _ => false
  | .bwaitWake _ => false
  | .barrierArrival _ => false
  | .barwWake _ => false
  | .specCommit _ => false
  | .specAbort _ _ _ => false
  | .guidonArrival _ => false
  | .dataFlitLand _ => false
  | .furlLand _ => false
  | .pauseFlitLand _ => false
  | .creditArrival _ _ _ => false
  | .routeTear _ _ => false
  | .recvWake _ => false
  | .hostDoorbell _ _ _ => false
  | .admission _ => false
  | .admissionWaitEnd _ => false
  | .taskBind _ => false
  | .splitRequest _ => false
  | .splitWithdrawTimeout _ _ => false
  | .yieldPark _ => false
  | .faultQueueWrite _ => false
  | .tsyncAck _ => false
  | .tspawnStatus _ => false
  | .cnextLoad _ _ => false
  | .cnextSwitch _ => false
  | .ipost _ _ _ => false
  | .preemption _ => false
  | .contextStreamEnd _ => false
  | .ctermGo _ _ => false
  | .terminationDone _ => false
  | .tlbinvAck _ _ => false
  | .pctlQuiesce _ => false
  | .pctlResume _ => false
  | .pctlAbort _ => false
  | .quiesceTimeout _ => false
  | .quiesceDrain _ => false
  | .resumeDone _ => false
  | .shootGo _ => false
  | .shootdownDone _ => false
  | .registerWrite _ _ => false
  | .hnote _ _ => false
  | .hostBar2Write _ _ _ => false
  | .hostBar2Read _ _ _ => false
  | .atsRequest _ _ _ => false
  | .ethFrameArrival _ _ _ => false
  | .transportRequest _ => false
  | .transportReply _ => false
  | .transportRetransmit _ _ _ => false
  | .nredContribution _ => false
  | .nredDeadline _ _ => false
  | .pmcOverflow _ _ => false
  | .dstopArm _ => false
  | .domainStopLand _ => false
  | .scrubRead _ => false
  | .parityError _ => false
  | .linkFailure _ _ => false
  | .errorRecordFlush _ => false
  | .machineCheck _ _ => false
  | .mcrel _ _ => false
  | .powerOnReset => false
  | .imageArrivalEth _ => false
  | .imggo => false
  | .imageCheckDone => false
  | .systemCoreStart _ _ _ _ => false
  | .attgo _ _ => false
  | .attestationDone => false
  | .pm7Extend _ => false
  | .repairListAppend _ => false
  | .sagDetect _ _ _ => false
  | .stretchEnd => false
  | .coreClockCycle => false
  | .notAnInstruction _ => false
  | .instructionFetch => false
  | .partNboundMilvWrite _ _ _ => false
  | .msixTableWrite _ _ _ => false
  | _ => true

/-- The words of a well-formed encoded instruction, first word first. -/
def encode (i : Instr) : List (BitVec 32) :=
  if i.encoded then BitVec.ofNat 32 i.firstWord :: i.literal.toList else []

/-- The number of bytes an encoded instruction occupies (R41). -/
def Instr.bytes (i : Instr) : Nat := if i.literal.isSome then 8 else 4

end Sys2Proof
end

