-- ==== Sys2Proof/Machine/Bits.lean ====
section
/-! DEFINITION. Sparse maps, byte lists and the canonical memory list: the operations over plain data that everything
else uses. -/

namespace Sys2Proof.Machine

/-! ### Sparse maps (keys strictly rising) -/

/-- The value at a key, or the value that an unlisted key stands for. -/
def mget {α : Type} (m : AMap α) (k : Nat) (d : α) : α :=
  match m with
  | [] => d
  | (k', v) :: m => if k' = k then v else if k < k' then d else mget m k d

/-- The value at a key, if it is listed. -/
def mfind {α : Type} (m : AMap α) (k : Nat) : Option α :=
  match m with
  | [] => none
  | (k', v) :: m => if k' = k then some v else if k < k' then none else mfind m k

/-- The map with a key set, keys kept in rising order. -/
def mset {α : Type} (m : AMap α) (k : Nat) (v : α) : AMap α :=
  match m with
  | [] => [(k, v)]
  | (k', v') :: m => if k < k' then (k, v) :: (k', v') :: m else if k = k' then (k, v) :: m else (k', v') :: mset m k v

/-- The map with a value at a key; one that holds `n` others first loses the lowest of them. -/
def mput {α : Type} (m : AMap α) (k : Nat) (v : α) (n : Nat) : AMap α :=
  mset (if (mfind m k).isSome || decide (m.length < n) then m else m.drop 1) k v

/-- The map without a key. -/
def mdel {α : Type} (m : AMap α) (k : Nat) : AMap α := m.filter (fun p => p.1 != k)

/-! ### Memory: address and byte pairs in one canonical form -/

/-- What an address that is not listed reads as (log 1: the spec gives no value; DESIGN CHOICE 0). -/
def emptyByte : Byte := 0

/-- One byte of memory. -/
def memGet (m : List Host.Cell) (a : Nat) : Byte :=
  match m with
  | [] => emptyByte
  | (a', b) :: m => if a' = a then b else if a < a' then emptyByte else memGet m a

/-- Memory with a byte written; the canonical form is kept. -/
def memSet (m : List Host.Cell) (a : Nat) (b : Byte) : List Host.Cell :=
  match m with
  | [] => if b = emptyByte then [] else [(a, b)]
  | (a', b') :: m =>
    if a < a' then (if b = emptyByte then (a', b') :: m else (a, b) :: (a', b') :: m)
    else if a = a' then (if b = emptyByte then m else (a, b) :: m)
    else (a', b') :: memSet m a b

/-- Every address listed is above `lo`, addresses rise, and no entry equals what an unlisted address reads as. -/
def memOk (lo : Nat) : List Host.Cell → Bool
  | [] => true
  | (a, b) :: m => decide (lo ≤ a) && decide (b ≠ emptyByte) && memOk (a + 1) m

/-- The canonical form of a memory. -/
abbrev Memory.wf (m : List Host.Cell) : Bool := memOk 0 m

/-- `n` bytes from `a` on. -/
def memRead (m : List Host.Cell) (a : Nat) : Nat → List Byte
  | 0 => []
  | n + 1 => memGet m a :: memRead m (a + 1) n

/-- Memory with bytes written from `a` on. -/
def memWrite (m : List Host.Cell) (a : Nat) : List Byte → List Host.Cell
  | [] => m
  | b :: bs => memWrite (memSet m a b) (a + 1) bs

/-! ### Byte lists: little-endian (00 R5) -/

/-- The number that bytes stand for, lowest byte first. -/
def leNat : List Byte → Nat
  | [] => 0
  | b :: bs => b.toNat + 256 * leNat bs

/-- The low `n` bytes of a number, lowest byte first. -/
def natLe (x : Nat) : Nat → List Byte
  | 0 => []
  | n + 1 => BitVec.ofNat 8 x :: natLe (x / 256) n

def leWord (bs : List Byte) : Word := BitVec.ofNat 64 (leNat bs)
def wordLe (w : Word) (n : Nat) : List Byte := natLe w.toNat n

/-- Bits [lo + n - 1 : lo] as a number. -/
def bits (x : Nat) (lo n : Nat) : Nat := x / 2 ^ lo % 2 ^ n

/-- Bits of a word as a number. -/
def wbits {w : Nat} (x : BitVec w) (lo n : Nat) : Nat := bits x.toNat lo n

/-- `x` with bits [lo + n - 1 : lo] replaced. -/
def putBits {w : Nat} (x : BitVec w) (lo n v : Nat) : BitVec w :=
  (x &&& ~~~(BitVec.ofNat w ((2 ^ n - 1) * 2 ^ lo))) ||| BitVec.ofNat w (v % 2 ^ n * 2 ^ lo)

/-- Sign extension of the low `n` bits to 64 (00 R10). -/
def sext64 {w : Nat} (x : BitVec w) : Word := x.signExtend 64

/-- Sign extension of the low `n` bits of a word. -/
def sextW (n : Nat) (x : Word) : Word := (x.setWidth n).signExtend 64

def boolW (b : Bool) : Word := if b then 1 else 0

/-- Ceiling division. -/
def ceilDiv (a b : Nat) : Nat := if b = 0 then 0 else (a + b - 1) / b

/-- The integer logarithm: number of bits of `x` minus one, 0 for 0. -/
def log2 (x : Nat) : Nat := Nat.log2 x

/-- Numbers from `lo` on, `n` of them. -/
def span (lo : Nat) : Nat → List Nat
  | 0 => []
  | n + 1 => lo :: span (lo + 1) n

/-- The list with the element at `k` replaced. -/
def setAt {α : Type} (l : List α) (k : Nat) (x : α) : List α :=
  match l, k with
  | [], _ => []
  | _ :: l, 0 => x :: l
  | y :: l, k + 1 => y :: setAt l k x

/-- The list with elements inserted at a place, at the end where the place lies past it. -/
def insAt {α : Type} (l : List α) (k : Nat) (xs : List α) : List α :=
  match l, k with
  | [], _ => xs
  | l, 0 => xs ++ l
  | y :: l, k + 1 => y :: insAt l k xs

/-- The list without the element at `k`. -/
def dropAt {α : Type} (l : List α) (k : Nat) : List α :=
  match l, k with
  | [], _ => []
  | _ :: l, 0 => l
  | y :: l, k + 1 => y :: dropAt l k

/-- First index from `i` on whose element satisfies a test. -/
def findAt {α : Type} (p : α → Bool) (l : List α) (i : Nat) : Option Nat :=
  match l with
  | [] => none
  | x :: l => if p x then some i else findAt p l (i + 1)

/-- The element with the least measure, the first of equals. -/
def leastBy {α : Type} (f : α → Nat) (l : List α) : Option α :=
  match l with
  | [] => none
  | x :: l =>
    match leastBy f l with
    | none => some x
    | some y => if f y < f x then some y else some x

/-- Do byte ranges overlap? -/
def overlap (a la b lb : Nat) : Bool := decide (a < b + lb) && decide (b < a + la)

/-- A vector with element `i` changed, where `i` is in range. -/
def vset {α : Type} {n : Nat} (v : Vector α n) (i : Nat) (x : α) : Vector α n :=
  if h : i < n then v.set i x h else v

/-- Element `i`, or a default outside the range. -/
def vget {α : Type} {n : Nat} (v : Vector α n) (i : Nat) (d : α) : α :=
  if h : i < n then v[i] else d

/-- The vector whose element `i` is `f i`. -/
def vtab {α : Type} (n : Nat) (d : α) (f : Nat → α) : Vector α n :=
  (span 0 n).foldl (fun v i => vset v i (f i)) (Vector.replicate n d)

/-- A vector with every element changed by its index. -/
def vmap {α : Type} {n : Nat} (v : Vector α n) (f : Nat → α → α) : Vector α n :=
  (span 0 n).foldl (fun u i => if h : i < n then u.set i (f i u[i]) h else u) v

end Sys2Proof.Machine
end

