-- ==== Sys2Proof/Machine/Flags.lean ====
section
/-! DEFINITION. Number formats, exact values, rounding and the sticky flags (04 R70-R85). A finite value is an exact
rational times a power of two; square roots, exponentials and logarithms are truncated far below any format's precision
with a sticky half unit, so that one rounding of them is the rounding of the exact value. -/

namespace Sys2Proof.Machine

/-- Flags in the order of FMODE[7:3] (02 R35): bit 0 OF, 1 UF, 2 NX, 3 DZ, 4 NV. -/
abbrev Flags := BitVec 5

def fOF : Flags := 1
def fUF : Flags := 2
def fNX : Flags := 4
def fDZ : Flags := 8
def fNV : Flags := 16

/-- An exact value: NaN, infinity, a signed zero or ±num/den · 2^e with num, den > 0. -/
inductive XR where
  | nan
  | inf (neg : Bool)
  | zero (neg : Bool)
  | fin (neg : Bool) (num den : Nat) (e : Int)
  deriving DecidableEq, Repr

/-- A floating-point format (04 R70, R71): `wide` marks the 8-bit formats under NXM = 0, whose all-ones exponent is an
ordinary binade. -/
structure Fmt where
  eb   : Nat
  mb   : Nat
  wide : Bool
  deriving DecidableEq, Repr

def Fmt.w (f : Fmt) : Nat := 1 + f.eb + f.mb
def Fmt.bias (f : Fmt) : Int := 2 ^ (f.eb - 1) - 1
def Fmt.emin (f : Fmt) : Int := 1 - f.bias
/-- Exponent of the largest binade. -/
def Fmt.emax (f : Fmt) : Int := if f.wide then f.bias + 1 else f.bias

def F64 : Fmt := { eb := 11, mb := 52, wide := false }
def F32 : Fmt := { eb := 8, mb := 23, wide := false }
def F16 : Fmt := { eb := 5, mb := 10, wide := false }
def BF16 : Fmt := { eb := 8, mb := 7, wide := false }
def E4M3 (nxm : Bool) : Fmt := { eb := 4, mb := 3, wide := !nxm }
def E5M2 (nxm : Bool) : Fmt := { eb := 5, mb := 2, wide := !nxm }

/-- The canonical NaN (04 R80). -/
def Fmt.cnan (f : Fmt) : Nat :=
  if f.w = 8 then 0x7F else (2 ^ f.eb - 1) * 2 ^ f.mb + 2 ^ (f.mb - 1)

def Fmt.signed (f : Fmt) (neg : Bool) (mag : Nat) : Nat := if neg then mag + 2 ^ (f.eb + f.mb) else mag

/-- Largest finite magnitude. -/
def Fmt.maxMag (f : Fmt) : Nat := if f.wide then 2 ^ (f.eb + f.mb) - 1 else (2 ^ f.eb - 1) * 2 ^ f.mb - 1

/-- The value of a code (04 R71, R72). -/
def Fmt.dec (f : Fmt) (c : Nat) : XR :=
  let neg := decide (c / 2 ^ (f.eb + f.mb) % 2 = 1)
  let ex := c / 2 ^ f.mb % 2 ^ f.eb
  let ma := c % 2 ^ f.mb
  if ex = 2 ^ f.eb - 1 ∧ !f.wide then (if ma = 0 then .inf neg else .nan)
  else if ex = 0 then (if ma = 0 then .zero neg else .fin neg ma 1 (f.emin - f.mb))
  else .fin neg (2 ^ f.mb + ma) 1 ((ex : Int) - f.bias - f.mb)

/-- num/den · 2^k as a pair of numbers. -/
def scale2 (num den : Nat) (k : Int) : Nat × Nat :=
  if 0 ≤ k then (num * 2 ^ k.toNat, den) else (num, den * 2 ^ (-k).toNat)

/-- floor(log2(num/den)) (04 R70). -/
def flog2 (num den : Nat) : Int :=
  let l : Int := (log2 num : Int) - log2 den
  let (a, b) := scale2 1 1 l
  if num * b < den * a then l - 1 else l

/-- Rounding of q + rem/den to an integer magnitude, under a mode; `neg` is the sign and `r` the stochastic draw
(04 R76, R78). -/
def rndInt (mode : Nat) (neg : Bool) (q rem den r : Nat) : Nat :=
  if rem = 0 then q
  else match mode with
    | 1 => if den ≤ 2 * rem then q + 1 else q
    | 2 => q
    | 3 => if neg then q + 1 else q
    | 4 => if neg then q else q + 1
    | 5 =>
      let f := if neg then (den - rem) * 2 ^ 32 / den else rem * 2 ^ 32 / den
      if neg then (if r < f then q else q + 1) else (if r < f then q + 1 else q)
    | _ => if 2 * rem < den then q else if den < 2 * rem then q + 1 else if q % 2 = 0 then q else q + 1

/-- round(x, fmt, mode) of 04 R79 with its flags; `r` is the stochastic draw. -/
def Fmt.round (f : Fmt) (mode : Nat) (r : Nat) (x : XR) : Nat × Flags :=
  let mode := if mode = 5 && !(decide (f.w ≤ 16)) then 0 else mode
  match x with
  | .nan => if f.wide then (f.maxMag, fNV) else (f.cnan, 0)
  | .inf neg => if f.wide then (f.signed neg f.maxMag, fOF ||| fNX)
                else (f.signed neg ((2 ^ f.eb - 1) * 2 ^ f.mb), 0)
  | .zero neg => (f.signed neg 0, 0)
  | .fin neg num den e =>
    let ex := flog2 num den + e
    let ovf : Nat × Flags :=
      if f.wide then (f.signed neg f.maxMag, fOF ||| fNX)
      else
        let toInf := decide (mode = 0 ∨ mode = 1 ∨ mode = 5) || (mode == 3 && neg) || (mode == 4 && !neg)
        (f.signed neg (if toInf then (2 ^ f.eb - 1) * 2 ^ f.mb else f.maxMag), fOF ||| fNX)
    if f.emax + 1 < ex then ovf
    else
      let (num, den, e) := if ex < f.emin - f.mb - 80 then (1, 1, f.emin - f.mb - 80) else (num, den, e)
      let qe := max ex f.emin - f.mb
      let (a, b) := scale2 num den (e - qe)
      let q := rndInt mode neg (a / b) (a % b) b r
      let inex := decide (a % b ≠ 0)
      let mag := ((qe + f.mb - f.emin).toNat) * 2 ^ f.mb + q
      if f.maxMag < mag then ovf
      else (f.signed neg mag, (if inex then fNX else 0) ||| (if inex && decide (ex < f.emin) then fUF else 0))

/-! ### Exact operations -/

def xneg : XR → XR
  | .nan => .nan
  | .inf n => .inf (!n)
  | .zero n => .zero (!n)
  | .fin n a b e => .fin (!n) a b e

def XR.neg : XR → Bool
  | .nan => false
  | .inf n => n
  | .zero n => n
  | .fin n _ _ _ => n

def XR.isNan : XR → Bool
  | .nan => true
  | _ => false

def XR.isZero : XR → Bool
  | .zero _ => true
  | _ => false

def XR.isInf : XR → Bool
  | .inf _ => true
  | _ => false

/-- An integer times 2^e. -/
def xint (x : Int) (e : Int) : XR := if x = 0 then .zero false else .fin (decide (x < 0)) x.natAbs 1 e

/-- Exact sum; an exact zero of opposite signs is +0, or −0 under RDN (05 R92). -/
def xadd (rdn : Bool) (x y : XR) : XR × Flags :=
  match x, y with
  | .nan, _ => (.nan, 0)
  | _, .nan => (.nan, 0)
  | .inf a, .inf b => if a = b then (.inf a, 0) else (.nan, fNV)
  | .inf a, _ => (.inf a, 0)
  | _, .inf b => (.inf b, 0)
  | .zero a, .zero b => (.zero (if a = b then a else rdn), 0)
  | .zero _, y => (y, 0)
  | x, .zero _ => (x, 0)
  | .fin sa na da ea, .fin sb nb db eb =>
    let e := min ea eb
    let a : Int := (na * 2 ^ (ea - e).toNat * db : Nat)
    let b : Int := (nb * 2 ^ (eb - e).toNat * da : Nat)
    let t := (if sa then -a else a) + (if sb then -b else b)
    if t = 0 then (.zero rdn, 0) else (.fin (decide (t < 0)) t.natAbs (da * db) e, 0)

def xsub (rdn : Bool) (x y : XR) : XR × Flags := xadd rdn x (xneg y)

def xmul (x y : XR) : XR × Flags :=
  match x, y with
  | .nan, _ => (.nan, 0)
  | _, .nan => (.nan, 0)
  | .inf a, .inf b => (.inf (a != b), 0)
  | .inf _, .zero _ => (.nan, fNV)
  | .zero _, .inf _ => (.nan, fNV)
  | .inf a, .fin b _ _ _ => (.inf (a != b), 0)
  | .fin a _ _ _, .inf b => (.inf (a != b), 0)
  | .zero a, y => (.zero (a != y.neg), 0)
  | x, .zero b => (.zero (x.neg != b), 0)
  | .fin sa na da ea, .fin sb nb db eb => (.fin (sa != sb) (na * nb) (da * db) (ea + eb), 0)

def xdiv (x y : XR) : XR × Flags :=
  match x, y with
  | .nan, _ => (.nan, 0)
  | _, .nan => (.nan, 0)
  | .inf _, .inf _ => (.nan, fNV)
  | .zero _, .zero _ => (.nan, fNV)
  | .inf a, y => (.inf (a != y.neg), 0)
  | x, .inf b => (.zero (x.neg != b), 0)
  | .zero a, y => (.zero (a != y.neg), 0)
  | .fin a _ _ _, .zero b => (.inf (a != b), fDZ)
  | .fin sa na da ea, .fin sb nb db eb => (.fin (sa != sb) (na * db) (da * nb) (ea - eb), 0)

/-- a · b + d, the product exact (05 R92). -/
def xfma (rdn : Bool) (a b d : XR) : XR × Flags :=
  let (p, f1) := xmul a b
  let (s, f2) := xadd rdn p d
  (s, f1 ||| f2)

/-- Exact comparison of numbers: −1, 0 or 1; zeros are equal. -/
def xcmp (x y : XR) : Int :=
  let side (n : Bool) : Int := if n then -1 else 1
  match x, y with
  | .inf a, .inf b => if a = b then 0 else side a
  | .inf a, _ => side a
  | _, .inf b => -side b
  | .zero _, .zero _ => 0
  | .zero _, y => -side y.neg
  | x, .zero _ => side x.neg
  | .fin sa na da ea, .fin sb nb db eb =>
    if sa != sb then side sa
    else
      let e := min ea eb
      let a := na * 2 ^ (ea - e).toNat * db
      let b := nb * 2 ^ (eb - e).toNat * da
      if a = b then 0 else if a < b then -side sa else side sa
  | _, _ => 0

def xlt (x y : XR) : Bool := !x.isNan && !y.isNan && decide (xcmp x y < 0)
def xeq (x y : XR) : Bool := !x.isNan && !y.isNan && decide (xcmp x y = 0)

/-! ### Roots, exponentials and logarithms -/

/-- floor(√n) by bits from bit `k` down. -/
def isqrt (n acc : Nat) : Nat → Nat
  | 0 => acc
  | k + 1 => let t := acc + 2 ^ k; if t * t ≤ n then isqrt n t k else isqrt n acc k

/-- ±(a/2^k), truncated, with a sticky half unit. -/
def sticky (neg : Bool) (a : Nat) (e : Int) : XR := .fin neg (2 * a + 1) 1 (e - 1)

/-- Square root (05 R92, 06 R119). -/
def xsqrt : XR → XR × Flags
  | .nan => (.nan, 0)
  | .zero n => (.zero n, 0)
  | .inf n => if n then (.nan, fNV) else (.inf false, 0)
  | .fin true _ _ _ => (.nan, fNV)
  | .fin false num den e =>
    let (num, e) := if e % 2 = 0 then (num, e) else (num * 2, e - 1)
    let a := num * 2 ^ 400 / den
    let r := isqrt a 0 (log2 a / 2 + 1)
    if r * r = a ∧ num * 2 ^ 400 % den = 0 then (.fin false r 1 (e / 2 - 200), 0) else (sticky false r (e / 2 - 200), 0)

/-- Σ z^(2i+1)/(2i+1) for `n` terms at 2^-320 fixed point, `p` holding z^(2i+1) (the inverse hyperbolic tangent). -/
def atanhSum (z2 p i : Nat) : Nat → Nat
  | 0 => 0
  | n + 1 => p / (2 * i + 1) + atanhSum z2 (p * z2 / 2 ^ 320) (i + 1) n

/-- ln m for m = num/den in [1, 2) at 2^-320 fixed point. -/
def lnFix (num den : Nat) : Nat :=
  let z := (num - den) * 2 ^ 320 / (num + den)
  2 * atanhSum (z * z / 2 ^ 320) z 0 110

/-- ln 2 at 2^-320 fixed point. -/
def ln2Fix : Nat := lnFix 2 1

/-- Σ x^i/i! at 2^-320 fixed point, `t` holding the current term. -/
def expSum (x t i : Nat) : Nat → Nat
  | 0 => 0
  | n + 1 => t + expSum x (t * x / 2 ^ 320 / (i + 1)) (i + 1) n

/-- 2^x. -/
def xexp2 : XR → XR
  | .nan => .nan
  | .inf n => if n then .zero false else .inf false
  | .zero _ => .fin false 1 1 0
  | .fin neg num den e =>
    if 40 < flog2 num den + e then (if neg then .fin false 1 1 (-(2 ^ 40)) else .fin false 1 1 (2 ^ 40))
    else if flog2 num den + e < -200 then
      (if neg then .fin false (2 ^ 200 - 1) 1 (-200) else .fin false (2 ^ 200 + 1) 1 (-200))
    else
      let (a, b) := scale2 num den e
      let n : Int := if neg then -(((a + b - 1) / b : Nat) : Int) else ((a / b : Nat) : Int)
      let f : Nat := if neg then ((a + b - 1) / b * b - a) * 2 ^ 320 / b else a % b * 2 ^ 320 / b
      if f = 0 then .fin false 1 1 n
      else sticky false (expSum (f * ln2Fix / 2 ^ 320) (2 ^ 320) 0 90 / 2 ^ 60) (n - 260)

/-- log2 x with its flags (04 R81). -/
def xlog2 : XR → XR × Flags
  | .nan => (.nan, 0)
  | .zero _ => (.inf true, fDZ)
  | .inf n => if n then (.nan, fNV) else (.inf false, 0)
  | .fin true _ _ _ => (.nan, fNV)
  | .fin false num den e =>
    let l := flog2 num den
    let (a, b) := scale2 num den (-l)
    let k := l + e
    if a = b then (xint k 0, 0)
    else
      let fr : Int := ((lnFix a b * 2 ^ 320 / ln2Fix / 2 ^ 40 : Nat) : Int)
      let t : Int := k * 2 ^ 280 + fr
      (sticky (decide (t < 0)) (if t < 0 then t.natAbs - 1 else t.natAbs) (-280), 0)

/-- x · ln 2. -/
def xmulLn2 (x : XR) : XR :=
  match x with
  | .fin n a b e => .fin n (2 * (a * ln2Fix) + 1) b (e - 321)
  | x => x

/-! ### Conversions (04 R82) -/

/-- A float's value as an integer in [lo, hi]: the integer and the flags. -/
def xToInt (mode : Nat) (lo hi : Int) (x : XR) : Int × Flags :=
  match x with
  | .nan => (0, fNV)
  | .inf n => (if n then lo else hi, fNV)
  | .zero _ => (0, 0)
  | .fin neg num den e =>
    if 80 < flog2 num den + e then (if neg then lo else hi, fNV)
    else
      let (num, den, e) := if flog2 num den + e < -80 then (1, 1, -80) else (num, den, e)
      let (a, b) := scale2 num den e
      let q : Int := (rndInt (if mode = 5 then 0 else mode) neg (a / b) (a % b) b 0 : Nat)
      let t := if neg then -q else q
      if t < lo then (lo, fNV) else if hi < t then (hi, fNV) else (t, if a % b = 0 then 0 else fNX)

/-- Is the value an integer, and is it odd (05 R94)? -/
def xIntOdd (x : XR) : Bool × Bool :=
  match x with
  | .zero _ => (true, false)
  | .fin _ num den e =>
    if 80 < flog2 num den + e then (true, false)
    else if flog2 num den + e < 0 then (false, false)
    else let (a, b) := scale2 num den e; (decide (a % b = 0), decide (a % b = 0 ∧ a / b % 2 = 1))
  | _ => (false, false)

/-- The stochastic draw of 04 R78: the value r and the next state. -/
def srDraw (s : Word) : Nat × Word :=
  let s := s ^^^ (s <<< 13)
  let s := s ^^^ (s >>> 7)
  let s := s ^^^ (s <<< 17)
  (((s >>> 32).setWidth 32 ^^^ s.setWidth 32 : BitVec 32).toNat, s)

/-- FMIN and FMAX by codes (05 R93): the code chosen and 1 for a, 2 for b, 0 for the canonical NaN. -/
def Fmt.minmax (f : Fmt) (mx : Bool) (a b : Nat) : Nat × Nat :=
  let x := f.dec a
  let y := f.dec b
  if x.isNan && y.isNan then (f.cnan, 0)
  else if x.isNan then (b, 2)
  else if y.isNan then (a, 1)
  else
    let c := if x.isZero && y.isZero then (if x.neg = y.neg then 0 else if x.neg then -1 else 1) else xcmp x y
    if c = 0 then (a, 1) else if (decide (c < 0)) != mx then (a, 1) else (b, 2)

/-- The value of a code with NaN results made canonical: rounding an exact value keeps it (04 R80). -/
def Fmt.canon (f : Fmt) (c : Nat) : Nat := if (f.dec c).isNan then f.cnan else c

/-! ### Block floating point (04 R73, R83) -/

/-- Value of mantissa field `m` of `k` bits under shared exponent `e`. -/
def bfpVal (nxm : Bool) (k m e : Nat) : XR :=
  if e = 0 then .zero false
  else if e = 255 && nxm then .nan
  else
    let v : Int := if m < 2 ^ (k - 1) then (m : Int) else (m : Int) - 2 ^ k
    xint v ((e : Int) - 127 - ((k : Int) - 1))

/-- BFPENC: shared exponent, mantissas, flags and the next seed; `on` gives the mask bit of each element. -/
def bfpEnc (nxm : Bool) (k mode : Nat) (seed : Word) (xs : List (Nat × Bool)) : Nat × List Nat × Flags × Word :=
  let vals := xs.map (fun p => if p.2 then BF16.dec p.1 else .zero false)
  let draw (seed : Word) : Word := xs.foldl (fun s p => if p.2 && mode == 5 then (srDraw s).2 else s) seed
  if nxm && vals.any (fun x => x.isNan || x.isInf) then
    (255, xs.map (fun _ => 0), (if vals.any XR.isInf then fNV else 0), draw seed)
  else
    let mx : XR := BF16.dec BF16.maxMag
    let fl0 : Flags := (if vals.any XR.isNan then fNV else 0) ||| (if vals.any XR.isInf then fOF ||| fNX else 0)
    let vals := vals.map (fun x => match x with | .nan => mx | .inf n => if n then xneg mx else mx | x => x)
    let exs := vals.filterMap (fun x => match x with | .fin _ a b e => some (flog2 a b + e) | _ => none)
    match exs with
    | [] => (0, xs.map (fun _ => 0), fl0, draw seed)
    | e0 :: es =>
      let top := es.foldl max e0
      let emax : Int := if nxm then 254 else 255
      let clampE := decide (emax < top + 128)
      let e := max 1 (min emax (top + 128))
      let step (acc : List Nat × Flags × Word) (p : XR × Bool) : List Nat × Flags × Word :=
        let (ms, fl, sd) := acc
        let (r, sd) := if p.2 && mode == 5 then srDraw sd else (0, sd)
        match p.1 with
        | .fin neg a b ex =>
          let sc := scale2 a b (ex + ((k : Int) - 1) - (e - 127))
          let q := rndInt mode neg (sc.1 / sc.2) (sc.1 % sc.2) sc.2 r
          let inex := decide (sc.1 % sc.2 ≠ 0)
          let tiny := decide (flog2 a b + ex < e - 127 - ((k : Int) - 1))
          let lim := if neg then 2 ^ (k - 1) else 2 ^ (k - 1) - 1
          let cl := decide (lim < q)
          let q' := if cl then lim else q
          let m := if neg then (2 ^ k - q') % 2 ^ k else q'
          (ms ++ [m], fl ||| (if inex then fNX else 0) ||| (if inex && tiny then fUF else 0)
             ||| (if cl then (if clampE then fOF ||| fNX else fNX) else 0), sd)
        | _ => (ms ++ [0], fl, sd)
      let (ms, fl, sd) := (vals.zip (xs.map Prod.snd)).foldl step ([], fl0, seed)
      (e.toNat, ms, fl, sd)

end Sys2Proof.Machine
end

