-- ==== Sys2Proof/Config.lean ====
section
/-! DEFINITION. Fixed numbers of the A9 and the free values: what the spec leaves open has no body here, so no proof can
use a particular value. -/

namespace Sys2Proof

/-- A die's fields in the platform record (26 R435). -/
structure PlatDie where
  named  : Bool
  part   : Nat
  nbound : Nat
  milv   : Nat
  pdesc  : Nat
  qto    : Nat
  hold   : Nat
  mcq    : Nat
  deriving DecidableEq, Repr, Inhabited

/-- The platform record (26 R435). -/
structure Platform where
  pversion : Nat
  d0 : PlatDie
  d1 : PlatDie
  d2 : PlatDie
  d3 : PlatDie
  cethr    : Nat
  strict   : Bool
  mac      : Nat
  etype    : Nat
  fwBase   : Nat
  fwLen    : Nat
  plim     : Nat
  sfact    : Nat
  deriving DecidableEq, Repr, Inhabited

/-- A key pair of Jostauth (26 R437). -/
structure KeyPair where
  priv : List (BitVec 8)
  pub  : List (BitVec 8)
  deriving DecidableEq, Repr, Inhabited

namespace Config

/-- The thread key of the first system-core thread set; die `d`, unit `u` has key `sysBase + 2·d + u` (01 R19). Compute
thread sets have keys below it: CID · 8192 + identity word. -/
def sysBase : Nat := 2 ^ 25

/-- The tag and writer SHARED (24 R413). -/
def shared : Nat := 0xFFF

/-- The tag NONE of a clean copy (24 R413); no CID has this number. -/
def tagNone : Nat := 0x1000

/-- Free value (log 10): the Ed25519 and the ML-DSA-65 root public key in ROM (26 R433). -/
opaque rootEd : List (BitVec 8)
opaque rootMl : List (BitVec 8)

/-- Free value (log 10): where in an image the signature block of item `k` lies (26 R433); items 0-3 are the stages, 4 the platform
record. -/
opaque sigBlockAt : Nat → List (BitVec 8) → Nat

/-- Free value (log 10): the operator's two platform public keys that come with an image (26 R432, R433). -/
opaque operatorKeys : List (BitVec 8) → List (BitVec 8) × List (BitVec 8)

/-- Free value (log 10): whether an Ed25519, or an ML-DSA-65, signature of a message verifies under a public key (26 R433). -/
opaque edVerify : List (BitVec 8) → List (BitVec 8) → List (BitVec 8) → Bool
opaque mlVerify : List (BitVec 8) → List (BitVec 8) → List (BitVec 8) → Bool

/-- Free value (log 10): the EtherType that the ROM holds (26 R431). -/
opaque romType : Nat

/-- Free value (log 10): the PRKH that an image signed with both root keys carries, if it carries one (26 R432). -/
opaque newPrkh : List (BitVec 8) → Option (BitVec 512)

/-- Free value (log 10): the platform record's fields, whose places in its bytes the spec does not give (26 R435). -/
opaque platform : List (BitVec 8) → Platform

/-- Free value (log 10): where the platform record lies for the system cores (26 R436). -/
opaque recordPa : List (BitVec 8) → Nat

/-- Free value (log 10): the Ed25519 identity key pair that Jostauth derives from the device secret (26 R437). -/
opaque edKeys : BitVec 256 → KeyPair

/-- Free value (log 10): the ML-DSA-65 identity key pair (26 R437). -/
opaque mlKeys : BitVec 256 → KeyPair

/-- Free value (log 10): Woley's certificate for a public key (26 R437). -/
opaque certOf : List (BitVec 8) → List (BitVec 8)

/-- Free value (log 10): the Ed25519 signature that a private key makes over a message (26 R438). -/
opaque edSign : List (BitVec 8) → List (BitVec 8) → List (BitVec 8)

/-- Free value (log 10): the ML-DSA-65 signature that a private key makes over a message (26 R438). -/
opaque mlSign : List (BitVec 8) → List (BitVec 8) → List (BitVec 8)

/-- Free value (log 11): package power averaged over the last 2^20 cc, at the given free counter (26 R440). -/
opaque watt : Nat → BitVec 16

/-- Free value (log 74): CAUSE in the trace record of a park that no fault makes, at the given free counter (23 R408). -/
opaque parkCause : Nat → BitVec 64

/-- Free value (log 12): L2 set of a line (24 R416), below 910. -/
opaque l2Set : Nat → Nat

/-- Free value (log 12): memory-side cache slot of a line (24 R416), below 87381. -/
opaque mscSlot : Nat → Nat

/-- Free value (log 12): which of the lines of a full L2 set a fill evicts, by the free counter. -/
opaque l2Victim : Nat → Nat

/-- Free value (log 6): after how many cc, taken modulo 257, a debit reaches the other clusters (07 R151). -/
opaque debitLag : Nat → Nat

/-- Free value (log 29): how many bytes of a burst are moved in one step (11 R231), by the free counter. -/
opaque beat : Nat → Nat

/-- Free value (log 13): bytes of an access whose value a torn or refused operation leaves old or new (21 R391,
12 R262): true keeps the old byte. -/
opaque keepOld : Nat → Bool

/-- Free value (log 14): the ROM version that Jostauth measures into PM0 (26 R434). -/
opaque romVersion : Nat → List (BitVec 8)

/-- Free value (log 17): control words that a system core has no unit for (IDENT, CID, residual, attach and scoreboard
words), by index and thread key. -/
opaque sysWord : Nat → Nat → BitVec 64

/-- Free value (log 18): SRC of the record of an L1 parity error, for which R416 names no code. -/
opaque l1Src : Nat

end Config

end Sys2Proof
end

