-- ==== Sys2Proof/Machine/State.lean ====
section
/-! DEFINITION. The state of the A9 as plain data: everything the spec gives the machine (INVENTORY.md, State), and the
machine after reset. -/

namespace Sys2Proof.Machine

/-- Why the machine stops. -/
inductive Fault where
  /-- Raised by the system-core access operations: the physical address lies in no LPDDR6 range, no register block and
  not in firmware memory, so the spec places nothing there. Safe: the model stops. -/
  | noStorage (pa : Nat)
  deriving DecidableEq, Repr

/-- Why an instruction has no meaning. -/
inductive Refusal where
  /-- Raised only by an arm of `exec` that has no meaning yet. Safe: the model stops. -/
  | notModelled (mnemonic : String)
  deriving DecidableEq, Repr

/-- Barrier state of one handle (14 R273): `st` 0 idle, 1 waiting, 2 done. -/
structure BarSt where
  st      : Nat
  latched : BitVec 32
  noSpec  : Bool
  deriving DecidableEq, Repr

/-- What a checkpoint of a speculative crossing holds (14 R282), which is also what a TCB saves (19 R336): the registers
with their planes, STATUS, FMODE, SRSEED, DMODE, the offset words, the loop words, the claim interval and the barrier
states. -/
structure Arch where
  g      : Vector Word 32
  gd1    : Vector Word 32
  gd2    : Vector Word 32
  v      : Vector VWord 32
  vd1    : Vector VWord 32
  vd2    : Vector VWord 32
  m      : Vector Word 8
  tc     : Vector (BitVec 256) 4
  status : Word
  fmode  : Word
  srseed : Word
  dmode  : Word
  dtoff  : Vector Word 4      -- DTOFFG1, DTOFFG2, DTOFFL1, DTOFFL2
  ls     : Vector Word 2
  le     : Vector Word 2
  lc     : Vector Word 2
  lstat  : Word
  claim  : Word               -- claim point
  rend   : Word               -- range end
  bar    : Vector BarSt 8
  deriving DecidableEq, Repr

/-- What a thread set waits for. -/
inductive Wait where
  /-- gated planes are waking (02 R28) -/
  | plane
  /-- WAITGE; `reg` says that the slice holds its waiter entry (10 R199) -/
  | waitge (d : Reg) (r : Req) (reg : Bool)
  /-- BARR or BARL waits for the superstep of its previous arrival (14 R274) -/
  | barr (h : Nat)
  | barw (h : Nat) (d : Reg)
  | bwait (slot : Nat)
  | recv (port : Nat) (d : Reg)
  | batt (slot : Nat) (d : Reg)
  | hover (slot core tslot : Nat) (d : Reg)
  | bdet (slot : Nat)
  /-- FENCE, by kind and whether its scope is CLUSTER or wider (10 R187) -/
  | fence (kind : Nat) (wide : Bool)
  /-- a load or store that finds no mark or no hold-buffer entry free waits for its barrier (14 R283, R284) -/
  | resolve
  | rflush
  /-- the reply of a SIGADD (10 R198) -/
  | sigadd
  /-- a system core's register store or TSPAWN, TSYNC, TDONE before their release is performed -/
  | tdone
  | tspawn (d : Reg) (r : Req)
  | tsync (va : Word) (all : Bool)
  | tlbinv (form scope : Nat) (va : Word) (left : List Nat) (started : Bool)
  | wfi
  /-- a bounded wait whose clock has passed its limit, with that clock: it traps once the loads that left the core have landed (05
  R87; 07 R145) -/
  | expired (clk : Nat)
  deriving DecidableEq, Repr

/-- A register that is not ready (05 R86): class 0 g, 1 v, 2 m; until cc `due`, or until a reply when `due` is none. -/
structure Busy where
  cls : Nat
  r   : Nat
  due : Option Nat
  deriving DecidableEq, Repr

/-- A pending crossing (14 R281). -/
structure Crossing where
  chk  : Arch
  pc   : Word
  d    : Reg
  h    : Nat
  chan : Nat
  gen  : BitVec 32   -- S of the superstep it waits for
  deriving DecidableEq, Repr

/-- What TCQRY reports of a TC register (12 R260). -/
structure TcQ where
  iss   : Bool
  ret   : Bool
  entry : Nat
  bytes : Nat
  op    : Nat        -- acceptance number of the copy
  deriving DecidableEq, Repr

/-- A thread set with its context's state in one position. -/
structure TSet where
  a       : Arch
  bound   : Option Nat        -- physical address of the bound task's TCB
  pc      : Word
  cause   : Word
  epc     : Word
  tval    : Word
  escr    : Word
  cycle   : Word
  wlimit  : Word
  specst  : Word              -- ACT, CHAN and ABORTS; HELD is a view of the hold buffer
  speccnt : Word
  residx  : Word
  pmc     : Vector Word 8
  pmsel   : Vector Word 8
  pmovf   : Word
  pmctl   : Word
  irq     : BitVec 8
  mc      : List Nat          -- machine-check records pending on a system core (24 R417)
  inMc    : Bool              -- the system core is in its machine-check handler
  eceil   : Nat               -- ECEIL of the bound task's launch (07 R149)
  wait    : Option Wait
  wclk    : Nat
  wlim    : Nat               -- limit captured when the wait began (07 R145)
  busy    : List Busy
  quiet   : Nat               -- quiet cc of R27
  planeAt : Nat               -- one more than the cc in which an instruction last named or acted on a plane
  wakeAt  : Option Nat        -- planes are waking until then
  epoch   : Nat               -- acquire epoch (10 R184)
  spec    : Option Crossing
  exempt  : Option Word       -- watchpoint exemption (23 R404)
  watch   : Option Word       -- address of a WATCH trap whose return is to come (23 R404)
  callAt  : Option Word       -- address of a covered ECALL or EBREAK whose return is to come (03 R61, 20 R354)
  entered : Bool              -- at the handler's first instruction (20 R352)
  after   : Option Word       -- the instruction after the BARWS of a crossing that committed into a domain stop (23 R410)
  nxmTo   : Option (Nat × Nat × Word) -- a write of NXMC that waits: for operations before which number, how, what (02 R36)
  evts    : BitVec 64         -- events of R400 in this cc
  pmw     : List (Nat × Nat × Word)  -- writes of counter words completing in this cc (23 R401)
  halted  : Bool              -- a system core that is halted
  stopped : Bool              -- a context that stops issuing after a parity error (24 R418)
  undo    : Option (Arch × Word × Nat) -- before the last long operation, while it executes (05 R87)
  readyAt : Nat               -- first cc in which it may issue (05 R86)
  lastIss : Nat               -- one more than the cc of its last issue
  deriving DecidableEq, Repr

/-- A byte range, written or only read. -/
structure Rng where
  lo  : Nat
  len : Nat
  wr  : Bool
  deriving DecidableEq, Repr

/-- An operand stream of a pass: the slots that it reads in turn, each with its beats of 64 bytes left. Slot 8 is none. -/
abbrev Stream := List (Nat × Nat)

/-- A captured tensor instruction (12 R232): `fmt` 0 BF16, 1 F16, 2 E4M3, 3 E5M2, 4 E4E5, 5 BFP, 6 S8, 7 MZERO, 8 MTRN;
`phase` 0 queued, 1 occupying `lane` while `passes` are left, 2 writing back until `due`. -/
structure TenOp where
  fmt    : Nat
  k      : Nat               -- BFP k
  n      : Nat
  aA     : Nat
  bA     : Nat
  dA     : Nat
  scale  : BitVec 32
  out16  : Bool              -- x[3]
  cls    : Nat
  nxm    : Bool
  planes : BitVec 2
  offL   : Vector Word 2
  phase  : Nat
  lane   : Nat
  passes : List (List Stream)  -- passes over the tiles that are left, the first one under way (12 R240, R241)
  due    : Nat
  res    : List (Nat × List Byte)  -- tiles to write, by local address
  flags  : BitVec 5
  deriving DecidableEq, Repr

/-- One side of a piece of a burst: a local address, a global place, a fill value or a peer address. -/
inductive Place where
  | loc (a : Nat)
  | glo (pa home : Nat) (rm part : Bool)   -- `part`: its entry has PLACE = 00, so that its home follows the layout
  | fill (b : List Byte)
  | peer (va : Word)
  deriving DecidableEq, Repr

/-- A contiguous move of `len` bytes (12 R257). -/
structure Piece where
  src : Place
  dst : Place
  len : Nat
  deriving DecidableEq, Repr

/-- A burst: `st` 0 not started, 1 started, 2 performed, 3 performed and counted, 4 failed (21 R391); a peer's reply is landing where
its request was performed (5) or refused (6). -/
structure Burst where
  bytes : Nat                -- primal bytes
  row   : Nat
  ps    : List Piece
  left  : List Piece         -- what is still to be moved once it has started
  st    : Nat
  deriving DecidableEq, Repr

/-- A copy in flight (12 R256, R257). -/
structure CopyOp where
  tcw    : BitVec 256
  ctr    : Option (Nat × Nat × Word)   -- counter: physical address, home, virtual address
  planes : BitVec 2
  offs   : Vector Word 4
  chans  : List (Nat × BitVec 32)
  tc     : Nat               -- TC register
  peer   : Nat               -- destination partition of ops 5-8
  pages  : List (Nat × Nat)  -- translations held: CID and virtual page
  bursts : List Burst
  passed : Nat               -- consecutive bursts of higher PRIO since its last one (12 R259)
  start  : Nat               -- first cc of its bursts: the index array has been read (12 R256 step 4)
  deriving DecidableEq, Repr

inductive OpBody where
  | ten (o : TenOp)
  | cpy (o : CopyOp)
  deriving DecidableEq, Repr

/-- An entry of the range scoreboard (12 R247). -/
structure EngOp where
  id    : Nat                -- order of acceptance
  entry : Nat
  tk    : Nat
  loc   : List Rng
  glo   : List Rng           -- by physical address
  body  : OpBody
  deriving DecidableEq, Repr

/-- A bank and what it carries (08 R157, R171, R172). -/
structure Bank where
  data  : List Host.Cell     -- bytes other than zero
  nxm   : Bool
  owner : Nat
  phys  : Option Nat         -- physical bank while resident
  bad   : Bool               -- an uncorrectable error stands in it (24 R417)
  deriving DecidableEq, Repr

inductive Slot where
  | empty
  | reserved
  | attached (b : Bank)
  | outgoing (b : Bank)
  deriving DecidableEq, Repr

/-- A send port (18 R316, R322). -/
structure SendPort where
  isOpen  : Bool
  torn    : Bool
  dst     : Word
  route   : Nat              -- number of its latest route
  credits : Nat
  clk     : Nat
  paused  : Bool
  old     : List (Nat × Word × Nat)  -- closed routes whose furl is on its way: number, destination word, hold clock
  deriving DecidableEq, Repr

/-- A receive port (18 R315, R319-R322). -/
structure RecvPort where
  conf    : Bool
  base    : Nat
  size    : Nat
  tail    : BitVec 48
  free    : BitVec 48
  seen    : BitVec 48
  bound   : Option (Nat × Nat × Nat)   -- sending core-and-context, send port, route
  paused  : Bool
  torn    : Bool
  furl    : Bool
  src     : BitVec 13
  nxm     : Option Bool      -- of the guidon bound or last bound
  waiting : List Flit
  deriving DecidableEq, Repr

/-- What a context holds on one core. -/
structure CC where
  nxm    : Bool
  slots  : Vector Slot 8
  sb     : List EngOp
  ovf    : Bool
  nextId : Nat
  tcq    : Vector TcQ 16         -- by thread set · 4 + TC register
  send   : Vector SendPort 4
  recv   : Vector RecvPort 4
  refused : BitVec 32            -- RESST of the core for this context (10 R196)
  forced  : BitVec 16
  deriving DecidableEq, Repr

/-- A residual entry (10 R193); `r` is the request that carries it. -/
structure Res where
  r     : Req
  born  : Nat
  deriving DecidableEq, Repr

/-- A hold-buffer entry (14 R283); `r` is the store it becomes. -/
structure Held where
  sector : Nat
  rel    : Bool
  ties   : List Nat          -- the VST.G whose bytes it shares with another sector (06 R128)
  r      : Req
  deriving DecidableEq, Repr

/-- An L1 sector with the bytes it holds and the order of its fill. -/
structure L1Sec where
  sector : Nat
  mask   : BitVec 48
  data   : BitVec 384
  seq    : Nat
  cid    : Nat
  deriving DecidableEq, Repr

/-- A cached leaf (20 R367). -/
structure TlbE where
  cid  : Nat
  big  : Bool                -- a level-2 leaf
  page : Nat                 -- virtual address div page size
  pte  : Word
  deriving DecidableEq, Repr

/-- A cached pointer: the table that a prefix of the address leads to. -/
structure PtrE where
  cid  : Nat
  lvl  : Nat                 -- 1 or 2
  pre  : Nat
  tab  : Nat
  deriving DecidableEq, Repr

/-- A core. -/
structure CoreSt where
  act     : Option Nat
  stby    : Option Nat
  strm    : Option (Nat × Bool)   -- context streaming; true: in
  cnext   : BitVec 12
  wantLd  : List Nat              -- LOADs that wait for a stream to end, in order
  wantSw  : Bool
  since   : Nat                   -- cc in which the active context became active
  rr      : Nat
  l1      : List L1Sec
  tile    : Vector (Option Res) 32
  hold    : List Held
  utlb    : List TlbE
  waddr   : Vector Word 16
  wctl    : Vector Word 16
  divAt   : Nat                   -- first cc in which the unit accepts again
  vecAt   : Nat
  trnAt   : Nat
  deriving DecidableEq, Repr

/-- A physical bank: `st` 0 free, 1 in use, 2 scrubbing (08 R170). -/
structure Phys where
  st  : Nat
  gen : BitVec 16
  deriving DecidableEq, Repr

/-- A cluster. -/
structure ClusterSt where
  mshare : Word
  bquar  : Word
  ptr    : Nat
  cred   : Vector Nat 8
  lanes  : Vector (Option (Nat × Nat)) 8  -- core-and-context, acceptance number
  phys   : Vector Phys 32
  tlb    : List TlbE
  ptrs   : List PtrE
  lastOp : Vector Nat 4                   -- round-robin place of the copy engine, by PRIO
  landed : Nat                            -- bytes of the copy engine that the bank pool still has to take (12 R259)
  sent   : Nat                            -- bytes that the mesh still has to take from it
  deriving DecidableEq, Repr

/-- A message in flight, a timer or a hardware step that is due: each becomes the event of `Instr` of the same name. -/
inductive Ev where
  | resultReady (tk : Nat)
  | planeGating (tk : Nat)
  | planeWakeDone (tk : Nat)
  | homeLoadServe (r : Req)
  | loadReply (r : Req)
  | homeStoreApply (r : Req)
  | replicaCollapseAck (r : Req)
  | amoSliceApply (r : Req)
  | amoReply (r : Req)
  | releasePerformed (tk : Nat)
  | redArrival (r : Req)
  | refusalReturn (r : Req)
  | forcedMessageApply (r : Req)
  | residualAgeExpiry (core : Nat)
  | quotaWindowStart
  | reductionQueueDrain (slice : Nat)
  | sigaddApply (r : Req)
  | waitgeWake (tk : Nat)
  | waitgeRepoll (tk : Nat)
  | waitTimeout (tk : Nat)
  | energyRefill
  | tensorBind (cluster : Nat)
  | mmaOccupancyEnd (cluster lane : Nat)
  | mmaRetire (cc entry : Nat)
  | copyBurstStart (cluster : Nat)
  | copyBurstComplete (cc entry burst : Nat)
  | copyRetire (cc entry : Nat)
  | bankRefillDone (cc slot : Nat)
  | bankScrubDone (cluster bank : Nat)
  | battWake (tk : Nat)
  | hoverTableStep (tk : Nat)
  | bdetTableStep (tk : Nat)
  | bwaitWake (tk : Nat)
  | barrierArrival (v : Arrival)
  | barwWake (tk : Nat)
  | specCommit (tk : Nat)
  | specAbort (tk ch gen : Nat)
  | guidonArrival (f : Flit)
  | dataFlitLand (f : Flit)
  | furlLand (f : Flit)
  | pauseFlitLand (f : Flit)
  | creditArrival (cc port n : Nat)
  | routeTear (cc port : Nat)
  | recvWake (tk : Nat)
  | admission (part : Nat)
  | admissionWaitEnd (part : Nat)
  | taskBind (pos : Nat)
  | splitRequest (pos : Nat)
  | splitWithdrawTimeout (part tcb : Nat)
  | yieldPark (tk : Nat)
  | faultQueueWrite (part : Nat)
  | tsyncAck (tk : Nat)
  | tspawnStatus (tk : Nat)
  | cnextLoad (core cid : Nat)
  | preemption (core : Nat)
  | contextStreamEnd (core : Nat)
  | terminationDone (die : Nat)
  | tlbinvAck (tk cluster : Nat)
  | quiesceTimeout (part : Nat)
  | quiesceDrain (part : Nat)
  | resumeDone (part : Nat)
  | shootdownDone (die : Nat)
  | transportRequest (n : NetReq)
  | transportReply (n : NetReq)
  | transportRetransmit (part dst seq : Nat)
  | nredContribution (n : NetReq)
  | nredDeadline (part tag : Nat)
  | pmcOverflow (tk idx : Nat)
  | domainStopLand (ch : Nat)
  | errorRecordFlush (die : Nat)
  | machineCheck (die rec : Nat)
  | imageCheckDone
  | systemCoreStart (die unit : Nat) (pc arg : BitVec 64)
  | attestationDone
  | stretchEnd
  deriving DecidableEq, Repr

/-- A waiter: a thread set, or a queue head (10 R199, 19 R331). A parked task's wait stands in its `Task` (19 R342). -/
inductive Waiter where
  | ts (tk : Nat)
  | adm (part q : Nat)
  deriving DecidableEq, Repr

/-- A line as a level holds it: valid and dirty sectors, data and owner tag (24 R413). -/
structure Line where
  valid : BitVec 4
  dirty : BitVec 4
  data  : BitVec 1536
  tag   : Nat
  deriving DecidableEq, Repr

/-- A speculative mark (14 R284). -/
structure Mark where
  line : Nat
  chan : Nat
  gen  : BitVec 32
  deriving DecidableEq, Repr

/-- A held lost line (24 R414): its record number, the level that failed, the L2 way, and the sectors in which an uncorrectable
error stands at each level. -/
structure HeldLine where
  line  : Nat
  recno : Nat
  level : Nat
  way   : Nat
  l2    : BitVec 4
  msc   : BitVec 4
  mem   : BitVec 4
  deriving DecidableEq, Repr

/-- A lane of a queue entry (10 R191): operation, lane, the target before its addends, and the addends combined. -/
structure AddLane where
  op   : Nat
  lane : Nat
  base : Nat
  sum  : BitVec 64
  deriving DecidableEq, Repr

/-- What the addends of a line's queue entry have done: the bytes that they have made and the line before them (24 R418), and
the merged lanes (10 R191). -/
structure Addends where
  mask  : BitVec 192
  was   : BitVec 1536
  lanes : List AddLane
  deriving DecidableEq, Repr

/-- A home slice. -/
structure SliceSt where
  l2     : AMap Line          -- by line key
  msc    : AMap Line
  rq     : List (Nat × Nat)   -- reduction queue: line key and tag, oldest first (10 R191, 24 R418)
  adds   : AMap Addends       -- what the entries' addends have done, by line key
  cnt    : AMap Nat           -- accepted in this window, by cluster · 4096 + CID (10 R192)
  wait   : List (Waiter × Nat × Word)  -- waiter table: who, counter address, target
  marks  : List Mark
  swaddr : Vector Word 16
  swctl  : Vector Word 16
  swhit  : Vector Word 16
  quar   : Vector Word 32
  lost   : List HeldLine
  queue  : List Ev            -- accesses that have arrived at held lines, in order (24 R421)
  fixes  : List (Nat × Nat × Nat × Nat)  -- corrected errors: kind, set or slot, way, cc (24 R412)
  deriving DecidableEq, Repr

/-- A barrier channel (14 R270, R280; 23 R409). -/
structure ChanSt where
  grant   : Option (Nat × Nat × Nat)  -- CID, launch number, handle
  s       : BitVec 32
  op      : Nat
  vote    : BitVec 32
  mem     : AMap (BitVec 32)          -- by cluster
  arr     : AMap (BitVec 32)
  leaving : List Nat                  -- identity words
  ring    : Word
  level   : Nat
  first   : Option Nat                -- cc of the first arrival
  last    : Nat
  who     : Nat
  sum     : Nat
  n       : Nat
  armAt   : Option Nat                -- ARM, with the cc of its write
  stopped : Bool
  step    : BitVec 32
  stopS   : Option (BitVec 32)        -- the named completion has happened, with its S
  mems    : List Nat                  -- members the stop waits for, identity words
  held    : List Nat                  -- members that it holds (23 R410)
  deriving DecidableEq, Repr

/-- An error record to be written, with the line it reports held. -/
structure ErrRec where
  w0    : Word
  w1    : Word
  w2    : Word
  w3    : Word
  w4    : Word
  w5    : Word
  home  : Nat
  line  : Nat
  hold  : Bool
  deriving DecidableEq, Repr

/-- A die (21 R374, 24 R415, 25 R426, 26 R440). -/
structure DieSt where
  part    : Nat
  state   : Nat              -- 0 RUN, 1 QUIESCING, 2 QUIESCED, 3 RESUMING, 4 OFF
  res     : Nat
  qto     : BitVec 16
  hold    : BitVec 16
  nbound  : BitVec 2
  milv    : BitVec 8
  sbusy   : Bool
  sdone   : Bool
  sdirty  : Bool             -- a layout write fell in the running shoot-down
  pdesc   : Word
  mcq     : Word
  mctail  : Word
  mchead  : Word
  retf    : Vector Word 64
  ctCid   : BitVec 12
  tbusy   : Bool
  tcid    : Nat              -- context whose termination runs
  tfault  : Option (Nat × Word)  -- cause and address of the fetch fault that began it (20 R352)
  termq   : List (Nat × Option (Nat × Word))  -- terminations that the hardware begins when the running one ends
  terr    : Bool
  sagd    : BitVec 32
  kept    : List ErrRec
  dropped : Nat
  qsince  : Nat              -- cc in which QUIESCING began
  qdie    : Nat              -- die on which QUIESCE was commanded
  drained : Bool             -- step 3 of R379 has begun
  serves  : Bool             -- the function of this number is a partition's function (21 R380, 22 R395)
  dead    : List Nat         -- routers of which a link has failed (24 R411)
  deriving DecidableEq, Repr

/-- An admitted launch (19 R331): its number, record addresses, snapshot and unfinished tasks. -/
structure Launch where
  seq   : Nat
  va    : Word
  pa    : Nat
  cid   : Nat
  q     : Nat
  snap  : BitVec 2048
  left  : Nat
  first : List Nat           -- cores on which it has bound (08 R176)
  deriving DecidableEq, Repr

/-- A task as the dispatcher tracks it; `st` as TCB STATE (19 R336). -/
structure Task where
  tcb   : Nat
  seq   : Nat
  low   : Nat
  cid   : Nat
  st    : Nat
  pos   : Nat                -- identity word of its position, or of its home
  hv    : Bool
  split : Bool               -- created by a split
  wait  : Option (Nat × Nat × Word)  -- parked wait: counter address, kept home, target
  wclk  : Nat
  wlim  : Nat
  size  : Nat                -- END - CUR last reported
  req   : Option (Nat × Nat) -- split request: requester's key and cc
  deriving DecidableEq, Repr

/-- A TCB as the dispatcher's cache holds it (19 R336). -/
structure TcbRec where
  state : Nat
  cid   : Nat
  launch : Word
  seq   : Nat
  low   : Word
  home  : Nat
  hv    : Bool
  wclk  : Nat
  wlim  : Nat
  pc    : Word
  residx : Word
  wlimit : Word
  a     : Arch
  deriving DecidableEq, Repr

/-- A fault-queue entry that waits for room (19 R334). -/
structure FqEnt where
  cid    : Nat
  va     : Word              -- area
  phys   : Bool
  z      : Nat
  words  : List Word         -- the eight words of the entry
  tcb    : Nat
  dflt   : Bool              -- already the default queue
  q      : Nat
  deriving DecidableEq, Repr

/-- An NRED instance at its root (21 R393). -/
structure Nred where
  root  : Nat
  tag   : Nat
  count : Nat
  len   : Nat
  wide  : Bool
  dead  : Nat
  sum   : List Byte
  who   : List NetReq
  ended : Bool               -- it has ended by its deadline
  deriving DecidableEq, Repr

/-- An admission that waits in steps 2-5 of 19 R331. -/
structure Adm where
  q    : Nat
  va   : Word
  pa   : Nat
  snap : BitVec 2048
  deriving DecidableEq, Repr

/-- A partition: dispatcher and transport. -/
structure PartSt where
  seqno    : BitVec 40
  qseq     : AMap Nat            -- sequence numbers of entries, by queue · 2^64 + entry number
  launches : List Launch
  tasks    : List Task
  recs     : AMap (Nat × BitVec 2048)  -- cached launch records by physical address, with their context
  tcbs     : AMap TcbRec
  adm      : Option Adm
  rrq      : Vector Nat 8        -- the queue after the one served last, by PRIO
  admAt    : Nat
  used     : List Nat            -- TCBs taken
  tcbPte   : AMap Word           -- entries that map TCBs of launch pools; a pool of the partition has none
  fq       : List FqEnt
  sent     : AMap Nat            -- next sequence number by destination
  flying   : List NetReq
  replies  : List NetReq         -- stored replies
  nreds    : List Nred
  llog     : Nat                 -- entries written to the link log
  deriving DecidableEq, Repr

/-- What a position keeps while its context is streamed out, beside its image (02 R27; 03 R61; 20 R352; 23 R404). -/
structure Kept where
  exempt  : Option Word
  watch   : Option Word
  callAt  : Option Word
  entered : Bool
  after   : Option Word
  quiet   : Nat
  deriving DecidableEq, Repr

/-- The per-context words (20 R358) while the context is known to the machine. -/
structure Ctx where
  res     : Nat                  -- cores on which it is resident
  root    : Word
  tvec    : Word
  wlimit  : Word
  ebudget : Word
  ecost   : Word
  erefill : Word
  resq    : Word
  state   : Word
  imgtab  : Word
  trace   : Word
  tidx    : Word
  tctr    : Word
  dfq     : Word
  part    : Nat
  desc    : Nat                  -- descriptor's physical address
  terms   : List (Nat × Option (Nat × Word))  -- posted terminations in order: CID, and the fault of 20 R352 (20 R353)
  owed    : List (Nat × Int × Nat)  -- debits on their way to BAL: cluster, tokens, cc of arrival (07 R151)
  kept    : AMap Kept            -- what positions streamed out keep beside their image
  deriving DecidableEq, Repr

/-- The host side (21 R383-R385). -/
structure HostSt where
  bells   : List (Nat × Nat × Word)   -- held doorbells: function, queue, tail
  msix    : AMap Word                 -- table, by function · 2048 + offset
  msixCtl : AMap Word                 -- Message Control by function: Enable in bit 15, Function Mask in bit 14 (log 40)
  pba     : List (Nat × Nat)          -- pending bits
  msgs    : List (Nat × Nat)          -- messages sent: function, vector
  reads   : List (Nat × List Byte)    -- read completions; an empty list is Completer Abort
  ats     : List (Nat × Option Word)  -- ATS answers
  inval   : List Nat                  -- ATS invalidations sent, by function
  frames  : List (Nat × Nat × List Byte)  -- frames handed to system cores
  copied  : List Nat                  -- frames that the partition manager is copying (24 R420 step 3)
  deriving DecidableEq, Repr

/-- Jostauth (21 R384, 26 R431-R438). -/
structure JostSt where
  listen  : Bool
  check   : Option (List Byte × Nat)  -- image and source: 0 host, 1 Ethernet
  later   : Option (List Byte × Nat)
  booted  : Bool
  rej     : Bool
  rejc    : Nat
  imglen  : Word
  window  : List Host.Cell
  nonce   : BitVec 512
  report  : List Byte
  repRdy  : Bool
  attq    : List (Bool × BitVec 512)
  pm      : Vector (BitVec 512) 8
  ext     : List (List Byte)          -- PM7 extensions that wait for a report
  ringRep : List Byte                 -- last report given over the service ring
  vfloor  : BitVec 32
  version : BitVec 32
  pversion : BitVec 32
  source  : Nat
  repair  : List Word
  secret  : BitVec 256
  edKey   : KeyPair                   -- identity key pairs (26 R437)
  mlKey   : KeyPair
  certs   : List (List Byte)          -- Woley's certificates for their public keys
  prkh    : BitVec 512
  cethr   : Nat
  strict  : Bool
  mac     : BitVec 48
  etype   : Nat
  fwBase  : Nat
  fwLen   : Nat
  plim    : Nat
  sfact   : Nat
  recPa   : Word
  deriving DecidableEq, Repr

/-- An event that is due from cc `due` on. -/
structure Pend where
  due : Nat
  ev  : Ev
  deriving DecidableEq, Repr

/-- What moves next (the model's own input, log 4): a message is delivered, a thread set issues, something outside the
package acts, the clock ticks, hardware drops a cached copy that it may drop at any time, or the partition manager begins or
ends the copy of a frame (24 R420 step 3). -/
inductive Choice where
  | deliver (k : Nat)
  | issue (tk : Nat)
  | input (e : Instr)
  | clock
  | evictL1 (core sector : Nat)
  | evictL2 (home line : Nat)
  | evictMsc (home line : Nat)
  | evictBank (cc slot : Nat)
  | evictTlb (cluster : Nat)
  | copyFrame (frame : Nat) (on : Bool)
  deriving DecidableEq, Repr

/-- A `.bank` image that the loader placed with a kernel (03 R69, 08 R176). -/
structure BankImage where
  cid   : Nat
  entry : Word
  slot  : Nat
  data  : List Host.Cell
  deriving DecidableEq, Repr

/-- The whole machine. -/
structure State where
  cyc      : Nat                 -- package cycle count (00 R3)
  cur      : Nat                 -- key of the thread set whose instruction runs
  agenda   : List Choice
  issueq   : List Nat            -- thread sets chosen in this cc (07 R137)
  pend     : List Pend
  here     : Nat                 -- place in pend of the message being delivered
  blocked  : Bool                -- the step has met a held line, so that it waits (24 R414)
  seq      : Nat                 -- order of L1 fills and acquires (10 R184)
  free     : Nat                 -- counter of the free values
  mem      : List Host.Cell      -- LPDDR6 and firmware memory
  ts       : AMap TSet
  ccs      : AMap CC
  cores    : AMap CoreSt
  clusters : AMap ClusterSt
  slices   : AMap SliceSt
  reps     : AMap Line           -- RM replicas, by die · 2^50 + line key
  chans    : AMap ChanSt
  dies     : AMap DieSt
  parts    : AMap PartSt
  ctxs     : AMap Ctx
  host     : HostSt
  jost     : JostSt
  images   : List BankImage
  stretch  : Word                -- STRETCH.COUNT
  sagFrom  : Nat                 -- first stretched cc
  sagTo    : Option Nat          -- the last sag lasts to this cc; none while the clock is not stretched
  throt    : Bool                -- PWR.THROT
  watt     : BitVec 16
  deriving DecidableEq, Repr

/-! ### Reset values -/

def BarSt.reset : BarSt := { st := 0, latched := 0, noSpec := false }

/-- Registers at context creation (02 R34-R40; log 2). -/
def Arch.reset : Arch :=
  { g := Vector.replicate 32 0, gd1 := Vector.replicate 32 0, gd2 := Vector.replicate 32 0
    v := Vector.replicate 32 0, vd1 := Vector.replicate 32 0, vd2 := Vector.replicate 32 0
    m := Vector.replicate 8 0, tc := Vector.replicate 4 0
    status := 4, fmode := 0, srseed := 1, dmode := 0x1A
    dtoff := Vector.replicate 4 0, ls := Vector.replicate 2 0, le := Vector.replicate 2 0
    lc := Vector.replicate 2 0, lstat := 0, claim := 0, rend := 0
    bar := Vector.replicate 8 BarSt.reset }

def TcQ.reset : TcQ := { iss := false, ret := false, entry := 0, bytes := 0, op := 0 }

def TSet.reset : TSet :=
  { a := Arch.reset, bound := none, pc := 0, cause := 0, epc := 0, tval := 0, escr := 0, cycle := 0
    wlimit := 0x10000000, specst := 0, speccnt := 0, residx := 0
    pmc := Vector.replicate 8 0, pmsel := Vector.replicate 8 0, pmovf := 0, pmctl := 0
    irq := 0, mc := [], inMc := false, eceil := 3, wait := none, wclk := 0, wlim := 0, busy := []
    quiet := 0, planeAt := 0, wakeAt := none, epoch := 0, spec := none, exempt := none, watch := none, callAt := none, entered := false, after := none, nxmTo := none
    evts := 0, pmw := [], halted := false, stopped := false, undo := none, readyAt := 0, lastIss := 0 }

def SendPort.reset : SendPort :=
  { isOpen := false, torn := false, dst := 0, route := 0, credits := 0, clk := 0, paused := false, old := [] }

def RecvPort.reset : RecvPort :=
  { conf := false, base := 0, size := 0, tail := 0, free := 0, seen := 0, bound := none, paused := false
    torn := false, furl := false, src := 0, nxm := none, waiting := [] }

def CC.reset : CC :=
  { nxm := false, slots := Vector.replicate 8 Slot.empty, sb := [], ovf := false, nextId := 0, tcq := Vector.replicate 16 TcQ.reset
    send := Vector.replicate 4 SendPort.reset, recv := Vector.replicate 4 RecvPort.reset, refused := 0, forced := 0 }

def CoreSt.reset : CoreSt :=
  { act := none, stby := none, strm := none, cnext := 0, wantLd := [], wantSw := false, since := 0, rr := 0
    l1 := [], tile := Vector.replicate 32 none, hold := [], utlb := []
    waddr := Vector.replicate 16 0, wctl := Vector.replicate 16 0, divAt := 0, vecAt := 0, trnAt := 0 }

def Phys.reset : Phys := { st := 0, gen := 0 }

def ClusterSt.reset : ClusterSt :=
  { mshare := 0x11111111, bquar := 0, ptr := 0, cred := Vector.replicate 8 0, lanes := Vector.replicate 8 none
    phys := Vector.replicate 32 Phys.reset, tlb := [], ptrs := [], lastOp := Vector.replicate 4 0, landed := 0, sent := 0 }

def SliceSt.reset : SliceSt :=
  { l2 := [], msc := [], rq := [], adds := [], cnt := [], wait := [], marks := [], swaddr := Vector.replicate 16 0
    swctl := Vector.replicate 16 0, swhit := Vector.replicate 16 0, quar := Vector.replicate 32 0, lost := []
    queue := [], fixes := [] }

def ChanSt.reset : ChanSt :=
  { grant := none, s := 0, op := 0, vote := 0, mem := [], arr := [], leaving := [], ring := 0, level := 0
    first := none, last := 0, who := 0, sum := 0, n := 0, armAt := none, stopped := false, step := 0
    stopS := none, mems := [], held := [] }

/-- A die after power-on reset: OFF; the PR fields are 0 until the platform record is loaded (log 3). -/
def DieSt.reset : DieSt :=
  { part := 0, state := 4, res := 0, qto := 0, hold := 0, nbound := 0, milv := 0, sbusy := false, sdone := false
    sdirty := false, pdesc := 0, mcq := 0, mctail := 0, mchead := 0, retf := Vector.replicate 64 0, ctCid := 0
    tbusy := false, tcid := 0, tfault := none, termq := [], terr := false, sagd := 0, kept := [], dropped := 0, qsince := 0, qdie := 0, drained := false, serves := true, dead := [] }

def PartSt.reset : PartSt :=
  { seqno := 0, qseq := [], launches := [], tasks := [], recs := [], tcbs := [], adm := none, rrq := Vector.replicate 8 0, admAt := 0
    used := [], tcbPte := [], fq := [], sent := [], flying := [], replies := [], nreds := [], llog := 0 }

/-- A context's words at creation (07 R149, 10 R192, 20 R349). -/
def Ctx.reset : Ctx :=
  { res := 0, root := 0, tvec := 0, wlimit := 0x10000000, ebudget := 0x0000FFFFFFFF, ecost := 0x0006000400020001
    erefill := 0x03FFFFFFFFFFFFFF, resq := 4, state := 0, imgtab := 0, trace := 0, tidx := 0, tctr := 0, dfq := 0
    part := 0, desc := 0, terms := [], owed := [], kept := [] }

def HostSt.reset : HostSt :=
  { bells := [], msix := [], msixCtl := [], pba := [], msgs := [], reads := [], ats := [], inval := [], frames := [], copied := [] }

/-- Jostauth after power-on reset: JSTAT reads 0 (21 R384), and it listens for an image from the end of the first cc on (26
R431). What its store holds from manufacture is log 10. -/
def JostSt.reset : JostSt :=
  { listen := false, check := none, later := none, booted := false, rej := false, rejc := 0, imglen := 0, window := []
    nonce := 0, report := [], repRdy := false, attq := [], pm := Vector.replicate 8 0, ext := [], ringRep := [], vfloor := 0
    version := 0, pversion := 0, source := 0, repair := [], secret := 0, edKey := { priv := [], pub := [] }
    mlKey := { priv := [], pub := [] }, certs := [], prkh := 0, cethr := 0, strict := false
    mac := 0, etype := 0, fwBase := 0, fwLen := 0, plim := 0, sfact := 0, recPa := 0 }

/-- A halted system core at privilege 3 (01 R19, 26 R431). -/
def TSet.halt3 : TSet :=
  { TSet.reset with a := { Arch.reset with status := 7 }, halted := true }

/-- The machine right after power-on reset (26 R431): every die OFF, every system core halted, no
context, no memory byte written, cycle count 0. -/
def State.reset : State :=
  { cyc := 0, cur := Config.sysBase, agenda := [], issueq := [], pend := [], here := 0, blocked := false, seq := 0, free := 0, mem := []
    ts := [(Config.sysBase, TSet.halt3), (Config.sysBase + 1, TSet.halt3), (Config.sysBase + 2, TSet.halt3),
           (Config.sysBase + 3, TSet.halt3), (Config.sysBase + 4, TSet.halt3), (Config.sysBase + 5, TSet.halt3),
           (Config.sysBase + 6, TSet.halt3), (Config.sysBase + 7, TSet.halt3)]
    ccs := [], cores := [], clusters := [], slices := [], reps := [], chans := [], dies := [], parts := [], ctxs := []
    host := HostSt.reset, jost := JostSt.reset, images := [], stretch := 0, sagFrom := 0, sagTo := none
    throt := false, watt := 0 }

end Sys2Proof.Machine
end

