-- ==== Sys2Proof/Machine/Store.lean ====
section
/-! DEFINITION. The parts of the state by key, the home of a byte, and the levels below a home slice: L2, memory-side
cache and LPDDR6, with dirty sectors, owner tags and replicas (01 R16, R22; 10 R180-R183; 21 R376; 24 R413). -/

namespace Sys2Proof.Machine

/-! ### Keys -/

def isSys (tk : Nat) : Bool := decide (Config.sysBase ≤ tk)
def cidOf (tk : Nat) : Nat := tk / 8192
def posOf (tk : Nat) : Nat := tk % 8192
/-- The core of a thread set; the system cores follow the 2048 compute cores. -/
def coreOf (tk : Nat) : Nat := if isSys tk then 2048 + (tk - Config.sysBase) else posOf tk / 4
def clusterOf (tk : Nat) : Nat := posOf tk / 32
def tsOf (tk : Nat) : Nat := tk % 4
def ccOf (tk : Nat) : Nat := cidOf tk * 2048 + coreOf tk
def ccCid (cc : Nat) : Nat := cc / 2048
def ccCore (cc : Nat) : Nat := cc % 2048
def tkOf (cid pos : Nat) : Nat := cid * 8192 + pos

/-- The die of a router (01 R15, R16). -/
def dieOfRouter (c : Nat) : Nat := c / 16 / 8 * 2 + c % 16 / 8

/-- The die on which a thread set stands. -/
def dieOf (tk : Nat) : Nat := if isSys tk then (tk - Config.sysBase) / 2 else dieOfRouter (clusterOf tk)

/-! ### Parts of the state -/

def State.t (s : State) (tk : Nat) : TSet := mget s.ts tk TSet.reset
def State.setT (s : State) (tk : Nat) (t : TSet) : State := { s with ts := mset s.ts tk t }
def State.upT (s : State) (tk : Nat) (f : TSet → TSet) : State := s.setT tk (f (s.t tk))
def State.me (s : State) : TSet := s.t s.cur
def State.upMe (s : State) (f : TSet → TSet) : State := s.upT s.cur f
def State.cc (s : State) (k : Nat) : CC := mget s.ccs k CC.reset
def State.upCC (s : State) (k : Nat) (f : CC → CC) : State := { s with ccs := mset s.ccs k (f (s.cc k)) }
def State.core (s : State) (k : Nat) : CoreSt := mget s.cores k CoreSt.reset
def State.upCore (s : State) (k : Nat) (f : CoreSt → CoreSt) : State := { s with cores := mset s.cores k (f (s.core k)) }
def State.cl (s : State) (k : Nat) : ClusterSt := mget s.clusters k ClusterSt.reset
def State.upCl (s : State) (k : Nat) (f : ClusterSt → ClusterSt) : State :=
  { s with clusters := mset s.clusters k (f (s.cl k)) }
def State.slice (s : State) (k : Nat) : SliceSt := mget s.slices k SliceSt.reset
def State.upSlice (s : State) (k : Nat) (f : SliceSt → SliceSt) : State :=
  { s with slices := mset s.slices k (f (s.slice k)) }
def State.chan (s : State) (k : Nat) : ChanSt := mget s.chans k ChanSt.reset
def State.upChan (s : State) (k : Nat) (f : ChanSt → ChanSt) : State := { s with chans := mset s.chans k (f (s.chan k)) }
def State.die (s : State) (k : Nat) : DieSt := mget s.dies k DieSt.reset
def State.upDie (s : State) (k : Nat) (f : DieSt → DieSt) : State := { s with dies := mset s.dies k (f (s.die k)) }
def State.part (s : State) (k : Nat) : PartSt := mget s.parts k PartSt.reset
def State.upPart (s : State) (k : Nat) (f : PartSt → PartSt) : State := { s with parts := mset s.parts k (f (s.part k)) }
def State.ctx (s : State) (k : Nat) : Ctx := mget s.ctxs k Ctx.reset
def State.upCtx (s : State) (k : Nat) (f : Ctx → Ctx) : State := { s with ctxs := mset s.ctxs k (f (s.ctx k)) }

/-- Sets bits of the events of this cc (23 R400). -/
def TSet.ev (t : TSet) (code : Nat) : TSet := { t with evts := t.evts ||| BitVec.ofNat 64 (2 ^ code) }
def State.evt (s : State) (tk code : Nat) : State := s.upT tk (fun t => t.ev code)

/-- Partition of a die and of a thread set. -/
def State.partOfDie (s : State) (d : Nat) : Nat := (s.die d).part
def State.partOf (s : State) (tk : Nat) : Nat := s.partOfDie (dieOf tk)

/-- The dies of a partition (21 R372, R374). -/
def State.diesOf (s : State) (p : Nat) : List Nat := [0, 1, 2, 3].filter (fun d => (s.die d).part = p ∧ (s.die d).state ≠ 4)

/-! ### Messages -/

/-- Places an event among the messages in flight, at the place of the message being delivered, so that what one access
turns into keeps that access's place in its thread set's order. -/
def State.pushAt (s : State) (due : Nat) (e : Ev) : State :=
  { s with pend := insAt s.pend s.here [{ due := due, ev := e }], here := s.here + 1 }

def State.push (s : State) (e : Ev) : State := s.pushAt s.cyc e

/-- Removes messages that satisfy a test. -/
def State.dropPend (s : State) (p : Ev → Bool) : State :=
  { s with pend := s.pend.filter (fun x => !p x.ev), here := ((s.pend.take s.here).filter (fun x => !p x.ev)).length }

def State.inFlight (s : State) (p : Ev → Bool) : Bool := s.pend.any (fun x => p x.ev)

/-! ### Lines and homes (10 R180, R181) -/

/-- A line or page part, by key: twice the line number, plus one for the part in the higher page. -/
def lineKey (pa : Nat) : Nat :=
  let ln := pa / 192
  if ln * 192 / 65536 = pa / 65536 then 2 * ln else 2 * ln + 1

/-- Does a byte of the line lie in the part that the key names? -/
def inPart (key pa : Nat) : Bool := lineKey pa == key

/-- The hash f of 10 R181. -/
def homeHash (pa : Nat) : Nat :=
  let l := pa / 192
  (bits l 0 8) ^^^ (bits l 8 8) ^^^ (bits l 16 8) ^^^ (bits l 24 8) ^^^ (bits l 32 8) ^^^ (bits l 40 5)

/-- Router indices of the slices of dies, rising. -/
def slicesOf (dies : List Nat) : List Nat := (span 0 256).filter (fun r => dies.contains (dieOfRouter r))

/-- Dies that HDIES of a partition names (21 R374). -/
def State.hdies (s : State) (p : Nat) : List Nat :=
  let m := (s.die p).milv
  [0, 1, 2, 3].filter (fun d => m.getLsbD d)

def pick (l : List Nat) (pa : Nat) : Nat := l.getD (homeHash pa % 2 ^ log2 l.length) 0

/-- Home under PLACE = 00 of a partition. -/
def State.home00 (s : State) (p pa : Nat) : Nat := pick (slicesOf (s.hdies p)) pa

/-- Home under PLACE = 01 on a die; also the slice that holds a replica (10 R183). -/
def home01 (d pa : Nat) : Nat := pick (slicesOf [d]) pa

/-- Home of an access through a PTE, for a requester on a die of a partition; none is ACCESS (10 R181). -/
def State.homeOf (s : State) (p d : Nat) (pte : Word) (pa : Nat) : Option Nat :=
  match wbits pte 10 2 with
  | 0 => some (s.home00 p pa)
  | 1 => some (home01 d pa)
  | 2 => let r := wbits pte 12 8; if (s.diesOf p).contains (dieOfRouter r) then some r else none
  | _ => none

/-- A home that was kept: 256 stands for PLACE = 00, whose home follows the partition's layout (21 R380, 22 R396). -/
def State.keptHome (s : State) (p pa h : Nat) : Nat := if h = 256 then s.home00 p pa else h

/-! ### Owner tags and levels (24 R413) -/

def mergeTag (t w : Nat) : Nat :=
  if w = Config.tagNone then t else if t = Config.tagNone then w else if t = w then t else Config.shared

/-- Bytes of memory as line data. -/
def memLine (m : List Host.Cell) (key : Nat) : BitVec 1536 :=
  BitVec.ofNat 1536 (leNat (memRead m (key / 2 * 192) 192))

def sectMask (i : Nat) : BitVec 1536 := BitVec.ofNat 1536 ((2 ^ 384 - 1) * 2 ^ (384 * i))

/-- Sectors of `x` where the mask has a bit, of `y` elsewhere. -/
def mixSect (m : BitVec 4) (x y : BitVec 1536) : BitVec 1536 :=
  let pick (i : Nat) : BitVec 1536 := if m.getLsbD i then sectMask i else 0
  let k := pick 0 ||| pick 1 ||| pick 2 ||| pick 3
  (x &&& k) ||| (y &&& ~~~k)

def Line.none : Line := { valid := 0, dirty := 0, data := 0, tag := Config.tagNone }

/-- Do two line keys lie in one L2 set, or in one memory-side cache slot (24 R416)? -/
def l2SetOf (key : Nat) : Nat := Config.l2Set (key / 2) % 910
def mscSlotOf (key : Nat) : Nat := Config.mscSlot (key / 2) % 87381
def sameSet (a b : Nat) : Bool := l2SetOf a == l2SetOf b
def sameSlot (a b : Nat) : Bool := a / 2 == b / 2 || mscSlotOf a == mscSlotOf b

/-- The held lost line that a key names, if it is one (24 R414). -/
def State.lostAt (s : State) (home key : Nat) : Option HeldLine := (s.slice home).lost.find? (fun h => h.line == key)

/-- Is the line of an address held at a slice (24 R414)? -/
def State.heldLine (s : State) (home pa : Nat) : Bool := (s.slice home).lost.any (fun h => h.line == lineKey pa)

/-- Is the memory-side cache slot of a line quarantined at its slice (24 R422)? Where the slot holds a lost line, the entry takes
effect at that line's release (25 R428). -/
def State.mscOff (s : State) (home key : Nat) : Bool :=
  (s.slice home).quar.toList.any (fun q => q.getLsbD 0 && q.getLsbD 1 && wbits q 2 17 == mscSlotOf key)
    && !(s.slice home).lost.any (fun h => h.msc != 0 && sameSlot h.line key)

/-- Writes bytes of line data that lie in the key's page part to memory, for the sectors of a mask. -/
def writeBack (m : List Host.Cell) (key : Nat) (d : BitVec 1536) (k : BitVec 4) : List Host.Cell :=
  (span 0 192).foldl (fun m i =>
    let pa := key / 2 * 192 + i
    if k.getLsbD (i / 48) && inPart key pa then memSet m pa (d.extractLsb' (8 * i) 8) else m) m

/-- The memory-side cache's copy of a line, which a quarantined slot does not serve. -/
def State.mscLine (s : State) (home key : Nat) : Option Line := if s.mscOff home key then none else mfind (s.slice home).msc key

/-- The line as the levels below L2 give it: data and the tag that a fill inherits (24 R413). -/
def State.below (s : State) (home key : Nat) : BitVec 1536 × Nat :=
  match s.mscLine home key with
  | none => (memLine s.mem key, Config.tagNone)
  | some l => (mixSect l.valid l.data (memLine s.mem key), if l.dirty = 0 then Config.tagNone else l.tag)

/-- The line as its home slice serves it. -/
def State.lineVal (s : State) (home key : Nat) : BitVec 1536 :=
  match mfind (s.slice home).l2 key with
  | none => (s.below home key).1
  | some l => mixSect l.valid l.data (s.below home key).1

/-- Line without sectors of a mask. -/
def Line.dropSect (l : Line) (k : BitVec 4) : Line := { l with valid := l.valid &&& ~~~k, dirty := l.dirty &&& ~~~k }

/-- The map with the line at a key changed, if it is there. -/
def upLine (m : AMap Line) (key : Nat) (f : Line → Line) : AMap Line :=
  match mfind m key with
  | some l => mset m key (f l)
  | none => m

/-- The line as its release will leave it (24 R421): a sector lost in L2 or in the memory-side cache has the value of the intact copy
below, and one that is lost in LPDDR6 too is zero. -/
def State.recovered (s : State) (home key : Nat) : BitVec 1536 :=
  match s.lostAt home key with
  | none => s.lineVal home key
  | some h =>
    let mem := mixSect h.mem 0 (memLine s.mem key)
    let low := match s.mscLine home key with
      | none => mem
      | some l => mixSect (l.valid &&& ~~~h.msc) l.data mem
    match mfind (s.slice home).l2 key with
    | none => low
    | some l => mixSect (l.valid &&& ~~~(h.l2 ||| h.msc)) l.data low

/-- Fills the sectors of a mask into L2, and into the memory-side cache unless its slot is quarantined. -/
def State.fillLine (s : State) (home key : Nat) (k : BitVec 4) : State :=
  let l2 := mget (s.slice home).l2 key Line.none
  if l2.valid &&& k = k then s
  else
    let (d, tag) := s.below home key
    let new := k &&& ~~~l2.valid
    let l2' := { l2 with valid := l2.valid ||| k, data := mixSect new d l2.data, tag := mergeTag l2.tag tag }
    let ms := mget (s.slice home).msc key Line.none
    let ms' := { ms with valid := ms.valid ||| new, data := mixSect (new &&& ~~~ms.valid) d ms.data }
    s.upSlice home (fun sl =>
      { sl with l2 := mset sl.l2 key l2', msc := if s.mscOff home key then sl.msc else mset sl.msc key ms' })

/-- Sectors `k` of a held line take their recovered value (24 R421): the copies in which an error stands go, and what LPDDR6 has
lost is written anew. -/
def State.heal (s : State) (home key : Nat) (k : BitVec 4) : State :=
  match s.lostAt home key with
  | none => s
  | some h =>
    let s : State := { s with mem := writeBack s.mem key (s.recovered home key) (k &&& h.mem) }
    s.upSlice home (fun sl =>
      { sl with l2 := upLine sl.l2 key (fun l => l.dropSect (k &&& (h.l2 ||| h.msc)))
                msc := upLine sl.msc key (fun l => l.dropSect (k &&& h.msc))
                lost := sl.lost.map (fun x =>
                  if x.line = key then { x with l2 := x.l2 &&& ~~~k, msc := x.msc &&& ~~~k, mem := x.mem &&& ~~~k } else x) })

/-- Sectors that bytes [off, off + n) of a line touch. -/
def sectsOf (off n : Nat) : BitVec 4 :=
  BitVec.ofNat 4 ((span (off / 48) ((off + n - 1) / 48 + 1 - off / 48)).foldl (fun a i => a + 2 ^ i) 0)

/-- Bytes of one line at its home, after the fill. -/
def State.homeRead (s : State) (home pa n : Nat) : List Byte × State :=
  let s := s.fillLine home (lineKey pa) (sectsOf (pa % 192) n)
  let d := s.lineVal home (lineKey pa)
  (natLe (d.toNat / 2 ^ (8 * (pa % 192))) n, s)

/-- Line data with bytes of `bs` written from byte `off` on where `on` says so. -/
def putBytes (d : BitVec 1536) (off : Nat) (on : List Bool) (bs : List Byte) : BitVec 1536 :=
  match on, bs with
  | o :: on, b :: bs => putBytes (if o then putBits d (8 * off) 8 b.toNat else d) (off + 1) on bs
  | _, _ => d

/-- Bit off + i is set where `on` has its element i set. -/
def byteMask (off : Nat) : List Bool → BitVec 192
  | [] => 0
  | o :: on => (if o then BitVec.ofNat 192 (2 ^ off) else 0) ||| byteMask (off + 1) on

/-- Bytes of a lane of a RED operation (10 R189). -/
def redW (op : Nat) : Nat := match op with | 1 => 2 | 3 => 8 | _ => 4

/-- Does a lane lie outside the bytes of a mask? -/
def AddLane.clear (l : AddLane) (k : BitVec 192) : Bool := wbits k (redW l.op * l.lane) (redW l.op) = 0

/-- Bytes that are written anew are no longer what addends made of them. -/
def overAdds (m : AMap Addends) (key off : Nat) (on : List Bool) : AMap Addends :=
  match mfind m key with
  | none => m
  | some a =>
    let k := byteMask off on
    mset m key { a with mask := a.mask &&& ~~~k, lanes := a.lanes.filter (fun l => l.clear k) }

/-- Bytes written to one line at its home by writer `w`: the sectors become dirty and the tag follows 24 R413. -/
def State.homeWrite (s : State) (home pa : Nat) (on : List Bool) (bs : List Byte) (w : Nat) : State :=
  let key := lineKey pa
  let k := sectsOf (pa % 192) bs.length
  let s := s.fillLine home key k
  let l := mget (s.slice home).l2 key Line.none
  let l' := { l with dirty := l.dirty ||| k, data := putBytes l.data (pa % 192) on bs, tag := mergeTag l.tag w }
  s.upSlice home (fun sl => { sl with l2 := mset sl.l2 key l', adds := overAdds sl.adds key (pa % 192) on })

/-- Write-back and drop of an L2 line (24 R413): into the memory-side cache, or past a quarantined slot. -/
def State.evictL2 (s : State) (home key : Nat) : State :=
  match mfind (s.slice home).l2 key with
  | none => s
  | some l =>
    let s' := s.upSlice home (fun sl => { sl with l2 := mdel sl.l2 key })
    if l.dirty = 0 then s'
    else if s.mscOff home key then { s' with mem := writeBack s'.mem key l.data l.dirty }
    else
      let ms := mget (s'.slice home).msc key Line.none
      let ms' := { valid := ms.valid ||| l.dirty, dirty := ms.dirty ||| l.dirty, data := mixSect l.dirty l.data ms.data,
                   tag := mergeTag (if ms.dirty = 0 then Config.tagNone else ms.tag) l.tag }
      s'.upSlice home (fun sl => { sl with msc := mset sl.msc key ms' })

/-- Write-back and drop of a memory-side cache line. -/
def State.evictMsc (s : State) (home key : Nat) : State :=
  match mfind (s.slice home).msc key with
  | none => s
  | some l =>
    let s' := s.upSlice home (fun sl => { sl with msc := mdel sl.msc key })
    { s' with mem := writeBack s'.mem key l.data l.dirty }

/-- Does an entry quarantine the L2 way of a held line, or the memory-side cache slot in which an error of it stands? -/
def HeldLine.wayBy (h : HeldLine) (q : Word) : Bool :=
  q.getLsbD 0 && !q.getLsbD 1 && h.level == 1 && wbits q 2 17 == l2SetOf h.line && wbits q 19 4 == h.way
def HeldLine.slotBy (h : HeldLine) (q : Word) : Bool :=
  q.getLsbD 0 && q.getLsbD 1 && h.msc != 0 && wbits q 2 17 == mscSlotOf h.line

/-- Ways of a line's L2 set that are not quarantined (24 R416, R422); an entry for a way that holds a held line takes effect at that
line's release (25 R428). -/
def State.ways (s : State) (home key : Nat) : Nat :=
  let qs := (s.slice home).quar.toList.filter (fun q => q.getLsbD 0 && !q.getLsbD 1 && wbits q 2 17 == l2SetOf key
    && !(s.slice home).lost.any (fun h => h.wayBy q))
  12 - (qs.map (fun q => wbits q 19 4)).eraseDups.length

/-- A set of more lines than it has ways loses one, which one being a free value; a lost line is held and stays (24 R414). -/
def State.trimSet (s : State) (home key : Nat) : State :=
  let ks := ((s.slice home).l2.map Prod.fst).filter (sameSet key)
  let can := ks.filter (fun k => !(s.slice home).lost.any (fun h => h.line == k))
  if ks.length ≤ s.ways home key then s
  else match can[Config.l2Victim s.free % can.length]? with
    | some k => ({ s with free := s.free + 1 }).evictL2 home k
    | none => s

/-- A memory-side cache slot that holds two lines loses one of them. -/
def State.trimSlot (s : State) (home key : Nat) : State :=
  match (s.slice home).msc.find? (fun x => x.1 / 2 != key / 2 && sameSlot x.1 key) with
  | some x => if (s.slice home).lost.any (fun h => h.line == x.1) then s else s.evictMsc home x.1
  | none => s

/-- The slice's 2 MiB L2 of 910 sets and its memory-side cache of 87381 slots hold no more than they have room for (01 R18; 24
R416); lines that the fills of a cc left over leave at its end. -/
def State.trimSlice (s : State) (home : Nat) : State :=
  let s := if (s.slice home).l2.length ≤ 12 - (s.slice home).quar.toList.countP (fun q => q.getLsbD 0) then s
    else (s.slice home).l2.foldl (fun s x => s.trimSet home x.1) s
  if (s.slice home).msc.length ≤ 1 then s else (s.slice home).msc.foldl (fun s x => s.trimSlot home x.1) s

/-- Writes back and empties L2 and memory-side cache of a slice (21 R379 step 4). -/
def State.flushSlice (s : State) (home : Nat) : State :=
  let s := (s.slice home).l2.foldl (fun s p => s.evictL2 home p.1) s
  (s.slice home).msc.foldl (fun s p => s.evictMsc home p.1) s

/-! ### Replicas (10 R183) -/

def repKey (d key : Nat) : Nat := d * 2 ^ 50 + key

/-- Dies that hold a replica of a line. -/
def State.repDies (s : State) (key : Nat) : List Nat := [0, 1, 2, 3].filter (fun d => (mfind s.reps (repKey d key)).isSome)

/-- A read served by a die's replica, which is made from the home where it is absent. -/
def State.repRead (s : State) (d home pa n : Nat) : List Byte × State :=
  let key := lineKey pa
  let l := match mfind s.reps (repKey d key) with
    | some l => l
    | none => { valid := 15, dirty := 0, data := s.lineVal home key, tag := Config.tagNone }
  (natLe (l.data.toNat / 2 ^ (8 * (pa % 192))) n, { s with reps := mset s.reps (repKey d key) l })

/-- Invalidates every replica of a line. -/
def State.collapse (s : State) (key : Nat) : State :=
  { s with reps := [0, 1, 2, 3].foldl (fun r d => mdel r (repKey d key)) s.reps }

/-! ### Access at PLACE = 00 homes -/

/-- Bytes up to the end of the line or of the page. -/
def chunk (pa n : Nat) : Nat := min n (min (192 - pa % 192) (65536 - pa % 65536))

/-- `n` bytes at `pa` as their home slices serve hardware, line by line, with no fill; `h` gives homes and `f` bounds the
lines. -/
def State.rdN (s : State) (h : Nat → Nat) (pa n : Nat) : Nat → List Byte
  | 0 => []
  | f + 1 =>
    if n = 0 then [] else
    let k := chunk pa n
    natLe ((s.recovered (h pa) (lineKey pa)).toNat / 2 ^ (8 * (pa % 192))) k ++ s.rdN h (pa + k) (n - k) f

def State.rdBy (s : State) (h : Nat → Nat) (pa n : Nat) : List Byte := s.rdN h pa n (n / 64 + 2)

/-- Reads physical memory of a partition at PLACE = 00 homes, as the dispatcher, walker and descriptors do. -/
def State.rd00 (s : State) (p pa n : Nat) : List Byte := s.rdBy (s.home00 p) pa n
def State.rdWord (s : State) (p pa : Nat) : Word := leWord (s.rd00 p pa 8)

/-! ### Descriptors (20 R358; 21 R377) -/

/-- A word of the partition descriptor that a die's PDESC names. -/
def State.pdesc (s : State) (p off : Nat) : Word := s.rdWord p (wbits (s.die p).pdesc 6 46 * 64 + off)

/-- Does a CID lie in the partition's range? -/
def State.cidIn (s : State) (p cid : Nat) : Bool :=
  let w := s.pdesc p 0x10
  decide (wbits w 0 12 ≤ cid) && decide (cid < wbits w 0 12 + wbits w 12 13)

def State.descAt (s : State) (p cid : Nat) : Nat := (s.pdesc p 8).toNat + 4096 * cid

/-- The words of a context that is resident on no core come from its descriptor. -/
def State.learn (s : State) (p cid : Nat) : State :=
  if (s.ctx cid).res ≠ 0 || !s.cidIn p cid then s
  else
    let a := s.descAt p cid
    let w (o : Nat) : Word := s.rdWord p (a + o)
    s.upCtx cid (fun c =>
      { c with res := 0, root := w 0, tvec := w 8, wlimit := w 0x10, ebudget := w 0x18, ecost := w 0x20, erefill := w 0x28
               resq := w 0x30, state := w 0x38, imgtab := w 0x40, trace := w 0x48, tidx := w 0x50, tctr := w 0x58
               dfq := w 0x60, part := p, desc := a })

/-! ### What lies at a physical address (21 R376, 22 R394) -/

inductive PaClass where
  | dram (die : Nat)
  | cluster (c off : Nat)
  | slice (c off : Nat)
  | chan (ch off : Nat)
  | die (d off : Nat)
  | firmware
  | nothing
  deriving DecidableEq, Repr

def State.paClass (s : State) (pa : Nat) : PaClass :=
  if pa < 2 ^ 39 then .dram (pa / 2 ^ 37)
  else if 0xFF00000000000 ≤ pa ∧ pa < 0xFF00000000000 + 256 * 0x1000 then
    .cluster ((pa - 0xFF00000000000) / 0x1000) (pa % 0x1000)
  else if 0xFF80000000000 ≤ pa ∧ pa < 0xFF80000000000 + 256 * 0x10000 then
    .slice ((pa - 0xFF80000000000) / 0x10000) (pa % 0x10000)
  else if 0xFF90000000000 ≤ pa ∧ pa < 0xFF90000000000 + 64 * 0x10000 then
    .chan ((pa - 0xFF90000000000) / 0x10000) (pa % 0x10000)
  else if 0xFFE0000000000 ≤ pa ∧ pa < 0xFFE0000000000 + 4 * 0x10000 then
    .die ((pa - 0xFFE0000000000) / 0x10000) (pa % 0x10000)
  else if s.jost.fwBase ≤ pa ∧ pa < s.jost.fwBase + s.jost.fwLen then .firmware
  else .nothing

/-- Does a partition's memory hold the address (21 R376)? -/
def State.inPartition (s : State) (p pa : Nat) : Bool :=
  match s.paClass pa with
  | .dram d => (s.die p).milv.getLsbD (4 + d)
  | .cluster c _ => (s.diesOf p).contains (dieOfRouter c)
  | .slice c _ => (s.diesOf p).contains (dieOfRouter c)
  | .chan _ _ => true
  | _ => false

/-! ### Interrupts that are posted (20 R353, R359) -/

/-- Physical address of a context's image for a core (20 R358); 0 means none. -/
def State.imageAt (s : State) (cid core : Nat) : Nat :=
  let c := s.ctx cid
  if c.imgtab = 0 then 0 else (s.rdWord c.part (c.imgtab.toNat + 8 * core)).toNat

/-- The image of a context for a core, where it lies in the memory of the context's partition (21 R373). -/
def State.imageIn (s : State) (cid core : Nat) : Option Nat :=
  let im := s.imageAt cid core
  if im = 0 || !s.inPartition (s.ctx cid).part im then none else some im

/-- Posts interrupt lines to a position of a context: in its thread set while it is resident, in its image otherwise. -/
def State.postIrq (s : State) (tk : Nat) (lines : BitVec 8) : State :=
  match mfind s.ts tk with
  | some _ => s.upT tk (fun t => { t with irq := t.irq ||| lines })
  | none =>
    match s.imageIn (cidOf tk) (coreOf tk) with
    | none => s
    | some im =>
      if !(s.ctx (cidOf tk)).state.getLsbD 0 then s else
      let a := im + 0x8000 + 0x200 * tsOf tk + 0xB8
      let p := (s.ctx (cidOf tk)).part
      ((s.collapse (lineKey a)).heal (s.home00 p a) (lineKey a) (sectsOf (a % 192) 8)).homeWrite (s.home00 p a) a
        (List.replicate 8 true) (wordLe (s.rdWord p a ||| lines.setWidth 64) 8) Config.shared

/-! ### Slice watchpoints (23 R406) -/

def agentCls : Agent → Nat
  | .thread => 0 | .copy => 1 | .remote => 2 | .host => 3 | .service => 4 | .system => 5

/-- Bytes [pa, pa + n) are read or written at a slice: matching watchpoints record it, the first match posts line 5. -/
def State.swNote (s : State) (home pa n : Nat) (wr : Bool) (cls clus : Nat) : State :=
  (span 0 16).foldl (fun s w =>
    let sl := s.slice home
    let ctl := vget sl.swctl w 0
    let base := wbits (vget sl.swaddr w 0) 0 52
    let hit := vget sl.swhit w 0
    if ctl.getLsbD 0 && ctl.getLsbD (if wr then 2 else 1) && overlap pa n base (2 ^ wbits ctl 3 5) then
      let cnt := min (wbits hit 32 32 + 1) (2 ^ 32 - 1)
      if hit.getLsbD 0 then s.upSlice home (fun sl => { sl with swhit := vset sl.swhit w (putBits hit 32 32 cnt) })
      else
        let v := BitVec.ofNat 64 (1 + cls * 2 + (if cls ≤ 1 then clus * 16 else 0) + (if wr then 4096 else 0) + cnt * 2 ^ 32)
        let s := s.upSlice home (fun sl => { sl with swhit := vset sl.swhit w v })
        let cid := wbits ctl 8 12
        let s := s.learn (s.partOfDie (dieOfRouter home)) cid
        let c := s.ctx cid
        if c.state.getLsbD 0 && c.part == s.partOfDie (dieOfRouter home) then s.postIrq (tkOf cid (wbits ctl 20 13)) 0x20
        else s
    else s) s

/-- Bytes that the walker or the dispatcher reads or writes at a slice (class 4); where the line is held, the step waits (24 R414). -/
def State.hwNote (s : State) (home pa n : Nat) (wr : Bool) : State :=
  if s.heldLine home pa then { s with blocked := true } else s.swNote home pa n wr 4 0

/-- The same for [pa, pa + n), line by line at their homes; `f` bounds the lines. -/
def State.noteN (s : State) (h : Nat → Nat) (pa n : Nat) (wr : Bool) : Nat → State
  | 0 => s
  | f + 1 => if n = 0 then s else (s.hwNote (h pa) pa (chunk pa n) wr).noteN h (pa + chunk pa n) (n - chunk pa n) wr f

def State.wrN (s : State) (h : Nat → Nat) (pa w : Nat) (bs : List Byte) : Nat → State
  | 0 => s
  | f + 1 =>
    match bs with
    | [] => s
    | b :: bt =>
      let bs := b :: bt
      let k := chunk pa bs.length
      ((((s.hwNote (h pa) pa k true).collapse (lineKey pa)).heal (h pa) (lineKey pa) (sectsOf (pa % 192) k)).homeWrite (h pa) pa (List.replicate k true) (bs.take k) w).wrN h
        (pa + k) w (bs.drop k) f

/-- Writes bytes at their homes on behalf of a context, as hardware does (24 R413). -/
def State.wrBy (s : State) (h : Nat → Nat) (pa w : Nat) (bs : List Byte) : State := s.wrN h pa w bs (bs.length / 64 + 2)

/-- Writes bytes at PLACE = 00 homes. -/
def State.wr00 (s : State) (p pa w : Nat) (bs : List Byte) : State := s.wrBy (s.home00 p) pa w bs

def State.wrWord (s : State) (p pa w : Nat) (v : Word) : State := s.wr00 p pa w (wordLe v 8)

/-- Homes under an entry's PLACE for the dispatcher of a partition, which stands on the partition's lowest die. -/
def State.homeBy (s : State) (p : Nat) (pte : Word) (pa : Nat) : Nat := (s.homeOf p p pte pa).getD 0

end Sys2Proof.Machine
end

