-- ==== Sys2Proof/Machine/Tcb.lean ====
section
/-! DEFINITION. The layout of a TCB in memory (19 R336), which a context image also uses (20 R360). -/

namespace Sys2Proof.Machine

def zeros (n : Nat) : List Byte := List.replicate n 0

def vecBytes {w n : Nat} (k : Nat) (v : Vector (BitVec w) n) : List Byte := v.toList.flatMap (fun x => natLe x.toNat k)

def barBytes (b : BarSt) : List Byte :=
  natLe (b.st % 4 + (if b.noSpec then 4 else 0)) 8 ++ natLe b.latched.toNat 8

/-- The 8192 bytes of a TCB. -/
def TcbRec.bytes (r : TcbRec) : List Byte :=
  let a := r.a
  natLe (r.state % 16 + r.cid % 4096 * 65536) 8 ++ wordLe r.launch 8 ++ natLe r.seq 8 ++ wordLe r.low 8
  ++ wordLe a.claim 8 ++ wordLe a.rend 8 ++ natLe (r.home % 8192 + (if r.hv then 8192 else 0)) 8
  ++ natLe r.wclk 8 ++ natLe r.wlim 8 ++ wordLe r.pc 8 ++ wordLe a.status 8
  ++ wordLe a.fmode 8 ++ wordLe a.srseed 8 ++ wordLe a.dmode 8 ++ vecBytes 8 a.dtoff
  ++ wordLe (vget a.ls 0 0) 8 ++ wordLe (vget a.le 0 0) 8 ++ wordLe (vget a.lc 0 0) 8
  ++ wordLe (vget a.ls 1 0) 8 ++ wordLe (vget a.le 1 0) 8 ++ wordLe (vget a.lc 1 0) 8
  ++ wordLe a.lstat 8 ++ wordLe r.residx 8 ++ wordLe r.wlimit 8 ++ zeros 0x28
  ++ vecBytes 8 a.g ++ vecBytes 8 a.gd1 ++ vecBytes 8 a.gd2
  ++ vecBytes 64 a.v ++ vecBytes 64 a.vd1 ++ vecBytes 64 a.vd2
  ++ vecBytes 8 a.m ++ vecBytes 32 a.tc ++ a.bar.toList.flatMap barBytes ++ zeros 0x2C0

/-- A field of a block of memory read as one number: `n` bytes at an offset. -/
def fieldN (x off n : Nat) : Nat := bits x (8 * off) (8 * n)
def fieldW (x off : Nat) : Word := BitVec.ofNat 64 (fieldN x off 8)

/-- The registers that a TCB's bytes, read as one number, hold. -/
def archOf (x : Nat) : Arch :=
  let w (o : Nat) : Word := fieldW x o
  { g := vtab 32 0 (fun i => w (0x100 + 8 * i)), gd1 := vtab 32 0 (fun i => w (0x200 + 8 * i))
    gd2 := vtab 32 0 (fun i => w (0x300 + 8 * i))
    v := vtab 32 0 (fun i => BitVec.ofNat 512 (fieldN x (0x400 + 64 * i) 64))
    vd1 := vtab 32 0 (fun i => BitVec.ofNat 512 (fieldN x (0xC00 + 64 * i) 64))
    vd2 := vtab 32 0 (fun i => BitVec.ofNat 512 (fieldN x (0x1400 + 64 * i) 64))
    m := vtab 8 0 (fun i => w (0x1C00 + 8 * i))
    tc := vtab 4 0 (fun i => BitVec.ofNat 256 (fieldN x (0x1C40 + 32 * i) 32))
    status := w 0x50, fmode := w 0x58, srseed := w 0x60, dmode := w 0x68
    dtoff := vtab 4 0 (fun i => w (0x70 + 8 * i))
    ls := vtab 2 0 (fun i => w (0x90 + 24 * i)), le := vtab 2 0 (fun i => w (0x98 + 24 * i))
    lc := vtab 2 0 (fun i => w (0xA0 + 24 * i)), lstat := w 0xC0
    claim := w 0x20, rend := w 0x28
    bar := vtab 8 BarSt.reset (fun i =>
      { st := bits (fieldN x (0x1CC0 + 16 * i) 8) 0 2, latched := BitVec.ofNat 32 (fieldN x (0x1CC8 + 16 * i) 4)
        noSpec := (w (0x1CC0 + 16 * i)).getLsbD 2 }) }

/-- A TCB from its bytes read as one number. -/
def tcbOf (x : Nat) : TcbRec :=
  { state := bits (fieldN x 0 8) 0 4, cid := bits (fieldN x 0 8) 16 12, launch := fieldW x 8, seq := fieldN x 0x10 8
    low := fieldW x 0x18, home := bits (fieldN x 0x30 8) 0 13, hv := (fieldW x 0x30).getLsbD 13
    wclk := fieldN x 0x38 8, wlim := fieldN x 0x40 8, pc := fieldW x 0x48, residx := fieldW x 0xC8
    wlimit := fieldW x 0xD0, a := archOf x }

def TcbRec.empty : TcbRec :=
  { state := 0, cid := 0, launch := 0, seq := 0, low := 0, home := 0, hv := false, wclk := 0, wlim := 0, pc := 0
    residx := 0, wlimit := 0, a := Arch.reset }

/-- The dispatcher writes a TCB: memory at its home slices and its own cache (19 R336, R343). -/
def State.putTcb (s : State) (p pa : Nat) (r : TcbRec) : State :=
  (s.wrBy (s.homeBy p (mget (s.part p).tcbPte pa 0)) pa r.cid r.bytes).upPart p (fun x => { x with tcbs := mput x.tcbs pa r 256 })

/-- A snapshot of a TCB: from the cache, else from memory, which the cache then holds (19 R343). -/
def State.getTcb (s : State) (p pa : Nat) : TcbRec × State :=
  match mfind (s.part p).tcbs pa with
  | some r => (r, s)
  | none =>
    let h := s.homeBy p (mget (s.part p).tcbPte pa 0)
    let r := tcbOf (leNat (s.rdBy h pa 8192))
    (r, (s.noteN h pa 8192 false 130).upPart p (fun x => { x with tcbs := mput x.tcbs pa r 256 }))

end Sys2Proof.Machine
end

