-- ==== Sys2Proof/Machine/Walk.lean ====
section
/-! DEFINITION. Physical address classes, the page walk and the translation caches (20 R365-R369, 21 R376, 24 R420). -/

namespace Sys2Proof.Machine

/-- Home of a system core's access (22 R394). A die that is OFF belongs to the partition of its PART where that partition's MDIES names
it (log 87; DEDUCED). Firmware memory that lies in no die's LPDDR6 range has no home in R394; it has that of
die 0 (log 87; DESIGN CHOICE). -/
def State.sysHome (s : State) (pa : Nat) : Nat :=
  match s.paClass pa with
  | .dram e =>
    let p := (s.die e).part
    if (s.die e).state = 4 && !(s.die p).milv.getLsbD (4 + e) then home01 e pa else s.home00 p pa
  | _ => home01 0 pa

/-- Is the 64 KiB frame retired (24 R420 step 4)? -/
def State.retired (s : State) (pa : Nat) : Bool :=
  (s.die (pa / 2 ^ 37)).retf.toList.any (fun e => e.getLsbD 0 && wbits e 16 36 == pa / 65536)

/-! ### The walk (20 R366) -/

/-- What a translation gives: a physical address with its entry, a page fault, ACCESS, or a wait for a held line of the
tables (24 R414). -/
inductive Tr where
  | ok (pa : Nat) (pte : Word)
  | pf
  | access
  | held
  deriving DecidableEq, Repr

def kWrites : AccessKind → Bool
  | .store => true
  | .rmw => true
  | _ => false

/-- Does a leaf allow an access of this kind at this privilege? -/
def leafAllows (e : Word) (k : AccessKind) (priv : Nat) : Bool :=
  (match k with
   | .load => e.getLsbD 1
   | .store => e.getLsbD 2
   | .fetch => e.getLsbD 3
   | .rmw => e.getLsbD 1 && e.getLsbD 2) && (priv != 0 || e.getLsbD 4)

/-- The address that a leaf maps `va` to. -/
def leafPa (big : Bool) (e va : Word) : Nat :=
  if big then wbits e 29 23 * 2 ^ 29 + wbits va 0 29
  else wbits e 20 32 * 2 ^ 20 + (if wbits e 10 2 = 2 then 0 else wbits e 16 4 * 2 ^ 16) + wbits va 0 16

/-- Is the entry well-formed as a leaf of its level? -/
def leafOk (big : Bool) (e : Word) : Bool :=
  !(e.getLsbD 2 && !e.getLsbD 1) && (wbits e 10 2 = 2 || wbits e 12 4 = 0) &&
  (!big || (wbits e 20 9 = 0 && (wbits e 10 2 = 2 || wbits e 16 4 = 0)))

/-- Checks of a leaf that do not depend on how it was found: permission, partition, retirement, PLACE = 11. -/
def State.leafTr (s : State) (p : Nat) (big : Bool) (e va : Word) (k : AccessKind) (priv : Nat) : Tr :=
  if !leafAllows e k priv then .pf
  else
    let pa := leafPa big e va
    if !s.inPartition p pa || s.retired pa then .access else .ok pa e

/-- Sets A, and D for a write, in the entry at `ea` (20 R366). -/
def State.markAD (s : State) (p ea cid : Nat) (e : Word) (k : AccessKind) : State :=
  let e' := e ||| 0x20 ||| (if kWrites k then 0x40 else 0)
  if e' = e then s else s.wrWord p ea cid e'

/-- A table entry is read from the partition's LPDDR6 only (21 R373); a walk that leads elsewhere ends in ACCESS (log 77). -/
def State.tableOk (s : State) (p ea : Nat) : Bool :=
  match s.paClass ea with
  | .dram _ => s.inPartition p ea
  | _ => false

/-- One level of the walk at table `t`; a pointer goes to the level below. The answer carries the leaf's size. A walk that
hardware makes inside a step, `hw`, does not wait at a held line (log 55). -/
def State.walkAt (s : State) (hw : Bool) (p cid : Nat) (va : Word) (k : AccessKind) (priv t lvl : Nat) : Nat → Tr × Bool × State
  | 0 => (.pf, false, s)
  | f + 1 =>
    let ix := if lvl = 1 then wbits va 42 13 else if lvl = 2 then wbits va 29 13 else wbits va 16 13
    let ea := t + 8 * ix
    if !s.tableOk p ea then (.access, false, s)
    else if !hw && s.heldLine (s.home00 p ea) ea then (.held, false, s)
    else
      let e := s.rdWord p ea
      let s := s.hwNote (s.home00 p ea) ea 8 false
      if !e.getLsbD 0 || wbits e 52 12 ≠ 0 then (.pf, false, s)
      else if wbits e 1 3 = 0 then
        if lvl = 3 || wbits e 4 12 ≠ 0 then (.pf, false, s)
        else s.walkAt hw p cid va k priv (wbits e 16 36 * 65536) (lvl + 1) f
      else
        let big := decide (lvl = 2)
        if lvl = 1 || !leafOk big e then (.pf, false, s)
        else match s.leafTr p big e va k priv with
          | .ok pa _ =>
            let s' := s.markAD p ea cid e k
            (.ok pa (e ||| 0x20 ||| (if kWrites k then 0x40 else 0)), big, s')
          | r => (r, big, s)

/-- The walk from ROOT, by hardware or for an access. -/
def State.walkBy (s : State) (hw : Bool) (cid : Nat) (va : Word) (k : AccessKind) (priv : Nat) : Tr × Bool × State :=
  let c := s.ctx cid
  if wbits va 55 9 ≠ 0 || (priv = 0 && va.getLsbD 54) || !c.root.getLsbD 0 then (.pf, false, s)
  else s.walkAt hw c.part cid va k priv (wbits c.root 16 36 * 65536) 1 3

def State.walk (s : State) (cid : Nat) (va : Word) (k : AccessKind) (priv : Nat) : Tr × Bool × State := s.walkBy false cid va k priv

/-! ### Translation caches (20 R367) -/

def TlbE.hits (e : TlbE) (cid : Nat) (va : Word) : Bool :=
  e.cid == cid && e.page == (if e.big then va.toNat / 2 ^ 29 else va.toNat / 65536)

def mkTlbE (cid : Nat) (big : Bool) (va pte : Word) : TlbE :=
  { cid := cid, big := big, page := if big then va.toNat / 2 ^ 29 else va.toNat / 65536, pte := pte }

/-- Puts an entry first and keeps `n` of them. -/
def tlbPut (l : List TlbE) (e : TlbE) (n : Nat) : List TlbE :=
  (e :: l.filter (fun x => !(x.cid == e.cid && x.big == e.big && x.page == e.page))).take n

def ptrPut (l : List PtrE) (e : PtrE) : List PtrE :=
  (e :: l.filter (fun x => !(x.cid == e.cid && x.lvl == e.lvl && x.pre == e.pre))).take 64

/-- The pointer of a level that the cluster caches for an address. -/
def State.ptrAt (s : State) (cid cl lvl : Nat) (va : Word) : Option Nat :=
  ((s.cl cl).ptrs.find? (fun x => x.cid == cid && x.lvl == lvl
    && x.pre == (if lvl = 1 then wbits va 42 13 else wbits va 29 26))).map PtrE.tab

/-- A pointer that a walk has read goes into the pointer cache. -/
def State.notePtr (s : State) (cl : Nat) (x : PtrE) : State := s.upCl cl (fun c => { c with ptrs := ptrPut c.ptrs x })

/-- The pointers on the path of an address, as a walk that used the cached ones leaves them. -/
def State.notePtrs (s : State) (cid cl : Nat) (va : Word) (big : Bool) : State :=
  let c := s.ctx cid
  let read (t ix : Nat) : Nat := wbits (s.rdWord c.part (t + 8 * ix)) 16 36 * 65536
  let t1 := (s.ptrAt cid cl 1 va).getD (read (wbits c.root 16 36 * 65536) (wbits va 42 13))
  match s.ptrAt cid cl 2 va with
  | some t2 => s.notePtr cl { cid := cid, lvl := 2, pre := wbits va 29 26, tab := t2 }
  | none =>
    let s := s.notePtr cl { cid := cid, lvl := 1, pre := wbits va 42 13, tab := t1 }
    if big then s
    else s.notePtr cl { cid := cid, lvl := 2, pre := wbits va 29 26, tab := read t1 (wbits va 29 13) }

/-- The cluster's walk (20 R366, R367): from the deepest pointer that its cache holds on the path, else from ROOT. -/
def State.walkCl (s : State) (cl cid : Nat) (va : Word) (k : AccessKind) (priv : Nat) : Tr × Bool × State :=
  let c := s.ctx cid
  if wbits va 55 9 ≠ 0 || (priv = 0 && va.getLsbD 54) || !c.root.getLsbD 0 then (.pf, false, s)
  else match s.ptrAt cid cl 2 va, s.ptrAt cid cl 1 va with
    | some t, _ => s.walkAt false c.part cid va k priv t 3 1
    | none, some t => s.walkAt false c.part cid va k priv t 2 2
    | none, none => s.walk cid va k priv

/-- A walk that ends well leaves its leaf in the cluster TLB and its pointers in the pointer cache; a failing one leaves
nothing (20 R367). -/
def State.walkFill (s : State) (cl cid : Nat) (va : Word) (k : AccessKind) (priv : Nat) : Tr × Bool × State :=
  match s.walkCl cl cid va k priv with
  | (.ok pa pte, big, s) =>
    let s := s.notePtrs cid cl va big
    (.ok pa pte, big, s.upCl cl (fun x => { x with tlb := tlbPut x.tlb (mkTlbE cid big va pte) 2048 }))
  | r => r

/-- Translation for a compute thread set: micro-TLB, cluster TLB, then a walk; a write through an entry with D clear
walks (20 R366). -/
def State.xlat (s : State) (tk : Nat) (va : Word) (k : AccessKind) (priv : Nat) : Tr × State :=
  let cid := cidOf tk
  let core := coreOf tk
  let cl := clusterOf tk
  let p := (s.ctx cid).part
  let use (e : TlbE) : Bool := e.hits cid va && (!kWrites k || e.pte.getLsbD 6)
  if wbits va 55 9 ≠ 0 || (priv = 0 && va.getLsbD 54) then (.pf, s)
  else match (s.core core).utlb.find? use with
    | some e => (s.leafTr p e.big e.pte va k priv, s)
    | none =>
      let s := s.evt tk 0x17
      match (s.cl cl).tlb.find? use with
      | some e => (s.leafTr p e.big e.pte va k priv, s.upCore core (fun c => { c with utlb := tlbPut c.utlb e 48 }))
      | none =>
        match (s.evt tk 0x18).walkFill cl cid va k priv with
        | (.ok pa pte, big, s) =>
          (.ok pa pte, s.upCore core (fun c => { c with utlb := tlbPut c.utlb (mkTlbE cid big va pte) 48 }))
        | (r, _, s) => (r, s)

/-- Translation by hardware on a context's behalf, at privilege 1 unless stated (19 R442), with the home that the entry's
PLACE gives for a requester on die `d`. -/
def State.xlatHw (s : State) (cid d : Nat) (va : Word) (k : AccessKind) (priv : Nat) : Option (Nat × Nat × Word) × State :=
  match s.walkBy true cid va k priv with
  | (.ok pa pte, _, s) =>
    match s.homeOf (s.ctx cid).part d pte pa with
    | some h => (some (pa, h, pte), s)
    | none => (none, s)
  | (_, _, s) => (none, s)

/-- Removes translations from the caches of a cluster and of its cores (20 R369, 21 R375). -/
def State.dropTlb (s : State) (cl : Nat) (p : TlbE → Bool) (q : PtrE → Bool) : State :=
  let s := s.upCl cl (fun x => { x with tlb := x.tlb.filter (fun e => !p e), ptrs := x.ptrs.filter (fun e => !q e) })
  (span (cl * 8) 8).foldl (fun s k =>
    match mfind s.cores k with
    | none => s
    | some _ => s.upCore k (fun c => { c with utlb := c.utlb.filter (fun e => !p e) })) s

/-! ### Hardware accesses through a context's tables -/

/-- Reads `n` bytes that do not cross a page, on a context's behalf. -/
def State.hwRead (s : State) (cid d : Nat) (va : Word) (n : Nat) : Option (List Byte) × State :=
  match s.xlatHw cid d va .load 1 with
  | (some (pa, h, _), s) =>
    (some ((span 0 n).flatMap (fun i => natLe ((s.recovered h (lineKey (pa + i))).toNat / 2 ^ (8 * ((pa + i) % 192))) 1)),
      s.hwNote h pa n false)
  | (none, s) => (none, s)

/-- Writes bytes of one line on a context's behalf. -/
def State.hwWrite (s : State) (cid d : Nat) (va : Word) (bs : List Byte) : Option State :=
  match s.xlatHw cid d va .store 1 with
  | (some (pa, h, _), s) =>
    some ((((s.hwNote h pa bs.length true).collapse (lineKey pa)).heal h (lineKey pa) (sectsOf (pa % 192) bs.length)).homeWrite h pa (bs.map (fun _ => true)) bs cid)
  | (none, _) => none

end Sys2Proof.Machine
end

