-- ==== Sys2Proof/Machine/Ops.lean ====
section
/-! DEFINITION. The named operations over registers, traps and the end of an instruction: reading and writing g, v and m
registers with their planes (02 R24-R29), dual semantics (15 R291, R292), taking an exception (20 R351; 19 R335; 14 R290)
and the return from one (20 R355), completing an instruction (03 R60-R62; 05 R106, R107; 23 R405), requests to home
slices and the release step of 10 R186. -/

namespace Sys2Proof.Machine

/-- What a step or a meaning answers. -/
abbrev Out := Host.Outcome State Fault Refusal

/-! ### Registers (02 R24) -/

/-- g[r] in plane `p` (0 primal, 1 d1, 2 d2); g0 and its planes read as zero. -/
def Arch.gp (a : Arch) (p : Nat) (r : Reg) : Word :=
  if r = 0 then 0
  else match p with
    | 0 => a.g[r.toNat]'(by have := r.isLt; omega)
    | 1 => a.gd1[r.toNat]'(by have := r.isLt; omega)
    | _ => a.gd2[r.toNat]'(by have := r.isLt; omega)

/-- Writes g[r] in plane `p`; a write to g0 or to a plane of it is discarded. -/
def Arch.setG (a : Arch) (p : Nat) (r : Reg) (w : Word) : Arch :=
  if r = 0 then a
  else match p with
    | 0 => { a with g := a.g.set r.toNat w (by have := r.isLt; omega) }
    | 1 => { a with gd1 := a.gd1.set r.toNat w (by have := r.isLt; omega) }
    | _ => { a with gd2 := a.gd2.set r.toNat w (by have := r.isLt; omega) }

/-- v[r] in plane `p`. -/
def Arch.vp (a : Arch) (p : Nat) (r : Reg) : VWord :=
  match p with
  | 0 => a.v[r.toNat]'(by have := r.isLt; omega)
  | 1 => a.vd1[r.toNat]'(by have := r.isLt; omega)
  | _ => a.vd2[r.toNat]'(by have := r.isLt; omega)

def Arch.setV (a : Arch) (p : Nat) (r : Reg) (w : VWord) : Arch :=
  match p with
  | 0 => { a with v := a.v.set r.toNat w (by have := r.isLt; omega) }
  | 1 => { a with vd1 := a.vd1.set r.toNat w (by have := r.isLt; omega) }
  | _ => { a with vd2 := a.vd2.set r.toNat w (by have := r.isLt; omega) }

/-- m[r]; m0 reads as all ones. -/
def Arch.mp (a : Arch) (r : BitVec 3) : Word :=
  if r = 0 then BitVec.allOnes 64 else a.m[r.toNat]'(by have := r.isLt; omega)

/-- Writes m[r]; no instruction names m0 as a destination (03 R64). -/
def Arch.setM (a : Arch) (r : BitVec 3) (w : Word) : Arch :=
  if r = 0 then a else { a with m := a.m.set r.toNat w (by have := r.isLt; omega) }

def State.g (s : State) (r : Reg) : Word := s.me.a.gp 0 r
def State.upA (s : State) (f : Arch → Arch) : State := s.upMe (fun t => { t with a := f t.a })

/-- Registers that are written anew: what an older instruction still delays of them no longer counts (05 R86). -/
def TSet.renew (t : TSet) (l : List (Nat × Nat)) : TSet :=
  { t with busy := t.busy.filter (fun b => b.due.isNone || !l.contains (b.cls, b.r)) }

/-- Registers, by class and number, whose new value is ready at cc `due`. -/
def TSet.soon (t : TSet) (l : List (Nat × Nat)) (due : Nat) : TSet :=
  { t.renew l with busy := l.map (fun x => { cls := x.1, r := x.2, due := some due }) ++ (t.renew l).busy }

def State.setG (s : State) (r : Reg) (w : Word) : State :=
  s.upMe (fun t => { t with a := t.a.setG 0 r w }.renew [(0, r.toNat)])

/-! ### STATUS (02 R34) -/

def TSet.priv (t : TSet) : Nat := wbits t.a.status 0 2
def TSet.ie (t : TSet) : Bool := t.a.status.getLsbD 2
def TSet.dwin (t : TSet) : Nat := wbits t.a.status 3 3
def TSet.specOn (t : TSet) : Bool := t.a.status.getLsbD 6
def TSet.dact (t : TSet) : Bool := t.a.status.getLsbD 7
def TSet.dpln (t : TSet) : Nat := wbits t.a.status 8 2

/-- STATUS with its DUAL window closed. -/
def noWindow (st : Word) : Word := putBits (putBits st 3 3 0) 7 3 0

/-- Planes named by a two-bit field: 01 d1, 10 d2, 11 both. -/
def planesOf (f : Nat) : List Nat := (if f % 2 = 1 then [1] else []) ++ (if f / 2 % 2 = 1 then [2] else [])

/-- The planes on which an instruction that is no transfer acts (15 R291). -/
def TSet.dual (t : TSet) : List Nat :=
  if t.priv ≠ 0 then []
  else if t.a.dmode.getLsbD 0 then planesOf (wbits t.a.dmode 1 2)
  else if t.dact then planesOf t.dpln
  else []

/-- Key under which the per-context words of a thread set stand; a system core has its own. -/
def ctxKey (tk : Nat) : Nat := if isSys tk then tk else cidOf tk

/-! ### Speculation: what an abort does to one thread set (14 R286) -/

/-- Registers that a request's reply will write. -/
def dstBusy (d : Dst) : List Busy :=
  match d with
  | .none => []
  | .g r _ _ => [{ cls := 0, r := r.toNat, due := none }]
  | .v r _ _ => [{ cls := 1, r := r.toNat, due := none }]

/-- The request an event carries, if it carries one. -/
def evReq (e : Ev) : Option Req :=
  match e with
  | .homeLoadServe r => some r
  | .loadReply r => some r
  | .homeStoreApply r => some r
  | .replicaCollapseAck r => some r
  | .amoSliceApply r => some r
  | .amoReply r => some r
  | .redArrival r => some r
  | .refusalReturn r => some r
  | .forcedMessageApply r => some r
  | .sigaddApply r => some r
  | _ => none

/-- A load of the thread set made while it speculated. -/
def specLoad (tk : Nat) (e : Ev) : Bool :=
  match e with
  | .homeLoadServe r => r.who == tk && r.spec.isSome
  | .loadReply r => r.who == tk && r.spec.isSome
  | _ => false

/-- Registers that requests in flight of a thread set, made outside speculation, will write. -/
def State.oldBusy (s : State) (tk : Nat) : List Busy :=
  s.pend.flatMap (fun x => match evReq x.ev with
    | some r => if r.who == tk && r.spec.isNone then dstBusy r.dst else []
    | none => [])

/-- A speculative load of a thread set that has been sent completes without its value, and leaves no mark (14 R286). -/
def unspec (tk : Nat) (x : Pend) : Pend :=
  match x.ev with
  | .homeLoadServe r => if r.who == tk && r.spec.isSome then { x with ev := .homeLoadServe { r with dst := .none, fill := false, spec := none } } else x
  | .loadReply r => if r.who == tk && r.spec.isSome then { x with ev := .loadReply { r with dst := .none, lanes := [], spec := none } } else x
  | _ => x

/-- Aborts the crossing of one thread set: held stores and the values of speculative loads are discarded, the checkpoint is restored
(all of it but DMODE.GATED, R282), pc goes to the BARWS with NOSPEC set, ABORTS counts (R286, R290). -/
def State.abortSpec (s : State) (tk : Nat) : State :=
  match (s.t tk).spec with
  | none => s
  | some c =>
    let s := ({ s with pend := s.pend.map (unspec tk) }).upCore (coreOf tk) (fun k =>
      { k with hold := k.hold.filter (fun h => h.r.who != tk) })
    let old := s.oldBusy tk
    s.upT tk (fun t =>
      let b := vget c.chk.bar c.h BarSt.reset
      let a := { c.chk with bar := vset c.chk.bar c.h { b with noSpec := true }
                            dmode := putBits c.chk.dmode 4 1 (wbits t.a.dmode 4 1) }
      let ab := wbits t.specst 16 16
      ({ t with a := a, pc := c.pc, spec := none, wait := none, wclk := 0, busy := old, undo := none, quiet := 0
                specst := putBits (putBits t.specst 16 16 (if ab = 0xFFFF then ab else ab + 1)) 0 1 0
                readyAt := s.cyc + 4 }).ev 0x10)

/-! ### Channels that a write carries (14 R285) -/

/-- Channels of which a position is a member, each with the first superstep whose arrival it has not made (14 R285). -/
def State.preChans (s : State) (tk : Nat) : List (Nat × BitVec 32) :=
  s.chans.filterMap (fun c => match c.2.grant with
    | some (cid, _, _) =>
      if cid == cidOf tk && (mget c.2.mem (clusterOf tk) 0).getLsbD (posOf tk % 32) then
        some (c.1, if (mget c.2.arr (clusterOf tk) 0).getLsbD (posOf tk % 32) then c.2.s + 1 else c.2.s)
      else none
    | none => none)

/-- The channels of an owner mask's thread sets (14 R285). -/
def State.ownChans (s : State) (core cid : Nat) (own : BitVec 4) : List (Nat × BitVec 32) :=
  ((span 0 4).flatMap (fun k => if own.getLsbD k then s.preChans (tkOf cid (core * 4 + k)) else [])).eraseDups

/-! ### Residual entries leave by forced message (10 R186 step 1, R194) -/

/-- Sends the residual entries of a core that satisfy a test, freeing them. -/
def State.sendRes (s : State) (core : Nat) (p : Res → Bool) : State :=
  (span 0 32).foldl (fun s i =>
    match vget (s.core core).tile i none with
    | none => s
    | some e =>
      if p e then
        let s := ((s.upCore core (fun c => { c with tile := vset c.tile i none })).upCC (e.r.cid * 2048 + core)
          (fun c => { c with forced := c.forced + 1 })).push
          (.forcedMessageApply { e.r with chans := s.ownChans core e.r.cid e.r.own, drain := true })
        (span 0 4).foldl (fun s k => if e.r.own.getLsbD k then s.evt (tkOf e.r.cid (core * 4 + k)) 0x0E else s) s
      else s) s

/-- Entries whose owner mask includes the thread set. -/
def State.sendOwn (s : State) (tk : Nat) : State :=
  s.sendRes (coreOf tk) (fun e => e.r.own.getLsbD (tsOf tk) && e.r.cid == cidOf tk)

/-! ### Counters (10 R198, R199) -/

/-- Wakes the registered waiters of a counter whose target is reached. -/
def State.wakeWaiters (s : State) (home pa : Nat) (c : Nat) : State :=
  let ws := (s.slice home).wait
  let hit (x : Waiter × Nat × Word) : Bool := x.2.1 == pa && decide (x.2.2.toNat ≤ c)
  let s := s.upSlice home (fun sl => { sl with wait := sl.wait.filter (fun x => !hit x) })
  (ws.filter hit).foldl (fun s x => match x.1 with
    | .ts tk => s.push (.waitgeWake tk)
    | .adm p _ => s.push (.admissionWaitEnd p)) s

/-- Adds to a counter at its home slice; false when the sum would pass 2^64 − 1, and then nothing changes unless `sat`. -/
def State.ctrAdd (s : State) (home pa amt cid : Nat) (sat : Bool) : Bool × State :=
  let (bs, s) := s.homeRead home pa 8
  let c := leNat bs + amt
  if c < 2 ^ 64 then
    (true, ((s.collapse (lineKey pa)).homeWrite home pa (List.replicate 8 true) (natLe c 8) cid).wakeWaiters home pa c)
  else if sat then
    (false, ((s.collapse (lineKey pa)).homeWrite home pa (List.replicate 8 true) (natLe (2 ^ 64 - 1) 8) cid).wakeWaiters home pa (2 ^ 64 - 1))
  else (false, s)

/-! ### Trace records (23 R407, R408) -/

/-- The STEP field outside kinds 0 and 5: S of the lowest granted handle of the bound task's launch. -/
def State.stepOf (s : State) (tk : Nat) : BitVec 32 :=
  let t := s.t tk
  match (s.part (s.partOf tk)).tasks.find? (fun k => some k.tcb == t.bound) with
  | none => 0
  | some k =>
    let chs := s.chans.filter (fun c => match c.2.grant with | some (c, q, _) => q == k.seq && c == k.cid | none => false)
    match leastBy (fun c => match c.2.grant with | some (_, _, h) => h | none => 8) chs with
    | none => 0
    | some c => c.2.s

/-- Writes one trace record on behalf of the thread set's context: an add to TIDX, the record, a SIGADD to TCTR. It is dropped
where one of the three would fault. -/
def State.trace (s : State) (tk kind : Nat) (step : BitVec 32) (pc val : Word) : State :=
  let cid := cidOf tk
  let c := s.ctx cid
  let d := dieOf tk
  if isSys tk || !c.trace.getLsbD 5 || c.tidx.toNat % 8 != 0 || c.tctr.toNat % 8 != 0 then s
  else match s.xlatHw cid d c.tidx .rmw 1, s.hwRead cid d c.tidx 8, s.xlatHw cid d c.tctr .rmw 1, s.hwRead cid d c.tctr 8 with
    | (some (_, _, ipte), _), (some kb, _), (some (cpa, ch, pte), _), (some nb, _) =>
      let k := leNat kb
      let ra := BitVec.ofNat 64 (wbits c.trace 12 52 * 4096 + 32 * (k % 2 ^ wbits c.trace 0 5))
      let rctr : Bool := match s.xlatHw cid d ra .store 1 with
        | (some (_, _, e), _) => e.getLsbD 7
        | (none, _) => true
      let rec8 : List Word :=
        [BitVec.ofNat 64 s.cyc,
         BitVec.ofNat 64 (posOf tk % 8192 + kind * 2 ^ 13 + cid % 4096 * 2 ^ 16 + step.toNat * 2 ^ 32), pc, val]
      if !pte.getLsbD 7 || ipte.getLsbD 7 || rctr || leNat nb = 2 ^ 64 - 1 then s
      else match s.hwWrite cid d c.tidx (natLe (k + 1) 8) with
        | none => s
        | some s1 =>
          match s1.hwWrite cid d ra (rec8.flatMap (fun w => wordLe w 8)) with
          | none => s
          | some s2 => (((s2.hwNote ch cpa 8 true).heal ch (lineKey cpa) (sectsOf (cpa % 192) 8)).ctrAdd ch cpa 1 cid false).2
    | _, _, _, _ => s

/-! ### Taking an exception -/

/-- The handler address that TVEC gives for a cause (20 R349). -/
def handler (tvec : Word) (code : Nat) : Word :=
  let base := tvec &&& ~~~(3 : Word)
  if wbits tvec 0 2 = 1 ∧ 0x80 ≤ code ∧ code ≤ 0x87 then base + BitVec.ofNat 64 (64 + 4 * (code - 0x80)) else base

/-- STATUS in the handler: privilege `p`, interrupts off, no DUAL window (20 R351). -/
def inHandler (st : Word) (p : Nat) : Word := putBits (noWindow st) 0 3 p

/-- TAKING AN EXCEPTION (20 R351, R348): ESCR saves STATUS, EPC the address, CAUSE and TVAL the reason; the privilege
becomes 1, on a system core 3; IE and the DUAL window clear; pc goes to the handler. A wait that it interrupts begins anew
after the return, its clock at 0 (log 5). -/
def State.enterHandler (s : State) (tk code : Nat) (tval epc : Word) : State :=
  let p := if isSys tk then 3 else 1
  let tv := (s.ctx (ctxKey tk)).tvec
  let trp := (s.t tk).pmctl.getLsbD 5
  let s := s.upT tk (fun t =>
    ({ t with escr := putBits t.a.status 6 1 0, cause := BitVec.ofNat 64 code, tval := tval, epc := epc
              a := { t.a with status := inHandler t.a.status p }
              pc := handler tv code, wait := none, wclk := 0, exempt := none, entered := true, nxmTo := none, undo := none
              watch := if code = 0x22 then some epc else t.watch
              callAt := if (code = 0x20 ∨ code = 0x21) ∧ t.dact then some epc else t.callAt
              inMc := t.inMc || code == 0x40, readyAt := s.cyc + 1, lastIss := s.cyc + 1 }).ev 0x15)
  if trp then
    s.trace tk 2 (s.stepOf tk) epc (BitVec.ofNat 64 (code * 2 ^ 56 + tval.toNat % 2 ^ 56))
  else s

/-- The TCB of a thread set's task as a park writes it (07 R143, 19 R336). -/
def TSet.tcb (t : TSet) (k : Task) (launch : Word) (state : Nat) (pc : Word) : TcbRec :=
  { state := state, cid := k.cid, launch := launch, seq := k.seq, low := BitVec.ofNat 64 k.low, home := k.pos
    hv := true, wclk := t.wclk, wlim := t.wlim, pc := pc, residx := t.residx, wlimit := t.wlimit, a := t.a }

def State.upTask (s : State) (p tcb : Nat) (f : Task → Task) : State :=
  s.upPart p (fun x => { x with tasks := x.tasks.map (fun k => if k.tcb = tcb then f k else k) })

def State.task? (s : State) (p tcb : Nat) : Option Task := (s.part p).tasks.find? (fun k => k.tcb == tcb)
def State.launch? (s : State) (p cid seq : Nat) : Option Launch :=
  (s.part p).launches.find? (fun l => l.seq == seq && l.cid == cid)

/-- A field of a launch record's snapshot (19 R330). -/
def recN (x : BitVec 2048) (off lo n : Nat) : Nat := wbits x (8 * off + lo) n
def recW (x : BitVec 2048) (off : Nat) : Word := BitVec.ofNat 64 (recN x off 0 64)

/-- The thread set becomes Idle: its position keeps its counts (07 R143). -/
def TSet.idle (t : TSet) : TSet :=
  { t with bound := none, wait := none, wclk := 0, busy := [], undo := none, exempt := none, entered := false, nxmTo := none }

/-- The thread set's task leaves it with its state in its TCB (07 R143; 19 R335, R342): a split request on it is
withdrawn, its residual entries are delivered. -/
def State.park (s : State) (tk state : Nat) (pc : Word) (wait : Option (Nat × Nat × Word)) : State :=
  let p := s.partOf tk
  let t := s.t tk
  match t.bound with
  | none => s
  | some tcb =>
    match s.task? p tcb with
    | none => s.upT tk TSet.idle
    | some k =>
      let lv := match s.launch? p k.cid k.seq with | some l => l.va | none => 0
      let s := s.sendOwn tk
      let s := s.putTcb p tcb (t.tcb { k with pos := posOf tk / 4 * 4 } lv state pc)
      let s := s.upTask p tcb (fun k =>
        { k with st := state, pos := posOf tk, hv := true, req := none, wait := wait, wclk := t.wclk
                 wlim := t.wlim })
      s.upT tk TSet.idle

/-- A cause that parks a user task in its fault queue (20 R351). -/
def parks (code : Nat) : Bool := decide (1 ≤ code ∧ code ≤ 0x1B)

/-- Parks a faulting user task: TCB with STATE faulted, and an entry for its fault queue (19 R334, R335). -/
def State.parkFault (s : State) (tk code : Nat) (tval epc : Word) : State :=
  let p := s.partOf tk
  let t := s.t tk
  match t.bound with
  | none => s.enterHandler tk code tval epc
  | some tcb =>
    let (lva, fq, q) := match s.task? p tcb with
      | none => ((0 : Word), (0 : Word), 0)
      | some k => match s.launch? p k.cid k.seq with | some l => (l.va, recW l.snap 0x78, l.q) | none => (0, 0, 0)
    let cid := cidOf tk
    let dflt := decide (wbits fq 6 58 = 0)
    let w := if dflt then (s.ctx cid).dfq else fq
    let ent : FqEnt :=
      { cid := cid, va := w &&& ~~~(0x3F : Word), phys := dflt, z := wbits w 0 6, tcb := tcb, dflt := dflt, q := q
        words := [BitVec.ofNat 64 tcb, BitVec.ofNat 64 code, epc, tval, BitVec.ofNat 64 (posOf tk), lva, t.a.claim, t.a.rend] }
    let trp := t.pmctl.getLsbD 5
    let st := s.stepOf tk
    let s := (s.upT tk (fun t => { t.ev 0x15 with lastIss := s.cyc + 1 })).park tk 4 epc none
    let s := (s.upPart p (fun x => { x with fq := x.fq ++ [ent] })).push (.faultQueueWrite p)
    if trp then s.trace tk 3 st epc (BitVec.ofNat 64 code) else s

/-- A trap of this cause parks the task, and loads that have left the core must write their registers first (05 R87). -/
def State.mustLand (s : State) (tk code : Nat) : Bool :=
  let t := s.t tk
  t.spec.isNone && !isSys tk && t.priv == 0 && parks code && t.busy.any (fun b => b.due.isNone)

/-- THE ONE TRAP OPERATION: a speculating thread set first aborts its crossing, and the fault is not reported then (14
R290); a park first lets loads that have left the core write their registers (05 R87); at privilege 0 a cause 0x01-0x1B parks the task (19 R335); every other trap enters the handler (20 R351). -/
def State.trapAt (s : State) (tk code : Nat) (tval epc : Word) : State :=
  let t := s.t tk
  if t.spec.isSome then (s.abortSpec tk).upT tk (fun t => { t with lastIss := s.cyc + 1 })
  else if s.mustLand tk code then s.upT tk (fun t => { t with readyAt := s.cyc + 1 })
  else if !isSys tk && t.priv == 0 && parks code then s.parkFault tk code tval epc
  else s.enterHandler tk code tval epc

/-- A synchronous trap of the current instruction: EPC is its first word. -/
def State.trap (s : State) (code : Nat) (tval : Word) : State := s.trapAt s.cur code tval s.me.pc

/-- ILLEGAL_INSN and PRIV carry the first word zero-extended (03 R65). -/
def State.illegal (s : State) (w : BitVec 32) : Out := .next (s.trap 1 (w.setWidth 64))
def State.privFault (s : State) (w : BitVec 32) : Out := .next (s.trap 2 (w.setWidth 64))

def cMisalign : Nat := 3
def cPfLd : Nat := 4
def cPfSt : Nat := 5
def cPfX : Nat := 6
def cAccess : Nat := 7
def cDetached : Nat := 0x10
def cRange : Nat := 0x11
def cQuota : Nat := 0x12
def cNxm : Nat := 0x13
def cCtrOvf : Nat := 0x18
def cTimeout : Nat := 0x19
def cTorn : Nat := 0x1A
def cRing : Nat := 0x1B

/-! ### The end of an instruction -/

/-- Is `x` the address of a word of an instruction of `len` bytes at `pc`? -/
def inWords (pc : Word) (len : Nat) (x : Word) : Bool := x == pc || (len == 8 && x == pc + 4)

/-- One level of the loop check (05 R106): the words after it and whether it branches back. -/
def loopCheck (a : Arch) (l : Nat) (pc : Word) (len : Nat) : Arch × Bool :=
  if a.lstat.getLsbD l && inWords pc len (vget a.le l 0) then
    let c := vget a.lc l 0
    if c = 0 then ({ a with lstat := putBits a.lstat l 1 0 }, false)
    else
      let a := { a with lc := vset a.lc l (c - 1) }
      if c - 1 = 0 then ({ a with lstat := putBits a.lstat l 1 0 }, false) else (a, true)
  else (a, false)

/-- Loop checks at privilege 0, level 1 before level 0: the words and the next pc. -/
def loopEnd (a : Arch) (pc : Word) (len : Nat) : Arch × Word × Bool :=
  match loopCheck a 1 pc len with
  | (a, true) => (a, vget a.ls 1 0, true)
  | (a, false) =>
    match loopCheck a 0 pc len with
    | (a, true) => (a, vget a.ls 0 0, true)
    | (a, false) => (a, pc + BitVec.ofNat 64 len, false)

/-- STATUS after a covered instruction has completed (03 R60). -/
def countWindow (st : Word) : Word :=
  if st.getLsbD 7 then (if wbits st 3 3 = 0 then noWindow st else putBits st 3 3 (wbits st 3 3 - 1)) else st

/-- SSTEP after an instruction that completed at privilege 0 with PMCTL.SS = 1 (23 R405). -/
def State.sstep (s : State) (pc0 : Word) (priv0 : Nat) : State :=
  let t := s.me
  if priv0 = 0 && t.pmctl.getLsbD 2 && !isSys s.cur then s.trapAt s.cur 0x23 pc0 t.pc else s

/-- The instruction at pc, of `len` bytes, completes without transferring control: the DUAL window counts, the loop
checks run, pc advances; `extra` issue cycles go to the planes acted on (05 R86), whose quiet time ends (02 R27); `win` says
what becomes of the window. `under` says that the instruction is no transfer and no DMOV, which never execute under dual semantics (15
R291). -/
def State.retireW (s : State) (len extra : Nat) (win : Word → Word) (under : Bool) : State :=
  let t := s.me
  let pc := t.pc
  let priv := t.priv
  let dual := decide (t.dual ≠ [])
  let acts := dual && decide (extra ≠ 0)
  let s := s.upMe (fun t =>
    let a := { t.a with status := win t.a.status }
    let (a, pc', back) := if priv = 0 && !isSys s.cur then loopEnd a pc len else (a, pc + BitVec.ofNat 64 len, false)
    let a := if back then { a with status := noWindow a.status } else a
    let t := { t with a := a, pc := pc', undo := none, entered := false, nxmTo := none, exempt := none, readyAt := s.cyc + 1 + extra
                      lastIss := s.cyc + 1, wclk := 0, quiet := if acts then 0 else t.quiet
                      planeAt := if acts then s.cyc + 1 else t.planeAt }
    if dual && under then (t.ev 2).ev 0x13 else t.ev 2)
  s.sstep pc priv

def State.retire (s : State) (len extra : Nat) : State := s.retireW len extra countWindow true

/-- Completes with no plane acted on. -/
def State.done (s : State) (len : Nat) : State := s.retire len 0

/-- Completes an instruction that acts on the planes under dual semantics. -/
def State.doneD (s : State) (len : Nat) : State := s.retire len s.me.dual.length

/-- The levels whose span [LS, LE] does not hold a target disarm (05 R107). -/
def disarmOut (a : Arch) (target : Word) : Arch :=
  let one (a : Arch) (l : Nat) : Arch :=
    if decide (vget a.ls l 0 ≤ target) && decide (target ≤ vget a.le l 0) then a
    else { a with lstat := putBits a.lstat l 1 0 }
  one (one a 0) 1

/-- A transfer of 03 R61 that goes to `target`: the window ends, the loop levels follow 05 R107 at privilege 0, no loop
check runs, and the next issue is one cc later (05 R86). -/
def State.jump (s : State) (target : Word) : State :=
  let t := s.me
  let pc := t.pc
  let priv := t.priv
  let s := s.upMe (fun t =>
    let a := { t.a with status := noWindow t.a.status }
    let a := if priv = 0 && !isSys s.cur then disarmOut a target else a
    ({ t with a := a, pc := target, undo := none, entered := false, exempt := none, readyAt := s.cyc + 2
              lastIss := s.cyc + 1, wclk := 0 }).ev 2)
  s.sstep pc priv

/-- A transfer of 03 R61 that does not transfer: the window ends and the loop check runs. -/
def State.noJump (s : State) : State :=
  (s.upA (fun a => { a with status := noWindow a.status })).retireW 4 0 countWindow false

/-- Does a return go to the instruction after a covered ECALL or EBREAK, which ends its window (03 R61, 20 R354)? The model takes a
return to that address for one whatever CAUSE holds, and a return to another for none (log 92). -/
def TSet.pastCall (t : TSet) : Bool := match t.callAt with | some a => t.epc == a + 4 | none => false

/-- ERET (20 R355): STATUS and pc come back from ESCR and EPC; a return to privilege 0 is a taken transfer for the loop
levels; a return past a covered ECALL or EBREAK ends their window; a return from WATCH to the address at which it trapped
gives the exemption of 23 R404. -/
def State.eret (s : State) : State :=
  let t := s.me
  let back0 := decide (wbits t.escr 0 2 = 0)
  let pc0 := t.pc
  let s := s.upMe (fun t =>
    let st := putBits t.escr 6 1 0
    let a := { t.a with status := if t.pastCall then noWindow st else st }
    let a := if back0 && !isSys s.cur then disarmOut a t.epc else a
    ({ t with a := a, pc := t.epc, undo := none, entered := false
              exempt := if t.cause = 0x22 ∧ t.watch = some t.epc then some t.epc else none
              watch := if t.cause = 0x22 then none else t.watch
              inMc := false, readyAt := s.cyc + 2, lastIss := s.cyc + 1, wclk := 0 }).ev 2)
  s.sstep pc0 t.priv

/-! ### Results -/

/-- Writes an integer result and zero to the named planes (05 R91). -/
def Arch.putInt (a : Arch) (ps : List Nat) (d : Reg) (w : Word) : Arch :=
  ps.foldl (fun a p => a.setG p d 0) (a.setG 0 d w)

def State.putInt (s : State) (d : Reg) (w : Word) : State :=
  s.upMe (fun t => { t with a := t.a.putInt s.me.dual d w }.renew [(0, d.toNat)])

/-- The instruction's result is not ready for `lat` cc more than its issue; while it executes, an interrupt abandons it
(05 R86, R87). `t0` is the thread set before it. -/
def State.longAfter (s : State) (t0 : TSet) (lat : Nat) (b : List (Nat × Nat)) : State :=
  let lat := lat + t0.dual.length
  let due := s.cyc + lat
  let s := s.upMe (fun t =>
    { t.soon b due with
             undo := if t0.pmctl.getLsbD 2 then none else some (t0.a, t0.pc, due) })
  s.pushAt due (.resultReady s.cur)

/-- ORs flags into FMODE (04 R81). -/
def orFlags (fm : Word) (f : Flags) : Word := fm ||| (f.setWidth 64 <<< 3)

/-- The rounding mode of FMODE. -/
def TSet.rm (t : TSet) : Nat := wbits t.a.fmode 0 3

/-- NXM of the thread set's core (02 R36). -/
def State.nxm (s : State) (tk : Nat) : Bool := (s.cc (ccOf tk)).nxm

/-! ### Requests to home slices -/

/-- A blank request of the current thread set. -/
def State.req (s : State) (tk : Nat) (k : ReqKind) (va : Word) (pa home : Nat) (pte : Word) (len : Nat) : Req :=
  { who := tk, agent := if isSys tk then .system else .thread, cid := if isSys tk then Config.shared else cidOf tk
    kind := k, pa := pa, home := home, p00 := wbits pte 10 2 = 0, len := len, data := 0, mask := BitVec.ofNat 64 (2 ^ len - 1), cmp := 0, va := va
    dst := .none, acq := false, rel := false, fill := false, rm := pte.getLsbD 8 && !pte.getLsbD 7, die := dieOf tk
    spec := none, chans := if isSys tk then [] else s.preChans tk, own := 0, lanes := [], iss := s.cyc + 1, pl := 0, drain := false }

/-- Does a context's termination run or wait on some die? -/
def State.ending (s : State) (cid : Nat) : Bool :=
  s.dies.any (fun d => d.2.tbusy && (d.2.tcid == cid || d.2.termq.any (fun x => x.1 == cid)))

/-- Step 1 of a release at CLUSTER scope or wider (10 R186). -/
def State.relStep (s : State) (tk scope : Nat) : State := if scope = 0 || isSys tk then s else s.sendOwn tk

/-- Does a request hold addends of the thread set, or is it its own? -/
def owes (tk : Nat) (r : Req) : Bool :=
  r.who == tk || (r.kind matches .red _) && r.own.getLsbD (tsOf tk) && r.cid == cidOf tk && coreOf r.who == coreOf tk

/-- An event that is an access of the thread set not yet performed, or a reduction or residual message that a release of
the thread set must wait for (10 R186; 17 R308). -/
def waitsFor (tk : Nat) (e : Ev) : Bool :=
  match e with
  | .homeLoadServe r => r.who == tk
  | .homeStoreApply r => r.who == tk
  | .replicaCollapseAck r => owes tk r
  | .amoSliceApply r => r.who == tk
  | .sigaddApply r => r.who == tk
  | .redArrival r => owes tk r
  | .refusalReturn r => owes tk r
  | .forcedMessageApply r => owes tk r
  | .barrierArrival v => v.tk == tk
  | _ => false

/-- Every earlier access of the thread set is performed. -/
def State.allPerformed (s : State) (tk : Nat) : Bool := !s.inFlight (waitsFor tk)

/-- An acquire is performed: the epoch advances (10 R184). -/
def State.acquire (s : State) (tk : Nat) : State :=
  ({ s with seq := s.seq + 1 }).upT tk (fun t => { t with epoch := s.seq + 1 })

/-- Runs hardware's own step unless it meets a held line: then it does nothing yet (24 R414). -/
def State.unlessHeld (s : State) (f : State → State) : State := if (f s).blocked && !s.blocked then s else f s

/-! ### Waiting (07 R144) -/

/-- The current instruction waits; its clock starts at 0, or goes on from a saved value, and the limit is captured. -/
def State.startWait (s : State) (w : Wait) : State :=
  s.upMe (fun t => { t with wait := some w, wlim := if t.wclk = 0 then wbits t.wlimit 0 48 else t.wlim
                            lastIss := s.cyc + 1 })

/-- A wait instruction of 07 R144, whose clock is bounded. -/
def Wait.bounded : Wait → Bool
  | .waitge .. => true
  | .barr .. => true
  | .barw .. => true
  | .bwait .. => true
  | .recv .. => true
  | .expired _ => true
  | _ => false

/-- Runs `f` on the state with `tk` as the current thread set. -/
def State.asTk (s : State) (tk : Nat) (f : State → State) : State :=
  { f { s with cur := tk } with cur := s.cur }

end Sys2Proof.Machine
end

