-- ==== Sys2Proof/Machine/Operands.lean ====
section
/-! DEFINITION. The operand forms: immediates and literal words (03 R43, R44), effective addresses and sizes of scalar
accesses (03 R48; 05 R97), lanes of v registers and mask bits (02 R26). -/

namespace Sys2Proof.Machine

/-- A sign-extended immediate (03 R43). -/
def immS {w : Nat} (x : BitVec w) : Word := x.signExtend 64

/-- A zero-extended immediate. -/
def immZ {w : Nat} (x : BitVec w) : Word := x.setWidth 64

/-- A literal word as an OPR operand (03 R44). -/
def litI (x : BitVec 32) : Word := x.signExtend 64

/-- A word distance of a branch (03 R42): four times the sign-extended field. -/
def wordOff {w : Nat} (x : BitVec w) : Word := x.signExtend 64 <<< 2

/-- The effective address g[a] + sext(offset) (05 R97). -/
def State.ea {w : Nat} (s : State) (a : Reg) (o : BitVec w) : Word := s.g a + o.signExtend 64

/-- Bytes of a load of size code `z` (03 R48). -/
def loadLen (z : BitVec 3) : Nat :=
  match z.toNat with
  | 0 => 1 | 4 => 1 | 1 => 2 | 5 => 2 | 2 => 4 | 6 => 4 | _ => 8

/-- The register value of loaded bytes under size code `z` (05 R97). -/
def loadExt (z : Nat) (x : Nat) : Word :=
  match z with
  | 0 => (BitVec.ofNat 8 x).signExtend 64
  | 1 => (BitVec.ofNat 16 x).signExtend 64
  | 2 => (BitVec.ofNat 32 x).signExtend 64
  | 4 => (BitVec.ofNat 8 x).setWidth 64
  | 5 => (BitVec.ofNat 16 x).setWidth 64
  | 6 => (BitVec.ofNat 32 x).setWidth 64
  | _ => BitVec.ofNat 64 x

/-- Does a load of this size move tangent images (05 R102)? -/
def loadDual (z : BitVec 3) : Bool := decide (z.toNat = 2 ∨ z.toNat = 6 ∨ z.toNat = 3)

def storeLen (z : BitVec 2) : Nat := 2 ^ z.toNat
def storeDual (z : BitVec 2) : Bool := decide (2 ≤ z.toNat)

def aligned (ea : Word) (n : Nat) : Bool := decide (ea.toNat % n = 0)

/-- Lane `i` of width `w` (02 R26). -/
def lane (x : VWord) (w i : Nat) : Nat := bits x.toNat (w * i) w

/-- A v register with lane `i` of width `w` replaced. -/
def setLane (x : VWord) (w i v : Nat) : VWord := putBits x (w * i) w v

/-- Element width of type code t (03 R42). -/
def tWidth (t : Nat) : Nat :=
  match t with
  | 0 => 32 | 1 => 16 | 2 => 16 | 3 => 32 | 4 => 16 | 5 => 8 | 6 => 32 | _ => 8

def tLanes (t : Nat) : Nat := 512 / tWidth t

/-- Is the element type signed, as an integer type? -/
def tSigned (t : Nat) : Bool := decide (3 ≤ t ∧ t ≤ 5)

/-- The floating-point format of types 0-2. -/
def tFmt (t : Nat) : Fmt := match t with | 0 => F32 | 1 => BF16 | _ => F16

/-- An integer lane as an integer. -/
def tInt (t x : Nat) : Int :=
  let w := tWidth t
  if tSigned t && decide (2 ^ (w - 1) ≤ x) then (x : Int) - 2 ^ w else x

/-- The lane with the bits of v where a mask bit is 1, of the old value elsewhere. -/
def maskLanes (m : Word) (w : Nat) (old new : VWord) : VWord :=
  (span 0 (512 / w)).foldl (fun x i => if m.getLsbD i then setLane x w i (lane new w i) else x) old

end Sys2Proof.Machine
end

