-- ==== Sys2Proof/Machine/Access.lean ====
section
/-! DEFINITION. Accesses of a thread set: where a byte is, the checks of 05 R98 and their order, watchpoints (23 R402,
R403, R406), the L1 (10 R184; 05 R99, R100), the hold buffer (14 R283), banks (05 R101; 08 R155-R164) and the requests
that loads and stores send. -/

namespace Sys2Proof.Machine

/-- A BANK, TCMD, MMA, MAUX, BAR, TASK, STRM or local access on a system core raises ILLEGAL_INSN (01 R19). -/
def State.notSys (s : State) (i : Instr) (k : Out) : Out :=
  if isSys s.cur then s.illegal (BitVec.ofNat 32 i.firstWord) else k

/-- The instruction waits where it is and is tried again in the next cc; nothing else changes. -/
def State.again (s : State) : Out := .next (s.upMe (fun t => { t with readyAt := s.cyc + 1 }))

/-- The instruction is held until its crossing resolves (14 R283, R284): a commit lets it issue again, an abort discards it. -/
def State.untilResolved (s : State) : Out := .next (s.upMe (fun t => { t with wait := some .resolve }))

/-- Bytes that a request reads or writes at a slice. -/
def State.noteReq (s : State) (r : Req) (home pa n : Nat) (wr : Bool) : State :=
  s.swNote home pa n wr (agentCls r.agent) (if isSys r.who then 0 else clusterOf r.who)

/-! ### Where an access goes (05 R98; 10 R181; 20 R366; 22 R394) -/

inductive Site where
  | ok (pa home : Nat) (pte : Word)
  | flt (code : Nat)
  /-- the tables of the translation are held (24 R414) -/
  | held
  | void (pa : Nat)
  deriving DecidableEq, Repr

def pfOf : AccessKind → Nat
  | .load => cPfLd
  | .fetch => cPfX
  | _ => cPfSt

/-- The entry that a system core's accesses act as having: R, W, X, NC, PLACE = 00 (22 R394); CTR, which R394 does not state, is 0, so
that the counter instructions raise ACCESS there (log 90; DESIGN CHOICE). -/
def sysPte : Word := 0x20F

/-- Does the address lie in a register block? -/
def State.isReg (s : State) (pa : Nat) : Bool :=
  match s.paClass pa with
  | .cluster _ _ => true
  | .slice _ _ => true
  | .chan _ _ => true
  | .die _ _ => true
  | _ => false

/-- A system core's access (22 R394): physical, homed by the address. Machine privilege alone reaches a die's register block (21 R374,
24 R415, 25 R426); below it the access raises ACCESS (log 8). A fetch with [54:52] ≠ 0 fails as a load does (log 90). -/
def State.sysSite (s : State) (tk : Nat) (ea : Word) (k : AccessKind) : Site :=
  if wbits ea 52 12 ≠ 0 then .flt (pfOf k)
  else
    let pa := ea.toNat
    match s.paClass pa with
    | .nothing => .void pa
    | .dram _ => .ok pa (s.sysHome pa) sysPte
    | .firmware => .ok pa (s.sysHome pa) sysPte
    | .die _ _ => if (s.t tk).priv = 3 then .ok pa 0 sysPte else .flt cAccess
    | _ => .ok pa 0 sysPte

/-- Where an access of a thread set goes, and what the translation leaves in the caches and in A and D. -/
def State.site (s : State) (tk : Nat) (ea : Word) (k : AccessKind) (priv : Nat) : Site × State :=
  if isSys tk then (s.sysSite tk ea k, s)
  else match s.xlat tk ea k priv with
    | (.ok pa pte, s) =>
      match s.homeOf (s.partOf tk) (dieOf tk) pte pa with
        | some h => (.ok pa (if s.isReg pa then 0 else h) pte, s)
        | none => (.flt cAccess, s)
    | (.pf, s) => (.flt (pfOf k), s)
    | (.access, s) => (.flt cAccess, s)
    | (.held, s) => (.held, s)

/-- An address that passed its checks. -/
structure Hit where
  ea   : Word
  pa   : Nat
  home : Nat
  pte  : Word
  deriving DecidableEq, Repr

inductive Plan where
  | ok (l : List Hit)
  | flt (code : Nat) (tval : Word)
  | held
  | void (pa : Nat)
  deriving DecidableEq, Repr

/-- How the pages of an access are judged: `deny` raises ACCESS by the entry; `regs` admits register blocks, whose
accesses are aligned and 8 bytes long (22 R394). -/
structure Checks where
  kind : AccessKind
  al   : Nat
  ctr  : Option Bool      -- the value of CTR that raises ACCESS
  regs : Bool
  deriving DecidableEq, Repr

/-- The checks of 05 R98, address by address: alignment, translation and permission, then ACCESS; the first failure is
the fault (05 R102; 06 R127). -/
def State.plan (s : State) (tk : Nat) (c : Checks) : List Word → Plan × State
  | [] => (.ok [], s)
  | ea :: l =>
    if !aligned ea c.al then (.flt cMisalign ea, s)
    else match s.site tk ea c.kind (s.t tk).priv with
      | (.flt f, s) => (.flt f ea, s)
      | (.held, s) => (.held, s)
      | (.void pa, s) => (.void pa, s)
      | (.ok pa home pte, s) =>
        if c.ctr == some (pte.getLsbD 7) || (s.isReg pa && !c.regs) then (.flt cAccess ea, s)
        else match s.plan tk c l with
          | (.ok hs, s) => (.ok ({ ea := ea, pa := pa, home := home, pte := pte } :: hs), s)
          | r => r

/-- Goes on with the addresses that passed, or raises the first failure; a system core's access where nothing is stops
the machine. -/
def State.planned (s : State) (c : Checks) (eas : List Word) (k : List Hit → State → Out) : Out :=
  match s.plan s.cur c eas with
  | (.ok hs, s) => k hs s
  | (.flt f v, s) => .next (s.trap f v)
  | (.held, _) => s.again
  | (.void pa, _) => .fault (.noStorage pa)

/-! ### Precise watchpoints (23 R402-R404) -/

/-- Bytes an instruction would access. -/
structure Touch where
  lo  : Nat
  len : Nat
  rd  : Bool
  wr  : Bool
  loc : Bool
  deriving DecidableEq, Repr

def minList : List Nat → Option Nat
  | [] => none
  | x :: l => match minList l with | none => some x | some y => some (min x y)

/-- The lowest address at which a data watchpoint of the position matches, from the lowest-numbered that matches. -/
def State.watch (s : State) (tk : Nat) (ts : List Touch) : Option Word :=
  if isSys tk || (s.t tk).exempt == some (s.t tk).pc then none
  else
    let c := s.core (coreOf tk)
    (span 0 4).foldl (fun r w =>
      match r with
      | some a => some a
      | none =>
        let ctl := vget c.wctl (4 * tsOf tk + w) 0
        let base := wbits (vget c.waddr (4 * tsOf tk + w) 0) 0 (if ctl.getLsbD 4 then 19 else 55)
        let hits := ts.filter (fun t => ((t.rd && ctl.getLsbD 1) || (t.wr && ctl.getLsbD 2)) && t.loc == ctl.getLsbD 4
          && overlap t.lo t.len base (2 ^ wbits ctl 5 5))
        if ctl.getLsbD 0 && wbits ctl 16 12 == cidOf tk then
          (minList (hits.map (fun t => max t.lo base))).map (BitVec.ofNat 64)
        else none) none

/-- The watchpoint check, after every fault and before any access (23 R403). -/
def State.watched (s : State) (ts : List Touch) (k : Out) : Out :=
  match s.watch s.cur ts with
  | some a => .next (s.trap 0x22 a)
  | none => k

/-- Touches of the bytes that a mask selects of 64 at each address. -/
def byteTouches (on : BitVec 64) (rd wr loc : Bool) (eas : List Nat) : List Touch :=
  eas.flatMap (fun a => ((span 0 64).filter (fun i => on.getLsbD i)).map (fun i => { lo := a + i, len := 1, rd := rd, wr := wr, loc := loc }))

/-- Touches of global accesses of `n` bytes. -/
def touches (n : Nat) (rd wr : Bool) (hs : List Hit) : List Touch :=
  hs.map (fun h => { lo := h.ea.toNat, len := n, rd := rd, wr := wr, loc := false })

/-! ### The L1 (10 R184) -/

/-- Sectors that bytes [pa, pa + n) touch. -/
def sectors (pa n : Nat) : List Nat := span (pa / 48) ((pa + n - 1) / 48 + 1 - pa / 48)

/-- Must an access of the thread set at [pa, pa + n), of the instruction stamped `iss` and of plane `pl`, follow `r` (05 R102;
06 R128; 10 R185, R186)? Of one instruction, the planes go in order and lanes of one plane have none; an earlier
instruction's access goes first if it is an acquire or names a common byte. -/
def follows (tk iss pl pa n : Nat) (r : Req) : Bool :=
  r.who == tk && (if r.iss = iss then decide (r.pl < pl) else r.acq || overlap r.pa r.len pa n)

/-- An access in flight that stands before such an access, or an acquire's reply on its way, which ends the epoch (10 R184). -/
def blocks (tk iss pl pa n : Nat) (e : Ev) : Bool :=
  let on (r : Req) : Bool := follows tk iss pl pa n r
  match e with
  | .loadReply r => r.who == tk && r.acq
  | .amoReply r => r.who == tk && r.acq
  | .homeLoadServe r => on r
  | .homeStoreApply r => on r
  | .replicaCollapseAck r => on r
  | .amoSliceApply r => on r
  | .sigaddApply r => on r
  | .redArrival r => on r
  | _ => false

/-- Bytes of the L1, where every sector of the access is present, was filled after the thread set's acquire epoch, and no
access in flight stands before it. -/
def State.l1Read (s : State) (tk pl pa n : Nat) : Option (BitVec 512) :=
  let c := s.core (coreOf tk)
  let ep := (s.t tk).epoch
  let find (k : Nat) : Option L1Sec := c.l1.find? (fun x => x.sector == k && decide (ep < x.seq))
  if s.inFlight (blocks tk (s.cyc + 1) pl pa n) then none
  else
    (span 0 n).foldl (fun r i =>
      match r with
      | none => none
      | some v =>
        match find ((pa + i) / 48) with
        | none => none
        | some x =>
          let o := (pa + i) % 48
          if x.mask.getLsbD o then some (putBits v (8 * i) 8 (wbits x.data (8 * o) 8)) else none) (some 0)

/-- Sectors with a byte that a mask of the `n` bytes at `pa` selects. -/
def maskSectors (pa n : Nat) (mask : BitVec 64) : List Nat :=
  (sectors pa n).filter (fun k => (span 0 n).any (fun i => mask.getLsbD i && (pa + i) / 48 == k))

/-- The sectors that a store writes leave the core's L1, and replies on their way to the core no longer refill them (05 R100; 06
R128). -/
def State.dropL1 (s : State) (core : Nat) (ks : List Nat) : State :=
  let s := s.upCore core (fun c => { c with l1 := c.l1.filter (fun x => !ks.contains x.sector) })
  { s with pend := s.pend.map (fun x =>
      match x.ev with
      | .loadReply r =>
        if coreOf r.who == core then
          { x with ev := .loadReply { r with lanes := r.lanes.filter (fun l => !ks.contains (l.1 * 8 / 48)) } }
        else x
      | _ => x) }

/-- Sectors of a served load as the reply carries them: doublewords by PA div 8, the bytes of the line part. -/
def State.refill (s : State) (home pa n : Nat) : List (Nat × BitVec 64) :=
  let d := s.lineVal home (lineKey pa)
  (sectors pa n).flatMap (fun k => (span (6 * k) 6).filterMap (fun w =>
    if lineKey (8 * w) == lineKey pa then some (w, BitVec.ofNat 64 (d.toNat / 2 ^ (8 * (8 * w % 192)) % 2 ^ 64)) else none))

/-- A reply refills L1 with the sectors that it carries; a core's L1 holds at most 1365 (64 KiB). -/
def State.fillL1 (s : State) (core cid seq : Nat) (lanes : List (Nat × BitVec 64)) : State :=
  let ks := (lanes.map (fun l => l.1 * 8 / 48)).eraseDups
  ks.foldl (fun s k =>
    let own := lanes.filter (fun l => l.1 * 8 / 48 == k)
    let sec : L1Sec := own.foldl (fun (x : L1Sec) l =>
      let o := l.1 * 8 % 48
      { x with mask := putBits x.mask o 8 255, data := putBits x.data (8 * o) 64 l.2.toNat })
      { sector := k, mask := 0, data := 0, seq := seq, cid := cid }
    s.upCore core (fun c => { c with l1 := (sec :: c.l1.filter (fun x => x.sector != k)).take 1365 })) s

/-! ### The hold buffer (14 R283) -/

/-- First byte that an entry for the sector of `pa` covers: the sector, cut at the page part. -/
def holdBase (pa : Nat) : Nat := max (48 * (pa / 48)) (65536 * (pa / 65536))

/-- The thread set's own held bytes among [pa, pa + n): which, and their values; later entries win. -/
def State.heldBytes (s : State) (tk pa n : Nat) : BitVec 64 × BitVec 512 :=
  ((s.core (coreOf tk)).hold.filter (fun h => h.r.who == tk)).foldl (fun x h =>
    (span 0 n).foldl (fun (x : BitVec 64 × BitVec 512) i =>
      let o := pa + i - h.r.pa
      if decide (h.r.pa ≤ pa + i) && decide (o < 48) && h.r.mask.getLsbD o then
        (putBits x.1 i 1 1, putBits x.2 (8 * i) 8 (wbits h.r.data (8 * o) 8))
      else x) x) (0, 0)

/-- Pieces of a store by sector: where a held entry for it starts, with mask and data placed in it. A VST.G takes both of
its sectors (06 R132). -/
def holdPieces (r : Req) : List Req :=
  (sectors r.pa r.len).map (fun k =>
    let b := holdBase (max r.pa (48 * k))
    let n := 48 * (k + 1) - b
    let (m, d) := (span 0 n).foldl (fun (x : BitVec 64 × BitVec 512) i =>
      let o := b + i - r.pa
      if decide (r.pa ≤ b + i) && decide (o < r.len) && r.mask.getLsbD o then
        (putBits x.1 i 1 1, putBits x.2 (8 * i) 8 (wbits r.data (8 * o) 8))
      else x) (0, 0)
    { r with pa := b, len := n, mask := m, data := d })

/-- Place of the entry into which a piece merges: the thread set's entry for the sector, after its last held ST.REL. -/
def holdSlot (l : List Held) (r : Req) : Option Nat :=
  if r.rel then none
  else
    let rel := (span 0 l.length).foldl (fun a i =>
      match l[i]? with
      | some h => if h.rel && h.r.who == r.who then i + 1 else a
      | none => a) 0
    (span rel (l.length - rel)).find? (fun i =>
      match l[i]? with
      | some h => h.r.who == r.who && h.r.pa == r.pa && h.r.home == r.home
      | none => false)

def mergeHeld (h : Held) (tie : List Nat) (r : Req) : Held :=
  let d := (span 0 48).foldl (fun d i => if r.mask.getLsbD i then putBits d (8 * i) 8 (wbits r.data (8 * i) 8) else d) h.r.data
  { h with ties := tie ++ h.ties, r := { h.r with mask := h.r.mask ||| r.mask, data := d } }

/-- What ties the entries of one store: those of a VST.G are performed as one access (06 R128). -/
def tieOf (r : Req) : List Nat := if r.len = 64 then [r.iss] else []

/-- The buffer with a store's pieces, tied by `tie`, or none when it has no room for them. -/
def holdPut (tie : List Nat) (l : List Held) : List Req → Option (List Held)
  | [] => some l
  | r :: rs =>
    match holdSlot l r with
    | some i => match l[i]? with
      | some h => holdPut tie (setAt l i (mergeHeld h tie r)) rs
      | none => none
    | none => if l.length < 64 then holdPut tie (l ++ [{ sector := r.pa / 48, rel := r.rel, ties := tie, r := r }]) rs else none

/-! ### Requests of loads and stores -/

/-- The mark of a speculative access: its channel and the generation's superstep. -/
def TSet.mark (t : TSet) : Option (Nat × Nat) := t.spec.map (fun c => (c.chan, c.gen.toNat))

/-- The extra cc of an instruction that acts on planes. -/
def TSet.extra (t : TSet) : Nat := t.dual.length

/-- A destination that waits for bytes. -/
def TSet.await (t : TSet) (d : Dst) : TSet :=
  { t with busy := dstBusy d ++ (t.renew ((dstBusy d).map (fun b => (b.cls, b.r)))).busy }

/-- A destination that has its bytes, ready at cc `due`. -/
def TSet.readyBy (t : TSet) (d : Dst) (due : Nat) : TSet := t.soon ((dstBusy d).map (fun b => (b.cls, b.r))) due

/-! ### Marks of speculative loads (14 R284) -/

/-- A mark that a load would leave stands at the slice already, or a load on its way will leave it. -/
def State.marked (s : State) (m : Mark) (home : Nat) : Bool :=
  (s.slice home).marks.contains m ||
  s.inFlight (fun e => match e with
    | .homeLoadServe r => r.home == home && lineKey r.pa == m.line && r.spec == some (m.chan, m.gen.toNat)
    | _ => false)

/-- Marks of a slice, and those that loads on their way to it will leave. -/
def State.markUse (s : State) (home : Nat) : Nat :=
  let ms := (s.slice home).marks
  let coming := s.pend.filterMap (fun x => match x.ev with
    | .homeLoadServe r => if r.home = home then
        r.spec.map (fun c => ({ line := lineKey r.pa, chan := c.1, gen := BitVec.ofNat 32 c.2 } : Mark)) else none
    | _ => none)
  ms.length + (coming.eraseDups.filter (fun m => !ms.contains m)).length

/-- Does a slice have too few free marks, of 1024, for the lines of a speculative access? -/
def State.markFull (s : State) (hs : List Hit) : Bool :=
  match s.me.mark with
  | none => false
  | some (ch, gen) =>
    let m (h : Hit) : Mark := { line := lineKey h.pa, chan := ch, gen := BitVec.ofNat 32 gen }
    let new := ((hs.filter (fun h => !s.marked (m h) h.home)).map (fun h => (h.home, lineKey h.pa))).eraseDups
    new.any (fun x => decide (1024 < s.markUse x.1 + (new.filter (fun y => y.1 == x.1)).length))

/-- Goes on with a load once its marks have room. -/
def State.marking (s : State) (hs : List Hit) (k : Out) : Out := if s.markFull hs then s.untilResolved else k

/-- One destination less that waits for a reply. -/
def TSet.arrived (t : TSet) (d : Dst) : TSet :=
  match dstBusy d with
  | [] => t
  | b :: _ => { t with busy := t.busy.erase b }

/-- Writes bytes that have come back to their destination. -/
def Arch.land (a : Arch) (d : Dst) (n : Nat) (x : BitVec 512) : Arch :=
  match d with
  | .none => a
  | .g r pl sz => a.setG pl r (loadExt sz (wbits x 0 (8 * n)))
  | .v r pl lo => a.setV pl r (putBits (a.vp pl r) (8 * lo) (8 * n) (wbits x 0 (8 * n)))

/-- Bytes of `known` where the mask has a bit, of `x` elsewhere. -/
def mixBytes (m : BitVec 64) (known x : BitVec 512) (n : Nat) : BitVec 512 :=
  (span 0 n).foldl (fun v i => if m.getLsbD i then putBits v (8 * i) 8 (wbits known (8 * i) 8) else v) x

/-- A load as its instruction states it: destination, length, qualifiers and bytes that need no memory. -/
structure LoadOp where
  len   : Nat
  fresh : Bool
  acq   : Bool
  keep  : BitVec 64 := 0
  old   : BitVec 512 := 0
  lat   : Nat := 4
  pl    : Nat := 0

/-- One load that has passed its checks (05 R99, R103; 06 R128, R132): served by L1 at once, or a request to the home
slice. -/
def State.load (s : State) (h : Hit) (dst : Dst) (o : LoadOp) : State :=
  let tk := s.cur
  let t := s.me
  let nc := h.pte.getLsbD 9
  let spec := t.specOn
  let hit := if o.fresh || o.acq || nc || isSys tk || spec then none else s.l1Read tk o.pl h.pa o.len
  match hit with
  | some x =>
    s.upMe (fun t =>
      { (t.ev 0x04).readyBy dst (s.cyc + o.lat + t.extra) with a := t.a.land dst o.len (mixBytes o.keep o.old x o.len) })
  | none =>
    let (hm, hd) := if spec then s.heldBytes tk h.pa o.len else (0, 0)
    let known := mixBytes o.keep o.old hd o.len
    let r0 := s.req tk .load h.ea h.pa h.home h.pte o.len
    let r : Req := { r0 with
      dst := dst, acq := o.acq && !spec, fill := !(o.acq || nc || isSys tk || spec), spec := t.mark
      mask := hm ||| o.keep, data := known, pl := o.pl }
    let s := s.upMe (fun t => (if o.fresh || o.acq then t else t.ev 0x05).await dst)
    s.push (.homeLoadServe r)

/-- A request marked as a release, and whether its scope is CLUSTER or wider. -/
def asRel (r : Req) (scope : Nat) : Req := { r with rel := true, own := if scope = 0 then 0 else 1 }

/-- One store of plane `pl` that has passed its checks (05 R99, R100, R103): it leaves L1, and goes to its home slice or to the
hold buffer; none when the hold buffer has no room. -/
def State.store (s : State) (h : Hit) (pl len : Nat) (mask : BitVec 64) (data : BitVec 512) (rel : Bool) : Option State :=
  let tk := s.cur
  let r0 := s.req tk .store h.ea h.pa h.home h.pte len
  let r : Req := { r0 with mask := mask, data := data, pl := pl }
  let r := if rel then asRel r 4 else r
  let s := if isSys tk then s else s.dropL1 (coreOf tk) (maskSectors h.pa len mask)
  if s.me.specOn then
    match holdPut (tieOf r) (s.core (coreOf tk)).hold (holdPieces r) with
    | none => none
    | some l => some ((s.upCore (coreOf tk) (fun c => { c with hold := l })).evt tk 0x11)
  else
    let s := if rel then s.relStep tk 4 else s
    some (s.push (.homeStoreApply r))

/-! ### Banks (05 R101; 08 R155-R164) -/

/-- The slot's bank, where accesses reach it. -/
def Slot.bank? : Slot → Option Bank
  | .attached b => some b
  | .outgoing b => some b
  | _ => none

def CC.slot (c : CC) (n : Nat) : Slot := vget c.slots n Slot.empty

/-- Bytes of the local space of a core's table. -/
def CC.locRead (c : CC) (a n : Nat) : List Byte :=
  match (c.slot (a / 65536)).bank? with
  | some b => memRead b.data (a % 65536) n
  | none => zeros n

def Slot.map (f : Bank → Bank) : Slot → Slot
  | .attached b => .attached (f b)
  | .outgoing b => .outgoing (f b)
  | x => x

/-- Local bytes written where `on` says so. -/
def CC.locWrite (c : CC) (a : Nat) (on : Nat → Bool) (bs : List Byte) : CC :=
  let w (m : List Host.Cell) : List Host.Cell :=
    (span 0 bs.length).foldl (fun m i => if on i then memSet m (a % 65536 + i) (bs.getD i 0) else m) m
  { c with slots := vset c.slots (a / 65536) ((c.slot (a / 65536)).map (fun b => { b with data := w b.data })) }

/-- Does a local range overlap an entry of the core's range scoreboard? -/
def CC.busyAt (c : CC) (a n : Nat) : Bool := c.sb.any (fun e => e.loc.any (fun r => overlap a n r.lo r.len))

/-- Why a local access of `n` bytes at `ea` does not go on: a fault of 05 R101, or a stall with the event it counts. -/
inductive LocStop where
  | flt (code : Nat) (tval : Word)
  | stall (ev : Option Nat)
  deriving DecidableEq, Repr

/-- The checks of one local address. -/
def CC.locFault (c : CC) (ea : Word) (al : Nat) : Option LocStop :=
  if !aligned ea al then some (.flt cMisalign ea)
  else if wbits ea 19 45 ≠ 0 then some (.flt cRange ea)
  else match c.slot (wbits ea 16 3) with
    | .empty => some (.flt cDetached ea)
    | .reserved => some (.flt cDetached ea)
    | _ => none

/-- What stalls an access that raises no fault: an outgoing slot, a bank not resident, an overlap with the scoreboard, a
bank in which an error stands. -/
def CC.locStall (c : CC) (ea : Word) (n : Nat) : Option LocStop :=
  match c.slot (wbits ea 16 3) with
  | .outgoing _ => some (.stall none)
  | .attached b =>
    if b.bad then some (.stall none)
    else if b.phys.isNone then some (.stall (some 0x07))
    else if c.busyAt ea.toNat n then some (.stall (some 0x08)) else none
  | _ => none

def firstSome {α β : Type} (f : α → Option β) : List α → Option β
  | [] => none
  | x :: l => match f x with | some y => some y | none => firstSome f l

/-- All checks of a local instruction come before its stalls. -/
def CC.locStop (c : CC) (al n : Nat) (eas : List Word) : Option LocStop :=
  match firstSome (fun ea => c.locFault ea al) eas with
  | some x => some x
  | none => firstSome (fun ea => c.locStall ea n) eas

def State.myCC (s : State) : CC := s.cc (ccOf s.cur)

/-- Goes on with a local instruction on a compute core whose addresses pass; `ts` are the bytes that it accesses. -/
def State.localOn (s : State) (i : Instr) (al n : Nat) (ts : List Touch) (eas : List Word) (k : Out) : Out :=
  s.notSys i (match s.myCC.locStop al n eas with
    | some (.flt f v) => .next (s.trap f v)
    | some (.stall e) => (match e with | some c => s.evt s.cur c | none => s).again
    | none => s.watched ts k)

def State.local (s : State) (i : Instr) (al n : Nat) (rd wr : Bool) (eas : List Word) (k : Out) : Out :=
  s.localOn i al n (eas.map (fun ea => { lo := ea.toNat, len := n, rd := rd, wr := wr, loc := true })) eas k

/-! ### Planes (05 R102; 06 R131) -/

/-- Offset of a plane for global and local accesses. -/
def Arch.offG (a : Arch) (p : Nat) : Word := vget a.dtoff (p - 1) 0
def Arch.offL (a : Arch) (p : Nat) : Word := vget a.dtoff (p + 1) 0

/-- The primal plane, then the planes acted on. -/
def TSet.planes (t : TSet) (on : Bool) : List Nat := 0 :: (if on then t.dual else [])

def Arch.gea (a : Arch) (ea : Word) (p : Nat) : Word := if p = 0 then ea else ea + a.offG p
def Arch.lea (a : Arch) (ea : Word) (p : Nat) : Word := if p = 0 then ea else ea + a.offL p

end Sys2Proof.Machine
end

