-- ==== Sys2Proof/Machine/Fop.lean ====
section
/-! DEFINITION. Scalar floating point (05 R92-R96) at F32 and F64, with literal forms (03 R44) and tangents. -/

namespace Sys2Proof.Machine

/-! ### Operands and results -/

def fpFmt (p : BitVec 2) : Fmt := if p = 0 then F32 else F64

/-- The operand code that a g register holds (02 R25). -/
def fpCode (p : BitVec 2) (w : Word) : Nat := if p = 0 then wbits w 0 32 else w.toNat

def Arch.fx (a : Arch) (p : BitVec 2) (pl : Nat) (r : Reg) : XR := (fpFmt p).dec (fpCode p (a.gp pl r))

/-- An operand with its code and its tangent by plane. -/
structure FArg where
  code : Nat
  val  : XR
  tan  : Nat → XR

/-- A register operand. -/
def State.farg (s : State) (p : BitVec 2) (r : Reg) : FArg :=
  { code := fpCode p (s.g r), val := s.me.a.fx p 0 r, tan := fun pl => s.me.a.fx p pl r }

/-- A literal word: FP32, at F64 widened exactly, with zero tangent (03 R44). -/
def flit (p : BitVec 2) (lit : BitVec 32) : FArg :=
  let c := if p = 0 then lit.toNat else (F64.round 0 0 (F32.dec lit.toNat)).1
  { code := c, val := (fpFmt p).dec c, tan := fun _ => .zero false }

/-- Sets g[d] in a plane to a code, upper bits zero at F32 (02 R25), and its flags. -/
def Arch.putF (a : Arch) (pl : Nat) (d : Reg) (r : Nat × Flags) : Arch :=
  let a := a.setG pl d (BitVec.ofNat 64 r.1)
  { a with fmode := orFlags a.fmode r.2 }

/-- Rounds an exact value that carries flags. -/
def rnd (f : Fmt) (rm : Nat) (x : XR × Flags) : Nat × Flags :=
  let r := f.round (if rm = 5 then 0 else rm) 0 x.1
  (r.1, x.2 ||| r.2)

/-- The primal code with its flags, then each named plane's tangent rounded once (05 R96, 15 R293). -/
def Arch.fpPut (a : Arch) (ps : List Nat) (f : Fmt) (rm : Nat) (d : Reg) (prim : Nat × Flags)
    (tan : Nat → XR × Flags) : Arch :=
  ps.foldl (fun a pl => a.putF pl d (rnd f rm (tan pl))) (a.putF 0 d prim)

/-- What a floating-point operation gives: the primal code with its flags, and the exact tangent of each plane. -/
abbrev FRes := (Nat × Flags) × (Nat → XR × Flags)

/-- A floating-point result of latency `lat`. -/
def fpRes (len lat : Nat) (p : BitVec 2) (d : Reg) (r : FRes) (s : State) : Out :=
  .next (((s.upA (fun a => a.fpPut s.me.dual (fpFmt p) s.me.rm d r.1 r.2)).doneD len).longAfter s.me lat [(0, d.toNat)])

/-- An integer result of a floating-point instruction, with flags and zero tangents. -/
def fpInt (len : Nat) (d : Reg) (w : Word) (f : Flags) (s : State) : Out :=
  .next ((((s.putInt d w).upA (fun a => { a with fmode := orFlags a.fmode f })).doneD len).longAfter s.me 2 [(0, d.toNat)])

def latP (p : BitVec 2) (l32 l64 : Nat) : Nat := if p = 0 then l32 else l64

def exact (x : XR) : XR × Flags := (x, 0)

/-- Sum, negation and quotient of exact values that carry flags. -/
def fadd2 (rm : Nat) (x y : XR × Flags) : XR × Flags :=
  let r := xadd (rm == 3) x.1 y.1
  (r.1, x.2 ||| y.2 ||| r.2)
def fneg1 (x : XR × Flags) : XR × Flags := (xneg x.1, x.2)
def fmul2 (x y : XR × Flags) : XR × Flags :=
  let r := xmul x.1 y.1
  (r.1, x.2 ||| y.2 ||| r.2)
def fdiv2 (x y : XR × Flags) : XR × Flags :=
  let r := xdiv x.1 y.1
  (r.1, x.2 ||| y.2 ||| r.2)

/-! ### The operations, shared by scalar and vector forms (05 R92, R93, R96; 06 R117, R122) -/

def foAdd (f : Fmt) (rm : Nat) (a b _d : FArg) : FRes :=
  (rnd f rm (xadd (rm == 3) a.val b.val), fun i => xadd (rm == 3) (a.tan i) (b.tan i))

def foSub (f : Fmt) (rm : Nat) (a b _d : FArg) : FRes :=
  (rnd f rm (xsub (rm == 3) a.val b.val), fun i => xsub (rm == 3) (a.tan i) (b.tan i))

/-- da · b + a · db. -/
def mulTan (rm : Nat) (a b : FArg) (i : Nat) : XR × Flags := fadd2 rm (xmul (a.tan i) b.val) (xmul a.val (b.tan i))

def foMul (f : Fmt) (rm : Nat) (a b _d : FArg) : FRes := (rnd f rm (xmul a.val b.val), mulTan rm a b)

def foDiv (f : Fmt) (rm : Nat) (a b _d : FArg) : FRes :=
  let prim := rnd f rm (xdiv a.val b.val)
  (prim, fun i => fdiv2 (fadd2 rm (exact (a.tan i)) (fneg1 (xmul (f.dec prim.1) (b.tan i)))) (exact b.val))

def foMinmax (mx : Bool) (f : Fmt) (_rm : Nat) (a b _d : FArg) : FRes :=
  let r := f.minmax mx a.code b.code
  ((r.1, 0), fun i => exact (if r.2 = 1 then a.tan i else if r.2 = 2 then b.tan i else .zero false))

/-- FSGNJ and its kin: the magnitude of a under sign bit `sg`. -/
def foSgn (sg : Bool → Bool → Bool) (f : Fmt) (_rm : Nat) (a b _d : FArg) : FRes :=
  let top := f.eb + f.mb
  let sa := decide (a.code / 2 ^ top % 2 = 1)
  let r := sg sa (decide (b.code / 2 ^ top % 2 = 1))
  ((f.signed r (a.code % 2 ^ top), 0), fun i => exact (if r = sa then a.tan i else xneg (a.tan i)))

/-- The fused forms: `neg` negates the sum, `sub` subtracts d. -/
def foFma (neg sub : Bool) (f : Fmt) (rm : Nat) (a b d : FArg) : FRes :=
  let sg (x : XR) : XR := if sub then xneg x else x
  let ng (x : XR × Flags) : XR × Flags := if neg then fneg1 x else x
  (rnd f rm (ng (fadd2 rm (xmul a.val b.val) (exact (sg d.val)))),
   fun i => ng (fadd2 rm (mulTan rm a b i) (exact (sg (d.tan i)))))

def foSqrt (f : Fmt) (rm : Nat) (a _b _d : FArg) : FRes :=
  let prim := rnd f rm (xsqrt a.val)
  (prim, fun i => fdiv2 (exact (a.tan i)) (xmul (.fin false 2 1 0) (f.dec prim.1)))

/-- A scalar operation on a register and a second operand, with latencies at F32 and F64. -/
def fpOp (fo : Fmt → Nat → FArg → FArg → FArg → FRes) (len l32 l64 : Nat) (p : BitVec 2) (d a : Reg) (b : FArg)
    (s : State) : Out :=
  fpRes len (latP p l32 l64) p d (fo (fpFmt p) s.me.rm (s.farg p a) b (s.farg p d)) s

def ordNv (a b : FArg) : Flags := if a.val.isNan || b.val.isNan then fNV else 0

def fpFeq (len : Nat) (p : BitVec 2) (d a : Reg) (b : FArg) (s : State) : Out :=
  fpInt len d (boolW (xeq (s.farg p a).val b.val)) 0 s
def fpFlt (len : Nat) (p : BitVec 2) (d a : Reg) (b : FArg) (s : State) : Out :=
  fpInt len d (boolW (xlt (s.farg p a).val b.val)) (ordNv (s.farg p a) b) s
def fpFle (len : Nat) (p : BitVec 2) (d a : Reg) (b : FArg) (s : State) : Out :=
  fpInt len d (boolW (xlt (s.farg p a).val b.val || xeq (s.farg p a).val b.val)) (ordNv (s.farg p a) b) s

/-- The class word (05 R94). -/
def classWord (f : Fmt) (c : Nat) : Word :=
  let x := f.dec c
  let kind := match x with
    | .nan => 4
    | .inf _ => 3
    | .zero _ => 0
    | .fin _ _ _ _ => if c / 2 ^ f.mb % 2 ^ f.eb = 0 then 1 else 2
  let neg := c / 2 ^ (f.eb + f.mb) % 2
  let io := xIntOdd x
  BitVec.ofNat 64 (kind + 8 * neg + (if io.1 then 16 else 0) + (if io.2 then 32 else 0))

/-- Float to integer of the precision's width (05 R95). -/
def toInt (p : BitVec 2) (sgn : Bool) (mode : Nat) (x : XR) : Word × Flags :=
  let w := if p = 0 then 32 else 64
  let r := if sgn then xToInt mode (-(2 ^ (w - 1))) (2 ^ (w - 1) - 1) x else xToInt mode 0 (2 ^ w - 1) x
  (BitVec.ofInt 64 r.1, r.2)

/-- Integer operand of the precision's width. -/
def fromInt (p : BitVec 2) (sgn : Bool) (w : Word) : Int :=
  if p = 0 then (if sgn then (w.setWidth 32).toInt else ((w.setWidth 32).toNat : Int))
  else (if sgn then w.toInt else (w.toNat : Int))

def fpFromInt (p : BitVec 2) (d : Reg) (x : Int) (s : State) : Out :=
  fpRes 4 2 p d (rnd (fpFmt p) s.me.rm (xint x 0, 0), fun _ => (.zero false, 0)) s

/-! ### The instructions -/

def execFadd (d a b : Reg) (p : BitVec 2) (s : State) : Out := fpOp foAdd 4 4 6 p d a (s.farg p b) s
def execFsub (d a b : Reg) (p : BitVec 2) (s : State) : Out := fpOp foSub 4 4 6 p d a (s.farg p b) s
def execFmul (d a b : Reg) (p : BitVec 2) (s : State) : Out := fpOp foMul 4 4 6 p d a (s.farg p b) s
def execFdiv (d a b : Reg) (p : BitVec 2) (s : State) : Out := fpOp foDiv 4 12 20 p d a (s.farg p b) s
def execFmin (d a b : Reg) (p : BitVec 2) (s : State) : Out := fpOp (foMinmax false) 4 2 2 p d a (s.farg p b) s
def execFmax (d a b : Reg) (p : BitVec 2) (s : State) : Out := fpOp (foMinmax true) 4 2 2 p d a (s.farg p b) s
def execFsgnj (d a b : Reg) (p : BitVec 2) (s : State) : Out := fpOp (foSgn (fun _ b => b)) 4 2 2 p d a (s.farg p b) s
def execFsgnjn (d a b : Reg) (p : BitVec 2) (s : State) : Out := fpOp (foSgn (fun _ b => !b)) 4 2 2 p d a (s.farg p b) s
def execFsgnjx (d a b : Reg) (p : BitVec 2) (s : State) : Out := fpOp (foSgn (fun a b => a != b)) 4 2 2 p d a (s.farg p b) s
def execFeq (d a b : Reg) (p : BitVec 2) (s : State) : Out := fpFeq 4 p d a (s.farg p b) s
def execFlt (d a b : Reg) (p : BitVec 2) (s : State) : Out := fpFlt 4 p d a (s.farg p b) s
def execFle (d a b : Reg) (p : BitVec 2) (s : State) : Out := fpFle 4 p d a (s.farg p b) s
def execFmadd (d a b : Reg) (p : BitVec 2) (s : State) : Out := fpOp (foFma false false) 4 4 6 p d a (s.farg p b) s
def execFmsub (d a b : Reg) (p : BitVec 2) (s : State) : Out := fpOp (foFma false true) 4 4 6 p d a (s.farg p b) s
def execFnmadd (d a b : Reg) (p : BitVec 2) (s : State) : Out := fpOp (foFma true false) 4 4 6 p d a (s.farg p b) s

def execFsqrt (d a : Reg) (p : BitVec 2) (s : State) : Out := fpOp foSqrt 4 12 22 p d a (s.farg p a) s

def execFclass (d a : Reg) (p : BitVec 2) (s : State) : Out := fpInt 4 d (classWord (fpFmt p) (s.farg p a).code) 0 s

def execFcvtS (d a : Reg) (p : BitVec 2) (s : State) : Out :=
  let r := toInt p true s.me.rm (s.farg p a).val
  fpInt 4 d r.1 r.2 s
def execFcvtZ (d a : Reg) (p : BitVec 2) (s : State) : Out :=
  let r := toInt p false s.me.rm (s.farg p a).val
  fpInt 4 d r.1 r.2 s
def execFcvtSt (d a : Reg) (p : BitVec 2) (s : State) : Out :=
  let r := toInt p true 2 (s.farg p a).val
  fpInt 4 d r.1 r.2 s
def execFcvtfS (d a : Reg) (p : BitVec 2) (s : State) : Out := fpFromInt p d (fromInt p true (s.g a)) s
def execFcvtfZ (d a : Reg) (p : BitVec 2) (s : State) : Out := fpFromInt p d (fromInt p false (s.g a)) s

/-- FCVTP: from the other precision to the named one; the tangent likewise. -/
def execFcvtp (d a : Reg) (p : BitVec 2) (s : State) : Out :=
  let o : BitVec 2 := if p = 0 then 1 else 0
  fpRes 4 2 p d (rnd (fpFmt p) s.me.rm (s.me.a.fx o 0 a, 0), fun i => (s.me.a.fx o i a, 0)) s

/-! ### Literal forms -/

def execFaddLit (d a : Reg) (p : BitVec 2) (lit : BitVec 32) (s : State) : Out := fpOp foAdd 8 4 6 p d a (flit p lit) s
def execFsubLit (d a : Reg) (p : BitVec 2) (lit : BitVec 32) (s : State) : Out := fpOp foSub 8 4 6 p d a (flit p lit) s
def execFmulLit (d a : Reg) (p : BitVec 2) (lit : BitVec 32) (s : State) : Out := fpOp foMul 8 4 6 p d a (flit p lit) s
def execFdivLit (d a : Reg) (p : BitVec 2) (lit : BitVec 32) (s : State) : Out := fpOp foDiv 8 12 20 p d a (flit p lit) s
def execFminLit (d a : Reg) (p : BitVec 2) (lit : BitVec 32) (s : State) : Out := fpOp (foMinmax false) 8 2 2 p d a (flit p lit) s
def execFmaxLit (d a : Reg) (p : BitVec 2) (lit : BitVec 32) (s : State) : Out := fpOp (foMinmax true) 8 2 2 p d a (flit p lit) s
def execFsgnjLit (d a : Reg) (p : BitVec 2) (lit : BitVec 32) (s : State) : Out := fpOp (foSgn (fun _ b => b)) 8 2 2 p d a (flit p lit) s
def execFsgnjnLit (d a : Reg) (p : BitVec 2) (lit : BitVec 32) (s : State) : Out := fpOp (foSgn (fun _ b => !b)) 8 2 2 p d a (flit p lit) s
def execFsgnjxLit (d a : Reg) (p : BitVec 2) (lit : BitVec 32) (s : State) : Out := fpOp (foSgn (fun a b => a != b)) 8 2 2 p d a (flit p lit) s
def execFeqLit (d a : Reg) (p : BitVec 2) (lit : BitVec 32) (s : State) : Out := fpFeq 8 p d a (flit p lit) s
def execFltLit (d a : Reg) (p : BitVec 2) (lit : BitVec 32) (s : State) : Out := fpFlt 8 p d a (flit p lit) s
def execFleLit (d a : Reg) (p : BitVec 2) (lit : BitVec 32) (s : State) : Out := fpFle 8 p d a (flit p lit) s
def execFmaddLit (d a : Reg) (p : BitVec 2) (lit : BitVec 32) (s : State) : Out := fpOp (foFma false false) 8 4 6 p d a (flit p lit) s
def execFmsubLit (d a : Reg) (p : BitVec 2) (lit : BitVec 32) (s : State) : Out := fpOp (foFma false true) 8 4 6 p d a (flit p lit) s
def execFnmaddLit (d a : Reg) (p : BitVec 2) (lit : BitVec 32) (s : State) : Out := fpOp (foFma true false) 8 4 6 p d a (flit p lit) s

end Sys2Proof.Machine
end

