-- ==== Sys2Proof/Machine/Vector.lean ====
section
/-! DEFINITION. Vector arithmetic, conversions, permutes, reductions and masks (06 R113-R126, R133-R135). -/

namespace Sys2Proof.Machine

/-! ### Lanes -/

/-- Active lanes of a mask among `n`. -/
def active (m : Word) (n : Nat) : List Nat := (span 0 n).filter (fun i => m.getLsbD i)

/-- Lane `i` of v[r] as an operand of float type `f`. -/
def Arch.larg (a : Arch) (f : Fmt) (r : Reg) (i : Nat) : FArg :=
  let c := lane (a.vp 0 r) f.w i
  { code := c, val := f.dec c, tan := fun pl => f.dec (lane (a.vp pl r) f.w i) }

/-- g[r] broadcast as an operand of float type `f` (06 R113). -/
def Arch.garg (a : Arch) (f : Fmt) (r : Reg) : FArg :=
  let c := wbits (a.gp 0 r) 0 f.w
  { code := c, val := f.dec c, tan := fun pl => f.dec (wbits (a.gp pl r) 0 f.w) }

/-- Writes lanes of v[d] in a plane and ORs their flags. -/
def Arch.putLanes (a : Arch) (pl : Nat) (d : Reg) (w : Nat) (on : List Nat) (f : Nat → Nat × Flags) : Arch :=
  let r := on.foldl (fun (x : VWord × Flags) i => (setLane x.1 w i (f i).1, x.2 ||| (f i).2)) (a.vp pl d, 0)
  let a := a.setV pl d r.1
  { a with fmode := orFlags a.fmode r.2 }

/-- Primal lanes, then the lanes of each named plane. -/
def Arch.vecPut (a : Arch) (ps : List Nat) (d : Reg) (w : Nat) (on : List Nat) (f : Nat → Nat × Flags)
    (tan : Nat → Nat → Nat × Flags) : Arch :=
  ps.foldl (fun a pl => a.putLanes pl d w on (tan pl)) (a.putLanes 0 d w on f)

/-- The core's vector unit is taken for the issue cc and one more per plane (06 R114). -/
def State.useVec (s : State) (n : Nat) : State :=
  s.upCore (coreOf s.cur) (fun c => { c with vecAt := s.cyc + 1 + n })

/-- The transcendental unit accepts one instruction every 4 cc. -/
def State.useTrn (s : State) : State := s.upCore (coreOf s.cur) (fun c => { c with trnAt := s.cyc + 4 })

/-- Completes a vector instruction whose result register is of class `cls` (0 g, 1 v, 2 m). -/
def vecDone (lat cls r : Nat) (f : Arch → Arch) (s : State) : Out :=
  .next ((((s.upA f).doneD 4).longAfter s.me lat [(cls, r)]).useVec s.me.dual.length)

/-! ### VOP arithmetic -/

/-- Float lanes: an operation of Fop per active lane. -/
def vopF (fo : Fmt → Nat → FArg → FArg → FArg → FRes) (a0 : Arch) (ps : List Nat) (rm : Nat) (d a : Reg)
    (b : Nat → FArg) (m : BitVec 3) (t : Nat) (a1 : Arch) : Arch :=
  let f := tFmt t
  let r (i : Nat) : FRes := fo f rm (a0.larg f a i) (b i) (a0.larg f d i)
  a1.vecPut ps d f.w (active (a0.mp m) (tLanes t)) (fun i => (r i).1) (fun pl i => rnd f rm ((r i).2 pl))

/-- Integer lanes: codes of a and b, planes zero. -/
def vopI (io : Nat → Nat → Nat → Nat) (a0 : Arch) (ps : List Nat) (d a : Reg) (b : Nat → Nat) (m : BitVec 3) (t : Nat)
    (a1 : Arch) : Arch :=
  let w := tWidth t
  a1.vecPut ps d w (active (a0.mp m) (tLanes t)) (fun i => (io t (lane (a0.vp 0 a) w i) (b i) % 2 ^ w, 0))
    (fun _ _ => (0, 0))

/-- A VOP with a vector operand b: a float and an integer operation, and their latencies. -/
def vop (fo : Fmt → Nat → FArg → FArg → FArg → FRes) (io : Nat → Nat → Nat → Nat) (lf li : Nat) (d a b : Reg)
    (m t : BitVec 3) (s : State) : Out :=
  let a0 := s.me.a
  let t := t.toNat
  if t < 3 then vecDone lf 1 d.toNat (vopF fo a0 s.me.dual s.me.rm d a (a0.larg (tFmt t) b) m t) s
  else vecDone li 1 d.toNat (vopI io a0 s.me.dual d a (fun i => lane (a0.vp 0 b) (tWidth t) i) m t) s

/-- A G form. -/
def vopG (fo : Fmt → Nat → FArg → FArg → FArg → FRes) (io : Nat → Nat → Nat → Nat) (lf li : Nat) (d a b : Reg)
    (m t : BitVec 3) (s : State) : Out :=
  let a0 := s.me.a
  let t := t.toNat
  if t < 3 then vecDone lf 1 d.toNat (vopF fo a0 s.me.dual s.me.rm d a (fun _ => a0.garg (tFmt t) b) m t) s
  else vecDone li 1 d.toNat (vopI io a0 s.me.dual d a (fun _ => wbits (a0.gp 0 b) 0 (tWidth t)) m t) s

def ioAdd (_t x y : Nat) : Nat := x + y
def ioSub (t x y : Nat) : Nat := x + 2 ^ tWidth t - y
def ioMul (_t x y : Nat) : Nat := x * y
def ioMin (t x y : Nat) : Nat := if tInt t y < tInt t x then y else x
def ioMax (t x y : Nat) : Nat := if tInt t x < tInt t y then y else x
def ioAnd (_t x y : Nat) : Nat := x &&& y
def ioOr (_t x y : Nat) : Nat := x ||| y
def ioXor (_t x y : Nat) : Nat := x ^^^ y
def ioShl (t x y : Nat) : Nat := x * 2 ^ (y % tWidth t)
def ioShr (t x y : Nat) : Nat :=
  let w := tWidth t
  if tSigned t then ((tInt t x / 2 ^ (y % w)) % 2 ^ w).toNat else x / 2 ^ (y % w)
def ioNeg (t x _y : Nat) : Nat := 2 ^ tWidth t - x
def ioAbs (t x _y : Nat) : Nat := (tInt t x).natAbs

/-- VABS and VNEG: the sign bit alone changes, no flag. -/
def foAbs (f : Fmt) (_rm : Nat) (a _b _d : FArg) : FRes :=
  let neg := decide (a.code / 2 ^ (f.eb + f.mb) % 2 = 1)
  ((a.code % 2 ^ (f.eb + f.mb), 0), fun i => exact (if neg then xneg (a.tan i) else a.tan i))
def foNeg (f : Fmt) (_rm : Nat) (a _b _d : FArg) : FRes :=
  let neg := decide (a.code / 2 ^ (f.eb + f.mb) % 2 = 1)
  ((f.signed (!neg) (a.code % 2 ^ (f.eb + f.mb)), 0), fun i => exact (xneg (a.tan i)))

/-- VRCP: 1/a; tangent −q·q·da. -/
def foRcp (f : Fmt) (rm : Nat) (a _b _d : FArg) : FRes :=
  let prim := rnd f rm (xdiv (.fin false 1 1 0) a.val)
  let q := exact (f.dec prim.1)
  (prim, fun i => fneg1 (fmul2 (fmul2 q q) (exact (a.tan i))))

/-- VRSQ: 1/√a; tangent −q·q·q·da/2. -/
def foRsq (f : Fmt) (rm : Nat) (a _b _d : FArg) : FRes :=
  let x : XR × Flags := match a.val with
    | .zero n => (.inf n, fDZ)
    | .inf false => (.zero false, 0)
    | .fin false x y e => xsqrt (.fin false y x (-e))
    | .nan => (.nan, 0)
    | _ => (.nan, fNV)
  let prim := rnd f rm x
  let q := exact (f.dec prim.1)
  (prim, fun i => fmul2 (fneg1 (fmul2 (fmul2 (fmul2 q q) q) (exact (a.tan i)))) (exact (.fin false 1 2 0)))

/-- VEXP2: tangent q·ln 2·da. -/
def foExp2 (f : Fmt) (rm : Nat) (a _b _d : FArg) : FRes :=
  let prim := rnd f rm (xexp2 a.val, 0)
  (prim, fun i => let p := xmul (f.dec prim.1) (a.tan i); (xmulLn2 p.1, p.2))

/-- VLOG2: tangent da/(a·ln 2). -/
def foLog2 (f : Fmt) (rm : Nat) (a _b _d : FArg) : FRes :=
  (rnd f rm (xlog2 a.val), fun i => xdiv (a.tan i) (xmulLn2 a.val))

def execVadd (d a b : Reg) (m t : BitVec 3) (s : State) : Out := vop foAdd ioAdd 4 2 d a b m t s
def execVsub (d a b : Reg) (m t : BitVec 3) (s : State) : Out := vop foSub ioSub 4 2 d a b m t s
def execVmul (d a b : Reg) (m t : BitVec 3) (s : State) : Out := vop foMul ioMul 4 3 d a b m t s
def execVfma (d a b : Reg) (m t : BitVec 3) (s : State) : Out := vop (foFma false false) ioAdd 4 4 d a b m t s
def execVfms (d a b : Reg) (m t : BitVec 3) (s : State) : Out := vop (foFma false true) ioAdd 4 4 d a b m t s
def execVmin (d a b : Reg) (m t : BitVec 3) (s : State) : Out := vop (foMinmax false) ioMin 4 2 d a b m t s
def execVmax (d a b : Reg) (m t : BitVec 3) (s : State) : Out := vop (foMinmax true) ioMax 4 2 d a b m t s
def execVand (d a b : Reg) (m t : BitVec 3) (s : State) : Out := vop foAdd ioAnd 2 2 d a b m t s
def execVor (d a b : Reg) (m t : BitVec 3) (s : State) : Out := vop foAdd ioOr 2 2 d a b m t s
def execVxor (d a b : Reg) (m t : BitVec 3) (s : State) : Out := vop foAdd ioXor 2 2 d a b m t s
def execVshl (d a b : Reg) (m t : BitVec 3) (s : State) : Out := vop foAdd ioShl 2 2 d a b m t s
def execVshr (d a b : Reg) (m t : BitVec 3) (s : State) : Out := vop foAdd ioShr 2 2 d a b m t s
def execVabs (d a : Reg) (m t : BitVec 3) (s : State) : Out := vop foAbs ioAbs 2 2 d a a m t s
def execVneg (d a : Reg) (m t : BitVec 3) (s : State) : Out := vop foNeg ioNeg 2 2 d a a m t s
def execVaddg (d a b : Reg) (m t : BitVec 3) (s : State) : Out := vopG foAdd ioAdd 4 2 d a b m t s
def execVmulg (d a b : Reg) (m t : BitVec 3) (s : State) : Out := vopG foMul ioMul 4 3 d a b m t s
def execVfmag (d a b : Reg) (m t : BitVec 3) (s : State) : Out := vopG (foFma false false) ioAdd 4 4 d a b m t s
def execVming (d a b : Reg) (m t : BitVec 3) (s : State) : Out := vopG (foMinmax false) ioMin 4 2 d a b m t s
def execVmaxg (d a b : Reg) (m t : BitVec 3) (s : State) : Out := vopG (foMinmax true) ioMax 4 2 d a b m t s

/-- An instruction of the transcendental unit. -/
def vtrn (fo : Fmt → Nat → FArg → FArg → FArg → FRes) (lat : Nat) (d a b : Reg) (m t : BitVec 3) (s : State) : Out :=
  vop fo ioAdd lat lat d a b m t s.useTrn

def execVrcp (d a : Reg) (m t : BitVec 3) (s : State) : Out := vtrn foRcp 10 d a a m t s
def execVrsq (d a : Reg) (m t : BitVec 3) (s : State) : Out := vtrn foRsq 10 d a a m t s
def execVexp2 (d a : Reg) (m t : BitVec 3) (s : State) : Out := vtrn foExp2 10 d a a m t s
def execVlog2 (d a : Reg) (m t : BitVec 3) (s : State) : Out := vtrn foLog2 10 d a a m t s
def execVsqrt (d a : Reg) (m t : BitVec 3) (s : State) : Out := vtrn foSqrt 14 d a a m t s
def execVdiv (d a b : Reg) (m t : BitVec 3) (s : State) : Out := vtrn foDiv 14 d a b m t s

/-! ### Compares (06 R120) -/

/-- Writes a mask of the governed lanes whose comparison holds; every other bit becomes 0. -/
def vcmp (fc : XR → XR → Bool) (ic : Int → Int → Bool) (ord : Bool) (d : BitVec 3) (a b : Reg) (m t : BitVec 3)
    (s : State) : Out :=
  let a0 := s.me.a
  let t := t.toNat
  let w := tWidth t
  let on := active (a0.mp m) (tLanes t)
  let ca (i : Nat) := lane (a0.vp 0 a) w i
  let cb (i : Nat) := lane (a0.vp 0 b) w i
  let holds (i : Nat) : Bool :=
    if t < 3 then fc ((tFmt t).dec (ca i)) ((tFmt t).dec (cb i)) else ic (tInt t (ca i)) (tInt t (cb i))
  let nv : Bool := ord && decide (t < 3) &&
    on.any (fun i => ((tFmt t).dec (ca i)).isNan || ((tFmt t).dec (cb i)).isNan)
  let r := BitVec.ofNat 64 (on.foldl (fun x i => if holds i then x + 2 ^ i else x) 0)
  vecDone 2 2 d.toNat (fun a => { a.setM d r with fmode := orFlags a.fmode (if nv then fNV else 0) }) s

def execVceq (d : BitVec 3) (a b : Reg) (m t : BitVec 3) (s : State) : Out := vcmp xeq (fun x y => x == y) false d a b m t s
def execVclt (d : BitVec 3) (a b : Reg) (m t : BitVec 3) (s : State) : Out :=
  vcmp xlt (fun x y => decide (x < y)) true d a b m t s
def execVcle (d : BitVec 3) (a b : Reg) (m t : BitVec 3) (s : State) : Out :=
  vcmp (fun x y => xlt x y || xeq x y) (fun x y => decide (x ≤ y)) true d a b m t s

/-! ### Moves (06 R121, R122) -/

/-- A lane of a tangent plane as a move carries it: a float tangent is rounded, so that a NaN becomes canonical (15 R293), and
an integer type's is zero. -/
def tanMove (t c : Nat) : Nat := if t < 3 then ((tFmt t).round 0 0 ((tFmt t).dec c)).1 else 0

/-- Moves lanes of one plane each; planes of integer types become zero. -/
def vmove (d : Reg) (t : Nat) (on : List Nat) (src : Nat → Nat → Nat) (s : State) : Out :=
  let w := tWidth t
  vecDone 2 1 d.toNat (fun a => a.vecPut s.me.dual d w on (fun i => (src 0 i, 0))
    (fun pl i => (tanMove t (src pl i), 0))) s

def execVsel (d a b : Reg) (m t : BitVec 3) (s : State) : Out :=
  let a0 := s.me.a
  let w := tWidth t.toNat
  vmove d t.toNat (span 0 (tLanes t.toNat))
    (fun pl i => lane (a0.vp pl (if (a0.mp m).getLsbD i then a else b)) w i) s

def execVmovg (d b : Reg) (m t : BitVec 3) (s : State) : Out :=
  let a0 := s.me.a
  vmove d t.toNat (active (a0.mp m) (tLanes t.toNat)) (fun pl _ => wbits (a0.gp pl b) 0 (tWidth t.toNat)) s

def execVins (d a b : Reg) (t : BitVec 3) (s : State) : Out :=
  let a0 := s.me.a
  vmove d t.toNat [(a0.gp 0 b).toNat % tLanes t.toNat] (fun pl _ => wbits (a0.gp pl a) 0 (tWidth t.toNat)) s

def execVext (d a b : Reg) (t : BitVec 3) (s : State) : Out :=
  let a0 := s.me.a
  let t := t.toNat
  let j := (a0.gp 0 b).toNat % tLanes t
  let x (pl : Nat) := lane (a0.vp pl a) (tWidth t) j
  let prim : Word := if tSigned t then BitVec.ofInt 64 (tInt t (x 0)) else BitVec.ofNat 64 (x 0)
  vecDone 2 0 d.toNat (fun a => s.me.dual.foldl (fun a pl => a.setG pl d (BitVec.ofNat 64 (tanMove t (x pl))))
    (a.setG 0 d prim)) s

/-! ### Conversions (06 R123-R126) -/

/-- Narrowing: 16 lanes of va of width `wi` into part `q` of vd, with lanes of width `wo`. `conv` gives code and flags of
a source code under a mode and a draw. -/
def vnarrow (wo : Nat) (conv : Nat → Nat → Nat → Nat × Flags) (zeroTan draws : Bool) (d a : Reg) (q : Nat) (m : BitVec 3)
    (s : State) : Out :=
  let a0 := s.me.a
  let rm := s.me.rm
  let on := active (a0.mp m) 16
  let step (acc : Arch) (i : Nat) : Arch :=
    let (r, sd) := if draws && rm == 5 then srDraw acc.srseed else (0, acc.srseed)
    let c := conv rm r (lane (a0.vp 0 a) 32 i)
    { acc.setV 0 d (setLane (acc.vp 0 d) wo (16 * q + i) c.1) with fmode := orFlags acc.fmode c.2, srseed := sd }
  let tan (acc : Arch) (pl : Nat) : Arch := on.foldl (fun acc i =>
    let c : Nat × Flags := if zeroTan then (0, 0) else conv (if rm = 5 then 0 else rm) 0 (lane (a0.vp pl a) 32 i)
    { acc.setV pl d (setLane (acc.vp pl d) wo (16 * q + i) c.1) with fmode := orFlags acc.fmode c.2 }) acc
  vecDone 3 1 d.toNat (fun a1 => s.me.dual.foldl tan (on.foldl step a1)) s

/-- Widening, or a conversion of the same width: lanes of va of width `wi` from part `q` on into the 16 lanes of vd. -/
def vwiden (wi : Nat) (conv : Nat → Nat × Flags) (zeroTan : Bool) (d a : Reg) (q : Nat) (m : BitVec 3) (s : State) : Out :=
  let a0 := s.me.a
  let src (pl i : Nat) := lane (a0.vp pl a) wi (16 * q + i)
  vecDone 3 1 d.toNat (fun a1 => a1.vecPut s.me.dual d 32 (active (a0.mp m) 16) (fun i => conv (src 0 i))
    (fun pl i => if zeroTan then (0, 0) else conv (src pl i))) s

def narrowF (f : Fmt) (rm r c : Nat) : Nat × Flags := f.round rm r (F32.dec c)
def widenF (f : Fmt) (c : Nat) : Nat × Flags := F32.round 0 0 (f.dec c)

def execVcvtBf16F32 (d a : Reg) (h : BitVec 1) (m : BitVec 3) (s : State) : Out :=
  vnarrow 16 (narrowF BF16) false true d a h.toNat m s
def execVcvtF32Bf16 (d a : Reg) (h : BitVec 1) (m : BitVec 3) (s : State) : Out := vwiden 16 (widenF BF16) false d a h.toNat m s
def execVcvtF16F32 (d a : Reg) (h : BitVec 1) (m : BitVec 3) (s : State) : Out :=
  vnarrow 16 (narrowF F16) false true d a h.toNat m s
def execVcvtF32F16 (d a : Reg) (h : BitVec 1) (m : BitVec 3) (s : State) : Out := vwiden 16 (widenF F16) false d a h.toNat m s
def execVcvtE4m3F32 (d a : Reg) (q : BitVec 2) (m : BitVec 3) (s : State) : Out :=
  vnarrow 8 (narrowF (E4M3 (s.nxm s.cur))) false true d a q.toNat m s
def execVcvtF32E4m3 (d a : Reg) (q : BitVec 2) (m : BitVec 3) (s : State) : Out :=
  vwiden 8 (widenF (E4M3 (s.nxm s.cur))) false d a q.toNat m s
def execVcvtE5m2F32 (d a : Reg) (q : BitVec 2) (m : BitVec 3) (s : State) : Out :=
  vnarrow 8 (narrowF (E5M2 (s.nxm s.cur))) false true d a q.toNat m s
def execVcvtF32E5m2 (d a : Reg) (q : BitVec 2) (m : BitVec 3) (s : State) : Out :=
  vwiden 8 (widenF (E5M2 (s.nxm s.cur))) false d a q.toNat m s

def execVcvtS32F32 (d a : Reg) (m : BitVec 3) (s : State) : Out :=
  vwiden 32 (fun c => let r := xToInt s.me.rm (-(2 ^ 31)) (2 ^ 31 - 1) (F32.dec c); ((r.1 % 2 ^ 32).toNat, r.2)) true d a 0 m s
def execVcvtF32S32 (d a : Reg) (m : BitVec 3) (s : State) : Out :=
  vwiden 32 (fun c => rnd F32 s.me.rm (xint (tInt 3 c) 0, 0)) true d a 0 m s

/-- sat(x, S8) as a byte. -/
def satS8 (_rm _r c : Nat) : Nat × Flags := (((max (-128) (min 127 (tInt 3 c))) % 256).toNat, 0)
def execVcvtS8S32 (d a : Reg) (q : BitVec 2) (m : BitVec 3) (s : State) : Out :=
  vnarrow 8 satS8 true false d a q.toNat m s

/-- A BFP-k block in a v register (06 R125). -/
def bfpPack (k e : Nat) (ms : List Nat) : VWord :=
  BitVec.ofNat 512 (ms.foldr (fun m acc => m + 2 ^ k * acc) 0 + 2 ^ 256 * e)

def execBfpenc (d a : Reg) (m k : BitVec 3) (s : State) : Out :=
  let a0 := s.me.a
  let rm := s.me.rm
  let kk := k.toNat + 2
  let enc (mode pl : Nat) (seed : Word) := bfpEnc (s.nxm s.cur) kk mode seed
    ((span 0 32).map (fun i => (lane (a0.vp pl a) 16 i, (a0.mp m).getLsbD i)))
  let one (acc : Arch) (pl mode : Nat) : Arch :=
    let (e, ms, fl, sd) := enc mode pl acc.srseed
    { acc.setV pl d (bfpPack kk e ms) with fmode := orFlags acc.fmode fl, srseed := sd }
  vecDone 4 1 d.toNat (fun a1 => s.me.dual.foldl (fun acc pl => one acc pl (if rm = 5 then 0 else rm)) (one a1 0 rm)) s

/-- BFPDEC: in stochastic mode each active primal lane draws once, an exact result too (04 R78, 06 R124). -/
def execBfpdec (d a : Reg) (m k : BitVec 3) (s : State) : Out :=
  let a0 := s.me.a
  let rm := s.me.rm
  let kk := k.toNat + 2
  let on := active (a0.mp m) 32
  let val (pl mode r i : Nat) : Nat × Flags :=
    let x := (a0.vp pl a).toNat
    BF16.round mode r (bfpVal (s.nxm s.cur) kk (bits x (kk * i) kk) (bits x 256 8))
  let step (acc : Arch) (i : Nat) : Arch :=
    let (r, sd) := if rm == 5 then srDraw acc.srseed else (0, acc.srseed)
    { acc.putLanes 0 d 16 [i] (val 0 rm r) with srseed := sd }
  vecDone 4 1 d.toNat (fun a1 => s.me.dual.foldl (fun a pl => a.putLanes pl d 16 on (val pl (if rm = 5 then 0 else rm) 0))
    (on.foldl step a1)) s

/-! ### Permutes and reductions (06 R133, R134) -/

def execVperm (d a b : Reg) (m t : BitVec 3) (s : State) : Out :=
  let a0 := s.me.a
  let t := t.toNat
  let w := tWidth t
  let src (pl i : Nat) := lane (a0.vp pl a) w (lane (a0.vp 0 b) w i % tLanes t)
  vecDone 3 1 d.toNat (fun a1 => a1.vecPut s.me.dual d w (active (a0.mp m) (tLanes t)) (fun i => (src 0 i, 0))
    (fun pl i => (tanMove t (src pl i), 0))) s

/-- Exact sum of floats (06 R134): ±∞ of both signs is invalid even beside a NaN. -/
def sumF (rm : Nat) (xs : List XR) : XR × Flags :=
  if xs.any (fun x => x == .inf true) && xs.any (fun x => x == .inf false) then (.nan, fNV)
  else match xs with
    | [] => (.zero false, 0)
    | x :: xs => xs.foldl (fun acc y => fadd2 rm acc (exact y)) (exact x)

def execVredsum (d a : Reg) (m t : BitVec 3) (s : State) : Out :=
  let a0 := s.me.a
  let t := t.toNat
  let w := tWidth t
  let rm := s.me.rm
  let on := active (a0.mp m) (tLanes t)
  if t < 3 then
    let sum (pl : Nat) : Nat × Flags := rnd F32 rm (sumF rm (on.map (fun i => (tFmt t).dec (lane (a0.vp pl a) w i))))
    vecDone 6 0 d.toNat (fun a1 => s.me.dual.foldl (fun acc pl => acc.putF pl d (sum pl)) (a1.putF 0 d (sum 0))) s
  else
    let sum : Int := (on.map (fun i => tInt t (lane (a0.vp 0 a) w i))).foldl (· + ·) 0
    vecDone 6 0 d.toNat (fun a1 => a1.putInt s.me.dual d (BitVec.ofInt 64 sum)) s

/-- The lane that VREDMAX or VREDMIN chooses, the lowest of equals. When every active lane is NaN, 06 R134 names no chosen
lane: the model takes the lowest active one, whose tangent it writes (log 78). -/
def chooseF (f : Fmt) (mx : Bool) (xs : List (Nat × Nat)) : Option (Nat × Nat) :=
  match xs with
  | [] => none
  | x :: xs => some (xs.foldl (fun acc y => if (f.minmax mx acc.2 y.2).2 = 2 then y else acc) x)

/-- VREDMAX and VREDMIN. With no active lane no lane is chosen, and the model writes a zero tangent (log 78). -/
def vredMinmax (mx : Bool) (d a : Reg) (m t : BitVec 3) (s : State) : Out :=
  let a0 := s.me.a
  let t := t.toNat
  let w := tWidth t
  let on := active (a0.mp m) (tLanes t)
  let f := tFmt t
  if t < 3 then
    match chooseF f mx (on.map (fun i => (i, lane (a0.vp 0 a) w i))) with
    | none => vecDone 6 0 d.toNat (fun a1 => a1.putInt s.me.dual d (if mx then 0xFF800000 else 0x7F800000)) s
    | some (i, c) =>
      vecDone 6 0 d.toNat (fun a1 => s.me.dual.foldl
        (fun acc pl => acc.putF pl d (widenF f (lane (a0.vp pl a) w i))) (a1.putF 0 d (widenF f c))) s
  else
    let xs := on.map (fun i => tInt t (lane (a0.vp 0 a) w i))
    let lo : Int := if tSigned t then -(2 ^ (w - 1)) else 0
    let hi : Int := if tSigned t then 2 ^ (w - 1) - 1 else 2 ^ w - 1
    let r := if mx then xs.foldl max lo else xs.foldl min hi
    vecDone 6 0 d.toNat (fun a1 => a1.putInt s.me.dual d (BitVec.ofInt 64 r)) s

def execVredmax (d a : Reg) (m t : BitVec 3) (s : State) : Out := vredMinmax true d a m t s
def execVredmin (d a : Reg) (m t : BitVec 3) (s : State) : Out := vredMinmax false d a m t s

/-! ### Masks (06 R135): latency 1, no unit -/

def maskOp (d : BitVec 3) (w : Word) (s : State) : Out :=
  .next ((s.upMe (fun t => { t with a := t.a.setM d w }.renew [(2, d.toNat)])).done 4)

def execMand (d a b : BitVec 3) (s : State) : Out := maskOp d (s.me.a.mp a &&& s.me.a.mp b) s
def execMor (d a b : BitVec 3) (s : State) : Out := maskOp d (s.me.a.mp a ||| s.me.a.mp b) s
def execMnot (d a : BitVec 3) (s : State) : Out := maskOp d (~~~(s.me.a.mp a)) s
def execMpop (d : Reg) (a t : BitVec 3) (s : State) : Out :=
  intOp' d (BitVec.ofNat 64 (active (s.me.a.mp a) (tLanes t.toNat)).length) s
where
  intOp' (d : Reg) (w : Word) (s : State) : Out := .next ((s.putInt d w).doneD 4)

end Sys2Proof.Machine
end

