-- ==== Sys2Proof/Machine/Vmem.lean ====
section
/-! DEFINITION. Vector loads and stores, local and global (06 R127-R132). -/

namespace Sys2Proof.Machine

/-- Byte mask of the active lanes of width `w`. -/
def laneBytes (m : Word) (w : Nat) : BitVec 64 :=
  (span 0 64).foldl (fun x i => if m.getLsbD (i * 8 / w) then putBits x i 1 1 else x) 0

/-- The 512 bits that 64 bytes stand for. -/
def vOf (bs : List Byte) : VWord := BitVec.ofNat 512 (leNat bs)

/-- A result that is ready `lat` cc after the issue. -/
def State.soon (s : State) (lat : Nat) (bs : List (Nat × Nat)) : State :=
  s.upMe (fun t => t.soon bs (s.cyc + lat + t.extra))

/-- The end of a vector access: the vector unit is taken as 06 R114 states. -/
def State.vmemDone (s : State) : State := (s.doneD 4).useVec s.me.extra

/-- VLD.L: each plane's 64 bytes, active lanes only: a watchpoint sees their bytes alone (log 91). -/
def execVldL (d a b : Reg) (m t : BitVec 3) (s : State) : Out :=
  let a0 := s.me.a
  let ps := s.me.planes true
  let ea := s.g a + s.g b
  let on := laneBytes (a0.mp m) (tWidth t.toNat)
  s.localOn (.vldL d a b m t) 64 64 (byteTouches on true false true (ps.map (fun p => (a0.lea ea p).toNat))) (ps.map (a0.lea ea))
    (let cc := s.myCC
     let s := s.upA (fun x => ps.foldl (fun x p =>
       x.setV p d (maskLanes (a0.mp m) (tWidth t.toNat) (a0.vp p d) (vOf (cc.locRead (a0.lea ea p).toNat 64)))) x)
     .next (s.soon 4 [(1, d.toNat)]).vmemDone)

/-- VST.L: the bytes of active lanes of each plane, in one step. -/
def execVstL (d a b : Reg) (m t : BitVec 3) (s : State) : Out :=
  let a0 := s.me.a
  let ps := s.me.planes true
  let ea := s.g a + s.g b
  let on := laneBytes (a0.mp m) (tWidth t.toNat)
  s.localOn (.vstL d a b m t) 64 64 (byteTouches on false true true (ps.map (fun p => (a0.lea ea p).toNat))) (ps.map (a0.lea ea))
    (let s := ps.foldl (fun s p => s.upCC (ccOf s.cur) (fun c =>
       c.locWrite (a0.lea ea p).toNat (fun i => on.getLsbD i) (natLe (a0.vp p d).toNat 64))) s
     .next s.vmemDone)

/-- VLD.G: one access of 64 bytes for each plane; inactive lanes keep their contents. -/
def execVldG (d a b : Reg) (m t : BitVec 3) (s : State) : Out :=
  let a0 := s.me.a
  let ps := s.me.planes true
  let ea := s.g a + s.g b
  let keep := ~~~(laneBytes (a0.mp m) (tWidth t.toNat))
  s.planned { kind := .load, al := 64, ctr := none, regs := false } (ps.map (a0.gea ea)) (fun hs s =>
    s.watched (byteTouches (~~~keep) true false false (hs.map (fun h => h.ea.toNat)))
      (s.marking hs (let s := (ps.zip hs).foldl (fun s x =>
         s.load x.2 (.v d x.1 0)
           { len := 64, fresh := false, acq := false, keep := keep, old := a0.vp x.1 d, lat := 6, pl := x.1 }) s
       .next s.vmemDone)))

/-- VST.G: one access of the active bytes for each plane. With no active lane it writes nothing (R127), and while speculating the
model has it take no entry and never stall on the buffer (log 79). -/
def execVstG (d a b : Reg) (m t : BitVec 3) (s : State) : Out :=
  let a0 := s.me.a
  let ps := s.me.planes true
  let ea := s.g a + s.g b
  let on := laneBytes (a0.mp m) (tWidth t.toNat)
  let s0 := s
  s.planned { kind := .store, al := 64, ctr := some true, regs := false } (ps.map (a0.gea ea)) (fun hs s =>
    s.watched (byteTouches on false true false (hs.map (fun h => h.ea.toNat)))
      (match (ps.zip hs).foldlM (fun s x =>
          if on = 0 then some s else s.store x.2 x.1 64 on (a0.vp x.1 d) false) s with
       | some s => .next s.vmemDone
       | none => s0.untilResolved))

/-- VLDS: each active lane is an access of its own (06 R127). R114 gives a latency for an L1 hit of VLD.G only; a lane of VLDS
that hits L1 takes the same 6 cc (log 80). -/
def execVlds (d a b : Reg) (m t : BitVec 3) (s : State) : Out :=
  let a0 := s.me.a
  let ps := s.me.planes true
  let w := tWidth t.toNat / 8
  let ls := active (a0.mp m) (tLanes t.toNat)
  let ea (i : Nat) : Word := s.g a + BitVec.ofNat 64 i * s.g b
  let xs := ps.flatMap (fun p => ls.map (fun i => (p, i)))
  s.planned { kind := .load, al := w, ctr := none, regs := false } (xs.map (fun x => a0.gea (ea x.2) x.1)) (fun hs s =>
    s.watched (touches w true false hs)
      (s.marking hs (let s := (xs.zip hs).foldl (fun s x =>
         s.load x.2 (.v d x.1.1 (w * x.1.2)) { len := w, fresh := false, acq := false, lat := 6, pl := x.1.1 }) s
       .next s.vmemDone)))

/-- VGATH.L: vd[i] := the 32 bits at ea_i (06 R130). -/
def execVgathL (d a b : Reg) (m t : BitVec 3) (s : State) : Out :=
  let a0 := s.me.a
  let ps := s.me.planes true
  let ls := active (a0.mp m) 16
  let ea (i : Nat) : Word := s.g a + BitVec.ofNat 64 (lane (a0.vp 0 b) 32 i)
  s.local (.vgathL d a b m t) 4 4 true false (ps.flatMap (fun p => ls.map (fun i => a0.lea (ea i) p)))
    (let cc := s.myCC
     let s := s.upA (fun x => ps.foldl (fun x p =>
       x.setV p d (ls.foldl (fun v i => setLane v 32 i (leNat (cc.locRead (a0.lea (ea i) p).toNat 4))) (a0.vp p d))) x)
     .next (s.soon (4 + ceilDiv ls.length 4) [(1, d.toNat)]).vmemDone)

/-- VSCAT.L: lane i of vd to ea_i, lanes in rising order so that the highest of equal addresses remains (06 R130). -/
def execVscatL (d a b : Reg) (m t : BitVec 3) (s : State) : Out :=
  let a0 := s.me.a
  let ps := s.me.planes true
  let ls := active (a0.mp m) 16
  let ea (i : Nat) : Word := s.g a + BitVec.ofNat 64 (lane (a0.vp 0 b) 32 i)
  s.local (.vscatL d a b m t) 4 4 false true (ps.flatMap (fun p => ls.map (fun i => a0.lea (ea i) p)))
    (let s := ps.foldl (fun s p => s.upCC (ccOf s.cur) (fun c =>
       ls.foldl (fun c i => c.locWrite (a0.lea (ea i) p).toNat (fun _ => true) (natLe (lane (a0.vp p d) 32 i) 4)) c)) s
     .next s.vmemDone)

/-- Shared by LDL and STL: addresses of the primal access and of the planes' images. -/
def State.locals (s : State) (ea : Word) (ps : List Nat) : List Word := ps.map (s.me.a.lea ea)

/-- LDL (05 R97, R101, R102). -/
def execLdl (d a : Reg) (z : BitVec 3) (o : BitVec 11) (s : State) : Out :=
  let ea := s.ea a o
  let n := loadLen z
  let ps := s.me.planes (loadDual z)
  s.local (.ldl d a z o) n n true false (s.locals ea ps)
    (let cc := s.myCC
     let a0 := s.me.a
     let zero := if loadDual z then [] else s.me.dual
     let s := s.upA (fun x => zero.foldl (fun x p => x.setG p d 0) (ps.foldl (fun x p =>
       x.setG p d (loadExt z.toNat (leNat (cc.locRead (a0.lea ea p).toNat n)))) x))
     .next ((s.soon 3 [(0, d.toNat)]).doneD 4))

/-- STL (05 R97, R101, R102). -/
def execStl (src a : Reg) (z : BitVec 2) (o : BitVec 12) (s : State) : Out :=
  let ea := s.ea a o
  let n := storeLen z
  let ps := s.me.planes (storeDual z)
  s.local (.stl src a z o) n n false true (s.locals ea ps)
    (let a0 := s.me.a
     let s := ps.foldl (fun s p => s.upCC (ccOf s.cur) (fun c =>
       c.locWrite (a0.lea ea p).toNat (fun _ => true) (wordLe (a0.gp p src) n))) s
     .next (if storeDual z then s.doneD 4 else s.done 4))

end Sys2Proof.Machine
end

