-- ==== Sys2Proof/Machine/Global.lean ====
section
/-! DEFINITION. Home slices: loads, stores, AMO, RED, residual entries, counters, DISCARD, releases and fences (10
R180-R203; 14 R284, R285; 17 R308, R309), and the messages that carry them. -/

namespace Sys2Proof.Machine

/-! ### What a write at a home slice does besides writing -/

/-- Had the issuer of a write, which carries `chans`, not arrived in the superstep of a mark when the write left its core? -/
def unarrived (chans : List (Nat × BitVec 32)) (m : Mark) : Bool :=
  chans.any (fun c => c.1 == m.chan && decide ((m.gen - c.2).toNat < 2 ^ 31))

/-- A write of a line aborts the crossings whose live marks it meets, where its issuer is a member that had not arrived
(14 R285, R286). A channel of 64 or more stands for an abort by a copy burst, which no release covers. -/
def State.abortMarks (s : State) (home pa : Nat) (chans : List (Nat × BitVec 32)) (burst : Bool) : State :=
  let ms := (s.slice home).marks.filter (fun m => m.line == lineKey pa && unarrived chans m && m.gen == (s.chan m.chan).s)
  ms.foldl (fun s m =>
    s.ts.foldl (fun s x =>
      match x.2.spec with
      | some c => if c.chan == m.chan && c.gen == m.gen then
          s.push (.specAbort x.1 (m.chan + if burst then 64 else 0) m.gen.toNat) else s
      | none => s) s) s

/-- A system core's access to a held line sees the line as its release will leave it, and keeps what it writes (24 R420). -/
def State.sysHeal (s : State) (r : Req) : State := if isSys r.who then s.heal r.home (lineKey r.pa) 15 else s

/-- Bytes written for a request at its home slice: replicas collapse first, watchpoints see it, marks abort. -/
def State.wrReq (s : State) (r : Req) (on : List Bool) (bs : List Byte) : State :=
  let s := s.noteReq r r.home r.pa r.len true
  let s := (s.collapse (lineKey r.pa)).homeWrite r.home r.pa on bs r.cid
  s.abortMarks r.home r.pa r.chans (r.agent == .copy)

/-- The bytes of a store: those of its mask, and of a VST.G that was held also the others that it carries by address (06 R128). -/
def storeOn (r : Req) : List Bool := (span 0 r.len).map (fun i => r.mask.getLsbD i || (mfind r.lanes (r.pa + i)).isSome)
def storeBytes (r : Req) : List Byte :=
  (span 0 r.len).map (fun i => match mfind r.lanes (r.pa + i) with | some b => b.setWidth 8 | none => r.data.extractLsb' (8 * i) 8)

def maskList (m : BitVec 64) (n : Nat) : List Bool := (span 0 n).map (fun i => m.getLsbD i)

/-- A cleared line: its dirty sectors, its tag and its queue entries go, and the levels below show (10 R201). -/
def State.discardLine (s : State) (home key : Nat) : State :=
  (s.collapse key).upSlice home (fun sl => { sl with l2 := mdel sl.l2 key, rq := sl.rq.filter (fun e => e.1 != key), adds := mdel sl.adds key })

/-! ### AMO (10 R188) -/

/-- The new value of an AMO of width `w`; none writes nothing. -/
def amoNew (op w old src cmp : Nat) : Option Nat :=
  let sg (x : Nat) : Int := if 2 ^ (w - 1) ≤ x then (x : Int) - 2 ^ w else x
  match op with
  | 0 => some src
  | 1 => some ((old + src) % 2 ^ w)
  | 2 => some (old &&& src)
  | 3 => some (old ||| src)
  | 4 => some (old ^^^ src)
  | 5 => some (if sg src < sg old then src else old)
  | 6 => some (if sg old < sg src then src else old)
  | 7 => some (min old src)
  | 8 => some (max old src)
  | _ => if old = cmp then some src else none

/-- The AMO in one step at the slice; the old value goes back. -/
def State.amoAt (s : State) (r : Req) (op : Nat) : State :=
  let w := 8 * r.len
  let s := s.noteReq r r.home r.pa r.len false
  let (bs, s) := s.homeRead r.home r.pa r.len
  let old := leNat bs
  let s := match amoNew op w old (wbits r.data 0 w) (wbits r.cmp 0 w) with
    | some x => s.wrReq r (List.replicate r.len true) (natLe x r.len)
    | none => s.collapse (lineKey r.pa)
  s.push (.amoReply { r with data := BitVec.ofNat 512 old })

/-! ### Reductions (10 R189-R194) -/

/-- Two addends combined as an entry holds them, BF16 in F32 (10 R191, R193). -/
def redMerge (op : Nat) (x y : BitVec 64) : BitVec 64 :=
  let f (g : Nat → Nat → Nat) : BitVec 64 := BitVec.ofNat 64 (g (wbits x 0 32) (wbits y 0 32))
  match op with
  | 0 => f (fun a b => (rnd F32 0 (xadd false (F32.dec a) (F32.dec b))).1)
  | 1 => f (fun a b => (rnd F32 0 (xadd false (F32.dec a) (F32.dec b))).1)
  | 2 => f (fun a b => (a + b) % 2 ^ 32)
  | 3 => x + y
  | 4 => f (fun a b => (F32.minmax true a b).1)
  | _ => f (fun a b => (F32.minmax false a b).1)

/-- A target lane with an addend applied (10 R189). -/
def redApply (op : Nat) (old : Nat) (x : BitVec 64) : Nat :=
  match op with
  | 1 => (rnd BF16 0 (xadd false (BF16.dec old) (F32.dec (wbits x 0 32)))).1
  | _ => (redMerge op (BitVec.ofNat 64 old) x).toNat

/-- Lanes of two addends joined. -/
def mergeLanes (op : Nat) (xs ys : AMap (BitVec 64)) : AMap (BitVec 64) :=
  ys.foldl (fun m y => match mfind m y.1 with
    | some x => mset m y.1 (redMerge op x y.2)
    | none => mset m y.1 y.2) xs

def redOp (r : Req) : Nat := match r.kind with | .red op => op | _ => 0

/-- Address of a lane of the request's line. -/
def laneAddr (r : Req) (i : Nat) : Nat := r.pa / 192 * 192 + redW (redOp r) * i

/-- What a queue entry's addends have done, after `n` bytes at `off` that read `bs` took one more. -/
def Addends.more (a : Addends) (off n : Nat) (bs : List Byte) : Addends :=
  let fresh := (span off n).map (fun i => !a.mask.getLsbD i)
  { a with mask := a.mask ||| byteMask off (List.replicate n true), was := putBytes a.was off fresh bs }

/-- The lane of the entry that an addend leaves, `old` being the target (10 R191): combined with what the entry's same lane
carries already (log 27: the line then shows the target with the combined addends). -/
def Addends.take (a : Addends) (op lane old : Nat) (x : BitVec 64) : AddLane :=
  match a.lanes.find? (fun l => l.op == op && l.lane == lane) with
  | some l => { l with sum := redMerge op l.sum x }
  | none => { op := op, lane := lane, base := old, sum := x }

/-- Each addend is applied to the line in one step. -/
def State.redAt (s : State) (r : Req) : State :=
  let op := redOp r
  let w := redW op
  let s := r.lanes.foldl (fun s l =>
    let pa := laneAddr r l.1
    let (bs, s) := s.homeRead r.home pa w
    let s := s.noteReq r r.home pa w true
    let a := (mget (s.slice r.home).adds (lineKey pa) { mask := 0, was := 0, lanes := [] }).more (pa % 192) w bs
    let e := a.take op l.1 (leNat bs) l.2
    let k := byteMask (pa % 192) (List.replicate w true)
    let a := { a with lanes := e :: a.lanes.filter (fun x => x.clear k) }
    let s := (s.collapse (lineKey pa)).homeWrite r.home pa (List.replicate w true) (natLe (redApply op e.base e.sum) w) r.cid
    s.upSlice r.home (fun sl => { sl with adds := mset sl.adds (lineKey pa) a })) s
  s.abortMarks r.home r.pa r.chans false

/-- The reduction queue takes the request's line: merged into its entry, or in a new one that drains later (10 R191). -/
def State.enqueue (s : State) (r : Req) : State :=
  let key := lineKey r.pa
  match (s.slice r.home).rq.find? (fun e => e.1 == key) with
  | some _ => s.upSlice r.home (fun sl => { sl with rq := sl.rq.map (fun e => if e.1 = key then (key, mergeTag e.2 r.cid) else e) })
  | none => (s.upSlice r.home (fun sl => { sl with rq := sl.rq ++ [(key, r.cid)] })).push (.reductionQueueDrain r.home)

/-- Count of accepted reductions for a request's cluster and context in this window. -/
def cntKey (r : Req) : Nat := clusterOf r.who * 4096 + r.cid

def State.inQuota (s : State) (r : Req) : Bool :=
  decide (mget (s.slice r.home).cnt (cntKey r) 0 < wbits (s.ctx r.cid).resq 0 7)

/-- Is the reduction accepted as things stand (10 R192)? -/
def State.accepts (s : State) (r : Req) : Bool := s.inQuota r || decide ((s.slice r.home).rq.length < 48)

/-- Has the queue an entry for the line, or room for one? -/
def State.hasRoom (s : State) (r : Req) : Bool :=
  decide ((s.slice r.home).rq.length < 64) || (s.slice r.home).rq.any (fun e => e.1 == lineKey r.pa)

/-- The entry of the core's tile that a request matches. -/
def State.tileMatch (s : State) (core : Nat) (r : Req) : Option Nat :=
  findAt (fun e => match e with
    | some (x : Res) => x.r.pa / 192 == r.pa / 192 && lineKey x.r.pa == lineKey r.pa && x.r.kind == r.kind && x.r.cid == r.cid
        && x.r.home == r.home
    | none => false) (s.core core).tile.toList 0

/-- The request with an entry's lanes, owners and channels joined. -/
def joinRes (r x : Req) : Req :=
  { r with lanes := mergeLanes (redOp r) x.lanes r.lanes, own := r.own ||| x.own
           chans := r.chans ++ x.chans.filter (fun c => !r.chans.contains c) }

/-- Takes an entry of the tile into a request, freeing it. -/
def State.takeRes (s : State) (core : Nat) (r : Req) : Req × State :=
  match s.tileMatch core r with
  | none => (r, s)
  | some i =>
    match vget (s.core core).tile i none with
    | none => (r, s)
    | some e => (joinRes r e.r, s.upCore core (fun c => { c with tile := vset c.tile i none }))

/-- Index of the oldest entry (10 R193). -/
def oldestRes (v : Vector (Option Res) 32) : Option Nat :=
  leastBy (fun i => match vget v i none with | some e => e.born | none => 0)
    ((span 0 32).filter (fun i => (vget v i none).isSome))

/-- Sends one request by forced message. -/
def State.force (s : State) (core : Nat) (r : Req) : State :=
  let s := (s.upCC (r.cid * 2048 + core) (fun c => { c with forced := c.forced + 1 })).push
    (.forcedMessageApply { r with chans := s.ownChans core r.cid r.own, drain := true })
  (span 0 4).foldl (fun s k => if r.own.getLsbD k then s.evt (tkOf r.cid (core * 4 + k)) 0x0E else s) s

/-- A refused addend takes a free entry; a full tile first sends its oldest (10 R193). -/
def State.newRes (s : State) (core : Nat) (r : Req) : State :=
  let free (s : State) : Option Nat := (span 0 32).find? (fun i => (vget (s.core core).tile i none).isNone)
  let s := match free s with
    | some _ => s
    | none => match oldestRes (s.core core).tile with
      | none => s
      | some i => match vget (s.core core).tile i none with
        | none => s
        | some e => (s.upCore core (fun c => { c with tile := vset c.tile i none })).force core e.r
  match free s with
  | none => s
  | some i => s.upCore core (fun c => { c with tile := vset c.tile i (some { r := r, born := s.cyc }) })

/-! ### Releases (10 R186) -/

/-- A release of the thread set at scope CLUSTER or wider waits in step 2. -/
def State.relWaits (s : State) (tk : Nat) : Bool :=
  (match (s.t tk).wait with
   | some (.fence k w) => w && decide (k ≠ 0)
   | some (.tspawn _ _) => true
   | some (.tsync _ _) => true
   | some (.tlbinv ..) => true
   | _ => false) ||
  s.inFlight (fun e => match e with
    | .homeStoreApply r => r.who == tk && r.rel && r.own != 0
    | .replicaCollapseAck r => r.who == tk && r.rel && r.own != 0
    | .amoSliceApply r => r.who == tk && r.rel && r.own != 0
    | .sigaddApply r => r.who == tk && r.rel && r.own != 0
    | .barrierArrival v => v.tk == tk
    | _ => false)

/-- A forced message with addends of the thread set that is not applied yet. -/
def isForced (tk : Nat) (e : Ev) : Bool :=
  match e with
  | .forcedMessageApply r => owes tk r
  | .replicaCollapseAck r => r.drain && r.kind matches .red _ && owes tk r
  | _ => false

/-- Loads and AMOs in flight: what an acquire fence waits for (10 R187). -/
def isLoad (tk : Nat) (e : Ev) : Bool :=
  match e with
  | .homeLoadServe r => r.who == tk
  | .amoSliceApply r => r.who == tk
  | .replicaCollapseAck r => r.kind matches .amo _ && r.who == tk
  | .loadReply r => r.who == tk && r.acq
  | .amoReply r => r.who == tk && r.acq
  | _ => false

/-- Is the condition met for which a FENCE, RFLUSH or other release waits? -/
def State.relDone (s : State) (tk : Nat) (w : Wait) : Bool :=
  match w with
  | .fence k wide =>
    (if k = 1 then true else !s.inFlight (isLoad tk)) &&
    (if k = 0 then true else !s.inFlight (fun e => waitsFor tk e && (wide || !isForced tk e)))
  | .rflush => !s.inFlight (isForced tk)
  | _ => s.allPerformed tk

/-! ### Instructions -/

/-- Zero in the named planes of g[d] (10 R203). -/
def Arch.zeroPlanes (a : Arch) (ps : List Nat) (d : Reg) : Arch := ps.foldl (fun a p => a.setG p d 0) a

/-- Checks of AMO and RED (10 R188, R189). -/
def rmwChecks (al : Nat) : Checks := { kind := .rmw, al := al, ctr := some true, regs := false }

def amo (op : Nat) (d a b : Reg) (w : BitVec 1) (o : BitVec 2) (sc : BitVec 3) (s : State) : Out :=
  let n := if w = 0 then 4 else 8
  s.planned (rmwChecks n) [s.g a] (fun hs s =>
    s.watched (touches n true true hs)
      (let s := hs.foldl (fun s h =>
         let r0 := s.req s.cur (.amo op) h.ea h.pa h.home h.pte n
         let r : Req := { r0 with data := (s.g b).setWidth 512, cmp := s.g d, dst := if d = 0 then .none else .g d 0 2
                                  acq := o.getLsbD 0 }
         let r := if o.getLsbD 1 then asRel r sc.toNat else r
         let r : Req := { r with dst := match r.dst with | .g x p _ => .g x p (if n = 4 then 2 else 3) | x => x }
         let s := if o.getLsbD 1 then s.relStep s.cur sc.toNat else s
         let s := s.upMe (fun t => { t with a := t.a.zeroPlanes t.dual d }.await r.dst)
         s.push (.amoSliceApply r)) s
       .next (s.doneD 4)))

def execAmoSwap (d a b : Reg) (w : BitVec 1) (o : BitVec 2) (sc : BitVec 3) (s : State) : Out := amo 0 d a b w o sc s
def execAmoAdd (d a b : Reg) (w : BitVec 1) (o : BitVec 2) (sc : BitVec 3) (s : State) : Out := amo 1 d a b w o sc s
def execAmoAnd (d a b : Reg) (w : BitVec 1) (o : BitVec 2) (sc : BitVec 3) (s : State) : Out := amo 2 d a b w o sc s
def execAmoOr (d a b : Reg) (w : BitVec 1) (o : BitVec 2) (sc : BitVec 3) (s : State) : Out := amo 3 d a b w o sc s
def execAmoXor (d a b : Reg) (w : BitVec 1) (o : BitVec 2) (sc : BitVec 3) (s : State) : Out := amo 4 d a b w o sc s
def execAmoMin (d a b : Reg) (w : BitVec 1) (o : BitVec 2) (sc : BitVec 3) (s : State) : Out := amo 5 d a b w o sc s
def execAmoMax (d a b : Reg) (w : BitVec 1) (o : BitVec 2) (sc : BitVec 3) (s : State) : Out := amo 6 d a b w o sc s
def execAmoMinu (d a b : Reg) (w : BitVec 1) (o : BitVec 2) (sc : BitVec 3) (s : State) : Out := amo 7 d a b w o sc s
def execAmoMaxu (d a b : Reg) (w : BitVec 1) (o : BitVec 2) (sc : BitVec 3) (s : State) : Out := amo 8 d a b w o sc s
def execAmoCas (d a b : Reg) (w : BitVec 1) (o : BitVec 2) (sc : BitVec 3) (s : State) : Out := amo 9 d a b w o sc s

/-- Addend lanes of a RED: the source of plane `p`, BF16 widened to F32. -/
def redLanes (op : Nat) (v : Bool) (a : Arch) (b : Reg) (p pa : Nat) : AMap (BitVec 64) :=
  let w := redW op
  let src (i : Nat) : Nat := if v then lane (a.vp p b) (8 * w) i else wbits (a.gp p b) 0 (8 * w)
  (span 0 (if v then 64 / w else 1)).map (fun i =>
    (pa % 192 / w + i, BitVec.ofNat 64 (if op = 1 then src i * 2 ^ 16 else src i)))

def red (op : Nat) (a b : Reg) (v : BitVec 1) (s : State) : Out :=
  let n := if v = 1 then 64 else redW op
  let a0 := s.me.a
  let ps := s.me.planes (decide (op ≤ 1))
  s.planned (rmwChecks n) (ps.map (a0.gea (s.g a))) (fun hs s =>
    s.watched (touches n false true hs)
      (let s := (ps.zip hs).foldl (fun s x =>
         let h := x.2
         let r0 := s.req s.cur (.red op) h.ea h.pa h.home h.pte n
         let r : Req := { r0 with own := BitVec.ofNat 4 (2 ^ tsOf s.cur), lanes := redLanes op (v == 1) a0 b x.1 h.pa, pl := x.1 }
         if isSys s.cur then s.push (.forcedMessageApply r)
         else
           let (r, s) := s.takeRes (coreOf s.cur) r
           s.push (.redArrival { r with chans := s.ownChans (coreOf s.cur) r.cid r.own })) s
       let s := s.evt s.cur 0x0C
       .next (if op ≤ 1 then s.doneD 4 else s.done 4)))

def execRedAddF32 (a b : Reg) (v : BitVec 1) (s : State) : Out := red 0 a b v s
def execRedAddBf16 (a b : Reg) (v : BitVec 1) (s : State) : Out := red 1 a b v s
def execRedAddS32 (a b : Reg) (v : BitVec 1) (s : State) : Out := red 2 a b v s
def execRedAddS64 (a b : Reg) (v : BitVec 1) (s : State) : Out := red 3 a b v s
def execRedMaxF32 (a b : Reg) (v : BitVec 1) (s : State) : Out := red 4 a b v s
def execRedMinF32 (a b : Reg) (v : BitVec 1) (s : State) : Out := red 5 a b v s

/-- FENCE stalls until it is complete (10 R187). -/
def execFence (k sc : BitVec 5) (s : State) : Out :=
  let s := if k = 0 then s else s.relStep s.cur sc.toNat
  .next ((s.startWait (.fence k.toNat (decide (sc.toNat ≠ 0)))).push (.releasePerformed s.cur))

/-- RFLUSH sends the entries it owns and stalls until each is applied (10 R195). -/
def execRflush (s : State) : Out :=
  let s := if isSys s.cur then s else s.sendOwn s.cur
  .next ((s.startWait .rflush).push (.releasePerformed s.cur))

/-- Checks of the counter instructions (10 R197). -/
def ctrChecks (k : AccessKind) : Checks := { kind := k, al := 8, ctr := some false, regs := false }

/-- SIGADD stalls until the slice replies (10 R198). -/
def execSigadd (a b : Reg) (s : State) : Out :=
  s.planned (ctrChecks .rmw) [s.g a] (fun hs s =>
    s.watched (touches 8 false true hs)
      (let s := s.relStep s.cur 4
       let s := hs.foldl (fun s h =>
         let r0 := s.req s.cur .sigadd h.ea h.pa h.home h.pte 8
         s.push (.sigaddApply (asRel { r0 with data := (s.g b).setWidth 512 } 4))) s
       .next (s.startWait .sigadd)))

/-- WAITGE asks its counter's home slice (10 R199); the wait clock goes on from a saved value. -/
def execWaitge (d a b : Reg) (s : State) : Out :=
  s.planned (ctrChecks .load) [s.g a] (fun hs s =>
    s.watched (touches 8 true false hs)
      (.next (hs.foldl (fun s h =>
         let r0 := s.req s.cur .waitge h.ea h.pa h.home h.pte 8
         (s.startWait (.waitge d { r0 with cmp := s.g b, acq := true } false)).push (.waitgeRepoll s.cur)) s)))

/-- CTRRD: an acquiring read of a counter (10 R200). -/
def execCtrrd (d a : Reg) (s : State) : Out :=
  s.planned (ctrChecks .load) [s.g a] (fun hs s =>
    s.watched (touches 8 true false hs)
      (let s := hs.foldl (fun s h =>
         let r0 := s.req s.cur .ctrrd h.ea h.pa h.home h.pte 8
         let r : Req := { r0 with dst := if d = 0 then .none else .g d 0 3, acq := true, mask := 0 }
         (s.upMe (fun t => { t with a := t.a.zeroPlanes t.dual d }.await r.dst)).push (.homeLoadServe r)) s
       .next (s.doneD 4)))

/-- DISCARD (10 R201): no alignment check; the request covers the line's part in the page. -/
def execDiscard (a : Reg) (s : State) : Out :=
  s.planned (rmwChecks 1) [s.g a] (fun hs s =>
    let ln (h : Hit) : Nat := max (h.pa / 192 * 192) (h.pa / 65536 * 65536)
    let len (h : Hit) : Nat := min (h.pa / 192 * 192 + 192) (h.pa / 65536 * 65536 + 65536) - ln h
    s.watched (hs.map (fun h => { lo := h.ea.toNat - (h.pa - ln h), len := len h, rd := false, wr := true, loc := false }))
      (.next ((hs.foldl (fun s h =>
         s.push (.homeStoreApply (s.req s.cur .discard h.ea (ln h) h.home h.pte (len h)))) s).done 4)))

/-- L1INV: every sector of the core's L1 is dropped, in 4 cc (10 R202). -/
def execL1inv (s : State) : Out :=
  let s := if isSys s.cur then s else s.upCore (coreOf s.cur) (fun c => { c with l1 := [] })
  .next ((s.done 4).upMe (fun t => { t with readyAt := s.cyc + 4 }))

/-! ### Events at the home slice and their replies -/

/-- Bytes that a load or a counter read is served with: from a replica on the requester's die where the page allows it,
from the home slice otherwise (10 R183, which lets either serve it: that the replica always does, and that one goes only by a collapse
or a flush, is the model's choice, log 93); a system core reads a held line as its release will leave it (24 R420). -/
def State.serveBytes (s : State) (r : Req) : List Byte × State :=
  if r.rm && !r.acq && r.spec.isNone && r.die != dieOfRouter r.home && r.kind == .load then
    (s.noteReq r (home01 r.die r.pa) r.pa r.len false).repRead r.die r.home r.pa r.len
  else if isSys r.who && (s.slice r.home).lost.any (fun h => h.line == lineKey r.pa) then
    (natLe ((s.recovered r.home (lineKey r.pa)).toNat / 2 ^ (8 * (r.pa % 192))) r.len, s.noteReq r r.home r.pa r.len false)
  else
    (s.noteReq r r.home r.pa r.len false).homeRead r.home r.pa r.len

/-- A store of the core in flight to a sector: a reply served before it may not refill (05 R100). -/
def storeInFlight (core pa n : Nat) (e : Ev) : Bool :=
  let on (r : Req) : Bool := coreOf r.who == core && r.kind == .store && (sectors r.pa r.len).any (fun k => (sectors pa n).contains k)
  match e with
  | .homeStoreApply r => on r
  | .replicaCollapseAck r => on r
  | _ => false

/-- HOME_LOAD_SERVE (05 R99, 14 R284): the slice reads the bytes and, for a speculative load, marks the line; the reply
carries the sectors that may refill L1. -/
def execHomeLoadServe (r : Req) (s : State) : Out :=
  let (bs, s) := s.serveBytes r
  let s := match r.spec with
    | none => s
    | some (ch, gen) =>
      let m : Mark := { line := lineKey r.pa, chan := ch, gen := BitVec.ofNat 32 gen }
      if (s.chan ch).s != m.gen || (s.slice r.home).marks.contains m then s
      else s.upSlice r.home (fun sl => { sl with marks := m :: sl.marks })
  let lanes := if r.fill && !s.inFlight (storeInFlight (coreOf r.who) r.pa r.len) then s.refill r.home r.pa r.len else []
  let s := ({ s with seq := s.seq + 1 }).evt r.who 0x06
  .next (s.push (.loadReply { r with data := mixBytes r.mask r.data (BitVec.ofNat 512 (leNat bs)) r.len, lanes := lanes
                                     cmp := BitVec.ofNat 64 s.seq }))

/-- Bytes that came back reach their destination; those of a load made before a crossing reach its checkpoint too, and what an
abandoned operation goes back to (05 R87). -/
def State.landed (s : State) (r : Req) : State :=
  s.upT r.who (fun t =>
    let t := { t with a := t.a.land r.dst r.len r.data
                      undo := t.undo.map (fun (u : Arch × Word × Nat) => (u.1.land r.dst r.len r.data, u.2)) }.arrived r.dst
    match t.spec with
    | some c => if r.spec.isNone then { t with spec := some { c with chk := c.chk.land r.dst r.len r.data } } else t
    | none => t)

/-- LOAD_REPLY (05 R87): the destination is written, L1 refilled, and an acquire performed. -/
def execLoadReply (r : Req) (s : State) : Out :=
  let s := s.landed r
  let s := if r.lanes = [] then s else s.fillL1 (coreOf r.who) r.cid r.cmp.toNat r.lanes
  .next (if r.acq then s.acquire r.who else s)

/-- What a request does at its home once no replica is left. -/
def State.perform (s : State) (r : Req) : State :=
  let s := s.sysHeal r
  match r.kind with
  | .amo op => s.amoAt r op
  | .discard =>
    (((s.noteReq r r.home r.pa r.len true).discardLine r.home
      (lineKey r.pa)).abortMarks r.home r.pa r.chans false)
  | .red _ => (s.enqueue r).redAt r
  | _ => if r.lanes = [] then s.wrReq r (maskList r.mask r.len) (natLe r.data.toNat r.len) else s.wrReq r (storeOn r) (storeBytes r)

/-- Replicas of the line collapse first; the write waits for their acknowledgement (10 R183). -/
def State.afterCollapse (s : State) (r : Req) : State :=
  if s.repDies (lineKey r.pa) = [] then s.perform r
  else (s.collapse (lineKey r.pa)).push (.replicaCollapseAck r)

/-- HOME_STORE_APPLY (10 R185): a store, vector store or DISCARD. -/
def execHomeStoreApply (r : Req) (s : State) : Out := .next (s.afterCollapse r)

/-- REPLICA_COLLAPSE_ACK (10 R183): every replica die has acknowledged and the waiting write is performed. -/
def execReplicaCollapseAck (r : Req) (s : State) : Out := .next ((s.collapse (lineKey r.pa)).perform r)

/-- AMO_SLICE_APPLY (10 R188). -/
def execAmoSliceApply (r : Req) (s : State) : Out := .next (s.afterCollapse r)

/-- AMO_REPLY (10 R188): the old value, sign-extended for W, reaches g[d]; an acquire follows. -/
def execAmoReply (r : Req) (s : State) : Out :=
  let s := s.landed r
  .next (if r.acq then s.acquire r.who else s)

/-- RED_ARRIVAL (10 R192): accepted within quota or while the queue holds fewer than 48 entries, else returned. -/
def execRedArrival (r : Req) (s : State) : Out :=
  if s.accepts r then
    if s.hasRoom r then
      .next ((s.upSlice r.home (fun sl => { sl with cnt := mset sl.cnt (cntKey r) (mget sl.cnt (cntKey r) 0 + 1) })).afterCollapse r)
    else .next s
  else .next (s.push (.refusalReturn r))

/-- REFUSAL_RETURN (17 R308): sent on at once for a waiting release, merged into an entry, or entered in the tile; discarded
where the context's termination has begun (10 R194). -/
def execRefusalReturn (r : Req) (s : State) : Out :=
  let core := coreOf r.who
  let r := { r with own := r.own ||| BitVec.ofNat 4 (2 ^ tsOf r.who) }
  let s := (s.upCC (r.cid * 2048 + core) (fun c => { c with refused := c.refused + 1 })).evt r.who 0x0D
  let rel := (span 0 4).any (fun k => r.own.getLsbD k && s.relWaits (tkOf r.cid (core * 4 + k)))
  if s.ending r.cid then .next s
  else if rel || (s.core core).act != some r.cid then
    let (r, s) := s.takeRes core r
    .next (s.force core r)
  else match s.tileMatch core r with
    | some i => match vget (s.core core).tile i none with
      | some e => .next (s.upCore core (fun c => { c with tile := vset c.tile i (some { e with r := joinRes e.r r }) }))
      | none => .next s
    | none => .next (s.newRes core r)

/-- FORCED_MESSAGE_APPLY (10 R194): never refused; it waits for a queue entry. -/
def execForcedMessageApply (r : Req) (s : State) : Out :=
  if s.hasRoom r then .next (s.afterCollapse r) else .next s

/-- RESIDUAL_AGE_EXPIRY (10 R194): entries of age 4096 cc are sent. -/
def execResidualAgeExpiry (core : Nat) (s : State) : Out :=
  .next (s.sendRes core (fun e => decide (e.born + 4096 ≤ s.cyc)))

/-- QUOTA_WINDOW_START (10 R192): every count begins again. -/
def execQuotaWindowStart (s : State) : Out :=
  .next { s with slices := s.slices.map (fun x => (x.1, { x.2 with cnt := [] })) }

/-- REDUCTION_QUEUE_DRAIN (10 R191): the oldest entry reaches the array and frees. -/
def execReductionQueueDrain (slice : Nat) (s : State) : Out :=
  .next (s.upSlice slice (fun sl =>
    { sl with rq := sl.rq.drop 1, adds := match sl.rq with | [] => sl.adds | q :: _ => mdel sl.adds q.1 }))

/-- What an event does to a thread set takes no issue slot of its core (07 R137). -/
def State.offSlot (s : State) (tk : Nat) (f : State → State) : State :=
  (f s).upT tk (fun t => { t with lastIss := (s.t tk).lastIss })

/-- Completes the instruction of a thread set that waits. -/
def State.finish (s : State) (tk : Nat) : State :=
  s.offSlot tk (fun s => s.asTk tk (fun s => (s.upMe (fun t => { t with wait := none })).done 4))

/-- Completes an instruction that waits, with its result in g[d] and zero in its named planes. -/
def State.finishD (s : State) (tk : Nat) (d : Reg) (w : Word) : State :=
  s.offSlot tk (fun s => s.asTk tk (fun s => ((s.upMe (fun t => { t with wait := none })).putInt d w).doneD 4))

/-- A waiting thread set's instruction traps. -/
def State.waitTrap (s : State) (tk code : Nat) (tval : Word) : State :=
  s.offSlot tk (fun s => s.trapAt tk code tval (s.t tk).pc)

/-- SIGADD_APPLY (10 R198): the addition at the slice, or COUNTER_OVERFLOW; the stalled thread set goes on. -/
def execSigaddApply (r : Req) (s : State) : Out :=
  let (ok, s) := ((s.noteReq r r.home r.pa 8 true).sysHeal r).ctrAdd r.home r.pa
    (wbits r.data 0 64) r.cid false
  let s := if ok then s.abortMarks r.home r.pa r.chans false else s
  if (s.t r.who).wait != some .sigadd then .next s
  else if ok then .next (s.finish r.who)
  else .next ((s.upT r.who (fun t => { t with wait := none })).waitTrap r.who cCtrOvf r.va)

/-- Waiters of a slice without those of a thread set. -/
def State.unregister (s : State) (tk : Nat) : State :=
  match (s.t tk).wait with
  | some (.waitge _ r _) =>
    s.upSlice r.home (fun sl => { sl with wait := sl.wait.filter (fun x => x.1 != .ts tk) })
  | _ => s

/-- The wait at a counter, judged at its home slice: complete, registered, or read again in 1024 cc (10 R199). -/
def State.waitgeAt (s : State) (tk : Nat) : State :=
  match (s.t tk).wait with
  | some (.waitge d r reg) =>
    let (bs, s) := ((s.noteReq r r.home r.pa 8 false).sysHeal r).homeRead r.home r.pa 8
    let c := leNat bs
    if r.cmp.toNat ≤ c then
      (((s.unregister tk).dropPend (fun e => e == .waitgeRepoll tk)).finishD tk d (BitVec.ofNat 64 c)).acquire tk
    else if reg && (s.slice r.home).wait.any (fun x => x.1 == .ts tk) then s
    else if (s.slice r.home).wait.length < 256 then
      (s.upSlice r.home (fun sl => { sl with wait := (.ts tk, r.pa, r.cmp) :: sl.wait })).upT tk (fun t =>
        { t with wait := some (.waitge d r true) })
    else (s.upT tk (fun t => { t with wait := some (.waitge d r false) })).pushAt (s.cyc + 1024) (.waitgeRepoll tk)
  | _ => s

/-- WAITGE_WAKE (10 R199). -/
def execWaitgeWake (tk : Nat) (s : State) : Out := .next (s.waitgeAt tk)

/-- WAITGE_REPOLL (10 R199): the counter is read at its home slice. -/
def execWaitgeRepoll (tk : Nat) (s : State) : Out := .next (s.waitgeAt tk)

/-- The trap of a wait whose clock stands at `n`: where it parks the task, loads that have left the core write their registers first,
and the wait stays over. -/
def State.timeOut (s : State) (tk n : Nat) : State :=
  if s.mustLand tk cTimeout then s.upT tk (fun t => { t with wait := some (.expired n) })
  else (s.upT tk (fun t => { t with wclk := 0 })).waitTrap tk cTimeout (BitVec.ofNat 64 n)

/-- WAIT_TIMEOUT (07 R145): the wait clock has passed its limit and the condition does not hold. -/
def execWaitTimeout (tk : Nat) (s : State) : Out :=
  let t := s.t tk
  match t.wait with
  | some (.expired n) => .next (s.timeOut tk n)
  | some w =>
    if w.bounded && decide (t.wlim < t.wclk) then
      .next (((s.unregister tk).dropPend (fun e => e == .waitgeRepoll tk || e == .waitgeWake tk)).timeOut tk t.wclk)
    else .next s
  | none => .next s

end Sys2Proof.Machine
end

