-- ==== Sys2Proof/Machine/Banks.lean ====
section
/-! DEFINITION. Banks: pools, slots, quota, scrubbing, residency and the five BANK instructions with their events (08
R155-R176), and what a launch record says of placement, cores and quota (19 R330). -/

namespace Sys2Proof.Machine

/-! ### Launch records: fields and placement (19 R330) -/

def recQuota (x : BitVec 2048) : Nat := recN x 0x20 56 6
def recCores (x : BitVec 2048) : Nat := recN x 0x28 16 8
def recTpc (x : BitVec 2048) : Nat := let n := recN x 0x20 48 3; if n = 0 then 4 else n
def recNxm (x : BitVec 2048) : Bool := recN x 0x30 3 1 = 1

/-- Does the placement hold a cluster? -/
def recPlaces (x : BitVec 2048) (c : Nat) : Bool :=
  let x0 := recN x 0x28 0 4
  let y0 := recN x 0x28 4 4
  decide (x0 ≤ c % 16 ∧ c % 16 ≤ x0 + recN x 0x28 8 4 ∧ y0 ≤ c / 16 ∧ c / 16 ≤ y0 + recN x 0x28 12 4)

/-- Does the launch's core set hold a core? -/
def recCovers (x : BitVec 2048) (core : Nat) : Bool := recPlaces x (core / 8) && (recCores x).testBit (core % 8)

/-- Incomplete launches of a context. -/
def State.launchesOf (s : State) (cid : Nat) : List Launch :=
  (s.part (s.ctx cid).part).launches.filter (fun l => l.cid == cid)

/-- Is a core in the context's core set (08 R156)? -/
def State.inCoreSet (s : State) (cid core : Nat) : Bool := (s.launchesOf cid).any (fun l => recCovers l.snap core)

/-- The context's bank quota in a cluster (08 R169). -/
def State.quotaOf (s : State) (cid cl : Nat) : Nat :=
  ((s.launchesOf cid).filter (fun l => recPlaces l.snap cl)).foldl (fun q l => max q (recQuota l.snap)) 0

/-! ### Pools -/

/-- Slots of a table that hold a bank. -/
def CC.banks (c : CC) : Nat := (c.slots.toList.filter (fun x => x.bank?.isSome)).length

/-- Banks that a context holds in a cluster (08 R160). -/
def State.heldBanks (s : State) (cid cl : Nat) : Nat :=
  (span (cl * 8) 8).foldl (fun n k => n + (s.cc (cid * 2048 + k)).banks) 0

/-- The lowest-numbered free, scrubbed bank of the pool; a quarantined bank has left it (24 R422). -/
def ClusterSt.free (c : ClusterSt) : Option Nat :=
  (span 0 32).find? (fun b => (vget c.phys b Phys.reset).st == 0 && !c.bquar.getLsbD b)

def State.setPhys (s : State) (cl b st : Nat) : State :=
  s.upCl cl (fun c => let p := vget c.phys b Phys.reset; { c with phys := vset c.phys b { p with st := st } })

/-- A bank of the pool goes to scrubbing (08 R170). -/
def State.scrub (s : State) (cl b : Nat) : State :=
  (s.setPhys cl b 2).pushAt (s.cyc + 1024) (.bankScrubDone cl b)

/-- Is the context of a table active on its core? -/
def State.active (s : State) (cc : Nat) : Bool := (s.core (ccCore cc)).act == some (ccCid cc)

/-- A tensor instruction writes back into the table's banks in cc `cyc` (12 R243). -/
def CC.writing (c : CC) (cyc : Nat) : Bool :=
  c.sb.any (fun e => match e.body with | .ten o => o.phase == 2 && decide (cyc < o.due) | .cpy _ => false)

/-- The slot that holds a physical bank of a cluster whose context is not active there: what an eviction may take. -/
def State.evictable (s : State) (cl b : Nat) : Option (Nat × Nat) :=
  firstSome (fun x =>
    if ccCore x.1 / 8 == cl && !s.active x.1 && !x.2.writing s.cyc then
      (span 0 8).findSome? (fun n => match (x.2.slot n).bank? with
        | some k => if k.phys == some b then some (x.1, n) else none
        | none => none)
    else none) s.ccs

/-- The lowest-numbered bank that an eviction may take to make room (08 R172); a quarantined place makes none (24 R422). -/
def State.victim (s : State) (cl : Nat) : Option (Nat × Nat × Nat) :=
  firstSome (fun b => if (s.cl cl).bquar.getLsbD b then none else (s.evictable cl b).map (fun x => (b, x.1, x.2))) (span 0 32)

/-- A place of the pool is being scrubbed and will be free. -/
def ClusterSt.coming (c : ClusterSt) : Bool :=
  (span 0 32).any (fun b => (vget c.phys b Phys.reset).st == 2 && !c.bquar.getLsbD b)

/-- A slot's bank changed. -/
def State.upBank (s : State) (cc n : Nat) (f : Bank → Bank) : State :=
  s.upCC cc (fun c => { c with slots := vset c.slots n ((c.slot n).map f) })

def State.setSlot (s : State) (cc n : Nat) (x : Slot) : State := s.upCC cc (fun c => { c with slots := vset c.slots n x })

/-- Evicts the bank of a slot; its contents go to the backing area and its place is scrubbed (log 28). -/
def State.evictBank (s : State) (cc n : Nat) : State :=
  match ((s.cc cc).slot n).bank? with
  | some b => match b.phys with
    | some p => if s.active cc || (s.cc cc).writing s.cyc then s else (s.upBank cc n (fun b => { b with phys := none })).scrub (ccCore cc / 8) p
    | none => s
  | none => s

/-- Makes room in a pool with no free bank and none on its way: one eviction (08 R169). -/
def State.makeRoom (s : State) (cl : Nat) : State :=
  if (s.cl cl).free.isSome || (s.cl cl).coming then s
  else match s.victim cl with
    | some (_, cc, n) => s.evictBank cc n
    | none => s

/-- Starts the refill of a slot's bank, about 300 cc. -/
def State.refillBank (s : State) (cc n : Nat) : State :=
  match ((s.cc cc).slot n).bank? with
  | some b => if b.phys.isNone then s.pushAt (s.cyc + 300) (.bankRefillDone cc n) else s
  | none => s

/-- The slot state word (08 R157). -/
def State.slotWord (s : State) (cc n : Nat) : Word :=
  match (s.cc cc).slot n with
  | .empty => 0
  | .reserved => 4
  | x => match x.bank? with
    | none => 0
    | some b =>
      match b.phys with
      | none => BitVec.ofNat 64 (1 + if b.nxm then 8 else 0)
      | some p => BitVec.ofNat 64 (3 + (if b.nxm then 8 else 0) + 16 * p
          + 65536 * (vget (s.cl (ccCore cc / 8)).phys p Phys.reset).gen.toNat)

/-- BWAITs of a core that wait for a slot that is now filled. -/
def State.wakeBwait (s : State) (cc n : Nat) : State :=
  (span 0 4).foldl (fun s k =>
    let tk := tkOf (ccCid cc) (ccCore cc * 4 + k)
    match mfind s.ts tk with
    | some t => if t.wait == some (.bwait n) then s.push (.bwaitWake tk) else s
    | none => s) s

/-- Attaches a fresh bank of zeros to a slot. -/
def State.attach (s : State) (cc n p : Nat) (nxm : Bool) (data : List Host.Cell) : State :=
  ((s.setSlot cc n (.attached { data := data, nxm := nxm, owner := ccCid cc, phys := some p, bad := false })).setPhys
    (ccCore cc / 8) p 1).wakeBwait cc n

/-- The bank of a slot leaves its table for good (08 R161, R170). -/
def State.release (s : State) (cc n : Nat) : State :=
  match ((s.cc cc).slot n).bank? with
  | none => s.setSlot cc n .empty
  | some b =>
    let s := s.setSlot cc n .empty
    match b.phys with
    | some p => s.scrub (ccCore cc / 8) p
    | none => s

/-- No engine operation of the core touches the slot (08 R163); local accesses are performed when they issue. -/
def CC.drained (c : CC) (n : Nat) : Bool :=
  !c.sb.any (fun e => e.loc.any (fun r => decide (r.len ≠ 0) && overlap (n * 65536) 65536 r.lo r.len))

/-- An outgoing mark or a reservation is taken back (08 R168). -/
def State.unmark (s : State) (cc n : Nat) : State :=
  s.upCC cc (fun c => { c with slots := vset c.slots n (match c.slot n with | .outgoing b => .attached b | x => x) })
def State.unreserve (s : State) (cc n : Nat) : State :=
  s.upCC cc (fun c => { c with slots := vset c.slots n (match c.slot n with | .reserved => .empty | x => x) })

/-! ### Instructions -/

/-- BATT as the current instruction: attached, stalled for a bank, or BANK_QUOTA (08 R160). -/
def State.batt (s : State) (d : Reg) (n : Nat) : State :=
  let cc := ccOf s.cur
  let cl := clusterOf s.cur
  match (s.cc cc).slot n with
  | .attached _ => s.trap cQuota 2
  | .outgoing _ => s.trap cQuota 2
  | .reserved => s.trap cQuota 3
  | .empty =>
    if s.quotaOf (cidOf s.cur) cl ≤ s.heldBanks (cidOf s.cur) cl then s.trap cQuota 1
    else match (s.cl cl).free with
      | some p =>
        let s := s.attach cc n p (s.nxm s.cur) []
        ((s.putInt d (s.slotWord cc n)).soon 8 [(0, d.toNat)]).doneD 4
      | none => ((s.makeRoom cl).startWait (.batt n d)).push (.battWake s.cur)

def execBatt (d : Reg) (sl : BitVec 3) (s : State) : Out := s.notSys (.batt d sl) (.next (s.batt d sl.toNat))

/-- BDET (08 R161). -/
def execBdet (sl : BitVec 3) (s : State) : Out :=
  s.notSys (.bdet sl)
    (let cc := ccOf s.cur
     let n := sl.toNat
     match (s.cc cc).slot n with
     | .outgoing _ => s.again
     | .attached b => .next (((s.setSlot cc n (.outgoing b)).startWait (.bdet n)).push (.bdetTableStep s.cur))
     | _ => .next (s.trap cDetached (BitVec.ofNat 64 (n * 65536))))

/-- HOVER (08 R162): the status is decided at issue. -/
def execHover (d a : Reg) (t sl : BitVec 3) (s : State) : Out :=
  s.notSys (.hover d a t sl)
    (let cid := cidOf s.cur
     let cc := ccOf s.cur
     let w := s.g a
     let core := wbits w 5 8 * 8 + wbits w 2 3
     let tcc := cid * 2048 + core
     let fin (st : Word) : Out := .next ((s.putInt d st).doneD 4)
     match (s.cc cc).slot sl.toNat with
     | .attached b =>
       if wbits w 5 8 ≠ clusterOf s.cur || !s.inCoreSet cid core then fin 2
       else match (s.cc tcc).slot t.toNat with
         | .empty =>
           .next ((((s.setSlot cc sl.toNat (.outgoing b)).setSlot tcc t.toNat .reserved).startWait
             (.hover sl.toNat core t.toNat d)).push (.hoverTableStep s.cur))
         | _ => fin 1
     | _ => fin 3)

/-- BWAIT (08 R165). -/
def execBwait (sl : BitVec 3) (s : State) : Out :=
  s.notSys (.bwait sl)
    (if ((s.cc (ccOf s.cur)).slot sl.toNat).bank?.isSome then .next (s.done 4)
     else .next ((s.dropPend (fun e => e == .bwaitWake s.cur)).startWait (.bwait sl.toNat)))

/-- BQRY (08 R166). -/
def execBqry (d : Reg) (sl : BitVec 3) (s : State) : Out :=
  s.notSys (.bqry d sl) (.next ((s.putInt d (s.slotWord (ccOf s.cur) sl.toNat)).doneD 4))

/-! ### Events -/

/-- BATT_WAKE (08 R160): the stalled BATT is judged again. -/
def execBattWake (tk : Nat) (s : State) : Out :=
  match (s.t tk).wait with
  | some (.batt n d) =>
    .next (s.offSlot tk (fun s => (s.upT tk (fun t => { t with wait := none })).asTk tk (fun s => s.batt d n)))
  | _ => .next s

/-- HOVER_TABLE_STEP (08 R163): once the slot is drained, in one step the bank moves, and the HOVER completes with status 0. An
operation accepted on a bank that is not resident holds the step up too, its refill coming first (11 R223). -/
def execHoverTableStep (tk : Nat) (s : State) : Out :=
  let cc := ccOf tk
  match (s.t tk).wait with
  | some (.hover n core m d) =>
    let tcc := cidOf tk * 2048 + core
    match (s.cc cc).slot n with
    | .outgoing b =>
      if !(s.cc cc).drained n then .next s
      else
        let s := ((s.setSlot cc n .empty).setSlot tcc m (.attached b)).wakeBwait tcc m
        let s := if s.active tcc then s.refillBank tcc m else s
        .next (s.finishD tk d 0)
    | _ => .next s
  | _ => .next s

/-- BDET_TABLE_STEP (08 R161): in one step the slot empties and the bank goes to scrubbing. -/
def execBdetTableStep (tk : Nat) (s : State) : Out :=
  let cc := ccOf tk
  match (s.t tk).wait with
  | some (.bdet n) =>
    match (s.cc cc).slot n with
    | .outgoing _ =>
      if !(s.cc cc).drained n then .next s
      else .next ((s.release cc n).finish tk)
    | _ => .next s
  | _ => .next s

/-- BWAIT_WAKE (08 R165): the slot was filled, and the BWAIT completes whether or not it has been emptied since. -/
def execBwaitWake (tk : Nat) (s : State) : Out :=
  match (s.t tk).wait with
  | some (.bwait _) => .next (s.finish tk)
  | _ => .next s

/-- BANK_REFILL_DONE (08 R172): the bank stands in the lowest free place, or in that of a bank evicted for it. The spec does not
say whether that place is scrubbed first: the refill writes all of it, and the model takes it at once, its generation as it
stands (log 28). -/
def execBankRefillDone (cc slot : Nat) (s : State) : Out :=
  let cl := ccCore cc / 8
  match ((s.cc cc).slot slot).bank? with
  | none => .next s
  | some b =>
    if b.phys.isSome then .next s
    else match (s.cl cl).free with
      | some p => .next ((s.upBank cc slot (fun b => { b with phys := some p })).setPhys cl p 1)
      | none => match s.victim cl with
        | some (p, vcc, vn) =>
          .next ((s.upBank vcc vn (fun b => { b with phys := none })).upBank cc slot (fun b => { b with phys := some p }))
        | none => .next s

/-- BANK_SCRUB_DONE (08 R170): the generation counts and the bank is free. -/
def execBankScrubDone (cluster bank : Nat) (s : State) : Out :=
  if (vget (s.cl cluster).phys bank Phys.reset).st = 2 then
    .next (s.upCl cluster (fun c =>
      let p := vget c.phys bank Phys.reset
      { c with phys := vset c.phys bank { st := 0, gen := p.gen + 1 } }))
  else .next s

end Sys2Proof.Machine
end

