-- ==== Sys2Proof/Machine/Tensor.lean ====
section
/-! DEFINITION. The tensor array: MMA and MAUX, their checks, the result of 04 R84 and R85, the arbiter, and the energy
budget (12 R232-R245; 07 R149-R152). -/

namespace Sys2Proof.Machine

/-! ### Tiles (12 R236, R241, R245) -/

def TenOp.isAux (o : TenOp) : Bool := decide (7 ≤ o.fmt)

/-- K, the number of elements per row. -/
def TenOp.kk (o : TenOp) : Nat := 32 * o.n

/-- Bits of an element of A and B. -/
def TenOp.elBits (o : TenOp) : Nat := if o.fmt ≤ 1 then 16 else if o.fmt = 5 then o.k else 8

/-- Bytes of A and of B. -/
def TenOp.inBytes (o : TenOp) : Nat := if o.fmt = 5 then 32 * o.n * (4 * o.k + 1) else 4 * o.kk * o.elBits

/-- Bytes of C/D. -/
def TenOp.outBytes (o : TenOp) : Nat := if o.out16 then 2048 else 4096

/-- A tile: its local address, its bytes, whether it is narrow and whether it is written. -/
structure Tile where
  a      : Word
  bytes  : Nat
  narrow : Bool
  wr     : Bool
  deriving DecidableEq, Repr

/-- The primal tiles in the order of the checks; those that hold no bytes are left out (12 R237). -/
def TenOp.prim (o : TenOp) : List Tile :=
  let nar := decide (2 ≤ o.fmt ∧ o.fmt ≤ 5)
  let d : Tile := { a := BitVec.ofNat 64 o.dA, bytes := o.outBytes, narrow := false, wr := true }
  let src (x : Nat) : Tile := { a := BitVec.ofNat 64 x, bytes := o.inBytes, narrow := nar, wr := false }
  if o.fmt = 7 then [d]
  else if o.fmt = 8 then [{ d with a := BitVec.ofNat 64 o.aA, wr := false }, d]
  else if o.n = 0 then [d]
  else [src o.aA, src o.bA, d]

def TenOp.off (o : TenOp) (p : Nat) : Word := if p = 0 then 0 else vget o.offL (p - 1) 0

/-- All tiles: the primal ones, then each plane's images. -/
def TenOp.tiles (o : TenOp) : List Tile :=
  (0 :: planesOf o.planes.toNat).flatMap (fun p => o.prim.map (fun t => { t with a := t.a + o.off p }))

def Tile.rng (t : Tile) : Rng := { lo := t.a.toNat, len := t.bytes, wr := t.wr }

/-- The check of one tile (12 R237). -/
def CC.tileStop (c : CC) (t : Tile) : Option LocStop :=
  if t.a.toNat % 64 ≠ 0 then some (.flt cMisalign t.a)
  else if wbits t.a 19 45 ≠ 0 then some (.flt cRange t.a)
  else if (t.a.toNat + t.bytes - 1) / 65536 ≠ t.a.toNat / 65536 then some (.flt cRange t.a)
  else match c.slot (wbits t.a 16 3) with
    | .empty => some (.flt cDetached t.a)
    | .reserved => some (.flt cDetached t.a)
    | .outgoing _ => some (.stall none)
    | .attached b => if t.narrow && b.nxm != c.nxm then some (.flt cNxm t.a) else none

/-! ### Results (04 R84, R85) -/

/-- Element `j` of row `i` of an operand tile of K columns, as a value; `x` holds the tile's bytes as one number. -/
def TenOp.elem (o : TenOp) (isB : Bool) (x i j : Nat) : XR :=
  let w := o.elBits
  let c := bits x ((i * o.kk + j) * w) w
  match o.fmt with
  | 0 => BF16.dec c
  | 1 => F16.dec c
  | 2 => (E4M3 o.nxm).dec c
  | 3 => (E5M2 o.nxm).dec c
  | 4 => if isB then (E5M2 o.nxm).dec c else (E4M3 o.nxm).dec c
  | _ => bfpVal o.nxm o.k c (bits x (32 * o.kk * o.k + 8 * (i * o.n + j / 32)) 8)

/-- The exact sum of products, +0 where it is zero, with its NV flag, whatever the order of its terms. -/
def xsum (ps : List (XR × Flags)) : XR × Flags :=
  let inf (n : Bool) : Bool := ps.any (fun p => match p.1 with | .inf m => m == n | _ => false)
  let clash := inf true && inf false
  let fl : Flags := ps.foldl (fun f p => f ||| p.2) (if clash then fNV else 0)
  if clash || ps.any (fun p => p.1.isNan) then (.nan, fl)
  else (ps.foldl (fun t p => (xadd false t p.1).1) (.zero false), fl)

/-- Chunk length L (12 R235). -/
def TenOp.chunk (o : TenOp) : Nat := if decide (2 ≤ o.fmt ∧ o.fmt ≤ 4) || o.fmt == 6 then 64 else 32

/-- Where the chunks begin and how long they are; with chunk length 64 and odd n the last 32 elements are a chunk of their own
(log 15; 13 has an MMA.E4M3 of K = 32 whose products count). -/
def TenOp.chunks (o : TenOp) : List (Nat × Nat) :=
  let l := o.chunk
  (span 0 (ceilDiv o.kk l)).map (fun q => (q * l, min l (o.kk - q * l)))

/-- The chunk loop for element (i, j), going on from `acc`. -/
def TenOp.loop (o : TenOp) (a b i j : Nat) (acc : Nat × Flags) : Nat × Flags :=
  o.chunks.foldl (fun acc q =>
    let t := rnd F32 0 (xsum ((span q.1 q.2).map (fun k => xmul (o.elem false a i k) (o.elem true b j k))))
    let r := rnd F32 0 (xadd false (F32.dec acc.1) (F32.dec t.1))
    (r.1, acc.2 ||| t.2 ||| r.2)) acc

def TenOp.outFmt (o : TenOp) : Fmt := if o.out16 then BF16 else F32
def TenOp.outW (o : TenOp) : Nat := if o.out16 then 16 else 32

/-- Element (i, j) of a C tile, widened to F32. -/
def TenOp.cElem (o : TenOp) (c i j : Nat) : Nat :=
  let x := bits c ((i * 32 + j) * o.outW) o.outW
  if o.out16 then x * 65536 else x

/-- s · acc rounded to the output format. -/
def TenOp.scaled (o : TenOp) (acc : Nat × Flags) : Nat × Flags :=
  let r := rnd o.outFmt 0 (xmul (F32.dec o.scale.toNat) (F32.dec acc.1))
  (r.1, acc.2 ||| r.2)

/-- A 32 × 32 tile from its elements. -/
def tileOf (w : Nat) (f : Nat → Nat → Nat × Flags) : List Byte × Flags :=
  (span 0 32).foldl (fun (x : List Byte × Flags) i =>
    (span 0 32).foldl (fun (x : List Byte × Flags) j =>
      let r := f i j
      (x.1 ++ natLe r.1 (w / 8), x.2 ||| r.2)) x) ([], 0)

def s32 (x : Nat) : Int := if x < 2 ^ 31 then x else (x : Int) - 2 ^ 32
def s8 (x : Nat) : Int := if x < 128 then x else (x : Int) - 256

/-- MMA.S8: acc := sat(acc + t) by chunks, starting from C. -/
def TenOp.s8Elem (o : TenOp) (a b c i j : Nat) : Nat :=
  let acc := o.chunks.foldl (fun (acc : Int) q =>
    let t := (span q.1 q.2).foldl (fun (t : Int) k =>
      t + s8 (bits a ((i * o.kk + k) * 8) 8) * s8 (bits b ((j * o.kk + k) * 8) 8)) 0
    max (-(2 ^ 31)) (min (2 ^ 31 - 1) (acc + t))) (s32 (bits c ((i * 32 + j) * 32) 32))
  (acc % 2 ^ 32).toNat

/-- The tiles written and the flags raised, every tile read first; `rd` reads bytes of the local space as a number. -/
def TenOp.run (o : TenOp) (rd : Nat → Nat → Nat) : List (Nat × List Byte) × Flags :=
  let at' (x p : Nat) : Nat := (BitVec.ofNat 64 x + o.off p).toNat
  let ps := planesOf o.planes.toNat
  if o.fmt = 7 then ((0 :: ps).map (fun p => (at' o.dA p, zeros o.outBytes)), 0)
  else if o.fmt = 8 then
    ((0 :: ps).map (fun p =>
      let x := rd (at' o.aA p) o.outBytes
      (at' o.dA p, (tileOf o.outW (fun i j => (bits x ((j * 32 + i) * o.outW) o.outW, 0))).1)), 0)
  else
    let a (p : Nat) : Nat := if o.n = 0 then 0 else rd (at' o.aA p) o.inBytes
    let b (p : Nat) : Nat := if o.n = 0 then 0 else rd (at' o.bA p) o.inBytes
    let c (p : Nat) : Nat := rd (at' o.dA p) o.outBytes
    let a0 := a 0
    let b0 := b 0
    let c0 := c 0
    if o.fmt = 6 then
      ((o.dA, (tileOf 32 (fun i j => (o.s8Elem a0 b0 c0 i j, 0))).1) :: ps.map (fun p => (at' o.dA p, zeros o.outBytes)), 0)
    else
      let d := tileOf o.outW (fun i j => o.scaled (o.loop a0 b0 i j (o.cElem c0 i j, 0)))
      ps.foldl (fun r p =>
        let ap := a p
        let bp := b p
        let cp := c p
        let t := tileOf o.outW (fun i j => o.scaled (o.loop a0 bp i j (o.loop ap b0 i j (o.cElem cp i j, 0))))
        (r.1 ++ [(at' o.dA p, t.1)], r.2 ||| t.2)) ([(o.dA, d.1)], d.2)

/-! ### Times (12 R240, R241, R245) -/

def TenOp.cRead (o : TenOp) : Nat := if o.out16 then 32 else 64

/-- T_k: beats of 64 bytes of an operand's stream. -/
def TenOp.tk (o : TenOp) : Nat := if o.fmt ≤ 1 then o.kk else if o.fmt = 5 then ceilDiv (o.kk * o.k) 16 else o.kk / 2

/-- The passes of an instruction (12 R240, R241, R245): the primal pass reads A, B and C, a plane's pass dA and then A beside B
and then dB, and dC. Streams of no beats are left out; MZERO holds its lane group for one cc. -/
def TenOp.plan (o : TenOp) : List (List Stream) :=
  let slot (x p : Nat) : Nat := (BitVec.ofNat 64 x + o.off p).toNat / 65536
  let keep (ss : List Stream) : List Stream := (ss.map (fun st => st.filter (fun b => b.2 != 0))).filter (fun st => st != [])
  if o.fmt = 7 then [[[(8, 1)]]]
  else if o.fmt = 8 then [[[(slot o.aA 0, o.cRead)]]]
  else (0 :: planesOf o.planes.toNat).map (fun p =>
    if p = 0 then keep [[(slot o.aA 0, o.tk)], [(slot o.bA 0, o.tk)], [(slot o.dA 0, o.cRead)]]
    else keep [[(slot o.aA p, o.tk), (slot o.aA 0, o.tk)], [(slot o.bA 0, o.tk), (slot o.bA p, o.tk)], [(slot o.dA p, o.cRead)]])

/-- The occupancy where every stream has its bank to itself (12 R240, R241). -/
def TenOp.occupancy (o : TenOp) : Nat :=
  o.plan.foldl (fun n ss => n + (ss.map (fun st => st.foldl (fun m b => m + b.2) 0)).foldl max 0) 0

def TenOp.wbLen (o : TenOp) : Nat := o.cRead * (1 + (planesOf o.planes.toNat).length)

/-! ### Acceptance (12 R232, R237, R247; 07 R150) -/

def EngOp.ten? (e : EngOp) : Option TenOp := match e.body with | .ten o => some o | .cpy _ => none
def EngOp.cpy? (e : EngOp) : Option CopyOp := match e.body with | .cpy c => some c | .ten _ => none

/-- Tensor instructions that are still queued. -/
def CC.queued (c : CC) : List EngOp := c.sb.filter (fun e => match e.ten? with | some o => o.phase == 0 | none => false)

/-- The lowest entry not in use. -/
def CC.freeEntry (c : CC) : Nat := ((span 0 16).find? (fun n => !c.sb.any (fun e => e.entry == n))).getD 0

/-- Takes a scoreboard entry for an operation of the thread set. -/
def CC.accept (c : CC) (tk : Nat) (loc glo : List Rng) (b : OpBody) : CC :=
  { c with sb := c.sb ++ [{ id := c.nextId, entry := c.freeEntry, tk := tk, loc := loc, glo := glo, body := b }]
           nextId := c.nextId + 1 }

/-- The plane field that a list of planes stands for. -/
def planeBits (ps : List Nat) : BitVec 2 := BitVec.ofNat 2 (ps.foldl (fun a p => a + p) 0)

/-- A tensor instruction of class `cls` (07 R150), checked and pushed into the core's queue. -/
def tensor (i : Instr) (o : TenOp) (s : State) : Out :=
  s.notSys i
    (let c := s.myCC
     if 4 ≤ c.queued.length || 16 ≤ c.sb.length then s.again
     else if min (wbits (s.ctx (cidOf s.cur)).erefill 56 2) s.me.eceil < o.cls then s.illegal (BitVec.ofNat 32 i.firstWord)
     else match firstSome c.tileStop o.tiles with
       | some (.flt f v) => .next (s.trap f v)
       | some (.stall e) => (match e with | some c => s.evt s.cur c | none => s).again
       | none =>
         .next ((s.upCC (ccOf s.cur) (fun c => c.accept s.cur (o.tiles.map Tile.rng) [] (.ten o))).done 4))

/-- The captured operands of a tensor instruction of format `fmt`, minimum class `lo`. -/
def State.capture (s : State) (fmt k lo : Nat) (d a b c : Reg) (e : BitVec 2) (out16 : Bool) : TenOp :=
  { fmt := fmt, k := k, n := if fmt ≤ 6 then wbits (s.g b) 20 7 else 0
    aA := wbits (s.g a) 0 19, bA := wbits (s.g b) 0 19, dA := wbits (s.g d) 0 19
    scale := if c = 0 then 0x3F800000 else (s.g c).setWidth 32, out16 := out16, cls := max e.toNat lo
    nxm := s.nxm s.cur, planes := planeBits s.me.dual
    offL := Vector.ofFn (fun i => s.me.a.offL (i.val + 1)), phase := 0, lane := 0, passes := [], due := 0, res := [], flags := 0 }

def execMmaBf16 (d a b c : Reg) (e : BitVec 2) (o : BitVec 1) (s : State) : Out :=
  tensor (.mmaBf16 d a b c e o) (s.capture 0 0 2 d a b c e (o == 1)) s
def execMmaF16 (d a b c : Reg) (e : BitVec 2) (o : BitVec 1) (s : State) : Out :=
  tensor (.mmaF16 d a b c e o) (s.capture 1 0 2 d a b c e (o == 1)) s
def execMmaE4m3 (d a b c : Reg) (e : BitVec 2) (o : BitVec 1) (s : State) : Out :=
  tensor (.mmaE4m3 d a b c e o) (s.capture 2 0 1 d a b c e (o == 1)) s
def execMmaE5m2 (d a b c : Reg) (e : BitVec 2) (o : BitVec 1) (s : State) : Out :=
  tensor (.mmaE5m2 d a b c e o) (s.capture 3 0 1 d a b c e (o == 1)) s
def execMmaE4e5 (d a b c : Reg) (e : BitVec 2) (o : BitVec 1) (s : State) : Out :=
  tensor (.mmaE4e5 d a b c e o) (s.capture 4 0 1 d a b c e (o == 1)) s
/-- MMA.BFP: the field k holds k − 2 (03 R42). -/
def execMmaBfp (d a b c : Reg) (e : BitVec 2) (o : BitVec 1) (k : BitVec 3) (s : State) : Out :=
  tensor (.mmaBfp d a b c e o k) (s.capture 5 (k.toNat + 2) (if k.toNat + 2 ≤ 4 then 0 else 1) d a b c e (o == 1)) s
/-- MMA.S8 writes S32 and takes no scale. -/
def execMmaS8 (d a b : Reg) (e : BitVec 2) (s : State) : Out :=
  tensor (.mmaS8 d a b e) (s.capture 6 0 1 d a b 0 e false) s
def execMzero (d : Reg) (e : BitVec 2) (w : BitVec 1) (s : State) : Out :=
  tensor (.mzero d e w) (s.capture 7 0 0 d 0 0 0 e (w == 1)) s
def execMtrn (d a : Reg) (e : BitVec 2) (w : BitVec 1) (s : State) : Out :=
  tensor (.mtrn d a e w) (s.capture 8 0 0 d a 0 0 e (w == 1)) s

/-! ### Eligibility (12 R232, R249; 08 R172) -/

def rngsMeet (xs ys : List Rng) : Bool :=
  xs.any (fun x => ys.any (fun y => (x.wr || y.wr) && overlap x.lo x.len y.lo y.len))

/-- Conflict of footprints. -/
def EngOp.meets (e f : EngOp) : Bool := rngsMeet e.loc f.loc || rngsMeet e.glo f.glo

/-- Every earlier operation of the core with which it conflicts has retired. -/
def CC.clear (c : CC) (e : EngOp) : Bool := !c.sb.any (fun f => decide (f.id < e.id) && f.meets e)

/-- The banks of the footprint are resident and hold no error. -/
def CC.resident (c : CC) (e : EngOp) : Bool :=
  e.loc.all (fun r => r.len == 0 || (match (c.slot (r.lo / 65536)).bank? with
    | some b => b.phys.isSome && !b.bad
    | none => false))

/-- BAL as a signed number. -/
def Ctx.bal (c : Ctx) : Int :=
  let x := wbits c.ebudget 0 48
  if x < 2 ^ 47 then x else (x : Int) - 2 ^ 48

/-- BAL as a cluster sees it: its own debits at once, those of others as they arrive (07 R151). -/
def Ctx.balAt (c : Ctx) (cl : Nat) : Int := c.owed.foldl (fun b x => if x.1 = cl then b - x.2.1 else b) c.bal

def balBits (b : Int) : Word := BitVec.ofNat 64 ((b % 2 ^ 48).toNat)

/-- BAL after the debits that satisfy a test have reached it. -/
def Ctx.land (c : Ctx) (p : Nat → Bool) : Ctx :=
  { c with ebudget := putBits c.ebudget 0 48 (balBits (c.owed.foldl (fun b x => if p x.2.2 then b - x.2.1 else b) c.bal)).toNat
           owed := c.owed.filter (fun x => !p x.2.2) }

/-- The head of a core's queue under its active context. -/
def State.head (s : State) (core : Nat) : Option (Nat × EngOp) :=
  match (s.core core).act with
  | none => none
  | some cid =>
    let cc := cid * 2048 + core
    (leastBy EngOp.id (s.cc cc).queued).map (fun e => (cc, e))

def State.weight (s : State) (core : Nat) : Nat := wbits (s.cl (core / 8)).mshare (4 * (core % 8)) 4

/-- A head that the arbiter may bind. -/
def State.eligible (s : State) (core : Nat) : Bool :=
  match s.head core with
  | none => false
  | some (cc, e) => (s.cc cc).clear e && (s.cc cc).resident e && decide (0 < (s.ctx (ccCid cc)).balAt (core / 8))

/-- A head held at BAL ≤ 0 (23 R400). -/
def State.starved (s : State) (core : Nat) : Option EngOp :=
  match s.head core with
  | none => none
  | some (cc, e) => if (s.ctx (ccCid cc)).balAt (core / 8) ≤ 0 then some e else none

def ClusterSt.freeLane (c : ClusterSt) : Option Nat := (span 0 8).find? (fun g => (vget c.lanes g none).isNone)

/-- First core at or after the pointer with an eligible head and a weight. -/
def State.nextCore (s : State) (cl : Nat) : Option Nat :=
  ((span 0 8).map (fun i => ((s.cl cl).ptr + i) % 8)).find? (fun k =>
    s.eligible (cl * 8 + k) && decide (0 < s.weight (cl * 8 + k)))

/-- Can the arbiter bind? -/
def State.bindable (s : State) (cl : Nat) : Bool := (s.cl cl).freeLane.isSome && (s.nextCore cl).isSome

/-! ### Events -/

/-- The debit of 07 R151, in tokens. -/
def TenOp.cost (o : TenOp) (c : Ctx) : Nat :=
  wbits c.ecost (16 * o.cls) 16 * max o.n 1 * (1 + 2 * (planesOf o.planes.toNat).length)

/-- A bind in cluster `cl` is debited: BAL has it within 256 cc (07 R151). -/
def State.debit (s : State) (cl cid : Nat) (o : TenOp) : State :=
  ({ s with free := s.free + 1 }).upCtx cid (fun c =>
    { c with owed := c.owed ++ [(cl, ((o.cost c : Nat) : Int), s.cyc + Config.debitLag s.free % 257)] })

def CC.upOp (c : CC) (id : Nat) (f : EngOp → EngOp) : CC :=
  { c with sb := c.sb.map (fun e => if e.id = id then f e else e) }

/-- The streams of the pass under way, with the slot that each reads. -/
def TenOp.streams (o : TenOp) : List (Nat × Nat) :=
  match o.passes with
  | [] => []
  | ss :: _ => (span 0 ss.length).map (fun i => (i, match ss[i]? with | some ((b, _) :: _) => b | _ => 8))

/-- A stream after one beat. -/
def Stream.beat (x : Stream) : Stream :=
  match x with
  | (b, n) :: r => if n ≤ 1 then r else (b, n - 1) :: r
  | [] => []

/-- The passes after a cc in which the streams that satisfy a test had their beat. -/
def TenOp.advance (o : TenOp) (p : Nat → Bool) : TenOp :=
  match o.passes with
  | [] => o
  | ss :: r =>
    let ss := ((span 0 ss.length).filterMap (fun i => (ss[i]?).map (fun x => if p i then Stream.beat x else x))).filter (fun x => x != [])
    { o with passes := if ss = [] then r else ss :: r }

/-- The operations on a cluster's lane groups. -/
def State.laneOps (s : State) (cl : Nat) : List (Nat × Nat × Nat × TenOp) :=
  (span 0 8).filterMap (fun g => match vget (s.cl cl).lanes g none with
    | some (cc, id) => ((s.cc cc).sb.find? (fun e => e.id == id)).bind (fun e => e.ten?.map (fun o => (g, cc, id, o)))
    | none => none)

/-- One cc of a cluster's lane groups (12 R240): a bank serves one stream in a cc, the streams that share it by turns; a lane
group whose last pass has ended is free in the next cc. -/
def State.tickLanes (s : State) (cl : Nat) : State :=
  let ops := s.laneOps cl
  let use : List (Nat × Nat × Nat × Nat) := ops.flatMap (fun x => x.2.2.2.streams.map (fun y => (x.2.1, y.2, x.1, y.1)))
  let turn (cc b g i : Nat) : Bool :=
    let same := use.filter (fun u => u.1 == cc && u.2.1 == b)
    b == 8 || same[s.cyc % same.length]? == some (cc, b, g, i)
  ops.foldl (fun s x =>
    let o := x.2.2.2.advance (fun i => x.2.2.2.streams.any (fun y => y.1 == i && turn x.2.1 y.2 x.1 i))
    let s := s.upCC x.2.1 (fun c => c.upOp x.2.2.1 (fun e => { e with body := .ten o }))
    if o.passes = [] then s.pushAt (s.cyc + 1) (.mmaOccupancyEnd cl x.1) else s) s

/-- The credit and pointer after a bind of core `k` (12 R234). -/
def State.credit (s : State) (cl k : Nat) : State :=
  let c := s.cl cl
  let cred := if k ≠ c.ptr || vget c.cred k 0 = 0 then s.weight (cl * 8 + k) else vget c.cred k 0
  s.upCl cl (fun c => { c with ptr := k, cred := vset c.cred k (cred - 1) })

def State.endVisit (s : State) (cl k : Nat) : State :=
  if vget (s.cl cl).cred k 0 = 0 || !s.eligible (cl * 8 + k) then
    s.upCl cl (fun c => { c with cred := vset c.cred k 0, ptr := (k + 1) % 8 })
  else s

/-- Binds a head to a lane group: every tile is read as it stands, its passes begin, the budget is debited. -/
def State.bind (s : State) (cl g cc : Nat) (e : EngOp) (o : TenOp) : State :=
  let c := s.cc cc
  let (res, fl) := o.run (fun a n => leNat (c.locRead a n))
  let o' := { o with phase := 1, lane := g, passes := o.plan, res := res, flags := fl }
  let s := s.upCC cc (fun c => c.upOp e.id (fun e => { e with body := .ten o' }))
  let s := s.debit cl (ccCid cc) o
  let s := s.upCl cl (fun c => { c with lanes := vset c.lanes g (some (cc, e.id)) })
  s.evt e.tk 0x09

/-- TENSOR_BIND: one turn of the arbiter's loop; it is due again while another turn can bind. -/
def execTensorBind (cluster : Nat) (s : State) : Out :=
  match (s.cl cluster).freeLane, s.nextCore cluster with
  | some g, some k =>
    match s.head (cluster * 8 + k) with
    | none => .next s
    | some (cc, e) =>
      match e.ten? with
      | none => .next s
      | some o =>
        let s := ((s.credit cluster k).bind cluster g cc e o).endVisit cluster k
        .next (if s.bindable cluster then s.push (.tensorBind cluster) else s)
  | _, _ => .next s

/-- MMA_OCCUPANCY_END: the lane group is free, and D goes out on its write-back path; it retires in the cc after the write-back
(12 R240). Where the next occupancy of the lane group ends before the write-back does, the spec does not say that the second
write-back waits: the model lets the two overlap (log 81). -/
def execMmaOccupancyEnd (cluster lane : Nat) (s : State) : Out :=
  match vget (s.cl cluster).lanes lane none with
  | none => .next s
  | some (cc, id) =>
    let s := s.upCl cluster (fun c => { c with lanes := vset c.lanes lane none })
    match (s.cc cc).sb.find? (fun e => e.id == id) with
    | none => .next s
    | some e =>
      match e.ten? with
      | none => .next s
      | some o =>
        let due := s.cyc + o.wbLen
        let s := s.upCC cc (fun c =>
          (o.res.foldl (fun c r => c.locWrite r.1 (fun _ => true) r.2) c).upOp id (fun e =>
            { e with body := .ten { o with phase := 2, due := due } }))
        let s := s.pushAt due (.mmaRetire cc e.entry)
        .next (if s.bindable cluster then s.push (.tensorBind cluster) else s)

/-- The oldest operation of a core. -/
def CC.oldest (c : CC) : Option EngOp := leastBy EngOp.id c.sb

/-- Frees an entry of the scoreboard. -/
def State.freeOp (s : State) (cc id : Nat) : State := s.upCC cc (fun c => { c with sb := c.sb.filter (fun e => e.id != id) })

/-- MMA_RETIRE (12 R238, R248): in order, the entry frees and the flags reach FMODE, a pending crossing's checkpoint and what an abandoned operation goes
back to too. -/
def execMmaRetire (cc entry : Nat) (s : State) : Out :=
  match (s.cc cc).oldest with
  | none => .next s
  | some e =>
    match e.ten? with
    | none => .next s
    | some o =>
      if e.entry ≠ entry || o.phase ≠ 2 then .next s
      else
        let f (a : Arch) : Arch := { a with fmode := orFlags a.fmode o.flags }
        let s := s.upT e.tk (fun t =>
          { t with a := f t.a, undo := t.undo.map (fun (u : Arch × Word × Nat) => (f u.1, u.2))
                   spec := t.spec.map (fun c => { c with chk := f c.chk }) })
        .next (s.freeOp cc e.id)

/-- The refill of a context's balance (07 R152). -/
def Ctx.refill (c : Ctx) : Ctx :=
  let cap : Int := wbits c.erefill 24 32
  if c.bal < cap then
    { c with ebudget := BitVec.ofNat 64 (((min (c.bal + wbits c.erefill 0 24) cap) % 2 ^ 48).toNat) }
  else c

/-- The refill of the live contexts of a partition that are resident on no core: their balance stands in the descriptor. One whose line is
held is left out (24 R414; log 55). -/
def State.refillTable (s : State) (p : Nat) : State :=
  let r := s.pdesc p 0x10
  (span (wbits r 0 12) (wbits r 12 13)).foldl (fun s cid =>
    let a := s.descAt p cid
    if (s.ctx cid).res ≠ 0 || !(s.rdWord p (a + 0x38)).getLsbD 0 then s
    else
      let c := Ctx.refill { Ctx.reset with ebudget := s.rdWord p (a + 0x18), erefill := s.rdWord p (a + 0x28) }
      if c.ebudget = s.rdWord p (a + 0x18) then s else s.unlessHeld (fun s => s.wrWord p (a + 0x18) cid c.ebudget)) s

/-- Partitions that are not OFF: the contexts of a quiesced one are refilled too (07 R152). -/
def State.livePart (s : State) (p : Nat) : Bool := (s.die p).part == p && decide ((s.die p).state ≤ 3)

/-- ENERGY_REFILL: THROT is judged again, and while it holds every second refill is left out (26 R441). -/
def execEnergyRefill (s : State) : Out :=
  let w := Config.watt s.free
  let thr := decide (s.jost.plim < w.toNat)
  let s : State := { s with watt := w, free := s.free + 1, throt := thr }
  if thr && s.cyc % 2048 ≠ 0 then .next s
  else
    let s : State := { s with ctxs := s.ctxs.map (fun x => if x.2.res = 0 then x else (x.1, x.2.refill)) }
    .next ((span 0 4).foldl (fun s p => if s.livePart p then s.refillTable p else s) s)

end Sys2Proof.Machine
end

