-- ==== Sys2Proof/Machine/Copy.lean ====
section
/-! DEFINITION. The copy engine: tile command words, TCSET, TCISSUE and TCQRY, bursts, counting and retirement (12
R247-R262), and the requester's side of the peer operations (21 R387-R393). -/

namespace Sys2Proof.Machine

/-! ### Tile command words (12 R251) -/

abbrev Tcw := BitVec 256

/-- Field K of a command word. -/
def Tcw.f (x : Tcw) (k : Nat) : Nat := bits x.toNat (32 * k) 32
def Tcw.op (x : Tcw) : Nat := bits x.toNat 0 4
/-- Bytes of an element. -/
def Tcw.w (x : Tcw) : Nat := 2 ^ bits x.toNat 4 2
def Tcw.dual (x : Tcw) : Bool := x.getLsbD 6
def Tcw.nsig (x : Tcw) : Bool := x.getLsbD 7
def Tcw.prio (x : Tcw) : Nat := bits x.toNat 8 2
def Tcw.laddr (x : Tcw) : Nat := bits (x.f 1) 0 19
/-- The global address GHI · 2^32 + GLO. -/
def Tcw.gaddr (x : Tcw) : Word := BitVec.ofNat 64 (x.f 2 + bits (x.f 3) 0 23 * 2 ^ 32)
def Tcw.peer (x : Tcw) : Nat := bits (x.f 3) 23 9
def Tcw.dim0 (x : Tcw) : Nat := bits (x.f 4) 0 16
def Tcw.dim1 (x : Tcw) : Nat := bits (x.f 4) 16 16
def Tcw.gstride (x : Tcw) : Word := (BitVec.ofNat 32 (x.f 5)).signExtend 64
def Tcw.lstride (x : Tcw) : Nat := bits (x.f 6) 0 19
/-- Bytes of a row. -/
def Tcw.row (x : Tcw) : Nat := x.dim0 * x.w

def Tcw.remote (x : Tcw) : Bool := decide (5 ≤ x.op)

/-- The field rules of 12 R252 and 21 R388. -/
def Tcw.ok (x : Tcw) : Bool :=
  decide (x.f 0 < 2 ^ 10 ∧ x.f 1 < 2 ^ 19 ∧ x.f 6 < 2 ^ 19) &&
  (match x.op with
   | 0 => x.peer == 0 && x.f 7 == 0
   | 1 => x.peer == 0 && x.f 7 == 0
   | 2 => decide (x.f 2 < 2 ^ 19 ∧ x.f 5 < 2 ^ 19) && x.f 3 == 0 && x.f 7 == 0
   | 3 => x.peer == 0
   | 4 => x.f 2 == 0 && x.f 3 == 0 && x.f 5 == 0
   | 5 => x.f 7 == 0
   | 6 => x.f 7 == 0
   | 7 => decide (4 ≤ x.w) && x.dim0 == 1 && x.dim1 == 1 && x.laddr % 8 == 0 && x.f 5 == 0 && x.f 6 == 0
          && decide (x.f 7 < 10)
   | 8 => decide (4 ≤ x.w) && x.dim1 == 1 && decide (1 ≤ x.dim0 ∧ x.dim0 ≤ 128) && x.laddr % 8 == 0 && x.row % 8 == 0
          && bits (x.f 3) 0 23 == 0 && x.f 6 == 0
   | _ => false)

/-- Planes that a copy moves (12 R258); none is ILLEGAL_INSN. The peer operations RATOM and NRED have no images. -/
def TSet.copyPlanes (t : TSet) (x : Tcw) : Option (List Nat) :=
  let ps := if t.dual ≠ [] then t.dual else if x.dual then planesOf (wbits t.a.dmode 1 2) else []
  if x.dual && ps == [] then none else some (if 7 ≤ x.op then [] else ps)

/-! ### Local ranges (12 R253, R256 step 3) -/

structure LRange where
  a      : Word
  len    : Nat
  al     : Nat
  stride : Nat
  wr     : Bool
  deriving DecidableEq, Repr

/-- Length of the bounding range of rows at a stride. -/
def Tcw.bound (x : Tcw) (stride : Nat) : Nat := x.dim1 * stride + x.row - stride

/-- Destination, source and index array, in this order. -/
def Tcw.ranges (x : Tcw) : List LRange :=
  let rows (wr : Bool) : LRange :=
    { a := BitVec.ofNat 64 x.laddr, len := x.bound x.lstride, al := x.w, stride := x.lstride, wr := wr }
  match x.op with
  | 0 => [rows true]
  | 1 => [rows false]
  | 2 =>
    let st := bits (x.f 5) 0 19
    [rows true, { a := BitVec.ofNat 64 (bits (x.f 2) 0 19), len := x.bound st, al := x.w, stride := st, wr := false }]
  | 3 => [rows true, { a := BitVec.ofNat 64 (x.f 7), len := 4 * x.dim1, al := 4, stride := 0, wr := false }]
  | 4 => [rows true]
  | 5 => [rows false]
  | 6 => [rows true]
  | 7 => [{ a := BitVec.ofNat 64 x.laddr, len := 24, al := 8, stride := 0, wr := true }]
  | _ => [{ a := BitVec.ofNat 64 x.laddr, len := x.row + 8, al := 8, stride := 0, wr := true }]

/-- Ranges of a plane; the index array has no image. -/
def Tcw.planeRanges (x : Tcw) (off : Word) : List LRange :=
  (if x.op = 3 then x.ranges.take 1 else x.ranges).map (fun r => { r with a := r.a + off })

def CC.rangeStop (c : CC) (r : LRange) : Option LocStop :=
  if r.a.toNat % r.al ≠ 0 || r.stride % r.al ≠ 0 then some (.flt cMisalign r.a)
  else if wbits r.a 19 45 ≠ 0 then some (.flt cRange r.a)
  else if r.len ≠ 0 && (r.a.toNat + r.len - 1) / 65536 ≠ r.a.toNat / 65536 then some (.flt cRange r.a)
  else match c.slot (wbits r.a 16 3) with
    | .empty => some (.flt cDetached r.a)
    | .reserved => some (.flt cDetached r.a)
    | .outgoing _ => some (.stall none)
    | .attached _ => none

/-- Step 3 for one plane: the ranges, then the overlap of source or index array with the destination. -/
def CC.localStop (c : CC) (x : Tcw) (rs others : List LRange) : Option LocStop :=
  match firstSome c.rangeStop rs with
  | some r => some r
  | none =>
    match rs with
    | [] => none
    | d :: _ =>
      if decide (x.op = 2 ∨ x.op = 3) && others.any (fun r => overlap d.a.toNat d.len r.a.toNat r.len) then
        some (.flt cRange d.a)
      else none

def LRange.rng (r : LRange) : Rng := { lo := r.a.toNat, len := r.len, wr := r.wr }

/-! ### Rows (12 R252, R256 step 5) -/

/-- A part of a row at one side: row, offset in the row, place and length. -/
structure Part where
  row : Nat
  off : Nat
  len : Nat
  at' : Place
  deriving DecidableEq, Repr

/-- Cuts `n` bytes from offset `off` on so that no part is longer than `lim o`, the room at offset `o`. -/
def cuts (lim : Nat → Nat) (off n : Nat) : Nat → List (Nat × Nat)
  | 0 => []
  | f + 1 => if n = 0 then [] else
    let k := min n (max 1 (lim off))
    (off, k) :: cuts lim (off + k) (n - k) f

/-- Parts of a row by page of its address. -/
def pageCuts (ea : Word) (n : Nat) : List (Nat × Nat) :=
  cuts (fun o => 65536 - (ea + BitVec.ofNat 64 o).toNat % 65536) 0 n (n / 65536 + 2)

/-- Parts of at most 192 bytes. -/
def flatCuts (n : Nat) : List (Nat × Nat) := cuts (fun _ => 192) 0 n (n / 192 + 1)

/-- Parts of at most 192 bytes within pages: a burst of a peer operation (log 16). -/
def peerCuts (ea : Word) (n : Nat) : List (Nat × Nat) :=
  (pageCuts ea n).flatMap (fun p => (flatCuts p.2).map (fun q => (p.1 + q.1, q.2)))

/-- Parts of [pa, pa + n) by line. -/
def lineCuts (pa n : Nat) : List (Nat × Nat) := cuts (fun o => 192 - (pa + o) % 192) 0 n (n / 192 + 2)

/-- The global address of row `r`; `idx` holds the indices of a GATHER. -/
def Tcw.gRow (x : Tcw) (idx : List Nat) (off : Word) (r : Nat) : Word :=
  x.gaddr + BitVec.ofNat 64 (if x.op = 3 then idx.getD r 0 else r) * x.gstride + off

/-- Every page that the rows' bytes touch, in order: row, offset, address and length. -/
def Tcw.segs (x : Tcw) (idx : List Nat) (off : Word) : List (Nat × Nat × Word × Nat) :=
  (span 0 x.dim1).flatMap (fun r =>
    (pageCuts (x.gRow idx off r) x.row).map (fun p => (r, p.1, x.gRow idx off r + BitVec.ofNat 64 p.1, p.2)))

/-- A page part of a row with its translation, cut into lines. -/
def segParts (g : (Nat × Nat × Word × Nat) × Hit) : List Part :=
  let (r, off, _, n) := g.1
  let h := g.2
  (lineCuts h.pa n).map (fun p =>
    { row := r, off := off + p.1, len := p.2
      at' := .glo (h.pa + p.1) h.home (h.pte.getLsbD 8 && !h.pte.getLsbD 7) (wbits h.pte 10 2 == 0) })

/-- Parts of a plane where no translation is needed: local source rows, fill values, peer addresses. -/
def Tcw.flatParts (x : Tcw) (p : Nat) (offG offL : Word) : List Part :=
  (span 0 x.dim1).flatMap (fun r =>
    match x.op with
    | 2 =>
      let src := (BitVec.ofNat 64 (bits (x.f 2) 0 19 + r * bits (x.f 5) 0 19) + offL).toNat
      (flatCuts x.row).map (fun c => { row := r, off := c.1, len := c.2, at' := .loc (src + c.1) })
    | 4 =>
      let v : Word := if p = 0 then (BitVec.ofNat 32 (x.f 7)).signExtend 64 else 0
      let b (o n : Nat) : List Byte := (span o n).map (fun i => BitVec.ofNat 8 (v.toNat / 2 ^ (8 * (i % x.w))))
      (flatCuts x.row).map (fun c => { row := r, off := c.1, len := c.2, at' := .fill (b c.1 c.2) })
    | _ =>
      let ea := x.gRow [] offG r
      (peerCuts ea x.row).map (fun c =>
        { row := r, off := c.1, len := c.2, at' := .peer (ea + BitVec.ofNat 64 c.1) }))

/-- A place `k` bytes further on, for `n` bytes. -/
def Place.skip (p : Place) (k n : Nat) : Place :=
  match p with
  | .loc a => .loc (a + k)
  | .glo pa h rm part => .glo (pa + k) h rm part
  | .fill b => .fill ((b.drop k).take n)
  | .peer va => .peer (va + BitVec.ofNat 64 k)

/-- `n` bytes of a move from its byte `k` on. -/
def Piece.sub (p : Piece) (k n : Nat) : Piece := { src := p.src.skip k n, dst := p.dst.skip k n, len := n }

/-- The bytes of a part that lie in [off, off + n) of its row. -/
def Part.cut (g : Part) (row off n : Nat) : Option Part :=
  let lo := max g.off off
  let hi := min (g.off + g.len) (off + n)
  if g.row = row ∧ lo < hi then
    some { row := row, off := lo, len := hi - lo, at' := g.at'.skip (lo - g.off) (hi - lo) }
  else none

/-- A move between a part and the local row it belongs to. -/
def Tcw.piece (x : Tcw) (offL : Word) (g : Part) : Piece :=
  let l : Place := .loc ((BitVec.ofNat 64 (x.laddr + g.row * x.lstride + g.off) + offL).toNat)
  if x.op = 1 || x.op = 5 then { src := l, dst := g.at', len := g.len } else { src := g.at', dst := l, len := g.len }

/-- The bursts of a copy (12 R257): one for each primal part, with the same bytes of each image. -/
def Tcw.bursts (x : Tcw) (planes : List (Word × List Part)) : List Burst :=
  match planes with
  | [] => []
  | (_, prim) :: _ =>
    prim.map (fun g =>
      { bytes := g.len, row := g.row, st := 0, left := []
        ps := planes.flatMap (fun p => (p.2.filterMap (fun h => h.cut g.row g.off g.len)).map (x.piece p.1)) })

/-! ### Peers (21 R387) -/

/-- Destination by peer entry, or none where the entry or its port mask is not usable; 0-3 are partitions of this
package, whose 16 ports have the MAC addresses from the platform record's on (26 R435), other numbers stand for a MAC address
and a partition. -/
def State.peerOf (s : State) (p k : Nat) : Option Nat :=
  let pd := wbits (s.die p).pdesc 6 46 * 64
  let base := (s.rdWord p (pd + 0x30)).toNat
  let e := s.rdWord p (base + 16 * k)
  let m := s.rdWord p (base + 16 * k + 8)
  let mac := wbits e 0 48
  let own := decide (s.jost.mac.toNat ≤ mac ∧ mac < s.jost.mac.toNat + 16)
  let ports := (s.diesOf p).any (fun d => wbits m (4 * d) 4 ≠ 0)
  if !e.getLsbD 50 || !ports then none
  else some (if own then wbits e 48 2 else 4 * (mac + 1) + wbits e 48 2)

/-! ### TCSET, TCISSUE, TCQRY (12 R254-R260) -/

/-- TCSET writes one field (12 R255). -/
def execTcset (a : Reg) (f : BitVec 3) (t : BitVec 2) (s : State) : Out :=
  s.notSys (.tcset a f t)
    (.next ((s.upA (fun x =>
      { x with tc := vset x.tc t.toNat (putBits (vget x.tc t.toNat 0) (32 * f.toNat) 32 (wbits (s.g a) 0 32)) })).done 4))

/-- The step-5 check of a peer operation: alignment and the peer entry. -/
def State.peerStop (s : State) (x : Tcw) (g : Word) : Option (Nat × Word) :=
  if x.op ≤ 7 && (g.toNat % x.w ≠ 0 || x.gstride.toNat % x.w ≠ 0) then some (cMisalign, g)
  else if (s.peerOf (s.partOf s.cur) x.peer).isNone then some (cAccess, BitVec.ofNat 64 x.peer)
  else none

/-- What the checks of one plane give: its parts with the pages and physical ranges they use, a fault, or a stall. -/
inductive PlanePlan where
  | ok (ps : List Part) (pages : List (Nat × Nat)) (glo : List Rng)
  | flt (code : Nat) (tval : Word)
  | stall
  deriving DecidableEq, Repr

/-- Steps 3 and 5 for plane `p` (12 R256). -/
def State.copyPlane (s : State) (x : Tcw) (idx : List Nat) (p : Nat) : PlanePlan × State :=
  let a := s.me.a
  let offG : Word := if p = 0 then 0 else a.offG p
  let offL : Word := if p = 0 then 0 else a.offL p
  let rs := if p = 0 then x.ranges else x.planeRanges offL
  let others := if x.op = 3 then x.ranges.drop 1 else rs.drop 1
  match s.myCC.localStop x rs others with
  | some (.flt f v) => (.flt f v, s)
  | some (.stall _) => (.stall, s)
  | none =>
    if x.op = 2 || x.op = 4 then (.ok (x.flatParts p offG offL) [] [], s)
    else if x.remote then
      match s.peerStop x (x.gaddr + offG) with
      | some (f, v) => (.flt f v, s)
      | none =>
        (.ok (if 7 ≤ x.op then [{ row := 0, off := 0, len := x.row, at' := .peer x.gaddr }]
              else x.flatParts p offG offL) [] [], s)
    else if (x.gaddr + offG).toNat % x.w ≠ 0 || x.gstride.toNat % x.w ≠ 0 then (.flt cMisalign (x.gaddr + offG), s)
    else
      let segs := x.segs idx offG
      let wr := decide (x.op = 1)
      let ck : Checks := { kind := if wr then .store else .load, al := 1, ctr := some true, regs := false }
      match s.plan s.cur ck (segs.map (fun g => g.2.2.1)) with
      | (.ok hs, s) =>
        let gs := segs.zip hs
        (.ok (gs.flatMap segParts) (hs.map (fun h => (cidOf s.cur, h.ea.toNat / 65536)))
          (gs.map (fun g => { lo := g.2.pa, len := g.1.2.2.2, wr := wr })), s)
      | (.flt f v, s) => (.flt f v, s)
      | (_, s) => (.stall, s)

/-- The planes one after another; the first failure is the copy's. -/
def State.copyPlanes (s : State) (x : Tcw) (idx : List Nat) :
    List Nat → (List (Word × List Part) × List (Nat × Nat) × List Rng) ⊕ Option (Nat × Word) × State
  | [] => .inl ([], [], [])
  | p :: ps =>
    match s.copyPlane x idx p with
    | (.flt f v, s) => .inr (some (f, v), s)
    | (.stall, s) => .inr (none, s)
    | (.ok parts pages glo, s) =>
      match s.copyPlanes x idx ps with
      | .inl (l, pg, gl) => .inl ((if p = 0 then 0 else s.me.a.offL p, parts) :: l, pages ++ pg, glo ++ gl)
      | .inr r => .inr r

/-- The state that the planes' translations leave. -/
def State.copyXlat (s : State) (x : Tcw) (idx : List Nat) (ps : List Nat) : State :=
  ps.foldl (fun s p => (s.copyPlane x idx p).2) s

/-- Cc in which the index array of a GATHER is read, at 64 bytes per cc (12 R256 step 4). -/
def Tcw.idxTime (x : Tcw) : Nat := if x.op = 3 then (4 * x.dim1 + 63) / 64 else 0

/-- Accepts a checked copy: its entry, its bursts and its TCQRY word. -/
def State.acceptCopy (s : State) (x : Tcw) (t : Nat) (ctr : Option (Nat × Nat × Word)) (ps : List Nat)
    (parts : List (Word × List Part)) (pages : List (Nat × Nat)) (glo : List Rng) : State :=
  let a := s.me.a
  let cc := ccOf s.cur
  let c := s.cc cc
  let bs := x.bursts parts
  let bs := if x.op = 7 then bs.map (fun b => { b with bytes := 8 })
            else if x.op = 8 then bs.map (fun b => { b with bytes := x.row + 8 })
            else if bs = [] then [{ bytes := 0, row := 0, ps := [], left := [], st := 0 }] else bs
  let peer := if x.remote then (s.peerOf (s.partOf s.cur) x.peer).getD 0 else 0
  let op : CopyOp :=
    { tcw := x, ctr := ctr, planes := planeBits ps, offs := a.dtoff, chans := s.preChans s.cur, tc := t, peer := peer
      pages := pages ++ (match ctr with | some (_, _, ea) => [(cidOf s.cur, ea.toNat / 65536)] | none => [])
      bursts := bs, passed := 0, start := s.cyc + x.idxTime }
  let loc := x.ranges ++ ps.flatMap (fun p => x.planeRanges (a.offL p))
  let en := c.freeEntry
  let q : TcQ := { iss := true, ret := false, entry := en, bytes := 0, op := c.nextId }
  let s := s.upCC cc (fun c =>
    { c.accept s.cur (loc.map LRange.rng) glo (.cpy op) with tcq := vset c.tcq (tsOf s.cur * 4 + t) q })
  let s := bs.foldl (fun s _ => s.push (.copyBurstStart (clusterOf s.cur))) s
  (s.push (.copyRetire cc en)).evt s.cur 0x0B

/-- The index values of a GATHER (12 R256 step 4). -/
def State.indices (s : State) (x : Tcw) : List Nat :=
  let b := s.myCC.locRead (x.f 7) (4 * x.dim1)
  (span 0 x.dim1).map (fun r => leNat ((b.drop (4 * r)).take 4))

/-- Does an engine operation in flight still write the index array (12 R249), or can its bank not be read (08 R172; 24 R417)? -/
def State.idxBusy (s : State) (x : Tcw) : Bool :=
  x.op == 3 && ((match (s.myCC.slot (x.f 7 / 65536)).bank? with | some b => b.bad || b.phys.isNone | none => false) || s.myCC.sb.any (fun e => e.loc.any (fun r => r.wr && overlap r.lo r.len (x.f 7) (4 * x.dim1))))

/-- Steps 3 to 6 and the acceptance. The thread set issues again, and the copy starts its bursts, when the index array has been read; the
model reads it in the first of these cc (log 101). -/
def State.issueCopy (s : State) (x : Tcw) (t : Nat) (ps : List Nat) (ctr : Option (Nat × Nat × Word)) : Out :=
  let idx := if x.op = 3 && (s.myCC.localStop x x.ranges (x.ranges.drop 1)).isNone then s.indices x else []
  if idx ≠ [] && s.idxBusy x then s.again
  else match s.copyPlanes x idx (0 :: ps) with
    | .inl (parts, pages, glo) =>
      .next (((s.copyXlat x idx (0 :: ps)).acceptCopy x t ctr ps parts pages glo).retire 4 (1 + x.idxTime))
    | .inr (some (f, v), s) => .next (s.trap f v)
    | .inr (none, _) => s.again

/-- TCISSUE (12 R256). While all 16 scoreboard entries are taken it stalls before its checks (log 82). -/
def execTcissue (a : Reg) (t : BitVec 2) (s : State) : Out :=
  s.notSys (.tcissue a t)
    (let x : Tcw := vget s.me.a.tc t.toNat 0
     if 16 ≤ s.myCC.sb.length then s.again
     else match x.ok, s.me.copyPlanes x with
       | true, some ps =>
         if x.nsig then s.issueCopy x t.toNat ps none
         else match s.plan s.cur (ctrChecks .rmw) [s.g a] with
           | (.ok hs, s) => s.issueCopy x t.toNat ps (hs.head?.map (fun h => (h.pa, h.home, h.ea)))
           | (.flt f v, s) => .next (s.trap f v)
           | (.held, _) => s.again
           | (.void pa, _) => .fault (.noStorage pa)
       | _, _ => s.illegal (BitVec.ofNat 32 (Instr.tcissue a t).firstWord))

/-- The word of TCQRY (12 R260). -/
def TcQ.word (q : TcQ) : Word :=
  BitVec.ofNat 64 ((if q.iss then 1 else 0) + (if q.ret then 2 else 0)
    + (if q.iss && !q.ret then 16 * q.entry else 0) + 65536 * (q.bytes % 2 ^ 36))

def execTcqry (d : Reg) (t : BitVec 2) (s : State) : Out :=
  s.notSys (.tcqry d t)
    (.next ((s.putInt d (vget s.myCC.tcq (tsOf s.cur * 4 + t.toNat) TcQ.reset).word).doneD 4))

/-! ### Bursts (12 R257, R259) -/

/-- A burst that has started and is not performed. -/
def Burst.flies (b : Burst) : Bool := b.st == 1 || b.st == 5 || b.st == 6

def CopyOp.outstanding (c : CopyOp) : Nat := (c.bursts.filter Burst.flies).length
def CopyOp.nextBurst (c : CopyOp) : Option Nat := findAt (fun (b : Burst) => b.st == 0) c.bursts 0

/-- An access in flight of the thread set to bytes of the copy, which the copy waits for (11 R220). -/
def State.accessing (s : State) (e : EngOp) : Bool :=
  s.inFlight (fun v => match evReq v with
    | some r => r.who == e.tk && e.glo.any (fun g => overlap g.lo g.len r.pa r.len)
    | none => false)

/-- Requests in flight of a pair of source and destination partition. -/
def State.flights (s : State) (p dst : Nat) : Nat :=
  ((s.part p).flying.filter (fun n => n.dst == dst && n.part == p)).length

/-- May the next burst of a peer operation go out: room among the pair's requests, and for an RATOM every earlier RPUT
burst of the thread set to that partition performed (21 R389, R390)? -/
def State.peerReady (s : State) (cc : Nat) (e : EngOp) (c : CopyOp) : Bool :=
  !Tcw.remote c.tcw ||
  (decide (s.flights (s.partOf e.tk) c.peer < 128) &&
   (Tcw.op c.tcw != 7 || !(s.cc cc).sb.any (fun f => match f.cpy? with
      | some d => decide (f.id < e.id) && f.tk == e.tk && d.peer == c.peer && Tcw.op d.tcw == 5
          && d.bursts.any (fun b => decide (b.st < 2))
      | none => false)))

/-- Is a line held that the rest of the burst touches, or does an error stand in a bank that it touches (24 R414, R417)? -/
def State.burstHeld (s : State) (cc : Nat) (b : Burst) : Bool :=
  let on (p : Place) : Bool := match p with
    | .glo pa h _ _ => s.heldLine h pa
    | .loc a => (match ((s.cc cc).slot (a / 65536)).bank? with | some k => k.bad | none => false)
    | _ => false
  b.left.any (fun p => on p.src || on p.dst)

/-- Do two moves write a common byte? -/
def Piece.hits (p q : Piece) : Bool :=
  match p.dst, q.dst with
  | .loc a, .loc b => overlap a p.len b q.len
  | .glo a h _ _, .glo b g _ _ => h == g && overlap a p.len b q.len
  | _, _ => false

/-- Does an earlier burst of the copy, not performed yet, write a byte of this one (12 R252)? -/
def CopyOp.rowBehind (c : CopyOp) (i : Nat) (b : Burst) : Bool :=
  (c.bursts.take i).any (fun x => x.flies && x.ps.any (fun p => b.ps.any p.hits))

/-- Copies of a cluster with a burst that may start. -/
def State.startable (s : State) (cl : Nat) : List (Nat × EngOp × CopyOp) :=
  s.ccs.flatMap (fun x =>
    if ccCore x.1 / 8 == cl && s.active x.1 then
      x.2.sb.filterMap (fun e => match e.cpy? with
        | some c =>
          if c.nextBurst.isSome && decide (c.start ≤ s.cyc) && decide (c.outstanding < 16) && x.2.clear e && x.2.resident e && !s.accessing e
              && s.peerReady x.1 e c then some (x.1, e, c) else none
        | none => none)
    else [])

/-- Place of an operation in the round-robin order. -/
def opKey (cc id : Nat) : Nat := cc * 2 ^ 40 + id

def CopyOp.prio (c : CopyOp) : Nat := Tcw.prio c.tcw

/-- The PRIO that is served: the lowest one of which an operation has been passed 15 times, else the highest (12 R259). -/
def servedPrio (l : List (Nat × EngOp × CopyOp)) : Nat :=
  let ps := l.map (fun x => x.2.2.prio)
  let late := (l.filter (fun x => decide (15 ≤ x.2.2.passed))).map (fun x => x.2.2.prio)
  let top := ps.foldl max 0
  late.foldl min top

/-- The operation whose burst starts next (12 R259): among those of the served PRIO one that has been passed 15 times goes
first, then round-robin. -/
def State.pickCopy (s : State) (cl : Nat) : Option (Nat × EngOp × CopyOp) :=
  let l := s.startable cl
  let p := servedPrio l
  let l := l.filter (fun x => x.2.2.prio == p)
  let late := l.filter (fun x => decide (15 ≤ x.2.2.passed))
  let l := if late = [] then l else late
  let after := l.filter (fun x => decide (vget (s.cl cl).lastOp p 0 < opKey x.1 x.2.1.id))
  leastBy (fun x => opKey x.1 x.2.1.id) (if after = [] then l else after)

def CopyOp.setBurst (c : CopyOp) (i st : Nat) : CopyOp :=
  match c.bursts[i]? with
  | some b => { c with bursts := setAt c.bursts i { b with st := st } }
  | none => c

/-- Starts a burst: all of its bytes are still to be moved, those of one that a pre-emption discarded again (12 R261). -/
def CopyOp.startBurst (c : CopyOp) (i : Nat) : CopyOp :=
  match c.bursts[i]? with
  | some b => { c with passed := 0, bursts := setAt c.bursts i { b with st := 1, left := b.ps } }
  | none => c

/-- What is left of a burst. -/
def CopyOp.setLeft (c : CopyOp) (i : Nat) (l : List Piece) : CopyOp :=
  match c.bursts[i]? with
  | some b => { c with bursts := setAt c.bursts i { b with left := l } }
  | none => c

def State.upCopy (s : State) (cc id : Nat) (f : CopyOp → CopyOp) : State :=
  s.upCC cc (fun c => c.upOp id (fun e => match e.body with
    | .cpy o => { e with body := .cpy (f o) }
    | .ten _ => e))

/-- The operation that holds a scoreboard entry. -/
def State.copyAt (s : State) (cc entry : Nat) : Option (EngOp × CopyOp) :=
  match (s.cc cc).sb.find? (fun e => e.entry == entry) with
  | some e => e.cpy?.map (fun c => (e, c))
  | none => none

/-- The request of a burst that is performed is no longer in flight. -/
def State.flown (s : State) (cc entry i : Nat) : State :=
  { s with parts := s.parts.map (fun x =>
      (x.1, { x.2 with flying := x.2.flying.filter (fun n => !(n.cc == cc && n.entry == entry && n.burst == i)) })) }

/-- A burst is performed: its bytes show in TCQRY, and its addition follows unless NSIG is set. -/
def State.performedBurst (s : State) (cc : Nat) (e : EngOp) (c : CopyOp) (i : Nat) : State :=
  let s := if Tcw.remote c.tcw then s.flown cc e.entry i else s
  let n := match c.bursts[i]? with | some b => b.bytes | none => 0
  let s := s.upCC cc (fun k =>
    let j := tsOf e.tk * 4 + c.tc
    let q := vget k.tcq j TcQ.reset
    if q.op = e.id then { k with tcq := vset k.tcq j { q with bytes := q.bytes + n } } else k)
  if c.ctr.isNone then s.upCopy cc e.id (fun c => c.setBurst i 3)
  else (s.upCopy cc e.id (fun c => c.setBurst i 2)).push (.copyBurstComplete cc e.entry i)

/-- Bytes that a peer's reply brings to a local address. -/
def landPiece (a : Nat) (bs : List Byte) : List Piece := if bs = [] then [] else [{ src := .fill bs, dst := .loc a, len := bs.length }]

/-- An NRED's data, where the answer carries data, and its status word (21 R393). -/
def Tcw.nredPieces (x : Tcw) (data : List Byte) (st recvd : Nat) : List Piece :=
  landPiece x.laddr data ++ landPiece (x.laddr + x.row) (natLe (st + recvd * 2 ^ 32) 8)

/-- The pieces of a reply land in the banks, at 128 bytes per cc (12 R259): state 5 where the request was performed, 6 where it was
refused. A reply without pieces performs or fails the burst. -/
def State.landBurst (s : State) (cc : Nat) (e : EngOp) (c : CopyOp) (i st : Nat) (l : List Piece) : State :=
  if l = [] then (if st = 5 then s.performedBurst cc e c i else s.upCopy cc e.id (fun c => c.setBurst i 4))
  else (s.upCopy cc e.id (fun c => (c.setBurst i st).setLeft i l)).push (.copyBurstComplete cc e.entry i)

/-- The peer address of a move and, for an RPUT, the bytes that it carries. -/
def State.peerSide (s : State) (cc : Nat) (p : Piece) : BitVec 64 × Nat × List Byte :=
  match p.src, p.dst with
  | .peer v, _ => (v, p.len, [])
  | .loc a, .peer v => (v, p.len, (s.cc cc).locRead a p.len)
  | _, _ => (0, p.len, [])

/-- The one request of a burst, its tangent images with it (21 R388, R389). -/
def State.netReq (s : State) (cc : Nat) (e : EngOp) (c : CopyOp) (b : Nat) (ps : List Piece) : NetReq :=
  let x : Tcw := c.tcw
  let rd (a n : Nat) : List Byte := (s.cc cc).locRead a n
  let sides := ps.map (s.peerSide cc)
  let (va, len, data) := sides.head?.getD (x.gaddr, 0, [])
  let base : NetReq :=
    { part := s.partOf e.tk, dst := c.peer, seq := 0, op := x.op, va := va, len := len, data := data, imgs := sides.drop 1
      aux := 0, cmp := 0, wide := false, tag := 0, count := 0, dead := 0, recvd := 0, nstat := 0, tk := e.tk, cc := cc
      entry := e.entry, burst := b, sends := 1, status := 0 }
  match x.op with
  | 7 => { base with data := rd x.laddr x.w, cmp := leWord (rd (x.laddr + 8) 8), wide := x.w == 8
                     aux := BitVec.ofNat 32 (x.f 7) }
  | 8 => { base with data := rd x.laddr x.row, wide := x.w == 8, tag := x.f 2, count := x.f 7
                     dead := (if x.f 5 = 0 then 65536 else x.f 5) * 1024 }
  | _ => base

/-- Bytes that a request carries. -/
def netBytes (n : NetReq) : Nat := n.imgs.foldl (fun k x => k + x.2.2.length) n.data.length

/-- A request goes into the mesh, 128 bytes per cc, and is on its way when the last of them has gone (12 R259). -/
def State.sendNet (s : State) (n : NetReq) : State :=
  let s := s.upCl (clusterOf n.tk) (fun k => { k with sent := k.sent + netBytes n })
  s.pushAt (s.cyc + ((s.cl (clusterOf n.tk)).sent - 1) / 128) (.transportRequest n)

/-- Sends the request of a burst; one that a pre-emption discarded keeps its sequence number (21 R389). -/
def State.sendPeer (s : State) (cc : Nat) (e : EngOp) (c : CopyOp) (b : Nat) : State :=
  let part := s.partOf e.tk
  let x : Tcw := c.tcw
  let ps := match c.bursts[b]? with | some k => k.ps | none => []
  if x.op = 8 && x.f 7 ≤ 1 then
    s.landBurst cc e c b 5 (x.nredPieces [] (if x.f 7 = 0 then 1 else 0) (x.f 7))
  else if ps = [] then s.performedBurst cc e c b
  else
    match (s.part part).flying.find? (fun n => n.cc == cc && n.entry == e.entry && n.burst == b) with
    | some n => s.sendNet n
    | none =>
      let seq := mget (s.part part).sent c.peer 0
      let n := { s.netReq cc e c b ps with seq := seq }
      let s := s.upPart part (fun q => { q with sent := mset q.sent c.peer ((seq + 1) % 2 ^ 32), flying := q.flying ++ [n] })
      (s.sendNet n).pushAt (s.cyc + 65536) (.transportRetransmit part c.peer seq)

/-- COPY_BURST_START: the engine starts the next burst of the operation it serves, passing those of lower PRIO (12 R259). -/
def execCopyBurstStart (cluster : Nat) (s : State) : Out :=
  match s.pickCopy cluster with
  | none => .next s
  | some (cc, e, c) =>
    match c.nextBurst with
    | none => .next s
    | some i =>
      let low := (s.startable cluster).filter (fun x => decide (x.2.2.prio < c.prio))
      let s := low.foldl (fun s x => s.upCopy x.1 x.2.1.id (fun c => { c with passed := c.passed + 1 })) s
      let s := s.upCl cluster (fun k => { k with lastOp := vset k.lastOp c.prio (opKey cc e.id) })
      let s := s.upCopy cc e.id (fun c => c.startBurst i)
      if Tcw.remote c.tcw then .next (s.sendPeer cc e (c.startBurst i) i)
      else .next (s.push (.copyBurstComplete cc e.entry i))

/-- A request of a copy to a home slice, for its bookkeeping there. -/
def State.copyReq (_ : State) (e : EngOp) (c : CopyOp) (pa home n : Nat) : Req :=
  { who := e.tk, agent := .copy, cid := cidOf e.tk, kind := .store, pa := pa, home := home, p00 := false, len := n, data := 0
    mask := BitVec.allOnes 64, cmp := 0, va := 0, dst := .none, acq := false, rel := false, fill := false, rm := false
    die := dieOf e.tk, spec := none, chans := c.chans, own := 0, lanes := [], iss := 0, pl := 0, drain := false }

/-- Moves the bytes of one piece. -/
def State.movePiece (s : State) (cc : Nat) (e : EngOp) (c : CopyOp) (p : Piece) : State :=
  let (bs, s) : List Byte × State := match p.src with
    | .loc a => ((s.cc cc).locRead a p.len, s)
    | .fill b => (b, s)
    | .glo pa home rm _ =>
      let s := s.noteReq (s.copyReq e c pa home p.len) home pa p.len false
      if rm && dieOf e.tk != dieOfRouter home then s.repRead (dieOf e.tk) home pa p.len else s.homeRead home pa p.len
    | .peer _ => ([], s)
  match p.dst with
  | .loc a => s.upCC cc (fun c => c.locWrite a (fun _ => true) bs)
  | .glo pa home _ _ => s.wrReq (s.copyReq e c pa home p.len) (List.replicate p.len true) bs
  | _ => s

/-- The addition of a burst to the copy's counter (12 R257): one that would pass 2^64 − 1 leaves 2^64 − 1 and sets OVF; it
aborts no crossing (14 R285). -/
def State.countBurst (s : State) (cc : Nat) (e : EngOp) (c : CopyOp) (n : Nat) : State :=
  match c.ctr with
  | none => s
  | some (pa, home, _) =>
    let r := s.copyReq e c pa home 8
    let (ok, s) := (s.noteReq r home pa 8 true).ctrAdd home pa n (cidOf e.tk) true
    if ok then s else s.upCC cc (fun k => { k with ovf := true })

/-- Does a move land in a bank, and does it go into the mesh (12 R259)? -/
def Piece.lands (p : Piece) : Bool := match p.dst with | .loc _ => true | _ => false
def Piece.leaves (p : Piece) : Bool := match p.dst with | .glo .. => true | _ => false

/-- Bytes that the cluster's engine may still move for such a piece in this cc (12 R259). -/
def ClusterSt.room (k : ClusterSt) (p : Piece) : Nat := if p.lands then 128 - k.landed else if p.leaves then 128 - k.sent else 128

/-- How many bytes of a piece go in one step: any number that the limits of 12 R259 leave (log 29; 11 R231). -/
def State.beat (s : State) (cl : Nat) (p : Piece) : Nat :=
  min p.len (max 1 (min ((s.cl cl).room p) (Config.beat s.free)))

/-- COPY_BURST_COMPLETE: some bytes are performed, the rest at later steps; when all are, the burst is performed, and in one
more step the counter is added. -/
def execCopyBurstComplete (cc entry burst : Nat) (s : State) : Out :=
  match s.copyAt cc entry with
  | none => .next s
  | some (e, c) =>
    match c.bursts[burst]? with
    | none => .next s
    | some b =>
      match b.st with
      | 0 => .next s
      | 2 => .next ((s.countBurst cc e c b.bytes).upCopy cc e.id (fun c => c.setBurst burst 3))
      | 3 => .next s
      | 4 => .next s
      | st =>
        let fin (s : State) : State := if st = 6 then s.upCopy cc e.id (fun c => c.setBurst burst 4) else s.performedBurst cc e c burst
        match b.left with
        | [] => .next (fin s)
        | p :: r =>
          let cl := clusterOf e.tk
          let k := s.beat cl p
          let left := if k = p.len then r else p.sub k (p.len - k) :: r
          let s := ({ s with free := s.free + 1 }).movePiece cc e c (p.sub 0 k)
          let s := s.upCl cl (fun x => { x with landed := if p.lands then x.landed + k else x.landed
                                                sent := if p.leaves then x.sent + k else x.sent })
          let s := s.upCopy cc e.id (fun c => c.setLeft burst left)
          .next (if left = [] then fin s else s.push (.copyBurstComplete cc entry burst))

/-- May the copy retire: it is the oldest, and every burst is counted or has failed? -/
def State.copyDone (s : State) (cc entry : Nat) : Bool :=
  match (s.cc cc).oldest with
  | some e => e.entry == entry && (match e.cpy? with | some c => c.bursts.all (fun b => b.st == 3 || b.st == 4) | none => false)
  | none => false

/-- COPY_RETIRE (12 R248). -/
def execCopyRetire (cc entry : Nat) (s : State) : Out :=
  if s.copyDone cc entry then
    match s.copyAt cc entry with
    | none => .next s
    | some (e, c) =>
      .next ((s.freeOp cc e.id).upCC cc (fun k =>
        let j := tsOf e.tk * 4 + c.tc
        let q := vget k.tcq j TcQ.reset
        if q.op = e.id then { k with tcq := vset k.tcq j { q with ret := true } } else k))
  else .next s

end Sys2Proof.Machine
end

