-- ==== Sys2Proof/Machine/Control.lean ====
section
/-! DEFINITION. The control words: the map, their fields, and CRD, CWR, CSETB and CCLRB (02 R30-R38; 05 R110-R112; 00
R7). -/

namespace Sys2Proof.Machine

/-- What privilege 0 may do with a word, and its RW, W1C and RO bits; the rest is RSV. -/
structure CwRow where
  user : Nat          -- 0 nothing, 1 CRD, 2 all four
  rw   : Word
  w1c  : Word
  ro   : Word
  deriving DecidableEq, Repr

def lowBits (n : Nat) : Word := BitVec.ofNat 64 (2 ^ n - 1)

/-- A word with RW bits only. -/
def rwRow (u : Nat) (rw : Word) : Option CwRow := some { user := u, rw := rw, w1c := 0, ro := 0 }
def roRow (u : Nat) (ro : Word) : Option CwRow := some { user := u, rw := 0, w1c := 0, ro := ro }

/-- The map of 02 R30; none is an index that it does not assign. -/
def cwRow (ix : Nat) : Option CwRow :=
  match ix with
  | 0x000 => some { user := 1, rw := 4, w1c := 0, ro := 0x3FB }
  | 0x001 => rwRow 0 0xFF
  | 0x002 => rwRow 0 (~~~3)
  | 0x003 => rwRow 0 (lowBits 64)
  | 0x004 => rwRow 0 (lowBits 64)
  | 0x005 => rwRow 0 0x3BF
  | 0x006 => roRow 1 0x1FFF
  | 0x007 => roRow 1 0x3FFF
  | 0x008 => rwRow 1 (lowBits 64)
  | 0x009 => rwRow 1 (lowBits 48)
  | 0x010 => some { user := 2, rw := 0xFF, w1c := 0, ro := 0x100 }
  | 0x011 => rwRow 2 (lowBits 64)
  | 0x012 => rwRow 2 1
  | 0x020 => some { user := 2, rw := 0xF, w1c := 0, ro := 0x10 }
  | 0x021 => rwRow 2 (lowBits 64)
  | 0x022 => rwRow 2 (lowBits 64)
  | 0x023 => rwRow 2 (lowBits 64)
  | 0x024 => rwRow 2 (lowBits 64)
  | 0x030 => rwRow 2 (~~~3)
  | 0x031 => rwRow 2 (~~~3)
  | 0x032 => rwRow 2 (lowBits 32)
  | 0x033 => rwRow 2 (~~~3)
  | 0x034 => rwRow 2 (~~~3)
  | 0x035 => rwRow 2 (lowBits 32)
  | 0x036 => rwRow 2 3
  | 0x040 => rwRow 1 (lowBits 48)
  | 0x041 => rwRow 1 (lowBits 64)
  | 0x042 => rwRow 1 (lowBits 58)
  | 0x050 => roRow 1 0xFFFFFF3F
  | 0x051 => rwRow 1 (lowBits 64)
  | 0x060 => roRow 1 0xFFFFFFFFFFFF1F3F
  | 0x061 => rwRow 1 0x7F
  | 0x062 => rwRow 2 0x7FF
  | 0x063 => roRow 1 (lowBits 64)
  | 0x064 => roRow 1 (lowBits 64)
  | 0x090 => some { user := 1, rw := 0, w1c := 0x80000000, ro := 0x1F070FFFFF1F }
  | 0x120 => some { user := 2, rw := 0, w1c := 0xFF, ro := 0 }
  | 0x121 => rwRow 2 0x7F
  | _ =>
    if 0x080 ≤ ix ∧ ix ≤ 0x087 then roRow 1 (lowBits 64)
    else if 0x100 ≤ ix ∧ ix ≤ 0x107 then rwRow 2 (lowBits 48)
    else if 0x110 ≤ ix ∧ ix ≤ 0x117 then rwRow 2 0x7FF
    else none

/-- Is a value of the RW fields of a word one that its fields admit? -/
def cwValid (ix : Nat) (v : Word) : Bool :=
  match ix with
  | 0x004 => decide (wbits v 0 2 ≤ 1)
  | 0x005 => wbits v 0 2 != 2
  | 0x009 => wbits v 0 48 != 0
  | 0x010 => decide (wbits v 0 3 ≤ 5)
  | 0x011 => v != 0
  | 0x020 => !(v.getLsbD 0 && wbits v 1 2 == 0)
  | 0x061 => decide (wbits v 0 7 ≤ 64)
  | 0x062 => decide (wbits v 5 6 ≤ 49)
  | _ => if 0x110 ≤ ix ∧ ix ≤ 0x117 then decide (wbits v 0 8 ≤ 0x19) else true

/-! ### Views -/

/-- Hold-buffer entries of a thread set. -/
def State.heldCount (s : State) (tk : Nat) : Nat := ((s.core (coreOf tk)).hold.filter (fun h => h.r.who == tk)).length

/-- RESST (10 R196): the tile of the core, with the counts of the context on it. -/
def CoreSt.resst (c : CoreSt) (k : CC) : Word :=
  let used := (c.tile.toList.filter Option.isSome).length
  let old := if used = 0 then 0 else (oldestRes c.tile).getD 0
  BitVec.ofNat 64 (used + old * 2 ^ 8 + k.refused.toNat * 2 ^ 16 + k.forced.toNat * 2 ^ 48)

/-- RESTAG. -/
def State.restag (s : State) (tk : Nat) : Word :=
  match vget (s.core (coreOf tk)).tile (wbits (s.t tk).residx 0 5) none with
  | none => 0
  | some e =>
    BitVec.ofNat 64 (1 + redOp e.r * 2 + e.r.own.toNat * 2 ^ 4 + e.r.pa / 192 % 2 ^ 45 * 2 ^ 8
      + min ((s.cyc - e.born) / 2) 2047 * 2 ^ 53)

/-- RESDAT. -/
def State.resdat (s : State) (tk : Nat) : Word :=
  match vget (s.core (coreOf tk)).tile (wbits (s.t tk).residx 0 5) none with
  | none => 0
  | some e =>
    let dw := wbits (s.t tk).residx 5 6
    let x (i : Nat) : Nat := (mget e.r.lanes i 0).toNat
    let on (lo n : Nat) : Nat := (span 0 n).foldl (fun a i => if (mfind e.r.lanes (lo + i)).isSome then a + 2 ^ i else a) 0
    if dw = 48 then BitVec.ofNat 64 (on 0 64)
    else if dw = 49 then BitVec.ofNat 64 (on 64 32)
    else if redOp e.r = 3 then BitVec.ofNat 64 (x dw)
    else BitVec.ofNat 64 (x (2 * dw) % 2 ^ 32 + x (2 * dw + 1) % 2 ^ 32 * 2 ^ 32)

/-- SBST (12 R250). After a pre-emption more operations can be waiting to be bound than the queue has entries; TQ is then 4. -/
def CC.sbst (c : CC) : Word :=
  let old := match c.oldest with | some e => e.entry | none => 0
  let valid := c.sb.foldl (fun a e => a + 2 ^ e.entry) 0
  let copies := (c.sb.filter (fun e => e.cpy?.isSome)).length
  BitVec.ofNat 64 (c.sb.length + valid * 2 ^ 8 + old * 2 ^ 24 + (if c.ovf then 2 ^ 31 else 0) + min 4 c.queued.length * 2 ^ 32
    + copies * 2 ^ 40)

/-- EBUDGET as a cluster sees it (07 R151). -/
def Ctx.ebudgetAt (c : Ctx) (cl : Nat) : Word := putBits c.ebudget 0 48 (balBits (c.balAt cl)).toNat

/-- The value of a control word at issue. A system core has no core words but NXMC, no cluster index and no CID: there
the value is free (log 17). -/
def State.cwGet (s : State) (tk ix : Nat) : Word :=
  let t := s.t tk
  let c := s.ctx (ctxKey tk)
  let core := s.core (coreOf tk)
  let sys (w : Word) : Word := if isSys tk then Config.sysWord ix tk else w
  match ix with
  | 0x000 => t.a.status
  | 0x001 => t.cause
  | 0x002 => t.epc
  | 0x003 => t.tval
  | 0x004 => c.tvec
  | 0x005 => t.escr
  | 0x006 => if isSys tk then Config.sysWord ix tk &&& 0x1FFF else BitVec.ofNat 64 (posOf tk)
  | 0x007 => putBits (if isSys tk then Config.sysWord ix tk &&& 0xFFF else BitVec.ofNat 64 (cidOf tk)) 12 2 (s.partOf tk)
  | 0x008 => t.cycle
  | 0x009 => t.wlimit
  | 0x010 => putBits t.a.fmode 8 1 (if s.nxm tk then 1 else 0)
  | 0x011 => t.a.srseed
  | 0x012 => boolW (s.nxm tk)
  | 0x020 => t.a.dmode
  | 0x021 => vget t.a.dtoff 0 0
  | 0x022 => vget t.a.dtoff 1 0
  | 0x023 => vget t.a.dtoff 2 0
  | 0x024 => vget t.a.dtoff 3 0
  | 0x030 => vget t.a.ls 0 0
  | 0x031 => vget t.a.le 0 0
  | 0x032 => vget t.a.lc 0 0
  | 0x033 => vget t.a.ls 1 0
  | 0x034 => vget t.a.le 1 0
  | 0x035 => vget t.a.lc 1 0
  | 0x036 => t.a.lstat
  | 0x040 => c.ebudgetAt (clusterOf tk)
  | 0x041 => c.ecost
  | 0x042 => c.erefill
  | 0x050 => putBits t.specst 8 8 (s.heldCount tk)
  | 0x051 => t.speccnt
  | 0x060 => sys (core.resst (s.cc (ccOf tk)))
  | 0x061 => c.resq
  | 0x062 => t.residx
  | 0x063 => sys (s.restag tk)
  | 0x064 => sys (s.resdat tk)
  | 0x090 => sys (s.cc (ccOf tk)).sbst
  | 0x120 => t.pmovf
  | 0x121 => t.pmctl
  | _ =>
    if 0x080 ≤ ix ∧ ix ≤ 0x087 then sys (s.slotWord (ccOf tk) (ix - 0x080))
    else if 0x100 ≤ ix ∧ ix ≤ 0x107 then vget t.pmc (ix - 0x100) 0
    else vget t.pmsel (ix - 0x110) 0

/-! ### Writes -/

/-- How a word is written: CWR, CSETB or CCLRB. -/
inductive CwOp where
  | wr | setb | clrb
  deriving DecidableEq, Repr

/-- The value that a write gives every bit, W1C bits as 05 R110 states. -/
def cwWritten (o : CwOp) (w1c old v : Word) : Word :=
  match o with
  | .wr => v
  | .setb => ((old ||| v) &&& ~~~w1c) ||| (v &&& w1c)
  | .clrb => (old &&& ~~~v) &&& ~~~w1c

/-- The word after a write of `v`: RW bits take it, W1C bits written as 1 clear, RO bits stay. -/
def cwMerge (r : CwRow) (old v : Word) : Word := (old &&& r.ro) ||| (v &&& r.rw) ||| (old &&& r.w1c &&& ~~~v)

/-- Does a write of the value pass 00 R7: a field to write, no RSV bit, no reserved encoding? -/
def cwPass (ix : Nat) (r : CwRow) (v : Word) : Bool :=
  (r.rw ||| r.w1c) != 0 && v &&& ~~~(r.rw ||| r.w1c ||| r.ro) == 0 && cwValid ix v

/-- Retags every bank attached to the core (02 R36). -/
def CC.retag (c : CC) (nxm : Bool) : CC :=
  { c with nxm := nxm, slots := c.slots.map (Slot.map (fun b => { b with nxm := nxm })) }

/-- A word of a PMC, PMSEL, PMOVF or PMCTL, or CYCLE or SPECCNT: its write follows the counting of the cc (23 R401). -/
def isPmw (ix : Nat) : Bool := ix == 0x008 || ix == 0x051 || decide (0x100 ≤ ix ∧ ix ≤ 0x121)

def CwOp.code : CwOp → Nat
  | .wr => 0 | .setb => 1 | .clrb => 2

/-- Sets a per-thread-set word of the counters. -/
def TSet.putPm (t : TSet) (ix : Nat) (w : Word) : TSet :=
  match ix with
  | 0x008 => { t with cycle := w }
  | 0x051 => { t with speccnt := w }
  | 0x120 => { t with pmovf := w }
  | 0x121 => { t with pmctl := w }
  | _ => if ix ≤ 0x107 then { t with pmc := vset t.pmc (ix - 0x100) w } else { t with pmsel := vset t.pmsel (ix - 0x110) w }

/-- A write of EBUDGET in a cluster: its debits so far are in the value that it replaces, others' are still to come (log 6). -/
def Ctx.putBudget (c : Ctx) (cl : Nat) (w : Word) : Ctx := { c with ebudget := w, owed := c.owed.filter (fun x => x.1 != cl) }

/-- Puts the new value of a word where the word is held. A context's word has one copy: its other cores see a write of TVEC,
RESQ or a budget word at once, where the spec allows 256 cc (log 6). -/
def State.cwPut (s : State) (ix : Nat) (w : Word) : State :=
  let up (f : TSet → TSet) : State := s.upMe f
  let upA (f : Arch → Arch) : State := s.upA f
  let upC (f : Ctx → Ctx) : State := s.upCtx (ctxKey s.cur) f
  match ix with
  | 0x000 => upA (fun a => { a with status := w })
  | 0x001 => up (fun t => { t with cause := w })
  | 0x002 => up (fun t => { t with epc := w })
  | 0x003 => up (fun t => { t with tval := w })
  | 0x004 => upC (fun c => { c with tvec := w })
  | 0x005 => up (fun t => { t with escr := w })
  | 0x009 => up (fun t => { t with wlimit := w })
  | 0x010 => upA (fun a => { a with fmode := w &&& 0xFF })
  | 0x011 => upA (fun a => { a with srseed := w })
  | 0x020 => upA (fun a => { a with dmode := w })
  | 0x021 => upA (fun a => { a with dtoff := vset a.dtoff 0 w })
  | 0x022 => upA (fun a => { a with dtoff := vset a.dtoff 1 w })
  | 0x023 => upA (fun a => { a with dtoff := vset a.dtoff 2 w })
  | 0x024 => upA (fun a => { a with dtoff := vset a.dtoff 3 w })
  | 0x030 => upA (fun a => { a with ls := vset a.ls 0 w })
  | 0x031 => upA (fun a => { a with le := vset a.le 0 w })
  | 0x032 => upA (fun a => { a with lc := vset a.lc 0 w })
  | 0x033 => upA (fun a => { a with ls := vset a.ls 1 w })
  | 0x034 => upA (fun a => { a with le := vset a.le 1 w })
  | 0x035 => upA (fun a => { a with lc := vset a.lc 1 w })
  | 0x036 => upA (fun a => { a with lstat := w })
  | 0x040 => upC (fun c => c.putBudget (clusterOf s.cur) w)
  | 0x041 => upC (fun c => { c with ecost := w })
  | 0x042 => upC (fun c => { c with erefill := w })
  | 0x061 => upC (fun c => { c with resq := w })
  | 0x062 => up (fun t => { t with residx := w })
  | 0x090 => s.upCC (ccOf s.cur) (fun c => { c with ovf := w.getLsbD 31 })
  | _ => s

/-- Flags that are still to be delivered to FMODE: a tensor instruction of the thread set, or a long operation (02 R32). -/
def State.flagsPending (s : State) (tk : Nat) : Bool :=
  (s.cc (ccOf tk)).sb.any (fun e => e.tk == tk && e.ten?.isSome) ||
  (match (s.t tk).undo with | some (_, _, due) => decide (s.cyc < due) | none => false)

/-- The engine operations that a write of NXMC waits for were accepted before this one (02 R36). -/
def State.nxmBound (s : State) : Nat := match s.me.nxmTo with | some x => x.1 | none => (s.cc (ccOf s.cur)).nextId

/-- Do engine operations before a bound still run on a core? -/
def CC.runsBefore (c : CC) (n : Nat) : Bool := c.sb.any (fun e => decide (e.id < n))

/-- What a write of a word waits for. -/
def State.cwWaits (s : State) (ix : Nat) : Bool :=
  (ix == 0x010 && s.flagsPending s.cur) || (ix == 0x012 && (s.cc (ccOf s.cur)).runsBefore s.nxmBound)

/-- The writing instruction waits, and keeps the bound. -/
def State.cwWait (s : State) (ix : Nat) (o : CwOp) (v : Word) : Out :=
  (if ix = 0x012 then s.upMe (fun t => { t with nxmTo := some (s.nxmBound, o.code, v) }) else s).again

def CwOp.ofCode (k : Nat) : CwOp := if k = 0 then .wr else if k = 1 then .setb else .clrb

/-- A write of NXMC on a core. -/
def CC.nxmPut (c : CC) (o : CwOp) (v : Word) : CC := c.retag ((cwWritten o 0 (boolW c.nxm) v).getLsbD 0)

/-- A waiting write of NXMC that can complete now, by the thread set. -/
def State.nxmDue (s : State) (q : Nat) : Option (CwOp × Word) :=
  match (s.t q).nxmTo with
  | some (b, k, v) => if (s.cc (ccOf q)).runsBefore b then none else some (CwOp.ofCode k, v)
  | none => none

/-- The current thread set's write of NXMC, with those of its siblings that complete in the same cc, in thread-set order (02
R33). -/
def State.nxmWrite (s : State) (o : CwOp) (v : Word) : State :=
  (span 0 4).foldl (fun s k =>
    let q := s.cur / 4 * 4 + k
    if q = s.cur then s.upCC (ccOf q) (fun c => c.nxmPut o v)
    else match s.nxmDue q with
      | some (o', v') => (s.upCC (ccOf q) (fun c => c.nxmPut o' v')).asTk q (fun s => s.done 4)
      | none => s) s

/-- The word of an instruction from its encoding (03 R42). -/
def asmW (fixed : Nat) (fs : List (Nat × Nat)) : BitVec 32 := BitVec.ofNat 32 (asm fixed fs)

/-- CWR, CSETB and CCLRB: index, privilege, value (02 R31), then the write in one step. -/
def cwWrite (w : BitVec 32) (o : CwOp) (a : Reg) (x : BitVec 10) (s : State) : Out :=
  let ix := x.toNat
  match cwRow ix with
  | none => s.illegal w
  | some r =>
    if s.me.priv = 0 && r.user ≠ 2 then s.privFault w
    else
      let old := s.cwGet s.cur ix
      let v := cwWritten o r.w1c old (s.g a)
      if !cwPass ix r v then s.illegal w
      else if s.cwWaits ix then s.cwWait ix o (s.g a)
      else if ix = 0x012 then .next ((s.nxmWrite o (s.g a)).done 4)
      else if isPmw ix then
        .next ((s.upMe (fun t => { t with pmw := t.pmw ++ [(ix, o.code, s.g a)] })).done 4)
      else .next ((s.cwPut ix (cwMerge r old v)).done 4)

/-- CRD (05 R110): the value at issue; zero in the named planes. -/
def execCrd (d : Reg) (x : BitVec 10) (s : State) : Out :=
  let w := asmW 0xD8000000 [(d.toNat, 21), (x.toNat, 0)]
  match cwRow x.toNat with
  | none => s.illegal w
  | some r =>
    if s.me.priv = 0 && r.user = 0 then s.privFault w
    else if x.toNat = 0x010 && s.flagsPending s.cur then s.again
    else .next ((s.putInt d (s.cwGet s.cur x.toNat)).doneD 4)

def execCwr (a : Reg) (x : BitVec 10) (s : State) : Out := cwWrite (asmW 0xDC000000 [(a.toNat, 16), (x.toNat, 0)]) .wr a x s
def execCsetb (a : Reg) (x : BitVec 10) (s : State) : Out := cwWrite (asmW 0xE0000000 [(a.toNat, 16), (x.toNat, 0)]) .setb a x s
def execCclrb (a : Reg) (x : BitVec 10) (s : State) : Out := cwWrite (asmW 0xE4000000 [(a.toNat, 16), (x.toNat, 0)]) .clrb a x s

/-- A deferred write of a counter word applied to its value as it then stands. -/
def TSet.applyPm (t : TSet) (w : Nat × Nat × Word) : TSet :=
  let (ix, k, v) := w
  let old : Word := match ix with
    | 0x008 => t.cycle
    | 0x051 => t.speccnt
    | 0x120 => t.pmovf
    | 0x121 => t.pmctl
    | _ => if ix ≤ 0x107 then vget t.pmc (ix - 0x100) 0 else vget t.pmsel (ix - 0x110) 0
  match cwRow ix with
  | none => t
  | some r => t.putPm ix (cwMerge r old (cwWritten (CwOp.ofCode k) r.w1c old v))

end Sys2Proof.Machine
end

