-- ==== Sys2Proof/Machine/Images.lean ====
section
/-! DEFINITION. The records of a core's image that hold its engines and ports (20 R360). The rule gives their places and sizes;
which of their bits holds what is the model's own choice (log 30). -/

namespace Sys2Proof.Machine

/-- Bytes padded with zero to a length. -/
def padTo (n : Nat) (bs : List Byte) : List Byte := bs ++ zeros (n - bs.length)

/-- Numbers in fields of given widths, the first one lowest. -/
def packN : List (Nat × Nat) → Nat
  | [] => 0
  | (w, x) :: l => x % 2 ^ w + 2 ^ w * packN l

/-- The fields of given widths. -/
def unpackN (x : Nat) : List Nat → List Nat
  | [] => []
  | w :: l => x % 2 ^ w :: unpackN (x / 2 ^ w) l

def boolN (b : Bool) : Nat := if b then 1 else 0

/-! ### The tensor queue (12 R243) -/

/-- What is captured of a tensor instruction. -/
def TenOp.fields (o : TenOp) : List (Nat × Nat) :=
  [(4, o.fmt), (4, o.k), (7, o.n), (19, o.aA), (19, o.bA), (19, o.dA), (32, o.scale.toNat), (1, boolN o.out16), (2, o.cls), (1, boolN o.nxm),
   (2, o.planes.toNat), (64, (vget o.offL 0 0).toNat), (64, (vget o.offL 1 0).toNat)]

def TenOp.image (o : TenOp) : List Byte := natLe (packN o.fields) 64

/-- The instruction as a record gives it. -/
def TenOp.ofImage (o : TenOp) (x : Nat) : TenOp :=
  match unpackN x (o.fields.map Prod.fst) with
  | [fmt, k, n, aA, bA, dA, scale, out16, cls, nxm, planes, off1, off2] =>
    { o with fmt := min fmt 8, k := k, n := n, aA := aA, bA := bA, dA := dA, scale := BitVec.ofNat 32 scale, out16 := out16 == 1, cls := cls
             nxm := nxm == 1, planes := BitVec.ofNat 2 planes, offL := #v[BitVec.ofNat 64 off1, BitVec.ofNat 64 off2] }
  | _ => o

/-! ### Copies (12 R261) -/

/-- A burst that has completed or failed. -/
def Burst.ended (b : Burst) : Bool := decide (2 ≤ b.st ∧ b.st ≤ 4)

/-- The first burst that has not, and the map of the 16 after it. -/
def CopyOp.first (c : CopyOp) : Nat := (c.bursts.takeWhile Burst.ended).length
def CopyOp.after16 (c : CopyOp) : Nat :=
  packN (((c.bursts.drop (c.first + 1)).take 16).map (fun b => (1, boolN b.ended)))

/-- Captured TCW, offsets and progress of a copy. Its index values, which 128 bytes do not take for every DIM1, stand in the places of its
bursts. -/
def CopyOp.fields (c : CopyOp) : List (Nat × Nat) :=
  [(256, c.tcw.toNat), (64, (vget c.offs 0 0).toNat), (64, (vget c.offs 1 0).toNat), (64, (vget c.offs 2 0).toNat), (64, (vget c.offs 3 0).toNat),
   (32, c.first), (16, c.after16)]

def CopyOp.image (c : CopyOp) : List Byte := natLe (packN c.fields) 128

/-- A burst as the progress gives it: completed, or to be done. -/
def Burst.setEnded (b : Burst) (e : Bool) : Burst :=
  if e then (if b.ended then b else { b with st := 3 }) else if b.ended then { b with st := 0 } else b

/-- The copy as a record gives it. -/
def CopyOp.ofImage (c : CopyOp) (x : Nat) : CopyOp :=
  match unpackN x (c.fields.map Prod.fst) with
  | [tcw, o1, o2, o3, o4, first, map] =>
    { c with tcw := BitVec.ofNat 256 tcw, offs := #v[BitVec.ofNat 64 o1, BitVec.ofNat 64 o2, BitVec.ofNat 64 o3, BitVec.ofNat 64 o4]
             bursts := ((span 0 c.bursts.length).zip c.bursts).map (fun y =>
               y.2.setEnded (decide (y.1 < first) || (decide (first < y.1 ∧ y.1 ≤ first + 16) && map.testBit (y.1 - first - 1)))) }
  | _ => c

/-! ### Ports (18 R323) -/

def SendPort.image (p : SendPort) : List Byte :=
  natLe (packN [(1, boolN p.isOpen), (1, boolN p.torn), (1, boolN p.paused), (64, p.dst.toNat), (32, p.credits), (64, p.clk)]) 32

def RecvPort.image (p : RecvPort) : List Byte :=
  let (on, src, port) : Nat × Nat × Nat := match p.bound with | some (c, k, _) => (1, c, k) | none => (0, 0, 0)
  natLe (packN [(1, boolN p.conf), (20, p.base), (20, p.size), (48, p.tail.toNat), (48, p.free.toNat), (48, p.seen.toNat), (1, on), (23, src),
    (2, port), (1, boolN p.paused), (1, boolN p.torn), (1, boolN p.furl), (13, p.src.toNat),
    (2, match p.nxm with | none => 0 | some b => 1 + boolN b)]) 32

/-! ### A core's records -/

/-- A core's image from +0x9000 on: NXMC and SBST, the tensor queue, the copies and the ports; the rest is zero. -/
def CC.imageTail (c : CC) : List Byte :=
  padTo 0x100 (wordLe (boolW c.nxm) 8 ++ wordLe c.sbst 8)
    ++ padTo 0x300 ((c.queued.take 4).flatMap (fun e => match e.ten? with | some o => o.image | none => []))
    ++ padTo 0xC00 ((c.sb.filterMap EngOp.cpy?).flatMap CopyOp.image)
    ++ padTo 0x6000 (c.send.toList.flatMap SendPort.image ++ c.recv.toList.flatMap RecvPort.image)

/-- The operations as the bytes from +0x9100 on give them, `q` queued instructions and `r` copies being read. Ports go on while their
context is away, since flits still land and credits arrive (18 R322, R323), and are not read back. -/
def opsOf (x : Nat) : Nat → Nat → List EngOp → List EngOp
  | _, _, [] => []
  | q, r, e :: l =>
    match e.body with
    | .ten o =>
      if o.phase = 0 then
        let o := o.ofImage (bits x (512 * q) 512)
        { e with body := .ten o, loc := o.tiles.map Tile.rng } :: opsOf x (q + 1) r l
      else e :: opsOf x q r l
    | .cpy c => { e with body := .cpy (c.ofImage (bits x (8 * 0x300 + 1024 * r) 1024)) } :: opsOf x q (r + 1) l

/-- Bursts of a table that have not started. -/
def toStart (l : List EngOp) : Nat :=
  l.foldl (fun n e => match e.cpy? with | some c => n + (c.bursts.filter (fun b => b.st == 0)).length | none => n) 0

/-- The engines' operations come back from the image; a burst that it sets back starts once more. -/
def State.getOps (s : State) (cc x : Nat) : State :=
  let l := opsOf x 0 0 (s.cc cc).sb
  let n := toStart l - toStart (s.cc cc).sb
  let s := s.upCC cc (fun c => { c with sb := l })
  (span 0 n).foldl (fun s _ => s.push (.copyBurstStart (ccCore cc / 8))) s

end Sys2Proof.Machine
end

