-- ==== Sys2Proof/Machine/Barriers.lean ====
section
/-! DEFINITION. Barrier channels, votes, pennant records and speculative crossing (14 R268-R290), and where a domain stop
holds a member (23 R410). -/

namespace Sys2Proof.Machine

/-! ### Channels -/

/-- The channel that a context's handle names (14 R268): of two running launches that grant the same handle, the model takes the first in
its list (log 95; DESIGN CHOICE). -/
def State.chanOf (s : State) (cid h : Nat) : Option Nat :=
  (s.chans.find? (fun c => match c.2.grant with | some (k, _, g) => k == cid && g == h | none => false)).map Prod.fst

/-- Is bit 4·core + ts of a position's cluster set in a bitmap? -/
def posBit (m : AMap (BitVec 32)) (pos : Nat) : Bool := (mget m (pos / 32) 0).getLsbD (pos % 32)

def setPosBit (m : AMap (BitVec 32)) (pos : Nat) : AMap (BitVec 32) :=
  mset m (pos / 32) (mget m (pos / 32) 0 ||| BitVec.ofNat 32 (2 ^ (pos % 32)))

def clearPosBit (m : AMap (BitVec 32)) (pos : Nat) : AMap (BitVec 32) :=
  mset m (pos / 32) (mget m (pos / 32) 0 &&& ~~~(BitVec.ofNat 32 (2 ^ (pos % 32))))

/-- Positions of a bitmap, rising. -/
def positions (m : AMap (BitVec 32)) : List Nat :=
  m.flatMap (fun x => (span 0 32).filterMap (fun i => if x.2.getLsbD i then some (x.1 * 32 + i) else none))

/-- Identity of a vote operation (14 R276): 0 AND, 1 OR, 2 MAX, 3 SUM. -/
def voteId (op : Nat) : BitVec 32 := if op = 0 then 0xFFFF else 0

def voteJoin (op : Nat) (a v : BitVec 32) : BitVec 32 :=
  match op with
  | 0 => a &&& v
  | 1 => a ||| v
  | 2 => if a < v then v else a
  | _ => a + v

/-- Every current member has arrived. -/
def ChanSt.full (c : ChanSt) : Bool := (positions c.mem).all (fun p => posBit c.arr p) && positions c.mem != []

/-! ### Barrier states of a position (14 R273) -/

def Arch.upBar (a : Arch) (h : Nat) (f : BarSt → BarSt) : Arch := { a with bar := vset a.bar h (f (vget a.bar h BarSt.reset)) }

/-- Changes a handle's state at a position: in the thread set and its checkpoint, or in the image of a context that is
not resident there (20 R360). -/
def State.upBarAt (s : State) (tk h : Nat) (f : BarSt → BarSt) : State :=
  match mfind s.ts tk with
  | some _ => s.upT tk (fun t =>
      { t with a := t.a.upBar h f, spec := t.spec.map (fun c => { c with chk := c.chk.upBar h f }) })
  | none =>
    match s.imageIn (cidOf tk) (coreOf tk) with
    | none => s
    | some im =>
      let p := (s.ctx (cidOf tk)).part
      let a := im + 0x2000 * tsOf tk + 0x1CC0 + 16 * h
      let x := leNat (s.rd00 p a 16)
      let b : BarSt := { st := bits x 0 2, noSpec := x.testBit 2, latched := BitVec.ofNat 32 (bits x 64 32) }
      s.wr00 p a (cidOf tk) (barBytes (f b))

/-! ### Completion (14 R271, R279, R284; 23 R407, R410) -/

/-- The pennant record of a completion that raises S to `st` (14 R280). -/
def ChanSt.pennant (c : ChanSt) (st : BitVec 32) : List Byte :=
  let early := c.first.getD 0
  let spn := min (c.last - early) (2 ^ 32 - 1)
  natLe early 8 ++ natLe (c.who + spn * 2 ^ 32) 8 ++ natLe (min c.sum (2 ^ 64 - 1)) 8
    ++ natLe (st.toNat + c.n % 2 ^ 14 * 2 ^ 32 + c.op * 2 ^ 46) 8

/-- Can hardware write at an address of a context: it translates, and its page holds no counters (10 R197)? -/
def State.hwCanStore (s : State) (cid d : Nat) (va : Word) : Bool :=
  match (s.xlatHw cid d va .store 1).1 with
  | some (_, _, pte) => !pte.getLsbD 7
  | none => false

/-- Writes the record where the ring is enabled and its address can be written. -/
def State.pennantOut (s : State) (c : ChanSt) (cid : Nat) (st : BitVec 32) : State :=
  let base := c.ring &&& ~~~(0x1F : Word)
  if base = 0 then s
  else
    let k := (st.toNat + 2 ^ 32 - 1) % 2 ^ 32 % 2 ^ wbits c.ring 0 5
    let d := dieOfRouter ((positions c.mem).headD 0 / 32)
    let va := base + BitVec.ofNat 64 (32 * k)
    if s.hwCanStore cid d va then (s.hwWrite cid d va (c.pennant st)).getD s else s

/-- The record of kind 0 of a member whose context is streamed out, by TRSTP and pc in its image (23 R399, R407). -/
def State.imageStep (s : State) (tk h : Nat) (res st : BitVec 32) : State :=
  let p := (s.ctx (cidOf tk)).part
  match s.imageIn (cidOf tk) (coreOf tk) with
  | none => s
  | some im =>
    if (s.rdWord p (im + 0x8000 + 0x200 * tsOf tk + 0xB0)).getLsbD 3 then
      s.trace tk 0 st (tcbOf (leNat (s.rd00 p (im + 0x2000 * tsOf tk) 8192))).pc (BitVec.ofNat 64 (res.toNat + h * 2 ^ 32))
    else s

/-- A member learns of the completion: its state is done with the result, NOSPEC clears, a wait for it ends, a crossing
of it commits. -/
def State.tellMember (s : State) (ch h tk : Nat) (res st : BitVec 32) : State :=
  let s := s.upBarAt tk h (fun _ => { st := 2, latched := res, noSpec := false })
  match mfind s.ts tk with
  | none => s.imageStep tk h res st
  | some t =>
    let s := if t.pmctl.getLsbD 3 then s.trace tk 0 st t.pc (BitVec.ofNat 64 (res.toNat + h * 2 ^ 32)) else s
    match t.spec with
    | some c => if c.chan = ch then s.push (.specCommit tk) else s
    | none =>
      match t.wait with
      | some (.barw g _) => if g = h then s.push (.barwWake tk) else s
      | some (.barr g) => if g = h then s.push (.barwWake tk) else s
      | _ => s

/-- The completion of a channel, in one step. -/
def State.complete (s : State) (ch : Nat) : State :=
  let c := s.chan ch
  match c.grant with
  | none => s
  | some (cid, _, h) =>
    let st := c.s + 1
    let s := s.pennantOut c cid st
    let took := positions c.mem
    let stay := took.filter (fun p => !c.leaving.contains p)
    let named := match c.armAt with | some a => decide (a < s.cyc) && c.stopS.isNone | none => false
    let c' : ChanSt :=
      { c with s := st, vote := voteId c.op, arr := [], mem := c.leaving.foldl clearPosBit c.mem, leaving := []
               first := none, last := 0, who := 0, sum := 0, n := 0
               stopS := if named then some st else c.stopS, mems := if named then stay else c.mems }
    let s := s.upChan ch (fun _ => c')
    let s : State := { s with slices := s.slices.map (fun x =>
      (x.1, { x.2 with marks := x.2.marks.filter (fun m => !(m.chan == ch && m.gen == c.s)) })) }
    let s := took.foldl (fun s p => s.tellMember ch h (tkOf cid p) c.vote st) s
    if named then s.push (.domainStopLand ch) else s

/-- BARRIER_ARRIVAL (14 R274): the release has been performed; the arrival is registered and its vote combined. -/
def execBarrierArrival (v : Arrival) (s : State) : Out :=
  let pos := posOf v.tk
  let c := s.chan v.chan
  let mine := match c.grant with | some (cid, _, h) => cid == cidOf v.tk && h == v.hdl | none => false
  if !mine || !posBit c.mem pos || posBit c.arr pos then .next s
  else
    let early := c.first.getD s.cyc
    let s := s.upChan v.chan (fun c =>
      { c with arr := setPosBit c.arr pos, vote := voteJoin c.op c.vote (BitVec.ofNat 32 v.vote), first := some early
               last := s.cyc, who := if c.last = s.cyc && c.n ≠ 0 then max c.who pos else pos
               sum := c.sum + (s.cyc - early), n := c.n + 1
               leaving := if v.leave then pos :: c.leaving else c.leaving })
    .next (if (s.chan v.chan).full then s.complete v.chan else s)

/-! ### Instructions (14 R272-R277) -/

/-- The checks of 14 R268 and R273, then `k` with the channel. -/
def State.barCheck (s : State) (i : Instr) (h : Nat) (member : Bool) (k : Nat → Out) : Out :=
  s.notSys i (match s.chanOf (cidOf s.cur) h with
    | none => s.illegal (BitVec.ofNat 32 i.firstWord)
    | some ch =>
      if member && !posBit (s.chan ch).mem (posOf s.cur) then s.illegal (BitVec.ofNat 32 i.firstWord) else k ch)

def State.myBar (s : State) (h : Nat) : BarSt := vget s.me.a.bar h BarSt.reset

/-- An arrival: the state is waiting, residual entries are sent, and the arrival goes out behind the release. -/
def State.arrive (s : State) (ch h vote : Nat) (leave : Bool) : Out :=
  if (s.myBar h).st = 1 then .next (s.startWait (.barr h))
  else
    let s := (s.upA (fun a => a.upBar h (fun b => { b with st := 1 }))).relStep s.cur 4
    let s := s.push (.barrierArrival { tk := s.cur, chan := ch, hdl := h, vote := vote, leave := leave })
    .next (s.done 4)

/-- BARR (14 R274). -/
def execBarr (a : Reg) (h : BitVec 3) (s : State) : Out :=
  s.barCheck (.barr a h) h.toNat true (fun ch => s.arrive ch h.toNat (wbits (s.g a) 0 16) false)

/-- BARL: the identity as its vote, and the member leaves at the completion. -/
def execBarl (h : BitVec 3) (s : State) : Out :=
  s.barCheck (.barl h) h.toNat true (fun ch => s.arrive ch h.toNat (voteId (s.chan ch).op).toNat true)

/-- A member of a stopped completion is held once its BARW completes (23 R410). -/
def State.holdMember (s : State) (tk h : Nat) : State :=
  match s.chanOf (cidOf tk) h with
  | none => s
  | some ch =>
    if (s.chan ch).stopS.isSome && (s.chan ch).mems.contains (posOf tk) then
      ((s.upChan ch (fun c => { c with held := posOf tk :: c.held })).upT tk (fun t => { t with after := none })).push (.domainStopLand ch)
    else s

/-- Does a channel hold the thread set at a domain stop? -/
def State.isHeld (s : State) (tk : Nat) : Bool :=
  s.chans.any (fun c => match c.2.grant with | some (cid, _, _) => cid == cidOf tk && c.2.held.contains (posOf tk) | none => false)

/-- BARW delivers the latched result to the current instruction's destination. -/
def State.barwDone (s : State) (h : Nat) (d : Reg) : State :=
  let b := s.myBar h
  let s := (s.putInt d (b.latched.setWidth 64)).upA (fun a => a.upBar h (fun b => { b with st := 0 }))
  ((s.upMe (fun t => { t with wait := none })).doneD 4).acquire s.cur |>.holdMember s.cur h

/-- BARW: it waits while its superstep is not complete (14 R275). -/
def State.barw (s : State) (h : Nat) (d : Reg) : Out :=
  if (s.myBar h).st = 1 then .next (s.startWait (.barw h d)) else .next (s.barwDone h d)

def execBarw (d : Reg) (h : BitVec 3) (s : State) : Out :=
  s.barCheck (.barw d h) h.toNat true (fun _ => s.barw h.toNat d)

/-- The register of a pending BARWS: until it resolves, what names it stalls, but for g0 (14 R281). -/
def crossDst (d : Reg) : Dst := if d = 0 then .none else .g d 0 3

/-- A crossing begins (14 R281): checkpoint in 2 cc, SPEC and ACT set, the next instruction issues. -/
def State.cross (s : State) (ch h : Nat) (d : Reg) : State :=
  let c : Crossing := { chk := s.me.a, pc := s.me.pc, d := d, h := h, chan := ch, gen := (s.chan ch).s }
  let s := s.upMe (fun t =>
    ({ t with a := { t.a with status := putBits t.a.status 6 1 1 }, spec := some c, busy := dstBusy (crossDst d) ++ t.busy
              specst := putBits (putBits t.specst 1 5 h) 0 1 1
              speccnt := putBits t.speccnt 32 32 (wbits t.speccnt 32 32 + 1) }).ev 0x0F)
  s.retire 4 1

/-- BARWS (14 R281). -/
def execBarws (d : Reg) (h : BitVec 3) (s : State) : Out :=
  s.barCheck (.barws d h) h.toNat true (fun ch =>
    let b := s.myBar h.toNat
    if b.st = 1 && !b.noSpec && !s.me.specOn then .next (s.cross ch h.toNat d) else s.barw h.toNat d)

/-- BARQ (14 R277). -/
def execBarq (d : Reg) (q : BitVec 1) (h : BitVec 3) (s : State) : Out :=
  s.barCheck (.barq d q h) h.toNat false (fun ch =>
    let c := s.chan ch
    let m := mget (if q = 0 then c.mem else c.arr) (clusterOf s.cur) 0
    .next ((s.putInt d (BitVec.ofNat 64 (m.toNat + c.s.toNat * 2 ^ 32))).doneD 4))

/-! ### Events -/

/-- BARW_WAKE: a BARW or BARWS that waits completes; a BARR or BARL that waits issues again. -/
def execBarwWake (tk : Nat) (s : State) : Out :=
  match (s.t tk).wait with
  | some (.barw h d) =>
    if (vget (s.t tk).a.bar h BarSt.reset).st = 2 then .next (s.offSlot tk (fun s => s.asTk tk (fun s => s.barwDone h d))) else .next s
  | some (.barr h) =>
    if (vget (s.t tk).a.bar h BarSt.reset).st = 2 then
      .next (s.upT tk (fun t => { t with wait := none, readyAt := s.cyc }))
    else .next s
  | _ => .next s

/-- Do entries share a VST.G? -/
def Held.tied (a b : Held) : Bool := a.ties.any (fun k => b.ties.contains k)

/-- Adds to a group the entries that are tied to one of it; a line has four sectors, so that three rounds reach all. -/
def tieGroup (l : List Held) (g : List Held) : Nat → List Held
  | 0 => g
  | f + 1 => tieGroup l (l.filter (fun h => g.contains h || g.any (fun x => x.tied h))) f

/-- One access with the bytes of a group of entries, which lie in one line part: the lowest one's, and the others by address. -/
def joinHeld (h : Held) (g : List Held) : Req :=
  match leastBy (fun x => x.r.pa) g with
  | none => h.r
  | some b =>
    let rest := g.filter (fun x => x != b)
    let bytes := rest.flatMap (fun x => (span 0 x.r.len).filterMap (fun i =>
      if x.r.mask.getLsbD i then some (x.r.pa + i, (x.r.data.extractLsb' (8 * i) 8).setWidth 64) else none))
    { b.r with len := rest.foldl (fun n x => max n (x.r.pa + x.r.len - b.r.pa)) b.r.len, lanes := bytes }

/-- The accesses that entries become, in their order: a group goes in the place of its first (06 R128); `f` bounds them. -/
def drainList (l : List Held) : Nat → List (Req × List Held)
  | 0 => []
  | f + 1 =>
    match l with
    | [] => []
    | h :: t =>
      let g := tieGroup (h :: t) [h] 3
      if g.length ≤ 1 then (h.r, [h]) :: drainList t f
      else (joinHeld h g, g) :: drainList (t.filter (fun x => !g.contains x)) f

/-- The held stores of a thread set, performed as if issued now, in the order of their entries and before the stores that follow
(14 R287 step 4). -/
def State.drainHeld (s : State) (tk : Nat) : State :=
  let hs := (s.core (coreOf tk)).hold.filter (fun h => h.r.who == tk)
  let s := s.upCore (coreOf tk) (fun k => { k with hold := k.hold.filter (fun h => h.r.who != tk) })
  let l := hs.filter (fun h => h.r.mask != 0)
  (drainList l l.length).foldl (fun s x =>
    let s := s.dropL1 (coreOf tk) (x.2.flatMap (fun h => maskSectors h.r.pa h.r.len h.r.mask))
    let s := if x.2.any Held.rel then s.relStep tk 4 else s
    s.push (.homeStoreApply { x.1 with chans := s.preChans tk, drain := true })) s

/-- Loads of a crossing that commits are ordinary loads. -/
def settleLoads (tk : Nat) (x : Pend) : Pend :=
  match x.ev with
  | .homeLoadServe r => if r.who = tk then { x with ev := .homeLoadServe { r with spec := none } } else x
  | .loadReply r => if r.who = tk then { x with ev := .loadReply { r with spec := none } } else x
  | _ => x

/-- SPEC_COMMIT (14 R287): what it changes, an operation that is abandoned later goes back to as well (05 R87). -/
def execSpecCommit (tk : Nat) (s : State) : Out :=
  match (s.t tk).spec with
  | none => .next s
  | some c =>
    let b := vget (s.t tk).a.bar c.h BarSt.reset
    if b.st ≠ 2 || (s.chan c.chan).s = c.gen then .next s
    else
      let ps := TSet.dual { s.t tk with a := c.chk }
      let after (a : Arch) : Arch :=
        let a := (a.putInt ps c.d (b.latched.setWidth 64)).upBar c.h (fun b => { b with st := 0 })
        { a with status := putBits a.status 6 1 0 }
      let next := if wbits c.chk.status 0 2 = 0 then (loopEnd c.chk c.pc 4).2.1 else c.pc + 4
      let s := s.upT tk (fun t =>
        { t with a := after t.a, undo := t.undo.map (fun (u : Arch × Word × Nat) => (after u.1, u.2)), spec := none, specst := putBits t.specst 0 1 0
                 speccnt := putBits t.speccnt 0 32 (wbits t.speccnt 0 32 + 1)
                 wait := if t.wait = some Wait.resolve then none else t.wait }.arrived (crossDst c.d))
      let s := s.acquire tk
      let s : State := { s with pend := s.pend.map (settleLoads tk) }
      let s : State := { s with here := s.pend.length }
      let s := (s.drainHeld tk).holdMember tk c.h
      .next (if s.isHeld tk then s.upT tk (fun t => { t with after := some next }) else s)

/-- SPEC_ABORT (14 R286): a crossing of that channel and superstep restores its checkpoint; a late abort is discarded. -/
def execSpecAbort (tk ch gen : Nat) (s : State) : Out :=
  match (s.t tk).spec with
  | none => .next s
  | some c =>
    if c.chan = ch % 64 && c.gen.toNat = gen && (s.chan c.chan).s = c.gen then .next (s.abortSpec tk) else .next s

end Sys2Proof.Machine
end

