-- ==== Sys2Proof/Machine/Streams.lean ====
section
/-! DEFINITION. Stream ports: routes, rings, the STRM instructions and the flits (18 R312-R324). -/

namespace Sys2Proof.Machine

/-! ### Ports -/

def CC.sport (c : CC) (p : Nat) : SendPort := vget c.send p SendPort.reset
def CC.rport (c : CC) (p : Nat) : RecvPort := vget c.recv p RecvPort.reset

def State.upSend (s : State) (cc p : Nat) (f : SendPort → SendPort) : State :=
  s.upCC cc (fun c => { c with send := vset c.send p (f (c.sport p)) })
def State.upRecv (s : State) (cc p : Nat) (f : RecvPort → RecvPort) : State :=
  s.upCC cc (fun c => { c with recv := vset c.recv p (f (c.rport p)) })

/-- The core that a destination word names in the sender's context, and the receive port (18 R314). -/
def dstCC (src : Nat) (w : Word) : Nat := ccCid src * 2048 + wbits w 5 8 * 8 + wbits w 2 3
def dstPort (w : Word) : Nat := wbits w 13 2

def fCC (f : Flit) : Nat := dstCC f.src f.dst
def fPort (f : Flit) : Nat := dstPort f.dst

/-- Bytes between free count and tail. -/
def RecvPort.used (r : RecvPort) : Nat := (r.tail - r.free).toNat

/-- Is the port bound to the route of a flit? -/
def RecvPort.on (r : RecvPort) (f : Flit) : Bool := r.bound == some (f.src, f.sport, f.route)

/-- Are two flits of one route? -/
def flitSame (f g : Flit) : Bool := g.src == f.src && g.sport == f.sport && g.route == f.route

/-- A flit of the route in flight. -/
def sameRoute (f : Flit) (e : Ev) : Bool :=
  let on (g : Flit) : Bool := flitSame f g
  match e with
  | .guidonArrival g => on g
  | .dataFlitLand g => on g
  | .furlLand g => on g
  | .pauseFlitLand g => on g
  | _ => false

/-- The flit of its latest route that a send port sends. -/
def State.flit (s : State) (cc p : Nat) (data : BitVec 512) (resume : Bool) : Flit :=
  { src := cc, sport := p, route := ((s.cc cc).sport p).route, dst := ((s.cc cc).sport p).dst, nxm := (s.cc cc).nxm, data := data, resume := resume }

/-- RECVs of a core that wait on a port are judged again in the next cc, lowest thread set first (18 R321). -/
def State.wakeRecv (s : State) (cc p : Nat) : State :=
  (span 0 4).foldl (fun s k =>
    let tk := tkOf (ccCid cc) (ccCore cc * 4 + k)
    match mfind s.ts tk with
    | some t => match t.wait with
      | some (.recv q _) => if q = p && !s.inFlight (fun e => e == .recvWake tk) then s.pushAt (s.cyc + 1) (.recvWake tk) else s
      | _ => s
    | none => s) s

/-- A flit that is sent behind all that is on its way. -/
def State.pushLast (s : State) (e : Ev) : State := { s with pend := s.pend ++ [{ due := s.cyc, ev := e }] }

/-- Credits on their way to a send port are dropped. -/
def State.dropCredits (s : State) (cc p : Nat) : State :=
  s.dropPend (fun e => match e with | .creditArrival k q _ => k == cc && q == p | _ => false)

/-- Credits for a route on their way to its sender; a route that is closed or torn has no use for them. -/
def State.sendCredit (s : State) (src sp route n : Nat) : State :=
  let q := (s.cc src).sport sp
  if n = 0 || !q.isOpen || q.torn || q.route ≠ route then s else s.push (.creditArrival src sp n)

/-- Binds a guidon and returns credits for the free space (18 R316). -/
def State.bindRoute (s : State) (cc p : Nat) (f : Flit) : State :=
  let r := (s.cc cc).rport p
  let s := s.upRecv cc p (fun r =>
    { r with bound := some (f.src, f.sport, f.route), paused := false, src := BitVec.ofNat 13 (ccCore f.src * 4), nxm := some f.nxm })
  s.sendCredit f.src f.sport f.route ((r.size - r.used) / 64)

/-- The first waiting guidon binds to a port that is configured and unbound. -/
def State.bindNext (s : State) (cc p : Nat) : State :=
  let r := (s.cc cc).rport p
  match r.waiting with
  | [] => s
  | f :: fs =>
    if r.conf && r.bound.isNone then (s.upRecv cc p (fun r => { r with waiting := fs })).bindRoute cc p f else s

/-! ### Instructions -/

/-- The send port closes with a furl, and its credits are dropped; the route's hold clock runs on until the furl lands. -/
def State.sendFurl (s : State) (cc p : Nat) : State :=
  ((s.dropCredits cc p).push (.furlLand (s.flit cc p 0 false))).upSend cc p (fun q =>
    { q with isOpen := false, credits := 0, old := q.old ++ [(q.route, q.dst, q.clk)] })

/-- A torn send port raises STREAM_TORN with its destination word, and is closed and unmarked (18 R322); nothing changes while
the trap waits for loads (05 R87). -/
def State.tornSend (s : State) (p : Nat) : State :=
  let cc := ccOf s.cur
  let w := ((s.cc cc).sport p).dst
  if s.mustLand s.cur cTorn then s.trap cTorn w
  else (s.upSend cc p (fun q => { q with isOpen := false, torn := false, credits := 0, paused := false })).trap cTorn w

/-- SOPEN (18 R316). -/
def execSopen (a : Reg) (p : BitVec 2) (s : State) : Out :=
  s.notSys (.sopen a p)
    (let cc := ccOf s.cur
     let w := s.g a
     let n := p.toNat
     if wbits w 15 49 ≠ 0 || !(s.diesOf (s.partOf s.cur)).contains (dieOfRouter (wbits w 5 8))
        || !s.inCoreSet (cidOf s.cur) (wbits w 5 8 * 8 + wbits w 2 3) then .next (s.trap cAccess w)
     else if ((s.cc cc).sport n).torn then .next (s.tornSend n)
     else
       let s := if ((s.cc cc).sport n).isOpen then s.sendFurl cc n else s
       let s := s.upSend cc n (fun q =>
         { q with isOpen := true, torn := false, dst := w, route := q.route + 1, credits := 0, clk := 0, paused := false })
       .next ((s.push (.guidonArrival (s.flit cc n 0 false))).done 4))

/-- SSEND: g[a] in bytes 0-7, or v[a] whole (18 R317). -/
def execSsend (a : Reg) (v : BitVec 1) (p : BitVec 2) (s : State) : Out :=
  s.notSys (.ssend a v p)
    (let cc := ccOf s.cur
     let n := p.toNat
     let q := (s.cc cc).sport n
     if q.torn then .next (s.tornSend n)
     else if !q.isOpen then .next (s.trap cAccess (BitVec.ofNat 64 n))
     else if q.credits = 0 then s.again
     else
       let x : BitVec 512 := if v = 1 then s.me.a.vp 0 a else (s.g a).setWidth 512
       .next (((s.push (.dataFlitLand (s.flit cc n x false))).upSend cc n (fun q =>
         { q with credits := q.credits - 1 })).done 4))

/-- SCLOSE (18 R318). -/
def execSclose (p : BitVec 2) (s : State) : Out :=
  s.notSys (.sclose p)
    (let q := (s.cc (ccOf s.cur)).sport p.toNat
     if q.torn then .next (s.tornSend p.toNat)
     else if !q.isOpen then .next (s.trap cAccess (BitVec.ofNat 64 p.toNat))
     else .next ((s.sendFurl (ccOf s.cur) p.toNat).done 4))

/-- The ring word (18 R320). -/
def RecvPort.word (r : RecvPort) : Word :=
  BitVec.ofNat 64 (r.tail.toNat + (if r.bound.isSome then 2 ^ 48 else 0) + (if r.furl then 2 ^ 49 else 0) + r.src.toNat * 2 ^ 51)

/-- What RECV finds: a fault, completion or a wait (18 R321). -/
def RecvPort.judge (r : RecvPort) (nxm : Bool) (p : Nat) : Option (Option (Nat × Word)) :=
  if !r.conf then some (some (cRing, BitVec.ofNat 64 p))
  else if r.torn then some (some (cTorn, r.src.setWidth 64))
  else if r.nxm.isSome && r.nxm ≠ some nxm then some (some (cNxm, r.src.setWidth 64))
  else if r.tail ≠ r.seen || r.furl then some none
  else none

/-- The current instruction, a RECV, is judged: `again` says that it waits already. -/
def State.recv (s : State) (d : Reg) (p : Nat) : State :=
  let cc := ccOf s.cur
  let r := (s.cc cc).rport p
  match r.judge (s.nxm s.cur) p with
  | none => s
  | some (some (f, v)) =>
    if s.mustLand s.cur f then (s.upMe (fun t => { t with wait := none })).trap f v
    else
      let s := if f = cTorn then
          (s.upRecv cc p (fun r => { r with bound := none, torn := false, paused := false })).bindNext cc p else s
      (s.upMe (fun t => { t with wait := none, wclk := 0 })).trap f v
  | some none =>
    let s := s.upRecv cc p (fun r => { r with seen := r.tail, furl := false })
    let s := ((s.upMe (fun t => { t with wait := none })).putInt d r.word).doneD 4
    s.acquire s.cur

/-- RECV: a fault at once, else it completes in the cc after its condition first holds. -/
def execRecv (d : Reg) (p : BitVec 2) (s : State) : Out :=
  s.notSys (.recv d p)
    (match ((s.cc (ccOf s.cur)).rport p.toNat).judge (s.nxm s.cur) p.toNat with
     | some (some _) => .next (s.recv d p.toNat)
     | some none => .next ((s.startWait (.recv p.toNat d)).pushAt (s.cyc + 1) (.recvWake s.cur))
     | none => .next (s.startWait (.recv p.toNat d)))

/-- RRLS (18 R320). -/
def execRrls (a : Reg) (p : BitVec 2) (s : State) : Out :=
  s.notSys (.rrls a p)
    (let cc := ccOf s.cur
     let r := (s.cc cc).rport p.toNat
     let x := s.g a
     if !r.conf then .next (s.trap cRing (BitVec.ofNat 64 p.toNat))
     else if x.toNat % 64 ≠ 0 || r.used < x.toNat then .next (s.trap cRing x)
     else
       let s := s.upRecv cc p.toNat (fun r => { r with free := r.free + x.setWidth 48 })
       let s := match r.bound with
         | some (src, sp, route) => if r.torn then s else s.sendCredit src sp route (x.toNat / 64)
         | none => s
       .next (s.done 4))

/-- RRING (18 R319); a size of 0 unconfigures the port. -/
def execRring (a b : Reg) (p : BitVec 2) (s : State) : Out :=
  s.notSys (.rring a b p)
    (let cc := ccOf s.cur
     let r := (s.cc cc).rport p.toNat
     let base := (s.g a).toNat
     let size := (s.g b).toNat
     let ok := decide (base < 2 ^ 19) && (span 8 9).any (fun k => size == 2 ^ k) && base % size == 0
       && (base + size - 1) / 65536 == base / 65536
     if r.bound.isSome || (size ≠ 0 && !ok) then .next (s.trap cRing (s.g a))
     else
       let s := s.upRecv cc p.toNat (fun r =>
         { r with conf := decide (size ≠ 0), base := base, size := size, tail := 0, free := 0, seen := 0 })
       .next ((s.bindNext cc p.toNat).done 4))

/-! ### Flits -/

/-- GUIDON_ARRIVAL: it binds, or waits in the order of arrival; a resuming guidon finds the port still bound to it. -/
def execGuidonArrival (f : Flit) (s : State) : Out :=
  let r := (s.cc (fCC f)).rport (fPort f)
  if f.resume then
    if r.on f then .next (s.upRecv (fCC f) (fPort f) (fun r => { r with paused := false })) else .next s
  else .next ((s.upRecv (fCC f) (fPort f) (fun r => { r with waiting := r.waiting ++ [f] })).bindNext (fCC f) (fPort f))

/-- The route of a flit is torn (18 R322): both ends are marked, and its flits, its credits and its waiting guidon go. A send
port that has opened another route since has no end of it any more, and is not marked (log 33). -/
def State.tear (s : State) (f : Flit) : State :=
  let last := ((s.cc f.src).sport f.sport).route == f.route
  let s := if last then s.dropCredits f.src f.sport else s
  let s := (s.upSend f.src f.sport (fun q =>
    { q with torn := q.torn || last, old := q.old.filter (fun x => x.1 != f.route) })).dropPend (sameRoute f)
  let s := s.upRecv (fCC f) (fPort f) (fun r =>
    { r with torn := r.torn || r.on f, waiting := r.waiting.filter (fun g => !flitSame f g) })
  s.wakeRecv (fCC f) (fPort f)

/-- DATA_FLIT_LAND: 64 bytes to the ring, then the tail; an Empty or Reserved slot tears the route. -/
def execDataFlitLand (f : Flit) (s : State) : Out :=
  let r := (s.cc (fCC f)).rport (fPort f)
  if !r.on f || r.torn then .next s
  else
    let a := r.base + r.tail.toNat % r.size
    match (s.cc (fCC f)).slot (a / 65536) with
    | .attached _ =>
      let s := s.upCC (fCC f) (fun c => c.locWrite a (fun _ => true) (natLe f.data.toNat 64))
      .next ((s.upRecv (fCC f) (fPort f) (fun r => { r with tail := r.tail + 64 })).wakeRecv (fCC f) (fPort f))
    | .outgoing _ => .next s
    | _ => .next (s.tear f)

/-- FURL_LAND: the port unbinds, and the next waiting guidon may bind. -/
def execFurlLand (f : Flit) (s : State) : Out :=
  let r := (s.cc (fCC f)).rport (fPort f)
  if !r.on f then .next s
  else
    let s := s.upSend f.src f.sport (fun q => { q with old := q.old.filter (fun x => x.1 != f.route) })
    let s := s.upRecv (fCC f) (fPort f) (fun r => { r with bound := none, paused := false, furl := true })
    .next ((s.bindNext (fCC f) (fPort f)).wakeRecv (fCC f) (fPort f))

/-- PAUSE_FLIT_LAND: the port stays bound to the paused route. -/
def execPauseFlitLand (f : Flit) (s : State) : Out :=
  if ((s.cc (fCC f)).rport (fPort f)).on f then .next (s.upRecv (fCC f) (fPort f) (fun r => { r with paused := true })) else .next s

/-- CREDIT_ARRIVAL at the sender. -/
def execCreditArrival (cc port n : Nat) (s : State) : Out :=
  if ((s.cc cc).sport port).isOpen then .next (s.upSend cc port (fun q => { q with credits := q.credits + n })) else .next s

/-- Does the hold clock of a port's latest route run: it is open, not torn and not paused? -/
def SendPort.runs (q : SendPort) : Bool := q.isOpen && !q.torn && !q.paused

/-- The stream hold limit of a context's partition in cc (21 R374). -/
def State.holdLimit (s : State) (cid : Nat) : Nat :=
  let h := (s.die (s.ctx cid).part).hold.toNat
  (if h = 0 then 65536 else h) * 1024

/-- A route of a send port whose hold clock has passed the partition's limit: a closed one first. -/
def State.overdue (s : State) (cc port : Nat) : Option Flit :=
  let q := (s.cc cc).sport port
  let lim := s.holdLimit (ccCid cc)
  match q.old.find? (fun x => decide (lim < x.2.2)) with
  | some x => some { s.flit cc port 0 false with route := x.1, dst := x.2.1 }
  | none => if q.runs && decide (lim < q.clk) then some (s.flit cc port 0 false) else none

/-- ROUTE_TEAR: a hold clock has passed the partition's limit. -/
def execRouteTear (cc port : Nat) (s : State) : Out :=
  match s.overdue cc port with
  | some f => .next (s.tear f)
  | none => .next s

/-- RECV_WAKE: a waiting RECV is judged again. -/
def execRecvWake (tk : Nat) (s : State) : Out :=
  match (s.t tk).wait with
  | some (.recv p d) => .next (s.offSlot tk (fun s => s.asTk tk (fun s => s.recv d p)))
  | _ => .next s

/-- The hold clocks of a send port's routes after one cc (18 R322). -/
def SendPort.tick (q : SendPort) : SendPort :=
  { q with clk := if q.runs then q.clk + 1 else q.clk, old := q.old.map (fun x => (x.1, x.2.1, x.2.2 + 1)) }

end Sys2Proof.Machine
end

