-- ==== Sys2Proof/Machine/Tasks.lean ====
section
/-! DEFINITION. The dispatcher: launch queues, admission, tasks, binding, splits, parks, fault queues and completion, with
the TASK instructions (07 R138-R146; 19 R326-R347), and the host's MSI-X messages (21 R385). -/

namespace Sys2Proof.Machine

/-! ### Messages to the host (21 R385) -/

/-- Word `i` of a function's MSI-X table, two for each vector; the mask bit is set until the host clears it (PRESUMED, the
reset value of PCIe's vector control). -/
def HostSt.msixWord (h : HostSt) (f i : Nat) : Word := mget h.msix (f * 128 + i) (if i % 2 = 1 then 0x100000000 else 0)

/-- Is a vector's message held back: MSI-X off, or the function or the vector masked? -/
def HostSt.msixHeld (h : HostSt) (f v : Nat) : Bool :=
  let c := mget h.msixCtl f 0
  !c.getLsbD 15 || c.getLsbD 14 || (h.msixWord f (2 * v + 1)).getLsbD 32

/-- An event signals a vector: one message, or a pending bit while the vector is masked. -/
def State.signal (s : State) (f v : Nat) : State :=
  if 64 ≤ v then s
  else if s.host.msixHeld f v then
    (if s.host.pba.contains (f, v) then s else { s with host := { s.host with pba := (f, v) :: s.host.pba } })
  else { s with host := { s.host with msgs := s.host.msgs ++ [(f, v)] } }

/-! ### The partition descriptor and its queues (19 R326; 21 R377) -/

def State.qAt (s : State) (p q : Nat) : Nat := (s.pdesc p 0).toNat + 32 * q

/-- Word `i` of a queue's descriptor: 0 ring, 1 HEAD, 2 TAIL, 3 owner and controls. -/
def State.qw (s : State) (p q i : Nat) : Word := s.rdWord p (s.qAt p q + 8 * i)
def State.setQw (s : State) (p q i : Nat) (w : Word) : State := s.wrWord p (s.qAt p q + 8 * i) Config.shared w
def State.qCid (s : State) (p q : Nat) : Nat := wbits (s.qw p q 3) 0 12

/-- Enabled, with a size of at most 2^16. -/
def State.qOpen (s : State) (p q : Nat) : Bool := (s.qw p q 3).getLsbD 15 && decide (wbits (s.qw p q 0) 0 5 ≤ 16)
def State.qErr (s : State) (p q : Nat) : State := s.setQw p q 3 (s.qw p q 3 ||| 0x10000)

/-- QBUSY of a queue. -/
def State.qBusy (s : State) (p q : Nat) : Bool :=
  s.qOpen p q && (s.qw p q 1 != s.qw p q 2 || (match (s.part p).adm with | some a => a.q == q | none => false))

/-- Address of a ring entry in the queue's context. -/
def State.qEntry (s : State) (p q k : Nat) : Word :=
  BitVec.ofNat 64 (wbits (s.qw p q 0) 6 58 * 64 + 8 * (k % 2 ^ wbits (s.qw p q 0) 0 5))

/-- Numbers the entries [lo, hi) of a queue in ring order (19 R328). -/
def State.number (s : State) (p q lo hi : Nat) : State :=
  (span lo (hi - lo)).foldl (fun s k =>
    s.upPart p (fun x => { x with qseq := mset x.qseq (q * 2 ^ 64 + k) x.seqno.toNat, seqno := x.seqno + 1 })) s

/-- A launch of a queue has an event for the host. -/
def State.signalQ (s : State) (p q : Nat) : State :=
  let w := s.qw p q 3
  if w.getLsbD 17 && decide (wbits w 18 6 < 48) then s.signal p (wbits w 18 6) else s

/-! ### Termination begins (20 R363, R364 step 1) -/

/-- Residual entries without those of a context. -/
def tileWithout (v : Vector (Option Res) 32) (cid : Nat) : Vector (Option Res) 32 :=
  v.map (fun e => match e with | some r => if r.r.cid = cid then none else some r | none => none)

/-- The context's thread sets stop at their next boundary, its held stores and residual entries are discarded (10 R194; 14 R290);
the steps that follow end in one event. A context whose termination runs or waits has no second one (20 R353). -/
def State.startTerm (s : State) (d cid : Nat) (why : Option (Nat × Word)) : State :=
  if s.ending cid then s
  else if (s.die d).tbusy then s.upDie d (fun x => { x with termq := x.termq ++ [(cid, why)] })
  else
    let s : State := { s with
      ts := s.ts.map (fun x => if !isSys x.1 && cidOf x.1 == cid then (x.1, { x.2 with stopped := true }) else x)
      cores := s.cores.map (fun x => (x.1, { x.2 with tile := tileWithout x.2.tile cid, hold := x.2.hold.filter (fun h => h.r.cid != cid) })) }
    (s.upDie d (fun x => { x with tcid := cid, tbusy := true, tfault := why })).push (.terminationDone d)

/-- A dispatcher access of a launch fails after admission: its context is terminated (19 R331; 20 R363). -/
def State.dispFail (s : State) (p cid : Nat) : State := s.startTerm p cid none

/-! ### Launch records (19 R330, R343) -/

def recEntry (x : BitVec 2048) : Word := recW x 0
def recLo (x : BitVec 2048) : Nat := recN x 0x10 0 64
def recHi (x : BitVec 2048) : Nat := recN x 0x18 0 64
def recG (x : BitVec 2048) : Nat := let g := recN x 0x20 0 32; if g = 0 then 1 else g
def recTsets (x : BitVec 2048) : Nat := recN x 0x20 32 14
def recPrio (x : BitVec 2048) : Nat := recN x 0x28 40 3
def recWlimit (x : BitVec 2048) : Nat := let w := recN x 0x38 0 48; if w = 0 then 2 ^ 28 else w
def recYieldt (x : BitVec 2048) : Nat := recN x 0x38 48 16
def recCplctr (x : BitVec 2048) : Word := recW x 0x70
def recFq (x : BitVec 2048) : Word := recW x 0x78
def recSucc (x : BitVec 2048) : Word := recW x 0x88
def recTcb (x : BitVec 2048) : Word := recW x 0x90
def recChan (x : BitVec 2048) (h : Nat) : Nat := recN x (0x98 + h) 0 6
def recVote (x : BitVec 2048) (h : Nat) : Nat := recN x (0x98 + h) 6 2
def recMem (x : BitVec 2048) (h : Nat) : Nat := recN x (0xA0 + 4 * h) 0 32
def recRing (x : BitVec 2048) (h : Nat) : Word := recW x (0xC0 + 8 * h)

/-- Clusters of the placement, rising; those outside the package are left out. -/
def recClusters (x : BitVec 2048) : List Nat := (span 0 256).filter (recPlaces x)

/-- Positions of the launch, in the order of their identity words. -/
def recPositions (x : BitVec 2048) : List Nat :=
  (recClusters x).flatMap (fun c => (span 0 8).flatMap (fun k =>
    if (recCores x).testBit k then (span 0 (recTpc x)).map (fun t => c * 32 + k * 4 + t) else []))

/-- The initial tasks: position and range (19 R332). -/
def recTasks (x : BitVec 2048) : List (Nat × Nat × Nat) :=
  let n := recHi x - recLo x
  let ps := recPositions x
  let t := if recTsets x = 0 || decide (ps.length < recTsets x) then ps.length else recTsets x
  let m := if n = 0 then 0 else max 1 (min t (n / recG x))
  (ps.take m).zipIdx.map (fun pj => (pj.1, recLo x + pj.2 * n / m, recLo x + (pj.2 + 1) * n / m))

/-- Handles that the record grants. -/
def recHandles (x : BitVec 2048) : List Nat := (span 0 8).filter (fun h => recMem x h ≠ 0)

/-- The record at an address, from the cache or from memory, which the cache then holds (19 R343). -/
def State.getRec (s : State) (p cid : Nat) (va : Word) : Option (Nat × BitVec 2048) × State :=
  if va.toNat % 256 ≠ 0 then (none, s)
  else match s.xlatHw cid p va .load 1 with
    | (none, s) => (none, s)
    | (some (pa, _, pte), s) =>
      match mfind (s.part p).recs pa with
      | some r => (some (pa, r.2), s)
      | none =>
        let h := s.homeBy p pte
        let x := BitVec.ofNat 2048 (leNat (s.rdBy h pa 256))
        (some (pa, x), (s.noteN h pa 256 false 6).upPart p (fun y => { y with recs := mput y.recs pa (cid, x) 64 }))

/-- An atomic add to PREDN of a record at its home slice, which the cache follows (19 R333, R343). -/
def State.predAdd (s : State) (p cid : Nat) (va : Word) (d : Word) : Option State :=
  match s.xlatHw cid p (va + 0x80) .rmw 1 with
  | (none, _) => none
  | (some (pa, h, _), s) =>
    let (bs, s) := (s.heal h (lineKey pa) (sectsOf (pa % 192) 8)).homeRead h pa 8
    let s := ((s.hwNote h pa 8 true).collapse (lineKey pa)).homeWrite h pa (List.replicate 8 true) (wordLe (leWord bs + d) 8) cid
    some (s.upPart p (fun y => { y with recs := y.recs.map (fun r =>
      if r.1 = pa - 0x80 then (r.1, r.2.1, putBits r.2.2 1024 64 (leWord bs + d).toNat) else r) }))

/-- PREDN of the launch's successor changes by `d`; a failure ends the context, and the answer is false. -/
def State.succAdd (s : State) (p : Nat) (l : Launch) (d : Word) : Bool × State :=
  if recSucc l.snap = 0 then (true, s)
  else match s.predAdd p l.cid (recSucc l.snap) d with
    | some s => (true, s)
    | none => (false, s.dispFail p l.cid)

/-! ### TCB pools -/

/-- The TCBs of a launch's pool: physical addresses with the entries that map them. -/
def State.poolOf (s : State) (p cid : Nat) (x : BitVec 2048) : List (Nat × Word) × State :=
  let t := recTcb x
  if wbits t 13 51 = 0 then
    let b := s.pdesc p 0x20
    ((span 0 (wbits b 0 13)).map (fun i => (wbits b 13 51 * 8192 + 8192 * i, (0 : Word))), s)
  else
    (span 0 (wbits t 0 13)).foldl (fun (a : List (Nat × Word) × State) i =>
      match a.2.xlatHw cid p (BitVec.ofNat 64 (wbits t 13 51 * 8192 + 8192 * i)) .rmw 1 with
      | (some (pa, _, pte), s) => (a.1 ++ [(pa, pte)], s)
      | (none, s) => (a.1, s)) ([], s)

def poolSize (s : State) (p : Nat) (x : BitVec 2048) : Nat :=
  if wbits (recTcb x) 13 51 = 0 then wbits (s.pdesc p 0x20) 0 13 else wbits (recTcb x) 0 13

/-- TCBs of the pool that no task holds. -/
def State.freeTcbs (s : State) (p cid : Nat) (x : BitVec 2048) : List (Nat × Word) :=
  (s.poolOf p cid x).1.filter (fun t => !(s.part p).used.contains t.1)

/-! ### Fault queues (19 R334) -/

/-- Where a fault queue's header lies, and the size of its ring: none where it cannot be reached. -/
def State.fqAt (s : State) (p : Nat) (e : FqEnt) (va : Word) (k : AccessKind) : Option (Nat × (Nat → Nat)) × State :=
  if e.phys then
    (if s.inPartition p va.toNat && decide (e.va ≠ 0) then some (va.toNat, s.home00 p) else none, s)
  else match s.xlatHw e.cid p va k 1 with
    | (some (pa, h, pte), s) => (if pte.getLsbD 7 then none else some (pa, fun _ => h), s)
    | (none, s) => (none, s)

/-- What an attempt to write an entry gives: done, no room, or the area cannot be used. -/
inductive FqTry where
  | done (s : State)
  | full
  | bad
  deriving DecidableEq, Repr

def State.fqTry (s : State) (p : Nat) (e : FqEnt) : FqTry :=
  if 16 < e.z then .bad
  else match s.fqAt p e e.va .rmw with
    | (some (pa, h), s) =>
      let hd := leWord (s.rdBy h pa 8)
      let tl := leWord (s.rdBy h (pa + 8) 8)
      let s := s.noteN h pa 16 false 2
      if (tl - hd).toNat = 2 ^ e.z then .full
      else match s.fqAt p e (e.va + BitVec.ofNat 64 (64 + 64 * (tl.toNat % 2 ^ e.z))) .store with
        | (some (ea, eh), s) =>
          .done ((s.wrBy eh ea e.cid (e.words.flatMap (fun w => wordLe w 8))).wrBy h (pa + 8) e.cid (wordLe (tl + 1) 8))
        | (none, _) => .bad
    | (none, _) => .bad

/-- The default fault queue of a context, for an entry whose own queue failed. -/
def State.toDefault (s : State) (e : FqEnt) : FqEnt :=
  let w := (s.ctx e.cid).dfq
  { e with va := w &&& ~~~(0x3F : Word), phys := true, z := wbits w 0 6, dflt := true }

/-- Entries after the first that no earlier entry of the same area holds back. -/
def fqReady (l : List FqEnt) (e : FqEnt) : Bool :=
  match l.find? (fun x => x.va == e.va && x.phys == e.phys && x.cid == e.cid) with
  | some x => x == e
  | none => false

/-- The first entry that can be written or must go elsewhere. -/
def State.fqPick (s : State) (p : Nat) : Option FqEnt :=
  (s.part p).fq.find? (fun e => fqReady (s.part p).fq e && (match s.fqTry p e with | .full => false | _ => true))

/-- FAULT_QUEUE_WRITE: the entry, then TAIL; a refusal whose queue fails goes to the default queue and then to ERR. -/
def execFaultQueueWrite (part : Nat) (s : State) : Out :=
  match s.fqPick part with
  | none => .next s
  | some e =>
    let out (s : State) : State := (s.upPart part (fun x => { x with fq := x.fq.erase e })).signalQ part e.q
    let s' : State := match s.fqTry part e with
      | .done s => out s
      | .full => s
      | .bad =>
        if e.tcb ≠ 0 then (s.upPart part (fun x => { x with fq := x.fq.erase e })).dispFail part e.cid
        else if e.dflt then (out s).qErr part e.q
        else s.upPart part (fun x => { x with fq := x.fq.map (fun y => if y = e then s.toDefault e else y) })
    .next (if (s'.part part).fq = [] then s' else s'.push (.faultQueueWrite part))

/-! ### Completion (08 R176; 19 R338; 14 R268) -/

/-- Cores whose banks go with the launch. -/
def State.lastCores (s : State) (p : Nat) (l : Launch) : List Nat :=
  let others := (s.part p).launches.filter (fun o => o.cid == l.cid && o.seq != l.seq)
  ((recClusters l.snap).flatMap (fun c => (span 0 8).map (fun k => c * 8 + k))).filter (fun k =>
    recCovers l.snap k && !others.any (fun o => recCovers o.snap k))

/-- No engine operation of the context touches a bank of these cores (08 R163). -/
def State.coresDrained (s : State) (cid : Nat) (ks : List Nat) : Bool :=
  ks.all (fun k => (span 0 8).all (fun n =>
    match ((s.cc (cid * 2048 + k)).slot n).bank? with
    | some _ => (s.cc (cid * 2048 + k)).drained n
    | none => true))

/-- Detaches every bank of a core's table. -/
def State.detachAll (s : State) (cc : Nat) : State :=
  (span 0 8).foldl (fun s n => match ((s.cc cc).slot n).bank? with | some _ => s.release cc n | none => s) s

/-- Returns a channel with its state and its marks cleared. -/
def State.returnChan (s : State) (ch : Nat) : State :=
  let s := s.upChan ch (fun _ => ChanSt.reset)
  { s with slices := s.slices.map (fun x => (x.1, { x.2 with marks := x.2.marks.filter (fun m => m.chan != ch) })) }

def State.chansOf (s : State) (cid seq : Nat) : List Nat :=
  (s.chans.filter (fun c => match c.2.grant with | some (k, q, _) => k == cid && q == seq | none => false)).map Prod.fst

/-- A launch whose tasks are all done completes, once its cores' banks are drained; none of a context whose termination has begun does (20
R364). The host is signalled once the completion counter has been raised; a counter that cannot be raised ends the context instead, one
that would overflow too (19 R331, R338; log 94). -/
def State.complete? (s : State) (p cid seq : Nat) : State :=
  match s.launch? p cid seq with
  | none => s
  | some l =>
    let ks := s.lastCores p l
    if l.left ≠ 0 || s.ending cid || !s.coresDrained l.cid ks then s
    else
      let s := ks.foldl (fun s k => s.detachAll (l.cid * 2048 + k)) s
      let s := (s.chansOf l.cid seq).foldl (fun s ch => s.returnChan ch) s
      let mine := (s.part p).tasks.filter (fun k => k.seq == seq && k.cid == cid)
      let s := mine.foldl (fun s k => let (r, s) := s.getTcb p k.tcb; s.putTcb p k.tcb { r with state := 0 }) s
      let s := s.upPart p (fun x =>
        { x with launches := x.launches.filter (fun o => !(o.seq == seq && o.cid == cid))
                 tasks := x.tasks.filter (fun k => !(k.seq == seq && k.cid == cid))
                 used := x.used.filter (fun t => !mine.any (fun k => k.tcb == t)) })
      if recCplctr l.snap = 0 then s.signalQ p l.q
      else match s.xlatHw l.cid p (recCplctr l.snap) .rmw 1 with
        | (some (pa, h, _), s) =>
          match ((s.hwNote h pa 8 true).heal h (lineKey pa) (sectsOf (pa % 192) 8)).ctrAdd h pa 1 l.cid false with
          | (true, s) => s.signalQ p l.q
          | (false, s) => s.dispFail p l.cid
        | (none, s) => s.dispFail p l.cid

/-- Launches that wait only for a drain. One whose counter lies on a held line waits (24 R414). -/
def State.completeAll (s : State) (p : Nat) : State :=
  (s.part p).launches.foldl (fun s l => if l.left = 0 then s.unlessHeld (fun s => s.complete? p l.cid l.seq) else s) s

/-- Steps 4 and 5 of 07 R142 for a task: its successor's count, then its end; a count that fails ends the context instead, and a context
whose termination has begun ends no task (20 R364). -/
def State.endTask (s : State) (p tcb : Nat) : State :=
  match s.task? p tcb with
  | none => s
  | some k =>
    match (if s.ending k.cid then none else s.launch? p k.cid k.seq) with
    | none => s
    | some l =>
      match s.succAdd p l (BitVec.allOnes 64) with
      | (false, s) => s
      | (true, s) =>
        let (r, s) := s.getTcb p tcb
        let s := s.putTcb p tcb { r with state := 5 }
        let s := s.upTask p tcb (fun k => { k with st := 5, req := none, wait := none })
        let s := s.upPart p (fun x => { x with launches := x.launches.map (fun o => if o.seq = k.seq && o.cid == k.cid then { o with left := o.left - 1 } else o) })
        s.complete? p k.cid k.seq

/-! ### Candidates (19 R339, R340) -/

/-- Ordinals compare by sequence number, then by lower end (19 R328). -/
def ordLt (a b : Task) : Bool := decide (a.seq < b.seq) || (a.seq == b.seq && decide (a.low < b.low))

/-- Is a task of the context bound in a position? -/
def State.isBound (s : State) (cid pos : Nat) : Bool := (s.t (tkOf cid pos)).bound.isSome

/-- A parked task whose wait, if any, has come to an end. -/
def State.waitOver (s : State) (k : Task) : Bool :=
  match k.wait with
  | none => true
  | some (pa, h, tgt) =>
    let home := s.keptHome (s.ctx k.cid).part pa h
    decide (k.wlim < k.wclk) || decide (tgt.toNat ≤ leNat (natLe ((s.recovered home (lineKey pa)).toNat / 2 ^ (8 * (pa % 192))) 8))

/-- May a launch's tasks bind beside the tasks bound on a core, `pos` apart (19 R340)? -/
def State.nxmFits (s : State) (cid pos : Nat) (l : Launch) : Bool :=
  let cc := cid * 2048 + pos / 4
  recNxm l.snap == (s.cc cc).nxm ||
    ((s.cc cc).sb == [] && !(span 0 4).any (fun t => pos / 4 * 4 + t != pos && s.isBound cid (pos / 4 * 4 + t)))

/-- The position to which a ready task goes: its own thread set where that is Idle, else the lowest Idle one below TPC
(19 R332); `pos` counts as Idle. -/
def State.readyAt (s : State) (cid pos : Nat) (k : Task) (l : Launch) : Bool :=
  let idle (q : Nat) : Bool := q == pos || !s.isBound cid q
  if idle k.pos then k.pos == pos
  else (span 0 (recTpc l.snap)).find? (fun t => idle (pos / 4 * 4 + t)) == some (pos % 4)

/-- The rank of a task for a position: 0 a split made for it, 1 parked or resumed, 2 ready. -/
def State.rank (s : State) (p cid pos : Nat) (k : Task) : Option Nat :=
  match s.launch? p k.cid k.seq with
  | none => none
  | some l =>
    if k.cid ≠ cid || k.pos / 4 ≠ pos / 4 || !s.nxmFits cid pos l then none
    else if k.st = 3 then
      (if k.hv && s.waitOver k && !(s.part p).fq.any (fun e => e.tcb == k.tcb) then some 1 else none)
    else if k.st = 1 && decide (pos % 4 < recTpc l.snap) then
      (if k.split && k.pos == pos then some 0 else if s.readyAt cid pos k l then some 2 else none)
    else none

/-- Is `a` taken before `b` within a rank? -/
def State.before (s : State) (p : Nat) (a b : Task) : Bool :=
  let pr (k : Task) : Nat := match s.launch? p k.cid k.seq with | some l => recPrio l.snap | none => 0
  decide (pr b < pr a) || (pr a == pr b && ordLt a b)

def firstBy {α : Type} (lt : α → α → Bool) : List α → Option α
  | [] => none
  | x :: l => match firstBy lt l with | none => some x | some y => some (if lt y x then y else x)

/-- Candidates of a position, of the first rank that has any. -/
def State.cands (s : State) (p cid pos : Nat) : List Task :=
  let of (r : Nat) : List Task := (s.part p).tasks.filter (fun k => s.rank p cid pos k == some r)
  if of 0 ≠ [] then of 0 else if of 1 ≠ [] then of 1 else of 2

def State.candidate (s : State) (p cid pos : Nat) : Option Task := firstBy (s.before p) (s.cands p cid pos)

/-! ### Binding (02 R40; 19 R339) -/

/-- A restored STATUS or ESCR: no compute core stands above privilege 1 (20 R348). -/
def cleanStatus (w : Word) : Word := w &&& 0x3BD

/-- The entry state of a task. -/
def entryArch (a : Arch) (x : BitVec 2048) (pos lo hi : Nat) : Arch :=
  let g : Vector Word 32 := Vector.replicate 32 0
  let g := vset (vset (vset (vset g 4 (recW x 8)) 5 (BitVec.ofNat 64 lo)) 6 (BitVec.ofNat 64 hi)) 7 (BitVec.ofNat 64 pos)
  { a with
    g := g, gd1 := Vector.replicate 32 0, gd2 := Vector.replicate 32 0
    v := Vector.replicate 32 0, vd1 := Vector.replicate 32 0, vd2 := Vector.replicate 32 0
    m := Vector.replicate 8 0, tc := Vector.replicate 4 0
    status := 4, fmode := BitVec.ofNat 64 (recN x 0x30 0 3)
    dmode := putBits a.dmode 0 4 (recN x 0x30 4 4)
    dtoff := vtab 4 0 (fun i => recW x (0x40 + 8 * i))
    lc := Vector.replicate 2 0, lstat := 0
    claim := BitVec.ofNat 64 lo, rend := BitVec.ofNat 64 hi }

/-- Barrier state of a bound task: a wait that its position has seen end is over (14 R269, R273). -/
def joinBar (task pos : BarSt) : BarSt := if task.st = 1 && pos.st = 2 then pos else task

/-- The registers of a task that comes back from its TCB; the position keeps DMODE.GATED. -/
def backArch (a : Arch) (r : Arch) : Arch :=
  { r with status := cleanStatus r.status, dmode := putBits r.dmode 4 1 (wbits a.dmode 4 1)
           bar := vtab 8 BarSt.reset (fun h => joinBar (vget r.bar h BarSt.reset) (vget a.bar h BarSt.reset)) }

/-- Images that the launch's kernel brings. -/
def State.imagesOf (s : State) (cid : Nat) (entry : Word) : List BankImage :=
  s.images.filter (fun i => i.cid == cid && i.entry == entry)

/-- Attaches an image to its Empty slot: resident where the pool has a free bank, refilled later where it has none. -/
def State.attachImage (s : State) (cc : Nat) (nxm : Bool) (i : BankImage) : State :=
  match (s.cl (ccCore cc / 8)).free with
  | some p => s.attach cc i.slot p nxm i.data
  | none =>
    let b : Bank := { data := i.data, nxm := nxm, owner := ccCid cc, phys := none, bad := false }
    ((s.setSlot cc i.slot (.attached b)).wakeBwait cc i.slot).refillBank cc i.slot

/-- The first bind of a launch on a core attaches its images; the first slot that is taken is the failure (08 R176). -/
def State.firstBind (s : State) (p cc : Nat) (l : Launch) : Option Nat × State :=
  if l.first.contains (ccCore cc) then (none, s)
  else
    let s := s.upPart p (fun x => { x with launches := x.launches.map (fun o => if o.seq = l.seq && o.cid == l.cid then { o with first := ccCore cc :: o.first } else o) })
    let is := s.imagesOf l.cid (recEntry l.snap)
    match is.find? (fun i => (s.cc cc).slot i.slot != .empty) with
    | some i => (some i.slot, s)
    | none => (none, is.foldl (fun s i => s.attachImage cc (recNxm l.snap) i) s)

/-- Requests that a position has made are withdrawn. -/
def State.withdraw (s : State) (p tk : Nat) : State :=
  s.upPart p (fun x => { x with tasks := x.tasks.map (fun k =>
    match k.req with | some (q, _) => if q = tk then { k with req := none } else k | none => k) })

/-- Binds a task to a position. -/
def State.bindTask (s : State) (p tk : Nat) (k : Task) (l : Launch) : State :=
  let pos := posOf tk
  let cc := ccOf tk
  let (r, s) := s.getTcb p k.tcb
  let s := if recNxm l.snap == (s.cc cc).nxm then s else s.upCC cc (fun c => c.retag (recNxm l.snap))
  let (bad, s) := s.firstBind p cc l
  let s := s.upT tk (fun t =>
    let t := { t with bound := some k.tcb, wait := none, busy := [], undo := none, exempt := none, entered := false
                      eceil := recN l.snap 0x30 8 2, readyAt := s.cyc + 1 }
    if k.hv then
      { t with a := backArch t.a r.a, pc := r.pc &&& ~~~(3 : Word), residx := r.residx &&& 0x7FF, wlimit := r.wlimit
               wclk := k.wclk, wlim := k.wlim }
    else
      { t with a := entryArch t.a l.snap pos r.a.claim.toNat r.a.rend.toNat, pc := recEntry l.snap
               wlimit := BitVec.ofNat 64 (recWlimit l.snap), wclk := 0, wlim := 0 })
  let s := s.putTcb p k.tcb { r with state := 2, home := pos / 4 * 4, hv := true }
  let s := s.upTask p k.tcb (fun k =>
    { k with st := 2, pos := pos, hv := true, wait := none, size := r.a.rend.toNat - r.a.claim.toNat })
  let s := s.withdraw p tk
  let s := if k.split then s.evt tk 0x16 else s
  match bad with
  | some n => s.parkFault tk cQuota (BitVec.ofNat 64 (n * 65536)) (s.t tk).pc
  | none => s

/-- May the dispatcher bind in a position: its core's active context has no task there? -/
def State.openPos (s : State) (pos : Nat) : Option Nat :=
  match (s.core (pos / 4)).act with
  | none => none
  | some cid =>
    let tk := tkOf cid pos
    if (mfind s.ts tk).isSome && !s.isBound cid pos && !(s.t tk).stopped then some cid else none

/-- TASK_BIND. -/
def execTaskBind (pos : Nat) (s : State) : Out :=
  match s.openPos pos with
  | none => .next s
  | some cid =>
    let tk := tkOf cid pos
    let p := s.partOf tk
    match s.candidate p cid pos with
    | none => .next s
    | some k =>
      match s.launch? p k.cid k.seq with
      | none => .next s
      | some l => .next (s.bindTask p tk k l)

/-! ### Splits (07 R140; 19 R341) -/

/-- The tasks on which a position may place its request, each with its tier. -/
def State.victims (s : State) (p cid pos : Nat) : List (Task × Nat) :=
  (s.part p).tasks.filterMap (fun k =>
    match s.launch? p k.cid k.seq with
    | none => none
    | some l =>
      if k.cid = cid && k.st = 2 && k.req.isNone && recCovers l.snap (pos / 4) && decide (pos % 4 < recTpc l.snap)
          && s.nxmFits cid pos l && s.freeTcbs p cid l.snap != [] then
        some (k, if k.pos / 32 = pos / 32 then 0
                 else if dieOfRouter (k.pos / 32) = dieOfRouter (pos / 32) then 1 else 2)
      else none)

def victimLt (a b : Task × Nat) : Bool :=
  decide (a.2 < b.2) || (a.2 == b.2 && (decide (b.1.size < a.1.size) || (a.1.size == b.1.size && ordLt a.1 b.1)))

/-- Has a position a request that stands? -/
def State.asking (s : State) (p tk : Nat) : Bool :=
  (s.part p).tasks.any (fun k => match k.req with | some (q, _) => q == tk | none => false)

/-- May a position make a request? -/
def State.wantsSplit (s : State) (pos : Nat) : Bool :=
  match s.openPos pos with
  | none => false
  | some cid =>
    let tk := tkOf cid pos
    let p := s.partOf tk
    (s.candidate p cid pos).isNone && !s.asking p tk && s.victims p cid pos != []

/-- SPLIT_REQUEST. -/
def execSplitRequest (pos : Nat) (s : State) : Out :=
  if !s.wantsSplit pos then .next s
  else match s.openPos pos with
    | none => .next s
    | some cid =>
      let tk := tkOf cid pos
      let p := s.partOf tk
      match firstBy victimLt (s.victims p cid pos) with
      | none => .next s
      | some (k, _) =>
        .next ((s.upTask p k.tcb (fun k => { k with req := some (tk, s.cyc) })).pushAt (s.cyc + 1024) (.splitWithdrawTimeout p k.tcb))

/-- SPLIT_WITHDRAW_TIMEOUT: 1024 cc have passed since the request was placed. -/
def execSplitWithdrawTimeout (part tcb : Nat) (s : State) : Out :=
  .next (s.upTask part tcb (fun k =>
    match k.req with | some (_, c) => if c + 1024 ≤ s.cyc then { k with req := none } else k | none => k))

/-- A new task of a launch, ready for a position, with its TCB. -/
def State.newTask (s : State) (p : Nat) (l : Launch) (tcb : Nat × Word) (pos lo hi : Nat) (split : Bool) : State :=
  let s := s.upPart p (fun x =>
    { x with used := tcb.1 :: x.used, tcbPte := if tcb.2 = 0 then mdel x.tcbPte tcb.1 else mset x.tcbPte tcb.1 tcb.2
             tasks := x.tasks ++ [{ tcb := tcb.1, seq := l.seq, low := lo, cid := l.cid, st := 1, pos := pos, hv := false
                                    split := split, wait := none, wclk := 0, wlim := 0, size := hi - lo, req := none }] })
  let e : TcbRec := TcbRec.empty
  let a : Arch := { e.a with claim := BitVec.ofNat 64 lo, rend := BitVec.ofNat 64 hi }
  s.putTcb p tcb.1 { e with state := 1, cid := l.cid, launch := l.va, seq := l.seq, low := BitVec.ofNat 64 lo, a := a }

/-- A candidate has appeared for the position that asked, which withdraws its request (19 R341). -/
def State.served (s : State) (p q : Nat) : Bool := (s.candidate p (cidOf q) (posOf q)).isSome

/-- Serves a pending split of the current task: the new range end, or none where the successor's count could not be raised, which
ends the context (19 R333). -/
def State.split? (s : State) (p : Nat) (k : Task) (l : Launch) : Option (Option Nat × State) :=
  let a := s.me.a
  let n := a.rend.toNat - a.claim.toNat
  match k.req, s.freeTcbs p l.cid l.snap with
  | some (q, _), t :: _ =>
    if s.me.specOn || s.served p q || decide (n / 2 < recG l.snap) then none
    else match s.succAdd p l 1 with
      | (false, s) => some (none, s)
      | (true, s) =>
      let mid := a.claim.toNat + (n + 1) / 2
      let s := s.upPart p (fun x => { x with launches := x.launches.map (fun o => if o.seq = l.seq && o.cid == l.cid then { o with left := o.left + 1 } else o) })
      let s := s.newTask p l t (posOf q) mid a.rend.toNat true
      some (some mid, (s.upTask p k.tcb (fun k => { k with req := none })).push (.taskBind (posOf q)))
  | _, _ => none

/-- RTNEXT (07 R140). -/
def execRtnext (d : Reg) (s : State) : Out :=
  s.notSys (.rtnext d)
    (let p := s.partOf s.cur
     let (lat, s) : Nat × State := match s.me.bound with
       | none => (1, s)
       | some tcb => match s.task? p tcb with
         | none => (1, s)
         | some k => match s.launch? p k.cid k.seq with
           | none => (1, s)
           | some l => match s.split? p k l with
             | some (some mid, s) => (2, s.upA (fun a => { a with rend := BitVec.ofNat 64 mid }))
             | some (none, s) => (1, s)
             | none => (1, s)
     let a := s.me.a
     let s := s.upA (fun a => if a.claim < a.rend then { a with claim := a.claim + 1 } else a)
     let s := match s.me.bound with
       | none => s
       | some tcb => s.upTask p tcb (fun k => { k with size := s.me.a.rend.toNat - s.me.a.claim.toNat })
     let s := s.putInt d a.rend
     .next ((if lat = 1 then s else s.soon lat [(0, d.toNat)]).doneD 4))

/-! ### TSPAWN, TSYNC, TDONE, YIELD -/

/-- TSPAWN (19 R329): address and translation, then a release that stalls until the status returns. The request names the field
of the record that holds its queue. -/
def execTspawn (d a : Reg) (s : State) : Out :=
  s.notSys (.tspawn d a)
    (s.planned { kind := .load, al := 256, ctr := none, regs := false } [s.g a] (fun hs s =>
      s.watched (touches 256 true false hs)
        (.next (hs.foldl (fun s h =>
          let f := h.pa + 0x28
          let r := s.req s.cur .load h.ea f ((s.homeOf (s.partOf s.cur) (dieOf s.cur) h.pte f).getD h.home) h.pte 8
          ((s.relStep s.cur 3).startWait (.tspawn d r)).push (.releasePerformed s.cur)) s))))

/-- The append, in one step: the status, with the queue it went to. -/
def State.append (s : State) (tk : Nat) (va : Word) (pa home : Nat) : Nat × State :=
  let p := s.partOf tk
  let s := s.hwNote home pa 8 false
  let q := bits (leNat (s.rdBy (fun _ => home) pa 8)) 32 6
  let w3 := s.qw p q 3
  if (s.die p).state ≠ 0 then (1, s)
  else if !s.qOpen p q || !(s.qw p q 0).getLsbD 5 || s.qCid p q ≠ cidOf tk || !w3.getLsbD 15 then (2, s.qErr p q)
  else
    let hd := s.qw p q 1
    let tl := s.qw p q 2
    if (tl - hd).toNat = 2 ^ wbits (s.qw p q 0) 0 5 then (1, s)
    else match s.hwWrite (cidOf tk) p (s.qEntry p q tl.toNat) (wordLe va 8) with
      | none => (2, s.qErr p q)
      | some s => (0, (s.setQw p q 2 (tl + 1)).number p q tl.toNat (tl.toNat + 1))

/-- TSPAWN_STATUS: the append and its status, which ends the stall. -/
def execTspawnStatus (tk : Nat) (s : State) : Out :=
  match (s.t tk).wait with
  | some (.tspawn d r) =>
    let (st, s) := s.append tk r.va r.pa r.home
    .next (s.finishD tk d (BitVec.ofNat 64 st))
  | _ => .next s

/-- TSYNC (19 R344): the release, then the dispatcher's acknowledgement. -/
def execTsync (a : Reg) (s : State) : Out :=
  let w := asmW 0xD0000004 [(a.toNat, 16)]
  if isSys s.cur then s.illegal w
  else .next (((s.relStep s.cur 3).startWait (.tsync (s.g a) (a == 0))).push (.releasePerformed s.cur))

/-- What the dispatcher does for a TSYNC on a TCB that is named by its physical address (19 R337). -/
def State.tsyncTcb (s : State) (p cid pa : Nat) : State :=
  match s.task? p pa with
  | none => s
  | some k =>
    if k.cid ≠ cid || k.st ≠ 4 || (s.part p).fq.any (fun e => e.tcb == pa) then s
    else
      let (r, s) := s.getTcb p pa
      if r.state = 7 then
        (s.putTcb p pa { r with state := 3 }).upTask p pa (fun k => { k with st := 3, wait := none, wclk := r.wclk, wlim := r.wlim })
      else if r.state = 6 then s.endTask p pa
      else s

/-- TSYNC_ACK: the caches drop what the TSYNC names, and the stall ends. -/
def execTsyncAck (tk : Nat) (s : State) : Out :=
  let cid := cidOf tk
  let p := s.partOf tk
  let fin (s : State) : Out := .next (s.finish tk)
  match (s.t tk).wait with
  | some (.tsync va all) =>
    if all then
      fin (s.upPart p (fun x => { x with recs := x.recs.filter (fun r => r.2.1 != cid), tcbs := x.tcbs.filter (fun r => r.2.cid != cid) }))
    else match s.site tk va .load (s.t tk).priv with
      | (.ok pa _ _, s) =>
        let s := s.upPart p (fun x =>
          { x with recs := x.recs.filter (fun r => !(r.1 == pa && r.2.1 == cid))
                   tcbs := x.tcbs.filter (fun r => !(r.1 == pa && r.2.cid == cid)) })
        fin (s.tsyncTcb p cid pa)
      | (.flt c, s) => .next ((s.upT tk (fun t => { t with wait := none })).waitTrap tk c va)
      | (.held, s) => .next s
      | (.void _, s) => .next s
  | _ => .next s

/-- TDONE (07 R142). -/
def execTdone (s : State) : Out :=
  s.notSys .tdone (.next ((s.startWait .tdone).push (.releasePerformed s.cur)))

/-- Step 1 of TDONE: earlier accesses are performed, their results are written, the engine operations have retired. -/
def State.tdoneDrained (s : State) (tk : Nat) : Bool :=
  s.allPerformed tk && (s.t tk).busy.all (fun b => b.due.isSome) && !(s.cc (ccOf tk)).sb.any (fun e => e.tk == tk)

/-- Residual entries that the thread set owns stand in its core's tile. -/
def State.ownsRes (s : State) (tk : Nat) : Bool :=
  (s.core (coreOf tk)).tile.toList.any (fun x => match x with
    | some e => e.r.own.getLsbD (tsOf tk) && e.r.cid == cidOf tk
    | none => false)

/-- Steps 4 and 5 of TDONE. -/
def State.tdoneEnd (s : State) (tk : Nat) : State :=
  let p := s.partOf tk
  match (s.t tk).bound with
  | none => s.upT tk TSet.idle
  | some tcb => ((s.upT tk (fun t => (TSet.idle t).ev 2)).endTask p tcb).push (.taskBind (posOf tk))

/-- A park that no fault makes: the task stays parked, its park is traced under TRTRAP (23 R399, R408). -/
def State.yieldTo (s : State) (tk : Nat) (pc : Word) (w : Option (Nat × Nat × Word)) : State :=
  let st := s.stepOf tk
  let trp := (s.t tk).pmctl.getLsbD 5
  let s := s.park tk 3 pc w
  if trp then State.trace { s with free := s.free + 1 } tk 3 st pc (Config.parkCause s.free) else s

/-- The current instruction completes without the SSTEP of 23 R405. -/
def State.doneNoStep (s : State) (len : Nat) : State :=
  let w := s.me.pmctl
  ((s.upMe (fun t => { t with pmctl := putBits t.pmctl 2 1 0 })).done len).upMe (fun t => { t with pmctl := w })

/-- YIELD (07 R143): where a candidate waits for the thread set, its task parks behind the YIELD and the thread set is bound to
the other one; a NOP otherwise. A YIELD that parks its task raises no SSTEP (log 83). -/
def execYield (s : State) : Out :=
  s.notSys .yield
    (let tk := s.cur
     let p := s.partOf tk
     match s.candidate p (cidOf tk) (posOf tk) with
     | none => .next (s.done 4)
     | some k =>
       if s.me.busy.any (fun b => b.due.isNone) then s.again
       else
         let s := s.doneNoStep 4
         let s := s.yieldTo tk s.me.pc none
         match s.launch? p k.cid k.seq with
         | none => .next s
         | some l => .next (s.bindTask p tk k l))

/-- A WAITGE that waits past its launch's threshold while a lower ordinal could run on the core (07 R146; 19 R342). -/
def State.yieldParks (s : State) (tk : Nat) : Option (Nat × Nat × Word) :=
  let t := s.t tk
  let p := s.partOf tk
  match t.wait, t.bound with
  | some (.waitge _ r _), some tcb =>
    match s.task? p tcb with
    | none => none
    | some k => match s.launch? p k.cid k.seq with
      | none => none
      | some l =>
        if recYieldt l.snap ≠ 0 && decide (recYieldt l.snap * 256 < t.wclk) && t.busy.all (fun b => b.due.isSome)
            && (s.part p).tasks.any (fun c => (s.rank p k.cid (posOf tk) c).isSome && ordLt c k) then some (r.pa, if r.p00 then 256 else r.home, r.cmp)
        else none
  | _, _ => none

/-- YIELD_PARK. -/
def execYieldPark (tk : Nat) (s : State) : Out :=
  match s.yieldParks tk with
  | none => .next s
  | some w =>
    let s := (s.unregister tk).dropPend (fun e => e == .waitgeRepoll tk || e == .waitgeWake tk)
    .next ((s.yieldTo tk (s.t tk).pc (some w)).push (.taskBind (posOf tk)))

/-! ### Admission (19 R331) -/

/-- What step 1 says of a queue's head. -/
inductive Step1 where
  | go
  | wait (ctr : Option (Nat × Nat × Word))   -- counter address, home, target where it waits for the counter
  | refuse (code : Nat)
  deriving DecidableEq, Repr

/-- Address of the head's record, where its ring entry can be read. -/
def State.headVa (s : State) (p q : Nat) : Option Word × State :=
  match (s.learn p (s.qCid p q)).hwRead (s.qCid p q) p (s.qEntry p q (s.qw p q 1).toNat) 8 with
  | (some bs, s) => (some (leWord bs), s)
  | (none, s) => (none, s)

/-- The predecessor counter of a record, where it can be read. -/
def State.step1Ctr (s : State) (p q : Nat) (va : Word) : Option (Nat × Nat) :=
  let cid := s.qCid p q
  match (s.hwRead cid p (va + 0x60) 8).1 with
  | some bs => if leNat bs = 0 then none else ((s.xlatHw cid p (leWord bs) .load 1).1).map (fun x => (x.1, x.2.1))
  | none => none

/-- Step 1: the predecessor counter's address, then PREDN and the counter, read at their home slices. -/
def State.step1 (s : State) (p q : Nat) : Step1 :=
  let cid := s.qCid p q
  match s.headVa p q with
  | (none, _) => .refuse cPfLd
  | (some va, s) =>
    if va.toNat % 256 ≠ 0 then .refuse cPfLd
    else match (s.hwRead cid p (va + 0x60) 16).1, (s.hwRead cid p (va + 0x80) 8).1 with
      | some bs, some ps =>
        let x := leNat bs
        let ctr := BitVec.ofNat 64 (bits x 0 64)
        let tgt := BitVec.ofNat 64 (bits x 64 64)
        let ready := !(BitVec.slt 0 (leWord ps))
        if ctr = 0 then (if ready then .go else .wait none)
        else if ctr.toNat % 8 ≠ 0 then .refuse cMisalign
        else match s.walkBy true cid ctr .load 1 with
          | (.ok pa pte, _, s) =>
            (match s.homeOf (s.ctx cid).part p pte pa with
             | none => .refuse cAccess
             | some h =>
               if !pte.getLsbD 7 then .refuse cAccess
               else if !ready then .wait none
               else if tgt.toNat ≤ leNat (s.rdBy (fun _ => h) pa 8) then .go else .wait (some (pa, h, tgt)))
          | (.access, _, _) => .refuse cAccess
          | (_, _, _) => .refuse cPfLd
      | _, _ => .refuse cPfLd

/-- Queues with a head to take. -/
def State.heads (s : State) (p : Nat) : List Nat :=
  (span 0 64).filter (fun q => s.qOpen p q && s.qw p q 1 != s.qw p q 2)

/-- A head that step 1 lets go on, or refuses. -/
def State.headGoes (s : State) (p q : Nat) : Bool := match s.step1 p q with | .wait _ => false | _ => true

/-- The queue whose head is taken: the highest PRIO, round-robin among equals. -/
def State.pickQueue (s : State) (p : Nat) : Option Nat :=
  let qs := (s.heads p).filter (s.headGoes p)
  let pr (q : Nat) : Nat := wbits (s.qw p q 3) 12 3
  firstBy (fun a b => decide (pr b < pr a) || (pr a == pr b &&
    decide ((a + 64 - vget (s.part p).rrq (pr a) 0) % 64 < (b + 64 - vget (s.part p).rrq (pr b) 0) % 64))) qs

/-- Registers the waiters of heads that wait for a counter (10 R199). -/
def State.admWaiters (s : State) (p : Nat) : State :=
  (s.heads p).foldl (fun s q =>
    match s.step1 p q with
    | .wait (some (pa, h, tgt)) =>
      if (s.slice h).wait.any (fun x => x.1 == .adm p q) || decide (256 ≤ (s.slice h).wait.length) then s
      else s.upSlice h (fun sl => { sl with wait := (.adm p q, pa, tgt) :: sl.wait })
    | _ => s) s

/-- HEAD moves past the entry. -/
def State.popHead (s : State) (p q : Nat) : State := s.setQw p q 1 (s.qw p q 1 + 1)

/-- A refusal (19 R331, R334): its entry in the launch's fault queue, or in the context's default one. -/
def State.refuse (s : State) (p q : Nat) (va : Word) (fq : Word) (code : Nat) : State :=
  let cid := s.qCid p q
  let e : FqEnt :=
    { cid := cid, va := fq &&& ~~~(0x3F : Word), phys := false, z := wbits fq 0 6, tcb := 0, dflt := false, q := q
      words := [0, BitVec.ofNat 64 code, 0, 0, 0, va, 0, 0] }
  let e := if wbits fq 6 58 = 0 then s.toDefault e else e
  let k := q * 2 ^ 64 + (s.qw p q 1).toNat
  ((s.popHead p q).upPart p (fun x =>
    { x with fq := x.fq ++ [e], adm := none, admAt := s.cyc + 16, qseq := mdel x.qseq k })).push (.faultQueueWrite p)

/-- Bits of the record that are reserved; a pennant ring has 2^0 to 2^16 entries (14 R279). -/
def recReserved (x : BitVec 2048) : Bool :=
  recN x 0x20 46 2 ≠ 0 || recN x 0x20 51 5 ≠ 0 || recN x 0x20 62 2 ≠ 0 || recN x 0x28 24 8 ≠ 0 || recN x 0x28 38 2 ≠ 0
  || recN x 0x28 43 21 ≠ 0 || recN x 0x30 10 54 ≠ 0 || decide (5 ≤ recN x 0x20 48 3) || decide (32 < recQuota x)
  || (span 0 8).any (fun h => decide (16 < wbits (recRing x h) 0 5)) || decide (6 ≤ recN x 0x30 0 3) || (wbits (recFq x) 6 58 != 0 && decide (16 < wbits (recFq x) 0 6))

/-- Pages of [va, va + n). -/
def pagesOf (va n : Nat) : List Nat := if n = 0 then [] else span (va / 65536) ((va + n - 1) / 65536 + 1 - va / 65536)

/-- May the dispatcher use every page of [va, va + n) so? It writes no page of counters (10 R197). -/
def State.canUse (s : State) (p cid : Nat) (va n : Nat) (k : AccessKind) : Bool :=
  (pagesOf va n).all (fun pg =>
    match (s.xlatHw cid p (BitVec.ofNat 64 (pg * 65536)) k 1).1 with
    | some (_, _, pte) => !(kWrites k && pte.getLsbD 7)
    | none => false)

/-- May the launch's fault queue be used: its own, or the context's default one, which lies in the partition's memory (19 R331,
R334; 20 R358)? -/
def State.fqUsable (s : State) (p cid : Nat) (x : BitVec 2048) : Bool :=
  let w := recFq x
  let d := (s.ctx cid).dfq
  if wbits w 6 58 ≠ 0 then s.canUse p cid (wbits w 6 58 * 64) (64 + 64 * 2 ^ wbits w 0 6) .rmw
  else decide (wbits d 0 6 ≤ 16) && (pagesOf (wbits d 6 58 * 64) (64 + 64 * 2 ^ wbits d 0 6)).all (fun pg =>
    s.inPartition p (pg * 65536) && !s.retired (pg * 65536))

/-- Can the partition's pool be used: it lies in the partition's memory (19 R330; 21 R377)? -/
def State.partPool (s : State) (p : Nat) : Bool :=
  let b := s.pdesc p 0x20
  (pagesOf (wbits b 13 51 * 8192) (wbits b 0 13 * 8192)).all (fun pg =>
    (match s.paClass (pg * 65536) with | .dram _ => s.inPartition p (pg * 65536) | _ => false) && !s.retired (pg * 65536))

/-- The checks of step 3 that give ILLEGAL_INSN, ACCESS, BANK_QUOTA and the page faults, in this order; a fault queue that fails
comes after the TCB pool, and the answer says that it was what failed. -/
def State.step3 (s : State) (p cid : Nat) (x : BitVec 2048) : Option (Nat × Bool) :=
  let hs := recHandles x
  let n := recHi x - recLo x
  let m := (recTasks x).length
  let posOk (h : Nat) : Bool := (span 0 32).all (fun i =>
    !(recMem x h).testBit i || ((recCores x).testBit (i / 4) && decide (i % 4 < recTpc x)))
  let fits := decide (recN x 0x28 0 4 + recN x 0x28 8 4 ≤ 15) && decide (recN x 0x28 4 4 + recN x 0x28 12 4 ≤ 15)
    && (recClusters x).all (fun c => (s.diesOf p).contains (dieOfRouter c))
  let ctrPte := (s.xlatHw cid p (recCplctr x) .rmw 1).1
  let dfq := (s.ctx cid).dfq
  if recReserved x || (recN x 0x30 4 1 = 1 && recN x 0x30 5 2 = 0) || wbits (recEntry x) 0 2 ≠ 0
      || !(hs.map (recChan x)).Nodup then some (1, false)
  else if !fits || (n ≠ 0 && recPositions x == []) || !hs.all posOk || decide (poolSize s p x < m)
      || (recCplctr x ≠ 0 && (match ctrPte with | some t => !t.2.2.getLsbD 7 | none => false))
      || (wbits (recFq x) 6 58 = 0 && wbits dfq 6 58 = 0) then some (cAccess, false)
  else if recQuota x < (s.imagesOf cid (recEntry x)).length then some (cQuota, false)
  else
    let pool := if wbits (recTcb x) 13 51 = 0 then s.partPool p else s.canUse p cid (wbits (recTcb x) 13 51 * 8192) (wbits (recTcb x) 0 13 * 8192) .rmw
    let ring (h : Nat) : Bool :=
      let b := (recRing x h).toNat / 32 * 32
      b == 0 || s.canUse p cid b (32 * 2 ^ wbits (recRing x h) 0 5) .store
    let succ := recSucc x = 0 || ((recSucc x).toNat % 256 = 0 && s.canUse p cid (recSucc x).toNat 256 .rmw)
    let cpl := recCplctr x = 0 || ((recCplctr x).toNat % 8 = 0 && ctrPte.isSome)
    if !pool then some (cPfSt, false)
    else if !s.fqUsable p cid x then some (cPfSt, true)
    else if hs.all ring && succ && cpl then none else some (cPfSt, false)

/-- Step 4: the channels and enough TCBs are free. -/
def State.step4 (s : State) (p : Nat) (a : Adm) : Bool :=
  (recHandles a.snap).all (fun h => (s.chan (recChan a.snap h)).grant.isNone) &&
  decide ((recTasks a.snap).length ≤ (s.freeTcbs p (s.qCid p a.q) a.snap).length)

/-- The level of a channel's domain (07 R148): 0 cluster, 1 die, 2 partition, 3 package. -/
def levelOf (s : State) (p : Nat) (cs : List Nat) : Nat :=
  let ds := (cs.map dieOfRouter).eraseDups
  if cs.length ≤ 1 then 0 else if ds.length ≤ 1 then 1 else if ds.all (fun d => (s.diesOf p).contains d) then 2 else 3

/-- Grants the channel of a handle (14 R268-R270): its positions are members, none has arrived. -/
def State.grantChan (s : State) (p cid seq : Nat) (x : BitVec 2048) (h : Nat) : State :=
  let cs := recClusters x
  let mem : AMap (BitVec 32) := cs.map (fun c => (c, BitVec.ofNat 32 (recMem x h)))
  let g : ChanSt :=
    { ChanSt.reset with grant := some (cid, seq, h), op := recVote x h, vote := voteId (recVote x h), mem := mem
                        ring := recRing x h, level := levelOf s p cs }
  let s := s.upChan (recChan x h) (fun _ => g)
  (positions mem).foldl (fun s q => if (mfind s.ts (tkOf cid q)).isSome then s.upBarAt (tkOf cid q) h (fun _ => BarSt.reset) else s) s

/-- Step 5: tasks, channels, the successor's count, HEAD; a launch with no task completes. -/
def State.step5 (s : State) (p : Nat) (a : Adm) : State :=
  let cid := s.qCid p a.q
  let seq := mget (s.part p).qseq (a.q * 2 ^ 64 + (s.qw p a.q 1).toNat) 0
  let ts := recTasks a.snap
  let l : Launch := { seq := seq, va := a.va, pa := a.pa, cid := cid, q := a.q, snap := a.snap, left := ts.length, first := [] }
  let free := s.freeTcbs p cid a.snap
  let s := s.upPart p (fun x =>
    { x with launches := x.launches ++ [l], adm := none, admAt := s.cyc + 16
             qseq := mdel x.qseq (a.q * 2 ^ 64 + (s.qw p a.q 1).toNat) })
  let s := (ts.zip free).foldl (fun s k => s.newTask p l k.2 k.1.1 k.1.2.1 k.1.2.2 false) s
  let s := (recHandles a.snap).foldl (fun s h => s.grantChan p cid seq a.snap h) s
  let s := (s.succAdd p l (BitVec.ofNat 64 ts.length - 1)).2
  let s := s.popHead p a.q
  if ts = [] then s.complete? p cid seq else s

/-- What the dispatcher reads of a queue's descriptor and of its head's ring entry and conditions when it takes it (23 R406). -/
def State.noteHead (s : State) (p q : Nat) : State :=
  let cid := s.qCid p q
  let s := s.noteN (s.home00 p) (s.qAt p q) 32 false 3
  match s.headVa p q with
  | (none, s) => s
  | (some va, s) =>
    let s := (s.hwRead cid p (va + 0x60) 16).2
    let s := (s.hwRead cid p (va + 0x80) 8).2
    match s.step1Ctr p q va with
    | some (pa, h) => s.hwNote h pa 8 false
    | none => s

/-- Takes the head of a queue: refused, admitted, or waiting in step 4. -/
def State.takeHead (s : State) (p q : Nat) : State :=
  let cid := s.qCid p q
  let s := s.upPart p (fun x => { x with rrq := vset x.rrq (wbits (s.qw p q 3) 12 3) ((q + 1) % 64) })
  let s := s.noteHead p q
  let fqOf (s : State) (va : Word) : Word := match s.hwRead cid p (va + 0x78) 8 with | (some bs, _) => leWord bs | (none, _) => 0
  match s.headVa p q with
  | (none, s) => s.refuse p q 0 0 cPfLd
  | (some va, s) =>
    match s.step1 p q with
    | .wait _ => s
    | .refuse c => s.refuse p q va (fqOf s va) c
    | .go =>
      match s.getRec p cid va with
      | (none, s) => s.refuse p q va 0 cPfLd
      | (some (pa, x), s) =>
        match s.step3 p cid x with
        | some (c, bad) => s.refuse p q va (if bad then 0 else recFq x) c
        | none =>
          let a : Adm := { q := q, va := va, pa := pa, snap := x }
          if s.step4 p a then s.step5 p a else s.upPart p (fun y => { y with adm := some a })

/-- May the dispatcher begin an admission? Its partition runs or drains (21 R379 step 1). -/
def State.admits (s : State) (p : Nat) : Bool :=
  decide ((s.die p).state ≤ 1) && (s.part p).adm.isNone && decide ((s.part p).admAt ≤ s.cyc)

/-- ADMISSION. -/
def execAdmission (part : Nat) (s : State) : Out :=
  if !s.admits part then .next s
  else
    let s := s.admWaiters part
    match s.pickQueue part with
    | none => .next s
    | some q => .next (s.takeHead part q)

/-- ADMISSION_WAIT_END: the waiting admission proceeds, or a head that waited in step 1 is taken. -/
def execAdmissionWaitEnd (part : Nat) (s : State) : Out :=
  match (s.part part).adm with
  | some a => if s.step4 part a then .next (s.step5 part a) else .next s
  | none => execAdmission part s

end Sys2Proof.Machine
end

