-- ==== Sys2Proof/Machine/Contexts.lean ====
section
/-! DEFINITION. Contexts on a core: the SYS instructions, interrupts, CNEXT, IPOST, pre-emption, images, termination and
TLBINV (20 R348-R371; 25 R426). -/

namespace Sys2Proof.Machine

/-! ### SYS (20 R354-R357) -/

def execEcall (s : State) : Out := .next (s.trap 0x20 0)
def execEbreak (s : State) : Out := .next (s.trap 0x21 0)

/-- ERET (20 R355). -/
def execEret (s : State) : Out :=
  if s.me.priv = 0 || decide (s.me.priv < wbits s.me.escr 0 2) then s.privFault 0xD4000002 else .next s.eret

def execWfi (s : State) : Out := if s.me.priv = 0 then s.privFault 0xD4000003 else .next (s.startWait .wfi)

/-- HALT: the system core stops and goes on at pc + 4 with a start (20 R357). -/
def execHalt (s : State) : Out :=
  if s.me.priv ≠ 3 then s.privFault 0xD4000005 else .next ((s.done 4).upMe (fun t => { t with halted := true }))

/-! ### Interrupts (20 R353) -/

/-- The position of the partition's supervisor context that receives terminations: its context and identity word. -/
def State.eventPos (s : State) (p : Nat) : Option (Nat × Nat) :=
  let w := s.pdesc p 0x18
  if w.getLsbD 12 then
    let cid := wbits w 0 12
    let st := ((s.learn p cid).ctx cid).state
    if st.getLsbD 2 then some (cid, wbits st 16 13) else none
  else none

/-- The interrupt that a thread set would take: a termination, or its lowest line. -/
def State.irqOf (s : State) (tk : Nat) : Option (Nat × Word) :=
  let c := s.ctx (cidOf tk)
  let t := s.t tk
  let term := if wbits c.state 16 13 = posOf tk && c.state.getLsbD 2 then c.terms.head? else none
  match term with
  | some x => some (0x41, BitVec.ofNat 64 x.1)
  | none =>
    match (span 0 8).find? (fun k => t.irq.getLsbD k) with
    | some k => some (0x80 + k, if k = 6 then t.pmovf else 0)
    | none => none

def State.clearIrq (s : State) (tk code : Nat) : State :=
  if code = 0x41 then s.upCtx (cidOf tk) (fun c => { c with terms := c.terms.drop 1 })
  else s.upT tk (fun t => { t with irq := t.irq &&& ~~~(BitVec.ofNat 8 (2 ^ (code - 0x80))) })

/-- Events that end or advance the wait of a thread set. -/
def waitEv (tk : Nat) (e : Ev) : Bool :=
  match e with
  | .releasePerformed k => k == tk
  | .waitgeWake k => k == tk
  | .waitgeRepoll k => k == tk
  | .waitTimeout k => k == tk
  | .battWake k => k == tk
  | .hoverTableStep k => k == tk
  | .bdetTableStep k => k == tk
  | .bwaitWake k => k == tk
  | .barwWake k => k == tk
  | .recvWake k => k == tk
  | .tsyncAck k => k == tk
  | .tlbinvAck k _ => k == tk
  | .yieldPark k => k == tk
  | _ => false

/-- The wait of a thread set is abandoned, with pc at its instruction; a bounded wait keeps its clock (05 R87; 07 R145; 08
R168). -/
def State.abandonWait (s : State) (tk : Nat) : State :=
  let t := s.t tk
  match t.wait with
  | none => s
  | some w =>
    let s := match w with
      | .hover slot core tslot _ => (s.unmark (ccOf tk) slot).unreserve (cidOf tk * 2048 + core) tslot
      | .bdet slot => s.unmark (ccOf tk) slot
      | .waitge .. => s.unregister tk
      | _ => s
    (s.dropPend (waitEv tk)).upT tk (fun t => { t with wait := none, wclk := if w.bounded then t.wclk else 0 })

/-- The registers before an operation, with what others have changed since: barrier states, GATED, and planes that gating has
lost. -/
def Arch.backFrom (a now : Arch) : Arch :=
  let b := { a with bar := now.bar, dmode := putBits a.dmode 4 1 (wbits now.dmode 4 1) }
  if now.dmode.getLsbD 4 then { b with gd1 := now.gd1, gd2 := now.gd2, vd1 := now.vd1, vd2 := now.vd2 } else b

/-- A long operation that still executes is abandoned: its results are not written and it runs again (05 R87); a write of NXMC that
waited after it goes with it (02 R33). -/
def State.undoLong (s : State) (tk : Nat) : State :=
  match (s.t tk).undo with
  | none => s
  | some (a, pc, due) =>
    if due ≤ s.cyc then s
    else s.upT tk (fun t =>
      { t with a := a.backFrom t.a, pc := pc, undo := none, nxmTo := none, busy := t.busy.filter (fun b => match b.due with | some d => decide (d < due) | none => true) })

/-- A SIGADD or TSPAWN that has been sent completes before anything else happens to its thread set. -/
def TSet.sent (t : TSet) : Bool :=
  match t.wait with
  | some .sigadd => true
  | some (.tspawn _ _) => true
  | _ => false

/-- May the thread set take its interrupt at this boundary? A crossing that commits in this cc comes first (14 R290). -/
def State.irqReady (s : State) (tk : Nat) : Bool :=
  let t := s.t tk
  !isSys tk && (s.core (coreOf tk)).act == some (cidOf tk) && t.bound.isSome && t.ie && !t.stopped && !t.sent
    && (s.irqOf tk).isSome && !s.inFlight (fun e => e == .specCommit tk)

/-- INTERRUPT_DELIVERY: a crossing is aborted first, and EPC is then the BARWS. -/
def execInterruptDelivery (tk : Nat) (s : State) : Out :=
  if !s.irqReady tk then .next s
  else match s.irqOf tk with
    | none => .next s
    | some (code, tval) =>
      let s := (s.abortSpec tk).undoLong tk
      let s := s.abandonWait tk
      .next ((s.clearIrq tk code).enterHandler tk code tval (s.t tk).pc)

/-- IPOST: lines 0-5 of a position of a live context of the partition (20 R359). -/
def execIpost (lines : BitVec 8) (pos cid : Nat) (s : State) : Out :=
  let p := s.partOfDie (dieOfRouter (pos / 32))
  if !s.cidIn p cid then .next s
  else
    let s := s.learn p cid
    .next (if (s.ctx cid).state.getLsbD 0 then s.postIrq (tkOf cid pos) (lines &&& 0x3F) else s)

/-! ### Images (20 R360) -/

/-- The first block of a thread set's image. -/
def State.imageTcb (s : State) (tk : Nat) : TcbRec :=
  let t := s.t tk
  let p := s.partOf tk
  match t.bound with
  | some tcb => match s.task? p tcb with
    | some k => t.tcb { k with pos := posOf tk } (match s.launch? p k.cid k.seq with | some l => l.va | none => 0) 2 t.pc
    | none => { t.tcb { tcb := 0, seq := 0, low := 0, cid := cidOf tk, st := 0, pos := posOf tk, hv := false, split := false
                        wait := none, wclk := 0, wlim := 0, size := 0, req := none } 0 0 t.pc with hv := false }
  | none => { t.tcb { tcb := 0, seq := 0, low := 0, cid := cidOf tk, st := 0, pos := posOf tk, hv := false, split := false
                      wait := none, wclk := 0, wlim := 0, size := 0, req := none } 0 0 t.pc with hv := false }

/-- The words of a position that no TCB holds. -/
def TSet.posWords (t : TSet) : List Word :=
  [t.epc, t.cause, t.tval, t.escr, t.cycle] ++ t.pmc.toList ++ t.pmsel.toList
    ++ [t.pmovf, t.pmctl, t.irq.setWidth 64, putBits (putBits t.specst 0 1 0) 8 8 0, t.speccnt]

/-- Writes a core's image, 64 KiB, where it lies in the partition's memory (21 R373). -/
def State.putImage (s : State) (cid core : Nat) : State :=
  let p := (s.ctx cid).part
  match s.imageIn cid core with
  | none => s
  | some im =>
  let s := (span 0 4).foldl (fun s k =>
    s.wr00 p (im + 0x2000 * k) cid (s.imageTcb (tkOf cid (core * 4 + k))).bytes) s
  let words := (span 0 4).flatMap (fun k => padTo 0x200 ((s.t (tkOf cid (core * 4 + k))).posWords.flatMap (fun w => wordLe w 8)))
  s.wr00 p (im + 0x8000) cid (padTo 0x1000 words ++ (s.cc (cid * 2048 + core)).imageTail)

/-- The first LOAD of a context on a core gives its words their values after reset (00 R8), with the lines that have been posted
meanwhile (log 2). -/
def State.newImage (s : State) (cid core k : Nat) : TSet :=
  { TSet.reset with irq := (s.rdWord (s.ctx cid).part (s.imageAt cid core + 0x8000 + 0x200 * k + 0xB8)).setWidth 8, readyAt := s.cyc + 1 }

/-- A thread set from its image; a task of that ordinal is bound there again. -/
def State.getImage (s : State) (cid core k : Nat) (kept : Kept) : TSet :=
  let im := s.imageAt cid core
  let p := (s.ctx cid).part
  let r := tcbOf (leNat (s.rd00 p (im + 0x2000 * k) 8192))
  let x := leNat (s.rd00 p (im + 0x8000 + 0x200 * k) 0x200)
  let w (o : Nat) : Word := fieldW x o
  let task := if r.state = 2 then (s.part p).tasks.find? (fun q => q.cid == cid && q.seq == r.seq && q.low == r.low.toNat && q.st == 2) else none
  let lim := match task with
    | some q => (match s.launch? p q.cid q.seq with | some l => recN l.snap 0x30 8 2 | none => 3)
    | none => 3
  { TSet.reset with
    a := { r.a with status := cleanStatus r.a.status }, bound := task.map Task.tcb, pc := r.pc &&& ~~~(3 : Word), epc := w 0 &&& ~~~(3 : Word)
    cause := w 8 &&& 0xFF, tval := w 0x10, escr := w 0x18 &&& 0x3BF, cycle := w 0x20
    pmc := vtab 8 0 (fun i => w (0x28 + 8 * i) &&& 0xFFFFFFFFFFFF), pmsel := vtab 8 0 (fun i => w (0x68 + 8 * i) &&& 0x7FF)
    pmovf := w 0xA8 &&& 0xFF, pmctl := w 0xB0 &&& 0x7F, irq := (w 0xB8).setWidth 8, specst := w 0xC0, speccnt := w 0xC8
    residx := r.residx &&& 0x7FF, wlimit := r.wlimit, wclk := r.wclk, wlim := r.wlim, eceil := lim, exempt := kept.exempt
    watch := kept.watch, callAt := kept.callAt, entered := kept.entered, after := kept.after, quiet := kept.quiet, readyAt := s.cyc + 1 }

/-- An access of the context on a core that is not performed or whose reply is on its way: the save waits for it (05 R87; 10 R203; 20
R361; 22 R398). -/
def leaving (cid core : Nat) (e : Ev) : Bool :=
  let on (r : Req) : Bool := !isSys r.who && cidOf r.who == cid && coreOf r.who == core
  match e with
  | .homeLoadServe r => on r
  | .loadReply r => on r
  | .amoSliceApply r => on r
  | .amoReply r => on r
  | .sigaddApply r => on r
  | .homeStoreApply r => on r
  | .replicaCollapseAck r => on r
  | .redArrival r => on r
  | .refusalReturn r => on r
  | _ => false

/-- Is everything of the context on a core that a stream out waits for at an end (20 R361)? -/
def State.settledOut (s : State) (cid core : Nat) : Bool :=
  (span 0 4).all (fun k =>
    let t := s.t (tkOf cid (core * 4 + k))
    t.busy.all (fun b => b.due.isSome) && t.wait.isNone) && !s.inFlight (leaving cid core)
  && !(s.cc (cid * 2048 + core)).writing s.cyc && !(s.cc (cid * 2048 + core)).sb.any (fun e => match e.ten? with | some o => o.phase == 2 | none => false)

/-- A context becomes resident on a core: its words, its image where it has left one there (00 R8), NXMC, OVF and the engines' operations. -/
def State.streamIn (s : State) (cid core : Nat) : State :=
  let p := s.partOfDie (dieOfRouter (core / 8))
  let s := s.learn p cid
  let s := s.upCtx cid (fun c => { c with res := c.res + 1 })
  let old := (mfind (s.ctx cid).kept (core * 4)).isSome
  let x := if old then leNat (s.rd00 p (s.imageAt cid core + 0x9000) 16) else 0
  let s := (span 0 4).foldl (fun s k => s.setT (tkOf cid (core * 4 + k))
    (match mfind (s.ctx cid).kept (core * 4 + k) with | some y => s.getImage cid core k y | none => s.newImage cid core k)) s
  let s := s.upCC (cid * 2048 + core) (fun c => { c with nxm := x.testBit 0, ovf := x.testBit 95 })
  let s := if old then s.getOps (cid * 2048 + core) (leNat (s.rd00 p (s.imageAt cid core + 0x9100) 0xB00)) else s
  let s := (span 0 4).foldl (fun s k => s.upCtx cid (fun c => { c with kept := mdel c.kept (core * 4 + k) })) s
  s.upCore core (fun c => { c with stby := some cid, strm := none })

/-- The words of a context that leaves its last core go back to its descriptor. -/
def State.unlearn (s : State) (cid : Nat) : State :=
  let c := (s.ctx cid).land (fun _ => true)
  if c.res ≠ 0 then s
  else (s.upCtx cid (fun _ => c)).wr00 c.part (c.desc + 8) cid ([c.tvec, c.wlimit, c.ebudget, c.ecost, c.erefill, c.resq].flatMap (fun w => wordLe w 8))

/-- A wake of a thread set's planes that is under way completes (02 R28). -/
def TSet.woken (t : TSet) : TSet :=
  if t.wakeAt.isNone then t else { t with a := { t.a with dmode := putBits t.a.dmode 4 1 0 }, wakeAt := none, quiet := 0 }

/-- A context leaves a core. -/
def State.streamOut (s : State) (cid core : Nat) : State :=
  let s := (span 0 4).foldl (fun s k => s.upT (tkOf cid (core * 4 + k)) TSet.woken) s
  let s := s.putImage cid core
  let s := (span 0 4).foldl (fun s k =>
    let t := s.t (tkOf cid (core * 4 + k))
    let y : Kept := { exempt := t.exempt, watch := t.watch, callAt := t.callAt, entered := t.entered, after := t.after, quiet := t.quiet }
    s.upCtx cid (fun c => { c with kept := mset c.kept (core * 4 + k) y })) s
  let s : State := { s with ts := s.ts.filter (fun x => isSys x.1 || !(cidOf x.1 == cid && coreOf x.1 == core)) }
  let s := (s.upCtx cid (fun c => { c with res := c.res - 1 })).unlearn cid
  s.upCore core (fun c => { c with stby := none, strm := none })

/-- Has the context a descriptor that lets a LOAD name it on a core: in the partition's range, live, with an image there (20 R358,
R359)? -/
def State.hasImage (s : State) (cid core : Nat) : Bool :=
  let p := s.partOfDie (dieOfRouter (core / 8))
  let s := s.learn p cid
  let im := s.imageAt cid core
  s.cidIn p cid && (s.ctx cid).state.getLsbD 0 && im != 0 && im % 65536 == 0 && s.inPartition p im

/-- Has a LOAD of the context a stream to begin: it is not on the core yet? -/
def State.loadable (s : State) (cid core : Nat) : Bool :=
  s.hasImage cid core && (s.core core).act != some cid && (s.core core).stby != some cid

/-- Begins the stream of a LOAD, the standby context's stream out first. -/
def State.startLoad (s : State) (core cid : Nat) : State :=
  match (s.core core).stby with
  | some x =>
    (s.upCore core (fun c => { c with strm := some (x, false), wantLd := cid :: c.wantLd })).pushAt (s.cyc + 256) (.contextStreamEnd core)
  | none =>
    (s.upCore core (fun c => { c with strm := some (cid, true) })).pushAt (s.cyc + 256) (.contextStreamEnd core)

/-- The first of the LOADs that wait begins, those that have nothing to stream left out. -/
def State.nextLoad (s : State) (core : Nat) : State :=
  match (s.core core).wantLd.dropWhile (fun x => !s.loadable x core) with
  | x :: l => (s.upCore core (fun c => { c with wantLd := l })).startLoad core x
  | [] => s.upCore core (fun c => { c with wantLd := [] })

/-- CNEXT_LOAD: it waits for a stream in progress. -/
def execCnextLoad (core cid : Nat) (s : State) : Out :=
  if (s.core core).strm.isSome then
    .next (if s.hasImage cid core then s.upCore core (fun c => { c with wantLd := c.wantLd ++ [cid] }) else s)
  else .next (if s.loadable cid core then s.startLoad core cid else s)

/-- CONTEXT_STREAM_END; a stream out waits for the context's last replies and write-backs. -/
def execContextStreamEnd (core : Nat) (s : State) : Out :=
  match (s.core core).strm with
  | none => .next s
  | some (cid, true) =>
    .next ((s.streamIn cid core).nextLoad core)
  | some (cid, false) =>
    if !s.settledOut cid core then .next (s.pushAt (s.cyc + 1) (.contextStreamEnd core))
    else .next ((s.streamOut cid core).nextLoad core)

/-! ### Pre-emption (20 R361, R362) -/

/-- A thread set of a context that leaves a core: crossing, long operation and wait go; WFI completes. -/
def State.stopTs (s : State) (tk : Nat) : State :=
  let s := (s.abortSpec tk).undoLong tk
  match (s.t tk).wait with
  | none => s
  | some .wfi => s.finish tk
  | some _ => if (s.t tk).sent then s else s.abandonWait tk

/-- The engines of a core that its context leaves: unbound tensor instructions and unfinished bursts go back. -/
def State.stopEngines (s : State) (cc : Nat) : State :=
  let cl := ccCore cc / 8
  (s.cc cc).sb.foldl (fun s e =>
    match e.body with
    | .ten o =>
      if o.phase = 1 then
        let s := (s.dropPend (fun x => x == .mmaOccupancyEnd cl o.lane)).upCl cl (fun c => { c with lanes := vset c.lanes o.lane none })
        s.upCC cc (fun c => c.upOp e.id (fun e => { e with body := .ten { o with phase := 0, passes := [], res := [], flags := 0 } }))
      else s
    | .cpy c =>
      (span 0 c.bursts.length).foldl (fun s i =>
        match c.bursts[i]? with
        | some b =>
          let s := if b.flies then s.dropPend (fun x => x == .copyBurstComplete cc e.entry i) else s
          if b.st = 6 then s.upCopy cc e.id (fun c => c.setBurst i 4)
          else if b.flies then (s.upCopy cc e.id (fun c => c.setBurst i 0)).push (.copyBurstStart cl)
          else s
        | none => s) s) s

/-- Pause flits on the open routes of a core, behind the flits already sent (18 R323). -/
def State.pauseRoutes (s : State) (cc : Nat) : State :=
  (span 0 4).foldl (fun s p =>
    let q := (s.cc cc).sport p
    if q.isOpen && !q.torn && !q.paused then
      (s.pushLast (.pauseFlitLand (s.flit cc p 0 false))).upSend cc p (fun q => { q with paused := true })
    else s) s

/-- Resuming guidons of a core's paused routes. -/
def State.resumeRoutes (s : State) (cc : Nat) : State :=
  (span 0 4).foldl (fun s p =>
    let q := (s.cc cc).sport p
    if q.isOpen && q.paused && !q.torn then
      (s.pushLast (.guidonArrival (s.flit cc p 0 true))).upSend cc p (fun q => { q with paused := false })
    else s) s

/-- Split requests made by a core's positions, or placed on tasks bound there, are withdrawn. -/
def State.withdrawCore (s : State) (p core : Nat) : State :=
  s.upPart p (fun x => { x with tasks := x.tasks.map (fun k =>
    match k.req with
    | some (q, _) => if coreOf q = core || (k.st = 2 && k.pos / 4 = core) then { k with req := none } else k
    | none => k) })

/-- The active context leaves its core and stands by. -/
def State.deactivate (s : State) (core : Nat) : State :=
  match (s.core core).act with
  | none => s
  | some cid =>
    let cc := cid * 2048 + core
    let s := (span 0 4).foldl (fun s k =>
      let tk := tkOf cid (core * 4 + k)
      (s.stopTs tk).upT tk (fun t => { t.pmw.foldl TSet.applyPm t with pmw := [], evts := 0 })) s
    let s := s.sendRes core (fun e => e.r.cid == cid)
    let s := (s.stopEngines cc).pauseRoutes cc
    let s := s.withdrawCore (s.partOfDie (dieOfRouter (core / 8))) core
    s.upCore core (fun c => { c with act := none, stby := some cid })

/-- A context becomes active on a core: its banks refill in slot order, its routes resume, each thread set begins an
acquire epoch, and a restore is traced (08 R172; 18 R323; 20 R361; 23 R407). -/
def State.activate (s : State) (core cid : Nat) : State :=
  let cc := cid * 2048 + core
  let s := s.upCore core (fun c => { c with act := some cid, stby := if c.stby = some cid then none else c.stby, since := s.cyc, wantSw := false })
  let s := (span 0 8).foldl (fun s n => s.refillBank cc n) s
  let s := s.resumeRoutes cc
  (span 0 4).foldl (fun s k =>
    let tk := tkOf cid (core * 4 + k)
    let s := (s.acquire tk).upT tk (fun t => { t with readyAt := s.cyc + 1 })
    let t := s.t tk
    if t.pmctl.getLsbD 6 then s.trace tk 4 (s.stepOf tk) t.pc 0 else s) s

/-- Quotas of the contexts active on a cluster's cores, with `cid` in place of core `core`'s context (08 R169). -/
def State.quotaSum (s : State) (core cid : Nat) : Nat :=
  let cl := core / 8
  let as := (cid :: (span (cl * 8) 8).filterMap (fun k => if k = core then none else (s.core k).act)).eraseDups
  as.foldl (fun n c => n + s.quotaOf c cl) 0

/-- Banks of a cluster that are not quarantined: the bound of 08 R169 (24 R422). -/
def State.banksOf (s : State) (cl : Nat) : Nat := ((span 0 32).filter (fun b => !(s.cl cl).bquar.getLsbD b)).length

/-- May the pending SWITCH take effect: the quantum is over, no stream runs, and the quotas fit? -/
def State.canSwitch (s : State) (core : Nat) : Bool :=
  let c := s.core core
  c.wantSw && c.strm.isNone && c.wantLd.isEmpty && (c.act.isNone || decide (c.since + 32000 ≤ s.cyc)) &&
  (match c.stby with | some x => decide (s.quotaSum core x ≤ s.banksOf (core / 8)) | none => false)

/-- A SWITCH that will take effect. -/
def State.wantSwitch (s : State) (core : Nat) : State := (s.upCore core (fun c => { c with wantSw := true })).push (.preemption core)

/-- CNEXT_SWITCH: without a standby context nothing changes. -/
def execCnextSwitch (core : Nat) (s : State) : Out :=
  if (s.core core).stby.isNone then .next s else .next (s.wantSwitch core)

/-- PREEMPTION: the active context gives the core to the standby one. -/
def execPreemption (core : Nat) (s : State) : Out :=
  if !s.canSwitch core then .next s
  else match (s.core core).stby with
    | none => .next s
    | some x => .next ((s.deactivate core).activate core x)

/-! ### Termination (20 R363, R364; 25 R426) -/

/-- CTERM.GO: a CID that is not live in the die's partition sets TERR. One whose termination another die runs sets TBUSY here too, until
that ends. -/
def execCtermGo (die cid : Nat) (s : State) : Out :=
  if (s.die die).tbusy then .next s
  else
    let p := s.partOfDie die
    let s := s.learn p cid
    if s.cidIn p cid && (s.ctx cid).state.getLsbD 0 then
      let s := (s.upDie die (fun d => { d with ctCid := BitVec.ofNat 12 cid, terr := false })).startTerm die cid none
      .next (s.upDie die (fun d => if d.tbusy then d else { d with tcid := cid, tbusy := true }))
    else .next (s.upDie die (fun d => { d with ctCid := BitVec.ofNat 12 cid, terr := true }))

/-- Bytes of a burst that was under way: each is as before or as the burst carried it (12 R262); one held at a lost line writes nothing (24
R420). -/
def State.tearPiece (s : State) (cc : Nat) (e : EngOp) (c : CopyOp) (p : Piece) : State :=
  match p.dst with
  | .glo pa home _ _ =>
    if s.heldLine home pa then s else
    let bs : List Byte := match p.src with
      | .loc a => (s.cc cc).locRead a p.len
      | .fill b => b
      | .glo q h _ _ => s.rdBy (fun _ => h) q p.len
      | .peer _ => []
    let on := (span 0 bs.length).map (fun i => !Config.keepOld (s.free + i))
    ({ s with free := s.free + bs.length }).wrReq (s.copyReq e c pa home p.len) on bs
  | _ => s

/-- Step 2: the copies of a table stop with their bursts torn. -/
def State.tearCopies (s : State) (cc : Nat) : State :=
  (s.cc cc).sb.foldl (fun s e => match e.cpy? with
    | none => s
    | some c => c.bursts.foldl (fun s b => if b.st = 1 then b.left.foldl (fun s p => s.tearPiece cc e c p) s else s) s) s

/-- A write of the context that is on its way to a home slice, which termination waits for. -/
def writeOf (cid : Nat) (e : Ev) : Bool :=
  match e with
  | .homeStoreApply r => r.cid == cid
  | .replicaCollapseAck r => r.cid == cid
  | .amoSliceApply r => r.cid == cid
  | .sigaddApply r => r.cid == cid
  | .redArrival r => r.cid == cid
  | .forcedMessageApply r => r.cid == cid
  | _ => false

/-- Other messages of the context that go with it. -/
def ctxEv (cid : Nat) (e : Ev) : Bool :=
  match e with
  | .homeLoadServe r => r.cid == cid
  | .loadReply r => r.cid == cid
  | .amoReply r => r.cid == cid
  | .refusalReturn r => r.cid == cid
  | .resultReady k => !isSys k && cidOf k == cid
  | .planeGating k => cidOf k == cid
  | .planeWakeDone k => cidOf k == cid
  | .releasePerformed k => !isSys k && cidOf k == cid
  | .waitgeWake k => cidOf k == cid
  | .waitgeRepoll k => cidOf k == cid
  | .waitTimeout k => cidOf k == cid
  | .battWake k => cidOf k == cid
  | .hoverTableStep k => cidOf k == cid
  | .bdetTableStep k => cidOf k == cid
  | .bwaitWake k => cidOf k == cid
  | .barwWake k => cidOf k == cid
  | .specCommit k => cidOf k == cid
  | .specAbort k _ _ => cidOf k == cid
  | .recvWake k => cidOf k == cid
  | .yieldPark k => cidOf k == cid
  | .tsyncAck k => cidOf k == cid
  | .tspawnStatus k => cidOf k == cid
  | .tlbinvAck k _ => !isSys k && cidOf k == cid
  | .barrierArrival v => cidOf v.tk == cid
  | .copyBurstComplete cc _ _ => ccCid cc == cid
  | .copyRetire cc _ => ccCid cc == cid
  | .mmaRetire cc _ => ccCid cc == cid
  | .bankRefillDone cc _ => ccCid cc == cid
  | .guidonArrival f => ccCid f.src == cid
  | .dataFlitLand f => ccCid f.src == cid
  | .furlLand f => ccCid f.src == cid
  | .pauseFlitLand f => ccCid f.src == cid
  | .creditArrival cc _ _ => ccCid cc == cid
  | .routeTear cc _ => ccCid cc == cid
  | .transportRequest n => ccCid n.cc == cid
  | .transportReply n => ccCid n.cc == cid
  | .pmcOverflow k _ => cidOf k == cid
  | _ => false

/-- Steps 1 to 3: everything the context holds on its cores; LOADs that waited for its stream begin. -/
def State.endCores (s : State) (cid : Nat) : State :=
  let ccs := (s.ccs.map Prod.fst).filter (fun k => ccCid k == cid)
  let cut := (s.cores.filter (fun x => match x.2.strm with | some (k, _) => k == cid | none => false)).map Prod.fst
  let s := ccs.foldl (fun s cc =>
    let s := (s.tearCopies cc).stopEngines cc
    let s := (span 0 8).foldl (fun s n => s.release cc n) s
    s.upCC cc (fun _ => { CC.reset with nextId := (s.cc cc).nextId })) s
  let s : State := { s with
    cores := s.cores.map (fun x => (x.1, { x.2 with
      tile := tileWithout x.2.tile cid
      hold := x.2.hold.filter (fun h => h.r.cid != cid)
      act := if x.2.act = some cid then none else x.2.act
      stby := if x.2.stby = some cid then none else x.2.stby
      strm := match x.2.strm with | some (k, b) => if k = cid then none else some (k, b) | none => none
      wantLd := x.2.wantLd.filter (fun k => k != cid) }))
    ts := s.ts.filter (fun x => isSys x.1 || cidOf x.1 != cid) }
  cut.foldl (fun s k => (s.dropPend (fun e => e == .contextStreamEnd k)).nextLoad k) (s.dropPend (ctxEv cid))

/-- Step 3 continued: channels, queues, and what the dispatcher tracks of the context. -/
def State.endQueues (s : State) (p cid : Nat) : State :=
  let chs := (s.chans.filter (fun c => match c.2.grant with | some (k, _, _) => k == cid | none => false)).map Prod.fst
  let s := chs.foldl (fun s ch => s.returnChan ch) s
  let s := (span 0 64).foldl (fun s q =>
    if s.qCid p q = cid && (s.qw p q 3).getLsbD 15 then s.setQw p q 3 (putBits (s.qw p q 3) 15 1 0) else s) s
  let mine := (s.part p).tasks.filter (fun k => k.cid == cid)
  let s : State := { s with slices := s.slices.map (fun x => (x.1, { x.2 with wait := x.2.wait.filter (fun w => match w.1 with
    | .ts tk => cidOf tk != cid
    | .adm q k => !(q == p && s.qCid p k == cid)) })) }
  s.upPart p (fun x =>
    { x with launches := x.launches.filter (fun l => l.cid != cid), tasks := x.tasks.filter (fun k => k.cid != cid)
             used := x.used.filter (fun t => !mine.any (fun k => k.tcb == t)), fq := x.fq.filter (fun e => e.cid != cid)
             adm := match x.adm with | some a => if s.qCid p a.q = cid then none else some a | none => none
             flying := x.flying.filter (fun n => ccCid n.cc != cid) })

/-- Steps 4 and 5: translations and the descriptor, then CONTEXT_TERMINATED for the supervisor context. -/
def State.endCtx (s : State) (p cid : Nat) (why : Option (Nat × Word)) : State :=
  let s := (span 0 256).foldl (fun s cl => match mfind s.clusters cl with
    | some _ => s.dropTlb cl (fun e => e.cid == cid) (fun e => e.cid == cid)
    | none => s) s
  let a := s.descAt p cid
  let st := putBits (s.rdWord p (a + 0x38)) 0 2 2
  let s := (s.wrWord p (a + 0x38) Config.shared st).upCtx cid (fun c => { c with res := 0, state := putBits c.state 0 2 2, terms := [], owed := [], kept := [] })
  match s.eventPos p with
  | none => s
  | some (sup, _) =>
    if sup = cid then s else ((s.learn p sup).upCtx sup (fun c => { c with terms := c.terms ++ [(cid, why)] })).signal p 62

/-- Is an access of the context held at a lost line? Its termination discards it (24 R420 step 2). -/
def State.heldOf (s : State) (cid : Nat) (e : Ev) : Bool :=
  writeOf cid e && (match evReq e with | some r => s.heldLine r.home r.pa | none => false)

/-- The dies on which the termination of a context shows TBUSY are done with it (25 R426), and begin the next one that waits. -/
def State.endBusy (s : State) (cid : Nat) : State :=
  let ds := [0, 1, 2, 3].filter (fun d => (s.die d).tbusy && (s.die d).tcid == cid)
  let s := ds.foldl (fun s d => s.upDie d (fun x => { x with tbusy := false })) s
  ds.foldl (fun s d => match (s.die d).termq with
    | x :: l => (s.upDie d (fun x => { x with termq := l })).startTerm d x.1 x.2
    | [] => s) s

/-- TERMINATION_DONE: it waits for the writes that the context has sent, those that are held at a lost line apart. -/
def execTerminationDone (die : Nat) (s : State) : Out :=
  let d := s.die die
  let cid := d.tcid
  let s := if d.tbusy then s.dropPend (s.heldOf cid) else s
  if !d.tbusy || s.inFlight (writeOf cid) then .next s
  else
    let p := d.part
    let s := ((s.endCores cid).endQueues p cid).endCtx p cid d.tfault
    .next (s.endBusy cid)

/-! ### TLBINV (20 R369) -/

/-- Has the thread set's partition begun to stream its contexts out (21 R379 step 3)? -/
def State.draining (s : State) (p : Nat) : Bool := (s.die p).state == 1 && (s.die p).drained

/-- TLBINV: the release, then a message to each cluster of its scope. None begins on a compute core once its partition streams its
contexts out (21 R382). -/
def execTlbinv (a : Reg) (sc : BitVec 3) (f : BitVec 2) (s : State) : Out :=
  if s.me.priv = 0 then s.privFault (asmW 0xD4000004 [(a.toNat, 16), (sc.toNat, 5), (f.toNat, 3)])
  else if !isSys s.cur && s.draining (s.partOf s.cur) then s.again
  else .next (((s.relStep s.cur 3).startWait (.tlbinv f.toNat sc.toNat (s.g a) [] false)).push (.releasePerformed s.cur))

/-- Clusters that a scope reaches. -/
def State.tlbScope (s : State) (tk sc : Nat) : List Nat :=
  let p := s.partOf tk
  match sc with
  | 0 => if isSys tk then [] else [clusterOf tk]
  | 1 => if isSys tk then [] else [clusterOf tk]
  | 2 => slicesOf [dieOf tk]
  | _ => slicesOf (s.diesOf p)

/-- Entries that a TLBINV of a thread set selects, and pointers. -/
def State.tlbSel (s : State) (tk form : Nat) (va : Word) : (TlbE → Bool) × (PtrE → Bool) :=
  match form with
  | 0 => (fun e => !isSys tk && e.hits (cidOf tk) va,
          fun e => !isSys tk && e.cid == cidOf tk && wbits va 55 9 == 0 && e.pre == (if e.lvl = 1 then wbits va 42 13 else wbits va 29 26))
  | 1 => let c := wbits va 0 12
         (fun e => e.cid == c && s.cidIn (s.partOf tk) c, fun e => e.cid == c && s.cidIn (s.partOf tk) c)
  | _ => (fun _ => true, fun _ => true)

/-- Removes the selected entries in a cluster; scope CORE reaches the core's micro-TLB alone. -/
def State.tlbDrop (s : State) (tk form sc cl : Nat) (va : Word) : State :=
  let (p, q) := s.tlbSel tk form va
  if sc = 0 then s.upCore (coreOf tk) (fun c => { c with utlb := c.utlb.filter (fun e => !p e) }) else s.dropTlb cl p q

/-- Does an access or a copy that a cluster translated through a selected entry remain? A copy of a context that is not active
cannot retire in a partition that streams its contexts out or has done so, and is not waited for then (21 R379, R382). -/
def State.tlbBusy (s : State) (tk form sc cl : Nat) (va : Word) : Bool :=
  let c := if form = 0 then cidOf tk else wbits va 0 12
  let on (cid page : Nat) : Bool :=
    decide (2 ≤ form) || (cid == c && (form == 1 || page / 8192 == va.toNat / 2 ^ 29))
  let here (k : Nat) : Bool := if sc = 0 then k == coreOf tk else k / 8 == cl
  let req (r : Req) : Bool := !isSys r.who && here (coreOf r.who) && on r.cid (r.va.toNat / 65536)
  s.inFlight (fun e => match evReq e with | some r => req r | none => false) ||
  s.ts.any (fun x => match x.2.wait with
    | some (.waitge _ r _) => req r
    | some (.tspawn _ r) => req r
    | _ => false) ||
  s.cores.any (fun x => here x.1 && (x.2.hold.any (fun h => on h.r.cid (h.r.va.toNat / 65536)) ||
    x.2.tile.toList.any (fun e => match e with | some z => on z.r.cid (z.r.va.toNat / 65536) | none => false))) ||
  s.ccs.any (fun x => here (ccCore x.1) && (s.active x.1 || !(s.die (s.ctx (ccCid x.1)).part).drained) && x.2.sb.any (fun e => match e.cpy? with
    | some o => o.pages.any (fun g => on g.1 g.2)
    | none => false))

/-- TLBINV_ACK: a cluster has removed the entries, and acknowledges once nothing translated by them remains. -/
def execTlbinvAck (tk cluster : Nat) (s : State) : Out :=
  match (s.t tk).wait with
  | some (.tlbinv f sc va left st) =>
    let s := s.tlbDrop tk f sc cluster va
    if s.tlbBusy tk f sc cluster va then .next (s.pushAt (s.cyc + 1) (.tlbinvAck tk cluster))
    else
      let left := left.erase cluster
      if left = [] then .next (s.finish tk)
      else .next (s.upT tk (fun t => { t with wait := some (.tlbinv f sc va left st) }))
  | _ => .next s

/-- The messages of a TLBINV whose release is performed. -/
def State.tlbSend (s : State) (tk f sc : Nat) (va : Word) : State :=
  let cs := s.tlbScope tk sc
  let s : State := if sc = 4 then { s with host := { s.host with inval := s.host.inval ++ [s.partOf tk] } } else s
  if cs = [] then s.finish tk
  else cs.foldl (fun s c => s.push (.tlbinvAck tk c)) (s.upT tk (fun t => { t with wait := some (.tlbinv f sc va cs true) }))

/-- PAGE_WALK_DONE: a walk for a context of the core ends; one that ends well fills the caches (20 R366, R367). -/
def execPageWalkDone (w : WalkReq) (s : State) : Out :=
  if (s.core w.core).act ≠ some w.cid then .next s
  else match s.walkFill (w.core / 8) w.cid w.va w.kind w.priv with
    | (.ok _ pte, big, s) =>
      .next (s.upCore w.core (fun c => { c with utlb := tlbPut c.utlb (mkTlbE w.cid big w.va pte) 48 }))
    | (_, _, s) => .next s

end Sys2Proof.Machine
end

