-- ==== Sys2Proof/Machine/Partition.lean ====
section
/-! DEFINITION. Partitions: quiesce, resume and shoot-down, the host's doorbells, BAR accesses, ATS and MSI-X table, HNOTE,
Ethernet frames and the transport (19 R327; 21 R372-R393). -/

namespace Sys2Proof.Machine

/-! ### Doorbells (19 R327) -/

/-- A new TAIL for a queue: applied, or ignored with ERR set. -/
def State.applyBell (s : State) (p q : Nat) (tail : Word) : State :=
  let hd := (s.qw p q 1).toNat
  let tl := (s.qw p q 2).toNat
  if !s.qOpen p q || (s.qw p q 0).getLsbD 5 || decide (tail.toNat < tl) || decide (hd + 2 ^ wbits (s.qw p q 0) 0 5 < tail.toNat) then s.qErr p q
  else (s.setQw p q 2 tail).number p q tl tail.toNat

/-- Does a function serve a partition? It goes on to do so until a RESUME that leaves its number without one (22 R395). -/
def State.isPart (s : State) (f : Nat) : Bool := decide (f < 4) && (s.die f).serves

/-- HOST_DOORBELL: applied in RUN, else held, 64 for each function; one beyond them sets ERR (21 R382), which before boot no queue can
show. -/
def execHostDoorbell (fn q : Nat) (tail : Word) (s : State) : Out :=
  if !s.isPart fn || decide (64 ≤ q) then .next s
  else if (s.die fn).state = 0 then .next (s.applyBell fn q tail)
  else if (s.host.bells.filter (fun b => b.1 == fn)).length < 64 then
    .next { s with host := { s.host with bells := s.host.bells ++ [(fn, q, tail)] } }
  else .next (if s.jost.booted || (s.die fn).state ≠ 4 then s.qErr fn q else s)

/-- Held doorbells of a function are applied in arrival order. -/
def State.applyBells (s : State) (f : Nat) : State :=
  let mine := s.host.bells.filter (fun b => b.1 == f)
  let s : State := { s with host := { s.host with bells := s.host.bells.filter (fun b => b.1 != f) } }
  mine.foldl (fun s b => s.applyBell f b.2.1 b.2.2) s

/-! ### Quiesce (21 R378, R379) -/

/-- Changes every die of a partition number. -/
def State.upDies (s : State) (p : Nat) (f : DieSt → DieSt) : State :=
  [0, 1, 2, 3].foldl (fun s d => if (s.die d).part = p then s.upDie d f else s) s

def State.busy (s : State) (p : Nat) : Bool := (span 0 64).any (s.qBusy p)

/-- A command on a partition number: a die in the state that takes it changes, any other sets RES to STATE (21 R374, R378). -/
def State.command (s : State) (p st : Nat) (f : DieSt → DieSt) : State :=
  s.upDies p (fun d => if d.state = st then f d else { d with res := 3 })

/-- Has a die of the number a state? -/
def State.anyDie (s : State) (p st : Nat) : Bool := [0, 1, 2, 3].any (fun d => (s.die d).part == p && (s.die d).state == st)

/-- Changes the dies of a number that have a state. -/
def State.upDiesIn (s : State) (p st : Nat) (f : DieSt → DieSt) : State := s.upDies p (fun d => if d.state = st then f d else d)

/-- PCTL_QUIESCE. The die on which it is commanded gives the QTIMEOUT (log 97). -/
def execPctlQuiesce (die : Nat) (s : State) : Out :=
  let p := (s.die die).part
  let s' := s.command p 0 (fun d => { d with state := 1, qsince := s.cyc, qdie := die, drained := false })
  .next (if s.anyDie p 0 then (s'.push (.quiesceDrain p)).signal p 63 else s')

/-- Back to RUN with a result; held doorbells are applied. -/
def State.backToRun (s : State) (p res : Nat) : State :=
  let s := s.dropPend (fun e => e == .quiesceTimeout p || e == .quiesceDrain p)
  ((s.upDiesIn p 1 (fun d => { d with state := 0, res := res, drained := false })).applyBells p).signal p 63

/-- PCTL_ABORT. -/
def execPctlAbort (die : Nat) (s : State) : Out :=
  let p := (s.die die).part
  .next (if s.anyDie p 1 then (s.command p 1 id).backToRun p 0 else s.command p 1 id)

/-- A partition's queues have stayed busy for QTIMEOUT of the die on which QUIESCE was commanded. -/
def State.quiesceLate (s : State) (p : Nat) : Bool :=
  let d := s.die p
  let lim := (s.die d.qdie).qto.toNat * 1024
  d.state == 1 && !d.drained && lim != 0 && decide (d.qsince + lim ≤ s.cyc) && s.busy p

/-- QUIESCE_TIMEOUT. -/
def execQuiesceTimeout (part : Nat) (s : State) : Out :=
  .next (if s.quiesceLate part then s.backToRun part 1 else s)

/-- A TLBINV of a core of the partition is on its way: it completes before any context leaves (21 R382). -/
def State.tlbWait (s : State) (p : Nat) : Bool :=
  s.ts.any (fun x => s.partOf x.1 == p && (match x.2.wait with | some (.tlbinv ..) => true | _ => false))

/-- A core gives up its contexts, as far as it can by now; a SWITCH that waits is forgotten. -/
def State.emptyCore (s : State) (core : Nat) : State :=
  let s := if (s.core core).strm.isNone then s
    else (s.dropPend (fun e => e == Ev.contextStreamEnd core)).upCore core (fun c => { c with strm := none, wantLd := [] })
  let s := (s.dropPend (fun e => e == Ev.preemption core)).upCore core (fun c => { c with wantSw := false })
  let s := match (s.core core).stby with
    | some x => if s.settledOut x core then s.streamOut x core else s
    | none => s
  match (s.core core).stby, (s.core core).act with
  | none, some _ => s.deactivate core
  | _, _ => s

/-- Cores of a partition that still hold a context. -/
def State.fullCores (s : State) (p : Nat) : List Nat :=
  (s.cores.filter (fun x => (s.diesOf p).contains (dieOfRouter (x.1 / 8)) && (x.2.act.isSome || x.2.stby.isSome || x.2.strm.isSome))).map Prod.fst

/-- A message on its way to a slice of a partition. -/
def State.toSlices (s : State) (p : Nat) (e : Ev) : Bool :=
  match evReq e with
  | some r => (s.diesOf p).contains (dieOfRouter r.home)
  | none => false

/-- Step 4: write-backs, empty caches, replicas, queues and waiter tables. -/
def State.flushPart (s : State) (p : Nat) : State :=
  let hs := slicesOf (s.diesOf p)
  let s := s.slices.foldl (fun s x => if hs.contains x.1 then s.flushSlice x.1 else s) s
  let s : State := { s with
    slices := s.slices.map (fun x => if hs.contains x.1 then (x.1, { x.2 with rq := [], adds := [], wait := [] }) else x)
    reps := s.reps.filter (fun x => !(s.diesOf p).contains (x.1 / 2 ^ 50)) }
  s

/-- Does a slice of the partition hold a lost line? Its write-back waits for the release (24 R414, R425). -/
def State.anyLost (s : State) (p : Nat) : Bool := s.slices.any (fun x => (s.diesOf p).contains (dieOfRouter x.1) && x.2.lost != [])

/-- QUIESCE_DRAIN: steps 3 to 5 of R379, once no queue is busy. -/
def execQuiesceDrain (part : Nat) (s : State) : Out :=
  let d := s.die part
  if d.state ≠ 1 || (!d.drained && s.busy part) then .next s
  else
    let s := s.upDiesIn part 1 (fun d => { d with drained := true })
    let s := if s.tlbWait part then s else (s.fullCores part).foldl (fun s k => s.emptyCore k) s
    if s.fullCores part ≠ [] || s.inFlight (s.toSlices part) || s.anyLost part then .next (s.pushAt (s.cyc + 1) (.quiesceDrain part))
    else
      let s := (s.flushPart part).dropPend (fun e => e == .quiesceTimeout part)
      .next (s.upDiesIn part 1 (fun d => { d with state := 2, res := 0 }))

/-! ### Resume and shoot-down (21 R375, R380) -/

/-- The die sets of 21 R372. -/
def shapeOk (l : List Nat) : Bool :=
  [[0], [1], [2], [3], [0, 1], [2, 3], [0, 2], [1, 3], [0, 1, 2, 3]].contains l

def maskOf (l : List Nat) : Nat := l.foldl (fun a d => a + 2 ^ d) 0

/-- The checks of R380 on every die of a number: 0 all pass, 2 SHAPE, 4 NOSHOOT. -/
def State.resumeCheck (s : State) (p : Nat) : Nat :=
  let ds := [0, 1, 2, 3].filter (fun d => (s.die d).part = p)
  let ok (d : Nat) : Bool :=
    let x := s.die d
    (x.state == 2 || x.state == 4) && wbits x.milv 0 4 == maskOf ds && wbits x.milv 4 4 == maskOf ds
      && x.nbound.getLsbD 0 == ds.contains (d ^^^ 1) && x.nbound.getLsbD 1 == ds.contains (d ^^^ 2)
      && x.pdesc == (s.die p).pdesc
  if !shapeOk ds || ds.head? ≠ some p || !ds.all ok then 2
  else if ds.all (fun d => (s.die d).sdone) then 0 else 4

/-- PCTL_RESUME. -/
def execPctlResume (die : Nat) (s : State) : Out :=
  let p := (s.die die).part
  let st := (s.die die).state
  if st ≠ 2 && st ≠ 4 then .next (s.upDies p (fun d => { d with res := 3 }))
  else match s.resumeCheck p with
    | 0 => .next ((s.upDies p (fun d => { d with state := 3, res := 0 })).push (.resumeDone p))
    | r => .next (s.upDies p (fun d => { d with res := r }))

/-- What the dispatchers of other numbers track of a partition's contexts comes to its own (21 R381). -/
def State.adopt (s : State) (p : Nat) : State :=
  [0, 1, 2, 3].foldl (fun s q =>
    if q = p then s
    else
      let o := s.part q
      let ts := o.tasks.filter (fun k => s.cidIn p k.cid)
      let mine (t : Nat) : Bool := ts.any (fun k => k.tcb == t)
      let s := s.upPart p (fun x =>
        { x with seqno := if x.seqno < o.seqno then o.seqno else x.seqno
                 launches := x.launches ++ o.launches.filter (fun l => s.cidIn p l.cid), tasks := x.tasks ++ ts
                 used := x.used ++ o.used.filter mine, fq := x.fq ++ o.fq.filter (fun e => s.cidIn p e.cid)
                 tcbPte := (o.tcbPte.filter (fun t => mine t.1)).foldl (fun m t => mset m t.1 t.2) x.tcbPte
                 flying := x.flying ++ o.flying.filter (fun n => s.cidIn p (ccCid n.cc)) })
      s.upPart q (fun x =>
        { x with launches := x.launches.filter (fun l => !s.cidIn p l.cid), tasks := x.tasks.filter (fun k => !s.cidIn p k.cid)
                 used := x.used.filter (fun t => !mine t), fq := x.fq.filter (fun e => !s.cidIn p e.cid)
                 tcbPte := x.tcbPte.filter (fun t => !mine t.1), flying := x.flying.filter (fun n => !s.cidIn p (ccCid n.cc)) })) s

/-- The function of the partition's number serves it, and those of its other dies' numbers serve none. -/
def State.serveAs (s : State) (p : Nat) : State :=
  [0, 1, 2, 3].foldl (fun s d => if (s.die d).part = p then s.upDie d (fun x => { x with serves := decide (d = p) }) else s) s

/-- A place whose home follows the layout of a partition. -/
def State.rehomePlace (s : State) (p : Nat) (x : Place) : Place :=
  match x with
  | .glo pa _ rm true => .glo pa (s.home00 p pa) rm true
  | x => x

/-- The homes that copies of the partition's contexts have kept follow its new layout (21 R380, 22 R396): those of their bursts, and those
of their counters, which the context's tables give. -/
def State.rehome (s : State) (p : Nat) : State :=
  let piece (x : Piece) : Piece := { x with src := s.rehomePlace p x.src, dst := s.rehomePlace p x.dst }
  let ctr (cc : Nat) (c : Nat × Nat × Word) : Nat × Nat × Word :=
    match (s.xlatHw (ccCid cc) (dieOfRouter (ccCore cc / 8)) c.2.2 .load 1).1 with
    | some (pa, h, _) => if pa = c.1 then (pa, h, c.2.2) else c
    | none => c
  let op (cc : Nat) (e : EngOp) : EngOp := match e.body with
    | .cpy c => { e with body := .cpy { c with
        ctr := c.ctr.map (ctr cc)
        bursts := c.bursts.map (fun b => { b with ps := b.ps.map piece, left := b.left.map piece }) } }
    | _ => e
  { s with ccs := s.ccs.map (fun x =>
      if (s.ctx (ccCid x.1)).part = p then (x.1, { x.2 with sb := x.2.sb.map (op x.1) }) else x) }

/-- RESUME_DONE: RUN, with held doorbells applied and those of functions without a partition discarded. -/
def execResumeDone (part : Nat) (s : State) : Out :=
  if (s.die part).state ≠ 3 then .next s
  else
    let s := ((s.upDiesIn part 3 (fun d => { d with state := 0 })).serveAs part).adopt part
    let s : State := { s with ctxs := s.ctxs.map (fun x => if s.cidIn part x.1 && x.1 < 4096 then (x.1, { x.2 with part := part }) else x) }
    let s : State := { s with host := { s.host with bells := s.host.bells.filter (fun b => s.isPart b.1) } }
    .next (((s.rehome part).applyBells part).signal part 63)

/-- Does the link between two neighbouring dies carry traffic (21 R374)? A partition that drains sends its write-backs and
images over its links, so QUIESCING counts as RUN here (log 86). -/
def State.linkUp (s : State) (d e : Nat) : Bool :=
  let k := if d ^^^ e = 1 then 0 else 1
  (s.die d).nbound.getLsbD k && (s.die e).nbound.getLsbD k && (s.die d).part == (s.die e).part
    && decide ((s.die d).state ≤ 1) && decide ((s.die e).state ≤ 1)

/-- Are the links between two dies open, along x first (01 R17)? -/
def State.linked (s : State) (d e : Nat) : Bool :=
  if d = e then true
  else if d ^^^ e = 3 then s.linkUp d (d ^^^ 1) && s.linkUp (d ^^^ 1) e
  else s.linkUp d e

/-- SHOOT_GO; GO has no effect while one runs. -/
def execShootGo (die : Nat) (s : State) : Out :=
  if (s.die die).sbusy then .next s
  else .next ((s.upDie die (fun d => { d with sbusy := true, sdone := false, sdirty := false })).push (.shootdownDone die))

/-- SHOOTDOWN_DONE: the die's translations and the dispatcher's records and TCBs are gone. -/
def execShootdownDone (die : Nat) (s : State) : Out :=
  if !(s.die die).sbusy then .next s
  else
    let s : State := { s with
      clusters := s.clusters.map (fun x => if dieOfRouter x.1 = die then (x.1, { x.2 with tlb := [], ptrs := [] }) else x)
      cores := s.cores.map (fun x => if dieOfRouter (x.1 / 8) = die then (x.1, { x.2 with utlb := [] }) else x) }
    let s := (s.upPart die (fun x => { x with recs := [], tcbs := [] })).upPart (s.partOfDie die) (fun x => { x with recs := [], tcbs := [] })
    .next (s.upDie die (fun d => { d with sbusy := false, sdone := !d.sdirty }))

/-- PART, NBOUND or MILV of a die: written in QUIESCED or OFF alone; a change clears DONE and keeps a running shoot-down
from setting it. -/
def execPartNboundMilvWrite (die off : Nat) (val : Word) (s : State) : Out :=
  let d := s.die die
  if d.state ≠ 2 && d.state ≠ 4 then .next s
  else
    let d' : DieSt := match off with
      | 0 => { d with part := wbits val 0 2 }
      | 8 => { d with nbound := val.setWidth 2 }
      | 0x10 => { d with milv := val.setWidth 8 }
      | _ => d
    if d' = d then .next s else .next (s.upDie die (fun _ => { d' with sdone := false, sdirty := true }))

/-! ### The host (21 R383-R385) -/

/-- HNOTE: bit i signals vector 48 + i of the partition's function. -/
def execHnote (cluster : Nat) (note : BitVec 14) (s : State) : Out :=
  let p := s.partOfDie (dieOfRouter cluster)
  .next ((span 0 14).foldl (fun s i => if note.getLsbD i then s.signal p (48 + i) else s) s)

/-- `n` bytes from a BAR2 offset on, as pieces of physical memory: the partition's ranges in increasing die order. None where
a byte lies past them or in a retired frame; `m` bounds the pieces. -/
def State.bar2 (s : State) (f off n : Nat) : Nat → Option (List (Nat × Nat))
  | 0 => none
  | m + 1 =>
    if n = 0 then some []
    else
      let ds := [0, 1, 2, 3].filter (fun d => (s.die f).milv.getLsbD (4 + d))
      match ds[off / 2 ^ 37]? with
      | none => none
      | some d =>
        let pa := d * 2 ^ 37 + off % 2 ^ 37
        let k := min n (65536 - pa % 65536)
        if s.retired pa then none else (s.bar2 f (off + k) (n - k) m).map (fun l => (pa, k) :: l)

/-- Does a held line meet the bytes (24 R414)? -/
def State.heldIn (s : State) (h : Nat → Nat) (pa n : Nat) : Bool :=
  (span (pa / 192) ((pa + n - 1) / 192 + 1 - pa / 192)).any (fun l => s.heldLine (h (l * 192)) (l * 192) || s.heldLine (h (pa + n - 1)) (pa + n - 1)
    || s.heldLine (h pa) pa)

def State.barOn (s : State) (f : Nat) : Bool := s.isPart f && (s.die f).state == 0

/-- One write of a host or a peer, line by line at its home slices. -/
def State.outWrite (s : State) (h : Nat → Nat) (pa w cls : Nat) (bs : List Byte) : Nat → State
  | 0 => s
  | f + 1 =>
    match bs with
    | [] => s
    | b :: bt =>
      let bs := b :: bt
      let k := chunk pa bs.length
      let s := s.swNote (h pa) pa k true cls 0
      ((s.collapse (lineKey pa)).homeWrite (h pa) pa (List.replicate k true) (bs.take k) w).outWrite h (pa + k) w cls (bs.drop k) f

/-- Writes the pieces of a host write one after another. -/
def State.putPieces (s : State) (f : Nat) (data : List Byte) : List (Nat × Nat) → State
  | [] => s
  | (pa, k) :: l => (s.outWrite (s.home00 f) pa Config.shared 3 (data.take k) k).putPieces f (data.drop k) l

/-- HOST_BAR2_WRITE: stores at the home slices, of at most 512 bytes; dropped while the partition is not in RUN or a frame is
retired; a write to a held line, or to a frame that is being copied, waits, so nothing happens yet (24 R414, R420). -/
def execHostBar2Write (fn off : Nat) (data : List (BitVec 8)) (s : State) : Out :=
  if !s.barOn fn || decide (512 < data.length) then .next s
  else match s.bar2 fn off data.length 4 with
    | none => .next s
    | some l =>
      if l.any (fun p => s.heldIn (s.home00 fn) p.1 p.2 || s.host.copied.contains (p.1 / 65536)) then .next s
      else .next (s.putPieces fn data l)

/-- The slice watchpoints of [pa, pa + n), line by line, for a host or a peer; `f` bounds the lines. -/
def State.outNote (s : State) (h : Nat → Nat) (pa n cls : Nat) : Nat → State
  | 0 => s
  | f + 1 => if n = 0 then s else (s.swNote (h pa) pa (chunk pa n) false cls 0).outNote h (pa + chunk pa n) (n - chunk pa n) cls f

/-- HOST_BAR2_READ: at most 4096 bytes, or Completer Abort; a read of a held line waits. -/
def execHostBar2Read (fn off len : Nat) (s : State) : Out :=
  let ans (s : State) (bs : List Byte) : Out := .next { s with host := { s.host with reads := s.host.reads ++ [(fn, bs)] } }
  if 4096 < len then .next s
  else if !s.barOn fn then ans s []
  else match s.bar2 fn off len 4 with
    | none => ans s []
    | some l =>
      if l.any (fun p => s.heldIn (s.home00 fn) p.1 p.2) then .next s
      else ans (l.foldl (fun s p => s.outNote (s.home00 fn) p.1 p.2 3 p.2) s) (l.flatMap (fun p => s.rd00 fn p.1 p.2))

/-- What a host read of 8 bytes of BAR0 gives: none is Completer Abort. Outside the MSI-X table it reads zero (log 40). -/
def State.bar0 (s : State) (f off : Nat) : Option Word :=
  if !s.barOn f then none
  else some (if 0x8000 ≤ off ∧ off < 0x8400 then s.host.msixWord f ((off - 0x8000) / 8) else 0)

/-- ATS_REQUEST: answered from the HOST context's tables, as for a user access. -/
def execAtsRequest (fn : Nat) (va : Word) (write : Bool) (s : State) : Out :=
  let ans (s : State) (x : Option Word) : Out := .next { s with host := { s.host with ats := s.host.ats ++ [(fn, x)] } }
  let w := s.pdesc fn 0x40
  if !s.barOn fn || !w.getLsbD 12 then ans s none
  else match (s.learn fn (wbits w 0 12)).walk (wbits w 0 12) va (if write then .store else .load) 0 with
    | (.ok pa _, _, s) => ans s (some (BitVec.ofNat 64 pa))
    | (.held, _, s) => .next s
    | (_, _, s) => ans s none

/-- Sends the pending message of a vector that is no longer held back. -/
def HostSt.unpend (h : HostSt) (f v : Nat) : HostSt :=
  if h.msixHeld f v || !h.pba.contains (f, v) then h
  else { h with pba := h.pba.erase (f, v), msgs := h.msgs ++ [(f, v)] }

/-- MSIX_TABLE_WRITE: a word of the table, while BAR0 is enabled, or at offset 0x400 the function's Message Control in
configuration space (log 40); vectors that are unmasked send their pending messages. -/
def execMsixTableWrite (fn off : Nat) (val : Word) (s : State) : Out :=
  if 4 ≤ fn then .next s
  else if off = 0x400 then
    let h := { s.host with msixCtl := mset s.host.msixCtl fn (val &&& 0xC000) }
    .next { s with host := (span 0 64).foldl (fun h v => h.unpend fn v) h }
  else if !s.barOn fn || decide (0x400 ≤ off) then .next s
  else
    let h := { s.host with msix := mset s.host.msix (fn * 128 + off / 8) val }
    .next { s with host := h.unpend fn (off / 16) }

/-! ### Ethernet and the transport (21 R386-R393) -/

/-- ETH_FRAME_ARRIVAL: before boot a frame of the ROM's EtherType on ports 0-3 is part of an image and Jostauth's (26 R431); a frame of
another EtherType goes to the system cores of the port's die; the transport's own frames
are the transport's events. -/
def execEthFrameArrival (port etype : Nat) (data : List (BitVec 8)) (s : State) : Out :=
  if etype = s.jost.etype || (!s.jost.booted && etype == Config.romType && port < 4) || 9216 < data.length then .next s
  else .next { s with host := { s.host with frames := s.host.frames ++ [(port / 4, etype, data)] } }

/-- An entry of a partition's link log. -/
def State.linkLog (s : State) (p : Nat) (n : NetReq) (peer cause : Nat) : State :=
  let w := s.pdesc p 0x48
  let k := (s.part p).llog
  let pa := wbits w 5 59 * 32 + 32 * (k % 2 ^ wbits w 0 5)
  let ws : List Word :=
    [BitVec.ofNat 64 (posOf n.tk), BitVec.ofNat 64 (n.op + peer * 16), BitVec.ofNat 64 n.seq, BitVec.ofNat 64 cause]
  (s.wr00 p pa Config.shared (ws.flatMap (fun x => wordLe x 8))).upPart p (fun x => { x with llog := k + 1 })

/-- The translation of a request at its peer: by the NET context, at privilege 0, on an ordinary page. -/
def State.netXlat (s : State) (p : Nat) (va : Word) (n : Nat) (k : AccessKind) : Option (Nat × Nat × Nat) × State :=
  let w := s.pdesc p 0x38
  let cid := wbits w 0 12
  if !w.getLsbD 12 then (none, s)
  else match (s.learn p cid).xlatHw cid p va k 0 with
    | (some (pa, h, pte), s) => if pte.getLsbD 7 || decide (65536 < pa % 65536 + n) then (none, s) else (some (pa, h, cid), s)
    | (none, s) => (none, s)

/-- The sides of a request at its peer: address, length and data of the primal and of each image. -/
def netSides (n : NetReq) : List (BitVec 64 × Nat × List Byte) := (n.va, n.len, n.data) :: n.imgs

/-- The request with other data, side by side. -/
def netWith (n : NetReq) (l : List (List Byte)) : NetReq :=
  { n with data := l.head?.getD [], imgs := (n.imgs.zip (l.drop 1)).map (fun x => (x.1.1, x.1.2.1, x.2)) }

/-- Every side of a request, translated in order. -/
def State.netXlats (s : State) (p : Nat) (k : AccessKind) :
    List (BitVec 64 × Nat × List Byte) → List (Option (Nat × Nat × Nat)) × State
  | [] => ([], s)
  | x :: l =>
    let (r, s) := s.netXlat p x.1 x.2.1 k
    let (rs, s) := s.netXlats p k l
    (r :: rs, s)

/-- Bytes of which each is as before or as a torn operation carried it, from the free counter `f` on (21 R391). -/
def mixOld (f : Nat) (old new : List Byte) : List Byte :=
  (span 0 new.length).map (fun i => if Config.keepOld (f + i) then old.getD i 0 else new.getD i 0)

/-- The channels that a request of a copy of this package carries (14 R285). -/
def State.netChans (s : State) (n : NetReq) : List (Nat × BitVec 32) :=
  if 4 ≤ n.part then [] else match s.copyAt n.cc n.entry with | some (_, c) => c.chans | none => []

/-- A peer's write of bytes within two lines aborts the crossings whose marks it meets, as every burst of a copy does (14 R285). -/
def State.outAborts (s : State) (h pa n : Nat) (chans : List (Nat × BitVec 32)) : State :=
  let s := s.abortMarks h pa chans true
  if lineKey pa = lineKey (pa + n - 1) then s else s.abortMarks h (pa + n - 1) chans true

/-- Writes the sides that have a translation; those of a request that is refused are torn. -/
def State.netPut (s : State) (chans : List (Nat × BitVec 32)) (torn : Bool) (rs : List (Option (Nat × Nat × Nat)))
    (xs : List (BitVec 64 × Nat × List Byte)) : State :=
  (rs.zip xs).foldl (fun s x =>
    match x.1 with
    | none => s
    | some (pa, h, cid) =>
      let new := x.2.2.2
      let bs := if torn then mixOld s.free (s.rdBy (fun _ => h) pa new.length) new else new
      (({ s with free := if torn then s.free + new.length else s.free }).outWrite (fun _ => h) pa cid 2 bs bs.length).outAborts h pa
        bs.length chans) s

/-- Performs an RPUT, RGET or RATOM at its peer: the reply, `status` 1 where it is refused. -/
def State.netPerform (s : State) (p : Nat) (n : NetReq) : NetReq × State :=
  let ok (rs : List (Option (Nat × Nat × Nat))) : Bool := rs.all Option.isSome
  match n.op with
  | 5 =>
    let (rs, s) := s.netXlats p .store (netSides n)
    (netWith { n with status := if ok rs then 0 else 1 } [], s.netPut (s.netChans n) (!ok rs) rs (netSides n))
  | 6 =>
    let (rs, s) := s.netXlats p .load (netSides n)
    let xs := rs.zip (netSides n)
    let s' := xs.foldl (fun s x => match x.1 with | some (pa, h, _) => s.outNote (fun _ => h) pa x.2.2.1 2 x.2.2.1 | none => s) s
    (netWith { n with status := if ok rs then 0 else 1 }
        (xs.map (fun x => match x.1 with | some (pa, h, _) => s.rdBy (fun _ => h) pa x.2.2.1 | none => [])), s')
  | _ =>
    let k := if n.wide then 8 else 4
    if n.va.toNat % k ≠ 0 then ({ n with status := 1 }, s)
    else match s.netXlat p n.va k .rmw with
      | (some (pa, h, cid), s) =>
        let old := leNat (s.rdBy (fun _ => h) pa k)
        let s := s.swNote h pa k false 2 0
        let s := match amoNew n.aux.toNat (8 * k) old (leNat (n.data.take k)) (bits n.cmp.toNat 0 (8 * k)) with
          | some x => (s.outWrite (fun _ => h) pa cid 2 (natLe x k) k).outAborts h pa k (s.netChans n)
          | none => s
        ({ n with status := 0, data := natLe old k }, s)
      | (none, s) => ({ n with status := 1 }, s)

/-- Numbers from `a` back to `b`, which count modulo 2^32. -/
def seqGap (a b : Nat) : Nat := (a + 2 ^ 32 - b) % 2 ^ 32

/-- Keeps a reply for a source's 256 latest numbers, and sends it. -/
def State.netReply (s : State) (p : Nat) (n : NetReq) : State :=
  let keep (x : NetReq) : Bool := x.part != n.part || decide (seqGap n.seq x.seq < 256 ∨ 2 ^ 31 ≤ seqGap n.seq x.seq)
  (s.upPart p (fun x => { x with replies := n :: x.replies.filter keep })).push (.transportReply n)

/-- A side of the request lies on a held line. -/
def State.netHeld (s : State) (p : Nat) (n : NetReq) : Bool :=
  (netSides n).any (fun x => match (s.netXlat p x.1 1 .load).1 with
    | some (pa, h, _) => s.heldIn (fun _ => h) pa x.2.1
    | none => false)

/-- A side of the request lies in a frame that is being copied (24 R420). -/
def State.netCopied (s : State) (p : Nat) (n : NetReq) : Bool :=
  (netSides n).any (fun x => match (s.netXlat p x.1 1 .load).1 with
    | some (pa, _, _) => s.host.copied.contains (pa / 65536)
    | none => false)

/-- An NRED that its root has: counted, or about to be. -/
def State.nredHere (s : State) (p : Nat) (n : NetReq) : Bool :=
  let same (x : NetReq) : Bool := x.part == n.part && x.dst == n.dst && x.seq == n.seq
  (s.part p).nreds.any (fun g => g.who.any same) ||
    s.inFlight (fun e => match e with | .nredContribution x => same x | _ => false)

/-- TRANSPORT_REQUEST at a peer of this package: held, while the partition does not run or a frame is being copied, replayed, discarded or performed; a request to another package
leaves the machine. -/
def execTransportRequest (n : NetReq) (s : State) : Out :=
  let p := n.dst
  if 4 ≤ p then .next s
  else if !s.barOn p then .next (s.push (.transportReply { n with status := 2 }))
  else
    let own := (s.part p).replies.filter (fun x => x.part == n.part)
    match own.find? (fun x => x.seq == n.seq) with
    | some r => .next (s.push (.transportReply r))
    | none =>
      if own.any (fun x => decide (256 ≤ seqGap x.seq n.seq ∧ seqGap x.seq n.seq < 2 ^ 31)) then .next s
      else if n.op = 8 then .next (if s.nredHere p n then s else s.push (.nredContribution n))
      else if s.netCopied p n then .next (s.push (.transportReply { n with status := 2 }))
      else if s.netHeld p n then .next (s.pushAt (s.cyc + 1) (.transportRequest n))
      else
        let (r, s) := s.netPerform p n
        let s := if r.status = 1 then s.linkLog p n 0 1 else s
        .next (s.netReply p r)

/-- Elements of two contributions added. -/
def nredAdd (wide : Bool) (xs ys : List Byte) : List Byte :=
  let w := if wide then 8 else 4
  (span 0 (xs.length / w)).flatMap (fun i =>
    let a := leNat ((xs.drop (w * i)).take w)
    let b := leNat ((ys.drop (w * i)).take w)
    natLe (if wide then a + b else (rnd F32 0 (xadd false (F32.dec a) (F32.dec b))).1) w)

def nredKey (g : Nred) (n : NetReq) : Bool := g.root == n.dst && g.tag == n.tag

/-- A reply of an NRED instance: `data` none leaves the caller's data. -/
def State.nredReply (s : State) (n : NetReq) (data : List Byte) (st recvd : Nat) : State :=
  s.netReply n.dst { n with status := 0, data := data, nstat := st, recvd := recvd }

/-- NRED_CONTRIBUTION at its root (21 R393). -/
def execNredContribution (n : NetReq) (s : State) : Out :=
  let p := n.dst
  if 4 ≤ p then .next s
  else
    let put (s : State) (g : Nred) : State :=
      s.upPart p (fun x => { x with nreds := g :: x.nreds.filter (fun h => !(h.root == g.root && h.tag == g.tag)) })
    let start (s : State) : State :=
      (put s { root := p, tag := n.tag, count := n.count, len := n.len, wide := n.wide, dead := s.cyc + n.dead, sum := n.data
               who := [n], ended := false }).pushAt (s.cyc + n.dead) (.nredDeadline p n.tag)
    match (s.part p).nreds.find? (fun g => nredKey g n) with
    | none => .next (start s)
    | some g =>
      if g.ended then
        (if g.who.any (fun x => x.part == n.part && x.cc == n.cc) || decide (g.count ≤ g.who.length) then .next (start s)
         else .next ((put s { g with who := n :: g.who }).nredReply n [] 2 0))
      else if g.count ≠ n.count || g.len ≠ n.len || g.wide != n.wide then .next (s.nredReply n [] 3 0)
      else
        let g := { g with sum := nredAdd g.wide g.sum n.data, who := g.who ++ [n] }
        if g.who.length < g.count then .next (put s g)
        else
          let s := s.upPart p (fun x => { x with nreds := x.nreds.filter (fun h => !(h.root == p && h.tag == n.tag)) })
          .next (g.who.foldl (fun s x => s.nredReply x g.sum 0 g.count) s)

/-- NRED_DEADLINE: every contributor receives the partial sum. -/
def execNredDeadline (part tag : Nat) (s : State) : Out :=
  match (s.part part).nreds.find? (fun g => g.root == part && g.tag == tag) with
  | none => .next s
  | some g =>
    if g.ended || decide (s.cyc < g.dead) then .next s
    else
      let s := s.upPart part (fun x => { x with nreds := x.nreds.map (fun h => if h = g then { h with ended := true } else h) })
      .next (g.who.foldl (fun s x => s.nredReply x g.sum 2 g.who.length) s)

/-- A request in flight by source and destination number, with the partition that its context is in: after a merge this may
be another than the one whose number it carries (21 R381). -/
def State.flyOf (s : State) (part dst seq : Nat) : Option (Nat × NetReq) :=
  firstSome (fun q => ((s.part q).flying.find? (fun m => m.part == part && m.dst == dst && m.seq == seq)).map (fun m => (q, m)))
    [0, 1, 2, 3]

/-- Changes or ends a request in flight. -/
def State.upFly (s : State) (q : Nat) (n : NetReq) (f : NetReq → Option NetReq) : State :=
  s.upPart q (fun x => { x with flying := x.flying.filterMap (fun m => if m = n then f m else some m) })

/-- What an RGET's sides bring to the banks of its copy. -/
def getPieces (n : NetReq) (c : CopyOp) (data : List (List Byte)) : List Piece :=
  let ps := match c.bursts[n.burst]? with | some b => b.ps | none => []
  (ps.zip data).flatMap (fun x => match x.1.dst with | .loc a => landPiece a x.2 | _ => [])

/-- The pieces torn: each byte is as before or as the piece carries it, from the free counter `f` on (21 R391). -/
def CC.tornPieces (k : CC) (f : Nat) : List Piece → List Piece
  | [] => []
  | p :: l => (match p.src, p.dst with
      | .fill b, .loc a => { p with src := .fill (mixOld f (k.locRead a b.length) b) }
      | _, _ => p) :: k.tornPieces (f + p.len) l

/-- A request that fails: its burst is never counted, its bytes are torn, and the log of its partition says so (21 R391). -/
def State.netFail (s : State) (q : Nat) (n r : NetReq) (cause : Nat) : State :=
  let s := s.upFly q n (fun _ => none)
  match s.copyAt n.cc n.entry with
  | none => s
  | some (e, c) =>
    let s := s.linkLog q n (Tcw.peer c.tcw) cause
    let l := if n.op = 6 && cause = 1 then (s.cc n.cc).tornPieces s.free (getPieces n c ((netSides r).map (fun x => x.2.2))) else []
    match c.bursts[n.burst]? with
    | some b =>
      if b.st = 1 then ({ s with free := s.free + l.foldl (fun k (p : Piece) => k + p.len) 0 }).landBurst n.cc e c n.burst 6 l
      else if b.st = 0 then s.upCopy n.cc e.id (fun c => c.setBurst n.burst 4) else s
    | none => s

/-- What a reply that reports its request performed brings to the banks of its copy (21 R388, R393). -/
def landing (m n : NetReq) (c : CopyOp) : List Piece :=
  let x : Tcw := c.tcw
  match m.op with
  | 6 => getPieces m c ((netSides n).map (fun x => x.2.2))
  | 7 => landPiece (x.laddr + 16) (wordLe (if m.wide then leWord n.data else sextW 32 (leWord n.data)) 8)
  | 8 => x.nredPieces n.data n.nstat n.recvd
  | _ => []

/-- TRANSPORT_REPLY at the requester: what it brings lands in the banks, and then the burst is performed. One for a completed number is
discarded, and so are a second one while the first lands and one for a burst that a pre-emption has discarded, whose request goes out
again (12 R261). -/
def execTransportReply (n : NetReq) (s : State) : Out :=
  match s.flyOf n.part n.dst n.seq with
  | none => .next s
  | some (q, m) =>
    if n.status = 2 then .next (s.upFly q m (fun k => some { k with status := 2 }))
    else if n.status = 1 then .next (s.netFail q m n 1)
    else match s.copyAt m.cc m.entry with
      | none => .next (s.upFly q m (fun _ => none))
      | some (e, c) =>
        let st := match c.bursts[m.burst]? with | some b => b.st | none => 4
        .next (match st with
          | 1 => s.landBurst m.cc e c m.burst 5 (landing m n c)
          | 0 => s
          | 5 => s
          | _ => s.upFly q m (fun _ => none))

/-- TRANSPORT_RETRANSMIT: sent again with the same number, or failed after 16 sends; a held request keeps its budget. -/
def execTransportRetransmit (part dst seq : Nat) (s : State) : Out :=
  match s.flyOf part dst seq with
  | none => .next s
  | some (q, m) =>
    let on := match s.copyAt m.cc m.entry with
      | some (_, c) => match c.bursts[m.burst]? with | some b => b.st == 1 | none => false
      | none => false
    if !on then .next (s.pushAt (s.cyc + 65536) (.transportRetransmit part dst seq))
    else if m.status ≠ 2 && decide (16 ≤ m.sends) then .next (s.netFail q m m 2)
    else
      let m' : NetReq := { m with status := 0, sends := if m.status = 2 then m.sends else m.sends + 1 }
      let s := s.upFly q m (fun _ => some m')
      .next ((s.sendNet m').pushAt (s.cyc + 65536) (.transportRetransmit part dst seq))

end Sys2Proof.Machine
end

