-- ==== Sys2Proof/Machine/Observe.lean ====
section
/-! DEFINITION. Counters that overflow, and domain stops (23 R399-R401, R409, R410). -/

namespace Sys2Proof.Machine

/-- A PMC wraps: PMOVF, the interrupt, FREEZE and the trace record of R401, which waits where it meets a held line (log 103). -/
def State.pmcWrap (s : State) (tk i : Nat) : State :=
  let t := s.t tk
  let s := s.upT tk (fun t =>
    { t with pmc := vset t.pmc i 0, pmovf := t.pmovf ||| BitVec.ofNat 64 (2 ^ i)
             irq := if (vget t.pmsel i 0).getLsbD 10 then t.irq ||| 0x40 else t.irq
             pmctl := if t.pmctl.getLsbD 1 then t.pmctl ||| 1 else t.pmctl })
  if t.pmctl.getLsbD 4 then
    let s' := s.trace tk 1 (s.stepOf tk) (s.t tk).pc (s.t tk).pmovf
    if s'.blocked && !s.blocked then s.push (.pmcOverflow tk (8 + i)) else s'
  else s

/-- PMC_OVERFLOW: a counter that stands at 2^48 − 1 counts once more; from `idx` 8 on, the trace record of a wrap that waits. -/
def execPmcOverflow (tk idx : Nat) (s : State) : Out :=
  let t := s.t tk
  if idx < 8 && vget t.pmc idx 0 = 0xFFFFFFFFFFFF && !t.pmctl.getLsbD 0 then .next (s.pmcWrap tk idx)
  else if 8 ≤ idx && idx < 16 then .next (s.trace tk 1 (s.stepOf tk) (s.t tk).pc (s.t tk).pmovf)
  else .next s

/-- DSTOP_ARM: the next completion in a later cc is the named one; STOPPED clears. -/
def execDstopArm (ch : Nat) (s : State) : Out :=
  if (s.chan ch).grant.isNone then .next s
  else .next (s.upChan ch (fun c => { c with armAt := some s.cyc, stopped := false }))

/-- ARM := 0 before the stop has landed releases the held members. -/
def State.disarm (s : State) (ch : Nat) : State :=
  s.upChan ch (fun c => if c.stopped then c else { c with armAt := none, stopS := none, mems := [], held := [] })

/-- A task that has parked from a position of the context with a barrier state that is not idle. -/
def State.parkedBar (s : State) (cid pos h : Nat) : Bool :=
  let p := (s.ctx cid).part
  (s.part p).tasks.any (fun k => k.cid == cid && (k.st == 3 || k.st == 4) && k.pos == pos
    && (match mfind (s.part p).tcbs k.tcb with
        | some r => (vget r.a.bar h BarSt.reset).st != 0
        | none => (vget (s.getTcb p k.tcb).1.a.bar h BarSt.reset).st != 0))

/-- A held member has settled (23 R410 step 2). -/
def State.memberSettled (s : State) (tk : Nat) : Bool :=
  let t := s.t tk
  let cc := s.cc (ccOf tk)
  let sibs := (span 0 4).map (fun k => tk / 4 * 4 + k)
  s.active (ccOf tk) && t.busy.all (fun b => b.due.isSome) && !cc.sb.any (fun e => e.tk == tk) && !s.ownsRes tk
    && !s.inFlight (fun e => match e with
      | .redArrival r => r.who == tk || (r.own.getLsbD (tsOf tk) && r.cid == cidOf tk && coreOf r.who == coreOf tk)
      | .refusalReturn r => r.who == tk || (r.own.getLsbD (tsOf tk) && r.cid == cidOf tk && coreOf r.who == coreOf tk)
      | e => isForced tk e)
    && s.heldCount tk == 0
    && !sibs.any (fun q => match (s.t q).wait with | some (.hover ..) => true | some (.bdet _) => true | _ => false)
    && cc.slots.toList.all (fun x => match x.bank? with | some b => b.phys.isSome | none => true)

/-- Is a task bound at a position of the context, whose state may be in its image? -/
def State.boundAt (s : State) (cid pos : Nat) : Bool :=
  s.isBound cid pos || ((mfind s.ts (tkOf cid pos)).isNone &&
    (s.part (s.ctx cid).part).tasks.any (fun k => k.cid == cid && k.st == 2 && k.pos == pos))

/-- Is a member of the named completion settled? -/
def State.settled (s : State) (ch pos : Nat) : Bool :=
  match (s.chan ch).grant with
  | none => true
  | some (cid, _, h) =>
    if (s.chan ch).held.contains pos then s.memberSettled (tkOf cid pos)
    else !s.boundAt cid pos && !s.parkedBar cid pos h

/-- LEFT of DPEND. -/
def State.dleft (s : State) (ch : Nat) : Nat :=
  if (s.chan ch).stopS.isNone then 0 else ((s.chan ch).mems.filter (fun p => !s.settled ch p)).length

/-- DOMAIN_STOP_LAND: when every member is settled, the stop lands and each held member enters its handler with 0x87, EPC at the
instruction after its BARW or BARWS (23 R410). It takes no issue slot of a core (07 R137). -/
def execDomainStopLand (ch : Nat) (s : State) : Out :=
  let c := s.chan ch
  match c.stopS, c.grant with
  | some st, some (cid, _, _) =>
    if s.dleft ch ≠ 0 then .next s
    else
      let s := s.upChan ch (fun c => { c with armAt := none, stopped := true, step := st, stopS := none, mems := [], held := [] })
      .next (c.held.foldl (fun s pos =>
        let tk := tkOf cid pos
        let t := s.t tk
        let epc := t.after.getD t.pc
        let s := s.offSlot tk (fun s => (s.enterHandler tk 0x87 (st.setWidth 64) epc).upT tk (fun t => { t with after := none }))
        if t.pmctl.getLsbD 3 then s.trace tk 5 st epc 0 else s) s)
  | _, _ => .next s

/-- The channel that holds a thread set at a domain stop. -/
def State.heldBy (s : State) (tk : Nat) : Option Nat :=
  (s.chans.find? (fun c => match c.2.grant with
    | some (cid, _, _) => cid == cidOf tk && c.2.held.contains (posOf tk)
    | none => false)).map Prod.fst

end Sys2Proof.Machine
end

