-- ==== Sys2Proof/Machine/Errors.lean ====
section
/-! DEFINITION. Errors: records and their ring, held lines, machine checks and the release of a line (24 R411-R425; 25
R428). -/

namespace Sys2Proof.Machine

/-! ### Records (24 R415, R416) -/

/-- A held line whose record is not written yet has this number. -/
def noRec : Nat := 2 ^ 64

/-- The level in which an error of SRC 1-4 stands: 1 L2, 2 the memory-side cache, 3 LPDDR6. -/
def errLvl (e : ErrorFound) : Nat := if e.src ≤ 2 then 1 else if e.src = 3 then 2 else 3

/-- WHERE's INDEX and WAY: the set and way of the line in L2, its slot, the physical bank, or zero. Which way a line has is the
event's (log 12); a bank that is not resident has no physical bank. -/
def errPlace (e : ErrorFound) : Nat :=
  match e.src with
  | 0 => if e.level = 2 then 0 else e.index % 32 * 2 ^ 8
  | 1 => l2SetOf (lineKey e.pa) * 2 ^ 8 + e.way % 12 * 2 ^ 28
  | 2 => l2SetOf (lineKey e.pa) * 2 ^ 8 + e.way % 12 * 2 ^ 28
  | 3 => mscSlotOf (lineKey e.pa) * 2 ^ 8
  | 5 => e.core % 8 * 2 ^ 32
  | _ => 0

/-- A record as an error gives it (24 R416); ACID is the context active on the core whose access found it. -/
def mkRec (s : State) (e : ErrorFound) (sev : Nat) (qreq : Bool) (pa owner sect : Nat) (hold : Bool) (home line : Nat) : ErrRec :=
  let own := if owner = Config.tagNone then 0 else owner % 4096 + 4096
  let acid := match e.finder with | some c => ((s.core c).act).getD 0 | none => 0
  { w0 := BitVec.ofNat 64 (e.src % 16 + sev * 16 + (if qreq then 256 else 0)), w1 := BitVec.ofNat 64 pa
    w2 := BitVec.ofNat 64 (e.cluster % 256 + (errPlace e)), w3 := BitVec.ofNat 64 (own + acid % 4096 * 2 ^ 16), w4 := BitVec.ofNat 64 s.cyc
    w5 := BitVec.ofNat 64 sect, home := home, line := line, hold := hold }

def ErrRec.sev (r : ErrRec) : Nat := wbits r.w0 4 3
def ErrRec.qreq (r : ErrRec) : Bool := r.w0.getLsbD 8

/-- Is the record never dropped, and does it raise a machine check? -/
def ErrRec.severe (r : ErrRec) : Bool := decide (2 ≤ r.sev) || r.qreq

def State.ringFull (s : State) (d : Nat) : Bool :=
  (((s.die d).mctail - (s.die d).mchead).toNat == 2 ^ wbits (s.die d).mcq 0 5)

def State.recAt (s : State) (d k : Nat) : Nat := wbits (s.die d).mcq 12 52 * 4096 + 64 * (k % 2 ^ wbits (s.die d).mcq 0 5)

/-- Writes a record into the ring; a severe one raises a machine check. -/
def State.putRec (s : State) (d : Nat) (r : ErrRec) : State :=
  let k := (s.die d).mctail.toNat
  let n := (s.die d).dropped
  let w0 := if n = 0 then r.w0 else putBits (putBits r.w0 7 1 1) 32 16 (min n 65535)
  let s := s.wrBy s.sysHome (s.recAt d k) Config.shared ([w0, r.w1, r.w2, r.w3, r.w4, r.w5, 0, 0].flatMap (fun w => wordLe w 8))
  let s := s.upDie d (fun x => { x with mctail := x.mctail + 1, dropped := 0 })
  let s := if r.hold then s.upSlice r.home (fun sl =>
      { sl with lost := sl.lost.map (fun h => if h.line = r.line then { h with recno := k } else h) }) else s
  if r.severe then s.pushAt (s.cyc + 1) (.machineCheck d k) else s

/-- Can the ring take no record: it is full, or the place of the next one lies on a held line (24 R414, R415)? -/
def State.ringShut (s : State) (d : Nat) : Bool :=
  let a := s.recAt d (s.die d).mctail.toNat
  s.ringFull d || s.heldLine (s.sysHome a) a

/-- Writes kept records, in the order detected, while the ring takes them; `f` bounds them. -/
def State.flushKept (s : State) (d : Nat) : Nat → State
  | 0 => s
  | f + 1 =>
    match (s.die d).kept with
    | [] => s
    | r :: l => if s.ringShut d then s else ((s.upDie d (fun x => { x with kept := l })).putRec d r).flushKept d f

/-- A new record: kept ones go first; then it is written, dropped and counted, or kept until the ring takes it. -/
def State.newRec (s : State) (d : Nat) (r : ErrRec) : State :=
  let s := s.flushKept d (s.die d).kept.length
  if s.ringShut d then
    (if r.severe || !s.ringFull d then (s.upDie d (fun x => { x with kept := x.kept ++ [r] })).push (.errorRecordFlush d)
     else s.upDie d (fun x => { x with dropped := x.dropped + 1 }))
  else s.putRec d r

/-- ERROR_RECORD_FLUSH. -/
def execErrorRecordFlush (die : Nat) (s : State) : Out :=
  let s := s.flushKept die (s.die die).kept.length
  .next (if (s.die die).kept = [] then s else s.push (.errorRecordFlush die))

/-- A further error in a held line adds to COUNT of its record, written or kept. -/
def State.addCount (s : State) (d home : Nat) (h : HeldLine) : State :=
  let up (w : Word) : Word := putBits w 16 16 (min (wbits w 16 16 + 1) 65535)
  if h.recno = noRec then
    s.upDie d (fun x => { x with kept := x.kept.map (fun r => if r.hold && r.home == home && r.line == h.line then { r with w0 := up r.w0 } else r) })
  else
    let a := s.recAt d h.recno
    s.wrBy s.sysHome a Config.shared (wordLe (up (leWord (s.rdBy s.sysHome a 8))) 8)

/-! ### Errors in storage (24 R411-R414, R417) -/

/-- Core-and-context and slot of the bank that stands in a place of a pool, or in a backing area (`level` 2), in which an error of SRC 0
stands. -/
def State.bankIn (s : State) (e : ErrorFound) : Option (Nat × Nat) :=
  if e.level = 2 then
    let cc := e.cid * 2048 + e.cluster * 8 + e.core % 8
    let n := e.pa / 65536 % 8
    match ((s.cc cc).slot n).bank? with
    | some b => if b.phys.isNone then some (cc, n) else none
    | none => none
  else firstSome (fun x =>
    if ccCore x.1 / 8 == e.cluster then
      (span 0 8).findSome? (fun n => match (x.2.slot n).bank? with
        | some b => if b.phys == some e.index then some (x.1, n) else none
        | none => none)
    else none) s.ccs

/-- OWNER of an error's record: the tag of the failing copy, the bank's owner, or NONE (24 R411, R414, R416). -/
def State.ownerOf (s : State) (e : ErrorFound) : Nat :=
  let key := lineKey e.pa
  if e.src = 0 then (match s.bankIn e with | some (cc, _) => ccCid cc | none => Config.tagNone)
  else match errLvl e with
    | 1 => if e.src = 2 ∧ e.fix = false then Config.shared else (mget (s.slice e.cluster).l2 key Line.none).tag
    | 2 => (mget (s.slice e.cluster).msc key Line.none).tag
    | _ => Config.tagNone

/-- A bank in which an uncorrectable error stands. -/
def State.badBank (s : State) (d : Nat) (e : ErrorFound) : State :=
  match s.bankIn e with
  | none => s
  | some (cc, n) =>
    let s := s.upBank cc n (fun b => { b with bad := true })
    s.newRec d (mkRec s e 3 false (n * 65536 + e.pa % 65536) (ccCid cc) 0 false 0 0)

/-- The stream out of a context on a core stops, its image is discarded, and what it holds there goes; the LOADs that waited begin (24
R425). -/
def State.stopStream (s : State) (cid core : Nat) : State :=
  let s : State := { s with ts := s.ts.filter (fun x => isSys x.1 || !(cidOf x.1 == cid && coreOf x.1 == core)) }
  let s := s.dropPend (fun e => leaving cid core e || e == .contextStreamEnd core)
  let s := (s.upCtx cid (fun c => { c with res := c.res - 1 })).unlearn cid
  (s.upCore core (fun c => { c with stby := none, strm := none })).nextLoad core

/-- The streams out of a context, on every core. -/
def State.stopStreams (s : State) (cid : Nat) : State :=
  ((s.cores.filter (fun x => x.2.strm == some (cid, false))).map Prod.fst).foldl (fun s k => s.stopStream cid k) s

/-- The mask of the level in which an error of SRC 1-4 stands takes sectors `k`. -/
def HeldLine.lose (h : HeldLine) (lvl : Nat) (k : BitVec 4) : HeldLine :=
  match lvl with
  | 1 => { h with l2 := h.l2 ||| k }
  | 2 => { h with msc := h.msc ||| k }
  | _ => { h with mem := h.mem ||| k }

/-- The line is lost: the slice holds it and reports it. Where its owner streams out of a core, that stream stops. -/
def State.loseLine (s : State) (d : Nat) (e : ErrorFound) (k : BitVec 4) : State :=
  let key := lineKey e.pa
  let owner := s.ownerOf e
  let h : HeldLine := { line := key, recno := noRec, level := (errLvl e), way := e.way % 12, l2 := 0, msc := 0, mem := 0 }
  let s := s.upSlice e.cluster (fun sl => { sl with lost := sl.lost ++ [h.lose (errLvl e) k] })
  (s.newRec d (mkRec s e 2 false (e.pa / 48 * 48) owner k.toNat true e.cluster key)).stopStreams owner

/-- Sectors of the line that an error of SRC 1-4 takes: the one that fails, or with the tags all that the way holds. -/
def errSects (e : ErrorFound) (valid : BitVec 4) : BitVec 4 := valid &&& (if e.src = 2 then 15 else sectsOf (e.pa % 192) 1)

/-- A dirty copy is written back to LPDDR6 with sectors `k`, which leaves it clean with tag NONE; no older copy stays below it (24 R413,
R414). -/
def State.cleanLine (s : State) (home key : Nat) (l : Line) (k : BitVec 4) : State :=
  let m := l.dirty ||| k
  let clean (x : Line) : Line :=
    let x := { x with data := mixSect (m &&& x.valid) l.data x.data, dirty := x.dirty &&& ~~~m }
    { x with tag := if x.dirty = 0 then Config.tagNone else x.tag }
  ({ s with mem := writeBack s.mem key l.data m }).upSlice home (fun sl =>
    { sl with l2 := upLine sl.l2 key (fun x => if x = l then clean x else x), msc := upLine sl.msc key clean })

/-- An uncorrectable error in a line that is not held (24 R414): a copy with a dirty sector is dirty; a clean one is dropped and refilled
from below; LPDDR6 is rewritten from a copy above. -/
def State.failLine (s : State) (d : Nat) (e : ErrorFound) : State :=
  let home := e.cluster
  let key := lineKey e.pa
  let owner := s.ownerOf e
  let refetch (s : State) : State := s.newRec d (mkRec s e 1 false (e.pa / 48 * 48) owner 0 false 0 0)
  let sl := s.slice home
  match errLvl e with
  | 1 => (match mfind sl.l2 key with
    | none => s
    | some l =>
      let k := errSects e l.valid
      if k = 0 then s
      else if l.dirty = 0 then refetch (s.upSlice home (fun sl => { sl with l2 := mset sl.l2 key (l.dropSect k) }))
      else s.loseLine d e (if e.src = 2 then l.dirty else k))
  | 2 => (match mfind sl.msc key with
    | none => s
    | some l =>
      let k := errSects e l.valid
      if k = 0 then s
      else if l.dirty = 0 then refetch (s.upSlice home (fun sl => { sl with msc := mset sl.msc key (l.dropSect k) }))
      else s.loseLine d e k)
  | _ =>
    let k := errSects e 15
    let has (x : Option Line) : Bool := match x with | some l => l.valid &&& k != 0 | none => false
    let up := if has (mfind sl.l2 key) then mfind sl.l2 key else if has (mfind sl.msc key) then mfind sl.msc key else none
    match up with
    | some l => refetch (s.cleanLine home key l k)
    | none => s.loseLine d e k

/-- A second error in a held line adds to COUNT of its record, and takes its sectors at its own level. -/
def State.moreLost (s : State) (d : Nat) (e : ErrorFound) (h : HeldLine) : State :=
  let key := lineKey e.pa
  let sl := s.slice e.cluster
  let k := match errLvl e with
    | 1 => errSects e (mget sl.l2 key Line.none).valid
    | 2 => errSects e (mget sl.msc key Line.none).valid
    | _ => errSects e 15
  if k = 0 then s
  else (s.upSlice e.cluster (fun sl => { sl with lost := sl.lost.map (fun x => if x.line = key then x.lose (errLvl e) k else x) })).addCount d e.cluster h

def State.badLine (s : State) (d : Nat) (e : ErrorFound) : State :=
  match s.lostAt e.cluster (lineKey e.pa) with
  | some h => s.moreLost d e h
  | none => s.failLine d e

/-- Where a corrected error counts: an L2 way entry or a memory-side cache slot (24 R412). -/
def errEntry (e : ErrorFound) : Option (Nat × Nat × Nat) :=
  match e.src with
  | 1 => some (1, l2SetOf (lineKey e.pa), e.way % 12)
  | 2 => some (1, l2SetOf (lineKey e.pa), e.way % 12)
  | 3 => some (2, mscSlotOf (lineKey e.pa), 0)
  | _ => none

/-- Corrected errors of an entry within the last 2^32 cc. -/
def State.fixesOf (s : State) (home : Nat) (x : Nat × Nat × Nat) : Nat :=
  ((s.slice home).fixes.filter (fun f => f.1 == x.1 && f.2.1 == x.2.1 && f.2.2.1 == x.2.2 && decide (s.cyc < f.2.2.2 + 2 ^ 32))).length

/-- A corrected error: its record. Past CETHR its entry's dirty data is written back, a held line's apart, and the record asks for the
quarantine of the entry (24 R412). -/
def State.fixed (s : State) (d : Nat) (e : ErrorFound) : State :=
  let key := lineKey e.pa
  let owner := s.ownerOf e
  let pa := if e.src = 0 then e.pa % 2 ^ 19 else e.pa / 48 * 48
  match errEntry e with
  | none => s.newRec d (mkRec s e 0 false pa owner 0 false 0 0)
  | some x =>
    let old := (s.slice e.cluster).fixes.filter (fun f => decide (s.cyc < f.2.2.2 + 2 ^ 32))
    let s := s.upSlice e.cluster (fun sl => { sl with fixes := (x.1, x.2.1, x.2.2, s.cyc) :: old })
    let past := decide (s.jost.cethr < s.fixesOf e.cluster x)
    let s := if !past || (s.lostAt e.cluster key).isSome then s
      else if x.1 = 1 then s.evictL2 e.cluster key else s.evictMsc e.cluster key
    s.newRec d (mkRec s e 0 past pa owner 0 false 0 0)

/-- SCRUB_READ: what the scrub, or an access, finds in a bank, a cache level or LPDDR6. -/
def execScrubRead (e : ErrorFound) (s : State) : Out :=
  let d := dieOfRouter e.cluster
  if 256 ≤ e.cluster ∨ 4 < e.src then .next s
  else .next (if e.fix then s.fixed d e else if e.src = 0 then s.badBank d e else s.badLine d e)

/-! ### Parity and links (24 R411, R418, R419) -/

/-- A waiter falls back to re-polling. -/
def State.dropWaiter (s : State) (home i : Nat) : State :=
  match (s.slice home).wait[i]? with
  | none => s
  | some w =>
    let s := s.upSlice home (fun sl => { sl with wait := dropAt sl.wait i })
    match w.1 with
    | .ts tk =>
      (match (s.t tk).wait with
       | some (.waitge d r _) => (s.upT tk (fun t => { t with wait := some (.waitge d r false) })).pushAt (s.cyc + 1024) (.waitgeRepoll tk)
       | _ => s)
    | _ => s

/-- A queue entry goes: its addends are dropped from the bytes that nothing has written since (24 R418). -/
def State.dropAddends (s : State) (home key : Nat) : State :=
  let s := match mfind (s.slice home).adds key with
    | none => s
    | some a =>
      let k : BitVec 4 := BitVec.ofNat 4 ((span 0 4).foldl (fun n i => if wbits a.mask (48 * i) 48 = 0 then n else n + 2 ^ i) 0)
      let s := (s.collapse key).fillLine home key k
      let l := mget (s.slice home).l2 key Line.none
      let d := putBytes l.data 0 ((span 0 192).map (fun i => a.mask.getLsbD i)) (natLe a.was.toNat 192)
      s.upSlice home (fun sl => { sl with l2 := mset sl.l2 key { l with dirty := l.dirty ||| k, data := d } })
  s.upSlice home (fun sl => { sl with rq := sl.rq.filter (fun x => x.1 != key), adds := mdel sl.adds key })

/-- PARITY_ERROR: in L1, in per-context state, in a reduction queue entry, in a waiter table, or in a dispatcher. -/
def execParityError (e : ErrorFound) (s : State) : Out :=
  let d := dieOfRouter e.cluster
  let core := e.cluster * 8 + e.core % 8
  .next (match e.src with
    | 5 =>
      if e.level = 1 then
        let s := s.upCore core (fun c => { c with l1 := c.l1.filter (fun x => x.sector != e.pa / 48) })
        let src := Config.l1Src % 10
        let r := mkRec s { e with src := src } 1 false (e.pa / 48 * 48) Config.tagNone 0 false 0 0
        s.newRec d { r with w2 := BitVec.ofNat 64 (e.cluster % 256 + (if src = 5 then e.core % 8 * 2 ^ 32 else 0)) }
      else if (s.core core).act == some e.cid || (s.core core).stby == some e.cid then
        let s : State := { s with ts := s.ts.map (fun x =>
          if !isSys x.1 && cidOf x.1 == e.cid && coreOf x.1 == core then (x.1, { x.2 with stopped := true }) else x) }
        s.newRec d (mkRec s e 3 false 0 e.cid 0 false 0 0)
      else s
    | 6 =>
      match (s.slice e.cluster).rq.find? (fun q => q.1 == lineKey e.pa) with
      | none => s
      | some q =>
        let s := s.dropAddends e.cluster q.1
        s.newRec d (mkRec s e 3 false (e.pa / 48 * 48) q.2 0 false 0 0)
    | 7 => (s.dropWaiter e.cluster e.index).newRec d (mkRec s e 1 false 0 Config.tagNone 0 false 0 0)
    | 9 => (s.newRec d (mkRec s e 4 false 0 Config.tagNone 0 false 0 0)).signal (s.partOfDie d) 63
    | _ => s)

/-- LINK_FAILURE: a link of a router has failed, which is partition-fatal. What the link carries afterwards the spec does not say (log
99). -/
def execLinkFailure (die cluster : Nat) (s : State) : Out :=
  let e : ErrorFound := { src := 8, fix := false, level := 0, cluster := cluster, core := 0, cid := 0, pa := 0, index := 0, way := 0
                          finder := none }
  let s := s.upDie die (fun d => { d with dead := if d.dead.contains cluster then d.dead else d.dead ++ [cluster] })
  .next ((s.newRec die (mkRec s e 4 false 0 Config.tagNone 0 false 0 0)).signal (s.partOfDie die) 63)

/-! ### Machine checks and release (24 R417, R421; 25 R428) -/

/-- Enters the machine-check handler. -/
def State.takeMc (s : State) (tk rec : Nat) : State :=
  let s := (s.undoLong tk).abandonWait tk
  s.enterHandler tk 0x40 (BitVec.ofNat 64 rec) (s.t tk).pc

/-- MACHINE_CHECK on system core 0 of the die: at once, or after its handler's ERET, its start, the WFI that it ends (20 R356) or
a SIGADD that has been sent. -/
def execMachineCheck (die rec : Nat) (s : State) : Out :=
  let tk := Config.sysBase + 2 * die
  let t := s.t tk
  if t.inMc || t.halted || t.sent || t.wait == some .wfi || t.mc ≠ [] then .next (s.upT tk (fun t => { t with mc := t.mc ++ [rec] })) else .next (s.takeMc tk rec)

/-- The release of a held line (24 R421, 25 R428): its lost sectors take their recovered values and its copies have no tag. A quarantined
slot is emptied into LPDDR6; a quarantined way is emptied, the line going clean to the levels below. -/
def State.releaseLine (s : State) (home : Nat) (h : HeldLine) : State :=
  let key := h.line
  let qs := (s.slice home).quar.toList
  let v := s.recovered home key
  let bad := h.l2 ||| h.msc ||| h.mem
  let s := (s.heal home key 15).upSlice home (fun sl =>
    { sl with lost := sl.lost.filter (fun x => x.line != key)
              l2 := upLine sl.l2 key (fun l => { l with tag := Config.tagNone })
              msc := upLine sl.msc key (fun l => { l with tag := Config.tagNone })
              adds := overAdds sl.adds key 0 ((span 0 192).map (fun i => bad.getLsbD (i / 48))) })
  let s := if qs.any h.slotBy then s.evictMsc home key else s
  if qs.any h.wayBy then
    ({ s with mem := writeBack s.mem key v 15 }).upSlice home (fun sl =>
      { sl with l2 := mdel sl.l2 key
                msc := if s.mscOff home key then sl.msc
                  else mset sl.msc key { valid := 15, dirty := 0, data := v, tag := Config.tagNone } })
  else s

/-- MCREL: the line that the record reports, on a slice of the die, is released; another number changes nothing. -/
def execMcrel (die rec : Nat) (s : State) : Out :=
  match s.slices.find? (fun x => dieOfRouter x.1 == die && x.2.lost.any (fun h => h.recno == rec)) with
  | none => .next s
  | some (home, sl) =>
    match sl.lost.find? (fun h => h.recno == rec) with
    | none => .next s
    | some h => .next (s.releaseLine home h)

end Sys2Proof.Machine
end

