-- ==== Sys2Proof/Machine/Regs.lean ====
section
/-! DEFINITION. The register blocks: cluster, slice, channel and die registers as accesses read and write them (00 R7; 12
R233; 20 R359; 21 R374, R384, R385; 22 R394; 23 R402, R406, R409; 24 R415, R422; 25 R426; 26 R440). An offset that no rule
names reads 0 and takes no write (log 19). -/

namespace Sys2Proof.Machine

/-- Goes on from a next state. -/
def onNext (o : Out) (f : State → Out) : Out :=
  match o with
  | .next s => f s
  | .fault e => .fault e
  | .refused r => .refused r

/-! ### Reads -/

/-- CACT of a core (20 R359). -/
def CoreSt.cact (c : CoreSt) : Word :=
  let one (x : Option Nat) (lo : Nat) : Nat := match x with | some k => (k % 4096 + 4096) * 2 ^ lo | none => 0
  BitVec.ofNat 64 (one c.act 0 + one c.stby 16 + (if c.strm.isSome then 2 ^ 29 else 0))

/-- A word of a cluster register block. -/
def State.clusterReg (s : State) (c off : Nat) : Word :=
  if off = 0 then (s.cl c).mshare
  else if off = 8 then (s.cl c).bquar
  else if 0x100 ≤ off ∧ off < 0x200 then
    let k := s.core (c * 8 + (off - 0x100) / 0x20)
    match (off - 0x100) % 0x20 with
    | 0 => k.cnext.setWidth 64
    | 8 => k.cact
    | _ => 0
  else if 0x800 ≤ off then
    let o := off - 0x800
    let k := s.core (c * 8 + o / 0x100)
    let i := o % 0x100 / 0x10
    if o % 0x10 = 0 then vget k.waddr i 0 else vget k.wctl i 0
  else 0

/-- A word of a slice register block. -/
def State.sliceReg (s : State) (c off : Nat) : Word :=
  let sl := s.slice c
  if off < 0x200 then
    match off % 0x20 with
    | 0 => vget sl.swaddr (off / 0x20) 0
    | 8 => vget sl.swctl (off / 0x20) 0
    | 0x10 => vget sl.swhit (off / 0x20) 0
    | _ => 0
  else if 0x400 ≤ off ∧ off < 0x500 then vget sl.quar ((off - 0x400) / 8) 0
  else 0

/-- May the thread set reach a channel's block: the channel is granted to a context of its partition (23 R409)? -/
def State.chanOpen (s : State) (tk ch : Nat) : Bool :=
  match (s.chan ch).grant with
  | some (cid, _, _) => (s.ctx cid).part == s.partOf tk
  | none => false

/-- DSTOP and DPEND (23 R409). -/
def State.chanReg (s : State) (tk ch off : Nat) : Word :=
  let c := s.chan ch
  if !s.chanOpen tk ch then 0
  else if off = 0 then
    BitVec.ofNat 64 ((if c.armAt.isSome then 1 else 0) + (if c.held ≠ [] then 2 else 0) + (if c.stopped then 4 else 0)
      + c.step.toNat * 2 ^ 32)
  else if off = 8 then BitVec.ofNat 64 (s.dleft ch)
  else 0

/-- PCTL as it reads (21 R374). -/
def DieSt.pctl (d : DieSt) : Word :=
  BitVec.ofNat 64 (d.part % 4 + d.state % 8 * 4 + d.res % 8 * 256 + d.qto.toNat * 2 ^ 16 + d.hold.toNat * 2 ^ 32)

/-- A word of a die register block. -/
def State.dieReg (s : State) (d off : Nat) : Word :=
  let x := s.die d
  if 0x100 ≤ off ∧ off < 0x300 then vget x.retf ((off - 0x100) / 8) 0
  else match off with
    | 0 => x.pctl
    | 0x08 => x.nbound.setWidth 64
    | 0x10 => x.milv.setWidth 64
    | 0x18 => (span 0 64).foldl (fun w q => if s.qBusy x.part q then w ||| BitVec.ofNat 64 (2 ^ q) else w) 0
    | 0x20 => BitVec.ofNat 64 ((if x.sbusy then 2 else 0) + (if x.sdone then 4 else 0))
    | 0x28 => x.pdesc
    | 0x30 => x.mcq
    | 0x38 => x.mctail
    | 0x40 => x.mchead
    | 0x50 => BitVec.ofNat 64 (x.ctCid.toNat + (if x.tbusy then 2 ^ 13 else 0) + (if x.terr then 2 ^ 14 else 0))
    | 0x58 => s.stretch
    | 0x60 => BitVec.ofNat 64 (s.watt.toNat + (if s.throt then 2 ^ 16 else 0))
    | 0x68 => BitVec.ofNat 64 s.cyc
    | 0x70 => x.sagd.setWidth 64
    | _ => 0

/-- The register at a physical address, as the thread set reads it. -/
def State.regRead (s : State) (tk pa : Nat) : Word :=
  match s.paClass pa with
  | .cluster c off => s.clusterReg c off
  | .slice c off => s.sliceReg c off
  | .chan ch off => s.chanReg tk ch off
  | .die d off => s.dieReg d off
  | _ => 0

/-! ### Registers without behaviour -/

/-- MSHARE: no weight above 8 (12 R233). -/
def mshareOk (v : Word) : Bool := (span 0 8).all (fun c => decide (wbits v (4 * c) 4 ≤ 8))

/-- The checks of a watchpoint's pair of words (23 R402). -/
def watchOk (addr ctl : Word) : Bool :=
  let sz := wbits ctl 5 5
  decide (sz ≤ 16) && decide (addr.toNat % 2 ^ sz = 0) && !(ctl.getLsbD 3 && ctl.getLsbD 4)
    && wbits addr 55 9 == 0 && wbits ctl 10 6 == 0 && wbits ctl 28 36 == 0

/-- A quarantine entry with INDEX and WAY in range for its KIND (24 R422). -/
def quarOk (v : Word) : Bool :=
  if v.getLsbD 1 then decide (wbits v 2 17 ≤ 87380) && wbits v 19 4 == 0
  else decide (wbits v 2 17 ≤ 909) && decide (wbits v 19 4 ≤ 11)

/-- A write of the cluster block. -/
def State.clusterPut (s : State) (c off : Nat) (v : Word) : State :=
  if off = 0 then (if mshareOk v then s.upCl c (fun x => { x with mshare := v &&& 0xFFFFFFFF }) else s)
  else if off = 8 then s.upCl c (fun x => { x with bquar := v &&& 0xFFFFFFFF })
  else if 0x800 ≤ off then
    let o := off - 0x800
    let k := c * 8 + o / 0x100
    let i := o % 0x100 / 0x10
    let core := s.core k
    if o % 0x10 = 0 then
      (if watchOk v (vget core.wctl i 0) then s.upCore k (fun x => { x with waddr := vset x.waddr i v }) else s)
    else if o % 0x10 = 8 then
      (if watchOk (vget core.waddr i 0) v then s.upCore k (fun x => { x with wctl := vset x.wctl i v }) else s)
    else s
  else s

/-- A new quarantine entry; the lines of a quarantined memory-side cache slot leave it, those with a lost sector there apart (24 R422; 25
R428). -/
def State.quarPut (s : State) (c i : Nat) (v : Word) : State :=
  if !quarOk v then s
  else
    let s := s.upSlice c (fun sl => { sl with quar := vset sl.quar i (v &&& 0x7FFFFF) })
    if v.getLsbD 0 && v.getLsbD 1 then
      (s.slice c).msc.foldl (fun s x =>
        if mscSlotOf x.1 == wbits v 2 17 && !(s.slice c).lost.any (fun h => h.line == x.1 && h.msc != 0) then s.evictMsc c x.1 else s) s
    else s

/-- A write of the slice block. -/
def State.slicePut (s : State) (c off : Nat) (v : Word) : State :=
  let i := off / 0x20
  if off < 0x200 then
    match off % 0x20 with
    | 0 => s.upSlice c (fun sl => { sl with swaddr := vset sl.swaddr i (v &&& 0xFFFFFFFFFFFFF) })
    | 8 => if wbits v 3 5 ≤ 16 then s.upSlice c (fun sl => { sl with swctl := vset sl.swctl i (v &&& 0x1FFFFFFFF) }) else s
    | 0x10 => if v.getLsbD 0 then s.upSlice c (fun sl => { sl with swhit := vset sl.swhit i (putBits (vget sl.swhit i 0) 0 1 0) }) else s
    | _ => s
  else if 0x400 ≤ off ∧ off < 0x500 then s.quarPut c ((off - 0x400) / 8) v
  else s

/-- A write of the die block's plain registers. -/
def State.diePut (s : State) (d off : Nat) (v : Word) : State :=
  if 0x100 ≤ off ∧ off < 0x300 then
    s.upDie d (fun x => { x with retf := vset x.retf ((off - 0x100) / 8) (v &&& 0xFFFFFFFFF0001) })
  else match off with
    | 0x28 => s.upDie d (fun x => { x with pdesc := v &&& 0xFFFFFFFFFFFC0 })
    | 0x30 => if wbits v 0 5 ≤ 12 then s.upDie d (fun x => { x with mcq := v &&& ~~~(0xFE0 : Word) }) else s
    | 0x40 => (s.upDie d (fun x => { x with mchead := v })).push (.errorRecordFlush d)
    | _ => s

/-- Where the registers of BAR4 stand for `registerWrite`: above every physical address (log 20). -/
def bar4Base : Nat := 2 ^ 52

/-- A host write to a plain register of BAR4 (21 R384): IMGLEN, NONCE, or 8 bytes of the image window. -/
def State.bar4Put (s : State) (off : Nat) (v : Word) : State :=
  let j := s.jost
  if off = 8 then (if v.toNat ≤ 0x3F00000 then { s with jost := { j with imglen := v } } else s)
  else if 0x1000 ≤ off ∧ off < 0x1040 then
    { s with jost := { j with nonce := putBits j.nonce (8 * (off - 0x1000)) 64 v.toNat } }
  else if 0x100000 ≤ off ∧ off < 0x4000000 then
    (if j.check.isSome || j.booted then s else { s with jost := { j with window := memWrite j.window (off - 0x100000) (wordLe v 8) } })
  else s

/-- REGISTER_WRITE (00 R7): a register with no behaviour of its own takes its RW and W1C fields; a reserved or out-of-range
value leaves it as it is. -/
def execRegisterWrite (pa : Nat) (val : Word) (s : State) : Out :=
  .next (if bar4Base ≤ pa then s.bar4Put (pa - bar4Base) val
    else match s.paClass pa with
      | .cluster c off => s.clusterPut c off val
      | .slice c off => s.slicePut c off val
      | .die d off => s.diePut d off val
      | _ => s)

/-- JSTAT as the host reads it (21 R384). -/
def JostSt.jstat (j : JostSt) : Word :=
  let b (x : Bool) (k : Nat) : Nat := if x then 2 ^ k else 0
  BitVec.ofNat 64 (b j.listen 0 + b j.check.isSome 1 + b j.booted 2 + b j.rej 3 + b j.repRdy 4 + b (!j.attq.isEmpty) 5
    + j.rejc % 256 * 256)

/-- What a host read of BAR4 returns: JSTAT, IMGLEN, NONCE, REPORT or the window, which reads zero once BOOTED. -/
def JostSt.bar4 (j : JostSt) (off : Nat) : Word :=
  if off = 0 then j.jstat
  else if off = 8 then j.imglen
  else if 0x1000 ≤ off ∧ off < 0x1040 then BitVec.ofNat 64 (wbits j.nonce (8 * (off - 0x1000)) 64)
  else if 0x2000 ≤ off ∧ off < 0x3000 then leWord ((j.report.drop (off - 0x2000)).take 8)
  else if 0x100000 ≤ off ∧ off < 0x4000000 then (if j.booted then 0 else leWord (memRead j.window (off - 0x100000) 8))
  else 0

/-! ### Stores to registers with behaviour -/

/-- CNEXT: LOAD, then SWITCH (20 R359). A LOAD of a context without an image for the core changes nothing (20 R358); a SWITCH
beside a LOAD waits for the stream that the LOAD begins or joins. -/
def State.cnextPut (s : State) (core : Nat) (v : Word) : Out :=
  let cid := wbits v 0 12
  let load := v.getLsbD 12 && s.hasImage cid core
  let named (s : State) : State := s.upCore core (fun c => { c with cnext := v.setWidth 12 })
  if (v.getLsbD 12 || v.getLsbD 13) && !s.cidIn (s.partOfDie (dieOfRouter (core / 8))) cid then .next s
  else
    onNext (if load then execCnextLoad core cid (named s) else .next (if v.getLsbD 12 then s else named s))
      (fun s =>
        if !v.getLsbD 13 then .next s
        else if load && (s.core core).strm.isSome then .next (s.wantSwitch core)
        else execCnextSwitch core s)

/-- PCTL: QTIMEOUT and HOLD, then PART, then the command (21 R374). -/
def State.pctlPut (s : State) (d : Nat) (v : Word) : Out :=
  let s := s.upDie d (fun x => { x with qto := BitVec.ofNat 16 (wbits v 16 16), hold := BitVec.ofNat 16 (wbits v 32 16) })
  onNext (execPartNboundMilvWrite d 0 v s) (fun s =>
    match wbits v 5 3 with
    | 1 => execPctlQuiesce d s
    | 2 => execPctlResume d s
    | 3 => execPctlAbort d s
    | _ => .next s)

/-- CTERM (25 R426): GO with TBUSY = 1 changes nothing. -/
def State.ctermPut (s : State) (d : Nat) (v : Word) : Out :=
  if v.getLsbD 12 then execCtermGo d (wbits v 0 12) s
  else .next (s.upDie d (fun x => { x with ctCid := v.setWidth 12 }))

/-- DSTOP (23 R409). -/
def State.dstopPut (s : State) (ch : Nat) (v : Word) : Out :=
  if v.getLsbD 0 then execDstopArm ch s else .next (s.disarm ch)

/-- An aligned 8-byte store of a thread set to a register (22 R394); BQUAR and the quarantine entries are written by system
cores alone (24 R422). -/
def State.regStore (s : State) (tk pa : Nat) (v : Word) : Out :=
  match s.paClass pa with
  | .cluster c off =>
    if off = 0x10 then execHnote c (v.setWidth 14) s
    else if 0x100 ≤ off ∧ off < 0x200 then
      (let core := c * 8 + (off - 0x100) / 0x20
       match (off - 0x100) % 0x20 with
       | 0 => s.cnextPut core v
       | 0x10 => execIpost (v.setWidth 8) (core * 4 + wbits v 8 2) (wbits v 10 12) s
       | _ => .next s)
    else if off = 8 && !isSys tk then .next s
    else execRegisterWrite pa v s
  | .slice _ off => if 0x400 ≤ off && !isSys tk then .next s else execRegisterWrite pa v s
  | .chan ch off => if off = 0 && s.chanOpen tk ch then s.dstopPut ch v else .next s
  | .die d off =>
    match off with
    | 0 => s.pctlPut d v
    | 0x08 => execPartNboundMilvWrite d 0x08 v s
    | 0x10 => execPartNboundMilvWrite d 0x10 v s
    | 0x20 => if v.getLsbD 0 then execShootGo d s else .next s
    | 0x48 => execMcrel d v.toNat s
    | 0x50 => s.ctermPut d v
    | _ => execRegisterWrite pa v s
  | _ => .next s

end Sys2Proof.Machine
end

