-- ==== Sys2Proof/Machine/Memory.lean ====
section
/-! DEFINITION. LD and ST (05 R97-R100, R102, R103; 22 R394). -/

namespace Sys2Proof.Machine

/-- Has the thread set an access on its way, or a register that waits for a reply? -/
def State.ioBusy (s : State) (tk : Nat) : Bool :=
  !s.allPerformed tk || (s.t tk).busy.any (fun b => b.due.isNone)

/-- Accesses to registers are performed in order with every other access of the thread set; a speculating one waits for the
barrier. -/
def State.regWait (s : State) (hs : List Hit) : Bool :=
  hs.any (fun h => s.isReg h.pa) && (s.ioBusy s.cur || s.me.specOn)

/-- One plane of a load: a register's value, or a load of memory. -/
def State.loadOne (s : State) (h : Hit) (dst : Dst) (o : LoadOp) : State :=
  if s.isReg h.pa then
    let v := s.regRead s.cur h.pa
    s.upMe (fun t => { t.readyBy dst (s.cyc + o.lat + t.extra) with a := t.a.land dst o.len (v.setWidth 512) })
  else s.load h dst o

/-- LD. -/
def execLd (d a : Reg) (z : BitVec 3) (q : BitVec 2) (o : BitVec 11) (s : State) : Out :=
  let n := loadLen z
  let ea := s.ea a o
  let a0 := s.me.a
  let ps := s.me.planes (loadDual z)
  let zero := if loadDual z then [] else s.me.dual
  s.planned { kind := .load, al := n, ctr := none, regs := (n == 8) } (ps.map (a0.gea ea)) (fun hs s =>
    s.watched (touches n true false hs)
      (if s.regWait hs then s.again
       else s.marking hs
         (let s := (ps.zip hs).foldl (fun s x =>
            s.loadOne x.2 (if d = 0 then .none else .g d x.1 z.toNat)
              { len := n, fresh := (q == 1), acq := (q == 2), lat := 4, pl := x.1 }) s
          .next ((s.upA (fun a => a.zeroPlanes zero d)).doneD 4))))

/-- One plane of a store: a register, or memory; none when the hold buffer has no room. -/
def State.storeOne (s : State) (h : Hit) (pl n : Nat) (w : Word) (rel : Bool) : Option Out :=
  if s.isReg h.pa then some (s.regStore s.cur h.pa w)
  else (s.store h pl n (BitVec.ofNat 64 (2 ^ n - 1)) (w.setWidth 512) rel).map (fun s => .next s)

/-- The planes of a store in order. -/
def State.storeAll (s : State) (a0 : Arch) (src : Reg) (n : Nat) (rel : Bool) : List (Nat × Hit) → Option Out
  | [] => some (.next s)
  | x :: xs =>
    match s.storeOne x.2 x.1 n (a0.gp x.1 src) rel with
    | some (.next s) => s.storeAll a0 src n rel xs
    | r => r

/-- ST. -/
def execSt (src a : Reg) (z : BitVec 2) (q : BitVec 2) (o : BitVec 12) (s : State) : Out :=
  let n := storeLen z
  let ea := s.ea a o
  let a0 := s.me.a
  let ps := s.me.planes (storeDual z)
  let s0 := s
  s.planned { kind := .store, al := n, ctr := some true, regs := (n == 8) } (ps.map (a0.gea ea)) (fun hs s =>
    s.watched (touches n false true hs)
      (if s.regWait hs then s.again
       else match s.storeAll a0 src n (q == 1) (ps.zip hs) with
         | some o => onNext o (fun s => .next (if storeDual z then s.doneD 4 else s.done 4))
         | none => s0.untilResolved))

end Sys2Proof.Machine
end

