-- ==== Sys2Proof/Machine/Sha3.lean ====
section
/-! DEFINITION. SHA3-512, which 26 R432-R434 name: the Keccak permutation of 24 rounds over 25 lanes of 64 bits, a rate of 72 bytes
and the suffix 01 (log 10; PRESUMED from the published standard, FIPS 202). -/

namespace Sys2Proof.Machine

/-- Rotations of the lanes, lane (x, y) at x + 5 y. -/
def keccakRot : List Nat := [0, 1, 62, 28, 27, 36, 44, 6, 55, 20, 3, 10, 43, 25, 39, 41, 45, 15, 21, 8, 18, 2, 61, 56, 14]

/-- What the rounds add to lane (0, 0). -/
def keccakRc : List Word :=
  [0x0000000000000001, 0x0000000000008082, 0x800000000000808A, 0x8000000080008000, 0x000000000000808B, 0x0000000080000001,
   0x8000000080008081, 0x8000000000008009, 0x000000000000008A, 0x0000000000000088, 0x0000000080008009, 0x000000008000000A] ++
  [0x000000008000808B, 0x800000000000008B, 0x8000000000008089, 0x8000000000008003, 0x8000000000008002, 0x8000000000000080,
   0x000000000000800A, 0x800000008000000A, 0x8000000080008081, 0x8000000000008080, 0x0000000080000001, 0x8000000080008008]

/-- Lane (x, y), both taken modulo 5. -/
def laneAt (a : List Word) (x y : Nat) : Word := a.getD (x % 5 + 5 * (y % 5)) 0

/-- One round: columns, rotations and places, rows, and the round's constant. -/
def keccakRound (a : List Word) (rc : Word) : List Word :=
  let c := (span 0 5).map (fun x => laneAt a x 0 ^^^ laneAt a x 1 ^^^ laneAt a x 2 ^^^ laneAt a x 3 ^^^ laneAt a x 4)
  let d := (span 0 5).map (fun x => c.getD ((x + 4) % 5) 0 ^^^ (c.getD ((x + 1) % 5) 0).rotateLeft 1)
  let a := (span 0 25).map (fun i => a.getD i 0 ^^^ d.getD (i % 5) 0)
  let b := (span 0 25).map (fun i =>
    let x := (i % 5 + 3 * (i / 5)) % 5
    (laneAt a x (i % 5)).rotateLeft (keccakRot.getD (x + 5 * (i % 5)) 0))
  let e := (span 0 25).map (fun i => b.getD i 0 ^^^ (~~~(laneAt b (i + 1) (i / 5)) &&& laneAt b (i + 2) (i / 5)))
  match e with
  | [] => []
  | x :: l => (x ^^^ rc) :: l

def keccakF (a : List Word) : List Word := keccakRc.foldl keccakRound a

/-- Takes in `n` blocks of 72 bytes. -/
def keccakAbsorb (a : List Word) (m : List Byte) : Nat → List Word
  | 0 => a
  | n + 1 => keccakAbsorb (keccakF ((span 0 25).map (fun i => a.getD i 0 ^^^ leWord ((m.drop (8 * i)).take (min 8 (72 - 8 * i)))))) (m.drop 72) n

/-- The message with its suffix and padding, a multiple of 72 bytes. -/
def sha3Pad (m : List Byte) : List Byte :=
  let k := 71 - m.length % 72
  m ++ (if k = 0 then [0x86] else [0x06] ++ List.replicate (k - 1) 0 ++ [0x80])

/-- The digest, its first byte lowest. -/
def sha3 (m : List Byte) : BitVec 512 :=
  let a := keccakAbsorb (List.replicate 25 0) (sha3Pad m) (m.length / 72 + 1)
  (span 0 8).foldl (fun d i => putBits d (64 * i) 64 (a.getD i 0).toNat) 0

end Sys2Proof.Machine
end

