-- ==== Sys2Proof/Machine/Boot.lean ====
section
/-! DEFINITION. Power-on reset, boot, measurement, attestation, system-core starts and clock stretching (20 R357; 21 R384;
26 R431-R439). -/

namespace Sys2Proof.Machine

/-- POWER_ON_RESET (26 R431, R432): the machine of `State.reset`; Jostauth's store, and what the model itself holds (log 4),
stay. -/
def execPowerOnReset (s : State) : Out :=
  .next { State.reset with
    agenda := s.agenda, free := s.free
    jost := { JostSt.reset with vfloor := s.jost.vfloor, repair := s.jost.repair, secret := s.jost.secret, prkh := s.jost.prkh } }

/-- A complete image: it is checked, or waits while another is; where Jostauth does not listen it is discarded (26 R431). -/
def State.offer (s : State) (img : List Byte) (src : Nat) : State :=
  if s.jost.booted || !s.jost.listen then s
  else if s.jost.check.isSome then
    (if s.jost.later.isSome then s else { s with jost := { s.jost with later := some (img, src) } })
  else ({ s with jost := { s.jost with check := some (img, src) } }).push .imageCheckDone

/-- IMAGE_ARRIVAL_ETH: a port and an image that came there in frames of the ROM's EtherType; Jostauth listens on ports 0-3 (26 R431). -/
def execImageArrivalEth (data : Nat × List (BitVec 8)) (s : State) : Out :=
  .next (if data.1 < 4 then s.offer data.2 1 else s)

/-- IMGGO (21 R384): ignored while an image is checked and after BOOTED. -/
def execImggo (s : State) : Out :=
  if s.jost.check.isSome || s.jost.booted then .next s
  else .next (s.offer (memRead s.jost.window 0 s.jost.imglen.toNat) 0)

/-! ### Images (26 R433, R435) -/

/-- `n` bytes of an image as a number. -/
def imgN (img : List Byte) (off n : Nat) : Nat := leNat ((img.drop off).take n)

/-- A stage: image offset, length, load address, entry offset. -/
structure Stage where
  off  : Nat
  len  : Nat
  load : Nat
  ent  : Nat
  deriving DecidableEq, Repr

def stageOf (img : List Byte) (i : Nat) : Stage :=
  let a := 0x10 + 32 * i
  { off := imgN img a 8, len := imgN img (a + 8) 8, load := imgN img (a + 16) 8, ent := imgN img (a + 24) 8 }

def stagesOf (img : List Byte) : List Stage := (span 0 (imgN img 0xC 4)).map (stageOf img)

def imgPart (img : List Byte) (off len : Nat) : List Byte := (img.drop off).take len

def recordOf (img : List Byte) : List Byte := imgPart img (imgN img 0x90 8) (imgN img 0x98 8)

/-- Is every field of a die in range? -/
def platDieOk (d : PlatDie) : Bool :=
  decide (d.part < 4 ∧ d.nbound < 4 ∧ d.milv < 256 ∧ d.pdesc < 2 ^ 52 ∧ d.pdesc % 64 = 0 ∧ d.qto < 2 ^ 16 ∧ d.hold < 2 ^ 16
    ∧ d.mcq < 2 ^ 64 ∧ d.mcq % 4096 ≤ 12)

def platDies (p : Platform) : List PlatDie := [p.d0, p.d1, p.d2, p.d3]

/-- Does firmware memory lie outside every partition's memory (26 R435): the LPDDR6 ranges of its dies and the register blocks
(21 R376)? -/
def fwOk (p : Platform) : Bool :=
  let apart (lo n : Nat) : Bool := p.fwLen = 0 || decide (p.fwBase + p.fwLen ≤ lo) || decide (lo + n ≤ p.fwBase)
  (platDies p).all (fun x => !x.named || (span 0 4).all (fun d => !(x.milv / 2 ^ (4 + d) % 2 == 1) || apart (d * 2 ^ 37) (2 ^ 37)))
    && apart 0xFF00000000000 (256 * 0x1000) && apart 0xFF80000000000 (256 * 0x10000) && apart 0xFF90000000000 (64 * 0x10000)
    && apart 0xFFE0000000000 (4 * 0x10000)

/-- Is every field of the platform record in range? -/
def platOk (p : Platform) : Bool :=
  (platDies p).all platDieOk && decide (p.pversion < 2 ^ 32 ∧ p.mac < 2 ^ 48 ∧ p.etype < 2 ^ 16 ∧ p.fwBase + p.fwLen ≤ 2 ^ 52
    ∧ p.plim ≤ 1800 ∧ p.sfact ≤ 1) && fwOk p

/-- Does the signature block of an item verify: an Ed25519 signature of 64 bytes and an ML-DSA-65 signature of 3309 bytes, both of
the SHA3-512 digest of the header followed by the item, under the two keys (26 R433)? -/
def signedBy (ed ml img item : List Byte) (k : Nat) : Bool :=
  let at_ := Config.sigBlockAt k img
  let d := natLe (sha3 (imgPart img 0 0xA0 ++ item)).toNat 64
  decide (at_ + 3373 ≤ img.length) && Config.edVerify ed d (imgPart img at_ 64) && Config.mlVerify ml d (imgPart img (at_ + 64) 3309)

/-- A stage is signed with both root keys. -/
def stageSigned (img : List Byte) (i : Nat) : Bool :=
  signedBy Config.rootEd Config.rootMl img (imgPart img (stageOf img i).off (stageOf img i).len) i

/-- The platform record is signed with the operator's keys, whose digest is PRKH. -/
def recordSigned (prkh : BitVec 512) (img : List Byte) : Bool :=
  let k := Config.operatorKeys img
  sha3 (k.1 ++ k.2) == prkh && signedBy k.1 k.2 img (recordOf img) 4

/-- REJCAUSE of an image, 0 when it passes; the first failure in this order is the cause (log 21). -/
def JostSt.imageCause (j : JostSt) (img : List Byte) : Nat :=
  let n := img.length
  let st := stagesOf img
  let p := Config.platform (recordOf img)
  if n < 0xA0 then 7
  else if imgN img 0 4 ≠ 0x4A535441 then 1
  else if imgN img 4 4 < j.vfloor.toNat then 2
  else if imgN img 4 4 < imgN img 8 4 then 3
  else if imgN img 0xC 4 = 0 || 4 < imgN img 0xC 4 then 7
  else if st.any (fun x => decide (n < x.off + x.len)) || n < imgN img 0x90 8 + imgN img 0x98 8 then 7
  else if (span 0 st.length).any (fun i => !stageSigned img i) then 4
  else if !recordSigned j.prkh img then 5
  else if !platOk p then 6
  else if st.any (fun x => decide (x.load < p.fwBase) || decide (p.fwBase + p.fwLen < x.load + x.len)) then 7
  else 0

/-! ### Measurement (26 R434) -/

/-- PMi := SHA3-512(PMi ‖ SHA3-512(m)). -/
def JostSt.measure (j : JostSt) (i : Nat) (m : List Byte) : JostSt :=
  { j with pm := vset j.pm i (sha3 (natLe (vget j.pm i 0).toNat 64 ++ natLe (sha3 m).toNat 64)) }

/-- The measurements of a boot. -/
def JostSt.measureBoot (j : JostSt) (img : List Byte) : JostSt :=
  let j := j.measure 0 (Config.romVersion 0)
  let j := (span 0 (stagesOf img).length).foldl (fun j i =>
    let x := stageOf img i
    j.measure (1 + i) (imgPart img x.off x.len)) j
  (j.measure 5 (recordOf img)).measure 6 (j.repair.flatMap (fun w => wordLe w 8))

/-! ### An image that passes (26 R432, R436) -/

/-- The registers of a die whose values the platform record supplies. -/
def DieSt.platform (d : DieSt) (p : PlatDie) : DieSt :=
  { d with part := p.part, nbound := BitVec.ofNat 2 p.nbound, milv := BitVec.ofNat 8 p.milv, pdesc := BitVec.ofNat 64 p.pdesc
           qto := BitVec.ofNat 16 p.qto, hold := BitVec.ofNat 16 p.hold, mcq := BitVec.ofNat 64 p.mcq }

/-- Jostauth after an image that passed; it derives its identity keys at each boot (01 R23; 26 R437). -/
def JostSt.accept (j : JostSt) (img : List Byte) (src : Nat) : JostSt :=
  let p := Config.platform (recordOf img)
  let j := j.measureBoot img
  let pv : BitVec 32 := BitVec.ofNat 32 p.pversion
  { j with listen := false, check := none, later := none, booted := true, rej := false, rejc := 0, window := []
           vfloor := if j.vfloor.toNat < imgN img 8 4 then BitVec.ofNat 32 (imgN img 8 4) else j.vfloor
           version := BitVec.ofNat 32 (imgN img 4 4), pversion := pv, source := src
           edKey := Config.edKeys j.secret, mlKey := Config.mlKeys j.secret
           certs := [Config.certOf (Config.edKeys j.secret).pub, Config.certOf (Config.mlKeys j.secret).pub]
           prkh := (Config.newPrkh img).getD j.prkh, cethr := p.cethr, strict := p.strict
           mac := BitVec.ofNat 48 p.mac, etype := p.etype, fwBase := p.fwBase, fwLen := p.fwLen, plim := p.plim
           sfact := p.sfact, recPa := BitVec.ofNat 64 (Config.recordPa (recordOf img)) }

/-- What the system cores read of the identity over the service ring: the two public keys and their certificates (26 R437). -/
def JostSt.identity (j : JostSt) : List (List Byte) := [j.edKey.pub, j.mlKey.pub] ++ j.certs

/-- Where the last stage begins to run. -/
def entryOf (img : List Byte) : Word :=
  let x := stageOf img (imgN img 0xC 4 - 1)
  BitVec.ofNat 64 (x.load + x.ent)

/-- The machine after an image that passed: stages and record in memory, PR fields in the dies, starts under way. -/
def State.boot (s : State) (img : List Byte) (src : Nat) : State :=
  let p := Config.platform (recordOf img)
  let j := s.jost.accept img src
  let m := memWrite s.mem j.recPa.toNat (recordOf img)
  let m := (stagesOf img).foldl (fun m x => memWrite m x.load (imgPart img x.off x.len)) m
  let s : State := { s with jost := j, mem := m }
  let s := (((s.upDie 0 (fun d => d.platform p.d0)).upDie 1 (fun d => d.platform p.d1)).upDie 2
    (fun d => d.platform p.d2)).upDie 3 (fun d => d.platform p.d3)
  (span 0 4).foldl (fun s d =>
    match (platDies p)[d]? with
    | some x => if x.named then s.push (.systemCoreStart d 0 (entryOf img) j.recPa) else s
    | none => s) s

/-- IMAGE_CHECK_DONE (26 R433, R436). -/
def execImageCheckDone (s : State) : Out :=
  match s.jost.check with
  | none => .next s
  | some (img, src) =>
    let c := s.jost.imageCause img
    if c = 0 then .next (s.boot img src)
    else
      let s : State := { s with jost := { s.jost with check := s.jost.later, later := none, rej := true, rejc := c } }
      .next (if s.jost.check.isSome then s.push .imageCheckDone else s)

/-- SYSTEM_CORE_START (20 R357; 26 R436): a halted system core goes on at pc + 4 of its HALT; one that has not run since
reset begins at the address the start carries, with g4 as it says (log 22); its two low bits are taken as 0, which 03 R41 says pc
always has (log 84). -/
def execSystemCoreStart (die unit : Nat) (pc arg : Word) (s : State) : Out :=
  if 4 ≤ die ∨ 2 ≤ unit then .next s
  else
    let tk := Config.sysBase + 2 * die + unit
    if !(s.t tk).halted then .next s
    else
      .next (s.upT tk (fun t =>
        let t : TSet := if t.lastIss = 0 then { t with pc := pc &&& ~~~(3 : Word), a := t.a.setG 0 4 arg } else t
        { t with halted := false, readyAt := s.cyc + 1 }))

/-! ### Attestation (26 R434, R438) -/

/-- ATTGO (21 R384, 26 R438): requests are served one at a time in arrival order; the host's carries NONCE. -/
def execAttgo (host : Bool) (nonce : BitVec 512) (s : State) : Out :=
  let n := if host then s.jost.nonce else nonce
  let idle := s.jost.attq.isEmpty
  let s : State := { s with jost := { s.jost with attq := s.jost.attq ++ [(host, n)] } }
  .next (if idle then s.push .attestationDone else s)

/-- Bytes of a signature, cut or filled to their number. -/
def sigBytes (n : Nat) (l : List Byte) : List Byte := (l ++ List.replicate n 0).take n

/-- The report over a nonce, signed with both private keys (26 R437, R438). -/
def State.reportOf (s : State) (n : BitVec 512) : List Byte :=
  let j := s.jost
  let body := natLe n.toNat 64 ++ j.pm.toList.flatMap (fun x => natLe x.toNat 64) ++ natLe j.version.toNat 4 ++ natLe j.pversion.toNat 4
    ++ natLe j.source 4 ++ natLe s.cyc 8
  body ++ sigBytes 64 (Config.edSign j.edKey.priv body) ++ sigBytes 3309 (Config.mlSign j.mlKey.priv body)

/-- ATTESTATION_DONE: the report stands, PM7 extensions that waited take effect, the next request begins. -/
def execAttestationDone (s : State) : Out :=
  match s.jost.attq with
  | [] => .next s
  | (host, n) :: l =>
    let r := s.reportOf n
    let j := s.jost.ext.foldl (fun j m => j.measure 7 m) { s.jost with attq := l, ext := [] }
    let j : JostSt := if host then { j with report := r, repRdy := true } else { j with ringRep := r }
    let s : State := { s with jost := j }
    .next (if l = [] then s else s.push .attestationDone)

/-- PM7_EXTEND: at once, or after the report being signed. -/
def execPm7Extend (item : List (BitVec 8)) (s : State) : Out :=
  .next { s with jost := if s.jost.attq = [] then s.jost.measure 7 item else { s.jost with ext := s.jost.ext ++ [item] } }

/-- REPAIR_LIST_APPEND (26 R432). -/
def execRepairListAppend (item : Word) (s : State) : Out :=
  .next { s with jost := { s.jost with repair := s.jost.repair ++ [item] } }

/-! ### Clock stretching (26 R439) -/

/-- SAG_DETECT: a sag that lasts `len` cc; the clock is stretched after `lag` cc, at most 4. -/
def execSagDetect (die lag len : Nat) (s : State) : Out :=
  if 4 ≤ die then .next s else
  let last := s.cyc + len
  let s : State := { s with
    sagFrom := if s.sagTo.isSome then min s.sagFrom (s.cyc + min lag 4) else s.cyc + min lag 4
    sagTo := some (match s.sagTo with | some e => max e last | none => last) }
  .next ((s.upDie die (fun d => { d with sagd := d.sagd + 1 })).pushAt (last + 65) .stretchEnd)

/-- Is this cc stretched? -/
def State.stretched (s : State) : Bool := s.sagTo.isSome && decide (s.sagFrom ≤ s.cyc)

/-- STRETCH_END: 64 cc after the last sag. -/
def execStretchEnd (s : State) : Out :=
  match s.sagTo with
  | some e => .next (if e + 64 < s.cyc then { s with sagTo := none } else s)
  | none => .next s

end Sys2Proof.Machine
end

