-- ==== Sys2Proof/Machine/Ready.lean ====
section
/-! DEFINITION. What an instruction needs before it can issue: the registers that it reads and writes, its unit (05 R86; 06
R114), whether it stalls while its thread set speculates (14 R288; 05 R112), and whether it acts on the tangent planes
under dual semantics (15 R291). -/

namespace Sys2Proof.Machine

/-- Needs of an instruction. A register is its class, 0 g, 1 v, 2 m, and its number; `unit` is 1 the divider, 2 the vector
unit, 3 the transcendental unit with it. -/
structure Need where
  src   : List (Nat × Nat)
  dst   : List (Nat × Nat)
  unit  : Nat
  waits : Bool
  acts  : Bool
  deriving DecidableEq, Repr

def nG (r : Reg) : Nat × Nat := (0, r.toNat)
def nV (r : Reg) : Nat × Nat := (1, r.toNat)
def nM (r : BitVec 3) : Nat × Nat := (2, r.toNat)
/-- A register of the class that a bit names. -/
def nX (c : BitVec 1) (r : Reg) : Nat × Nat := (c.toNat, r.toNat)

/-- Writes of FMODE, SRSEED, DMODE, the offset words, the loop words and LSTAT go on while speculating; others wait (05
R112). -/
def cwSpecWaits (ix : BitVec 10) : Bool :=
  !([0x010, 0x011, 0x020, 0x021, 0x022, 0x023, 0x024, 0x030, 0x031, 0x032, 0x033, 0x034, 0x035, 0x036].contains ix.toNat)

/-- Needs of every encoded instruction. -/
def need : Instr → Need
  | .add d a b => { src := [nG a, nG b], dst := [nG d], unit := 0, waits := false, acts := true }
  | .sub d a b => { src := [nG a, nG b], dst := [nG d], unit := 0, waits := false, acts := true }
  | .and d a b => { src := [nG a, nG b], dst := [nG d], unit := 0, waits := false, acts := true }
  | .or d a b => { src := [nG a, nG b], dst := [nG d], unit := 0, waits := false, acts := true }
  | .xor d a b => { src := [nG a, nG b], dst := [nG d], unit := 0, waits := false, acts := true }
  | .andn d a b => { src := [nG a, nG b], dst := [nG d], unit := 0, waits := false, acts := true }
  | .sll d a b => { src := [nG a, nG b], dst := [nG d], unit := 0, waits := false, acts := true }
  | .srl d a b => { src := [nG a, nG b], dst := [nG d], unit := 0, waits := false, acts := true }
  | .sra d a b => { src := [nG a, nG b], dst := [nG d], unit := 0, waits := false, acts := true }
  | .ror d a b => { src := [nG a, nG b], dst := [nG d], unit := 0, waits := false, acts := true }
  | .slt d a b => { src := [nG a, nG b], dst := [nG d], unit := 0, waits := false, acts := true }
  | .sltu d a b => { src := [nG a, nG b], dst := [nG d], unit := 0, waits := false, acts := true }
  | .min d a b => { src := [nG a, nG b], dst := [nG d], unit := 0, waits := false, acts := true }
  | .max d a b => { src := [nG a, nG b], dst := [nG d], unit := 0, waits := false, acts := true }
  | .minu d a b => { src := [nG a, nG b], dst := [nG d], unit := 0, waits := false, acts := true }
  | .maxu d a b => { src := [nG a, nG b], dst := [nG d], unit := 0, waits := false, acts := true }
  | .mul d a b => { src := [nG a, nG b], dst := [nG d], unit := 0, waits := false, acts := true }
  | .mulh d a b => { src := [nG a, nG b], dst := [nG d], unit := 0, waits := false, acts := true }
  | .mulhu d a b => { src := [nG a, nG b], dst := [nG d], unit := 0, waits := false, acts := true }
  | .mulhsu d a b => { src := [nG a, nG b], dst := [nG d], unit := 0, waits := false, acts := true }
  | .div d a b => { src := [nG a, nG b], dst := [nG d], unit := 1, waits := false, acts := true }
  | .divu d a b => { src := [nG a, nG b], dst := [nG d], unit := 1, waits := false, acts := true }
  | .rem d a b => { src := [nG a, nG b], dst := [nG d], unit := 1, waits := false, acts := true }
  | .remu d a b => { src := [nG a, nG b], dst := [nG d], unit := 1, waits := false, acts := true }
  | .clz d a => { src := [nG a], dst := [nG d], unit := 0, waits := false, acts := true }
  | .ctz d a => { src := [nG a], dst := [nG d], unit := 0, waits := false, acts := true }
  | .popc d a => { src := [nG a], dst := [nG d], unit := 0, waits := false, acts := true }
  | .sextB d a => { src := [nG a], dst := [nG d], unit := 0, waits := false, acts := true }
  | .sextH d a => { src := [nG a], dst := [nG d], unit := 0, waits := false, acts := true }
  | .sextW d a => { src := [nG a], dst := [nG d], unit := 0, waits := false, acts := true }
  | .zextH d a => { src := [nG a], dst := [nG d], unit := 0, waits := false, acts := true }
  | .zextW d a => { src := [nG a], dst := [nG d], unit := 0, waits := false, acts := true }
  | .addw d a b => { src := [nG a, nG b], dst := [nG d], unit := 0, waits := false, acts := true }
  | .subw d a b => { src := [nG a, nG b], dst := [nG d], unit := 0, waits := false, acts := true }
  | .addLit d a _ => { src := [nG a], dst := [nG d], unit := 0, waits := false, acts := true }
  | .subLit d a _ => { src := [nG a], dst := [nG d], unit := 0, waits := false, acts := true }
  | .andLit d a _ => { src := [nG a], dst := [nG d], unit := 0, waits := false, acts := true }
  | .orLit d a _ => { src := [nG a], dst := [nG d], unit := 0, waits := false, acts := true }
  | .xorLit d a _ => { src := [nG a], dst := [nG d], unit := 0, waits := false, acts := true }
  | .andnLit d a _ => { src := [nG a], dst := [nG d], unit := 0, waits := false, acts := true }
  | .sllLit d a _ => { src := [nG a], dst := [nG d], unit := 0, waits := false, acts := true }
  | .srlLit d a _ => { src := [nG a], dst := [nG d], unit := 0, waits := false, acts := true }
  | .sraLit d a _ => { src := [nG a], dst := [nG d], unit := 0, waits := false, acts := true }
  | .rorLit d a _ => { src := [nG a], dst := [nG d], unit := 0, waits := false, acts := true }
  | .sltLit d a _ => { src := [nG a], dst := [nG d], unit := 0, waits := false, acts := true }
  | .sltuLit d a _ => { src := [nG a], dst := [nG d], unit := 0, waits := false, acts := true }
  | .minLit d a _ => { src := [nG a], dst := [nG d], unit := 0, waits := false, acts := true }
  | .maxLit d a _ => { src := [nG a], dst := [nG d], unit := 0, waits := false, acts := true }
  | .minuLit d a _ => { src := [nG a], dst := [nG d], unit := 0, waits := false, acts := true }
  | .maxuLit d a _ => { src := [nG a], dst := [nG d], unit := 0, waits := false, acts := true }
  | .mulLit d a _ => { src := [nG a], dst := [nG d], unit := 0, waits := false, acts := true }
  | .mulhLit d a _ => { src := [nG a], dst := [nG d], unit := 0, waits := false, acts := true }
  | .mulhuLit d a _ => { src := [nG a], dst := [nG d], unit := 0, waits := false, acts := true }
  | .mulhsuLit d a _ => { src := [nG a], dst := [nG d], unit := 0, waits := false, acts := true }
  | .divLit d a _ => { src := [nG a], dst := [nG d], unit := 1, waits := false, acts := true }
  | .divuLit d a _ => { src := [nG a], dst := [nG d], unit := 1, waits := false, acts := true }
  | .remLit d a _ => { src := [nG a], dst := [nG d], unit := 1, waits := false, acts := true }
  | .remuLit d a _ => { src := [nG a], dst := [nG d], unit := 1, waits := false, acts := true }
  | .addwLit d a _ => { src := [nG a], dst := [nG d], unit := 0, waits := false, acts := true }
  | .subwLit d a _ => { src := [nG a], dst := [nG d], unit := 0, waits := false, acts := true }
  | .addi d a _ => { src := [nG a], dst := [nG d], unit := 0, waits := false, acts := true }
  | .andi d a _ => { src := [nG a], dst := [nG d], unit := 0, waits := false, acts := true }
  | .ori d a _ => { src := [nG a], dst := [nG d], unit := 0, waits := false, acts := true }
  | .xori d a _ => { src := [nG a], dst := [nG d], unit := 0, waits := false, acts := true }
  | .slti d a _ => { src := [nG a], dst := [nG d], unit := 0, waits := false, acts := true }
  | .sltiu d a _ => { src := [nG a], dst := [nG d], unit := 0, waits := false, acts := true }
  | .slli d a _ => { src := [nG a], dst := [nG d], unit := 0, waits := false, acts := true }
  | .srli d a _ => { src := [nG a], dst := [nG d], unit := 0, waits := false, acts := true }
  | .srai d a _ => { src := [nG a], dst := [nG d], unit := 0, waits := false, acts := true }
  | .rori d a _ => { src := [nG a], dst := [nG d], unit := 0, waits := false, acts := true }
  | .lui d _ => { src := [], dst := [nG d], unit := 0, waits := false, acts := true }
  | .addpc d _ => { src := [], dst := [nG d], unit := 0, waits := false, acts := true }
  | .fadd d a b _ => { src := [nG a, nG b], dst := [nG d], unit := 0, waits := false, acts := true }
  | .fsub d a b _ => { src := [nG a, nG b], dst := [nG d], unit := 0, waits := false, acts := true }
  | .fmul d a b _ => { src := [nG a, nG b], dst := [nG d], unit := 0, waits := false, acts := true }
  | .fdiv d a b _ => { src := [nG a, nG b], dst := [nG d], unit := 0, waits := false, acts := true }
  | .fsqrt d a _ => { src := [nG a], dst := [nG d], unit := 0, waits := false, acts := true }
  | .fmin d a b _ => { src := [nG a, nG b], dst := [nG d], unit := 0, waits := false, acts := true }
  | .fmax d a b _ => { src := [nG a, nG b], dst := [nG d], unit := 0, waits := false, acts := true }
  | .fsgnj d a b _ => { src := [nG a, nG b], dst := [nG d], unit := 0, waits := false, acts := true }
  | .fsgnjn d a b _ => { src := [nG a, nG b], dst := [nG d], unit := 0, waits := false, acts := true }
  | .fsgnjx d a b _ => { src := [nG a, nG b], dst := [nG d], unit := 0, waits := false, acts := true }
  | .feq d a b _ => { src := [nG a, nG b], dst := [nG d], unit := 0, waits := false, acts := true }
  | .flt d a b _ => { src := [nG a, nG b], dst := [nG d], unit := 0, waits := false, acts := true }
  | .fle d a b _ => { src := [nG a, nG b], dst := [nG d], unit := 0, waits := false, acts := true }
  | .fclass d a _ => { src := [nG a], dst := [nG d], unit := 0, waits := false, acts := true }
  | .fcvtS d a _ => { src := [nG a], dst := [nG d], unit := 0, waits := false, acts := true }
  | .fcvtZ d a _ => { src := [nG a], dst := [nG d], unit := 0, waits := false, acts := true }
  | .fcvtfS d a _ => { src := [nG a], dst := [nG d], unit := 0, waits := false, acts := true }
  | .fcvtfZ d a _ => { src := [nG a], dst := [nG d], unit := 0, waits := false, acts := true }
  | .fcvtp d a _ => { src := [nG a], dst := [nG d], unit := 0, waits := false, acts := true }
  | .fmadd d a b _ => { src := [nG a, nG b, nG d], dst := [nG d], unit := 0, waits := false, acts := true }
  | .fmsub d a b _ => { src := [nG a, nG b, nG d], dst := [nG d], unit := 0, waits := false, acts := true }
  | .fnmadd d a b _ => { src := [nG a, nG b, nG d], dst := [nG d], unit := 0, waits := false, acts := true }
  | .fcvtSt d a _ => { src := [nG a], dst := [nG d], unit := 0, waits := false, acts := true }
  | .faddLit d a _ _ => { src := [nG a], dst := [nG d], unit := 0, waits := false, acts := true }
  | .fsubLit d a _ _ => { src := [nG a], dst := [nG d], unit := 0, waits := false, acts := true }
  | .fmulLit d a _ _ => { src := [nG a], dst := [nG d], unit := 0, waits := false, acts := true }
  | .fdivLit d a _ _ => { src := [nG a], dst := [nG d], unit := 0, waits := false, acts := true }
  | .fminLit d a _ _ => { src := [nG a], dst := [nG d], unit := 0, waits := false, acts := true }
  | .fmaxLit d a _ _ => { src := [nG a], dst := [nG d], unit := 0, waits := false, acts := true }
  | .fsgnjLit d a _ _ => { src := [nG a], dst := [nG d], unit := 0, waits := false, acts := true }
  | .fsgnjnLit d a _ _ => { src := [nG a], dst := [nG d], unit := 0, waits := false, acts := true }
  | .fsgnjxLit d a _ _ => { src := [nG a], dst := [nG d], unit := 0, waits := false, acts := true }
  | .feqLit d a _ _ => { src := [nG a], dst := [nG d], unit := 0, waits := false, acts := true }
  | .fltLit d a _ _ => { src := [nG a], dst := [nG d], unit := 0, waits := false, acts := true }
  | .fleLit d a _ _ => { src := [nG a], dst := [nG d], unit := 0, waits := false, acts := true }
  | .fmaddLit d a _ _ => { src := [nG a, nG d], dst := [nG d], unit := 0, waits := false, acts := true }
  | .fmsubLit d a _ _ => { src := [nG a, nG d], dst := [nG d], unit := 0, waits := false, acts := true }
  | .fnmaddLit d a _ _ => { src := [nG a, nG d], dst := [nG d], unit := 0, waits := false, acts := true }
  | .ld d a _ _ _ => { src := [nG a], dst := [nG d], unit := 0, waits := false, acts := true }
  | .st src a z _ _ => { src := [nG src, nG a], dst := [], unit := 0, waits := false, acts := storeDual z }
  | .ldl d a _ _ => { src := [nG a], dst := [nG d], unit := 0, waits := false, acts := true }
  | .stl src a z _ => { src := [nG src, nG a], dst := [], unit := 0, waits := false, acts := storeDual z }
  | .amoSwap d a b _ _ _ => { src := [nG a, nG b], dst := [nG d], unit := 0, waits := true, acts := true }
  | .amoAdd d a b _ _ _ => { src := [nG a, nG b], dst := [nG d], unit := 0, waits := true, acts := true }
  | .amoAnd d a b _ _ _ => { src := [nG a, nG b], dst := [nG d], unit := 0, waits := true, acts := true }
  | .amoOr d a b _ _ _ => { src := [nG a, nG b], dst := [nG d], unit := 0, waits := true, acts := true }
  | .amoXor d a b _ _ _ => { src := [nG a, nG b], dst := [nG d], unit := 0, waits := true, acts := true }
  | .amoMin d a b _ _ _ => { src := [nG a, nG b], dst := [nG d], unit := 0, waits := true, acts := true }
  | .amoMax d a b _ _ _ => { src := [nG a, nG b], dst := [nG d], unit := 0, waits := true, acts := true }
  | .amoMinu d a b _ _ _ => { src := [nG a, nG b], dst := [nG d], unit := 0, waits := true, acts := true }
  | .amoMaxu d a b _ _ _ => { src := [nG a, nG b], dst := [nG d], unit := 0, waits := true, acts := true }
  | .amoCas d a b _ _ _ => { src := [nG a, nG b, nG d], dst := [nG d], unit := 0, waits := true, acts := true }
  | .redAddF32 a b v => { src := [nG a, nX v b], dst := [], unit := 0, waits := true, acts := true }
  | .redAddBf16 a b v => { src := [nG a, nX v b], dst := [], unit := 0, waits := true, acts := true }
  | .redAddS32 a b v => { src := [nG a, nX v b], dst := [], unit := 0, waits := true, acts := false }
  | .redAddS64 a b v => { src := [nG a, nX v b], dst := [], unit := 0, waits := true, acts := false }
  | .redMaxF32 a b v => { src := [nG a, nX v b], dst := [], unit := 0, waits := true, acts := false }
  | .redMinF32 a b v => { src := [nG a, nX v b], dst := [], unit := 0, waits := true, acts := false }
  | .fence _ _ => { src := [], dst := [], unit := 0, waits := true, acts := false }
  | .sigadd a b => { src := [nG a, nG b], dst := [], unit := 0, waits := true, acts := false }
  | .waitge d a b => { src := [nG a, nG b], dst := [nG d], unit := 0, waits := true, acts := true }
  | .ctrrd d a => { src := [nG a], dst := [nG d], unit := 0, waits := true, acts := true }
  | .rflush => { src := [], dst := [], unit := 0, waits := true, acts := false }
  | .discard a => { src := [nG a], dst := [], unit := 0, waits := true, acts := false }
  | .l1inv => { src := [], dst := [], unit := 0, waits := false, acts := false }
  | .beq a b _ => { src := [nG a, nG b], dst := [], unit := 0, waits := false, acts := false }
  | .bne a b _ => { src := [nG a, nG b], dst := [], unit := 0, waits := false, acts := false }
  | .blt a b _ => { src := [nG a, nG b], dst := [], unit := 0, waits := false, acts := false }
  | .bge a b _ => { src := [nG a, nG b], dst := [], unit := 0, waits := false, acts := false }
  | .bltu a b _ => { src := [nG a, nG b], dst := [], unit := 0, waits := false, acts := false }
  | .bgeu a b _ => { src := [nG a, nG b], dst := [], unit := 0, waits := false, acts := false }
  | .jal d _ => { src := [], dst := [nG d], unit := 0, waits := false, acts := false }
  | .jalr d a _ => { src := [nG a], dst := [nG d], unit := 0, waits := false, acts := false }
  | .lspan _ c _ n => { src := (if c = 1 then [nG (n.setWidth 5)] else []), dst := [], unit := 0, waits := false, acts := false }
  | .lexit _ => { src := [], dst := [], unit := 0, waits := false, acts := false }
  | .ldis _ => { src := [], dst := [], unit := 0, waits := false, acts := false }
  | .vadd d a b m _ => { src := [nV a, nV b, nM m], dst := [nV d], unit := 2, waits := false, acts := true }
  | .vsub d a b m _ => { src := [nV a, nV b, nM m], dst := [nV d], unit := 2, waits := false, acts := true }
  | .vmul d a b m _ => { src := [nV a, nV b, nM m], dst := [nV d], unit := 2, waits := false, acts := true }
  | .vfma d a b m _ => { src := [nV a, nV b, nV d, nM m], dst := [nV d], unit := 2, waits := false, acts := true }
  | .vfms d a b m _ => { src := [nV a, nV b, nV d, nM m], dst := [nV d], unit := 2, waits := false, acts := true }
  | .vmin d a b m _ => { src := [nV a, nV b, nM m], dst := [nV d], unit := 2, waits := false, acts := true }
  | .vmax d a b m _ => { src := [nV a, nV b, nM m], dst := [nV d], unit := 2, waits := false, acts := true }
  | .vand d a b m _ => { src := [nV a, nV b, nM m], dst := [nV d], unit := 2, waits := false, acts := true }
  | .vor d a b m _ => { src := [nV a, nV b, nM m], dst := [nV d], unit := 2, waits := false, acts := true }
  | .vxor d a b m _ => { src := [nV a, nV b, nM m], dst := [nV d], unit := 2, waits := false, acts := true }
  | .vshl d a b m _ => { src := [nV a, nV b, nM m], dst := [nV d], unit := 2, waits := false, acts := true }
  | .vshr d a b m _ => { src := [nV a, nV b, nM m], dst := [nV d], unit := 2, waits := false, acts := true }
  | .vceq d a b m _ => { src := [nV a, nV b, nM m], dst := [nM d], unit := 2, waits := false, acts := true }
  | .vclt d a b m _ => { src := [nV a, nV b, nM m], dst := [nM d], unit := 2, waits := false, acts := true }
  | .vcle d a b m _ => { src := [nV a, nV b, nM m], dst := [nM d], unit := 2, waits := false, acts := true }
  | .vsel d a b m _ => { src := [nV a, nV b, nM m], dst := [nV d], unit := 2, waits := false, acts := true }
  | .vabs d a m _ => { src := [nV a, nM m], dst := [nV d], unit := 2, waits := false, acts := true }
  | .vneg d a m _ => { src := [nV a, nM m], dst := [nV d], unit := 2, waits := false, acts := true }
  | .vrcp d a m _ => { src := [nV a, nM m], dst := [nV d], unit := 3, waits := false, acts := true }
  | .vrsq d a m _ => { src := [nV a, nM m], dst := [nV d], unit := 3, waits := false, acts := true }
  | .vexp2 d a m _ => { src := [nV a, nM m], dst := [nV d], unit := 3, waits := false, acts := true }
  | .vlog2 d a m _ => { src := [nV a, nM m], dst := [nV d], unit := 3, waits := false, acts := true }
  | .vsqrt d a m _ => { src := [nV a, nM m], dst := [nV d], unit := 3, waits := false, acts := true }
  | .vdiv d a b m _ => { src := [nV a, nV b, nM m], dst := [nV d], unit := 3, waits := false, acts := true }
  | .vaddg d a b m _ => { src := [nV a, nG b, nM m], dst := [nV d], unit := 2, waits := false, acts := true }
  | .vmulg d a b m _ => { src := [nV a, nG b, nM m], dst := [nV d], unit := 2, waits := false, acts := true }
  | .vfmag d a b m _ => { src := [nV a, nG b, nV d, nM m], dst := [nV d], unit := 2, waits := false, acts := true }
  | .vming d a b m _ => { src := [nV a, nG b, nM m], dst := [nV d], unit := 2, waits := false, acts := true }
  | .vmaxg d a b m _ => { src := [nV a, nG b, nM m], dst := [nV d], unit := 2, waits := false, acts := true }
  | .vmovg d b m _ => { src := [nG b, nM m], dst := [nV d], unit := 2, waits := false, acts := true }
  | .vext d a b _ => { src := [nV a, nG b], dst := [nG d], unit := 2, waits := false, acts := true }
  | .vins d a b _ => { src := [nG a, nG b], dst := [nV d], unit := 2, waits := false, acts := true }
  | .vcvtBf16F32 d a _ m => { src := [nV a, nM m], dst := [nV d], unit := 2, waits := false, acts := true }
  | .vcvtF32Bf16 d a _ m => { src := [nV a, nM m], dst := [nV d], unit := 2, waits := false, acts := true }
  | .vcvtF16F32 d a _ m => { src := [nV a, nM m], dst := [nV d], unit := 2, waits := false, acts := true }
  | .vcvtF32F16 d a _ m => { src := [nV a, nM m], dst := [nV d], unit := 2, waits := false, acts := true }
  | .vcvtE4m3F32 d a _ m => { src := [nV a, nM m], dst := [nV d], unit := 2, waits := false, acts := true }
  | .vcvtF32E4m3 d a _ m => { src := [nV a, nM m], dst := [nV d], unit := 2, waits := false, acts := true }
  | .vcvtE5m2F32 d a _ m => { src := [nV a, nM m], dst := [nV d], unit := 2, waits := false, acts := true }
  | .vcvtF32E5m2 d a _ m => { src := [nV a, nM m], dst := [nV d], unit := 2, waits := false, acts := true }
  | .vcvtS32F32 d a m => { src := [nV a, nM m], dst := [nV d], unit := 2, waits := false, acts := true }
  | .vcvtF32S32 d a m => { src := [nV a, nM m], dst := [nV d], unit := 2, waits := false, acts := true }
  | .vcvtS8S32 d a _ m => { src := [nV a, nM m], dst := [nV d], unit := 2, waits := false, acts := true }
  | .bfpenc d a m _ => { src := [nV a, nM m], dst := [nV d], unit := 2, waits := false, acts := true }
  | .bfpdec d a m _ => { src := [nV a, nM m], dst := [nV d], unit := 2, waits := false, acts := true }
  | .vldL d a b m _ => { src := [nG a, nG b, nM m], dst := [nV d], unit := 2, waits := false, acts := true }
  | .vstL d a b m _ => { src := [nG a, nG b, nV d, nM m], dst := [], unit := 2, waits := false, acts := true }
  | .vldG d a b m _ => { src := [nG a, nG b, nM m], dst := [nV d], unit := 2, waits := false, acts := true }
  | .vstG d a b m _ => { src := [nG a, nG b, nV d, nM m], dst := [], unit := 2, waits := false, acts := true }
  | .vlds d a b m _ => { src := [nG a, nG b, nM m], dst := [nV d], unit := 2, waits := false, acts := true }
  | .vgathL d a b m _ => { src := [nG a, nV b, nM m], dst := [nV d], unit := 2, waits := false, acts := true }
  | .vscatL d a b m _ => { src := [nG a, nV b, nV d, nM m], dst := [], unit := 2, waits := false, acts := true }
  | .vperm d a b m _ => { src := [nV a, nV b, nM m], dst := [nV d], unit := 2, waits := false, acts := true }
  | .vredsum d a m _ => { src := [nV a, nM m], dst := [nG d], unit := 2, waits := false, acts := true }
  | .vredmax d a m _ => { src := [nV a, nM m], dst := [nG d], unit := 2, waits := false, acts := true }
  | .vredmin d a m _ => { src := [nV a, nM m], dst := [nG d], unit := 2, waits := false, acts := true }
  | .mand d a b => { src := [nM a, nM b], dst := [nM d], unit := 0, waits := false, acts := false }
  | .mor d a b => { src := [nM a, nM b], dst := [nM d], unit := 0, waits := false, acts := false }
  | .mnot d a => { src := [nM a], dst := [nM d], unit := 0, waits := false, acts := false }
  | .mpop d a _ => { src := [nM a], dst := [nG d], unit := 0, waits := false, acts := true }
  | .dual _ _ => { src := [], dst := [], unit := 0, waits := false, acts := false }
  | .dget d a c _ => { src := [nX c a], dst := [nX c d], unit := 0, waits := false, acts := true }
  | .dset d a c _ => { src := [nX c a], dst := [nX c d], unit := 0, waits := false, acts := true }
  | .dclr d c _ => { src := [], dst := [nX c d], unit := 0, waits := false, acts := true }
  | .dclrAll c _ => { src := [], dst := ((span 0 32).map (fun r => (c.toNat, r))), unit := 0, waits := false, acts := true }
  | .mmaBf16 d a b c _ _ => { src := [nG d, nG a, nG b, nG c], dst := [], unit := 0, waits := true, acts := false }
  | .mmaF16 d a b c _ _ => { src := [nG d, nG a, nG b, nG c], dst := [], unit := 0, waits := true, acts := false }
  | .mmaE4m3 d a b c _ _ => { src := [nG d, nG a, nG b, nG c], dst := [], unit := 0, waits := true, acts := false }
  | .mmaE5m2 d a b c _ _ => { src := [nG d, nG a, nG b, nG c], dst := [], unit := 0, waits := true, acts := false }
  | .mmaE4e5 d a b c _ _ => { src := [nG d, nG a, nG b, nG c], dst := [], unit := 0, waits := true, acts := false }
  | .mmaBfp d a b c _ _ _ => { src := [nG d, nG a, nG b, nG c], dst := [], unit := 0, waits := true, acts := false }
  | .mmaS8 d a b _ => { src := [nG d, nG a, nG b], dst := [], unit := 0, waits := true, acts := false }
  | .mzero d _ _ => { src := [nG d], dst := [], unit := 0, waits := true, acts := false }
  | .mtrn d a _ _ => { src := [nG d, nG a], dst := [], unit := 0, waits := true, acts := false }
  | .batt d _ => { src := [], dst := [nG d], unit := 0, waits := true, acts := true }
  | .bdet _ => { src := [], dst := [], unit := 0, waits := true, acts := false }
  | .hover d a _ _ => { src := [nG a], dst := [nG d], unit := 0, waits := true, acts := true }
  | .bwait _ => { src := [], dst := [], unit := 0, waits := true, acts := false }
  | .bqry d _ => { src := [], dst := [nG d], unit := 0, waits := false, acts := true }
  | .tcset a _ _ => { src := [nG a], dst := [], unit := 0, waits := false, acts := false }
  | .tcissue a _ => { src := [nG a], dst := [], unit := 0, waits := true, acts := false }
  | .tcqry d _ => { src := [], dst := [nG d], unit := 0, waits := false, acts := true }
  | .sopen a _ => { src := [nG a], dst := [], unit := 0, waits := true, acts := false }
  | .ssend a v _ => { src := [nX v a], dst := [], unit := 0, waits := true, acts := false }
  | .sclose _ => { src := [], dst := [], unit := 0, waits := true, acts := false }
  | .recv d _ => { src := [], dst := [nG d], unit := 0, waits := true, acts := true }
  | .rrls a _ => { src := [nG a], dst := [], unit := 0, waits := true, acts := false }
  | .rring a b _ => { src := [nG a, nG b], dst := [], unit := 0, waits := true, acts := false }
  | .barr a _ => { src := [nG a], dst := [], unit := 0, waits := true, acts := false }
  | .barw d _ => { src := [], dst := [nG d], unit := 0, waits := true, acts := true }
  | .barws d _ => { src := [], dst := [nG d], unit := 0, waits := true, acts := true }
  | .barq d _ _ => { src := [], dst := [nG d], unit := 0, waits := false, acts := true }
  | .barl _ => { src := [], dst := [], unit := 0, waits := true, acts := false }
  | .rtnext d => { src := [], dst := [nG d], unit := 0, waits := false, acts := true }
  | .tspawn d a => { src := [nG a], dst := [nG d], unit := 0, waits := true, acts := true }
  | .tdone => { src := [], dst := [], unit := 0, waits := true, acts := false }
  | .yield => { src := [], dst := [], unit := 0, waits := true, acts := false }
  | .tsync a => { src := [nG a], dst := [], unit := 0, waits := true, acts := false }
  | .ecall => { src := [], dst := [], unit := 0, waits := true, acts := false }
  | .ebreak => { src := [], dst := [], unit := 0, waits := true, acts := false }
  | .eret => { src := [], dst := [], unit := 0, waits := true, acts := false }
  | .wfi => { src := [], dst := [], unit := 0, waits := true, acts := false }
  | .tlbinv a _ _ => { src := [nG a], dst := [], unit := 0, waits := true, acts := false }
  | .halt => { src := [], dst := [], unit := 0, waits := true, acts := false }
  | .crd d _ => { src := [], dst := [nG d], unit := 0, waits := false, acts := true }
  | .cwr a imm => { src := [nG a], dst := [], unit := 0, waits := cwSpecWaits imm, acts := false }
  | .csetb a imm => { src := [nG a], dst := [], unit := 0, waits := cwSpecWaits imm, acts := false }
  | .cclrb a imm => { src := [nG a], dst := [], unit := 0, waits := cwSpecWaits imm, acts := false }
  | _ => { src := [], dst := [], unit := 0, waits := false, acts := false }

/-- Does the instruction name planes (15 R298)? -/
def namesPlanes : Instr → Bool
  | .dget .. => true
  | .dset .. => true
  | .dclr .. => true
  | .dclrAll .. => true
  | _ => false

end Sys2Proof.Machine
end

