-- ==== Sys2Proof/Machine/Wakes.lean ====
section
/-! DEFINITION. Ends of stalls: results that become ready (05 R86), gating and waking of the tangent planes (02 R27-R29),
and a release that is performed (10 R186). -/

namespace Sys2Proof.Machine

/-- RESULT_READY (05 R86): results that are due are ready, and the operation is no longer abandoned by an interrupt. -/
def execResultReady (tk : Nat) (s : State) : Out :=
  .next (s.upT tk (fun t =>
    { t with busy := t.busy.filter (fun b => match b.due with | some d => decide (s.cyc < d) | none => true)
             undo := match t.undo with | some u => if u.2.2 ≤ s.cyc then none else some u | none => none }))

/-- GATED of DMODE. -/
def TSet.gated (t : TSet) : Bool := t.a.dmode.getLsbD 4

/-- What holds while the quiet time of the planes counts (02 R27). -/
def TSet.planesIdle (t : TSet) : Bool := !t.a.dmode.getLsbD 0 && !t.dact && t.spec.isNone

/-- Every plane of every register zero (02 R29). -/
def Arch.lost (a : Arch) : Arch :=
  { a with gd1 := Vector.replicate 32 0, gd2 := Vector.replicate 32 0, vd1 := Vector.replicate 32 0, vd2 := Vector.replicate 32 0 }

/-- PLANE_GATING (02 R27, R29): after 4096 counted quiet cc, while the context is active; with RET = 0 the contents are lost. -/
def execPlaneGating (tk : Nat) (s : State) : Out :=
  let t := s.t tk
  if t.gated || t.quiet < 4096 || !t.planesIdle || !(isSys tk || (s.core (coreOf tk)).act == some (cidOf tk)) then .next s
  else .next (s.upT tk (fun t =>
    let a := if t.a.dmode.getLsbD 3 then t.a else t.a.lost
    { t with a := { a with dmode := putBits a.dmode 4 1 1 }, quiet := 0 }))

/-- The stall of an instruction that needs gated planes: they wake in 40 cc, in which other thread sets issue (02 R28). -/
def State.startWake (s : State) : State :=
  let s := s.upMe (fun t => { t with wait := some .plane })
  if s.me.wakeAt.isSome then s
  else (s.upMe (fun t => { t with wakeAt := some (s.cyc + 40) })).pushAt (s.cyc + 40) (.planeWakeDone s.cur)

/-- PLANE_WAKE_DONE (02 R28). -/
def execPlaneWakeDone (tk : Nat) (s : State) : Out :=
  if (s.t tk).wakeAt.isNone then .next s
  else .next (s.upT tk (fun t =>
    { t with a := { t.a with dmode := putBits t.a.dmode 4 1 0 }, wakeAt := none, quiet := 0
             wait := if t.wait = some .plane then none else t.wait, readyAt := s.cyc }))

/-- Is the release of the thread set's instruction performed, so that its next step can follow? -/
def State.relReady (s : State) (tk : Nat) : Bool :=
  match (s.t tk).wait with
  | some .tdone => s.tdoneDrained tk
  | some w => s.relDone tk w
  | none => true

/-- RELEASE_PERFORMED (10 R186): what a FENCE, RFLUSH, TDONE, TSPAWN, TSYNC or TLBINV does then. -/
def execReleasePerformed (tk : Nat) (s : State) : Out :=
  match (s.t tk).wait with
  | none => .next s
  | some w =>
    if !s.relReady tk then .next (s.pushAt (s.cyc + 1) (.releasePerformed tk))
    else match w with
      | .fence k _ => let s := s.finish tk; .next (if k = 1 then s else s.acquire tk)
      | .rflush => .next (s.finish tk)
      | .tdone => if s.ownsRes tk then .next ((s.sendOwn tk).push (.releasePerformed tk)) else .next (s.tdoneEnd tk)
      | .tspawn _ _ => .next (s.push (.tspawnStatus tk))
      | .tsync _ _ => .next (s.push (.tsyncAck tk))
      | .tlbinv f sc va _ st => if st then .next s else .next (s.tlbSend tk f sc va)
      | _ => .next s

end Sys2Proof.Machine
end

