-- ==== Sys2Proof/Machine/Issue.lean ====
section
/-! DEFINITION. Instruction fetch (03 R64-R66; 23 R403), what stalls an issue (05 R86; 06 R114; 07 R136; 14 R288), interrupts
at a boundary (20 R353, R356), and the issue of one instruction. -/

namespace Sys2Proof.Machine

/-! ### Fetch -/

/-- What a fetch of a word gives. -/
inductive Fetched where
  | ok (w : BitVec 32)
  | flt (code : Nat)
  | held
  | void (pa : Nat)
  deriving DecidableEq, Repr

/-- A word that the L1 holds; the acquire epoch does not count for fetches (03 R66). -/
def CoreSt.l1Word (c : CoreSt) (pa : Nat) : Option (BitVec 32) :=
  match c.l1.find? (fun x => x.sector == pa / 48) with
  | some x => if wbits x.mask (pa % 48) 4 = 15 then some (BitVec.ofNat 32 (wbits x.data (8 * (pa % 48)) 32)) else none
  | none => none

/-- A word read at its home slice or at a replica; it fills the L1 unless the page has NC = 1 or a store of the core to the sector
is on its way (05 R100). -/
def State.fetchHome (s : State) (tk pa home : Nat) (pte : Word) : BitVec 32 × State :=
  let s := s.swNote home pa 4 false 0 (clusterOf tk)
  let (bs, s) := if pte.getLsbD 8 && !pte.getLsbD 7 && dieOf tk != dieOfRouter home then s.repRead (dieOf tk) home pa 4
    else s.homeRead home pa 4
  let w : BitVec 32 := BitVec.ofNat 32 (leNat bs)
  if pte.getLsbD 9 || s.inFlight (storeInFlight (coreOf tk) pa 4) then (w, s)
  else
    let s : State := { s with seq := s.seq + 1 }
    (w, s.fillL1 (coreOf tk) (cidOf tk) s.seq (s.refill home pa 4))

/-- The fetch of the word at `va` for a thread set. -/
def State.fetchAt (s : State) (tk : Nat) (va : Word) : Fetched × State :=
  match s.site tk va .fetch (s.t tk).priv with
  | (.flt c, s) => (.flt c, s)
  | (.held, s) => (.held, s)
  | (.void pa, s) => (.void pa, s)
  | (.ok pa home pte, s) =>
    if s.isReg pa then (.flt cAccess, s)
    else if isSys tk then
      (.ok (BitVec.ofNat 32 ((s.recovered home (lineKey pa)).toNat / 2 ^ (8 * (pa % 192)))), s.swNote home pa 4 false 5 0)
    else match (s.core (coreOf tk)).l1Word pa with
      | some w => (.ok w, s)
      | none =>
        if s.heldLine home pa then (.held, s)
        else
          let (w, s) := s.fetchHome tk pa home pte
          (.ok w, s)

/-- Does a fetch watchpoint of the thread set's position match its pc (23 R402-R404)? -/
def State.fetchWatch (s : State) (tk : Nat) : Bool :=
  let pc := (s.t tk).pc
  !isSys tk && (s.t tk).exempt != some pc && (span 0 4).any (fun w =>
    let ctl := vget (s.core (coreOf tk)).wctl (4 * tsOf tk + w) 0
    let base := wbits (vget (s.core (coreOf tk)).waddr (4 * tsOf tk + w) 0) 0 55
    ctl.getLsbD 0 && ctl.getLsbD 3 && wbits ctl 16 12 == cidOf tk && overlap pc.toNat 1 base (2 ^ wbits ctl 5 5))

/-- A fetch of the current thread set that faults; at its handler's first instruction the context is terminated, and the fault
goes into its CONTEXT_TERMINATED record (20 R352; log 85). -/
def State.fetchTrap (s : State) (code : Nat) (va : Word) : State :=
  if s.me.entered && !isSys s.cur then s.startTerm (s.partOf s.cur) (cidOf s.cur) (some (code, va)) else s.trap code va

/-- INSTRUCTION_FETCH (03 R65, 23 R403): the fetch at pc faults, or matches a fetch watchpoint, before the word is decoded. -/
def execInstructionFetch (s : State) : Out :=
  match s.fetchAt s.cur s.me.pc with
  | (.flt c, s) => .next (s.fetchTrap c s.me.pc)
  | (.held, s) => s.again
  | (.void pa, _) => .fault (.noStorage pa)
  | (.ok _, s) => if s.fetchWatch s.cur then .next (s.trap 0x22 s.me.pc) else .next s

/-- NOT_AN_INSTRUCTION (03 R64). -/
def execNotAnInstruction (w : BitVec 32) (s : State) : Out := s.illegal w

/-! ### Stalls -/

/-- Is a register not ready: waited for, or not due yet? -/
def TSet.notReady (t : TSet) (cyc : Nat) (x : Nat × Nat) : Bool :=
  (x.1 == 1 || x.2 != 0) && t.busy.any (fun b => b.cls == x.1 && b.r == x.2 &&
    (match b.due with | some d => decide (cyc < d) | none => true))

/-- Does a register still wait for a reply? -/
def TSet.awaits (t : TSet) (x : Nat × Nat) : Bool :=
  (x.1 == 1 || x.2 != 0) && t.busy.any (fun b => b.cls == x.1 && b.r == x.2 && b.due.isNone)

/-- Is the unit of an instruction taken? -/
def CoreSt.unitBusy (c : CoreSt) (cyc u : Nat) : Bool :=
  match u with
  | 0 => false
  | 1 => decide (cyc < c.divAt)
  | 2 => decide (cyc < c.vecAt)
  | _ => decide (cyc < c.vecAt) || decide (cyc < c.trnAt)

/-- Does the instruction stall its thread set in this cc, whatever its own checks say? That one whose destination still awaits a reply
stalls is the model's choice: 05 R86 and 07 R136 name operands only (log 96). -/
def State.stalls (s : State) (i : Instr) : Bool :=
  let n := need i
  let t := s.me
  n.src.any (t.notReady s.cyc) || n.dst.any t.awaits || (t.specOn && n.waits) || (s.core (coreOf s.cur)).unitBusy s.cyc n.unit

/-- Does it need planes that are gated? -/
def TSet.needsWake (t : TSet) (i : Instr) : Bool := t.gated && (namesPlanes i || ((need i).acts && t.dual != []))

/-- An instruction that has been decoded: it stalls, wakes its planes, or runs. -/
def State.start (run : Instr → State → Out) (i : Instr) (s : State) : Out :=
  if s.stalls i then s.again
  else if s.me.needsWake i then .next s.startWake
  else run i s

/-- The instruction at pc: fetch, decode, literal, in the order of 03 R65. -/
noncomputable def State.instruction (run : Instr → State → Out) (s : State) : Out :=
  match s.fetchAt s.cur s.me.pc with
  | (.ok w, s1) =>
    if s1.fetchWatch s1.cur then execInstructionFetch s
    else match decode w 0 with
      | .error _ => execNotAnInstruction w s1
      | .ok i =>
        if hasLiteral w then
          (match s1.fetchAt s1.cur (s1.me.pc + 4) with
           | (.ok l, s2) =>
             (match decode w l with
              | .ok j => s2.start run j
              | .error _ => execNotAnInstruction w s2)
           | (.flt c, s2) => .next (s2.fetchTrap c (s2.me.pc + 4))
           | (.held, s2) => s2.again
           | (.void pa, _) => .fault (.noStorage pa))
        else s1.start run i
  | _ => execInstructionFetch s

/-! ### Boundaries -/

/-- A machine check that a system core takes at its next boundary. -/
def TSet.mcDue (t : TSet) : Bool := t.mc != [] && !t.inMc && !t.sent

/-- Does an interrupt end or precede what the thread set would do? -/
def State.boundary (s : State) (tk : Nat) : Bool :=
  let t := s.t tk
  if isSys tk then t.mcDue else s.irqReady tk || (t.wait == some .wfi && (s.irqOf tk).isSome)

/-- The crossing of the thread set commits in this cc, before anything else happens to it (14 R290). -/
def State.commits (s : State) (tk : Nat) : Bool := s.inFlight (fun e => e == .specCommit tk)

/-- May the thread set have the issue slot of its core (07 R136; 23 R410; 24 R418)? -/
def State.mayIssue (s : State) (tk : Nat) : Bool :=
  match mfind s.ts tk with
  | none => false
  | some t =>
    (if isSys tk then !t.halted
     else (s.core (coreOf tk)).act == some (cidOf tk) && t.bound.isSome && !t.stopped && (s.heldBy tk).isNone && !s.commits tk)
    && (s.boundary tk || (t.wait.isNone && decide (t.readyAt ≤ s.cyc))) && t.lastIss != s.cyc + 1

/-- Thread sets of a core. -/
def coreTks (s : State) (core : Nat) : List Nat :=
  if 2048 ≤ core then [Config.sysBase + (core - 2048)]
  else match (s.core core).act with
    | some cid => (span 0 4).map (fun k => tkOf cid (core * 4 + k))
    | none => []

/-- Has the core issued in this cc? -/
def State.coreIssued (s : State) (core : Nat) : Bool := (coreTks s core).any (fun k => (s.t k).lastIss == s.cyc + 1)

/-- What a thread set with the issue slot does: a machine check, the end of WFI, an interrupt, or its next instruction. -/
noncomputable def State.slot (run : Instr → State → Out) (s : State) : Out :=
  let tk := s.cur
  let t := s.me
  if isSys tk && t.mcDue then
    (match t.mc with
     | r :: l =>
       if t.wait == some .wfi then .next (s.finish tk)
       else .next ((s.upMe (fun t => { t with mc := l })).takeMc tk r)
     | [] => .next s)
  else if t.wait == some .wfi then .next (s.finish tk)
  else if s.irqReady tk then execInterruptDelivery tk s
  else s.instruction run

/-- After an issue the core's pointer moves on (07 R137). -/
def State.turn (s : State) (tk : Nat) : State :=
  if !isSys tk && (s.t tk).lastIss == s.cyc + 1 then s.upCore (coreOf tk) (fun c => { c with rr := (tsOf tk + 1) % 4 }) else s

/-- What stands after a turn: where another thread set of the core has issued in this cc, one that is Ready waits, and only a
stall counts (07 R136, R137). -/
def State.settleTurn (s : State) (tk : Nat) (o : Out) : Out :=
  let taken := s.coreIssued (coreOf tk)
  match o with
  | .next s' => .next (if taken && (s'.t tk).lastIss == s.cyc + 1 then s else s'.turn tk)
  | o => if taken then .next s else o

/-- What hardware's part of a step has met a held line waits: the step gives `r` instead (24 R414). -/
def unheld (o : Out) (r : State) : Out :=
  match o with
  | .next s => if s.blocked then .next r else .next s
  | o => o

/-- A thread set of the issue list takes its turn. -/
noncomputable def State.issue (run : Instr → State → Out) (tk : Nat) (s : State) : Out :=
  let s : State := { s with issueq := s.issueq.erase tk, cur := tk, here := s.pend.length }
  if !s.mayIssue tk then .next s
  else unheld (s.settleTurn tk (s.slot run)) (s.upT tk (fun t => { t with readyAt := s.cyc + 1 }))

/-- The issue list of a cc: for each core the thread sets in the order of its pointer (07 R137). -/
def State.issueList (s : State) : List Nat :=
  let comp := s.cores.flatMap (fun x => match x.2.act with
    | some cid => (span 0 4).filterMap (fun i =>
        let tk := tkOf cid (x.1 * 4 + (x.2.rr + i) % 4)
        match mfind s.ts tk with
        | some t => if t.bound.isSome then some tk else none
        | none => none)
    | none => [])
  comp ++ ((s.ts.filter (fun x => isSys x.1 && !x.2.halted)).map Prod.fst)

/-- May the thread set take its turn before the others on the list: it is the first of its core? -/
def State.firstOfCore (s : State) (tk : Nat) : Bool := s.issueq.find? (fun k => coreOf k == coreOf tk) == some tk

end Sys2Proof.Machine
end

