-- ==== Sys2Proof/Machine/Clock.lean ====
section
/-! DEFINITION. What may happen next: which messages may be delivered and in which order (10 R183-R187, R191, R192; 14 R284,
R286; 18 R312-R322; 24 R414), the meaning of each, the cycle of the package (00 R2, R3; 07 R137, R144; 23 R401), and the
choice of the next step. -/

namespace Sys2Proof.Machine

/-! ### Order of a thread set's accesses (10 R185, R186) -/

/-- An access not yet performed, or a reply that an acquire still waits for, that a later access `r` of the thread set may not
pass (05 R102; 10 R184-R186). The held stores of a crossing that has committed are performed in order, and later stores after
them (14 R287). -/
def ahead (r : Req) (e : Ev) : Bool :=
  let drained (q : Req) : Bool := q.who == r.who && q.drain && q.kind == .store && r.kind == .store
  blocks r.who r.iss r.pl r.pa r.len e ||
  (match e with
   | .homeStoreApply q => drained q
   | .replicaCollapseAck q => drained q
   | .forcedMessageApply q => isSys q.who && follows r.who r.iss r.pl r.pa r.len q
   | _ => false)

/-- Does nothing stand before an access at its home: no access that it may not pass, and where it is a release nothing that its thread
set has sent, at scope CLUSTER or wider no message of returned addends either, whenever it was sent (10 R186; 17 R308)? -/
def State.clearFor (s : State) (before : List Pend) (r : Req) : Bool :=
  !before.any (fun x => ahead r x.ev || (r.rel && waitsFor r.who x.ev)) && !(r.rel && r.own != 0 && s.inFlight (isForced r.who))

/-- May an access be performed at its home: its turn has come, and its line is not held (24 R414)? -/
def State.open? (s : State) (before : List Pend) (r : Req) : Bool :=
  s.clearFor before r && (isSys r.who || !s.heldLine r.home r.pa)

/-- The request of an access that waits in order at its slice while its line is held (24 R414, R421). -/
def lineReq (e : Ev) : Option Req :=
  match e with
  | .homeLoadServe r => some r
  | .homeStoreApply r => some r
  | .replicaCollapseAck r => some r
  | .amoSliceApply r => some r
  | .sigaddApply r => some r
  | .redArrival r => some r
  | .forcedMessageApply r => some r
  | _ => none

/-- Accesses that have arrived at a request's line while it was held, and are not served yet, in their order (24 R421). -/
def State.queued (s : State) (r : Req) : List Ev :=
  (s.slice r.home).queue.filter (fun e => (match lineReq e with | some q => lineKey q.pa == lineKey r.pa | none => false)
    && s.inFlight (fun x => x == e))

/-- Is it the turn of an access among those that arrived at its line while it was held? -/
def State.inTurn (s : State) (e : Ev) : Bool :=
  match lineReq e with
  | some r => isSys r.who || (match s.queued r with | [] => true | q :: _ => q == e)
  | none => true

/-- An access that is served leaves its slice's queue. -/
def State.unqueue (s : State) (e : Ev) : State :=
  match lineReq e with
  | some r => if (s.slice r.home).queue.contains e then s.upSlice r.home (fun sl => { sl with queue := sl.queue.erase e }) else s
  | none => s

/-- Room for the mark of a speculative load (14 R284). -/
def State.markRoom (s : State) (r : Req) : Bool :=
  match r.spec with
  | none => true
  | some (ch, gen) =>
    let ms := (s.slice r.home).marks
    (s.chan ch).s != BitVec.ofNat 32 gen || decide (ms.length < 1024)
      || ms.contains { line := lineKey r.pa, chan := ch, gen := BitVec.ofNat 32 gen }

/-- An abort of a channel's crossing that is on its way (14 R286). -/
def abortOn (ch : Nat) (e : Ev) : Bool := match e with | .specAbort _ c _ => c == ch | _ => false

/-- The slot into which a data flit goes can take it. -/
def State.ringReady (s : State) (f : Flit) : Bool :=
  let r := (s.cc (fCC f)).rport (fPort f)
  match (s.cc (fCC f)).slot ((r.base + r.tail.toNat % r.size) / 65536) with
  | .attached b => b.phys.isSome && !b.bad
  | .outgoing _ => false
  | _ => true

/-- A RECV of the core that completes in this cc; it does not report an arrival of the same cc (18 R321). -/
def State.recvDue (s : State) (cc : Nat) : Bool :=
  s.pend.any (fun x => decide (x.due ≤ s.cyc) && (match x.ev with | .recvWake tk => ccOf tk == cc | _ => false))

/-- The counter at which a WAITGE waits. -/
def State.waitReq (s : State) (tk : Nat) : Option Req :=
  match (s.t tk).wait with | some (.waitge _ r _) => some r | _ => none

/-- A WAITGE that no timeout ends: its counter has reached the target (07 R145), or its line is held (24 R414). -/
def State.reached (s : State) (tk : Nat) : Bool :=
  match s.waitReq tk with
  | some r => s.heldLine r.home r.pa
      || decide (r.cmp.toNat ≤ leNat (natLe ((s.lineVal r.home (lineKey r.pa)).toNat / 2 ^ (8 * (r.pa % 192))) 8))
  | none => false

/-- The condition of the thread set's wait holds, or its wake is due in this cc: it comes before the timeout (07 R145). What a
RECV waits for stands at the port when its wake is sent. -/
def State.waking (s : State) (tk : Nat) : Bool :=
  s.reached tk || s.inFlight (fun e => e == .recvWake tk) ||
  s.pend.any (fun x => decide (x.due ≤ s.cyc) &&
    (x.ev == .waitgeWake tk || x.ev == .barwWake tk || x.ev == .bwaitWake tk))

/-- A crossing on the channel has been aborted in this cc, so that no completion of the channel may follow in it (14 R290). -/
def State.abortedNow (s : State) (ch : Nat) : Bool :=
  match (s.chan ch).grant with
  | none => false
  | some (cid, _, _) => s.ts.any (fun x => !isSys x.1 && cidOf x.1 == cid && posBit (s.chan ch).mem (posOf x.1) && x.2.evts.getLsbD 0x10)

/-- The pairs of dies between which an event carries packets (21 R374): an access and its home, a reply, a replica's acknowledgement, a
flit, a credit from the receiver of a port's route, a burst and its homes, an arrival and the members of its channel. System cores
reach every die over the service ring (01 R20). -/
def State.evLinks (s : State) (e : Ev) : List (Nat × Nat) :=
  let go (r : Req) (out : Bool) : List (Nat × Nat) :=
    if isSys r.who then [] else if out then [(r.die, dieOfRouter r.home)] else [(dieOfRouter r.home, r.die)]
  let flit (f : Flit) : List (Nat × Nat) := [(dieOfRouter (ccCore f.src / 8), dieOfRouter (ccCore (fCC f) / 8))]
  let wait (tk : Nat) : List (Nat × Nat) := match (s.t tk).wait with | some (.waitge _ r _) => go r true | _ => []
  let side (cc : Nat) (p : Place) : List (Nat × Nat) := match p with
    | .glo _ h rm _ => if rm then [] else [(dieOfRouter (ccCore cc / 8), dieOfRouter h)]
    | _ => []
  match e with
  | .homeLoadServe r => go r true
  | .loadReply r => go r false
  | .homeStoreApply r => go r true
  | .replicaCollapseAck r => go r true ++ (s.repDies (lineKey r.pa)).map (fun d => (d, dieOfRouter r.home))
  | .amoSliceApply r => go r true
  | .amoReply r => go r false
  | .redArrival r => go r true
  | .refusalReturn r => go r false
  | .forcedMessageApply r => go r true
  | .sigaddApply r => go r true
  | .guidonArrival f => flit f
  | .dataFlitLand f => flit f
  | .furlLand f => flit f
  | .pauseFlitLand f => flit f
  | .creditArrival cc p _ => [(dieOfRouter (((s.cc cc).sport p).dst.toNat / 32 % 256), dieOfRouter (ccCore cc / 8))]
  | .barrierArrival v => (s.chan v.chan).mem.map (fun x => (dieOf v.tk, dieOfRouter x.1))
  | .waitgeWake tk => wait tk
  | .waitgeRepoll tk => wait tk
  | .copyBurstComplete cc entry b =>
    (match s.copyAt cc entry with
     | none => []
     | some (_, c) => (match c.bursts[b]? with
       | none => []
       | some k =>
         if k.st = 2 then (match c.ctr with | some (_, h, _) => [(dieOfRouter (ccCore cc / 8), dieOfRouter h)] | none => [])
         else match k.left with
           | p :: _ => side cc p.src ++ side cc p.dst
           | [] => []))
  | _ => []

/-- Is the head of what is left of a burst free to move in this cc (12 R259)? -/
def State.beatRoom (s : State) (cc : Nat) (b : Burst) : Bool :=
  match b.left with
  | p :: _ => decide (0 < (s.cl (ccCore cc / 8)).room p)
  | [] => true

/-- May the engine start the burst that it would serve: a peer's request waits for the mesh to take what went before it? -/
def State.startRoom (s : State) (cl : Nat) : Bool :=
  match s.pickCopy cl with
  | some (_, _, c) => !Tcw.remote c.tcw || decide ((s.cl cl).sent < 128)
  | none => false

/-- May the wait at a counter be judged at its home: the thread set's earlier accesses of it and its acquires are performed (10 R185, R186),
and its line is not held (24 R414)? -/
def State.mayWait (s : State) (tk : Nat) : Bool :=
  match s.waitReq tk with
  | some r => !s.inFlight (ahead r) && (isSys tk || !s.heldLine r.home r.pa)
  | none => true

/-- May an event happen now, whatever the links carry, `before` being the messages sent before it? -/
def State.mayAt (s : State) (before : List Pend) (e : Ev) : Bool :=
  let fits (cc entry : Nat) : Bool := match (s.cc cc).oldest with
    | some o => o.entry == entry && (match o.ten? with | some t => t.phase == 2 | none => false)
    | none => true
  match e with
  | .homeLoadServe r => s.open? before r && s.markRoom r
  | .homeStoreApply r => s.open? before r
  | .replicaCollapseAck r => s.open? before r && (!(r.kind matches .red _) || s.hasRoom r)
  | .amoSliceApply r => s.open? before r
  | .sigaddApply r => s.open? before r
  | .redArrival r => s.open? before r && (!s.accepts r || s.hasRoom r)
  | .forcedMessageApply r => s.hasRoom r && (if isSys r.who then s.open? before r else !s.heldLine r.home r.pa)
  | .waitgeWake tk => s.mayWait tk
  | .waitgeRepoll tk => s.mayWait tk
  | .waitTimeout tk => !s.waking tk
  | .yieldPark tk => !s.waking tk && !s.inFlight (fun v => v == .waitgeWake tk)
  | .releasePerformed tk => s.relReady tk
  | .barrierArrival v => !before.any (fun x => waitsFor v.tk x.ev) && !s.inFlight (abortOn v.chan)
      && !s.abortedNow v.chan && !s.inFlight (isForced v.tk)
  | .specAbort tk _ _ => !s.commits tk
  | .copyBurstStart cl => s.startRoom cl
  | .copyBurstComplete cc entry b =>
    (match s.copyAt cc entry with
     | none => true
     | some (_, c) => (match c.bursts[b]? with
       | none => true
       | some k =>
         if k.st = 2 then (match c.ctr with | some (pa, h, _) => !s.heldLine h pa | none => true)
         else !s.burstHeld cc k && !c.rowBehind b k && s.beatRoom cc k))
  | .transportRetransmit p d q => (match s.flyOf p d q with
     | some (_, m) => decide ((s.cl (clusterOf m.tk)).sent < 128)
     | none => true)
  | .copyRetire cc entry => s.copyDone cc entry || (s.copyAt cc entry).isNone
  | .mmaRetire cc entry => fits cc entry && s.issueq.isEmpty
  | .splitWithdrawTimeout _ _ => s.issueq.isEmpty
  | .tlbinvAck _ cl => !(s.die (dieOfRouter cl)).sbusy
  | .bankRefillDone cc n =>
    (match ((s.cc cc).slot n).bank? with
     | none => true
     | some b => b.phys.isSome || (s.cl (ccCore cc / 8)).free.isSome || (s.victim (ccCore cc / 8)).isSome)
  | .battWake tk =>
    (match (s.t tk).wait with
     | some (.batt _ _) => (s.cl (clusterOf tk)).free.isSome || (!(s.cl (clusterOf tk)).coming && (s.victim (clusterOf tk)).isSome)
     | _ => true)
  | .hoverTableStep tk =>
    (match (s.t tk).wait with
     | some (.hover n _ _ _) => (match (s.cc (ccOf tk)).slot n with | .outgoing _ => (s.cc (ccOf tk)).drained n | _ => true)
     | _ => true)
  | .bdetTableStep tk =>
    (match (s.t tk).wait with
     | some (.bdet n) => (match (s.cc (ccOf tk)).slot n with | .outgoing _ => (s.cc (ccOf tk)).drained n | _ => true)
     | _ => true)
  | .guidonArrival f => !before.any (fun x => sameRoute f x.ev) && (!f.resume || ((s.cc (fCC f)).rport (fPort f)).on f)
      && !s.recvDue (fCC f)
  | .dataFlitLand f => !before.any (fun x => sameRoute f x.ev) && ((s.cc (fCC f)).rport (fPort f)).on f && s.ringReady f
      && !s.recvDue (fCC f)
  | .furlLand f => !before.any (fun x => sameRoute f x.ev) && ((s.cc (fCC f)).rport (fPort f)).on f && !s.recvDue (fCC f)
  | .pauseFlitLand f => !before.any (fun x => sameRoute f x.ev) && ((s.cc (fCC f)).rport (fPort f)).on f
  | .recvWake tk => !(span 0 (tsOf tk)).any (fun k => s.pend.any (fun x => decide (x.due ≤ s.cyc) && x.ev == .recvWake (tk / 4 * 4 + k)))
  | .faultQueueWrite p => (match s.fqPick p with | some e => (match s.fqTry p e with | .full => false | _ => true) | none => true)
  | .tsyncAck tk =>
    (match (s.t tk).wait with
     | some (.tsync va false) => (match (s.site tk va .load (s.t tk).priv).1 with | .held => false | _ => true)
     | _ => true)
  | .preemption core => (s.canSwitch core || !(s.core core).wantSw) && !(coreTks s core).any s.commits
  | .terminationDone d => !s.inFlight (fun e => writeOf (s.die d).tcid e && !s.heldOf (s.die d).tcid e)
  | .quiesceTimeout p => !s.pend.any (fun x => x.due == s.cyc && (x.ev == .admission p || x.ev == .admissionWaitEnd p))
  | .quiesceDrain p => (s.die p).state != 1 || (s.die p).drained || !s.busy p
  | .errorRecordFlush d => (s.die d).kept.isEmpty || !s.ringShut d
  | .domainStopLand ch => (s.chan ch).stopS.isNone || s.dleft ch == 0
  | .admissionWaitEnd p => (match (s.part p).adm with | some a => s.step4 p a | none => true)
  | _ => true

/-- May an event happen now? -/
def State.may (s : State) (before : List Pend) (e : Ev) : Bool :=
  (s.evLinks e).all (fun x => s.linked x.1 x.2) && s.inTurn e && s.mayAt before e

/-- Does an access arrive now at a line that is held, to wait there in its order (24 R421)? -/
def State.arrives (s : State) (before : List Pend) (e : Ev) : Bool :=
  match lineReq e with
  | none => false
  | some r => !isSys r.who && s.heldLine r.home r.pa && !(s.slice r.home).queue.contains e
      && (s.evLinks e).all (fun x => s.linked x.1 x.2) && (s.clearFor before r || e == .forcedMessageApply r)

/-- Timers and hardware steps that belong to the cc in which they are due. -/
def prompt : Ev → Bool
  | .resultReady _ => true
  | .planeGating _ => true
  | .planeWakeDone _ => true
  | .residualAgeExpiry _ => true
  | .quotaWindowStart => true
  | .energyRefill => true
  | .tensorBind _ => true
  | .waitTimeout _ => true
  | .routeTear _ _ => true
  | .mmaOccupancyEnd _ _ => true
  | .mmaRetire _ _ => true
  | .stretchEnd => true
  | .recvWake _ => true
  | .splitWithdrawTimeout _ _ => true
  | .preemption _ => true
  | .quiesceTimeout _ => true
  | .nredDeadline _ _ => true
  | _ => false

/-! ### The meaning of each message -/

/-- Runs an event. -/
def runEv (e : Ev) (s : State) : Out :=
  match e with
  | .resultReady tk => execResultReady tk s
  | .planeGating tk => execPlaneGating tk s
  | .planeWakeDone tk => execPlaneWakeDone tk s
  | .homeLoadServe r => execHomeLoadServe r s
  | .loadReply r => execLoadReply r s
  | .homeStoreApply r => execHomeStoreApply r s
  | .replicaCollapseAck r => execReplicaCollapseAck r s
  | .amoSliceApply r => execAmoSliceApply r s
  | .amoReply r => execAmoReply r s
  | .releasePerformed tk => execReleasePerformed tk s
  | .redArrival r => execRedArrival r s
  | .refusalReturn r => execRefusalReturn r s
  | .forcedMessageApply r => execForcedMessageApply r s
  | .residualAgeExpiry c => execResidualAgeExpiry c s
  | .quotaWindowStart => execQuotaWindowStart s
  | .reductionQueueDrain c => execReductionQueueDrain c s
  | .sigaddApply r => execSigaddApply r s
  | .waitgeWake tk => execWaitgeWake tk s
  | .waitgeRepoll tk => execWaitgeRepoll tk s
  | .waitTimeout tk => execWaitTimeout tk s
  | .energyRefill => execEnergyRefill s
  | .tensorBind c => execTensorBind c s
  | .mmaOccupancyEnd c l => execMmaOccupancyEnd c l s
  | .mmaRetire c e => execMmaRetire c e s
  | .copyBurstStart c => execCopyBurstStart c s
  | .copyBurstComplete c e b => execCopyBurstComplete c e b s
  | .copyRetire c e => execCopyRetire c e s
  | .bankRefillDone c n => execBankRefillDone c n s
  | .bankScrubDone c b => execBankScrubDone c b s
  | .battWake tk => execBattWake tk s
  | .hoverTableStep tk => execHoverTableStep tk s
  | .bdetTableStep tk => execBdetTableStep tk s
  | .bwaitWake tk => execBwaitWake tk s
  | .barrierArrival v => execBarrierArrival v s
  | .barwWake tk => execBarwWake tk s
  | .specCommit tk => execSpecCommit tk s
  | .specAbort tk c g => execSpecAbort tk c g s
  | .guidonArrival f => execGuidonArrival f s
  | .dataFlitLand f => execDataFlitLand f s
  | .furlLand f => execFurlLand f s
  | .pauseFlitLand f => execPauseFlitLand f s
  | .creditArrival c p n => execCreditArrival c p n s
  | .routeTear c p => execRouteTear c p s
  | .recvWake tk => execRecvWake tk s
  | .admission p => execAdmission p s
  | .admissionWaitEnd p => execAdmissionWaitEnd p s
  | .taskBind p => execTaskBind p s
  | .splitRequest p => execSplitRequest p s
  | .splitWithdrawTimeout p t => execSplitWithdrawTimeout p t s
  | .yieldPark tk => execYieldPark tk s
  | .faultQueueWrite p => execFaultQueueWrite p s
  | .tsyncAck tk => execTsyncAck tk s
  | .tspawnStatus tk => execTspawnStatus tk s
  | .cnextLoad c x => execCnextLoad c x s
  | .preemption c => execPreemption c s
  | .contextStreamEnd c => execContextStreamEnd c s
  | .terminationDone d => execTerminationDone d s
  | .tlbinvAck tk c => execTlbinvAck tk c s
  | .quiesceTimeout p => execQuiesceTimeout p s
  | .quiesceDrain p => execQuiesceDrain p s
  | .resumeDone p => execResumeDone p s
  | .shootdownDone d => execShootdownDone d s
  | .transportRequest n => execTransportRequest n s
  | .transportReply n => execTransportReply n s
  | .transportRetransmit p d q => execTransportRetransmit p d q s
  | .nredContribution n => execNredContribution n s
  | .nredDeadline p t => execNredDeadline p t s
  | .pmcOverflow tk i => execPmcOverflow tk i s
  | .domainStopLand c => execDomainStopLand c s
  | .errorRecordFlush d => execErrorRecordFlush d s
  | .machineCheck d r => execMachineCheck d r s
  | .imageCheckDone => execImageCheckDone s
  | .systemCoreStart d u pc a => execSystemCoreStart d u pc a s
  | .attestationDone => execAttestationDone s
  | .stretchEnd => execStretchEnd s

/-! ### The cycle -/

/-- Is the thread set's context active on its core? -/
def State.onCore (s : State) (tk : Nat) : Bool := isSys tk || (s.core (coreOf tk)).act == some (cidOf tk)

/-- Levels of this cc as events of 23 R400: bound, stalled, waiting, waking, stretched, starved. -/
def State.levels (s : State) (tk : Nat) (t : TSet) : TSet :=
  let issued := t.lastIss == s.cyc + 1 && t.wait.isNone
  let stalled := t.bound.isSome && !issued && (t.wait.isSome || decide (s.cyc < t.readyAt) || (s.heldBy tk).isSome)
  let starved := match s.starved (coreOf tk) with | some e => e.tk == tk | none => false
  let t := if t.bound.isSome then t.ev 0x01 else t
  let t := if stalled then t.ev 0x03 else t
  let t := if (match t.wait with | some w => w.bounded | none => false) then t.ev 0x12 else t
  let t := if t.wait = some .plane then t.ev 0x14 else t
  let t := if s.stretched then t.ev 0x19 else t
  if starved then t.ev 0x0A else t

/-- Does counter `i` count in this cc? -/
def TSet.counts (t : TSet) (i : Nat) : Bool :=
  let sel := vget t.pmsel i 0
  let code := wbits sel 0 8
  code != 0 && t.evts.getLsbD code && ((t.priv == 0 && sel.getLsbD 8) || (t.priv == 1 && sel.getLsbD 9))

/-- The counters of a thread set, and the writes that complete in this cc (23 R401): a wrap's PMOVF bit stands. -/
def State.countPmcs (s : State) (tk : Nat) : State :=
  let s := s.upT tk (s.levels tk)
  let t := s.t tk
  let on (i : Nat) : Bool := !t.pmctl.getLsbD 0 && t.counts i
  let wrapped := (span 0 8).filter (fun i => on i && vget t.pmc i 0 == 0xFFFFFFFFFFFF)
  let s := (span 0 8).foldl (fun s i =>
    if !on i then s
    else if wrapped.contains i then s.pmcWrap tk i
    else s.upT tk (fun t => { t with pmc := vset t.pmc i (vget t.pmc i 0 + 1) })) s
  s.upT tk (fun t =>
    let t := t.pmw.foldl TSet.applyPm { t with cycle := t.cycle + 1 }
    { t with pmovf := wrapped.foldl (fun w i => w ||| BitVec.ofNat 64 (2 ^ i)) t.pmovf })

/-- One thread set in the cycle: counters, wait clock and quiet time, while its context is active (02 R27; 07 R144). A wait clock
that a return has brought back goes on before its instruction issues again, and while the planes that it needs wake. The clock of each
thread set goes by its own core's active context (07 R144), also where a context is pre-empted on one of its cores alone (07 R179;
log 100). -/
def State.tickTs (s : State) (tk : Nat) : State :=
  if !s.onCore tk then s.upT tk (fun t => { t with evts := 0 })
  else
    let s := s.countPmcs tk
    s.upT tk (fun t =>
      let w := match t.wait with | some w => w.bounded | none => false
      { t with evts := 0, pmw := [], wclk := if w || (t.wclk != 0 && (t.wait.isNone || t.wait == some .plane)) then t.wclk + 1 else t.wclk
               quiet := if t.planesIdle && !t.gated && t.planeAt != s.cyc + 1 then t.quiet + 1 else 0
               busy := t.busy.filter (fun b => match b.due with | some d => decide (s.cyc + 1 < d) | none => true) })

/-- The wait clocks of parked tasks whose context is active on their core (07 R144). -/
def State.tickParked (s : State) : State :=
  { s with parts := s.parts.map (fun x => (x.1, { x.2 with tasks := x.2.tasks.map (fun k =>
      if k.st = 3 && k.wait.isSome && (s.core (k.pos / 4)).act == some k.cid then { k with wclk := k.wclk + 1 } else k) })) }

/-- The hold clocks of the routes (18 R322). -/
def State.tickRoutes (s : State) : State :=
  s.ccs.foldl (fun s x => (span 0 4).foldl (fun s p =>
    s.upSend x.1 p SendPort.tick) s) s

/-- What the end of a cc leaves behind it in the units: lane groups, debits on their way, lines past the caches' room, and the
bytes that banks and mesh take of the copy engines. -/
def State.tickUnits (s : State) : State :=
  let cls := s.clusters.map Prod.fst
  let s := cls.foldl (fun s c => s.tickLanes c) s
  let s : State := { s with ctxs := s.ctxs.map (fun x => if x.2.owed = [] then x else (x.1, x.2.land (fun d => decide (d ≤ s.cyc)))) }
  let s := (s.slices.map Prod.fst).foldl (fun s c => s.trimSlice c) s
  { s with clusters := s.clusters.map (fun x => (x.1, { x.2 with landed := x.2.landed - 128, sent := x.2.sent - 128 }))
           jost := if s.jost.booted then s.jost else { s.jost with listen := true } }

/-- Pushes an event unless it is under way. -/
def State.once (s : State) (c : Bool) (e : Ev) : State :=
  if c && !s.inFlight (fun x => x == e) then { s with pend := s.pend ++ [{ due := s.cyc, ev := e }] } else s

/-- What the hardware finds to do for a thread set in the cc that begins. The planes of a system core, which has no context to be active,
are never gated (log 98). -/
def State.dueTs (s : State) (tk : Nat) : State :=
  let t := s.t tk
  if isSys tk || !s.onCore tk then s
  else
    let s := s.once (4096 ≤ t.quiet && !t.gated) (.planeGating tk)
    let s := s.once ((match t.wait with | some w => w.bounded | none => false) && decide (t.wlim < t.wclk)) (.waitTimeout tk)
    let found := t.bound.isNone && (s.openPos (posOf tk)).isSome && (s.candidate (s.partOf tk) (cidOf tk) (posOf tk)).isSome
    let s := (if found then s.withdraw (s.partOf tk) tk else s).once found (.taskBind (posOf tk))
    let s := s.once (t.bound.isNone && s.wantsSplit (posOf tk)) (.splitRequest (posOf tk))
    s.once (s.yieldParks tk).isSome (.yieldPark tk)

/-- For a partition's dispatcher. -/
def State.duePart (s : State) (p : Nat) : State :=
  let s := s.once (s.quiesceLate p) (.quiesceTimeout p)
  let s := s.completeAll p
  let s := if s.admits p then s.unlessHeld (fun s => s.admWaiters p) else s
  let s := s.once (s.admits p && (s.pickQueue p).isSome) (.admission p)
  s.once (match (s.part p).adm with | some a => s.step4 p a | none => false) (.admissionWaitEnd p)

/-- For the cores, clusters, routes and channels. -/
def State.dueUnits (s : State) : State :=
  let s := s.cores.foldl (fun s x =>
    let s := s.once (x.2.tile.toList.any (fun e => match e with | some r => decide (r.born + 4096 ≤ s.cyc) | none => false))
      (.residualAgeExpiry x.1)
    s.once (s.canSwitch x.1) (.preemption x.1)) s
  let s := ((s.cores.map (fun x => x.1 / 8)).eraseDups).foldl (fun s c => s.once (s.bindable c) (.tensorBind c)) s
  let s := s.ccs.foldl (fun s x => (span 0 4).foldl (fun s p =>
    s.once (s.overdue x.1 p).isSome (.routeTear x.1 p)) s) s
  s.chans.foldl (fun s c => s.once (c.2.stopS.isSome && s.dleft c.1 == 0) (.domainStopLand c.1)) s

/-- CORE_CLOCK_CYCLE (23 R401): counts, clocks, the package cycle count, what the hardware finds to do in the cc that begins
(10 R192; 07 R152: windows of 1024 cc), and the issue list of each core (07 R137). -/
def execCoreClockCycle (s : State) : Out :=
  let s := (s.ts.map Prod.fst).foldl (fun s tk => s.tickTs tk) s
  let s := s.tickParked.tickRoutes.tickUnits
  let s : State := { s with stretch := if s.stretched then s.stretch + 1 else s.stretch, cyc := s.cyc + 1, here := s.pend.length }
  let s := s.once (s.cyc % 1024 == 0) .quotaWindowStart
  let s := s.once (s.cyc % 1024 == 0) .energyRefill
  let s := (s.ts.map Prod.fst).foldl (fun s tk => s.dueTs tk) s
  let s := (span 0 4).foldl (fun s p => if (s.die p).part = p && decide ((s.die p).state ≤ 1) then s.duePart p else s) s
  let s := s.dueUnits
  .next { s with issueq := s.issueList }

/-! ### Choices -/

/-- May the message at place `k` be delivered now? -/
def State.deliverable (s : State) (k : Nat) : Bool :=
  match s.pend[k]? with
  | some x => decide (x.due ≤ s.cyc) && (s.may (s.pend.take k) x.ev || s.arrives (s.pend.take k) x.ev)
  | none => false

/-- The first message that may be delivered. -/
def State.firstDue (s : State) : Option Nat := (span 0 s.pend.length).find? s.deliverable

/-- May the cycle end: nobody is left to issue, and no step that belongs to it is due? -/
def State.cycleOver (s : State) : Bool :=
  s.issueq.isEmpty && !(span 0 s.pend.length).any (fun k =>
    (match s.pend[k]? with | some x => prompt x.ev | none => false) && s.deliverable k)

/-- Delivers a message. An access that arrives at a held line waits there; a step of hardware that meets a held line is tried again in
the next cc (24 R414). -/
def State.deliver (k : Nat) (s : State) : Out :=
  match s.pend[k]? with
  | none => .next s
  | some x =>
    if s.arrives (s.pend.take k) x.ev then
      match lineReq x.ev with
      | some r => .next (s.upSlice r.home (fun sl => { sl with queue := sl.queue ++ [x.ev] }))
      | none => .next s
    else unheld (runEv x.ev { s.unqueue x.ev with pend := dropAt s.pend k, here := k })
      { s with pend := setAt s.pend k { x with due := s.cyc + 1 } }

/-- What the outside may do (log 4): the host, the network, firmware on the service ring, sensors, and errors. -/
def outside : Instr → Bool
  | .hostDoorbell .. => true
  | .pageWalkDone .. => true
  | .registerWrite pa _ => decide (bar4Base ≤ pa)
  | .hostBar2Write .. => true
  | .hostBar2Read .. => true
  | .atsRequest .. => true
  | .ethFrameArrival .. => true
  | .transportRequest n => decide (4 ≤ n.part)
  | .transportReply n => decide (4 ≤ n.dst)
  | .scrubRead .. => true
  | .parityError .. => true
  | .linkFailure .. => true
  | .powerOnReset => true
  | .imageArrivalEth .. => true
  | .imggo => true
  | .systemCoreStart .. => true
  | .attgo .. => true
  | .pm7Extend .. => true
  | .repairListAppend .. => true
  | .sagDetect .. => true
  | .msixTableWrite .. => true
  | _ => false

/-- What the outside can do as things stand: firmware on the service ring starts a system core once an image has passed, system core 1 of a
die by its running system core 0, a halted one by another that runs (26 R436). -/
def State.canAct (s : State) (e : Instr) : Bool :=
  outside e && (match e with
    | .systemCoreStart d u _ _ =>
      let tk := Config.sysBase + 2 * d + u
      s.jost.booted && (if u = 1 && (s.t tk).lastIss == 0 then !(s.t (tk - 1)).halted
        else s.ts.any (fun x => isSys x.1 && x.1 != tk && !x.2.halted))
    | _ => true)

/-- The choice that the machine makes when the agenda holds none. -/
def State.auto (s : State) : Choice :=
  match s.firstDue with
  | some k => .deliver k
  | none => match s.issueq with
    | tk :: _ => .issue tk
    | [] => .clock

/-- Makes a choice that is allowed; any other changes nothing. -/
noncomputable def State.act (run : Instr → State → Out) (c : Choice) (s : State) : Out :=
  match c with
  | .deliver k => if s.deliverable k then s.deliver k else .next s
  | .issue tk => if s.firstOfCore tk then s.issue run tk else .next s
  | .input e => if s.canAct e then unheld (run e { s with here := s.pend.length }) s else .next s
  | .clock => if s.cycleOver then execCoreClockCycle s else .next s
  | .evictL1 core k => .next (s.upCore core (fun c => { c with l1 := c.l1.filter (fun x => x.sector != k) }))
  | .evictL2 h k => .next (if (s.slice h).lost.any (fun x => x.line == k) then s else s.evictL2 h k)
  | .evictMsc h k => .next (if (s.slice h).lost.any (fun x => x.line == k) then s else s.evictMsc h k)
  | .evictBank cc n => .next (s.evictBank cc n)
  | .evictTlb cl => .next (s.dropTlb cl (fun _ => true) (fun _ => true))
  | .copyFrame f on =>
    let l := s.host.copied.filter (fun k => k != f)
    .next { s with host := { s.host with copied := if on then f :: l else l } }

/-- One step: the next choice of the agenda, or the machine's own. -/
noncomputable def State.advance (run : Instr → State → Out) (s : State) : Out :=
  let s : State := { s with blocked := false }
  match s.agenda with
  | c :: l => ({ s with agenda := l }).act run c
  | [] => s.act run s.auto

end Sys2Proof.Machine
end

