-- ==== Sys2Proof/Machine/Dual.lean ====
section
/-! DEFINITION. DUAL and DMOV (03 R60-R62; 15 R297-R300). -/

namespace Sys2Proof.Machine

/-- STATUS with a window of `w` + 1 instructions on the planes `p`. -/
def openWindow (w p : Nat) (st : Word) : Word := putBits (putBits st 3 3 w) 7 3 (1 + 2 * p)

/-- DUAL (03 R60, R62): a NOP at privilege 1 and 3 and while DMODE.ON = 1, where it still counts in an open window. -/
def execDual (w : BitVec 3) (p : BitVec 2) (s : State) : Out :=
  if s.me.priv ≠ 0 || s.me.a.dmode.getLsbD 0 then .next (s.done 4)
  else .next (s.retireW 4 0 (openWindow w.toNat p.toNat) true)

/-- A DMOV names planes: their quiet time ends (02 R27); its result is ready `lat` cc after its issue (15 R299). It never executes
under dual semantics (15 R291). -/
def State.dmov (s : State) (lat : Nat) (b : List (Nat × Nat)) (f : Arch → Arch) : Out :=
  .next ((s.upMe (fun t => { t with a := f t.a, quiet := 0, planeAt := s.cyc + 1 }.soon b (s.cyc + lat))).retireW 4 0 countWindow false)

/-- DGET: the primal becomes plane p of the source. -/
def execDget (d a : Reg) (c : BitVec 1) (p : BitVec 2) (s : State) : Out :=
  if c = 0 then s.dmov 1 [(0, d.toNat)] (fun x => x.setG 0 d (x.gp p.toNat a))
  else s.dmov 2 [(1, d.toNat)] (fun x => x.setV 0 d (x.vp p.toNat a))

/-- DSET: plane p becomes the source's primal. -/
def execDset (d a : Reg) (c : BitVec 1) (p : BitVec 2) (s : State) : Out :=
  if c = 0 then s.dmov 1 [(0, d.toNat)] (fun x => x.setG p.toNat d (x.gp 0 a))
  else s.dmov 2 [(1, d.toNat)] (fun x => x.setV p.toNat d (x.vp 0 a))

/-- A register's named planes cleared. -/
def Arch.clearPlanes (a : Arch) (c : BitVec 1) (p : BitVec 2) (d : Reg) : Arch :=
  (planesOf p.toNat).foldl (fun a pl => if c = 0 then a.setG pl d 0 else a.setV pl d 0) a

/-- DCLR. -/
def execDclr (d : Reg) (c : BitVec 1) (p : BitVec 2) (s : State) : Out :=
  s.dmov 1 [(c.toNat, d.toNat)] (fun x => x.clearPlanes c p d)

/-- DCLR.ALL. -/
def execDclrAll (c : BitVec 1) (p : BitVec 2) (s : State) : Out :=
  s.dmov 2 ((span 0 32).map (fun r => (c.toNat, r))) (fun x =>
    (span 0 32).foldl (fun x r => x.clearPlanes c p (BitVec.ofNat 5 r)) x)

end Sys2Proof.Machine
end

