-- ==== Sys2Proof/Machine/Flow.lean ====
section
/-! DEFINITION. Branches, jumps and hardware loops (05 R104-R108; 03 R43, R52, R61). -/

namespace Sys2Proof.Machine

/-- A conditional branch (05 R104). -/
def branch (taken : Bool) (o : BitVec 16) (s : State) : Out :=
  if taken then .next (s.jump (s.me.pc + wordOff o)) else .next s.noJump

def execBeq (a b : Reg) (o : BitVec 16) (s : State) : Out := branch (s.g a == s.g b) o s
def execBne (a b : Reg) (o : BitVec 16) (s : State) : Out := branch (s.g a != s.g b) o s
def execBlt (a b : Reg) (o : BitVec 16) (s : State) : Out := branch ((s.g a).slt (s.g b)) o s
def execBge (a b : Reg) (o : BitVec 16) (s : State) : Out := branch (!(s.g a).slt (s.g b)) o s
def execBltu (a b : Reg) (o : BitVec 16) (s : State) : Out := branch ((s.g a).ult (s.g b)) o s
def execBgeu (a b : Reg) (o : BitVec 16) (s : State) : Out := branch (!(s.g a).ult (s.g b)) o s

/-- JAL: the link, then the jump; the link's planes are unchanged. -/
def execJal (d : Reg) (o : BitVec 21) (s : State) : Out :=
  let pc := s.me.pc
  .next ((s.setG d (pc + 4)).jump (pc + wordOff o))

/-- JALR: a target with [1:0] ≠ 0 raises MISALIGN and writes nothing (03 R43). -/
def execJalr (d a : Reg) (imm : BitVec 16) (s : State) : Out :=
  let pc := s.me.pc
  let target := s.g a + immS imm
  if aligned target 4 then .next ((s.setG d (pc + 4)).jump target) else .next (s.trap cMisalign target)

/-- The loop words of a level set by LSPAN. -/
def Arch.span (a : Arch) (l : Nat) (ls le lc : Word) (arm : Bool) : Arch :=
  { a with ls := vset a.ls l ls, le := vset a.le l le, lc := vset a.lc l lc, lstat := putBits a.lstat l 1 (if arm then 1 else 0) }

/-- LSPAN (05 R105): the count is the immediate, or [31:0] of the register that it names. -/
def execLspan (l c : BitVec 1) (b n : BitVec 12) (s : State) : Out :=
  let pc := s.me.pc
  let le := pc + BitVec.ofNat 64 (4 * b.toNat)
  let cnt : Word := if c = 1 then BitVec.ofNat 64 (wbits (s.g (n.setWidth 5)) 0 32) else immZ n
  let s := s.upA (fun a => a.span l.toNat (pc + 4) le cnt (cnt != 0))
  if cnt = 0 then .next (s.jump (le + 4)) else .next s.noJump

/-- LEXIT (05 R108): an armed level disarms and the jump goes past its end; a disarmed level makes it a NOP. -/
def execLexit (l : BitVec 1) (s : State) : Out :=
  let a := s.me.a
  if a.lstat.getLsbD l.toNat then
    .next ((s.upA (fun a => { a with lstat := putBits a.lstat l.toNat 1 0 })).jump (vget a.le l.toNat 0 + 4))
  else .next s.noJump

/-- LDIS (05 R108). -/
def execLdis (l : BitVec 1) (s : State) : Out :=
  .next (s.upA (fun a => { a with lstat := putBits a.lstat l.toNat 1 0 })).noJump

end Sys2Proof.Machine
end

