-- ==== Sys2Proof/Machine/Scalar.lean ====
section
/-! DEFINITION. Scalar integer instructions (05 R88-R91): register, literal and immediate forms. -/

namespace Sys2Proof.Machine

/-! ### The operations (05 R88) -/

def opSll (a b : Word) : Word := if 64 ≤ b.toNat then 0 else a <<< b.toNat
def opSrl (a b : Word) : Word := if 64 ≤ b.toNat then 0 else a >>> b.toNat
def opSra (a b : Word) : Word := a.sshiftRight (min b.toNat 64)
def opRor (a b : Word) : Word := a.rotateRight (b.toNat % 64)
def opSlt (a b : Word) : Word := boolW (a.slt b)
def opSltu (a b : Word) : Word := boolW (a.ult b)
def opMin (a b : Word) : Word := if b.slt a then b else a
def opMax (a b : Word) : Word := if a.slt b then b else a
def opMinu (a b : Word) : Word := if b.ult a then b else a
def opMaxu (a b : Word) : Word := if a.ult b then b else a

/-- Bits [127:64] of an exact product. -/
def high (x : Int) : Word := BitVec.ofInt 64 (x / 2 ^ 64)

def opMulh (a b : Word) : Word := high (a.toInt * b.toInt)
def opMulhu (a b : Word) : Word := high ((a.toNat : Int) * b.toNat)
def opMulhsu (a b : Word) : Word := high (a.toInt * b.toNat)

/-- DIV (05 R89): toward zero, saturating on the side of a's sign. -/
def opDiv (a b : Word) : Word :=
  if b = 0 then (if a = 0 then 0 else if a.msb then BitVec.intMin 64 else BitVec.intMax 64)
  else if a = BitVec.intMin 64 ∧ b = BitVec.allOnes 64 then BitVec.intMax 64
  else BitVec.ofInt 64 (a.toInt.tdiv b.toInt)

def opDivu (a b : Word) : Word := if b = 0 then (if a = 0 then 0 else BitVec.allOnes 64) else a / b

def opRem (a b : Word) : Word :=
  if b = 0 ∨ (a = BitVec.intMin 64 ∧ b = BitVec.allOnes 64) then 0 else BitVec.ofInt 64 (a.toInt.tmod b.toInt)

def opRemu (a b : Word) : Word := if b = 0 then 0 else a % b

def opAddw (a b : Word) : Word := ((a + b).setWidth 32).signExtend 64
def opSubw (a b : Word) : Word := ((a - b).setWidth 32).signExtend 64

/-- Number of leading zero bits among the low `n`. -/
def clzN (x : Nat) : Nat → Nat
  | 0 => 0
  | n + 1 => if x / 2 ^ n % 2 = 1 then 0 else 1 + clzN x n

/-- Number of trailing zero bits among the low `n`, from bit `i` on. -/
def ctzN (x i : Nat) : Nat → Nat
  | 0 => 0
  | n + 1 => if x / 2 ^ i % 2 = 1 then 0 else 1 + ctzN x (i + 1) n

def popN (x : Nat) : Nat → Nat
  | 0 => 0
  | n + 1 => x % 2 + popN (x / 2) n

/-! ### The shared meanings -/

/-- An integer result of latency 1, `len` bytes of instruction (05 R86, R91). -/
def intOp (len : Nat) (d : Reg) (w : Word) (s : State) : Out := .next ((s.putInt d w).doneD len)

/-- The multiply group: latency 3. -/
def mulOp (len : Nat) (d : Reg) (w : Word) (s : State) : Out :=
  .next (((s.putInt d w).doneD len).longAfter s.me 3 [(0, d.toNat)])

/-- The divide group: latency 36, and the core's divider is busy for 36 cc. -/
def divOp (len : Nat) (d : Reg) (w : Word) (s : State) : Out :=
  .next ((((s.putInt d w).doneD len).longAfter s.me 36 [(0, d.toNat)]).upCore (coreOf s.cur)
    (fun c => { c with divAt := s.cyc + 36 }))

/-! ### Register forms -/

def execAdd (d a b : Reg) (s : State) : Out := intOp 4 d (s.g a + s.g b) s
def execSub (d a b : Reg) (s : State) : Out := intOp 4 d (s.g a - s.g b) s
def execAnd (d a b : Reg) (s : State) : Out := intOp 4 d (s.g a &&& s.g b) s
def execOr (d a b : Reg) (s : State) : Out := intOp 4 d (s.g a ||| s.g b) s
def execXor (d a b : Reg) (s : State) : Out := intOp 4 d (s.g a ^^^ s.g b) s
def execAndn (d a b : Reg) (s : State) : Out := intOp 4 d (s.g a &&& ~~~s.g b) s
def execSll (d a b : Reg) (s : State) : Out := intOp 4 d (opSll (s.g a) (s.g b)) s
def execSrl (d a b : Reg) (s : State) : Out := intOp 4 d (opSrl (s.g a) (s.g b)) s
def execSra (d a b : Reg) (s : State) : Out := intOp 4 d (opSra (s.g a) (s.g b)) s
def execRor (d a b : Reg) (s : State) : Out := intOp 4 d (opRor (s.g a) (s.g b)) s
def execSlt (d a b : Reg) (s : State) : Out := intOp 4 d (opSlt (s.g a) (s.g b)) s
def execSltu (d a b : Reg) (s : State) : Out := intOp 4 d (opSltu (s.g a) (s.g b)) s
def execMin (d a b : Reg) (s : State) : Out := intOp 4 d (opMin (s.g a) (s.g b)) s
def execMax (d a b : Reg) (s : State) : Out := intOp 4 d (opMax (s.g a) (s.g b)) s
def execMinu (d a b : Reg) (s : State) : Out := intOp 4 d (opMinu (s.g a) (s.g b)) s
def execMaxu (d a b : Reg) (s : State) : Out := intOp 4 d (opMaxu (s.g a) (s.g b)) s
def execMul (d a b : Reg) (s : State) : Out := mulOp 4 d (s.g a * s.g b) s
def execMulh (d a b : Reg) (s : State) : Out := mulOp 4 d (opMulh (s.g a) (s.g b)) s
def execMulhu (d a b : Reg) (s : State) : Out := mulOp 4 d (opMulhu (s.g a) (s.g b)) s
def execMulhsu (d a b : Reg) (s : State) : Out := mulOp 4 d (opMulhsu (s.g a) (s.g b)) s
def execDiv (d a b : Reg) (s : State) : Out := divOp 4 d (opDiv (s.g a) (s.g b)) s
def execDivu (d a b : Reg) (s : State) : Out := divOp 4 d (opDivu (s.g a) (s.g b)) s
def execRem (d a b : Reg) (s : State) : Out := divOp 4 d (opRem (s.g a) (s.g b)) s
def execRemu (d a b : Reg) (s : State) : Out := divOp 4 d (opRemu (s.g a) (s.g b)) s
def execAddw (d a b : Reg) (s : State) : Out := intOp 4 d (opAddw (s.g a) (s.g b)) s
def execSubw (d a b : Reg) (s : State) : Out := intOp 4 d (opSubw (s.g a) (s.g b)) s
def execClz (d a : Reg) (s : State) : Out := intOp 4 d (BitVec.ofNat 64 (clzN (s.g a).toNat 64)) s
def execCtz (d a : Reg) (s : State) : Out := intOp 4 d (BitVec.ofNat 64 (ctzN (s.g a).toNat 0 64)) s
def execPopc (d a : Reg) (s : State) : Out := intOp 4 d (BitVec.ofNat 64 (popN (s.g a).toNat 64)) s
def execSextB (d a : Reg) (s : State) : Out := intOp 4 d (sextW 8 (s.g a)) s
def execSextH (d a : Reg) (s : State) : Out := intOp 4 d (sextW 16 (s.g a)) s
def execSextW (d a : Reg) (s : State) : Out := intOp 4 d (sextW 32 (s.g a)) s
def execZextH (d a : Reg) (s : State) : Out := intOp 4 d (((s.g a).setWidth 16).setWidth 64) s
def execZextW (d a : Reg) (s : State) : Out := intOp 4 d (((s.g a).setWidth 32).setWidth 64) s

/-! ### Literal forms (03 R44) -/

def execAddLit (d a : Reg) (lit : BitVec 32) (s : State) : Out := intOp 8 d (s.g a + litI lit) s
def execSubLit (d a : Reg) (lit : BitVec 32) (s : State) : Out := intOp 8 d (s.g a - litI lit) s
def execAndLit (d a : Reg) (lit : BitVec 32) (s : State) : Out := intOp 8 d (s.g a &&& litI lit) s
def execOrLit (d a : Reg) (lit : BitVec 32) (s : State) : Out := intOp 8 d (s.g a ||| litI lit) s
def execXorLit (d a : Reg) (lit : BitVec 32) (s : State) : Out := intOp 8 d (s.g a ^^^ litI lit) s
def execAndnLit (d a : Reg) (lit : BitVec 32) (s : State) : Out := intOp 8 d (s.g a &&& ~~~litI lit) s
def execSllLit (d a : Reg) (lit : BitVec 32) (s : State) : Out := intOp 8 d (opSll (s.g a) (litI lit)) s
def execSrlLit (d a : Reg) (lit : BitVec 32) (s : State) : Out := intOp 8 d (opSrl (s.g a) (litI lit)) s
def execSraLit (d a : Reg) (lit : BitVec 32) (s : State) : Out := intOp 8 d (opSra (s.g a) (litI lit)) s
def execRorLit (d a : Reg) (lit : BitVec 32) (s : State) : Out := intOp 8 d (opRor (s.g a) (litI lit)) s
def execSltLit (d a : Reg) (lit : BitVec 32) (s : State) : Out := intOp 8 d (opSlt (s.g a) (litI lit)) s
def execSltuLit (d a : Reg) (lit : BitVec 32) (s : State) : Out := intOp 8 d (opSltu (s.g a) (litI lit)) s
def execMinLit (d a : Reg) (lit : BitVec 32) (s : State) : Out := intOp 8 d (opMin (s.g a) (litI lit)) s
def execMaxLit (d a : Reg) (lit : BitVec 32) (s : State) : Out := intOp 8 d (opMax (s.g a) (litI lit)) s
def execMinuLit (d a : Reg) (lit : BitVec 32) (s : State) : Out := intOp 8 d (opMinu (s.g a) (litI lit)) s
def execMaxuLit (d a : Reg) (lit : BitVec 32) (s : State) : Out := intOp 8 d (opMaxu (s.g a) (litI lit)) s
def execMulLit (d a : Reg) (lit : BitVec 32) (s : State) : Out := mulOp 8 d (s.g a * litI lit) s
def execMulhLit (d a : Reg) (lit : BitVec 32) (s : State) : Out := mulOp 8 d (opMulh (s.g a) (litI lit)) s
def execMulhuLit (d a : Reg) (lit : BitVec 32) (s : State) : Out := mulOp 8 d (opMulhu (s.g a) (litI lit)) s
def execMulhsuLit (d a : Reg) (lit : BitVec 32) (s : State) : Out := mulOp 8 d (opMulhsu (s.g a) (litI lit)) s
def execDivLit (d a : Reg) (lit : BitVec 32) (s : State) : Out := divOp 8 d (opDiv (s.g a) (litI lit)) s
def execDivuLit (d a : Reg) (lit : BitVec 32) (s : State) : Out := divOp 8 d (opDivu (s.g a) (litI lit)) s
def execRemLit (d a : Reg) (lit : BitVec 32) (s : State) : Out := divOp 8 d (opRem (s.g a) (litI lit)) s
def execRemuLit (d a : Reg) (lit : BitVec 32) (s : State) : Out := divOp 8 d (opRemu (s.g a) (litI lit)) s
def execAddwLit (d a : Reg) (lit : BitVec 32) (s : State) : Out := intOp 8 d (opAddw (s.g a) (litI lit)) s
def execSubwLit (d a : Reg) (lit : BitVec 32) (s : State) : Out := intOp 8 d (opSubw (s.g a) (litI lit)) s

/-! ### Immediate forms (05 R90, 03 R43) -/

def execAddi (d a : Reg) (imm : BitVec 16) (s : State) : Out := intOp 4 d (s.g a + immS imm) s
def execAndi (d a : Reg) (imm : BitVec 16) (s : State) : Out := intOp 4 d (s.g a &&& immZ imm) s
def execOri (d a : Reg) (imm : BitVec 16) (s : State) : Out := intOp 4 d (s.g a ||| immZ imm) s
def execXori (d a : Reg) (imm : BitVec 16) (s : State) : Out := intOp 4 d (s.g a ^^^ immZ imm) s
def execSlti (d a : Reg) (imm : BitVec 16) (s : State) : Out := intOp 4 d (opSlt (s.g a) (immS imm)) s
def execSltiu (d a : Reg) (imm : BitVec 16) (s : State) : Out := intOp 4 d (opSltu (s.g a) (immS imm)) s
def execSlli (d a : Reg) (n : BitVec 6) (s : State) : Out := intOp 4 d (s.g a <<< n.toNat) s
def execSrli (d a : Reg) (n : BitVec 6) (s : State) : Out := intOp 4 d (s.g a >>> n.toNat) s
def execSrai (d a : Reg) (n : BitVec 6) (s : State) : Out := intOp 4 d ((s.g a).sshiftRight n.toNat) s
def execRori (d a : Reg) (n : BitVec 6) (s : State) : Out := intOp 4 d ((s.g a).rotateRight n.toNat) s
def execLui (d : Reg) (imm : BitVec 16) (s : State) : Out := intOp 4 d (immS imm <<< 16) s
def execAddpc (d : Reg) (imm : BitVec 16) (s : State) : Out := intOp 4 d (s.me.pc + wordOff imm) s

end Sys2Proof.Machine
end

