-- ==== Sys2Proof/Machine/Dispatch.lean ====
section
/-! DEFINITION. The meaning of each instruction, literal form and hardware step: one arm per constructor of `Instr`, each
one direct call of its meaning. -/

namespace Sys2Proof.Machine

def exec (i : Instr) (s : State) : Host.Outcome State Fault Refusal :=
  match i with
  | .add d a b => Sys2Proof.Machine.execAdd d a b s
  | .sub d a b => Sys2Proof.Machine.execSub d a b s
  | .and d a b => Sys2Proof.Machine.execAnd d a b s
  | .or d a b => Sys2Proof.Machine.execOr d a b s
  | .xor d a b => Sys2Proof.Machine.execXor d a b s
  | .andn d a b => Sys2Proof.Machine.execAndn d a b s
  | .sll d a b => Sys2Proof.Machine.execSll d a b s
  | .srl d a b => Sys2Proof.Machine.execSrl d a b s
  | .sra d a b => Sys2Proof.Machine.execSra d a b s
  | .ror d a b => Sys2Proof.Machine.execRor d a b s
  | .slt d a b => Sys2Proof.Machine.execSlt d a b s
  | .sltu d a b => Sys2Proof.Machine.execSltu d a b s
  | .min d a b => Sys2Proof.Machine.execMin d a b s
  | .max d a b => Sys2Proof.Machine.execMax d a b s
  | .minu d a b => Sys2Proof.Machine.execMinu d a b s
  | .maxu d a b => Sys2Proof.Machine.execMaxu d a b s
  | .mul d a b => Sys2Proof.Machine.execMul d a b s
  | .mulh d a b => Sys2Proof.Machine.execMulh d a b s
  | .mulhu d a b => Sys2Proof.Machine.execMulhu d a b s
  | .mulhsu d a b => Sys2Proof.Machine.execMulhsu d a b s
  | .div d a b => Sys2Proof.Machine.execDiv d a b s
  | .divu d a b => Sys2Proof.Machine.execDivu d a b s
  | .rem d a b => Sys2Proof.Machine.execRem d a b s
  | .remu d a b => Sys2Proof.Machine.execRemu d a b s
  | .clz d a => Sys2Proof.Machine.execClz d a s
  | .ctz d a => Sys2Proof.Machine.execCtz d a s
  | .popc d a => Sys2Proof.Machine.execPopc d a s
  | .sextB d a => Sys2Proof.Machine.execSextB d a s
  | .sextH d a => Sys2Proof.Machine.execSextH d a s
  | .sextW d a => Sys2Proof.Machine.execSextW d a s
  | .zextH d a => Sys2Proof.Machine.execZextH d a s
  | .zextW d a => Sys2Proof.Machine.execZextW d a s
  | .addw d a b => Sys2Proof.Machine.execAddw d a b s
  | .subw d a b => Sys2Proof.Machine.execSubw d a b s
  | .addLit d a lit => Sys2Proof.Machine.execAddLit d a lit s
  | .subLit d a lit => Sys2Proof.Machine.execSubLit d a lit s
  | .andLit d a lit => Sys2Proof.Machine.execAndLit d a lit s
  | .orLit d a lit => Sys2Proof.Machine.execOrLit d a lit s
  | .xorLit d a lit => Sys2Proof.Machine.execXorLit d a lit s
  | .andnLit d a lit => Sys2Proof.Machine.execAndnLit d a lit s
  | .sllLit d a lit => Sys2Proof.Machine.execSllLit d a lit s
  | .srlLit d a lit => Sys2Proof.Machine.execSrlLit d a lit s
  | .sraLit d a lit => Sys2Proof.Machine.execSraLit d a lit s
  | .rorLit d a lit => Sys2Proof.Machine.execRorLit d a lit s
  | .sltLit d a lit => Sys2Proof.Machine.execSltLit d a lit s
  | .sltuLit d a lit => Sys2Proof.Machine.execSltuLit d a lit s
  | .minLit d a lit => Sys2Proof.Machine.execMinLit d a lit s
  | .maxLit d a lit => Sys2Proof.Machine.execMaxLit d a lit s
  | .minuLit d a lit => Sys2Proof.Machine.execMinuLit d a lit s
  | .maxuLit d a lit => Sys2Proof.Machine.execMaxuLit d a lit s
  | .mulLit d a lit => Sys2Proof.Machine.execMulLit d a lit s
  | .mulhLit d a lit => Sys2Proof.Machine.execMulhLit d a lit s
  | .mulhuLit d a lit => Sys2Proof.Machine.execMulhuLit d a lit s
  | .mulhsuLit d a lit => Sys2Proof.Machine.execMulhsuLit d a lit s
  | .divLit d a lit => Sys2Proof.Machine.execDivLit d a lit s
  | .divuLit d a lit => Sys2Proof.Machine.execDivuLit d a lit s
  | .remLit d a lit => Sys2Proof.Machine.execRemLit d a lit s
  | .remuLit d a lit => Sys2Proof.Machine.execRemuLit d a lit s
  | .addwLit d a lit => Sys2Proof.Machine.execAddwLit d a lit s
  | .subwLit d a lit => Sys2Proof.Machine.execSubwLit d a lit s
  | .addi d a imm => Sys2Proof.Machine.execAddi d a imm s
  | .andi d a imm => Sys2Proof.Machine.execAndi d a imm s
  | .ori d a imm => Sys2Proof.Machine.execOri d a imm s
  | .xori d a imm => Sys2Proof.Machine.execXori d a imm s
  | .slti d a imm => Sys2Proof.Machine.execSlti d a imm s
  | .sltiu d a imm => Sys2Proof.Machine.execSltiu d a imm s
  | .slli d a n => Sys2Proof.Machine.execSlli d a n s
  | .srli d a n => Sys2Proof.Machine.execSrli d a n s
  | .srai d a n => Sys2Proof.Machine.execSrai d a n s
  | .rori d a n => Sys2Proof.Machine.execRori d a n s
  | .lui d imm => Sys2Proof.Machine.execLui d imm s
  | .addpc d imm => Sys2Proof.Machine.execAddpc d imm s
  | .fadd d a b p => Sys2Proof.Machine.execFadd d a b p s
  | .fsub d a b p => Sys2Proof.Machine.execFsub d a b p s
  | .fmul d a b p => Sys2Proof.Machine.execFmul d a b p s
  | .fdiv d a b p => Sys2Proof.Machine.execFdiv d a b p s
  | .fsqrt d a p => Sys2Proof.Machine.execFsqrt d a p s
  | .fmin d a b p => Sys2Proof.Machine.execFmin d a b p s
  | .fmax d a b p => Sys2Proof.Machine.execFmax d a b p s
  | .fsgnj d a b p => Sys2Proof.Machine.execFsgnj d a b p s
  | .fsgnjn d a b p => Sys2Proof.Machine.execFsgnjn d a b p s
  | .fsgnjx d a b p => Sys2Proof.Machine.execFsgnjx d a b p s
  | .feq d a b p => Sys2Proof.Machine.execFeq d a b p s
  | .flt d a b p => Sys2Proof.Machine.execFlt d a b p s
  | .fle d a b p => Sys2Proof.Machine.execFle d a b p s
  | .fclass d a p => Sys2Proof.Machine.execFclass d a p s
  | .fcvtS d a p => Sys2Proof.Machine.execFcvtS d a p s
  | .fcvtZ d a p => Sys2Proof.Machine.execFcvtZ d a p s
  | .fcvtfS d a p => Sys2Proof.Machine.execFcvtfS d a p s
  | .fcvtfZ d a p => Sys2Proof.Machine.execFcvtfZ d a p s
  | .fcvtp d a p => Sys2Proof.Machine.execFcvtp d a p s
  | .fmadd d a b p => Sys2Proof.Machine.execFmadd d a b p s
  | .fmsub d a b p => Sys2Proof.Machine.execFmsub d a b p s
  | .fnmadd d a b p => Sys2Proof.Machine.execFnmadd d a b p s
  | .fcvtSt d a p => Sys2Proof.Machine.execFcvtSt d a p s
  | .faddLit d a p lit => Sys2Proof.Machine.execFaddLit d a p lit s
  | .fsubLit d a p lit => Sys2Proof.Machine.execFsubLit d a p lit s
  | .fmulLit d a p lit => Sys2Proof.Machine.execFmulLit d a p lit s
  | .fdivLit d a p lit => Sys2Proof.Machine.execFdivLit d a p lit s
  | .fminLit d a p lit => Sys2Proof.Machine.execFminLit d a p lit s
  | .fmaxLit d a p lit => Sys2Proof.Machine.execFmaxLit d a p lit s
  | .fsgnjLit d a p lit => Sys2Proof.Machine.execFsgnjLit d a p lit s
  | .fsgnjnLit d a p lit => Sys2Proof.Machine.execFsgnjnLit d a p lit s
  | .fsgnjxLit d a p lit => Sys2Proof.Machine.execFsgnjxLit d a p lit s
  | .feqLit d a p lit => Sys2Proof.Machine.execFeqLit d a p lit s
  | .fltLit d a p lit => Sys2Proof.Machine.execFltLit d a p lit s
  | .fleLit d a p lit => Sys2Proof.Machine.execFleLit d a p lit s
  | .fmaddLit d a p lit => Sys2Proof.Machine.execFmaddLit d a p lit s
  | .fmsubLit d a p lit => Sys2Proof.Machine.execFmsubLit d a p lit s
  | .fnmaddLit d a p lit => Sys2Proof.Machine.execFnmaddLit d a p lit s
  | .ld d a z q o => Sys2Proof.Machine.execLd d a z q o s
  | .st src a z q o => Sys2Proof.Machine.execSt src a z q o s
  | .ldl d a z o => Sys2Proof.Machine.execLdl d a z o s
  | .stl src a z o => Sys2Proof.Machine.execStl src a z o s
  | .amoSwap d a b w o sc => Sys2Proof.Machine.execAmoSwap d a b w o sc s
  | .amoAdd d a b w o sc => Sys2Proof.Machine.execAmoAdd d a b w o sc s
  | .amoAnd d a b w o sc => Sys2Proof.Machine.execAmoAnd d a b w o sc s
  | .amoOr d a b w o sc => Sys2Proof.Machine.execAmoOr d a b w o sc s
  | .amoXor d a b w o sc => Sys2Proof.Machine.execAmoXor d a b w o sc s
  | .amoMin d a b w o sc => Sys2Proof.Machine.execAmoMin d a b w o sc s
  | .amoMax d a b w o sc => Sys2Proof.Machine.execAmoMax d a b w o sc s
  | .amoMinu d a b w o sc => Sys2Proof.Machine.execAmoMinu d a b w o sc s
  | .amoMaxu d a b w o sc => Sys2Proof.Machine.execAmoMaxu d a b w o sc s
  | .amoCas d a b w o sc => Sys2Proof.Machine.execAmoCas d a b w o sc s
  | .redAddF32 a b v => Sys2Proof.Machine.execRedAddF32 a b v s
  | .redAddBf16 a b v => Sys2Proof.Machine.execRedAddBf16 a b v s
  | .redAddS32 a b v => Sys2Proof.Machine.execRedAddS32 a b v s
  | .redAddS64 a b v => Sys2Proof.Machine.execRedAddS64 a b v s
  | .redMaxF32 a b v => Sys2Proof.Machine.execRedMaxF32 a b v s
  | .redMinF32 a b v => Sys2Proof.Machine.execRedMinF32 a b v s
  | .fence k sc => Sys2Proof.Machine.execFence k sc s
  | .sigadd a b => Sys2Proof.Machine.execSigadd a b s
  | .waitge d a b => Sys2Proof.Machine.execWaitge d a b s
  | .ctrrd d a => Sys2Proof.Machine.execCtrrd d a s
  | .rflush => Sys2Proof.Machine.execRflush s
  | .discard a => Sys2Proof.Machine.execDiscard a s
  | .l1inv => Sys2Proof.Machine.execL1inv s
  | .beq a b o => Sys2Proof.Machine.execBeq a b o s
  | .bne a b o => Sys2Proof.Machine.execBne a b o s
  | .blt a b o => Sys2Proof.Machine.execBlt a b o s
  | .bge a b o => Sys2Proof.Machine.execBge a b o s
  | .bltu a b o => Sys2Proof.Machine.execBltu a b o s
  | .bgeu a b o => Sys2Proof.Machine.execBgeu a b o s
  | .jal d o => Sys2Proof.Machine.execJal d o s
  | .jalr d a imm => Sys2Proof.Machine.execJalr d a imm s
  | .lspan l c b n => Sys2Proof.Machine.execLspan l c b n s
  | .lexit l => Sys2Proof.Machine.execLexit l s
  | .ldis l => Sys2Proof.Machine.execLdis l s
  | .vadd d a b m t => Sys2Proof.Machine.execVadd d a b m t s
  | .vsub d a b m t => Sys2Proof.Machine.execVsub d a b m t s
  | .vmul d a b m t => Sys2Proof.Machine.execVmul d a b m t s
  | .vfma d a b m t => Sys2Proof.Machine.execVfma d a b m t s
  | .vfms d a b m t => Sys2Proof.Machine.execVfms d a b m t s
  | .vmin d a b m t => Sys2Proof.Machine.execVmin d a b m t s
  | .vmax d a b m t => Sys2Proof.Machine.execVmax d a b m t s
  | .vand d a b m t => Sys2Proof.Machine.execVand d a b m t s
  | .vor d a b m t => Sys2Proof.Machine.execVor d a b m t s
  | .vxor d a b m t => Sys2Proof.Machine.execVxor d a b m t s
  | .vshl d a b m t => Sys2Proof.Machine.execVshl d a b m t s
  | .vshr d a b m t => Sys2Proof.Machine.execVshr d a b m t s
  | .vceq d a b m t => Sys2Proof.Machine.execVceq d a b m t s
  | .vclt d a b m t => Sys2Proof.Machine.execVclt d a b m t s
  | .vcle d a b m t => Sys2Proof.Machine.execVcle d a b m t s
  | .vsel d a b m t => Sys2Proof.Machine.execVsel d a b m t s
  | .vabs d a m t => Sys2Proof.Machine.execVabs d a m t s
  | .vneg d a m t => Sys2Proof.Machine.execVneg d a m t s
  | .vrcp d a m t => Sys2Proof.Machine.execVrcp d a m t s
  | .vrsq d a m t => Sys2Proof.Machine.execVrsq d a m t s
  | .vexp2 d a m t => Sys2Proof.Machine.execVexp2 d a m t s
  | .vlog2 d a m t => Sys2Proof.Machine.execVlog2 d a m t s
  | .vsqrt d a m t => Sys2Proof.Machine.execVsqrt d a m t s
  | .vdiv d a b m t => Sys2Proof.Machine.execVdiv d a b m t s
  | .vaddg d a b m t => Sys2Proof.Machine.execVaddg d a b m t s
  | .vmulg d a b m t => Sys2Proof.Machine.execVmulg d a b m t s
  | .vfmag d a b m t => Sys2Proof.Machine.execVfmag d a b m t s
  | .vming d a b m t => Sys2Proof.Machine.execVming d a b m t s
  | .vmaxg d a b m t => Sys2Proof.Machine.execVmaxg d a b m t s
  | .vmovg d b m t => Sys2Proof.Machine.execVmovg d b m t s
  | .vext d a b t => Sys2Proof.Machine.execVext d a b t s
  | .vins d a b t => Sys2Proof.Machine.execVins d a b t s
  | .vcvtBf16F32 d a h m => Sys2Proof.Machine.execVcvtBf16F32 d a h m s
  | .vcvtF32Bf16 d a h m => Sys2Proof.Machine.execVcvtF32Bf16 d a h m s
  | .vcvtF16F32 d a h m => Sys2Proof.Machine.execVcvtF16F32 d a h m s
  | .vcvtF32F16 d a h m => Sys2Proof.Machine.execVcvtF32F16 d a h m s
  | .vcvtE4m3F32 d a q m => Sys2Proof.Machine.execVcvtE4m3F32 d a q m s
  | .vcvtF32E4m3 d a q m => Sys2Proof.Machine.execVcvtF32E4m3 d a q m s
  | .vcvtE5m2F32 d a q m => Sys2Proof.Machine.execVcvtE5m2F32 d a q m s
  | .vcvtF32E5m2 d a q m => Sys2Proof.Machine.execVcvtF32E5m2 d a q m s
  | .vcvtS32F32 d a m => Sys2Proof.Machine.execVcvtS32F32 d a m s
  | .vcvtF32S32 d a m => Sys2Proof.Machine.execVcvtF32S32 d a m s
  | .vcvtS8S32 d a q m => Sys2Proof.Machine.execVcvtS8S32 d a q m s
  | .bfpenc d a m k => Sys2Proof.Machine.execBfpenc d a m k s
  | .bfpdec d a m k => Sys2Proof.Machine.execBfpdec d a m k s
  | .vldL d a b m t => Sys2Proof.Machine.execVldL d a b m t s
  | .vstL d a b m t => Sys2Proof.Machine.execVstL d a b m t s
  | .vldG d a b m t => Sys2Proof.Machine.execVldG d a b m t s
  | .vstG d a b m t => Sys2Proof.Machine.execVstG d a b m t s
  | .vlds d a b m t => Sys2Proof.Machine.execVlds d a b m t s
  | .vgathL d a b m t => Sys2Proof.Machine.execVgathL d a b m t s
  | .vscatL d a b m t => Sys2Proof.Machine.execVscatL d a b m t s
  | .vperm d a b m t => Sys2Proof.Machine.execVperm d a b m t s
  | .vredsum d a m t => Sys2Proof.Machine.execVredsum d a m t s
  | .vredmax d a m t => Sys2Proof.Machine.execVredmax d a m t s
  | .vredmin d a m t => Sys2Proof.Machine.execVredmin d a m t s
  | .mand d a b => Sys2Proof.Machine.execMand d a b s
  | .mor d a b => Sys2Proof.Machine.execMor d a b s
  | .mnot d a => Sys2Proof.Machine.execMnot d a s
  | .mpop d a t => Sys2Proof.Machine.execMpop d a t s
  | .dual w p => Sys2Proof.Machine.execDual w p s
  | .dget d a c p => Sys2Proof.Machine.execDget d a c p s
  | .dset d a c p => Sys2Proof.Machine.execDset d a c p s
  | .dclr d c p => Sys2Proof.Machine.execDclr d c p s
  | .dclrAll c p => Sys2Proof.Machine.execDclrAll c p s
  | .mmaBf16 d a b c e o => Sys2Proof.Machine.execMmaBf16 d a b c e o s
  | .mmaF16 d a b c e o => Sys2Proof.Machine.execMmaF16 d a b c e o s
  | .mmaE4m3 d a b c e o => Sys2Proof.Machine.execMmaE4m3 d a b c e o s
  | .mmaE5m2 d a b c e o => Sys2Proof.Machine.execMmaE5m2 d a b c e o s
  | .mmaE4e5 d a b c e o => Sys2Proof.Machine.execMmaE4e5 d a b c e o s
  | .mmaBfp d a b c e o k => Sys2Proof.Machine.execMmaBfp d a b c e o k s
  | .mmaS8 d a b e => Sys2Proof.Machine.execMmaS8 d a b e s
  | .mzero d e w => Sys2Proof.Machine.execMzero d e w s
  | .mtrn d a e w => Sys2Proof.Machine.execMtrn d a e w s
  | .batt d sl => Sys2Proof.Machine.execBatt d sl s
  | .bdet sl => Sys2Proof.Machine.execBdet sl s
  | .hover d a t sl => Sys2Proof.Machine.execHover d a t sl s
  | .bwait sl => Sys2Proof.Machine.execBwait sl s
  | .bqry d sl => Sys2Proof.Machine.execBqry d sl s
  | .tcset a f t => Sys2Proof.Machine.execTcset a f t s
  | .tcissue a t => Sys2Proof.Machine.execTcissue a t s
  | .tcqry d t => Sys2Proof.Machine.execTcqry d t s
  | .sopen a p => Sys2Proof.Machine.execSopen a p s
  | .ssend a v p => Sys2Proof.Machine.execSsend a v p s
  | .sclose p => Sys2Proof.Machine.execSclose p s
  | .recv d p => Sys2Proof.Machine.execRecv d p s
  | .rrls a p => Sys2Proof.Machine.execRrls a p s
  | .rring a b p => Sys2Proof.Machine.execRring a b p s
  | .barr a h => Sys2Proof.Machine.execBarr a h s
  | .barw d h => Sys2Proof.Machine.execBarw d h s
  | .barws d h => Sys2Proof.Machine.execBarws d h s
  | .barq d q h => Sys2Proof.Machine.execBarq d q h s
  | .barl h => Sys2Proof.Machine.execBarl h s
  | .rtnext d => Sys2Proof.Machine.execRtnext d s
  | .tspawn d a => Sys2Proof.Machine.execTspawn d a s
  | .tdone => Sys2Proof.Machine.execTdone s
  | .yield => Sys2Proof.Machine.execYield s
  | .tsync a => Sys2Proof.Machine.execTsync a s
  | .ecall => Sys2Proof.Machine.execEcall s
  | .ebreak => Sys2Proof.Machine.execEbreak s
  | .eret => Sys2Proof.Machine.execEret s
  | .wfi => Sys2Proof.Machine.execWfi s
  | .tlbinv a sc f => Sys2Proof.Machine.execTlbinv a sc f s
  | .halt => Sys2Proof.Machine.execHalt s
  | .crd d imm => Sys2Proof.Machine.execCrd d imm s
  | .cwr a imm => Sys2Proof.Machine.execCwr a imm s
  | .csetb a imm => Sys2Proof.Machine.execCsetb a imm s
  | .cclrb a imm => Sys2Proof.Machine.execCclrb a imm s
  | .interruptDelivery tk => Sys2Proof.Machine.execInterruptDelivery tk s
  | .resultReady tk => Sys2Proof.Machine.execResultReady tk s
  | .planeGating tk => Sys2Proof.Machine.execPlaneGating tk s
  | .planeWakeDone tk => Sys2Proof.Machine.execPlaneWakeDone tk s
  | .homeLoadServe r => Sys2Proof.Machine.execHomeLoadServe r s
  | .loadReply r => Sys2Proof.Machine.execLoadReply r s
  | .homeStoreApply r => Sys2Proof.Machine.execHomeStoreApply r s
  | .replicaCollapseAck r => Sys2Proof.Machine.execReplicaCollapseAck r s
  | .amoSliceApply r => Sys2Proof.Machine.execAmoSliceApply r s
  | .amoReply r => Sys2Proof.Machine.execAmoReply r s
  | .releasePerformed tk => Sys2Proof.Machine.execReleasePerformed tk s
  | .redArrival r => Sys2Proof.Machine.execRedArrival r s
  | .refusalReturn r => Sys2Proof.Machine.execRefusalReturn r s
  | .forcedMessageApply r => Sys2Proof.Machine.execForcedMessageApply r s
  | .residualAgeExpiry core => Sys2Proof.Machine.execResidualAgeExpiry core s
  | .quotaWindowStart => Sys2Proof.Machine.execQuotaWindowStart s
  | .reductionQueueDrain slice => Sys2Proof.Machine.execReductionQueueDrain slice s
  | .sigaddApply r => Sys2Proof.Machine.execSigaddApply r s
  | .waitgeWake tk => Sys2Proof.Machine.execWaitgeWake tk s
  | .waitgeRepoll tk => Sys2Proof.Machine.execWaitgeRepoll tk s
  | .waitTimeout tk => Sys2Proof.Machine.execWaitTimeout tk s
  | .energyRefill => Sys2Proof.Machine.execEnergyRefill s
  | .tensorBind cluster => Sys2Proof.Machine.execTensorBind cluster s
  | .mmaOccupancyEnd cluster lane => Sys2Proof.Machine.execMmaOccupancyEnd cluster lane s
  | .mmaRetire cc entry => Sys2Proof.Machine.execMmaRetire cc entry s
  | .copyBurstStart cluster => Sys2Proof.Machine.execCopyBurstStart cluster s
  | .copyBurstComplete cc entry burst => Sys2Proof.Machine.execCopyBurstComplete cc entry burst s
  | .copyRetire cc entry => Sys2Proof.Machine.execCopyRetire cc entry s
  | .pageWalkDone w => Sys2Proof.Machine.execPageWalkDone w s
  | .bankRefillDone cc slot => Sys2Proof.Machine.execBankRefillDone cc slot s
  | .bankScrubDone cluster bank => Sys2Proof.Machine.execBankScrubDone cluster bank s
  | .battWake tk => Sys2Proof.Machine.execBattWake tk s
  | .hoverTableStep tk => Sys2Proof.Machine.execHoverTableStep tk s
  | .bdetTableStep tk => Sys2Proof.Machine.execBdetTableStep tk s
  | .bwaitWake tk => Sys2Proof.Machine.execBwaitWake tk s
  | .barrierArrival v => Sys2Proof.Machine.execBarrierArrival v s
  | .barwWake tk => Sys2Proof.Machine.execBarwWake tk s
  | .specCommit tk => Sys2Proof.Machine.execSpecCommit tk s
  | .specAbort tk ch gen => Sys2Proof.Machine.execSpecAbort tk ch gen s
  | .guidonArrival f => Sys2Proof.Machine.execGuidonArrival f s
  | .dataFlitLand f => Sys2Proof.Machine.execDataFlitLand f s
  | .furlLand f => Sys2Proof.Machine.execFurlLand f s
  | .pauseFlitLand f => Sys2Proof.Machine.execPauseFlitLand f s
  | .creditArrival cc port n => Sys2Proof.Machine.execCreditArrival cc port n s
  | .routeTear cc port => Sys2Proof.Machine.execRouteTear cc port s
  | .recvWake tk => Sys2Proof.Machine.execRecvWake tk s
  | .hostDoorbell fn q tail => Sys2Proof.Machine.execHostDoorbell fn q tail s
  | .admission part => Sys2Proof.Machine.execAdmission part s
  | .admissionWaitEnd part => Sys2Proof.Machine.execAdmissionWaitEnd part s
  | .taskBind pos => Sys2Proof.Machine.execTaskBind pos s
  | .splitRequest pos => Sys2Proof.Machine.execSplitRequest pos s
  | .splitWithdrawTimeout part tcb => Sys2Proof.Machine.execSplitWithdrawTimeout part tcb s
  | .yieldPark tk => Sys2Proof.Machine.execYieldPark tk s
  | .faultQueueWrite part => Sys2Proof.Machine.execFaultQueueWrite part s
  | .tsyncAck tk => Sys2Proof.Machine.execTsyncAck tk s
  | .tspawnStatus tk => Sys2Proof.Machine.execTspawnStatus tk s
  | .cnextLoad core cid => Sys2Proof.Machine.execCnextLoad core cid s
  | .cnextSwitch core => Sys2Proof.Machine.execCnextSwitch core s
  | .ipost lines pos cid => Sys2Proof.Machine.execIpost lines pos cid s
  | .preemption core => Sys2Proof.Machine.execPreemption core s
  | .contextStreamEnd core => Sys2Proof.Machine.execContextStreamEnd core s
  | .ctermGo die cid => Sys2Proof.Machine.execCtermGo die cid s
  | .terminationDone die => Sys2Proof.Machine.execTerminationDone die s
  | .tlbinvAck tk cluster => Sys2Proof.Machine.execTlbinvAck tk cluster s
  | .pctlQuiesce die => Sys2Proof.Machine.execPctlQuiesce die s
  | .pctlResume die => Sys2Proof.Machine.execPctlResume die s
  | .pctlAbort die => Sys2Proof.Machine.execPctlAbort die s
  | .quiesceTimeout part => Sys2Proof.Machine.execQuiesceTimeout part s
  | .quiesceDrain part => Sys2Proof.Machine.execQuiesceDrain part s
  | .resumeDone part => Sys2Proof.Machine.execResumeDone part s
  | .shootGo die => Sys2Proof.Machine.execShootGo die s
  | .shootdownDone die => Sys2Proof.Machine.execShootdownDone die s
  | .registerWrite pa val => Sys2Proof.Machine.execRegisterWrite pa val s
  | .hnote cluster note => Sys2Proof.Machine.execHnote cluster note s
  | .hostBar2Write fn off data => Sys2Proof.Machine.execHostBar2Write fn off data s
  | .hostBar2Read fn off len => Sys2Proof.Machine.execHostBar2Read fn off len s
  | .atsRequest fn va write => Sys2Proof.Machine.execAtsRequest fn va write s
  | .ethFrameArrival port etype data => Sys2Proof.Machine.execEthFrameArrival port etype data s
  | .transportRequest n => Sys2Proof.Machine.execTransportRequest n s
  | .transportReply n => Sys2Proof.Machine.execTransportReply n s
  | .transportRetransmit part dst seq => Sys2Proof.Machine.execTransportRetransmit part dst seq s
  | .nredContribution n => Sys2Proof.Machine.execNredContribution n s
  | .nredDeadline part tag => Sys2Proof.Machine.execNredDeadline part tag s
  | .pmcOverflow tk idx => Sys2Proof.Machine.execPmcOverflow tk idx s
  | .dstopArm ch => Sys2Proof.Machine.execDstopArm ch s
  | .domainStopLand ch => Sys2Proof.Machine.execDomainStopLand ch s
  | .scrubRead e => Sys2Proof.Machine.execScrubRead e s
  | .parityError e => Sys2Proof.Machine.execParityError e s
  | .linkFailure die cluster => Sys2Proof.Machine.execLinkFailure die cluster s
  | .errorRecordFlush die => Sys2Proof.Machine.execErrorRecordFlush die s
  | .machineCheck die rec => Sys2Proof.Machine.execMachineCheck die rec s
  | .mcrel die rec => Sys2Proof.Machine.execMcrel die rec s
  | .powerOnReset => Sys2Proof.Machine.execPowerOnReset s
  | .imageArrivalEth data => Sys2Proof.Machine.execImageArrivalEth data s
  | .imggo => Sys2Proof.Machine.execImggo s
  | .imageCheckDone => Sys2Proof.Machine.execImageCheckDone s
  | .systemCoreStart die unit pc arg => Sys2Proof.Machine.execSystemCoreStart die unit pc arg s
  | .attgo host nonce => Sys2Proof.Machine.execAttgo host nonce s
  | .attestationDone => Sys2Proof.Machine.execAttestationDone s
  | .pm7Extend item => Sys2Proof.Machine.execPm7Extend item s
  | .repairListAppend item => Sys2Proof.Machine.execRepairListAppend item s
  | .sagDetect die lag len => Sys2Proof.Machine.execSagDetect die lag len s
  | .stretchEnd => Sys2Proof.Machine.execStretchEnd s
  | .coreClockCycle => Sys2Proof.Machine.execCoreClockCycle s
  | .notAnInstruction w => Sys2Proof.Machine.execNotAnInstruction w s
  | .instructionFetch => Sys2Proof.Machine.execInstructionFetch s
  | .partNboundMilvWrite die off val => Sys2Proof.Machine.execPartNboundMilvWrite die off val s
  | .msixTableWrite fn off val => Sys2Proof.Machine.execMsixTableWrite fn off val s

end Sys2Proof.Machine
end

