-- ==== Sys2Proof/Machine/Step.lean ====
section
/-! DEFINITION. One step of the machine, and the state in which the next step fetches a given instruction. -/

namespace Sys2Proof.Machine

/-- One step: the next choice of the agenda, or the machine's own (log 4). -/
noncomputable def step (s : State) : Host.Outcome State Fault Refusal := s.advance exec

/-- The address, virtual and physical, at which `withFetchWord` places an instruction (log 23). -/
def progAt : Nat := 0x100000

/-- A leaf for the program's page: valid, readable, executable, user, accessed, its home the slice at router 0
(PLACE = 10; 20 R366). -/
def progPte : Word := BitVec.ofNat 64 (progAt + 2048 + 32 + 16 + 8 + 2 + 1)

/-- Thread set 0 of core 0, bound in context 0, about to run its first instruction (log 23). -/
def TSet.prog : TSet := { TSet.reset with bound := some 0x200000, pc := BitVec.ofNat 64 progAt }

/-- Core 0 with context 0 active and the program's page in its micro-TLB. -/
def CoreSt.prog : CoreSt :=
  { CoreSt.reset with act := some 0, utlb := [{ cid := 0, big := false, page := progAt / 65536, pte := progPte }] }

/-- The state with an instruction where the next step fetches: die 0 runs in partition 0, context 0 is active on core 0,
its thread set 0 is bound with pc at the instruction and is the next to issue (log 23). -/
def State.withFetchWord (s : State) (nbits w : Nat) : State :=
  { s with
    mem := memWrite s.mem progAt (natLe (w % 2 ^ nbits) 8)
    ts := mset (mdel (mdel (mdel s.ts 1) 2) 3) 0 TSet.prog
    cores := mset s.cores 0 CoreSt.prog
    slices := mdel s.slices 0
    chans := s.chans.filter (fun c => !c.2.held.contains 0)
    ctxs := mset s.ctxs 0 Ctx.reset
    dies := mset s.dies 0 { DieSt.reset with state := 0, milv := 0x11 }
    agenda := [.issue 0]
    issueq := 0 :: s.issueq.filter (fun k => coreOf k != 0) }

end Sys2Proof.Machine
end

