-- ==== Sys2Proof/Safety.lean ====
section
/-! DEFINITION. The terms in which claims speak: one byte of memory, what an instruction leaves unchanged, where the pc goes
when an instruction completes, and the invariants. -/

namespace Sys2Proof.Machine

/-- One byte of memory as its home slice serves it: L2, then the memory-side cache, then LPDDR6 (10 R181, R182). -/
def State.byteAt (s : State) (home pa : Nat) : Byte :=
  BitVec.ofNat 8 ((s.lineVal home (lineKey pa)).toNat / 2 ^ (8 * (pa % 192)))

/-- One byte of the local space of a core-and-context (08 R155). -/
def State.localAt (s : State) (cc a : Nat) : Option Byte :=
  ((s.cc cc).slot (a / 65536)).bank?.map (fun b => memGet b.data (a % 65536))

/-- The current instruction runs at privilege 0 of a compute core. -/
def State.user (s : State) : Bool := s.me.priv == 0 && !isSys s.cur

/-- PMCTL.SS makes the completion of the current instruction a single step (23 R405). -/
def State.stepping (s : State) : Bool := s.user && s.me.pmctl.getLsbD 2

/-- Where the pc goes when an instruction of `len` bytes completes without a transfer: past it, or back to the start of an
armed loop (05 R106). -/
def State.nextPc (s : State) (len : Nat) : Word :=
  if s.user then (loopEnd s.me.a s.me.pc len).2.1 else s.me.pc + BitVec.ofNat 64 len

/-- Registers of one `Arch` that another keeps: all but the named planes of g and v, and the named m registers. -/
structure Arch.Keeps (a b : Arch) (G V : Reg → Nat → Prop) (M : BitVec 3 → Prop) : Prop where
  g : ∀ r p, p ≤ 2 → ¬ G r p → b.gp p r = a.gp p r
  v : ∀ r p, p ≤ 2 → ¬ V r p → b.vp p r = a.vp p r
  m : ∀ r, ¬ M r → b.mp r = a.mp r
  tc : b.tc = a.tc
  dmode : b.dmode = a.dmode
  dtoff : b.dtoff = a.dtoff
  claim : b.claim = a.claim
  rend : b.rend = a.rend
  bar : b.bar = a.bar

/-- What the completion of a register instruction may change beside its result: the DUAL window in STATUS (03 R60), and
the loop words' counts and arms (05 R106). -/
structure Arch.Runs (a b : Arch) : Prop where
  status : noWindow b.status = noWindow a.status
  ls : b.ls = a.ls
  le : b.le = a.le

/-- The special registers of a thread set that no register instruction writes. -/
structure TSet.Keeps (t u : TSet) : Prop where
  bound : u.bound = t.bound
  cause : u.cause = t.cause
  epc : u.epc = t.epc
  tval : u.tval = t.tval
  escr : u.escr = t.escr
  cycle : u.cycle = t.cycle
  wlimit : u.wlimit = t.wlimit
  specst : u.specst = t.specst
  speccnt : u.speccnt = t.speccnt
  residx : u.residx = t.residx
  pmc : u.pmc = t.pmc
  pmsel : u.pmsel = t.pmsel
  pmovf : u.pmovf = t.pmovf
  pmctl : u.pmctl = t.pmctl
  irq : u.irq = t.irq
  mc : u.mc = t.mc
  eceil : u.eceil = t.eceil
  epoch : u.epoch = t.epoch
  spec : u.spec = t.spec
  halted : u.halted = t.halted
  stopped : u.stopped = t.stopped

/-- What a core keeps when only its units' timers move. -/
structure CoreSt.Keeps (c d : CoreSt) : Prop where
  act : d.act = c.act
  stby : d.stby = c.stby
  strm : d.strm = c.strm
  cnext : d.cnext = c.cnext
  l1 : d.l1 = c.l1
  tile : d.tile = c.tile
  hold : d.hold = c.hold
  utlb : d.utlb = c.utlb
  waddr : d.waddr = c.waddr
  wctl : d.wctl = c.wctl

/-- Nothing outside the current thread set changes, but for timers of its core's units and timers in flight: memory and its
caches, every other thread set, banks, engines, clusters, slices, channels, dies, partitions, contexts, host and Jostauth. -/
structure State.Elsewhere (s t : State) : Prop where
  cur : t.cur = s.cur
  cyc : t.cyc = s.cyc
  others : ∀ k, k ≠ s.cur → t.t k = s.t k
  cores : ∀ k, (s.core k).Keeps (t.core k)
  bytes : ∀ home pa, t.byteAt home pa = s.byteAt home pa
  mem : t.mem = s.mem
  slices : t.slices = s.slices
  reps : t.reps = s.reps
  ccs : t.ccs = s.ccs
  clusters : t.clusters = s.clusters
  chans : t.chans = s.chans
  dies : t.dies = s.dies
  parts : t.parts = s.parts
  ctxs : t.ctxs = s.ctxs
  host : t.host = s.host
  jost : t.jost = s.jost
  images : t.images = s.images
  stretch : t.stretch = s.stretch
  throt : t.throt = s.throt

/-- A register instruction of `len` bytes completes: pc moves past it, its destination planes may change, its flags go to
FMODE and its seed to SRSEED, and nothing else changes. -/
structure State.RegStep (s t : State) (len : Nat) (G V : Reg → Nat → Prop) (M : BitVec 3 → Prop) : Prop where
  pc : t.me.pc = s.nextPc len
  regs : s.me.a.Keeps t.me.a G V M
  runs : s.me.a.Runs t.me.a
  tset : s.me.Keeps t.me
  rest : s.Elsewhere t

/-- Only plane 0 and the planes acted on, of one register. -/
def State.Dest (s : State) (d : Reg) (r : Reg) (p : Nat) : Prop := r = d ∧ (p = 0 ∨ p ∈ s.me.dual)

/-- No register. -/
def NoReg (_ : Reg) (_ : Nat) : Prop := False

/-- No mask register. -/
def NoMask (_ : BitVec 3) : Prop := False

/-! ### Invariants -/

/-- Memory holds its bytes in the one canonical form. -/
def State.memOk (s : State) : Prop := Memory.wf s.mem = true

/-- Every bank holds its bytes in the one canonical form. -/
def State.banksOk (s : State) : Prop := ∀ cc n b, ((s.cc cc).slot n).bank? = some b → Memory.wf b.data = true

end Sys2Proof.Machine
end

