-- ==== Sys2Proof/Certificates/Slice0/Obligations.lean ====
section
/-! DEFINITION. The statements for the provers. Names under `Claims` are the spec's own tables and formulas, in which the
statements say what a result is. -/

namespace Sys2Proof.Claims

open Sys2Proof.Machine

/-! ### Scalar integer values (05 R88-R90) -/

/-- Shifts by an unsigned 64-bit count that saturates (05 R88). -/
def sllV (x y : Word) : Word := if y.toNat < 64 then x <<< y.toNat else 0
def srlV (x y : Word) : Word := if y.toNat < 64 then x >>> y.toNat else 0
def sraV (x y : Word) : Word := if y.toNat < 64 then x.sshiftRight y.toNat else if x.msb then BitVec.allOnes 64 else 0

/-- Quotients and remainders with the saturated cases of 05 R89. -/
def divV (x y : Word) : Word :=
  if y = 0 then (if x = 0 then 0 else if x.msb then 0x8000000000000000 else 0x7FFFFFFFFFFFFFFF)
  else if x = 0x8000000000000000 ∧ y = 0xFFFFFFFFFFFFFFFF then 0x7FFFFFFFFFFFFFFF
  else x.sdiv y
def divuV (x y : Word) : Word := if y = 0 then (if x = 0 then 0 else 0xFFFFFFFFFFFFFFFF) else x.udiv y
def remV (x y : Word) : Word :=
  if y = 0 then 0 else if x = 0x8000000000000000 ∧ y = 0xFFFFFFFFFFFFFFFF then 0 else x.srem y
def remuV (x y : Word) : Word := if y = 0 then 0 else x.umod y

/-- Destination, value and length in bytes that 05 R88-R90 give an integer instruction. -/
def intValue (i : Instr) (s : State) : Option (Reg × Word × Nat) :=
  match i with
  | .add d a b => let x := s.g a; let y := s.g b; some (d, x + y, 4)
  | .sub d a b => let x := s.g a; let y := s.g b; some (d, x - y, 4)
  | .and d a b => let x := s.g a; let y := s.g b; some (d, x &&& y, 4)
  | .or d a b => let x := s.g a; let y := s.g b; some (d, x ||| y, 4)
  | .xor d a b => let x := s.g a; let y := s.g b; some (d, x ^^^ y, 4)
  | .andn d a b => let x := s.g a; let y := s.g b; some (d, x &&& ~~~y, 4)
  | .sll d a b => let x := s.g a; let y := s.g b; some (d, sllV x y, 4)
  | .srl d a b => let x := s.g a; let y := s.g b; some (d, srlV x y, 4)
  | .sra d a b => let x := s.g a; let y := s.g b; some (d, sraV x y, 4)
  | .ror d a b => let x := s.g a; let y := s.g b; some (d, x.rotateRight (y.toNat % 64), 4)
  | .slt d a b => let x := s.g a; let y := s.g b; some (d, if x.toInt < y.toInt then 1 else 0, 4)
  | .sltu d a b => let x := s.g a; let y := s.g b; some (d, if x.toNat < y.toNat then 1 else 0, 4)
  | .min d a b => let x := s.g a; let y := s.g b; some (d, if x.toInt ≤ y.toInt then x else y, 4)
  | .max d a b => let x := s.g a; let y := s.g b; some (d, if x.toInt ≤ y.toInt then y else x, 4)
  | .minu d a b => let x := s.g a; let y := s.g b; some (d, if x.toNat ≤ y.toNat then x else y, 4)
  | .maxu d a b => let x := s.g a; let y := s.g b; some (d, if x.toNat ≤ y.toNat then y else x, 4)
  | .mul d a b => let x := s.g a; let y := s.g b; some (d, x * y, 4)
  | .mulh d a b => let x := s.g a; let y := s.g b; some (d, BitVec.ofInt 64 (x.toInt * y.toInt / 2 ^ 64), 4)
  | .mulhu d a b => let x := s.g a; let y := s.g b; some (d, BitVec.ofNat 64 (x.toNat * y.toNat / 2 ^ 64), 4)
  | .mulhsu d a b => let x := s.g a; let y := s.g b; some (d, BitVec.ofInt 64 (x.toInt * (y.toNat : Int) / 2 ^ 64), 4)
  | .div d a b => let x := s.g a; let y := s.g b; some (d, divV x y, 4)
  | .divu d a b => let x := s.g a; let y := s.g b; some (d, divuV x y, 4)
  | .rem d a b => let x := s.g a; let y := s.g b; some (d, remV x y, 4)
  | .remu d a b => let x := s.g a; let y := s.g b; some (d, remuV x y, 4)
  | .addw d a b => let x := s.g a; let y := s.g b; some (d, ((x + y).setWidth 32).signExtend 64, 4)
  | .subw d a b => let x := s.g a; let y := s.g b; some (d, ((x - y).setWidth 32).signExtend 64, 4)
  | .addLit d a lit => let x := s.g a; let y := lit.signExtend 64; some (d, x + y, 8)
  | .subLit d a lit => let x := s.g a; let y := lit.signExtend 64; some (d, x - y, 8)
  | .andLit d a lit => let x := s.g a; let y := lit.signExtend 64; some (d, x &&& y, 8)
  | .orLit d a lit => let x := s.g a; let y := lit.signExtend 64; some (d, x ||| y, 8)
  | .xorLit d a lit => let x := s.g a; let y := lit.signExtend 64; some (d, x ^^^ y, 8)
  | .andnLit d a lit => let x := s.g a; let y := lit.signExtend 64; some (d, x &&& ~~~y, 8)
  | .sllLit d a lit => let x := s.g a; let y := lit.signExtend 64; some (d, sllV x y, 8)
  | .srlLit d a lit => let x := s.g a; let y := lit.signExtend 64; some (d, srlV x y, 8)
  | .sraLit d a lit => let x := s.g a; let y := lit.signExtend 64; some (d, sraV x y, 8)
  | .rorLit d a lit => let x := s.g a; let y := lit.signExtend 64; some (d, x.rotateRight (y.toNat % 64), 8)
  | .sltLit d a lit => let x := s.g a; let y := lit.signExtend 64; some (d, if x.toInt < y.toInt then 1 else 0, 8)
  | .sltuLit d a lit => let x := s.g a; let y := lit.signExtend 64; some (d, if x.toNat < y.toNat then 1 else 0, 8)
  | .minLit d a lit => let x := s.g a; let y := lit.signExtend 64; some (d, if x.toInt ≤ y.toInt then x else y, 8)
  | .maxLit d a lit => let x := s.g a; let y := lit.signExtend 64; some (d, if x.toInt ≤ y.toInt then y else x, 8)
  | .minuLit d a lit => let x := s.g a; let y := lit.signExtend 64; some (d, if x.toNat ≤ y.toNat then x else y, 8)
  | .maxuLit d a lit => let x := s.g a; let y := lit.signExtend 64; some (d, if x.toNat ≤ y.toNat then y else x, 8)
  | .mulLit d a lit => let x := s.g a; let y := lit.signExtend 64; some (d, x * y, 8)
  | .mulhLit d a lit => let x := s.g a; let y := lit.signExtend 64; some (d, BitVec.ofInt 64 (x.toInt * y.toInt / 2 ^ 64), 8)
  | .mulhuLit d a lit => let x := s.g a; let y := lit.signExtend 64; some (d, BitVec.ofNat 64 (x.toNat * y.toNat / 2 ^ 64), 8)
  | .mulhsuLit d a lit => let x := s.g a; let y := lit.signExtend 64; some (d, BitVec.ofInt 64 (x.toInt * (y.toNat : Int) / 2 ^ 64), 8)
  | .divLit d a lit => let x := s.g a; let y := lit.signExtend 64; some (d, divV x y, 8)
  | .divuLit d a lit => let x := s.g a; let y := lit.signExtend 64; some (d, divuV x y, 8)
  | .remLit d a lit => let x := s.g a; let y := lit.signExtend 64; some (d, remV x y, 8)
  | .remuLit d a lit => let x := s.g a; let y := lit.signExtend 64; some (d, remuV x y, 8)
  | .addwLit d a lit => let x := s.g a; let y := lit.signExtend 64; some (d, ((x + y).setWidth 32).signExtend 64, 8)
  | .subwLit d a lit => let x := s.g a; let y := lit.signExtend 64; some (d, ((x - y).setWidth 32).signExtend 64, 8)
  | .clz d a => some (d, BitVec.ofNat 64 (if s.g a = 0 then 64 else 63 - Nat.log2 (s.g a).toNat), 4)
  | .ctz d a => some (d, BitVec.ofNat 64 (((List.range 64).find? (fun i => (s.g a).getLsbD i)).getD 64), 4)
  | .popc d a => some (d, BitVec.ofNat 64 ((List.range 64).filter (fun i => (s.g a).getLsbD i)).length, 4)
  | .sextB d a => some (d, ((s.g a).setWidth 8).signExtend 64, 4)
  | .sextH d a => some (d, ((s.g a).setWidth 16).signExtend 64, 4)
  | .sextW d a => some (d, ((s.g a).setWidth 32).signExtend 64, 4)
  | .zextH d a => some (d, ((s.g a).setWidth 16).setWidth 64, 4)
  | .zextW d a => some (d, ((s.g a).setWidth 32).setWidth 64, 4)
  | .addi d a n => some (d, s.g a + n.signExtend 64, 4)
  | .andi d a n => some (d, s.g a &&& n.setWidth 64, 4)
  | .ori d a n => some (d, s.g a ||| n.setWidth 64, 4)
  | .xori d a n => some (d, s.g a ^^^ n.setWidth 64, 4)
  | .slti d a n => some (d, if (s.g a).toInt < (n.signExtend 64).toInt then 1 else 0, 4)
  | .sltiu d a n => some (d, if (s.g a).toNat < (n.signExtend 64).toNat then 1 else 0, 4)
  | .slli d a n => some (d, sllV (s.g a) (n.setWidth 64), 4)
  | .srli d a n => some (d, srlV (s.g a) (n.setWidth 64), 4)
  | .srai d a n => some (d, sraV (s.g a) (n.setWidth 64), 4)
  | .rori d a n => some (d, (s.g a).rotateRight n.toNat, 4)
  | .lui d n => some (d, n.signExtend 64 <<< 16, 4)
  | .addpc d n => some (d, s.me.pc + n.signExtend 64 <<< 2, 4)
  | _ => none

/-- The multiply and the divide group, with their latencies (05 R86). -/
def longInt (i : Instr) : Option (Reg × Nat) :=
  match i with
  | .mul d _ _ => some (d, 3)
  | .mulLit d _ _ => some (d, 3)
  | .mulh d _ _ => some (d, 3)
  | .mulhLit d _ _ => some (d, 3)
  | .mulhu d _ _ => some (d, 3)
  | .mulhuLit d _ _ => some (d, 3)
  | .mulhsu d _ _ => some (d, 3)
  | .mulhsuLit d _ _ => some (d, 3)
  | .div d _ _ => some (d, 36)
  | .divLit d _ _ => some (d, 36)
  | .divu d _ _ => some (d, 36)
  | .divuLit d _ _ => some (d, 36)
  | .rem d _ _ => some (d, 36)
  | .remLit d _ _ => some (d, 36)
  | .remu d _ _ => some (d, 36)
  | .remuLit d _ _ => some (d, 36)
  | _ => none

/-! ### Scalar floating point (05 R92-R96) -/

/-- A floating-point result to be rounded: destination, bytes, format, exact value with the flags of its operation, and the
exact tangent of each plane. -/
structure FRound where
  d   : Reg
  len : Nat
  fmt : Fmt
  x   : XR × Flags
  tan : Nat → XR × Flags

/-- The exact values of 05 R92 and the tangents of R96 for the instructions that round once. -/
def fpRounded (i : Instr) (s : State) : Option FRound :=
  match i with
  | .fadd d a b p => let x := s.farg p a; let y := s.farg p b
    some ⟨d, 4, fpFmt p, xadd (s.me.rm == 3) x.val y.val, (foAdd (fpFmt p) s.me.rm x y (s.farg p d)).2⟩
  | .faddLit d a p lit => let x := s.farg p a; let y := flit p lit
    some ⟨d, 8, fpFmt p, xadd (s.me.rm == 3) x.val y.val, (foAdd (fpFmt p) s.me.rm x y (s.farg p d)).2⟩
  | .fsub d a b p => let x := s.farg p a; let y := s.farg p b
    some ⟨d, 4, fpFmt p, xadd (s.me.rm == 3) x.val (xneg y.val), (foSub (fpFmt p) s.me.rm x y (s.farg p d)).2⟩
  | .fsubLit d a p lit => let x := s.farg p a; let y := flit p lit
    some ⟨d, 8, fpFmt p, xadd (s.me.rm == 3) x.val (xneg y.val), (foSub (fpFmt p) s.me.rm x y (s.farg p d)).2⟩
  | .fmul d a b p => let x := s.farg p a; let y := s.farg p b
    some ⟨d, 4, fpFmt p, xmul x.val y.val, (foMul (fpFmt p) s.me.rm x y (s.farg p d)).2⟩
  | .fmulLit d a p lit => let x := s.farg p a; let y := flit p lit
    some ⟨d, 8, fpFmt p, xmul x.val y.val, (foMul (fpFmt p) s.me.rm x y (s.farg p d)).2⟩
  | .fdiv d a b p => let x := s.farg p a; let y := s.farg p b
    some ⟨d, 4, fpFmt p, xdiv x.val y.val, (foDiv (fpFmt p) s.me.rm x y (s.farg p d)).2⟩
  | .fdivLit d a p lit => let x := s.farg p a; let y := flit p lit
    some ⟨d, 8, fpFmt p, xdiv x.val y.val, (foDiv (fpFmt p) s.me.rm x y (s.farg p d)).2⟩
  | .fmadd d a b p => let x := s.farg p a; let y := s.farg p b
    some ⟨d, 4, fpFmt p, xfma (s.me.rm == 3) x.val y.val (s.farg p d).val, (foFma false false (fpFmt p) s.me.rm x y (s.farg p d)).2⟩
  | .fmaddLit d a p lit => let x := s.farg p a; let y := flit p lit
    some ⟨d, 8, fpFmt p, xfma (s.me.rm == 3) x.val y.val (s.farg p d).val, (foFma false false (fpFmt p) s.me.rm x y (s.farg p d)).2⟩
  | .fmsub d a b p => let x := s.farg p a; let y := s.farg p b
    some ⟨d, 4, fpFmt p, xfma (s.me.rm == 3) x.val y.val (xneg (s.farg p d).val), (foFma false true (fpFmt p) s.me.rm x y (s.farg p d)).2⟩
  | .fmsubLit d a p lit => let x := s.farg p a; let y := flit p lit
    some ⟨d, 8, fpFmt p, xfma (s.me.rm == 3) x.val y.val (xneg (s.farg p d).val), (foFma false true (fpFmt p) s.me.rm x y (s.farg p d)).2⟩
  | .fnmadd d a b p => let x := s.farg p a; let y := s.farg p b
    some ⟨d, 4, fpFmt p, fneg1 (xfma (s.me.rm == 3) x.val y.val (s.farg p d).val), (foFma true false (fpFmt p) s.me.rm x y (s.farg p d)).2⟩
  | .fnmaddLit d a p lit => let x := s.farg p a; let y := flit p lit
    some ⟨d, 8, fpFmt p, fneg1 (xfma (s.me.rm == 3) x.val y.val (s.farg p d).val), (foFma true false (fpFmt p) s.me.rm x y (s.farg p d)).2⟩
  | .fsqrt d a p => some ⟨d, 4, fpFmt p, xsqrt (s.farg p a).val, (foSqrt (fpFmt p) s.me.rm (s.farg p a) (s.farg p a) (s.farg p d)).2⟩
  | .fcvtfS d a p => some ⟨d, 4, fpFmt p, (xint (if p = 0 then ((s.g a).setWidth 32).toInt else (s.g a).toInt) 0, 0), fun _ => (.zero false, 0)⟩
  | .fcvtfZ d a p => some ⟨d, 4, fpFmt p, (xint (if p = 0 then (((s.g a).setWidth 32).toNat : Int) else ((s.g a).toNat : Int)) 0, 0), fun _ => (.zero false, 0)⟩
  | .fcvtp d a p => let q : BitVec 2 := if p = 0 then 1 else 0
    some ⟨d, 4, fpFmt p, ((s.farg q a).val, 0), fun n => ((s.farg q a).tan n, 0)⟩
  | _ => none

/-- The rounding mode as binary32 and binary64 take it: stochastic acts as RNE (04 R76). -/
def rmOf (s : State) : Nat := if s.me.rm = 5 then 0 else s.me.rm

/-- FMODE after a primal result's flags and those of the planes. -/
def fmodeAfter (s : State) (f : Flags) (g : Nat → Flags) : Word :=
  s.me.dual.foldl (fun w p => orFlags w (g p)) (orFlags s.me.a.fmode f)

/-- Integer results of floating-point instructions, with their flags (05 R94, R95). -/
def fpToWord (i : Instr) (s : State) : Option (Reg × Nat × Word × Flags) :=
  let nv (x y : FArg) : Flags := if x.val.isNan || y.val.isNan then fNV else 0
  let le (x y : FArg) : Bool := xlt x.val y.val || xeq x.val y.val
  let cv (p : BitVec 2) (sg : Bool) (m : Nat) (x : XR) : Word × Flags :=
    let n := if p = 0 then 32 else 64
    let r := xToInt m (if sg then -(2 ^ (n - 1)) else 0) (if sg then 2 ^ (n - 1) - 1 else 2 ^ n - 1) x
    (BitVec.ofInt 64 r.1, r.2)
  match i with
  | .feq d a b p => let x := s.farg p a; let y := s.farg p b; some (d, 4, boolW (xeq x.val y.val), 0)
  | .feqLit d a p lit => let x := s.farg p a; let y := flit p lit; some (d, 8, boolW (xeq x.val y.val), 0)
  | .flt d a b p => let x := s.farg p a; let y := s.farg p b; some (d, 4, boolW (xlt x.val y.val), nv x y)
  | .fltLit d a p lit => let x := s.farg p a; let y := flit p lit; some (d, 8, boolW (xlt x.val y.val), nv x y)
  | .fle d a b p => let x := s.farg p a; let y := s.farg p b; some (d, 4, boolW (le x y), nv x y)
  | .fleLit d a p lit => let x := s.farg p a; let y := flit p lit; some (d, 8, boolW (le x y), nv x y)
  | .fclass d a p => some (d, 4, classWord (fpFmt p) (s.farg p a).code, 0)
  | .fcvtS d a p => let r := cv p true s.me.rm (s.farg p a).val; some (d, 4, r.1, r.2)
  | .fcvtZ d a p => let r := cv p false s.me.rm (s.farg p a).val; some (d, 4, r.1, r.2)
  | .fcvtSt d a p => let r := cv p true 2 (s.farg p a).val; some (d, 4, r.1, r.2)
  | _ => none

/-- Codes chosen or moved without rounding: FMIN, FMAX and the sign moves (05 R93), with the exact tangents of R96. -/
def fpMoved (i : Instr) (s : State) : Option (Reg × Nat × Fmt × Nat × (Nat → XR)) :=
  let mm (mx : Bool) (f : Fmt) (x y : FArg) : Nat × (Nat → XR) :=
    let r := f.minmax mx x.code y.code
    (r.1, fun n => if r.2 = 1 then x.tan n else if r.2 = 2 then y.tan n else .zero false)
  let sg (h : Bool → Bool → Bool) (f : Fmt) (x y : FArg) : Nat × (Nat → XR) :=
    let sx := decide (x.code / 2 ^ (f.eb + f.mb) % 2 = 1)
    let r := h sx (decide (y.code / 2 ^ (f.eb + f.mb) % 2 = 1))
    (x.code % 2 ^ (f.eb + f.mb) + (if r then 2 ^ (f.eb + f.mb) else 0), fun n => if r = sx then x.tan n else xneg (x.tan n))
  match i with
  | .fmin d a b p => let r := mm false (fpFmt p) (s.farg p a) (s.farg p b); some (d, 4, fpFmt p, r.1, r.2)
  | .fminLit d a p lit => let r := mm false (fpFmt p) (s.farg p a) (flit p lit); some (d, 8, fpFmt p, r.1, r.2)
  | .fmax d a b p => let r := mm true (fpFmt p) (s.farg p a) (s.farg p b); some (d, 4, fpFmt p, r.1, r.2)
  | .fmaxLit d a p lit => let r := mm true (fpFmt p) (s.farg p a) (flit p lit); some (d, 8, fpFmt p, r.1, r.2)
  | .fsgnj d a b p => let r := sg (fun _ y => y) (fpFmt p) (s.farg p a) (s.farg p b); some (d, 4, fpFmt p, r.1, r.2)
  | .fsgnjLit d a p lit => let r := sg (fun _ y => y) (fpFmt p) (s.farg p a) (flit p lit); some (d, 8, fpFmt p, r.1, r.2)
  | .fsgnjn d a b p => let r := sg (fun _ y => !y) (fpFmt p) (s.farg p a) (s.farg p b); some (d, 4, fpFmt p, r.1, r.2)
  | .fsgnjnLit d a p lit => let r := sg (fun _ y => !y) (fpFmt p) (s.farg p a) (flit p lit); some (d, 8, fpFmt p, r.1, r.2)
  | .fsgnjx d a b p => let r := sg (fun x y => x != y) (fpFmt p) (s.farg p a) (s.farg p b); some (d, 4, fpFmt p, r.1, r.2)
  | .fsgnjxLit d a p lit => let r := sg (fun x y => x != y) (fpFmt p) (s.farg p a) (flit p lit); some (d, 8, fpFmt p, r.1, r.2)
  | _ => none

end Sys2Proof.Claims

open Sys2Proof Sys2Proof.Machine

/-- Every instruction of 05 R88-R90, in every form, completes with the value that the rules give, zero in the planes acted on
(R91), no flag and no trap, and changes nothing else. The multiply and the divide group leave their result not ready for 3 and 36
cc, one more for each plane acted on, whatever was delaying it before, and a division takes the core's divider for 36 cc (R86). -/
def Obligations.IntegerResults : Prop :=
  (∀ (i : Instr) (s : State) (d : Reg) (w : Word) (len : Nat), Claims.intValue i s = some (d, w, len) → s.stepping = false →
    ∃ t, exec i s = .next t ∧ t.me.a.gp 0 d = (if d = 0 then 0 else w) ∧ (∀ p ∈ s.me.dual, t.me.a.gp p d = 0) ∧
      t.me.a.fmode = s.me.a.fmode ∧ t.me.a.srseed = s.me.a.srseed ∧ s.RegStep t len (s.Dest d) NoReg NoMask) ∧
  (∀ (i : Instr) (s : State) (d : Reg) (lat : Nat), Claims.longInt i = some (d, lat) → s.stepping = false →
    ∃ t, exec i s = .next t ∧
      t.me.busy = { cls := 0, r := d.toNat, due := some (s.cyc + (lat + s.me.dual.length)) } ::
        (s.me.renew [(0, d.toNat)]).busy ∧
      (lat = 36 → (t.core (coreOf s.cur)).divAt = s.cyc + 36))


/-- The instructions that round once: the exact value of 05 R92, rounded by round(x, fmt, FMODE.RM), is the result; its flags
and those of the tangents are set; each plane acted on gets its tangent, rounded once (R96). The sign that FNMADD gives an exact zero
sum is the model's choice (log 7). -/
def Obligations.FloatRoundedResults : Prop :=
  ∀ (i : Instr) (s : State) (r : Claims.FRound), Claims.fpRounded i s = some r → s.stepping = false →
    ∃ t, exec i s = .next t ∧
      t.me.a.gp 0 r.d = (if r.d = 0 then 0 else BitVec.ofNat 64 (r.fmt.round (Claims.rmOf s) 0 r.x.1).1) ∧
      (∀ p ∈ s.me.dual, t.me.a.gp p r.d =
        (if r.d = 0 then 0 else BitVec.ofNat 64 (r.fmt.round (Claims.rmOf s) 0 (r.tan p).1).1)) ∧
      t.me.a.fmode = Claims.fmodeAfter s (r.x.2 ||| (r.fmt.round (Claims.rmOf s) 0 r.x.1).2)
        (fun p => (r.tan p).2 ||| (r.fmt.round (Claims.rmOf s) 0 (r.tan p).1).2) ∧
      s.RegStep t r.len (s.Dest r.d) NoReg NoMask

/-- Comparisons, FCLASS and conversions to integers write the word and the flags of 05 R94 and R95, and zero to the planes acted on
(R96). FMIN, FMAX and the sign moves write the code that R93 chooses, set no flag for it, and give each plane acted on its tangent,
rounded once (R96). -/
def Obligations.FloatComparedAndMoved : Prop :=
  (∀ (i : Instr) (s : State) (d : Reg) (len : Nat) (w : Word) (f : Flags), Claims.fpToWord i s = some (d, len, w, f) →
    s.stepping = false →
    ∃ t, exec i s = .next t ∧ t.me.a.gp 0 d = (if d = 0 then 0 else w) ∧ (∀ p ∈ s.me.dual, t.me.a.gp p d = 0) ∧
      t.me.a.fmode = orFlags s.me.a.fmode f ∧ s.RegStep t len (s.Dest d) NoReg NoMask) ∧
  (∀ (i : Instr) (s : State) (d : Reg) (len : Nat) (f : Fmt) (c : Nat) (tan : Nat → XR),
    Claims.fpMoved i s = some (d, len, f, c, tan) → s.stepping = false →
    ∃ t, exec i s = .next t ∧ t.me.a.gp 0 d = (if d = 0 then 0 else BitVec.ofNat 64 c) ∧
      (∀ p ∈ s.me.dual, t.me.a.gp p d = (if d = 0 then 0 else BitVec.ofNat 64 (f.round (Claims.rmOf s) 0 (tan p)).1)) ∧
      t.me.a.fmode = Claims.fmodeAfter s 0 (fun p => (f.round (Claims.rmOf s) 0 (tan p)).2) ∧
      s.RegStep t len (s.Dest d) NoReg NoMask)


namespace Sys2Proof.Claims

open Sys2Proof.Machine

/-! ### Transfers and loops (05 R104-R108) -/

/-- The condition and the word distance of a conditional branch (05 R104). -/
def branchOf (i : Instr) (s : State) : Option (Bool × BitVec 16) :=
  match i with
  | .beq a b o => some (decide (s.g a = s.g b), o)
  | .bne a b o => some (decide (s.g a ≠ s.g b), o)
  | .blt a b o => some (decide ((s.g a).toInt < (s.g b).toInt), o)
  | .bge a b o => some (decide ((s.g b).toInt ≤ (s.g a).toInt), o)
  | .bltu a b o => some (decide ((s.g a).toNat < (s.g b).toNat), o)
  | .bgeu a b o => some (decide ((s.g b).toNat ≤ (s.g a).toNat), o)
  | _ => none

/-- Is a loop level armed? -/
def armed (a : Arch) (l : Nat) : Bool := a.lstat.getLsbD l

/-- A taken transfer to `target` (03 R61; 05 R107): the DUAL window ends; at privilege 0 a level stays armed only if its span
holds the target; the counts and spans keep their values; `G` tells which g registers may change. -/
structure Jumps (s t : State) (target : Word) (G : Reg → Nat → Prop) : Prop where
  pc : t.me.pc = target
  regs : s.me.a.Keeps t.me.a G NoReg NoMask
  fmode : t.me.a.fmode = s.me.a.fmode
  srseed : t.me.a.srseed = s.me.a.srseed
  status : t.me.a.status = noWindow s.me.a.status
  ls : t.me.a.ls = s.me.a.ls
  le : t.me.a.le = s.me.a.le
  lc : t.me.a.lc = s.me.a.lc
  arms : ∀ l, l < 2 → armed t.me.a l = (armed s.me.a l &&
    (!s.user || (decide (vget s.me.a.ls l 0 ≤ target) && decide (target ≤ vget s.me.a.le l 0))))
  tset : s.me.Keeps t.me
  rest : s.Elsewhere t

/-- The loop words of a level as LSPAN sets them (05 R105). -/
def spanned (s : State) (l : Nat) (le c : Word) : State :=
  s.upA (fun a => { a with ls := vset a.ls l (s.me.pc + 4), le := vset a.le l le, lc := vset a.lc l c
                           lstat := putBits a.lstat l 1 (if c = 0 then 0 else 1) })

/-- What a taken transfer leaves of the loop level beside `l`: its words, and its arm where its span holds the target (05 R107). -/
def otherLevel (s t : State) (l : Nat) (target : Word) : Prop :=
  vget t.me.a.ls (1 - l) 0 = vget s.me.a.ls (1 - l) 0 ∧ vget t.me.a.le (1 - l) 0 = vget s.me.a.le (1 - l) 0 ∧
    vget t.me.a.lc (1 - l) 0 = vget s.me.a.lc (1 - l) 0 ∧
    armed t.me.a (1 - l) = (armed s.me.a (1 - l) && (!s.user ||
      (decide (vget s.me.a.ls (1 - l) 0 ≤ target) && decide (target ≤ vget s.me.a.le (1 - l) 0))))

/-- A level whose end lies in the words of an instruction of `len` bytes. -/
def ends (s : State) (len l : Nat) : Bool :=
  armed s.me.a l && (decide (vget s.me.a.le l 0 = s.me.pc) || (decide (len = 8) && decide (vget s.me.a.le l 0 = s.me.pc + 4)))

/-- The count of a level. -/
def count (a : Arch) (l : Nat) : Nat := (vget a.lc l 0).toNat

end Sys2Proof.Claims

/-- Conditional branches are taken to pc + sext(off16)·4 exactly when the condition of 05 R104 holds, with the effects of a transfer
on the window and the loop levels; otherwise execution goes on at the next instruction with the window closed. JAL and JALR link
and jump, the link's planes unchanged (05 R104); a JALR target that is not word-aligned raises MISALIGN with the target in TVAL,
and the link is not written (03 R43). -/
def Obligations.Transfers : Prop :=
  (∀ (i : Instr) (s : State) (c : Bool) (o : BitVec 16), Claims.branchOf i s = some (c, o) → s.stepping = false →
    ∃ t, exec i s = .next t ∧
      (c = true → Claims.Jumps s t (s.me.pc + o.signExtend 64 <<< 2) NoReg) ∧
      (c = false → s.RegStep t 4 NoReg NoReg NoMask ∧ t.me.a.status = noWindow s.me.a.status ∧
        t.me.a.fmode = s.me.a.fmode ∧ t.me.a.srseed = s.me.a.srseed)) ∧
  (∀ (d : Reg) (o : BitVec 21) (s : State), s.stepping = false →
    ∃ t, exec (.jal d o) s = .next t ∧ t.me.a.gp 0 d = (if d = 0 then 0 else s.me.pc + 4) ∧
      Claims.Jumps s t (s.me.pc + o.signExtend 64 <<< 2) (fun r p => r = d ∧ p = 0)) ∧
  (∀ (d a : Reg) (n : BitVec 16) (s : State), s.stepping = false → (s.g a + n.signExtend 64).toNat % 4 = 0 →
    ∃ t, exec (.jalr d a n) s = .next t ∧ t.me.a.gp 0 d = (if d = 0 then 0 else s.me.pc + 4) ∧
      Claims.Jumps s t (s.g a + n.signExtend 64) (fun r p => r = d ∧ p = 0)) ∧
  (∀ (d a : Reg) (n : BitVec 16) (s : State), (s.g a + n.signExtend 64).toNat % 4 ≠ 0 →
    exec (.jalr d a n) s = .next (s.trap 3 (s.g a + n.signExtend 64)))


/-- LSPAN sets LS, LE and LC of its level; a count of 0 leaves it disarmed and goes past the body, any other arms it and goes on
(05 R105). LEXIT on an armed level disarms it and goes past its end as a transfer; LDIS disarms; on a disarmed level both only
advance the pc (05 R108). -/
def Obligations.LoopInstructions : Prop :=
  (∀ (l c : BitVec 1) (b n : BitVec 12) (s : State), (Instr.lspan l c b n).wf = true → s.stepping = false →
    let k : Word := if c = 1 then BitVec.ofNat 64 ((s.g (n.setWidth 5)).toNat % 2 ^ 32) else n.setWidth 64
    let le : Word := s.me.pc + BitVec.ofNat 64 (4 * b.toNat)
    ∃ t, exec (.lspan l c b n) s = .next t ∧ vget t.me.a.ls l.toNat 0 = s.me.pc + 4 ∧ vget t.me.a.le l.toNat 0 = le ∧
      t.me.a.status = noWindow s.me.a.status ∧
      (k = 0 → vget t.me.a.lc l.toNat 0 = 0 ∧ Claims.armed t.me.a l.toNat = false ∧ t.me.pc = le + 4 ∧
        Claims.otherLevel s t l.toNat (le + 4)) ∧
      (k ≠ 0 → vget t.me.a.lc l.toNat 0 = k ∧ Claims.armed t.me.a l.toNat = true ∧
        t.me.pc = (Claims.spanned s l.toNat le k).nextPc 4) ∧
      s.me.a.Keeps t.me.a NoReg NoReg NoMask ∧ s.me.Keeps t.me ∧ s.Elsewhere t) ∧
  (∀ (l : BitVec 1) (s : State), s.stepping = false → Claims.armed s.me.a l.toNat = true →
    ∃ t, exec (.lexit l) s = .next t ∧ t.me.pc = vget s.me.a.le l.toNat 0 + 4 ∧ Claims.armed t.me.a l.toNat = false ∧
      Claims.otherLevel s t l.toNat (vget s.me.a.le l.toNat 0 + 4) ∧
      t.me.a.lc = s.me.a.lc ∧ t.me.a.status = noWindow s.me.a.status ∧ s.me.a.Keeps t.me.a NoReg NoReg NoMask ∧
      s.me.Keeps t.me ∧ s.Elsewhere t) ∧
  (∀ (l : BitVec 1) (s : State), s.stepping = false → Claims.armed s.me.a l.toNat = false →
    ∃ t, exec (.lexit l) s = .next t ∧ vget t.me.a.lc l.toNat 0 = vget s.me.a.lc l.toNat 0 ∧
      t.me.a.status = noWindow s.me.a.status ∧ s.RegStep t 4 NoReg NoReg NoMask) ∧
  (∀ (l : BitVec 1) (s : State), s.stepping = false →
    ∃ t, exec (.ldis l) s = .next t ∧ Claims.armed t.me.a l.toNat = false ∧
      t.me.pc = (s.upA (fun a => { a with lstat := putBits a.lstat l.toNat 1 0 })).nextPc 4 ∧
      vget t.me.a.lc l.toNat 0 = vget s.me.a.lc l.toNat 0 ∧ t.me.a.status = noWindow s.me.a.status ∧
      s.me.a.Keeps t.me.a NoReg NoReg NoMask ∧ s.me.Keeps t.me ∧ s.Elsewhere t)


/-- The loop check of 05 R106 after any integer instruction at privilege 0: level 1 before level 0, a count above one goes back
to the start, the last pass disarms and falls through. -/
def Obligations.LoopEndChecks : Prop :=
  (∀ (i : Instr) (s : State) (d : Reg) (w : Word) (len : Nat), Claims.intValue i s = some (d, w, len) → s.user = false →
    ∃ t, exec i s = .next t ∧ t.me.pc = s.me.pc + BitVec.ofNat 64 len ∧ t.me.a.lc = s.me.a.lc ∧ t.me.a.lstat = s.me.a.lstat) ∧
  (∀ (i : Instr) (s : State) (d : Reg) (w : Word) (len : Nat), Claims.intValue i s = some (d, w, len) → s.stepping = false →
    s.user = true →
    ∃ t, exec i s = .next t ∧
      let e1 := Claims.ends s len 1
      let e0 := Claims.ends s len 0
      let c1 := Claims.count s.me.a 1
      let c0 := Claims.count s.me.a 0
      let outer : Prop := e1 = false ∨ c1 ≤ 1
      (e1 = true → 1 < c1 → t.me.pc = vget s.me.a.ls 1 0 ∧ Claims.count t.me.a 1 = c1 - 1 ∧ Claims.armed t.me.a 1 = true ∧
        Claims.count t.me.a 0 = c0 ∧ Claims.armed t.me.a 0 = Claims.armed s.me.a 0) ∧
      (e1 = true → c1 ≤ 1 → Claims.count t.me.a 1 = 0 ∧ Claims.armed t.me.a 1 = false) ∧
      (e1 = false → Claims.count t.me.a 1 = c1 ∧ Claims.armed t.me.a 1 = Claims.armed s.me.a 1) ∧
      (outer → e0 = true → 1 < c0 → t.me.pc = vget s.me.a.ls 0 0 ∧ Claims.count t.me.a 0 = c0 - 1 ∧
        Claims.armed t.me.a 0 = true) ∧
      (outer → e0 = true → c0 ≤ 1 → t.me.pc = s.me.pc + BitVec.ofNat 64 len ∧ Claims.count t.me.a 0 = 0 ∧
        Claims.armed t.me.a 0 = false) ∧
      (outer → e0 = false → t.me.pc = s.me.pc + BitVec.ofNat 64 len ∧ Claims.count t.me.a 0 = c0 ∧
        Claims.armed t.me.a 0 = Claims.armed s.me.a 0))

/-- DUAL at privilege 0 with DMODE.ON = 0 opens a window of win + 1 instructions on its planes; every covered instruction that
completes counts it down and the last one closes it; where DUAL is a NOP it counts as any other (03 R60, R62). DGET reads a plane
into the primal, DSET writes a primal into a plane, DCLR and DCLR.ALL clear planes; nothing else changes (15 R297-R300). -/
def Obligations.DualInstructions : Prop :=
  (∀ (w : BitVec 3) (p : BitVec 2) (s : State), s.stepping = false → s.me.priv = 0 → s.me.a.dmode.getLsbD 0 = false →
    (s.user = true → (loopEnd s.me.a s.me.pc 4).2.2 = false) →
    ∃ t, exec (.dual w p) s = .next t ∧ t.me.dwin = w.toNat ∧ t.me.dact = true ∧ t.me.dpln = p.toNat ∧
      s.RegStep t 4 NoReg NoReg NoMask) ∧
  (∀ (w : BitVec 3) (p : BitVec 2) (s : State), s.stepping = false → (s.me.priv ≠ 0 ∨ s.me.a.dmode.getLsbD 0 = true) →
    (s.user = true → (loopEnd s.me.a s.me.pc 4).2.2 = false) →
    ∃ t, exec (.dual w p) s = .next t ∧ t.me.a.status = countWindow s.me.a.status ∧ s.RegStep t 4 NoReg NoReg NoMask) ∧
  (∀ (i : Instr) (s : State) (d : Reg) (w : Word) (len : Nat), Claims.intValue i s = some (d, w, len) → s.stepping = false →
    (s.user = true → (loopEnd s.me.a s.me.pc len).2.2 = false) → s.me.dact = true →
    ∃ t, exec i s = .next t ∧ (s.me.dwin = 0 → t.me.dact = false) ∧
      (s.me.dwin ≠ 0 → t.me.dact = true ∧ t.me.dwin = s.me.dwin - 1 ∧ t.me.dpln = s.me.dpln)) ∧
  (∀ (d a : Reg) (c : BitVec 1) (p : BitVec 2) (s : State), (Instr.dget d a c p).wf = true → s.stepping = false →
    ∃ t, exec (.dget d a c p) s = .next t ∧ t.me.a.fmode = s.me.a.fmode ∧
      (c = 0 → t.me.a.gp 0 d = (if d = 0 then 0 else s.me.a.gp p.toNat a) ∧
        s.RegStep t 4 (fun r q => r = d ∧ q = 0) NoReg NoMask) ∧
      (c = 1 → t.me.a.vp 0 d = s.me.a.vp p.toNat a ∧ s.RegStep t 4 NoReg (fun r q => r = d ∧ q = 0) NoMask)) ∧
  (∀ (d a : Reg) (c : BitVec 1) (p : BitVec 2) (s : State), (Instr.dset d a c p).wf = true → s.stepping = false →
    ∃ t, exec (.dset d a c p) s = .next t ∧ t.me.a.fmode = s.me.a.fmode ∧
      (c = 0 → t.me.a.gp p.toNat d = (if d = 0 then 0 else s.me.a.gp 0 a) ∧
        s.RegStep t 4 (fun r q => r = d ∧ q = p.toNat) NoReg NoMask) ∧
      (c = 1 → t.me.a.vp p.toNat d = s.me.a.vp 0 a ∧ s.RegStep t 4 NoReg (fun r q => r = d ∧ q = p.toNat) NoMask)) ∧
  (∀ (d : Reg) (c : BitVec 1) (p : BitVec 2) (s : State), s.stepping = false →
    ∃ t, exec (.dclr d c p) s = .next t ∧ t.me.a.fmode = s.me.a.fmode ∧ (c = 0 → ∀ q ∈ planesOf p.toNat, t.me.a.gp q d = 0) ∧
      (c = 1 → ∀ q ∈ planesOf p.toNat, t.me.a.vp q d = 0) ∧
      s.RegStep t 4 (fun r q => c = 0 ∧ r = d ∧ q ∈ planesOf p.toNat) (fun r q => c = 1 ∧ r = d ∧ q ∈ planesOf p.toNat) NoMask) ∧
  (∀ (c : BitVec 1) (p : BitVec 2) (s : State), s.stepping = false →
    ∃ t, exec (.dclrAll c p) s = .next t ∧ t.me.a.fmode = s.me.a.fmode ∧ (c = 0 → ∀ r, ∀ q ∈ planesOf p.toNat, t.me.a.gp q r = 0) ∧
      (c = 1 → ∀ r, ∀ q ∈ planesOf p.toNat, t.me.a.vp q r = 0) ∧
      s.RegStep t 4 (fun _ q => c = 0 ∧ q ∈ planesOf p.toNat) (fun _ q => c = 1 ∧ q ∈ planesOf p.toNat) NoMask)


namespace Sys2Proof.Claims

open Sys2Proof.Machine

/-! ### Vector lanes (06 R113-R135) -/

/-- What a vector instruction writes lane by lane: destination, lane width, lanes, which are written, the primal code of each
and the code of each plane acted on. -/
structure Lanes where
  d    : Reg
  w    : Nat
  n    : Nat
  on   : Nat → Bool
  prim : Nat → Nat
  tan  : Nat → Nat → Nat

/-- An integer in a lane of `w` bits. -/
def inLane (w : Nat) (z : Int) : Nat := (z % 2 ^ w).toNat

/-- A lane-wise operation with a vector operand b: a floating-point operation for types 0-2, an integer one for the rest, whose
planes are zero. -/
def lanesV (fo : Fmt → Nat → FArg → FArg → FArg → FRes) (io : Int → Int → Int) (d a b : Reg) (m t : BitVec 3) (s : State) : Lanes :=
  let r := s.me.a
  let f := tFmt t.toNat
  let w := tWidth t.toNat
  let res (i : Nat) : FRes := fo f s.me.rm (r.larg f a i) (r.larg f b i) (r.larg f d i)
  if t.toNat < 3 then ⟨d, w, tLanes t.toNat, fun i => (r.mp m).getLsbD i, fun i => (res i).1.1,
    fun p i => (f.round (rmOf s) 0 ((res i).2 p).1).1⟩
  else ⟨d, w, tLanes t.toNat, fun i => (r.mp m).getLsbD i,
    fun i => inLane w (io (tInt t.toNat (lane (r.vp 0 a) w i)) (tInt t.toNat (lane (r.vp 0 b) w i))), fun _ _ => 0⟩

/-- The same with g[b] broadcast. -/
def lanesG (fo : Fmt → Nat → FArg → FArg → FArg → FRes) (io : Int → Int → Int) (d a b : Reg) (m t : BitVec 3) (s : State) : Lanes :=
  let r := s.me.a
  let f := tFmt t.toNat
  let w := tWidth t.toNat
  let res (i : Nat) : FRes := fo f s.me.rm (r.larg f a i) (r.garg f b) (r.larg f d i)
  if t.toNat < 3 then ⟨d, w, tLanes t.toNat, fun i => (r.mp m).getLsbD i, fun i => (res i).1.1,
    fun p i => (f.round (rmOf s) 0 ((res i).2 p).1).1⟩
  else ⟨d, w, tLanes t.toNat, fun i => (r.mp m).getLsbD i,
    fun i => inLane w (io (tInt t.toNat (lane (r.vp 0 a) w i)) (tInt t.toNat ((r.gp 0 b).toNat % 2 ^ w))), fun _ _ => 0⟩

/-- Bits of integer lanes. -/
def lanesB (io : Nat → Nat → Nat) (d a b : Reg) (m t : BitVec 3) (s : State) : Lanes :=
  let r := s.me.a
  let w := tWidth t.toNat
  ⟨d, w, tLanes t.toNat, fun i => (r.mp m).getLsbD i, fun i => io (lane (r.vp 0 a) w i) (lane (r.vp 0 b) w i), fun _ _ => 0⟩

/-- The tangent of a value that is moved, read as type `t`: rounded into its own format, so that a NaN is canonical, for float types,
and zero for integer types (06 R122, 15 R293). -/
def movedTan (t c : Nat) : Nat := if t < 3 then ((tFmt t).round 0 0 ((tFmt t).dec c)).1 else 0

/-- Lanes moved from `src`. -/
def lanesM (d : Reg) (t : BitVec 3) (on : Nat → Bool) (src : Nat → Nat → Nat) : Lanes :=
  ⟨d, tWidth t.toNat, tLanes t.toNat, on, src 0, fun p i => movedTan t.toNat (src p i)⟩

/-- Widening conversions of 16 lanes. -/
def lanesW (wi : Nat) (cv : Nat → Nat) (zeroTan : Bool) (d a : Reg) (q : Nat) (m : BitVec 3) (s : State) : Lanes :=
  let r := s.me.a
  ⟨d, 32, 16, fun i => (r.mp m).getLsbD i, fun i => cv (lane (r.vp 0 a) wi (16 * q + i)),
    fun p i => if zeroTan then 0 else cv (lane (r.vp p a) wi (16 * q + i))⟩

/-- What the lane-wise instructions write. -/
def lanesOf (i : Instr) (s : State) : Option Lanes :=
  let r := s.me.a
  match i with
  | .vadd d a b m t => some (lanesV (foAdd) (fun x y => x + y) d a b m t s)
  | .vsub d a b m t => some (lanesV (foSub) (fun x y => x - y) d a b m t s)
  | .vmul d a b m t => some (lanesV (foMul) (fun x y => x * y) d a b m t s)
  | .vfma d a b m t => some (lanesV (foFma false false) (fun _ _ => 0) d a b m t s)
  | .vfms d a b m t => some (lanesV (foFma false true) (fun _ _ => 0) d a b m t s)
  | .vmin d a b m t => some (lanesV (foMinmax false) (fun x y => min x y) d a b m t s)
  | .vmax d a b m t => some (lanesV (foMinmax true) (fun x y => max x y) d a b m t s)
  | .vaddg d a b m t => some (lanesG (foAdd) (fun x y => x + y) d a b m t s)
  | .vmulg d a b m t => some (lanesG (foMul) (fun x y => x * y) d a b m t s)
  | .vfmag d a b m t => some (lanesG (foFma false false) (fun _ _ => 0) d a b m t s)
  | .vming d a b m t => some (lanesG (foMinmax false) (fun x y => min x y) d a b m t s)
  | .vmaxg d a b m t => some (lanesG (foMinmax true) (fun x y => max x y) d a b m t s)
  | .vabs d a m t => some (lanesV foAbs (fun x _ => x.natAbs) d a a m t s)
  | .vneg d a m t => some (lanesV foNeg (fun x _ => -x) d a a m t s)
  | .vrcp d a m t => some (lanesV foRcp (fun _ _ => 0) d a a m t s)
  | .vrsq d a m t => some (lanesV foRsq (fun _ _ => 0) d a a m t s)
  | .vexp2 d a m t => some (lanesV foExp2 (fun _ _ => 0) d a a m t s)
  | .vlog2 d a m t => some (lanesV foLog2 (fun _ _ => 0) d a a m t s)
  | .vsqrt d a m t => some (lanesV foSqrt (fun _ _ => 0) d a a m t s)
  | .vdiv d a b m t => some (lanesV foDiv (fun _ _ => 0) d a b m t s)
  | .vand d a b m t => some (lanesB (fun x y => x &&& y) d a b m t s)
  | .vor d a b m t => some (lanesB (fun x y => x ||| y) d a b m t s)
  | .vxor d a b m t => some (lanesB (fun x y => x ^^^ y) d a b m t s)
  | .vshl d a b m t => some (lanesB (fun x y => x * 2 ^ (y % tWidth t.toNat)) d a b m t s)
  | .vshr d a b m t => some (lanesB (fun x y => inLane (tWidth t.toNat) (tInt t.toNat x / 2 ^ (y % tWidth t.toNat))) d a b m t s)
  | .vsel d a b m t => some (lanesM d t (fun _ => true) (fun p i => lane (r.vp p (if (r.mp m).getLsbD i then a else b)) (tWidth t.toNat) i))
  | .vmovg d b m t => some (lanesM d t (fun i => (r.mp m).getLsbD i) (fun p _ => (r.gp p b).toNat % 2 ^ tWidth t.toNat))
  | .vins d a b t => some (lanesM d t (fun i => i == (s.g b).toNat % tLanes t.toNat) (fun p _ => (r.gp p a).toNat % 2 ^ tWidth t.toNat))
  | .vperm d a b m t => some (lanesM d t (fun i => (r.mp m).getLsbD i)
      (fun p i => lane (r.vp p a) (tWidth t.toNat) (lane (r.vp 0 b) (tWidth t.toNat) i % tLanes t.toNat)))
  | .vcvtF32Bf16 d a h m => some (lanesW 16 (fun c => (F32.round 0 0 (BF16.dec c)).1) false d a h.toNat m s)
  | .vcvtF32F16 d a h m => some (lanesW 16 (fun c => (F32.round 0 0 (F16.dec c)).1) false d a h.toNat m s)
  | .vcvtF32E4m3 d a q m => some (lanesW 8 (fun c => (F32.round 0 0 ((E4M3 (s.nxm s.cur)).dec c)).1) false d a q.toNat m s)
  | .vcvtF32E5m2 d a q m => some (lanesW 8 (fun c => (F32.round 0 0 ((E5M2 (s.nxm s.cur)).dec c)).1) false d a q.toNat m s)
  | .vcvtF32S32 d a m => some (lanesW 32 (fun c => (F32.round (rmOf s) 0 (xint (tInt 3 c) 0)).1) true d a 0 m s)
  | .vcvtS32F32 d a m => some (lanesW 32 (fun c => inLane 32 (xToInt s.me.rm (-(2 ^ 31)) (2 ^ 31 - 1) (F32.dec c)).1) true d a 0 m s)
  | _ => none

/-- A conversion to a narrower lane: destination, width of a written lane, the first lane and the number of lanes of its part, the
mask, whether stochastic mode draws, the code that a rounding mode and a draw give the i-th of them, and the code of a tangent (06
R123, R124, R126). -/
structure Narrow where
  d     : Reg
  w     : Nat
  lo    : Nat
  n     : Nat
  m     : BitVec 3
  draws : Bool
  conv  : Nat → Nat → Nat
  tan   : Nat → Nat → Nat

/-- A conversion of 16 lanes of 32 bits into part `q` of lanes of `w` bits in format `f`. -/
def narrowF32 (f : Fmt) (d a : Reg) (w q : Nat) (m : BitVec 3) (s : State) : Narrow :=
  ⟨d, w, 16 * q, 16, m, true, fun r i => (f.round s.me.rm r (F32.dec (lane (s.me.a.vp 0 a) 32 i))).1,
    fun p i => (f.round (rmOf s) 0 (F32.dec (lane (s.me.a.vp p a) 32 i))).1⟩

/-- The value of element `i` of the BFP-k block in plane `p` of v[a] (04 R82, 06 R125). -/
def bfpElem (s : State) (a : Reg) (k p i : Nat) : XR :=
  bfpVal (s.nxm s.cur) k ((s.me.a.vp p a).toNat / 2 ^ (k * i) % 2 ^ k) ((s.me.a.vp p a).toNat / 2 ^ 256 % 256)

def narrowOf (i : Instr) (s : State) : Option Narrow :=
  match i with
  | .vcvtBf16F32 d a h m => some (narrowF32 BF16 d a 16 h.toNat m s)
  | .vcvtF16F32 d a h m => some (narrowF32 F16 d a 16 h.toNat m s)
  | .vcvtE4m3F32 d a q m => some (narrowF32 (E4M3 (s.nxm s.cur)) d a 8 q.toNat m s)
  | .vcvtE5m2F32 d a q m => some (narrowF32 (E5M2 (s.nxm s.cur)) d a 8 q.toNat m s)
  | .vcvtS8S32 d a q m => some ⟨d, 8, 16 * q.toNat, 16, m, false,
      fun _ i => inLane 8 (max (-128) (min 127 (tInt 3 (lane (s.me.a.vp 0 a) 32 i)))), fun _ _ => 0⟩
  | .bfpdec d a m k => some ⟨d, 16, 0, 32, m, true, fun r i => (BF16.round s.me.rm r (bfpElem s a (k.toNat + 2) 0 i)).1,
      fun p i => (BF16.round (rmOf s) 0 (bfpElem s a (k.toNat + 2) p i)).1⟩
  | _ => none

/-- SRSEED before lane `i` of the active ones is converted: it has advanced once for each active lane below (04 R78). -/
def seedAt (s : State) (m : BitVec 3) (i : Nat) : Word :=
  ((List.range i).filter (fun j => (s.me.a.mp m).getLsbD j)).foldl (fun w _ => (srDraw w).2) s.me.a.srseed

/-- The draw of lane `i`; there is none outside stochastic mode. -/
def drawAt (s : State) (r : Narrow) (i : Nat) : Nat :=
  if r.draws = true ∧ s.me.rm = 5 then (srDraw (seedAt s r.m i)).1 else 0

/-- The vector instructions whose destination is a v register. -/
def vDest (i : Instr) : Option Reg :=
  match i with
  | .vadd d _ _ _ _ => some d
  | .vsub d _ _ _ _ => some d
  | .vmul d _ _ _ _ => some d
  | .vfma d _ _ _ _ => some d
  | .vfms d _ _ _ _ => some d
  | .vmin d _ _ _ _ => some d
  | .vmax d _ _ _ _ => some d
  | .vand d _ _ _ _ => some d
  | .vor d _ _ _ _ => some d
  | .vxor d _ _ _ _ => some d
  | .vshl d _ _ _ _ => some d
  | .vshr d _ _ _ _ => some d
  | .vsel d _ _ _ _ => some d
  | .vaddg d _ _ _ _ => some d
  | .vmulg d _ _ _ _ => some d
  | .vfmag d _ _ _ _ => some d
  | .vming d _ _ _ _ => some d
  | .vmaxg d _ _ _ _ => some d
  | .vdiv d _ _ _ _ => some d
  | .vperm d _ _ _ _ => some d
  | .vabs d _ _ _ => some d
  | .vneg d _ _ _ => some d
  | .vrcp d _ _ _ => some d
  | .vrsq d _ _ _ => some d
  | .vexp2 d _ _ _ => some d
  | .vlog2 d _ _ _ => some d
  | .vsqrt d _ _ _ => some d
  | .vmovg d _ _ _ => some d
  | .vins d _ _ _ => some d
  | .vcvtBf16F32 d _ _ _ => some d
  | .vcvtF32Bf16 d _ _ _ => some d
  | .vcvtF16F32 d _ _ _ => some d
  | .vcvtF32F16 d _ _ _ => some d
  | .vcvtE4m3F32 d _ _ _ => some d
  | .vcvtF32E4m3 d _ _ _ => some d
  | .vcvtE5m2F32 d _ _ _ => some d
  | .vcvtF32E5m2 d _ _ _ => some d
  | .vcvtS8S32 d _ _ _ => some d
  | .bfpenc d _ _ _ => some d
  | .bfpdec d _ _ _ => some d
  | .vcvtS32F32 d _ _ => some d
  | .vcvtF32S32 d _ _ => some d
  | _ => none

/-- The active lanes of a reduction in rising order. -/
def onLanes (s : State) (m t : BitVec 3) : List Nat := (span 0 (tLanes t.toNat)).filter (fun i => (s.me.a.mp m).getLsbD i)

/-- An integer lane of a v register. -/
def intLane (s : State) (a : Reg) (t : BitVec 3) (i : Nat) : Int := tInt t.toNat (lane (s.me.a.vp 0 a) (tWidth t.toNat) i)

/-- A float lane of a plane of a v register. -/
def floatLane (s : State) (p : Nat) (a : Reg) (t : BitVec 3) (i : Nat) : XR :=
  (tFmt t.toNat).dec (lane (s.me.a.vp p a) (tWidth t.toNat) i)

/-- What a compare leaves: bit `k` of m[d] is the comparison of lane `k` where the lane is governed and 0 elsewhere; NV where the
compare is ordered and a governed float lane is unordered (06 R120). -/
def Compares (s u : State) (fc : XR → XR → Bool) (ic : Int → Int → Bool) (ordered : Bool) (d : BitVec 3) (a b : Reg) (m t : BitVec 3) :
    Prop :=
  (∀ k, k < 64 → (u.me.a.mp d).getLsbD k = (decide (k < tLanes t.toNat) && (s.me.a.mp m).getLsbD k &&
    (if t.toNat < 3 then fc (floatLane s 0 a t k) (floatLane s 0 b t k) else ic (intLane s a t k) (intLane s b t k)))) ∧
  u.me.a.fmode = orFlags s.me.a.fmode (if ordered = true ∧ t.toNat < 3 ∧
    (∃ k ∈ onLanes s m t, (floatLane s 0 a t k).isNan = true ∨ (floatLane s 0 b t k).isNan = true) then fNV else 0) ∧
  s.RegStep u 4 NoReg NoReg (fun r => r = d)

/-- The word that VREDMAX or VREDMIN writes for an integer type: the largest or smallest active lane, or the end of the type's
range where no lane is active (06 R134). -/
def extremeInt (mx : Bool) (s : State) (a : Reg) (m t : BitVec 3) : Int :=
  let w := tWidth t.toNat
  match (onLanes s m t).map (intLane s a t) with
  | [] => if mx then (if tSigned t.toNat then -(2 ^ (w - 1)) else 0) else (if tSigned t.toNat then 2 ^ (w - 1) - 1 else 2 ^ w - 1)
  | x :: xs => xs.foldl (fun y z => if mx then max y z else min y z) x

/-- What VREDMAX or VREDMIN leaves (06 R134): for integer types the extreme with zero planes and no flag; for float types with an active
lane the code of the lane that FMAX or FMIN chooses, the lowest of equals, widened to FP32, with that lane's tangents; ∓∞ where no lane
is active. -/
def Extreme (mx : Bool) (s u : State) (d a : Reg) (m t : BitVec 3) : Prop :=
  (3 ≤ t.toNat → u.me.a.gp 0 d = (if d = 0 then 0 else BitVec.ofInt 64 (extremeInt mx s a m t)) ∧
    (∀ p ∈ s.me.dual, u.me.a.gp p d = 0) ∧ u.me.a.fmode = s.me.a.fmode) ∧
  (t.toNat < 3 → ∀ i c, chooseF (tFmt t.toNat) mx ((onLanes s m t).map (fun i => (i, lane (s.me.a.vp 0 a) (tWidth t.toNat) i))) = some (i, c) →
    u.me.a.gp 0 d = (if d = 0 then 0 else BitVec.ofNat 64 (F32.round 0 0 ((tFmt t.toNat).dec c)).1) ∧
    (∀ p ∈ s.me.dual, u.me.a.gp p d = (if d = 0 then 0 else BitVec.ofNat 64 (F32.round 0 0 (floatLane s p a t i)).1))) ∧
  (t.toNat < 3 → onLanes s m t = [] → u.me.a.gp 0 d = (if d = 0 then 0 else if mx then 0xFF800000 else 0x7F800000)) ∧
  s.RegStep u 4 (s.Dest d) NoReg NoMask

end Sys2Proof.Claims

/-- Every lane-wise vector instruction writes exactly its active lanes of its destination: the primal code of each, and the code
of each plane acted on; other lanes and everything else keep their values (06 R113-R133). -/
def Obligations.VectorLaneResults : Prop :=
  ∀ (i : Instr) (s : State) (r : Claims.Lanes), Claims.lanesOf i s = some r → i.wf = true → s.stepping = false →
    ∃ t, exec i s = .next t ∧
      (∀ k, k < r.n → lane (t.me.a.vp 0 r.d) r.w k =
        (if r.on k then r.prim k % 2 ^ r.w else lane (s.me.a.vp 0 r.d) r.w k)) ∧
      (∀ p ∈ s.me.dual, ∀ k, k < r.n → lane (t.me.a.vp p r.d) r.w k =
        (if r.on k then r.tan p k % 2 ^ r.w else lane (s.me.a.vp p r.d) r.w k)) ∧
      s.RegStep t 4 NoReg (s.Dest r.d) NoMask


/-- Every vector instruction with a v destination completes in every rounding mode and changes no register but the primal and the
planes acted on of its destination, no memory and no special register but FMODE and SRSEED; its result is ready when its latency is over,
whatever delayed the register before. A narrowing conversion and BFPDEC write the active lanes of their part and leave the others; in
stochastic mode SRSEED advances once per active primal lane, and a tangent is rounded to nearest (06 R123, R124, R126; 04 R76, R78). -/
def Obligations.VectorFrames : Prop :=
  (∀ (i : Instr) (s : State) (d : Reg), Claims.vDest i = some d → s.stepping = false →
    ∃ t, exec i s = .next t ∧ s.RegStep t 4 NoReg (s.Dest d) NoMask ∧
      ∃ lat, t.me.busy = { cls := 1, r := d.toNat, due := some (s.cyc + lat) } :: (s.me.renew [(1, d.toNat)]).busy) ∧
  (∀ (i : Instr) (s : State) (r : Claims.Narrow), Claims.narrowOf i s = some r → i.wf = true → s.stepping = false →
    ∃ t, exec i s = .next t ∧
      (∀ k, k < 512 / r.w → lane (t.me.a.vp 0 r.d) r.w k =
        (if r.lo ≤ k ∧ k < r.lo + r.n ∧ (s.me.a.mp r.m).getLsbD (k - r.lo) = true
          then r.conv (Claims.drawAt s r (k - r.lo)) (k - r.lo) % 2 ^ r.w else lane (s.me.a.vp 0 r.d) r.w k)) ∧
      (∀ p ∈ s.me.dual, ∀ k, k < 512 / r.w → lane (t.me.a.vp p r.d) r.w k =
        (if r.lo ≤ k ∧ k < r.lo + r.n ∧ (s.me.a.mp r.m).getLsbD (k - r.lo) = true
          then r.tan p (k - r.lo) % 2 ^ r.w else lane (s.me.a.vp p r.d) r.w k)) ∧
      t.me.a.srseed = (if r.draws = true ∧ s.me.rm = 5 then Claims.seedAt s r.m r.n else s.me.a.srseed) ∧
      s.RegStep t 4 NoReg (s.Dest r.d) NoMask)

/-- VCEQ, VCLT and VCLE complete and write the mask of their comparisons, zero in every bit that is not governed; MAND, MOR and MNOT
complete and act on all 64 bits, with no flag; m0 reads as all ones (06 R120, R135; 02 R24). VEXT, VREDSUM, VREDMAX, VREDMIN and MPOP
complete and write g[d], and the planes acted on: VEXT the lane, extended as its type is, and the tangent lane of a float type; the
reductions the sum, the largest or the smallest of the active lanes, for every type; MPOP the number of ones, with zero planes (06 R121,
R134, R135). Nothing else changes. Where every active float lane is NaN the lane chosen by VREDMAX and VREDMIN is the model's (log 78). -/
def Obligations.MasksAndScalars : Prop :=
  (∀ (d : BitVec 3) (a b : Reg) (m t : BitVec 3) (s : State), (Instr.vceq d a b m t).wf = true → s.stepping = false →
    ∃ u, exec (.vceq d a b m t) s = .next u ∧ Claims.Compares s u xeq (fun x y => decide (x = y)) false d a b m t) ∧
  (∀ (d : BitVec 3) (a b : Reg) (m t : BitVec 3) (s : State), (Instr.vclt d a b m t).wf = true → s.stepping = false →
    ∃ u, exec (.vclt d a b m t) s = .next u ∧ Claims.Compares s u xlt (fun x y => decide (x < y)) true d a b m t) ∧
  (∀ (d : BitVec 3) (a b : Reg) (m t : BitVec 3) (s : State), (Instr.vcle d a b m t).wf = true → s.stepping = false →
    ∃ u, exec (.vcle d a b m t) s = .next u ∧
      Claims.Compares s u (fun x y => xlt x y || xeq x y) (fun x y => decide (x ≤ y)) true d a b m t) ∧
  (∀ (d a b : BitVec 3) (s : State), (Instr.mand d a b).wf = true → s.stepping = false →
    ∃ u, exec (.mand d a b) s = .next u ∧ u.me.a.mp d = s.me.a.mp a &&& s.me.a.mp b ∧ u.me.a.fmode = s.me.a.fmode ∧
      s.RegStep u 4 NoReg NoReg (fun r => r = d)) ∧
  (∀ (d a b : BitVec 3) (s : State), (Instr.mor d a b).wf = true → s.stepping = false →
    ∃ u, exec (.mor d a b) s = .next u ∧ u.me.a.mp d = s.me.a.mp a ||| s.me.a.mp b ∧ u.me.a.fmode = s.me.a.fmode ∧
      s.RegStep u 4 NoReg NoReg (fun r => r = d)) ∧
  (∀ (d a : BitVec 3) (s : State), (Instr.mnot d a).wf = true → s.stepping = false →
    ∃ u, exec (.mnot d a) s = .next u ∧ u.me.a.mp d = ~~~s.me.a.mp a ∧ u.me.a.fmode = s.me.a.fmode ∧
      s.RegStep u 4 NoReg NoReg (fun r => r = d)) ∧
  (∀ a : Arch, a.mp 0 = BitVec.allOnes 64) ∧
  (∀ (d a b : Reg) (t : BitVec 3) (s : State), (Instr.vext d a b t).wf = true → s.stepping = false →
    let j := (s.g b).toNat % tLanes t.toNat
    ∃ u, exec (.vext d a b t) s = .next u ∧
      u.me.a.gp 0 d = (if d = 0 then 0 else if tSigned t.toNat then BitVec.ofInt 64 (Claims.intLane s a t j)
        else BitVec.ofNat 64 (lane (s.me.a.vp 0 a) (tWidth t.toNat) j)) ∧
      (∀ p ∈ s.me.dual, u.me.a.gp p d =
        (if d = 0 then 0 else BitVec.ofNat 64 (Claims.movedTan t.toNat (lane (s.me.a.vp p a) (tWidth t.toNat) j)))) ∧
      u.me.a.fmode = s.me.a.fmode ∧ s.RegStep u 4 (s.Dest d) NoReg NoMask) ∧
  (∀ (d a : Reg) (m t : BitVec 3) (s : State), (Instr.vredsum d a m t).wf = true → s.stepping = false →
    let sum (p : Nat) : XR × Flags := sumF s.me.rm ((Claims.onLanes s m t).map (Claims.floatLane s p a t))
    ∃ u, exec (.vredsum d a m t) s = .next u ∧
      (3 ≤ t.toNat → u.me.a.gp 0 d = (if d = 0 then 0 else
        BitVec.ofInt 64 (((Claims.onLanes s m t).map (Claims.intLane s a t)).foldl (· + ·) 0)) ∧
        (∀ p ∈ s.me.dual, u.me.a.gp p d = 0) ∧ u.me.a.fmode = s.me.a.fmode) ∧
      (t.toNat < 3 → u.me.a.gp 0 d = (if d = 0 then 0 else BitVec.ofNat 64 (F32.round (Claims.rmOf s) 0 (sum 0).1).1) ∧
        (∀ p ∈ s.me.dual, u.me.a.gp p d = (if d = 0 then 0 else BitVec.ofNat 64 (F32.round (Claims.rmOf s) 0 (sum p).1).1)) ∧
        u.me.a.fmode = Claims.fmodeAfter s ((sum 0).2 ||| (F32.round (Claims.rmOf s) 0 (sum 0).1).2)
          (fun p => (sum p).2 ||| (F32.round (Claims.rmOf s) 0 (sum p).1).2)) ∧
      s.RegStep u 4 (s.Dest d) NoReg NoMask) ∧
  (∀ (d a : Reg) (m t : BitVec 3) (s : State), (Instr.vredmax d a m t).wf = true → s.stepping = false →
    ∃ u, exec (.vredmax d a m t) s = .next u ∧ Claims.Extreme true s u d a m t) ∧
  (∀ (d a : Reg) (m t : BitVec 3) (s : State), (Instr.vredmin d a m t).wf = true → s.stepping = false →
    ∃ u, exec (.vredmin d a m t) s = .next u ∧ Claims.Extreme false s u d a m t) ∧
  (∀ (d : Reg) (a t : BitVec 3) (s : State), s.stepping = false →
    ∃ u, exec (.mpop d a t) s = .next u ∧
      u.me.a.gp 0 d = (if d = 0 then 0 else BitVec.ofNat 64 (Claims.onLanes s a t).length) ∧
      (∀ p ∈ s.me.dual, u.me.a.gp p d = 0) ∧ u.me.a.fmode = s.me.a.fmode ∧ s.RegStep u 4 (s.Dest d) NoReg NoMask)

namespace Sys2Proof.Claims

open Sys2Proof.Machine

/-! ### Memory -/

/-- The addresses of a global access that touches the bytes `ts` pass every check of 05 R98 (or 10 R188, R197), with `hs` where they
lie and `s1` the state that their translation leaves, and no watchpoint matches. -/
def PassesOn (s : State) (c : Checks) (eas : List Word) (ts : List Touch) (hs : List Hit) (s1 : State) : Prop :=
  s.plan s.cur c eas = (.ok hs, s1) ∧ s1.watch s1.cur ts = none ∧ s1.stepping = false ∧ s1.cur = s.cur ∧
    s1.me.a = s.me.a

/-- The same of accesses of `n` bytes. -/
def Passes (s : State) (c : Checks) (eas : List Word) (n : Nat) (rd wr : Bool) (hs : List Hit) (s1 : State) : Prop :=
  PassesOn s c eas (touches n rd wr hs) hs s1

/-- The bytes of active lanes at global addresses. -/
def laneTouches (s : State) (m t : BitVec 3) (rd wr : Bool) (hs : List Hit) : List Touch :=
  byteTouches (laneBytes (s.me.a.mp m) (tWidth t.toNat)) rd wr false (hs.map (fun h => h.ea.toNat))

/-- A message that waits for delivery. -/
def Sent (t : State) (e : Ev) : Prop := ∃ due, { due := due, ev := e } ∈ t.pend

/-- The request lies in one line part of one page. -/
def oneLine (r : Req) : Prop := r.pa % 192 + r.len ≤ 192 ∧ ∀ i, i < r.len → lineKey (r.pa + i) = lineKey r.pa
/-- The request meets no held line, which a system core's would see as its release will leave it (24 R420). -/
def unheld (s : State) (r : Req) : Prop := isSys r.who = false ∨ s.heldLine r.home r.pa = false

/-- No watchpoint of the slice is enabled (23 R406). -/
def noSliceWatch (s : State) (home : Nat) : Prop := ∀ w, w < 16 → (vget (s.slice home).swctl w 0).getLsbD 0 = false

/-- Byte `i` of a request's data. -/
def dataByte (r : Req) (i : Nat) : Byte := BitVec.ofNat 8 (r.data.toNat / 2 ^ (8 * i))

/-- The number at a home slice from a byte on, lowest byte first. -/
def memNat (s : State) (home pa : Nat) : Nat → Nat
  | 0 => 0
  | n + 1 => (s.byteAt home pa).toNat + 256 * memNat s home (pa + 1) n

/-- Byte `i` of a store's range once it is performed: the one that the mask selects, or one that the store of a joined VST.G carries by
address (06 R128); else the byte that stood there. -/
def storedByte (s : State) (r : Req) (i : Nat) : Byte :=
  match mfind r.lanes (r.pa + i) with
  | some b => b.setWidth 8
  | none => if r.mask.getLsbD i then dataByte r i else s.byteAt r.home (r.pa + i)

/-- Every byte reads as before but for those of a request. -/
def onlyBytes (s t : State) (r : Req) : Prop :=
  ∀ home pa, (home ≠ r.home ∨ lineKey pa ≠ lineKey r.pa ∨ pa < r.pa ∨ r.pa + r.len ≤ pa) → t.byteAt home pa = s.byteAt home pa

/-- The codes of an AMO (10 R188). -/
def amoCode (i : Instr) : Option (Nat × Reg × Reg × Reg × BitVec 1 × BitVec 2 × BitVec 3) :=
  match i with
  | .amoSwap d a b w o sc => some (0, d, a, b, w, o, sc)
  | .amoAdd d a b w o sc => some (1, d, a, b, w, o, sc)
  | .amoAnd d a b w o sc => some (2, d, a, b, w, o, sc)
  | .amoOr d a b w o sc => some (3, d, a, b, w, o, sc)
  | .amoXor d a b w o sc => some (4, d, a, b, w, o, sc)
  | .amoMin d a b w o sc => some (5, d, a, b, w, o, sc)
  | .amoMax d a b w o sc => some (6, d, a, b, w, o, sc)
  | .amoMinu d a b w o sc => some (7, d, a, b, w, o, sc)
  | .amoMaxu d a b w o sc => some (8, d, a, b, w, o, sc)
  | .amoCas d a b w o sc => some (9, d, a, b, w, o, sc)
  | _ => none

/-- A `w`-bit number as a signed one. -/
def signedN (w x : Nat) : Int := if 2 ^ (w - 1) ≤ x then (x : Int) - 2 ^ w else x

/-- What an AMO leaves in a word of `w` bits (10 R188). -/
def amoValue (op w old src cmp : Nat) : Nat :=
  match op with
  | 0 => src
  | 1 => (old + src) % 2 ^ w
  | 2 => old &&& src
  | 3 => old ||| src
  | 4 => old ^^^ src
  | 5 => if signedN w src < signedN w old then src else old
  | 6 => if signedN w old < signedN w src then src else old
  | 7 => min old src
  | 8 => max old src
  | _ => if old = cmp then src else old

/-- The codes of a RED and the bytes of its lane (10 R189). -/
def redCode (i : Instr) : Option (Nat × Nat × Reg × Reg × BitVec 1) :=
  match i with
  | .redAddF32 a b v => some (0, 4, a, b, v)
  | .redAddBf16 a b v => some (1, 2, a, b, v)
  | .redAddS32 a b v => some (2, 4, a, b, v)
  | .redAddS64 a b v => some (3, 8, a, b, v)
  | .redMaxF32 a b v => some (4, 4, a, b, v)
  | .redMinF32 a b v => some (5, 4, a, b, v)
  | _ => none

/-- A target lane with an addend applied (10 R189): sums of F32 and of BF16 with a widened addend are rounded once to nearest
even; integer sums wrap; MAX and MIN are FMAX and FMIN. -/
def redValue (op old x : Nat) : Nat :=
  match op with
  | 0 => (F32.round 0 0 (xadd false (F32.dec old) (F32.dec (x % 2 ^ 32))).1).1
  | 1 => (BF16.round 0 0 (xadd false (BF16.dec old) (F32.dec (x % 2 ^ 32))).1).1
  | 2 => (old + x % 2 ^ 32) % 2 ^ 32
  | 3 => (old + x) % 2 ^ 64
  | 4 => (F32.minmax true old (x % 2 ^ 32)).1
  | _ => (F32.minmax false old (x % 2 ^ 32)).1

/-- Two addends of one lane combined as a queue entry holds them, BF16 ones in F32 (10 R191). -/
def redSum (op x y : Nat) : Nat :=
  match op with
  | 0 => (F32.round 0 0 (xadd false (F32.dec (x % 2 ^ 32)) (F32.dec (y % 2 ^ 32))).1).1
  | 1 => (F32.round 0 0 (xadd false (F32.dec (x % 2 ^ 32)) (F32.dec (y % 2 ^ 32))).1).1
  | 2 => (x % 2 ^ 32 + y % 2 ^ 32) % 2 ^ 32
  | 3 => (x + y) % 2 ^ 64
  | 4 => (F32.minmax true (x % 2 ^ 32) (y % 2 ^ 32)).1
  | _ => (F32.minmax false (x % 2 ^ 32) (y % 2 ^ 32)).1

/-- The addends of a lane that the line's queue entry carries already. -/
def carried (s : State) (r : Req) (op k : Nat) : Option AddLane :=
  (mget (s.slice r.home).adds (lineKey r.pa) { mask := 0, was := 0, lanes := [] }).lanes.find? (fun l => l.op == op && l.lane == k)

/-- What a lane reads once an addend has been applied: alone, or with those that the entry carries. -/
def redAfter (s : State) (r : Req) (op k : Nat) (pa n x : Nat) : Nat :=
  match carried s r op k with
  | none => redValue op (memNat s r.home pa n) x
  | some l => redValue op l.base (redSum op l.sum.toNat x)

/-- The addend of lane `i` of a RED in plane `p`: the lane of v[b] or the low bits of g[b], BF16 widened to F32 (10 R189). -/
def addend (op w : Nat) (v : BitVec 1) (a : Arch) (b : Reg) (p i : Nat) : Nat :=
  (if v = 1 then lane (a.vp p b) (8 * w) i else (a.gp p b).toNat % 2 ^ (8 * w)) * (if op = 1 then 2 ^ 16 else 1)

/-- The addends of a RED in plane `p`, each with its lane of the line. -/
def addends (op w : Nat) (v : BitVec 1) (a : Arch) (b : Reg) (p pa : Nat) : AMap (BitVec 64) :=
  (span 0 (if v = 1 then 64 / w else 1)).map (fun i => (pa % 192 / w + i, BitVec.ofNat 64 (addend op w v a b p i)))

/-- The request of a RED in one plane. -/
def redReq (s : State) (op w : Nat) (v : BitVec 1) (a : Arch) (b : Reg) (x : Nat × Hit) : Req :=
  { s.req s.cur (.red op) x.2.ea x.2.pa x.2.home x.2.pte (if v = 1 then 64 else w) with
    own := BitVec.ofNat 4 (2 ^ tsOf s.cur), lanes := addends op w v a b x.1 x.2.pa, pl := x.1 }

/-- The requests as they leave the core, in order: the entry of the residual tile that one matches leaves with it, its lanes
combined and its owners joined (10 R193). -/
def withTile (s : State) (core : Nat) : List Req → List Req
  | [] => []
  | r :: rs => (s.takeRes core r).1 :: withTile (s.takeRes core r).2 core rs

/-- A request's lanes are different ones, inside its line's part in the page. -/
def lanesOk (r : Req) (op : Nat) : Prop :=
  (r.lanes.map (·.1)).Nodup ∧ ∀ k x, (k, x) ∈ r.lanes → redW op * k + redW op ≤ 192 ∧
    ∀ j, j < redW op → lineKey (laneAddr r k + j) = lineKey r.pa

/-- Every lane of a request has its addend applied, and no other byte of any home slice changes. -/
def addendsApplied (s t : State) (r : Req) (op : Nat) : Prop :=
  (∀ k x, (k, x) ∈ r.lanes → memNat t r.home (laneAddr r k) (redW op) =
    redAfter s r op k (laneAddr r k) (redW op) x.toNat) ∧
  ∀ home pa, (home ≠ r.home ∨ lineKey pa ≠ lineKey r.pa ∨
      ∀ k x, (k, x) ∈ r.lanes → pa < laneAddr r k ∨ laneAddr r k + redW op ≤ pa) → t.byteAt home pa = s.byteAt home pa

/-- Where and how a local access that touches the bytes `ts` goes: it passes the checks of 05 R101, nothing stalls it and no
watchpoint matches. -/
def LocalOn (s : State) (al n : Nat) (ts : List Touch) (eas : List Word) : Prop :=
  isSys s.cur = false ∧ s.stepping = false ∧ s.myCC.locStop al n eas = none ∧ s.watch s.cur ts = none

/-- The same of accesses of `n` bytes. -/
def LocalOk (s : State) (al n : Nat) (rd wr : Bool) (eas : List Word) : Prop :=
  LocalOn s al n (eas.map (fun ea => { lo := ea.toNat, len := n, rd := rd, wr := wr, loc := true })) eas

/-- The same of the active lanes' bytes of a vector access. -/
def LocalLanes (s : State) (m t : BitVec 3) (rd wr : Bool) (eas : List Word) : Prop :=
  LocalOn s 64 64 (byteTouches (laneBytes (s.me.a.mp m) (tWidth t.toNat)) rd wr true (eas.map (·.toNat))) eas

/-- Byte `i` of a number. -/
def nth (x : Nat) (i : Nat) : Byte := BitVec.ofNat 8 (x / 2 ^ (8 * i))

/-- Local bytes of the current core-and-context outside ranges of `n` bytes read as before, and so do all other banks. -/
def onlyLocal (s t : State) (eas : List Word) (n : Nat) : Prop :=
  ∀ cc a, (cc ≠ ccOf s.cur ∨ ∀ ea ∈ eas, a < ea.toNat ∨ ea.toNat + n ≤ a) → t.localAt cc a = s.localAt cc a

end Sys2Proof.Claims

/-- LD that passes its checks completes, where the slices have marks left for a speculative one: pc advances, no byte of memory and
no register but its destination's planes changes; a plain load of a compute core that L1 serves writes the extended bytes at once; a
load that L1 may not serve sends one request for each plane and its destination waits for the reply (05 R97, R99, R102). A speculative
load that finds no mark free waits, with nothing done, for its crossing to resolve (14 R284). -/
def Obligations.LoadsComplete : Prop :=
  ∀ (d a : Reg) (z : BitVec 3) (q : BitVec 2) (o : BitVec 11) (s s1 : State) (hs : List Hit),
    let n := loadLen z
    let ps := s.me.planes (loadDual z)
    (Instr.ld d a z q o).wf = true →
    Claims.Passes s { kind := .load, al := n, ctr := none, regs := (n == 8) } (ps.map (s.me.a.gea (s.ea a o))) n true false hs s1 →
    (∀ h ∈ hs, s1.isReg h.pa = false) →
    (s1.markFull hs = true →
      exec (.ld d a z q o) s = .next (s1.upMe (fun t => { t with wait := some .resolve }))) ∧
    (s1.markFull hs = false →
     ∃ t, exec (.ld d a z q o) s = .next t ∧ t.me.pc = s1.nextPc 4 ∧ (∀ home pa, t.byteAt home pa = s1.byteAt home pa) ∧
      s1.me.a.Keeps t.me.a (s1.Dest d) NoReg NoMask ∧ s1.me.Keeps t.me ∧
      (∀ h x, ps = [0] → hs = [h] → q = 0 → h.pte.getLsbD 9 = false → isSys s.cur = false → s1.me.specOn = false →
        s1.l1Read s.cur 0 h.pa n = some x →
        t.me.a.gp 0 d = (if d = 0 then 0 else loadExt z.toNat (x.toNat % 2 ^ (8 * n)))) ∧
      ((q ≠ 0 ∨ isSys s.cur = true ∨ s1.me.specOn = true) → ∀ p h, (p, h) ∈ ps.zip hs →
        (d ≠ 0 → { cls := 0, r := d.toNat, due := none } ∈ t.me.busy) ∧
        ∃ r, Claims.Sent t (.homeLoadServe r) ∧ r.who = s.cur ∧ r.kind = .load ∧ r.pa = h.pa ∧ r.home = h.home ∧ r.len = n ∧
          r.dst = (if d = 0 then .none else .g d p z.toNat) ∧ r.pl = p ∧ r.acq = (q == 2 && !s1.me.specOn)))

/-- ST that passes its checks completes: pc advances and no register and no byte of memory changes yet; outside speculation one
request for each plane carries the low bytes of its plane; while STATUS.SPEC = 1 no store leaves the core, and one that finds every
entry of the hold buffer taken waits, with nothing done, for its crossing to resolve (05 R97, R100, R102, R103; 14 R283). -/
def Obligations.StoresComplete : Prop :=
  ∀ (x a : Reg) (z q : BitVec 2) (o : BitVec 12) (s s1 : State) (hs : List Hit),
    let n := storeLen z
    let ps := s.me.planes (storeDual z)
    (Instr.st x a z q o).wf = true →
    Claims.Passes s { kind := .store, al := n, ctr := some true, regs := (n == 8) } (ps.map (s.me.a.gea (s.ea a o))) n false true hs s1 →
    (∀ h ∈ hs, s1.isReg h.pa = false) →
    (s1.me.specOn = false →
      ∃ t, exec (.st x a z q o) s = .next t ∧ t.me.pc = s1.nextPc 4 ∧ (∀ home pa, t.byteAt home pa = s1.byteAt home pa) ∧
        s1.me.a.Keeps t.me.a NoReg NoReg NoMask ∧ s1.me.Keeps t.me ∧
        ∀ p h, (p, h) ∈ ps.zip hs → ∃ r, Claims.Sent t (.homeStoreApply r) ∧ r.who = s.cur ∧ r.kind = .store ∧ r.pa = h.pa ∧
          r.home = h.home ∧ r.len = n ∧ r.pl = p ∧ r.mask = BitVec.ofNat 64 (2 ^ n - 1) ∧ r.rel = (q == 1) ∧
          ∀ i, i < n → Claims.dataByte r i = BitVec.ofNat 8 ((s.me.a.gp p x).toNat / 2 ^ (8 * i))) ∧
    (s1.me.specOn = true → (s1.core (coreOf s.cur)).hold.length + 2 * hs.length ≤ 64 →
      ∃ t, exec (.st x a z q o) s = .next t ∧ t.me.pc = s1.nextPc 4 ∧ (∀ home pa, t.byteAt home pa = s1.byteAt home pa) ∧
        s1.me.a.Keeps t.me.a NoReg NoReg NoMask ∧
        ∀ r, Claims.Sent t (.homeStoreApply r) → Claims.Sent s1 (.homeStoreApply r)) ∧
    (s1.me.specOn = true → 64 ≤ (s1.core (coreOf s.cur)).hold.length → (∀ h ∈ (s1.core (coreOf s.cur)).hold, h.r.who ≠ s.cur) →
      exec (.st x a z q o) s = .next (s.upMe (fun t => { t with wait := some .resolve })))

/-- VLD.G, VLDS and VST.G that pass their checks complete, where the slices have marks left for a speculative load; a load changes only lanes of its destination and its planes, a store no
register; no byte of memory changes yet; outside speculation VST.G sends the active bytes of each plane (06 R127-R129). The model's
choice, log 91: a watchpoint sees the bytes of active lanes alone. -/
def Obligations.VectorGlobalAccesses : Prop :=
  (∀ (d a b : Reg) (m t : BitVec 3) (s s1 : State) (hs : List Hit),
    Claims.PassesOn s { kind := .load, al := 64, ctr := none, regs := false }
      ((s.me.planes true).map (s.me.a.gea (s.g a + s.g b))) (Claims.laneTouches s m t true false hs) hs s1 → s1.markFull hs = false →
    ∃ u, exec (.vldG d a b m t) s = .next u ∧ u.me.pc = s1.nextPc 4 ∧ (∀ home pa, u.byteAt home pa = s1.byteAt home pa) ∧
      s1.me.a.Keeps u.me.a NoReg (s1.Dest d) NoMask ∧
      (s1.me.specOn = true → ∀ p h, (p, h) ∈ (s.me.planes true).zip hs → ∃ r, Claims.Sent u (.homeLoadServe r) ∧ r.pa = h.pa ∧
        r.home = h.home ∧ r.len = 64 ∧ r.pl = p ∧ r.dst = .v d p 0)) ∧
  (∀ (d a b : Reg) (m t : BitVec 3) (s s1 : State) (hs : List Hit),
    let w := tWidth t.toNat / 8
    let xs := (s.me.planes true).flatMap (fun p => (Claims.onLanes s m t).map (fun i => (p, i)))
    Claims.Passes s { kind := .load, al := w, ctr := none, regs := false }
      (xs.map (fun x => s.me.a.gea (s.g a + BitVec.ofNat 64 x.2 * s.g b) x.1)) w true false hs s1 →
    s1.markFull hs = false →
    ∃ u, exec (.vlds d a b m t) s = .next u ∧ u.me.pc = s1.nextPc 4 ∧ (∀ home pa, u.byteAt home pa = s1.byteAt home pa) ∧
      s1.me.a.Keeps u.me.a NoReg (s1.Dest d) NoMask ∧
      (s1.me.specOn = true → ∀ p i h, ((p, i), h) ∈ xs.zip hs → ∃ r, Claims.Sent u (.homeLoadServe r) ∧ r.pa = h.pa ∧
        r.len = w ∧ r.pl = p ∧ r.dst = .v d p (w * i))) ∧
  (∀ (d a b : Reg) (m t : BitVec 3) (s s1 : State) (hs : List Hit),
    Claims.PassesOn s { kind := .store, al := 64, ctr := some true, regs := false }
      ((s.me.planes true).map (s.me.a.gea (s.g a + s.g b))) (Claims.laneTouches s m t false true hs) hs s1 → s1.me.specOn = false →
    ∃ u, exec (.vstG d a b m t) s = .next u ∧ u.me.pc = s1.nextPc 4 ∧ (∀ home pa, u.byteAt home pa = s1.byteAt home pa) ∧
      s1.me.a.Keeps u.me.a NoReg NoReg NoMask ∧
      (laneBytes (s.me.a.mp m) (tWidth t.toNat) ≠ 0 → ∀ p h, (p, h) ∈ (s.me.planes true).zip hs →
        ∃ r, Claims.Sent u (.homeStoreApply r) ∧ r.pa = h.pa ∧ r.home = h.home ∧ r.len = 64 ∧
          r.mask = laneBytes (s.me.a.mp m) (tWidth t.toNat) ∧ r.data = s.me.a.vp p d))

/-- Local accesses that pass their checks complete in one step: loads write the bank's bytes, extended or lane by lane, to their
destination and its planes; stores leave their source's bytes, a vector store those of its active lanes, in each plane's image, where the
highest lane, and the highest plane, at an address remains, and change no other byte; no global byte changes (05 R97, R101, R102; 06
R129, R130). The model's choice, log 91: a watchpoint sees the bytes of a vector access's active lanes alone. -/
def Obligations.LocalAccesses : Prop :=
  (∀ (d a : Reg) (z : BitVec 3) (o : BitVec 11) (s : State),
    let eas := (s.me.planes (loadDual z)).map (s.me.a.lea (s.ea a o))
    Claims.LocalOk s (loadLen z) (loadLen z) true false eas →
    ∃ t, exec (.ldl d a z o) s = .next t ∧ s.RegStep t 4 (s.Dest d) NoReg NoMask ∧
      (∀ p ∈ s.me.planes (loadDual z), t.me.a.gp p d = (if d = 0 then 0 else
        loadExt z.toNat (leNat (s.myCC.locRead (s.me.a.lea (s.ea a o) p).toNat (loadLen z)))))) ∧
  (∀ (x a : Reg) (z : BitVec 2) (o : BitVec 12) (s : State),
    let eas := (s.me.planes (storeDual z)).map (s.me.a.lea (s.ea a o))
    Claims.LocalOk s (storeLen z) (storeLen z) false true eas → s.banksOk →
    ∃ t, exec (.stl x a z o) s = .next t ∧ t.me.pc = s.nextPc 4 ∧ s.me.a.Keeps t.me.a NoReg NoReg NoMask ∧
      Claims.onlyLocal s t eas (storeLen z) ∧ (∀ home pa, t.byteAt home pa = s.byteAt home pa) ∧
      (∀ p ∈ s.me.planes (storeDual z), (∀ q ∈ s.me.planes (storeDual z), p < q → s.me.a.lea (s.ea a o) q ≠ s.me.a.lea (s.ea a o) p) →
        ∀ i, i < storeLen z → t.localAt (ccOf s.cur) ((s.me.a.lea (s.ea a o) p).toNat + i) =
          some (Claims.nth (s.me.a.gp p x).toNat i))) ∧
  (∀ (d a b : Reg) (m t : BitVec 3) (s : State),
    let eas := (s.me.planes true).map (s.me.a.lea (s.g a + s.g b))
    Claims.LocalLanes s m t true false eas →
    ∃ u, exec (.vldL d a b m t) s = .next u ∧ s.RegStep u 4 NoReg (s.Dest d) NoMask ∧
      (∀ p ∈ s.me.planes true, ∀ k, k < tLanes t.toNat → lane (u.me.a.vp p d) (tWidth t.toNat) k =
        (if (s.me.a.mp m).getLsbD k then lane (vOf (s.myCC.locRead (s.me.a.lea (s.g a + s.g b) p).toNat 64)) (tWidth t.toNat) k
         else lane (s.me.a.vp p d) (tWidth t.toNat) k))) ∧
  (∀ (d a b : Reg) (m t : BitVec 3) (s : State),
    let eas := (s.me.planes true).map (s.me.a.lea (s.g a + s.g b))
    Claims.LocalLanes s m t false true eas → s.banksOk →
    ∃ u, exec (.vstL d a b m t) s = .next u ∧ u.me.pc = s.nextPc 4 ∧ s.me.a.Keeps u.me.a NoReg NoReg NoMask ∧
      Claims.onlyLocal s u eas 64 ∧ (∀ home pa, u.byteAt home pa = s.byteAt home pa) ∧
      (∀ p ∈ s.me.planes true, (∀ q ∈ s.me.planes true, p < q → s.me.a.lea (s.g a + s.g b) q ≠ s.me.a.lea (s.g a + s.g b) p) →
        ∀ i, i < 64 →
          let lo := (s.me.a.lea (s.g a + s.g b) p).toNat
          ((laneBytes (s.me.a.mp m) (tWidth t.toNat)).getLsbD i = true →
            u.localAt (ccOf s.cur) (lo + i) = some (Claims.nth (s.me.a.vp p d).toNat i)) ∧
          ((laneBytes (s.me.a.mp m) (tWidth t.toNat)).getLsbD i = false →
            u.localAt (ccOf s.cur) (lo + i) = s.localAt (ccOf s.cur) (lo + i)))) ∧
  (∀ (d a b : Reg) (m t : BitVec 3) (s : State),
    let ls := active (s.me.a.mp m) 16
    let ea (i : Nat) : Word := s.g a + BitVec.ofNat 64 (lane (s.me.a.vp 0 b) 32 i)
    Claims.LocalOk s 4 4 true false ((s.me.planes true).flatMap (fun p => ls.map (fun i => s.me.a.lea (ea i) p))) →
    ∃ u, exec (.vgathL d a b m t) s = .next u ∧ s.RegStep u 4 NoReg (s.Dest d) NoMask ∧
      (∀ p ∈ s.me.planes true, ∀ k, k < 16 → lane (u.me.a.vp p d) 32 k =
        (if (s.me.a.mp m).getLsbD k then leNat (s.myCC.locRead (s.me.a.lea (ea k) p).toNat 4) else lane (s.me.a.vp p d) 32 k))) ∧
  (∀ (d a b : Reg) (m t : BitVec 3) (s : State),
    let ls := active (s.me.a.mp m) 16
    let ea (i : Nat) : Word := s.g a + BitVec.ofNat 64 (lane (s.me.a.vp 0 b) 32 i)
    let eas := (s.me.planes true).flatMap (fun p => ls.map (fun i => s.me.a.lea (ea i) p))
    Claims.LocalOk s 4 4 false true eas → s.banksOk →
    ∃ u, exec (.vscatL d a b m t) s = .next u ∧ u.me.pc = s.nextPc 4 ∧ s.me.a.Keeps u.me.a NoReg NoReg NoMask ∧
      Claims.onlyLocal s u eas 4 ∧ (∀ home pa, u.byteAt home pa = s.byteAt home pa) ∧
      (∀ p ∈ s.me.planes true, ∀ i ∈ ls,
        (∀ q ∈ s.me.planes true, ∀ j ∈ ls, (p < q ∨ q = p ∧ i < j) → s.me.a.lea (ea j) q ≠ s.me.a.lea (ea i) p) →
        ∀ k, k < 4 → u.localAt (ccOf s.cur) ((s.me.a.lea (ea i) p).toNat + k) =
          some (Claims.nth (lane (s.me.a.vp p d) 32 i) k)))

/-- HOME_LOAD_SERVE reads the bytes at the home slice and changes none; LOAD_REPLY writes the destination and nothing else of the
register banks, also where an interrupt would go back to the registers before a long operation, and an acquiring one begins a new
epoch (05 R87, R97, R99; 10 R184). A store performed at its home slice writes exactly its active bytes; where dies hold replicas of
the line they collapse and the write waits for their acknowledgement (10 R183, R185; 05 R97). -/
def Obligations.LoadsAndStoresPerformed : Prop :=
  (∀ (r : Req) (s : State), r.rm = false → isSys r.who = false → r.spec = none → Claims.oneLine r → r.len ≤ 64 →
    Claims.noSliceWatch s r.home →
    ∃ t q, exec (.homeLoadServe r) s = .next t ∧ Claims.Sent t (.loadReply q) ∧ q.who = r.who ∧ q.dst = r.dst ∧ q.len = r.len ∧
      q.acq = r.acq ∧ (∀ i, i < r.len → r.mask.getLsbD i = false → Claims.dataByte q i = s.byteAt r.home (r.pa + i)) ∧
      (∀ i, i < r.len → r.mask.getLsbD i = true → Claims.dataByte q i = Claims.dataByte r i) ∧
      (∀ home pa, t.byteAt home pa = s.byteAt home pa)) ∧
  (∀ (r : Req) (s : State) (d : Reg) (p z : Nat), r.dst = .g d p z → p ≤ 2 →
    ∃ t, exec (.loadReply r) s = .next t ∧
      (t.t r.who).a.gp p d = (if d = 0 then 0 else loadExt z (r.data.toNat % 2 ^ (8 * r.len))) ∧
      (∀ x q, q ≤ 2 → (x ≠ d ∨ q ≠ p) → (t.t r.who).a.gp q x = (s.t r.who).a.gp q x) ∧
      (∀ x q, (t.t r.who).a.vp q x = (s.t r.who).a.vp q x) ∧ (∀ x, (t.t r.who).a.mp x = (s.t r.who).a.mp x) ∧
      (∀ u pc due, (s.t r.who).undo = some (u, pc, due) → ∃ v, (t.t r.who).undo = some (v, pc, due) ∧
        v.gp p d = (if d = 0 then 0 else loadExt z (r.data.toNat % 2 ^ (8 * r.len)))) ∧
      (t.t r.who).epoch = (if r.acq then s.seq + 1 else (s.t r.who).epoch) ∧ (t.t r.who).pc = (s.t r.who).pc ∧
      (∀ k, k ≠ r.who → t.t k = s.t k) ∧ (∀ home pa, t.byteAt home pa = s.byteAt home pa)) ∧
  (∀ (r : Req) (s : State), r.kind = .store → s.repDies (lineKey r.pa) = [] → Claims.oneLine r → Claims.unheld s r → 0 < r.len →
    Claims.noSliceWatch s r.home →
    ∃ t, exec (.homeStoreApply r) s = .next t ∧ Claims.onlyBytes s t r ∧
      ∀ i, i < r.len → t.byteAt r.home (r.pa + i) =
        Claims.storedByte s r i) ∧
  (∀ (r : Req) (s : State), s.repDies (lineKey r.pa) ≠ [] →
    ∃ t, exec (.homeStoreApply r) s = .next t ∧ Claims.Sent t (.replicaCollapseAck r) ∧ t.repDies (lineKey r.pa) = [] ∧
      ∀ home pa, t.byteAt home pa = s.byteAt home pa) ∧
  (∀ (r : Req) (s : State), r.kind = .store → Claims.oneLine r → Claims.unheld s r → 0 < r.len → Claims.noSliceWatch s r.home →
    ∃ t, exec (.replicaCollapseAck r) s = .next t ∧ t.repDies (lineKey r.pa) = [] ∧ Claims.onlyBytes s t r ∧
      ∀ i, i < r.len → t.byteAt r.home (r.pa + i) =
        Claims.storedByte s r i)


/-- An AMO that passes its checks sends one request and completes; the slice writes the new value in one step and answers with the
old one; the reply writes the old value, sign-extended for W, to g[d] (10 R188). -/
def Obligations.AtomicsReadModifyWrite : Prop :=
  (∀ (i : Instr) (s s1 : State) (op : Nat) (d a b : Reg) (w : BitVec 1) (o : BitVec 2) (sc : BitVec 3) (h : Hit),
    Claims.amoCode i = some (op, d, a, b, w, o, sc) →
    let n := if w = 0 then 4 else 8
    Claims.Passes s (rmwChecks n) [s.g a] n true true [h] s1 →
    ∃ t r, exec i s = .next t ∧ t.me.pc = s1.nextPc 4 ∧ s1.me.a.Keeps t.me.a (fun x p => x = d ∧ p ∈ s1.me.dual) NoReg NoMask ∧
      (∀ home pa, t.byteAt home pa = s1.byteAt home pa) ∧ Claims.Sent t (.amoSliceApply r) ∧ r.who = s.cur ∧ r.kind = .amo op ∧
      r.pa = h.pa ∧ r.home = h.home ∧ r.len = n ∧ r.data.toNat = (s.g b).toNat ∧ r.cmp = s.g d ∧ r.acq = o.getLsbD 0 ∧
      r.rel = o.getLsbD 1 ∧ r.dst = (if d = 0 then .none else .g d 0 (if w = 0 then 2 else 3))) ∧
  (∀ (r : Req) (s : State) (op : Nat), r.kind = .amo op → (r.len = 4 ∨ r.len = 8) → Claims.oneLine r → Claims.unheld s r →
    s.repDies (lineKey r.pa) = [] → Claims.noSliceWatch s r.home →
    let old := Claims.memNat s r.home r.pa r.len
    let w := 8 * r.len
    ∃ t q, exec (.amoSliceApply r) s = .next t ∧ Claims.Sent t (.amoReply q) ∧ q.who = r.who ∧ q.dst = r.dst ∧ q.len = r.len ∧
      q.data.toNat = old ∧
      Claims.memNat t r.home r.pa r.len = Claims.amoValue op w old (r.data.toNat % 2 ^ w) (r.cmp.toNat % 2 ^ w) ∧
      Claims.onlyBytes s t r) ∧
  (∀ (r : Req) (s : State) (d : Reg) (z : Nat), r.dst = .g d 0 z →
    ∃ t, exec (.amoReply r) s = .next t ∧
      (t.t r.who).a.gp 0 d = (if d = 0 then 0 else loadExt z (r.data.toNat % 2 ^ (8 * r.len))) ∧
      (∀ x, x ≠ d → (t.t r.who).a.gp 0 x = (s.t r.who).a.gp 0 x) ∧ (∀ home pa, t.byteAt home pa = s.byteAt home pa))

/-- A RED that passes its checks sends, for each plane, one request with its addends, from each lane of v[b] or from g[b], and
completes without changing a register or a byte; an entry of the residual tile that the request matches goes with it. The slice applies
the addends of a request that it accepts, within quota or while its queue holds fewer than 48 entries, and counts it; it returns a
refused one; it never refuses a forced message, which it does not count; one for which the queue has no entry waits (10 R189-R194).
The model's choice, log 27: the line shows the target with the addends that its queue entry carries for the lane combined, in F32 for
ADD.F32 and ADD.BF16, and rounded once. -/
def Obligations.ReductionsAccepted : Prop :=
  (∀ (i : Instr) (s s1 : State) (op w : Nat) (a b : Reg) (v : BitVec 1) (hs : List Hit),
    Claims.redCode i = some (op, w, a, b, v) →
    let n := if v = 1 then 64 else w
    let ps := s.me.planes (decide (op ≤ 1))
    let rs := (ps.zip hs).map (Claims.redReq s1 op w v s.me.a b)
    Claims.Passes s (rmwChecks n) (ps.map (s.me.a.gea (s.g a))) n false true hs s1 →
    ∃ t, exec i s = .next t ∧ t.me.pc = s1.nextPc 4 ∧ s1.me.a.Keeps t.me.a NoReg NoReg NoMask ∧
      (∀ home pa, t.byteAt home pa = s1.byteAt home pa) ∧
      (isSys s.cur = false → ∀ q ∈ Claims.withTile s1 (coreOf s.cur) rs,
        ∃ r, Claims.Sent t (.redArrival r) ∧ r.who = s.cur ∧ r.cid = cidOf s.cur ∧ r.kind = .red op ∧ r.pa = q.pa ∧ r.home = q.home ∧
          r.pl = q.pl ∧ r.lanes = q.lanes ∧ r.own = q.own) ∧
      (isSys s.cur = true → ∀ q ∈ rs, Claims.Sent t (.forcedMessageApply q))) ∧
  (∀ (s : State) (core : Nat) (r : Req), s.tileMatch core r = none → s.takeRes core r = (r, s)) ∧
  (∀ (s : State) (core i : Nat) (r : Req) (e : Res), s.tileMatch core r = some i → vget (s.core core).tile i none = some e →
    (s.takeRes core r).1.own = r.own ||| e.r.own ∧ (s.takeRes core r).1.lanes = mergeLanes (redOp r) e.r.lanes r.lanes ∧
      (s.takeRes core r).1.pa = r.pa ∧ vget ((s.takeRes core r).2.core core).tile i none = none) ∧
  (∀ (r : Req) (s : State) (op : Nat), r.kind = .red op → op < 6 → Claims.lanesOk r op →
    s.hasRoom r = true → s.repDies (lineKey r.pa) = [] → Claims.noSliceWatch s r.home → Claims.unheld s r →
    ((s.inQuota r = true ∨ (s.slice r.home).rq.length < 48) → ∃ t, exec (.redArrival r) s = .next t ∧
      Claims.addendsApplied s t r op ∧
      mget (t.slice r.home).cnt (cntKey r) 0 = mget (s.slice r.home).cnt (cntKey r) 0 + 1) ∧
    (∃ t, exec (.forcedMessageApply r) s = .next t ∧ Claims.addendsApplied s t r op ∧
      (t.slice r.home).cnt = (s.slice r.home).cnt)) ∧
  (∀ (r : Req) (s : State), s.hasRoom r = false →
    exec (.forcedMessageApply r) s = .next s ∧ (s.inQuota r = true → exec (.redArrival r) s = .next s)) ∧
  (∀ (r : Req) (s : State), s.inQuota r = false → 48 ≤ (s.slice r.home).rq.length →
    ∃ t, exec (.redArrival r) s = .next t ∧ Claims.Sent t (.refusalReturn r) ∧ ∀ home pa, t.byteAt home pa = s.byteAt home pa)

/-- A refused addend takes a free entry of the residual tile with an age of 0 and an owner mask that includes its issuer; entries
of age 4096 cc leave by forced message; one that returns once its context's termination has begun is discarded; a window's start clears
every count; a drained queue entry frees (10 R191-R194). -/
def Obligations.ResidualTile : Prop :=
  (∀ (r : Req) (s : State), (s.core (coreOf r.who)).act = some r.cid → s.ending r.cid = false →
    s.tileMatch (coreOf r.who) { r with own := r.own ||| BitVec.ofNat 4 (2 ^ tsOf r.who) } = none →
    (∀ k, k < 4 → s.relWaits (tkOf r.cid (coreOf r.who * 4 + k)) = false) →
    (∃ i, i < 32 ∧ vget (s.core (coreOf r.who)).tile i none = none) →
    ∃ t i e, exec (.refusalReturn r) s = .next t ∧ i < 32 ∧ vget (s.core (coreOf r.who)).tile i none = none ∧
      vget (t.core (coreOf r.who)).tile i none = some e ∧ e.born = s.cyc ∧ e.r.lanes = r.lanes ∧
      e.r.own = r.own ||| BitVec.ofNat 4 (2 ^ tsOf r.who) ∧
      (t.cc (r.cid * 2048 + coreOf r.who)).refused = (s.cc (r.cid * 2048 + coreOf r.who)).refused + 1) ∧
  (∀ (r : Req) (s : State), s.ending r.cid = true →
    ∃ t, exec (.refusalReturn r) s = .next t ∧ t.pend = s.pend ∧ t.cores = s.cores) ∧
  (∀ (core : Nat) (s : State), ∃ t, exec (.residualAgeExpiry core) s = .next t ∧
    ∀ i e, i < 32 → vget (s.core core).tile i none = some e →
      (e.born + 4096 ≤ s.cyc → vget (t.core core).tile i none = none ∧ Claims.Sent t (.forcedMessageApply { e.r with chans := s.ownChans core e.r.cid e.r.own, drain := true })) ∧
      (s.cyc < e.born + 4096 → vget (t.core core).tile i none = some e)) ∧
  (∀ s : State, ∃ t, exec .quotaWindowStart s = .next t ∧ (∀ h, (t.slice h).cnt = []) ∧ (∀ h, (t.slice h).rq = (s.slice h).rq) ∧
    ∀ home pa, t.byteAt home pa = s.byteAt home pa) ∧
  (∀ (h : Nat) (s : State), ∃ t, exec (.reductionQueueDrain h) s = .next t ∧ (t.slice h).rq = (s.slice h).rq.drop 1 ∧
    ∀ home pa, t.byteAt home pa = s.byteAt home pa)

namespace Sys2Proof.Claims

open Sys2Proof.Machine

/-! ### Stalls, fences and counters -/

/-- The machine seen from a thread set. -/
def from_ (s : State) (tk : Nat) : State := { s with cur := tk }

/-- No access, reduction or residual message of the thread set is in flight (10 R186). -/
def quietTs (s : State) (tk : Nat) : Prop := ∀ x ∈ s.pend, waitsFor tk x.ev = false ∧ isLoad tk x.ev = false

/-- No byte of memory changes. -/
def sameBytes (s t : State) : Prop := ∀ home pa, t.byteAt home pa = s.byteAt home pa

/-- The stalled instruction of a thread set completes: pc goes on, its wait ends, and only the named g planes change. -/
def Resumes (s t : State) (tk : Nat) (G : Reg → Nat → Prop) : Prop :=
  (t.t tk).wait = none ∧ (t.t tk).pc = (from_ s tk).nextPc 4 ∧ (s.t tk).a.Keeps (t.t tk).a G NoReg NoMask

/-- The current instruction stalls: pc stays, no register and no byte of memory changes. -/
def Stalls (s t : State) (w : Wait) : Prop :=
  t.me.wait = some w ∧ t.me.pc = s.me.pc ∧ t.me.a = s.me.a ∧ sameBytes s t

/-- A trap of the thread set enters a handler: it does not speculate, and it is a system core or at privilege 1. -/
def ToHandler (s : State) (tk : Nat) : Prop :=
  (s.t tk).spec = none ∧ (isSys tk = true ∨ (s.t tk).priv ≠ 0) ∧ (s.t tk).pmctl.getLsbD 5 = false

end Sys2Proof.Claims

/-- FENCE and RFLUSH stall with no effect on a register or a byte; FENCE of another kind than acquire at CLUSTER scope or wider,
and RFLUSH, first send the residual entries that the thread set owns. RELEASE_PERFORMED completes them when no access,
reduction or residual message of the thread set is in flight, and a fence that acquires then performs its acquire (10 R186,
R187, R195). -/
def Obligations.FencesWaitThenComplete : Prop :=
  (∀ (k sc : BitVec 5) (s : State), ∃ t, exec (.fence k sc) s = .next t ∧
    Claims.Stalls s t (.fence k.toNat (decide (sc.toNat ≠ 0))) ∧ Claims.Sent t (.releasePerformed s.cur) ∧
    (k ≠ 0 → sc ≠ 0 → isSys s.cur = false → ∀ i e, i < 32 → vget (s.core (coreOf s.cur)).tile i none = some e →
      e.r.own.getLsbD (tsOf s.cur) = true → e.r.cid = cidOf s.cur →
      vget (t.core (coreOf s.cur)).tile i none = none ∧ Claims.Sent t (.forcedMessageApply { e.r with chans := s.ownChans (coreOf s.cur) e.r.cid e.r.own, drain := true }))) ∧
  (∀ s : State, ∃ t, exec .rflush s = .next t ∧ Claims.Stalls s t .rflush ∧ Claims.Sent t (.releasePerformed s.cur) ∧
    (isSys s.cur = false → ∀ i e, i < 32 → vget (s.core (coreOf s.cur)).tile i none = some e →
      e.r.own.getLsbD (tsOf s.cur) = true → e.r.cid = cidOf s.cur →
      vget (t.core (coreOf s.cur)).tile i none = none ∧ Claims.Sent t (.forcedMessageApply { e.r with chans := s.ownChans (coreOf s.cur) e.r.cid e.r.own, drain := true }))) ∧
  (∀ (tk k : Nat) (wide : Bool) (s : State), ((s.t tk).wait = some (.fence k wide) ∨ (s.t tk).wait = some .rflush) →
    Claims.quietTs s tk → (Claims.from_ s tk).stepping = false →
    ∃ t, exec (.releasePerformed tk) s = .next t ∧ Claims.Resumes s t tk NoReg ∧ Claims.sameBytes s t ∧
      ((s.t tk).wait = some (.fence k wide) → k ≠ 1 → (t.t tk).epoch = s.seq + 1)) ∧
  (∀ (tk : Nat) (s : State) (w : Wait), (s.t tk).wait = some w → s.relReady tk = false →
    ∃ t, exec (.releasePerformed tk) s = .next t ∧ (t.t tk).wait = some w ∧ (t.t tk).pc = (s.t tk).pc ∧
      { due := s.cyc + 1, ev := .releasePerformed tk } ∈ t.pend)

/-- SIGADD that passes its checks stalls and sends its addend; the slice adds it in one step and wakes the waiters whose target
is reached, and the instruction completes; a sum above 2^64 - 1 changes no byte and traps with COUNTER_OVERFLOW (10 R197,
R198). -/
def Obligations.CounterAdditions : Prop :=
  (∀ (a b : Reg) (s s1 : State) (h : Hit), Claims.Passes s (ctrChecks .rmw) [s.g a] 8 false true [h] s1 →
    ∃ t r, exec (.sigadd a b) s = .next t ∧ Claims.Stalls s1 t .sigadd ∧ Claims.Sent t (.sigaddApply r) ∧ r.who = s.cur ∧
      r.pa = h.pa ∧ r.home = h.home ∧ r.len = 8 ∧ r.data.toNat = (s.g b).toNat ∧ r.rel = true) ∧
  (∀ (r : Req) (s : State), r.len = 8 → Claims.oneLine r → Claims.noSliceWatch s r.home → Claims.unheld s r →
    (s.t r.who).wait = some .sigadd →
    let c := Claims.memNat s r.home r.pa 8
    let x := r.data.toNat % 2 ^ 64
    (c + x < 2 ^ 64 → (Claims.from_ s r.who).stepping = false →
      ∃ t, exec (.sigaddApply r) s = .next t ∧ Claims.memNat t r.home r.pa 8 = c + x ∧ Claims.onlyBytes s t r ∧
        Claims.Resumes s t r.who NoReg ∧
        ∀ tk tgt, (.ts tk, r.pa, tgt) ∈ (s.slice r.home).wait → tgt.toNat ≤ c + x → Claims.Sent t (.waitgeWake tk)) ∧
    (2 ^ 64 ≤ c + x → Claims.ToHandler s r.who →
      ∃ t, exec (.sigaddApply r) s = .next t ∧ Claims.sameBytes s t ∧ (t.t r.who).cause = 0x18 ∧ (t.t r.who).tval = r.va ∧
        (t.t r.who).epc = (s.t r.who).pc ∧ (t.t r.who).wait = none))

/-- WAITGE stalls and asks its counter's slice; a wake or a poll completes it exactly when the counter has reached its target,
with the counter in g[d] and an acquire; otherwise it registers, or polls again in 1024 cc where the slice holds 256 waiters
(10 R199). A wait whose clock passes its limit traps with WAIT_TIMEOUT, at privilege 0 once the loads
that have left the core have written their registers, until when the wait stays over (07 R145). CTRRD sends an acquiring read (10 R200). -/
def Obligations.CounterWaits : Prop :=
  (∀ (d a b : Reg) (s s1 : State) (h : Hit), Claims.Passes s (ctrChecks .load) [s.g a] 8 true false [h] s1 →
    (∃ t r, exec (.waitge d a b) s = .next t ∧ Claims.Stalls s1 t (.waitge d r false) ∧ Claims.Sent t (.waitgeRepoll s.cur) ∧
      r.pa = h.pa ∧ r.home = h.home ∧ r.cmp = s.g b ∧
      (s1.me.wclk = 0 → t.me.wlim = s1.me.wlimit.toNat % 2 ^ 48)) ∧
    (∃ t r, exec (.ctrrd d a) s = .next t ∧ t.me.pc = s1.nextPc 4 ∧ Claims.sameBytes s1 t ∧
      s1.me.a.Keeps t.me.a (fun x p => x = d ∧ p ∈ s1.me.dual) NoReg NoMask ∧ Claims.Sent t (.homeLoadServe r) ∧ r.who = s.cur ∧
      r.pa = h.pa ∧ r.home = h.home ∧ r.len = 8 ∧ r.acq = true ∧ r.mask = 0 ∧ r.dst = (if d = 0 then .none else .g d 0 3))) ∧
  (∀ (i : Instr) (tk : Nat) (d : Reg) (r : Req) (reg : Bool) (s : State), (i = .waitgeWake tk ∨ i = .waitgeRepoll tk) →
    (s.t tk).wait = some (.waitge d r reg) → Claims.oneLine { r with len := 8 } → Claims.noSliceWatch s r.home → Claims.unheld s r →
    let c := Claims.memNat s r.home r.pa 8
    (r.cmp.toNat ≤ c → (Claims.from_ s tk).stepping = false →
      ∃ t, exec i s = .next t ∧ Claims.sameBytes s t ∧ Claims.Resumes s t tk (fun x p => x = d ∧ (p = 0 ∨ p ∈ (s.t tk).dual)) ∧
        (t.t tk).a.gp 0 d = (if d = 0 then 0 else BitVec.ofNat 64 c) ∧ (t.t tk).epoch = s.seq + 1) ∧
    (c < r.cmp.toNat → reg = false → (s.slice r.home).wait.length < 256 →
      ∃ t, exec i s = .next t ∧ Claims.sameBytes s t ∧ (.ts tk, r.pa, r.cmp) ∈ (t.slice r.home).wait ∧
        (t.t tk).wait = some (.waitge d r true) ∧ (t.t tk).pc = (s.t tk).pc ∧ (t.t tk).a = (s.t tk).a) ∧
    (c < r.cmp.toNat → reg = false → 256 ≤ (s.slice r.home).wait.length →
      ∃ t, exec i s = .next t ∧ Claims.sameBytes s t ∧ (t.t tk).wait = some (.waitge d r false) ∧
        { due := s.cyc + 1024, ev := .waitgeRepoll tk } ∈ t.pend ∧ (t.t tk).pc = (s.t tk).pc ∧ (t.t tk).a = (s.t tk).a)) ∧
  (∀ (tk : Nat) (w : Wait) (s : State), (s.t tk).wait = some w → w.bounded = true → (∀ n, w ≠ .expired n) →
    (s.t tk).wlim < (s.t tk).wclk →
    (Claims.ToHandler s tk →
      ∃ t, exec (.waitTimeout tk) s = .next t ∧ (t.t tk).cause = 0x19 ∧ (t.t tk).tval = BitVec.ofNat 64 (s.t tk).wclk ∧
        (t.t tk).epc = (s.t tk).pc ∧ (t.t tk).wait = none ∧ (t.t tk).wclk = 0 ∧ Claims.sameBytes s t) ∧
    (s.mustLand tk cTimeout = true →
      ∃ t, exec (.waitTimeout tk) s = .next t ∧ (t.t tk).wait = some (.expired (s.t tk).wclk) ∧ (t.t tk).pc = (s.t tk).pc ∧
        (t.t tk).a = (s.t tk).a ∧ Claims.sameBytes s t)) ∧
  (∀ (tk n : Nat) (s : State), (s.t tk).wait = some (.expired n) → Claims.ToHandler s tk →
    ∃ t, exec (.waitTimeout tk) s = .next t ∧ (t.t tk).cause = 0x19 ∧ (t.t tk).tval = BitVec.ofNat 64 n ∧
      (t.t tk).epc = (s.t tk).pc ∧ (t.t tk).wait = none ∧ Claims.sameBytes s t)

/-- DISCARD sends one request for its line's part in the page and completes; at the slice the line leaves L2 and the reduction
queue, and no other line changes (10 R201). L1INV drops every sector of the core's L1 and takes 4 cc (10 R202). -/
def Obligations.CacheMaintenance : Prop :=
  (∀ (a : Reg) (s s1 : State) (h : Hit), s.plan s.cur (rmwChecks 1) [s.g a] = (.ok [h], s1) → s1.cur = s.cur →
    s1.stepping = false →
    let lo := max (h.pa / 192 * 192) (h.pa / 65536 * 65536)
    let hi := min (h.pa / 192 * 192 + 192) (h.pa / 65536 * 65536 + 65536)
    s1.watch s1.cur [{ lo := h.ea.toNat - (h.pa - lo), len := hi - lo, rd := false, wr := true, loc := false }] = none →
    ∃ t r, exec (.discard a) s = .next t ∧ t.me.pc = s1.nextPc 4 ∧ s1.me.a.Keeps t.me.a NoReg NoReg NoMask ∧
      Claims.sameBytes s1 t ∧ Claims.Sent t (.homeStoreApply r) ∧ r.kind = .discard ∧ r.pa = lo ∧ r.len = hi - lo ∧
      r.home = h.home) ∧
  (∀ (r : Req) (s : State), r.kind = .discard → s.repDies (lineKey r.pa) = [] → Claims.noSliceWatch s r.home →
    ((s.slice r.home).l2.map Prod.fst).Pairwise (· < ·) →
    ∃ t, exec (.homeStoreApply r) s = .next t ∧ mfind (t.slice r.home).l2 (lineKey r.pa) = none ∧
      (∀ e ∈ (t.slice r.home).rq, e.1 ≠ lineKey r.pa) ∧
      ∀ home pa, (lineKey pa ≠ lineKey r.pa ∨ home ≠ r.home ∧ Claims.unheld s r) → t.byteAt home pa = s.byteAt home pa) ∧
  (∀ s : State, s.stepping = false → ∃ t, exec .l1inv s = .next t ∧ t.me.pc = s.nextPc 4 ∧
    s.me.a.Keeps t.me.a NoReg NoReg NoMask ∧ Claims.sameBytes s t ∧ t.me.readyAt = s.cyc + 4 ∧
    (isSys s.cur = false → (t.core (coreOf s.cur)).l1 = []) ∧
    ∀ k, k ≠ coreOf s.cur → (t.core k).l1 = (s.core k).l1)

/-- Results that are due become ready, and no register changes; planes of an active context that have counted 4096 quiet
cc gate, and lose their contents exactly when DMODE.RET = 0; those of a context that is not active, or of an earlier quiet, stay; a wake
ungates them (02 R27-R29; 05 R86). That hardware finds no system core's planes to gate is the model's choice (log 98). -/
def Obligations.ResultsAndPlanes : Prop :=
  (∀ (tk : Nat) (s : State), ∃ t, exec (.resultReady tk) s = .next t ∧ (t.t tk).a = (s.t tk).a ∧
    (∀ b, b ∈ (t.t tk).busy ↔ b ∈ (s.t tk).busy ∧ ∀ d, b.due = some d → s.cyc < d) ∧ (∀ k, k ≠ tk → t.t k = s.t k) ∧
    Claims.sameBytes s t) ∧
  (∀ (tk : Nat) (s : State), (s.t tk).a.dmode.getLsbD 4 = false → 4096 ≤ (s.t tk).quiet → (s.t tk).a.dmode.getLsbD 0 = false →
    (s.t tk).dact = false → (s.t tk).spec = none → (isSys tk = true ∨ (s.core (coreOf tk)).act = some (cidOf tk)) →
    ∃ t, exec (.planeGating tk) s = .next t ∧ (t.t tk).a.dmode.getLsbD 4 = true ∧
      (∀ r, (t.t tk).a.gp 0 r = (s.t tk).a.gp 0 r ∧ (t.t tk).a.vp 0 r = (s.t tk).a.vp 0 r) ∧
      (∀ r p, (p = 1 ∨ p = 2) →
        (t.t tk).a.gp p r = (if (s.t tk).a.dmode.getLsbD 3 then (s.t tk).a.gp p r else 0) ∧
        (t.t tk).a.vp p r = (if (s.t tk).a.dmode.getLsbD 3 then (s.t tk).a.vp p r else 0)) ∧
      (∀ k, k ≠ tk → t.t k = s.t k)) ∧
  (∀ (tk : Nat) (s : State), ((s.t tk).a.dmode.getLsbD 4 = true ∨ (s.t tk).quiet < 4096 ∨ (s.t tk).a.dmode.getLsbD 0 = true ∨
      (s.t tk).dact = true ∨ (s.t tk).spec ≠ none ∨ (isSys tk = false ∧ (s.core (coreOf tk)).act ≠ some (cidOf tk))) → exec (.planeGating tk) s = .next s) ∧
  (∀ (tk : Nat) (s : State), (s.t tk).wakeAt ≠ none →
    ∃ t, exec (.planeWakeDone tk) s = .next t ∧ (t.t tk).a.dmode.getLsbD 4 = false ∧ (t.t tk).wakeAt = none ∧
      (t.t tk).wait ≠ some .plane ∧ (s.t tk).a.Keeps { (t.t tk).a with dmode := (s.t tk).a.dmode } NoReg NoReg NoMask ∧
      (∀ i, i ≠ 4 → (t.t tk).a.dmode.getLsbD i = (s.t tk).a.dmode.getLsbD i) ∧ (∀ k, k ≠ tk → t.t k = s.t k))

namespace Sys2Proof.Claims

open Sys2Proof.Machine

/-! ### Exceptions and control words -/

/-- The handler's address (20 R349). -/
def vector (tvec : Word) (code : Nat) : Word :=
  if tvec.toNat % 4 = 1 ∧ 0x80 ≤ code ∧ code ≤ 0x87 then (tvec &&& ~~~(3 : Word)) + 64 + BitVec.ofNat 64 (4 * (code - 0x80))
  else tvec &&& ~~~(3 : Word)

/-- The thread set has entered its handler (20 R351): the saved words, STATUS, pc, and everything that stays. -/
structure Entered (s t : State) (tk code : Nat) (tval epc : Word) : Prop where
  escr : (t.t tk).escr = (s.t tk).a.status
  cause : (t.t tk).cause = BitVec.ofNat 64 code
  tval : (t.t tk).tval = tval
  epc : (t.t tk).epc = epc
  priv : (t.t tk).priv = if isSys tk then 3 else 1
  ie : (t.t tk).ie = false
  window : (t.t tk).dact = false ∧ (t.t tk).dwin = 0 ∧ (t.t tk).dpln = 0
  upper : ∀ i, 10 ≤ i → (t.t tk).a.status.getLsbD i = (s.t tk).a.status.getLsbD i
  pc : (t.t tk).pc = vector (s.ctx (ctxKey tk)).tvec code
  regs : (s.t tk).a.Keeps (t.t tk).a NoReg NoReg NoMask
  words : (t.t tk).a.fmode = (s.t tk).a.fmode ∧ (t.t tk).a.srseed = (s.t tk).a.srseed
  loops : (t.t tk).a.ls = (s.t tk).a.ls ∧ (t.t tk).a.le = (s.t tk).a.le ∧ (t.t tk).a.lc = (s.t tk).a.lc ∧
    (t.t tk).a.lstat = (s.t tk).a.lstat
  others : ∀ k, k ≠ tk → t.t k = s.t k
  bytes : sameBytes s t

/-- The thread set takes a handler entry as it stands: it does not speculate and its traps are not traced. -/
def Plain (s : State) (tk : Nat) : Prop :=
  (s.t tk).spec = none ∧ (s.t tk).specOn = false ∧ (s.t tk).pmctl.getLsbD 5 = false

/-- Registers and pc that an interrupt saves: those before a long operation that still executes, else as they stand (05 R87). -/
def resumeArch (s : State) (tk : Nat) : Arch :=
  match (s.t tk).undo with
  | some (a, _, due) => if s.cyc < due then a.backFrom (s.t tk).a else (s.t tk).a
  | none => (s.t tk).a
def resumePc (s : State) (tk : Nat) : Word :=
  match (s.t tk).undo with
  | some (_, pc, due) => if s.cyc < due then pc else (s.t tk).pc
  | none => (s.t tk).pc

/-- Bits of STATUS that belong to the DUAL window. -/
def windowBit (i : Nat) : Bool := decide (3 ≤ i ∧ i ≤ 5) || decide (7 ≤ i ∧ i ≤ 9)

/-- The first word of an instruction, as TVAL holds it (03 R65). -/
def wordOf (i : Instr) : Word := BitVec.ofNat 64 i.firstWord

/-- A control word's new value when `v` is written: RW bits take it, W1C bits written as 1 clear, RO bits stay (02 R31). -/
def merged (r : CwRow) (old v : Word) : Word := (old &&& r.ro) ||| (v &&& r.rw) ||| (old &&& r.w1c &&& ~~~v)

/-- The value that CWR, CSETB and CCLRB give every bit (05 R110), W1C bits with the instruction's own operand or none. -/
def cwOperand (i : Instr) (r : CwRow) (old : Word) (s : State) : Option (BitVec 10 × Word) :=
  match i with
  | .cwr a x => some (x, s.g a)
  | .csetb a x => some (x, ((old ||| s.g a) &&& ~~~r.w1c) ||| (s.g a &&& r.w1c))
  | .cclrb a x => some (x, (old &&& ~~~(s.g a)) &&& ~~~r.w1c)
  | _ => none

end Sys2Proof.Claims

/-- Taking an exception: a trap at privilege 1, on a system core, or with another cause than 0x01-0x1B enters the handler in one
step, with the saved words, the status and the pc of 20 R351 and no change of another register, word, byte or thread set. ECALL
and EBREAK take causes 0x20 and 0x21 with TVAL 0 (20 R354). -/
def Obligations.TrapsEnterHandlers : Prop :=
  (∀ (s : State) (tk code : Nat) (tval epc : Word), Claims.Plain s tk →
    (isSys tk = true ∨ (s.t tk).priv ≠ 0 ∨ code = 0 ∨ 0x1B < code) →
    Claims.Entered s (s.trapAt tk code tval epc) tk code tval epc) ∧
  (∀ s : State, Claims.Plain s s.cur →
    (∃ t, exec .ecall s = .next t ∧ Claims.Entered s t s.cur 0x20 0 s.me.pc) ∧
    (∃ t, exec .ebreak s = .next t ∧ Claims.Entered s t s.cur 0x21 0 s.me.pc))

/-- A trap at privilege 0 of a compute core with cause 0x01-0x1B parks the bound task: its TCB holds STATE 4, the trapping pc and
every register, an entry with the fault's eight words joins the fault queue, the split request on it goes, and the thread set is
idle (19 R334, R335; 20 R351). -/
def Obligations.UserFaultsPark : Prop :=
  ∀ (s : State) (tk code tcb : Nat) (tval epc : Word) (k : Task) (l : Launch), isSys tk = false → (s.t tk).priv = 0 →
    Claims.Plain s tk → 1 ≤ code → code ≤ 0x1B → (∀ b ∈ (s.t tk).busy, b.due ≠ none) → (s.t tk).bound = some tcb →
    s.task? (s.partOf tk) tcb = some k → s.launch? (s.partOf tk) k.cid k.seq = some l →
    let p := s.partOf tk
    let t := s.trapAt tk code tval epc
    (t.t tk).bound = none ∧ (t.t tk).wait = none ∧
    (∃ r, mfind (t.part p).tcbs tcb = some r ∧ r.state = 4 ∧ r.cid = k.cid ∧ r.launch = l.va ∧ r.seq = k.seq ∧ r.pc = epc ∧
      r.a = (s.t tk).a) ∧
    (∃ e ∈ (t.part p).fq, e.tcb = tcb ∧ e.words = [BitVec.ofNat 64 tcb, BitVec.ofNat 64 code, epc, tval,
      BitVec.ofNat 64 (posOf tk), l.va, (s.t tk).a.claim, (s.t tk).a.rend]) ∧
    Claims.Sent t (.faultQueueWrite p) ∧ ∃ k', t.task? p tcb = some k' ∧ k'.st = 4 ∧ k'.req = none

/-- ERET restores STATUS and pc from ESCR and EPC, with the DUAL window closed where it goes past a covered ECALL or EBREAK (03 R61,
20 R354), and after a WATCH trap at that EPC no fetch watchpoint matches (23 R404); WFI and TLBINV stall, and a TLBINV of a compute
core begins only before its partition streams its contexts out (21 R382); HALT halts with pc + 4; each in the modes that may run it,
and in the others it raises PRIV with its word (20 R355-R357, R369; 03 R65). The model's choice, log 92: a return goes past a covered ECALL
or EBREAK when EPC is the address after it, whatever CAUSE holds; and log 8: a system core disarms no loop level. -/
def Obligations.PrivilegedInstructions : Prop :=
  (∀ s : State, s.me.priv ≠ 0 → s.me.escr.toNat % 4 ≤ s.me.priv →
    ∃ t, exec .eret s = .next t ∧ t.me.pc = s.me.epc ∧ t.me.specOn = false ∧
      (∀ i, i ≠ 6 → t.me.a.status.getLsbD i = (s.me.escr.getLsbD i && !(s.me.pastCall && Claims.windowBit i))) ∧ s.me.a.Keeps t.me.a NoReg NoReg NoMask ∧
      t.me.a.fmode = s.me.a.fmode ∧ t.me.a.srseed = s.me.a.srseed ∧ t.me.a.lc = s.me.a.lc ∧ t.me.a.ls = s.me.a.ls ∧
      t.me.a.le = s.me.a.le ∧
      (∀ l, l < 2 → Claims.armed t.me.a l = (Claims.armed s.me.a l && (decide (s.me.escr.toNat % 4 ≠ 0) || isSys s.cur ||
        (decide (vget s.me.a.ls l 0 ≤ s.me.epc) && decide (s.me.epc ≤ vget s.me.a.le l 0))))) ∧
      t.me.epc = s.me.epc ∧ t.me.cause = s.me.cause ∧ t.me.tval = s.me.tval ∧ t.me.escr = s.me.escr ∧ s.Elsewhere t ∧
      (s.me.cause = 0x22 → s.me.watch = some s.me.epc → t.fetchWatch s.cur = false)) ∧
  (∀ s : State, s.me.priv ≠ 0 → ∃ t, exec .wfi s = .next t ∧ Claims.Stalls s t .wfi) ∧
  (∀ (a : Reg) (sc : BitVec 3) (f : BitVec 2) (s : State), s.me.priv ≠ 0 → isSys s.cur = false → s.draining (s.partOf s.cur) = true →
    exec (.tlbinv a sc f) s = .next (s.upMe (fun t => { t with readyAt := s.cyc + 1 }))) ∧
  (∀ (a : Reg) (sc : BitVec 3) (f : BitVec 2) (s : State), s.me.priv ≠ 0 →
    (isSys s.cur = true ∨ s.draining (s.partOf s.cur) = false) → ∃ t, exec (.tlbinv a sc f) s = .next t ∧
    Claims.Stalls s t (.tlbinv f.toNat sc.toNat (s.g a) [] false) ∧ Claims.Sent t (.releasePerformed s.cur)) ∧
  (∀ s : State, s.me.priv = 3 → ∃ t, exec .halt s = .next t ∧ t.me.halted = true ∧ t.me.pc = s.me.pc + 4 ∧
    s.me.a.Keeps t.me.a NoReg NoReg NoMask ∧ s.Elsewhere t) ∧
  (∀ (i : Instr) (s : State), (i = .wfi ∧ s.me.priv = 0) ∨ ((∃ a sc f, i = .tlbinv a sc f) ∧ s.me.priv = 0) ∨
    (i = .eret ∧ (s.me.priv = 0 ∨ s.me.priv < s.me.escr.toNat % 4)) ∨ (i = .halt ∧ s.me.priv ≠ 3) →
    exec i s = .next (s.trapAt s.cur 2 (Claims.wordOf i) s.me.pc))

/-- An interrupt is taken at a boundary when IE = 1: a pending termination first, else the lowest pending line, with the saved pc
at the instruction that runs next, which is a long operation that still executes and whose results are then not written (05 R87), and
not in the cc in which a crossing commits: a delivery then does nothing (14 R290); the line or the record that was taken is no longer pending (20 R353). IPOST sets lines 0-5 of
a position (20 R359). -/
def Obligations.InterruptsDelivered : Prop :=
  (∀ (tk code : Nat) (s : State), Claims.Plain s tk → isSys tk = false → (s.core (coreOf tk)).act = some (cidOf tk) →
    (s.t tk).bound ≠ none → (s.t tk).ie = true → (s.t tk).stopped = false → (s.t tk).sent = false →
    s.inFlight (fun e => e == .specCommit tk) = false → (Claims.resumeArch s tk).status.getLsbD 6 = false →
    let c := s.ctx (cidOf tk)
    let term := c.state.toNat / 2 ^ 16 % 2 ^ 13 = posOf tk ∧ c.state.getLsbD 2 = true ∧ c.terms ≠ []
    let low (k : Nat) : Prop := k < 8 ∧ (s.t tk).irq.getLsbD k = true ∧ ∀ j, j < k → (s.t tk).irq.getLsbD j = false
    ((term ∧ code = 0x41) ∨ (¬ term ∧ 0x80 ≤ code ∧ low (code - 0x80))) →
    ∃ t, exec (.interruptDelivery tk) s = .next t ∧ (t.t tk).cause = BitVec.ofNat 64 code ∧ (t.t tk).epc = Claims.resumePc s tk ∧
      (t.t tk).escr = (Claims.resumeArch s tk).status ∧ (t.t tk).pc = Claims.vector c.tvec code ∧ (t.t tk).priv = 1 ∧ (t.t tk).ie = false ∧
      (t.t tk).wait = none ∧ (Claims.resumeArch s tk).Keeps (t.t tk).a NoReg NoReg NoMask ∧
      (term → (∃ x, c.terms.head? = some x ∧ (t.t tk).tval = BitVec.ofNat 64 x.1) ∧ (t.ctx (cidOf tk)).terms = c.terms.drop 1 ∧
        (t.t tk).irq = (s.t tk).irq) ∧
      (¬ term → (t.t tk).tval = (if code = 0x86 then (s.t tk).pmovf else 0) ∧
        ∀ j, j < 8 → (t.t tk).irq.getLsbD j = ((s.t tk).irq.getLsbD j && decide (j ≠ code - 0x80)))) ∧
  (∀ (tk : Nat) (s : State), s.inFlight (fun e => e == .specCommit tk) = true → exec (.interruptDelivery tk) s = .next s) ∧
  (∀ (lines : BitVec 8) (pos cid : Nat) (s : State) (u : TSet), s.cidIn (s.partOfDie (dieOfRouter (pos / 32))) cid = true →
    (s.ctx cid).res ≠ 0 → (s.ctx cid).state.getLsbD 0 = true → mfind s.ts (tkOf cid pos) = some u →
    ∃ t, exec (.ipost lines pos cid) s = .next t ∧ (t.t (tkOf cid pos)).irq = u.irq ||| (lines &&& 0x3F) ∧
      (∀ k, k ≠ tkOf cid pos → t.t k = s.t k) ∧ Claims.sameBytes s t)

/-- CRD reads a control word at issue; CWR, CSETB and CCLRB give it its new value and complete, and no other word and no register
changes but for the words that show the same storage (where two thread sets of a core write NXMC in one cc, R33 decides); a counter word's write follows the counting of its cc. An index that is not
assigned, or a value outside the word's fields, is ILLEGAL_INSN; a word that privilege 0 may not reach is PRIV (02 R30, R31; 05
R110, R111; 00 R7; 23 R401). -/
def Obligations.ControlWords : Prop :=
  (∀ (d : Reg) (x : BitVec 10) (s : State) (r : CwRow), cwRow x.toNat = some r →
    ((s.me.priv ≠ 0 ∨ r.user ≠ 0) → (x.toNat = 0x010 → s.flagsPending s.cur = false) → s.stepping = false →
      ∃ t, exec (.crd d x) s = .next t ∧ t.me.a.gp 0 d = (if d = 0 then 0 else s.cwGet s.cur x.toNat) ∧
        (∀ p ∈ s.me.dual, t.me.a.gp p d = 0) ∧ s.RegStep t 4 (s.Dest d) NoReg NoMask) ∧
    (s.me.priv = 0 → r.user = 0 → exec (.crd d x) s = .next (s.trapAt s.cur 2 (Claims.wordOf (.crd d x)) s.me.pc))) ∧
  (∀ (d : Reg) (x : BitVec 10) (s : State), cwRow x.toNat = none →
    exec (.crd d x) s = .next (s.trapAt s.cur 1 (Claims.wordOf (.crd d x)) s.me.pc)) ∧
  (∀ (i : Instr) (x : BitVec 10) (v : Word) (s : State) (r : CwRow), cwRow x.toNat = some r →
    Claims.cwOperand i r (s.cwGet s.cur x.toNat) s = some (x, v) →
    (s.me.priv = 0 → r.user ≠ 2 → exec i s = .next (s.trapAt s.cur 2 (Claims.wordOf i) s.me.pc)) ∧
    ((s.me.priv ≠ 0 ∨ r.user = 2) → cwPass x.toNat r v = false → exec i s = .next (s.trapAt s.cur 1 (Claims.wordOf i) s.me.pc)) ∧
    ((s.me.priv ≠ 0 ∨ r.user = 2) → cwPass x.toNat r v = true → s.cwWaits x.toNat = false →
      (x.toNat = 0x012 → ∀ k, k < 4 → s.cur / 4 * 4 + k ≠ s.cur → (s.t (s.cur / 4 * 4 + k)).nxmTo = none) →
      ∃ u, exec i s = .next (u.done 4) ∧ u.me.pc = s.me.pc ∧ (∀ q p, p ≤ 2 → u.me.a.gp p q = s.me.a.gp p q) ∧
        (∀ q p, p ≤ 2 → u.me.a.vp p q = s.me.a.vp p q) ∧ (∀ q, u.me.a.mp q = s.me.a.mp q) ∧ Claims.sameBytes s u ∧
        (isPmw x.toNat = false → x.toNat ≠ 0x090 →
          u.cwGet s.cur x.toNat = Claims.merged r (s.cwGet s.cur x.toNat) v) ∧
        (x.toNat = 0x090 → isSys s.cur = false → u.myCC.ovf = (s.myCC.ovf && !v.getLsbD 31)) ∧
        (isPmw x.toNat = false → ∀ y, y ≠ x.toNat → ¬ (x.toNat = 0x012 ∧ (y = 0x010 ∨ (0x080 ≤ y ∧ y ≤ 0x087))) →
          ¬ (x.toNat = 0x062 ∧ (y = 0x063 ∨ y = 0x064)) → u.cwGet s.cur y = s.cwGet s.cur y) ∧
        (isPmw x.toNat = true → ∃ k g, u.me.pmw = s.me.pmw ++ [(x.toNat, k, g)] ∧ ∀ y, u.cwGet s.cur y = s.cwGet s.cur y)))

/-- A walk of three levels reads one entry at each, at its table's base plus eight times the level's index, and ends at the leaf's
frame with A set, and D for a write, where its tables lie in the partition's LPDDR6 (21 R373) and are not held; a 512 MiB leaf ends it at the second level; bits 63:55 of the address, or bit 54 at privilege
0, make it a page fault (20 R365, R366). -/
def Obligations.PageWalks : Prop :=
  (∀ (s : State) (cid : Nat) (va : Word) (k : AccessKind) (priv : Nat) (e1 e2 e3 : Word),
    let c := s.ctx cid
    let p := c.part
    let frame (e : Word) : Nat := e.toNat / 2 ^ 16 % 2 ^ 36 * 65536
    let ptr (e : Word) : Prop := e.getLsbD 0 = true ∧ e.toNat / 2 % 8 = 0 ∧ e.toNat / 16 % 2 ^ 12 = 0 ∧ e.toNat / 2 ^ 52 = 0
    let leaf (e : Word) : Prop := e.getLsbD 0 = true ∧ e.toNat / 2 % 8 ≠ 0 ∧ e.toNat / 2 ^ 52 = 0
    let a1 := frame c.root + 8 * (va.toNat / 2 ^ 42 % 2 ^ 13)
    let a2 := frame e1 + 8 * (va.toNat / 2 ^ 29 % 2 ^ 13)
    let a3 := frame e2 + 8 * (va.toNat / 2 ^ 16 % 2 ^ 13)
    let free (a : Nat) : Prop := s.tableOk p a = true ∧ s.heldLine (s.home00 p a) a = false
    let ad (e : Word) : Word := e ||| 0x20 ||| (if k = .store ∨ k = .rmw then 0x40 else 0)
    va.toNat / 2 ^ 55 = 0 → (priv = 0 → va.getLsbD 54 = false) → c.root.getLsbD 0 = true → (∀ h, Claims.noSliceWatch s h) →
    e1 = s.rdWord p a1 → ptr e1 → free a1 → e2 = s.rdWord p a2 → free a2 →
    (ptr e2 → e3 = s.rdWord p a3 → free a3 → leaf e3 → leafOk false e3 = true → leafAllows e3 k priv = true →
      let pa := leafPa false e3 va
      s.inPartition p pa = true → s.retired pa = false → (s.walk cid va k priv).1 = .ok pa (ad e3)) ∧
    (leaf e2 → leafOk true e2 = true → leafAllows e2 k priv = true →
      let pa := e2.toNat / 2 ^ 29 % 2 ^ 23 * 2 ^ 29 + va.toNat % 2 ^ 29
      s.inPartition p pa = true → s.retired pa = false → (s.walk cid va k priv).1 = .ok pa (ad e2)) ∧
    (leaf e2 → leafOk true e2 = true → leafAllows e2 k priv = false → (s.walk cid va k priv).1 = .pf)) ∧
  (∀ (s : State) (cid : Nat) (va : Word) (k : AccessKind) (priv : Nat),
    (va.toNat / 2 ^ 55 ≠ 0 ∨ (priv = 0 ∧ va.getLsbD 54 = true) ∨ (s.ctx cid).root.getLsbD 0 = false) →
    s.walk cid va k priv = (.pf, false, s))

/-- CNEXT.LOAD streams a context in for 256 cc, the standby context out first, and LOADs made while a stream runs wait for its end in
their order; a stream's end leaves the context standing by, its registers at their values after reset where it has never left an image
there (00 R8), or none and no thread set of it; CNEXT.SWITCH asks for the core, and at the quantum's end the standby context becomes active and the
active one stands by (20 R359-R362; 08 R169). CTERM.GO starts the termination of a live context of the die's partition and stops its
thread sets, once, and sets TERR for another CID; when the context's writes are performed, those apart that
are held at a lost line, which are discarded, no core and no thread set holds it (20 R363, R364; 24 R420; 25 R426). The model's choices:
log 48, a LOAD of a context that is not live or that is on the core already changes nothing; log 2, the registers of which 00 R8 names no
value after reset. -/
def Obligations.ContextLifecycle : Prop :=
  (∀ (core cid : Nat) (s : State),
    ((s.core core).strm = none → s.loadable cid core = false → exec (.cnextLoad core cid) s = .next s) ∧
    ((s.core core).strm ≠ none → s.hasImage cid core = false → exec (.cnextLoad core cid) s = .next s) ∧
    (s.loadable cid core = true → (s.core core).strm = none → (s.core core).stby = none →
      ∃ t, exec (.cnextLoad core cid) s = .next t ∧ (t.core core).strm = some (cid, true) ∧ (t.core core).wantLd = (s.core core).wantLd ∧
        { due := s.cyc + 256, ev := .contextStreamEnd core } ∈ t.pend) ∧
    (∀ x, s.loadable cid core = true → (s.core core).strm = none → (s.core core).stby = some x →
      ∃ t, exec (.cnextLoad core cid) s = .next t ∧ (t.core core).strm = some (x, false) ∧
        (t.core core).wantLd = cid :: (s.core core).wantLd ∧
        { due := s.cyc + 256, ev := .contextStreamEnd core } ∈ t.pend) ∧
    (s.hasImage cid core = true → (s.core core).strm ≠ none →
      ∃ t, exec (.cnextLoad core cid) s = .next t ∧ (t.core core).wantLd = (s.core core).wantLd ++ [cid] ∧
        (t.core core).strm = (s.core core).strm ∧ (t.core core).act = (s.core core).act)) ∧
  (∀ (core cid : Nat) (s : State), (s.core core).wantLd = [] →
    ((s.core core).strm = some (cid, true) →
      ∃ t, exec (.contextStreamEnd core) s = .next t ∧ (t.core core).stby = some cid ∧ (t.core core).strm = none ∧
        (t.core core).act = (s.core core).act ∧
        ∀ k, k < 4 → (t.t (tkOf cid (core * 4 + k))).wait = none ∧ (t.t (tkOf cid (core * 4 + k))).spec = none ∧
          (t.t (tkOf cid (core * 4 + k))).busy = [] ∧
          (mfind (s.ctx cid).kept (core * 4 + k) = none → (t.t (tkOf cid (core * 4 + k))).a = Arch.reset)) ∧
    ((s.core core).strm = some (cid, false) → s.settledOut cid core = true →
      ∃ t, exec (.contextStreamEnd core) s = .next t ∧ (t.core core).stby = none ∧ (t.core core).strm = none ∧
        ∀ tk, isSys tk = false → cidOf tk = cid → coreOf tk = core → mfind t.ts tk = none) ∧
    ((s.core core).strm = some (cid, false) → s.settledOut cid core = false →
      ∃ t, exec (.contextStreamEnd core) s = .next t ∧ (t.core core).strm = some (cid, false) ∧
        { due := s.cyc + 1, ev := .contextStreamEnd core } ∈ t.pend)) ∧
  (∀ (core : Nat) (s : State),
    ((s.core core).stby = none → exec (.cnextSwitch core) s = .next s) ∧
    ((s.core core).stby ≠ none →
      ∃ t, exec (.cnextSwitch core) s = .next t ∧ (t.core core).wantSw = true ∧ Claims.Sent t (.preemption core) ∧
        (t.core core).act = (s.core core).act)) ∧
  (∀ (core x : Nat) (s : State), (s.core core).wantSw = true → (s.core core).strm = none → (s.core core).wantLd = [] →
    (s.core core).stby = some x → s.quotaSum core x ≤ s.banksOf (core / 8) →
    ((s.core core).act = none ∨ (s.core core).since + 32000 ≤ s.cyc) →
    ∃ t, exec (.preemption core) s = .next t ∧ (t.core core).act = some x ∧ (t.core core).since = s.cyc ∧
      (t.core core).wantSw = false ∧ (∀ y, (s.core core).act = some y → y ≠ x → (t.core core).stby = some y)) ∧
  (∀ (core : Nat) (s : State), (s.core core).act ≠ none → s.cyc < (s.core core).since + 32000 →
    exec (.preemption core) s = .next s) ∧
  (∀ (die cid : Nat) (s : State), (s.die die).tbusy = false → (s.ctx cid).res ≠ 0 →
    (s.cidIn (s.partOfDie die) cid = true → (s.ctx cid).state.getLsbD 0 = true → s.ending cid = true →
      ∃ t, exec (.ctermGo die cid) s = .next t ∧ t.pend = s.pend ∧ t.ts = s.ts ∧ (t.die die).tbusy = true ∧
        (t.die die).tcid = cid ∧ (t.die die).terr = false) ∧
    (s.cidIn (s.partOfDie die) cid = true → (s.ctx cid).state.getLsbD 0 = true → s.ending cid = false →
      ∃ t, exec (.ctermGo die cid) s = .next t ∧ (t.die die).tbusy = true ∧ (t.die die).tcid = cid ∧ (t.die die).terr = false ∧
        Claims.Sent t (.terminationDone die) ∧ Claims.sameBytes s t ∧
        ∀ tk u, mfind s.ts tk = some u → isSys tk = false → cidOf tk = cid → (t.t tk).stopped = true) ∧
    (s.cidIn (s.partOfDie die) cid = false ∨ (s.ctx cid).state.getLsbD 0 = false →
      ∃ t, exec (.ctermGo die cid) s = .next t ∧ (t.die die).terr = true ∧ (t.die die).tbusy = false ∧ t.ts = s.ts ∧
        Claims.sameBytes s t)) ∧
  (∀ (die : Nat) (s : State), (s.die die).tbusy = true → (s.die die).termq = [] →
    (∀ x ∈ s.pend, writeOf (s.die die).tcid x.ev = true → s.heldOf (s.die die).tcid x.ev = true) →
    ∃ t, exec (.terminationDone die) s = .next t ∧ (t.die die).tbusy = false ∧
      (∀ tk, isSys tk = false → cidOf tk = (s.die die).tcid → mfind t.ts tk = none) ∧
      ∀ core, (t.core core).act ≠ some (s.die die).tcid ∧ (t.core core).stby ≠ some (s.die die).tcid) ∧
  (∀ (die : Nat) (s : State), (s.die die).tbusy = false → exec (.terminationDone die) s = .next s) ∧
  (∀ (die : Nat) (s : State),
    s.inFlight (fun e => writeOf (s.die die).tcid e && !s.heldOf (s.die die).tcid e) = true → (s.die die).tbusy = true →
    ∃ t, exec (.terminationDone die) s = .next t ∧ (t.die die).tbusy = true ∧ t.ts = s.ts ∧ t.cores = s.cores)


/-- A walk of a cluster, from the deepest pointer that its cache holds, that ends well leaves its leaf in the cluster TLB and in the core's micro-TLB. TLBINV, its release performed, asks each
cluster of its scope; a cluster drops the selected entries, a core alone those of its micro-TLB, and the instruction completes when the last cluster has nothing left
that was translated by them (20 R367, R369). -/
def Obligations.TranslationCaches : Prop :=
  (∀ (w : WalkReq) (s s1 : State) (pa : Nat) (pte : Word) (big : Bool), (s.core w.core).act = some w.cid →
    s.walkCl (w.core / 8) w.cid w.va w.kind w.priv = (.ok pa pte, big, s1) →
    ∃ t, exec (.pageWalkDone w) s = .next t ∧ mkTlbE w.cid big w.va pte ∈ (t.core w.core).utlb ∧
      mkTlbE w.cid big w.va pte ∈ (t.cl (w.core / 8)).tlb) ∧
  (∀ (w : WalkReq) (s : State), (s.core w.core).act ≠ some w.cid → exec (.pageWalkDone w) s = .next s) ∧
  (∀ (tk f sc : Nat) (va : Word) (left : List Nat) (s : State), (s.t tk).wait = some (.tlbinv f sc va left false) →
    (∀ x ∈ s.pend, waitsFor tk x.ev = false) → (Claims.from_ s tk).stepping = false →
    (s.tlbScope tk sc = [] → ∃ t, exec (.releasePerformed tk) s = .next t ∧ Claims.Resumes s t tk NoReg ∧ Claims.sameBytes s t) ∧
    (s.tlbScope tk sc ≠ [] → ∃ t, exec (.releasePerformed tk) s = .next t ∧
      (t.t tk).wait = some (.tlbinv f sc va (s.tlbScope tk sc) true) ∧ (t.t tk).pc = (s.t tk).pc ∧ Claims.sameBytes s t ∧
      ∀ c ∈ s.tlbScope tk sc, Claims.Sent t (.tlbinvAck tk c))) ∧
  (∀ (tk f sc cl : Nat) (va : Word) (left : List Nat) (s : State), (s.t tk).wait = some (.tlbinv f sc va left true) → sc ≠ 0 →
    s.tlbBusy tk f sc cl va = false → (Claims.from_ s tk).stepping = false →
    ∃ t, exec (.tlbinvAck tk cl) s = .next t ∧ (∀ e ∈ (t.cl cl).tlb, (s.tlbSel tk f va).1 e = false) ∧
      (∀ e ∈ (t.cl cl).ptrs, (s.tlbSel tk f va).2 e = false) ∧
      (∀ k, cl * 8 ≤ k → k < cl * 8 + 8 → ∀ e ∈ (t.core k).utlb, (s.tlbSel tk f va).1 e = false) ∧ Claims.sameBytes s t ∧
      (left.erase cl = [] → Claims.Resumes s t tk NoReg) ∧
      (left.erase cl ≠ [] → (t.t tk).wait = some (.tlbinv f sc va (left.erase cl) true))) ∧
  (∀ (tk f cl : Nat) (va : Word) (left : List Nat) (s : State), (s.t tk).wait = some (.tlbinv f 0 va left true) →
    s.tlbBusy tk f 0 cl va = false → (Claims.from_ s tk).stepping = false → left.erase cl = [] →
    ∃ t, exec (.tlbinvAck tk cl) s = .next t ∧ (∀ e ∈ (t.core (coreOf tk)).utlb, (s.tlbSel tk f va).1 e = false) ∧
      (∀ k, k ≠ coreOf tk → (t.core k).utlb = (s.core k).utlb) ∧ (∀ k, (t.cl k).tlb = (s.cl k).tlb) ∧
      Claims.Resumes s t tk NoReg ∧ Claims.sameBytes s t)

namespace Sys2Proof.Claims

open Sys2Proof.Machine

/-! ### Banks (08 R155-R172) -/

/-- The lowest-numbered bank of a cluster's pool that is free, scrubbed and not quarantined. -/
def lowestFree (c : ClusterSt) (p : Nat) : Prop :=
  let ok (q : Nat) : Prop := (vget c.phys q Phys.reset).st = 0 ∧ c.bquar.getLsbD q = false
  p < 32 ∧ ok p ∧ ∀ q, q < p → ¬ ok q

/-- Slot word of a resident bank: valid, resident, NXM, place and generation (08 R157). -/
def slotOf (s : State) (cc p : Nat) (nxm : Bool) : Word :=
  BitVec.ofNat 64 (3 + (if nxm then 8 else 0) + 16 * p + 65536 * (vget (s.cl (ccCore cc / 8)).phys p Phys.reset).gen.toNat)

/-- A bank as BATT attaches it: every byte zero. -/
def freshBank (s : State) (tk p : Nat) : Bank :=
  { data := [], nxm := s.nxm tk, owner := ccCid (ccOf tk), phys := some p, bad := false }

/-- The target of a HOVER in its register operand (08 R162). -/
def hoverCore (w : Word) : Nat := w.toNat / 32 % 256 * 8 + w.toNat / 4 % 8

end Sys2Proof.Claims

/-- BATT attaches the lowest free bank, all zeros, and writes its slot word; it stalls where no bank is free, and raises
BANK_QUOTA, with the reason in TVAL, where the slot is held or the quota is spent (08 R157, R160). BQRY reads the slot word, BWAIT
goes on at once on a held slot, BDET marks its slot outgoing, or waits where it is outgoing already (R161, R165, R166). HOVER marks its slot outgoing and reserves an empty
slot of a core of the cluster in the context's core set; the table step moves the bank, contents and all, and the HOVER completes
with status 0; a taken target is 1, a target outside the cluster or the core set 2, a slot that is not attached 3, and then no table
changes (R162, R163). -/
def Obligations.BankInstructions : Prop :=
  (∀ (d : Reg) (sl : BitVec 3) (s : State), isSys s.cur = false →
    let cc := ccOf s.cur
    let n := sl.toNat
    let quota := s.quotaOf (cidOf s.cur) (clusterOf s.cur)
    let held := s.heldBanks (cidOf s.cur) (clusterOf s.cur)
    (∀ p, s.myCC.slot n = .empty → held < quota → Claims.lowestFree (s.cl (clusterOf s.cur)) p → s.stepping = false →
      ∃ t, exec (.batt d sl) s = .next t ∧ (t.cc cc).slot n = .attached (Claims.freshBank s s.cur p) ∧
        t.me.a.gp 0 d = (if d = 0 then 0 else Claims.slotOf s cc p (s.nxm s.cur)) ∧ t.me.pc = s.nextPc 4 ∧
        s.me.a.Keeps t.me.a (s.Dest d) NoReg NoMask ∧ Claims.sameBytes s t ∧
        ∀ a, a / 65536 = n → t.localAt cc a = some 0) ∧
    (s.myCC.slot n = .empty → held < quota → (∀ p, ¬ Claims.lowestFree (s.cl (clusterOf s.cur)) p) →
      ∃ t, exec (.batt d sl) s = .next t ∧ Claims.Stalls s t (.batt n d) ∧ Claims.Sent t (.battWake s.cur)) ∧
    (s.myCC.slot n = .empty → quota ≤ held → exec (.batt d sl) s = .next (s.trapAt s.cur 0x12 1 s.me.pc)) ∧
    ((∃ b, s.myCC.slot n = .attached b ∨ s.myCC.slot n = .outgoing b) →
      exec (.batt d sl) s = .next (s.trapAt s.cur 0x12 2 s.me.pc)) ∧
    (s.myCC.slot n = .reserved → exec (.batt d sl) s = .next (s.trapAt s.cur 0x12 3 s.me.pc))) ∧
  (∀ (d : Reg) (sl : BitVec 3) (s : State), isSys s.cur = false → s.stepping = false →
    ∃ t, exec (.bqry d sl) s = .next t ∧ s.RegStep t 4 (s.Dest d) NoReg NoMask ∧
      (s.myCC.slot sl.toNat = .empty → t.me.a.gp 0 d = 0) ∧
      (∀ b p, (s.myCC.slot sl.toNat = .attached b ∨ s.myCC.slot sl.toNat = .outgoing b) → b.phys = some p →
        t.me.a.gp 0 d = (if d = 0 then 0 else Claims.slotOf s (ccOf s.cur) p b.nxm))) ∧
  (∀ (sl : BitVec 3) (s : State), isSys s.cur = false →
    ((∃ b, s.myCC.slot sl.toNat = .attached b ∨ s.myCC.slot sl.toNat = .outgoing b) → s.stepping = false →
      ∃ t, exec (.bwait sl) s = .next t ∧ s.RegStep t 4 NoReg NoReg NoMask) ∧
    ((s.myCC.slot sl.toNat = .empty ∨ s.myCC.slot sl.toNat = .reserved) →
      ∃ t, exec (.bwait sl) s = .next t ∧ Claims.Stalls s t (.bwait sl.toNat))) ∧
  (∀ (sl : BitVec 3) (s : State), isSys s.cur = false →
    (∀ b, s.myCC.slot sl.toNat = .attached b → ∃ t, exec (.bdet sl) s = .next t ∧ Claims.Stalls s t (.bdet sl.toNat) ∧
      t.myCC.slot sl.toNat = .outgoing b ∧ Claims.Sent t (.bdetTableStep s.cur)) ∧
    (∀ b, s.myCC.slot sl.toNat = .outgoing b → exec (.bdet sl) s = .next (s.upMe (fun t => { t with readyAt := s.cyc + 1 }))) ∧
    ((s.myCC.slot sl.toNat = .empty ∨ s.myCC.slot sl.toNat = .reserved) →
      exec (.bdet sl) s = .next (s.trapAt s.cur 0x10 (BitVec.ofNat 64 (sl.toNat * 65536)) s.me.pc))) ∧
  (∀ (d a : Reg) (m sl : BitVec 3) (s : State), isSys s.cur = false →
    let core := Claims.hoverCore (s.g a)
    let tcc := cidOf s.cur * 2048 + core
    let fits := core / 8 = clusterOf s.cur ∧ s.inCoreSet (cidOf s.cur) core = true
    (∀ b, s.myCC.slot sl.toNat = .attached b → fits → (s.cc tcc).slot m.toNat = .empty →
      ∃ t, exec (.hover d a m sl) s = .next t ∧ Claims.Stalls s t (.hover sl.toNat core m.toNat d) ∧
        t.myCC.slot sl.toNat = .outgoing b ∧ (t.cc tcc).slot m.toNat = .reserved ∧ Claims.Sent t (.hoverTableStep s.cur)) ∧
    (∀ w : Word, s.stepping = false →
      ((∃ b, s.myCC.slot sl.toNat = .attached b) ∧ fits ∧ (s.cc tcc).slot m.toNat ≠ .empty ∧ w = 1 ∨
       (∃ b, s.myCC.slot sl.toNat = .attached b) ∧ ¬ fits ∧ w = 2 ∨ (∀ b, s.myCC.slot sl.toNat ≠ .attached b) ∧ w = 3) →
      ∃ t, exec (.hover d a m sl) s = .next t ∧ t.me.a.gp 0 d = (if d = 0 then 0 else w) ∧
        s.RegStep t 4 (s.Dest d) NoReg NoMask)) ∧
  (∀ (tk n core m : Nat) (d : Reg) (b : Bank) (s : State), (s.t tk).wait = some (.hover n core m d) →
    (s.cc (ccOf tk)).slot n = .outgoing b → (s.cc (ccOf tk)).drained n = true → n < 8 → m < 8 →
    (Claims.from_ s tk).stepping = false →
    let tcc := cidOf tk * 2048 + core
    (tcc ≠ ccOf tk ∨ m ≠ n) →
    ∃ t, exec (.hoverTableStep tk) s = .next t ∧ (t.cc (ccOf tk)).slot n = .empty ∧ (t.cc tcc).slot m = .attached b ∧
      Claims.Resumes s t tk (fun x p => x = d ∧ (p = 0 ∨ p ∈ (s.t tk).dual)) ∧ (t.t tk).a.gp 0 d = 0 ∧ Claims.sameBytes s t)


/-- BDET's step, once no accepted operation touches the slot (08 R163), empties the slot and scrubs the bank's place for 1024 cc; a scrubbed place is free with its generation counted; a
stalled BATT is judged again, a BWAIT that a fill wakes ends, whatever its slot holds by then, and a refill places the bank with its contents unchanged (08
R160, R161, R165, R170, R172). The model's choice, log 28: a refill takes its place, the lowest free one, as it ends. -/
def Obligations.BankEvents : Prop :=
  (∀ (tk n : Nat) (b : Bank) (s : State), isSys tk = false → (s.t tk).wait = some (.bdet n) → (s.cc (ccOf tk)).slot n = .outgoing b → n < 8 →
    (s.cc (ccOf tk)).drained n = true → (Claims.from_ s tk).stepping = false →
    ∃ t, exec (.bdetTableStep tk) s = .next t ∧ (t.cc (ccOf tk)).slot n = .empty ∧ Claims.Resumes s t tk NoReg ∧
      Claims.sameBytes s t ∧ ∀ p, b.phys = some p → p < 32 →
        (vget (t.cl (clusterOf tk)).phys p Phys.reset).st = 2 ∧
        { due := s.cyc + 1024, ev := .bankScrubDone (clusterOf tk) p } ∈ t.pend) ∧
  (∀ (cl bank : Nat) (s : State), (vget (s.cl cl).phys bank Phys.reset).st = 2 →
    ∃ t, exec (.bankScrubDone cl bank) s = .next t ∧ (vget (t.cl cl).phys bank Phys.reset).st = 0 ∧
      (vget (t.cl cl).phys bank Phys.reset).gen = (vget (s.cl cl).phys bank Phys.reset).gen + 1 ∧
      (∀ q, q ≠ bank → vget (t.cl cl).phys q Phys.reset = vget (s.cl cl).phys q Phys.reset)) ∧
  (∀ (tk n p : Nat) (d : Reg) (s : State), isSys tk = false → n < 8 → (s.t tk).wait = some (.batt n d) →
    (s.cc (ccOf tk)).slot n = .empty → s.heldBanks (cidOf tk) (clusterOf tk) < s.quotaOf (cidOf tk) (clusterOf tk) →
    Claims.lowestFree (s.cl (clusterOf tk)) p → (Claims.from_ s tk).stepping = false →
    ∃ t, exec (.battWake tk) s = .next t ∧ (t.cc (ccOf tk)).slot n = .attached (Claims.freshBank s tk p) ∧
      Claims.Resumes s t tk (fun x q => x = d ∧ (q = 0 ∨ q ∈ (s.t tk).dual)) ∧
      (t.t tk).a.gp 0 d = (if d = 0 then 0 else Claims.slotOf s (ccOf tk) p (s.nxm tk))) ∧
  (∀ (tk n : Nat) (s : State), (s.t tk).wait = some (.bwait n) → (Claims.from_ s tk).stepping = false →
    ∃ t, exec (.bwaitWake tk) s = .next t ∧ Claims.Resumes s t tk NoReg) ∧
  (∀ (cc n p : Nat) (b : Bank) (s : State), n < 8 → (s.cc cc).slot n = .attached b → b.phys = none →
    Claims.lowestFree (s.cl (ccCore cc / 8)) p →
    ∃ t, exec (.bankRefillDone cc n) s = .next t ∧ (t.cc cc).slot n = .attached { b with phys := some p } ∧
      (vget (t.cl (ccCore cc / 8)).phys p Phys.reset).st = 1 ∧ Claims.sameBytes s t)

namespace Sys2Proof.Claims

open Sys2Proof.Machine

/-! ### The tensor array (12 R232-R245; 04 R84, R85) -/

/-- What MMA and MAUX capture at issue: format, K blocks, local addresses, scale, energy class, NXM and planes. -/
def tensorOf (i : Instr) (s : State) : Option TenOp :=
  let op (fmt k lo : Nat) (d a b c : Reg) (e : BitVec 2) (out16 : Bool) : Option TenOp :=
    some { fmt := fmt, k := k, n := if fmt ≤ 6 then (s.g b).toNat / 2 ^ 20 % 2 ^ 7 else 0, aA := (s.g a).toNat % 2 ^ 19
           bA := (s.g b).toNat % 2 ^ 19, dA := (s.g d).toNat % 2 ^ 19
           scale := if c = 0 then 0x3F800000 else (s.g c).setWidth 32, out16 := out16, cls := max e.toNat lo
           nxm := s.nxm s.cur, planes := BitVec.ofNat 2 (s.me.dual.foldl (fun x p => x + p) 0)
           offL := Vector.ofFn (fun i => s.me.a.offL (i.val + 1)), phase := 0, lane := 0, passes := [], due := 0, res := []
           flags := 0 }
  match i with
  | .mmaBf16 d a b c e o => op 0 0 2 d a b c e (o == 1)
  | .mmaF16 d a b c e o => op 1 0 2 d a b c e (o == 1)
  | .mmaE4m3 d a b c e o => op 2 0 1 d a b c e (o == 1)
  | .mmaE5m2 d a b c e o => op 3 0 1 d a b c e (o == 1)
  | .mmaE4e5 d a b c e o => op 4 0 1 d a b c e (o == 1)
  | .mmaBfp d a b c e o k => op 5 (k.toNat + 2) (if k.toNat + 2 ≤ 4 then 0 else 1) d a b c e (o == 1)
  | .mmaS8 d a b e => op 6 0 1 d a b 0 e false
  | .mzero d e w => op 7 0 0 d 0 0 0 e (w == 1)
  | .mtrn d a e w => op 8 0 0 d a 0 0 e (w == 1)
  | _ => none

/-- A tile passes the checks of 12 R237. -/
def tileOk (c : CC) (x : Tile) : Prop :=
  x.a.toNat % 64 = 0 ∧ x.a.toNat < 2 ^ 19 ∧ (x.a.toNat + x.bytes - 1) / 65536 = x.a.toNat / 65536 ∧
    ∃ b, c.slot (x.a.toNat / 65536) = .attached b ∧ (x.narrow = true → b.nxm = c.nxm)

/-- Element (i, j) of a 32 × 32 tile of `w`-byte elements. -/
def tileElem (w : Nat) (bs : List Byte) (i j : Nat) : Nat := leNat ((bs.drop ((i * 32 + j) * w)).take w)

/-- Address of a plane's image of a tile. -/
def imageOf (o : TenOp) (x p : Nat) : Nat := (BitVec.ofNat 64 x + (if p = 0 then 0 else vget o.offL (p - 1) 0)).toNat

/-- Element `k` of row `i` of A or of B, a tile of K = 32n columns, as its format reads it (04 R76-R79; 12 R236): `x` holds the
tile's bytes; a BFP block's exponent stands after all mantissas. -/
def operand (o : TenOp) (isB : Bool) (x i k : Nat) : XR :=
  let code (w : Nat) : Nat := x / 2 ^ ((i * (32 * o.n) + k) * w) % 2 ^ w
  match o.fmt with
  | 0 => BF16.dec (code 16)
  | 1 => F16.dec (code 16)
  | 2 => (E4M3 o.nxm).dec (code 8)
  | 3 => (E5M2 o.nxm).dec (code 8)
  | 4 => if isB then (E5M2 o.nxm).dec (code 8) else (E4M3 o.nxm).dec (code 8)
  | _ => bfpVal o.nxm o.k (code o.k) (x / 2 ^ (1024 * o.n * o.k + 8 * (i * o.n + k / 32)) % 256)

/-- An exact sum: NaN where a term is NaN or infinities of both signs meet, +0 where it is an exact zero. -/
def exactSum (ps : List XR) : XR :=
  if ps.any (fun x => x.isNan) || (ps.any (fun x => x == .inf true) && ps.any (fun x => x == .inf false)) then .nan
  else ps.foldl (fun t x => (xadd false t x).1) (.zero false)

/-- Chunks of `L` elements: 64 for E4M3, E5M2 and E4E5, 32 for BF16, FP16 and BFP (04 R84). -/
def chunkLen (o : TenOp) : Nat := if 2 ≤ o.fmt ∧ o.fmt ≤ 4 then 64 else 32

/-- One chunk added to the accumulator: its exact sum rounded to F32, and the sum with the accumulator rounded (04 R84). -/
def chunkStep (o : TenOp) (a b i j : Nat) (acc q : Nat) : Nat :=
  let l := chunkLen o
  let ks := (List.range (min l (32 * o.n - q * l))).map (fun k => q * l + k)
  let t := (F32.round 0 0 (exactSum (ks.map (fun k => (xmul (operand o false a i k) (operand o true b j k)).1)))).1
  (F32.round 0 0 (xadd false (F32.dec acc) (F32.dec t)).1).1

/-- The chunks of element (i, j) in increasing k. -/
def chunkLoop (o : TenOp) (a b i j acc : Nat) : Nat :=
  (List.range ((32 * o.n + chunkLen o - 1) / chunkLen o)).foldl (chunkStep o a b i j) acc

def sat32 (x : Int) : Int := max (-(2 ^ 31)) (min (2 ^ 31 - 1) x)

/-- The exact sum of a chunk of 64 products of MMA.S8 (04 R85). -/
def s8Chunk (o : TenOp) (a b i j q : Nat) : Int :=
  let e (x r k : Nat) : Int := (BitVec.ofNat 8 (x / 2 ^ (8 * (32 * o.n * r + k)))).toInt
  ((List.range (min 64 (32 * o.n - 64 * q))).map (fun k => e a i (64 * q + k) * e b j (64 * q + k))).sum

/-- A tensor instruction may issue: the core's queue and scoreboard have room and the energy class is allowed. -/
def tensorRoom (s : State) (o : TenOp) : Prop :=
  isSys s.cur = false ∧ s.myCC.queued.length < 4 ∧ s.myCC.sb.length < 16 ∧
    o.cls ≤ min ((s.ctx (cidOf s.cur)).erefill.toNat / 2 ^ 56 % 4) s.me.eceil

end Sys2Proof.Claims

/-- MMA and MAUX whose tiles pass enter the scoreboard with the operands captured at issue, and complete with no register and no
byte changed; a full queue or scoreboard makes them wait; a class above the limit is ILLEGAL_INSN; the first tile that fails its
checks gives the trap, and one in an outgoing slot makes the instruction wait (12 R232, R237; 07 R150). -/
def Obligations.TensorIssue : Prop :=
  ∀ (i : Instr) (s : State) (o : TenOp), Claims.tensorOf i s = some o →
    (Claims.tensorRoom s o → (∀ x ∈ o.tiles, Claims.tileOk s.myCC x) → s.stepping = false →
      ∃ t e, exec i s = .next t ∧ t.myCC.sb = s.myCC.sb ++ [e] ∧ e.tk = s.cur ∧ e.body = .ten o ∧ e.glo = [] ∧
        e.loc = o.tiles.map (fun x => { lo := x.a.toNat, len := x.bytes, wr := x.wr }) ∧ t.me.pc = s.nextPc 4 ∧
        s.me.a.Keeps t.me.a NoReg NoReg NoMask ∧ Claims.sameBytes s t ∧ (∀ cc a, t.localAt cc a = s.localAt cc a)) ∧
    (isSys s.cur = false → (4 ≤ s.myCC.queued.length ∨ 16 ≤ s.myCC.sb.length) →
      ∃ t, exec i s = .next t ∧ t.me = { s.me with readyAt := s.cyc + 1 } ∧ t.ccs = s.ccs) ∧
    (isSys s.cur = false → s.myCC.queued.length < 4 → s.myCC.sb.length < 16 →
      min ((s.ctx (cidOf s.cur)).erefill.toNat / 2 ^ 56 % 4) s.me.eceil < o.cls →
      exec i s = .next (s.trapAt s.cur 1 (Claims.wordOf i) s.me.pc)) ∧
    (∀ xs x ys, o.tiles = xs ++ x :: ys → (∀ y ∈ xs, Claims.tileOk s.myCC y) → Claims.tensorRoom s o →
      (x.a.toNat % 64 ≠ 0 → exec i s = .next (s.trapAt s.cur 3 x.a s.me.pc)) ∧
      (x.a.toNat % 64 = 0 → (2 ^ 19 ≤ x.a.toNat ∨ (x.a.toNat + x.bytes - 1) / 65536 ≠ x.a.toNat / 65536) →
        exec i s = .next (s.trapAt s.cur 0x11 x.a s.me.pc)) ∧
      (x.a.toNat % 64 = 0 → x.a.toNat < 2 ^ 19 → (x.a.toNat + x.bytes - 1) / 65536 = x.a.toNat / 65536 →
        (∀ b, s.myCC.slot (x.a.toNat / 65536) = .outgoing b →
          exec i s = .next (s.upMe (fun t => { t with readyAt := s.cyc + 1 }))) ∧
        ((s.myCC.slot (x.a.toNat / 65536) = .empty ∨ s.myCC.slot (x.a.toNat / 65536) = .reserved) →
          exec i s = .next (s.trapAt s.cur 0x10 x.a s.me.pc)) ∧
        (∀ b, s.myCC.slot (x.a.toNat / 65536) = .attached b → x.narrow = true → b.nxm ≠ s.myCC.nxm →
          exec i s = .next (s.trapAt s.cur 0x13 x.a s.me.pc))))

/-- A bind reads every tile, debits the balance as its own cluster sees it by class cost times max(n, 1) times one plus twice the
planes, at once, while another cluster sees the debit within 256 cc, and takes the lane group with the passes of R240 and R241 to go,
which take max(T_k, C_read) cc and max(2·T_k, C_read) more for each plane where no two streams share a bank; at their end the tiles
are written and the lane group is free; the retirement, in order, in the cc after the write-back, frees the entry and the flags reach
FMODE, also what an abandoned operation goes back to (04 R81); a refill adds the increment up to the cap (12 R232-R245; 07 R151, R152). The
model's choice, log 81: the write-back takes its own length from its start on, also while an earlier one of the lane group still runs. -/
def Obligations.TensorEvents : Prop :=
  (∀ (cl g k cc : Nat) (e : EngOp) (o : TenOp) (s : State), (s.cl cl).freeLane = some g → s.nextCore cl = some k →
    s.head (cl * 8 + k) = some (cc, e) → e.body = .ten o →
    let r := o.run (fun a n => leNat ((s.cc cc).locRead a n))
    let cost := (s.ctx (ccCid cc)).ecost.toNat / 2 ^ (16 * o.cls) % 2 ^ 16
    ∃ t, exec (.tensorBind cl) s = .next t ∧
      (∃ e' ∈ (t.cc cc).sb, e'.id = e.id ∧ e'.body = .ten { o with
        phase := 1, lane := g, passes := o.plan, res := r.1, flags := r.2 }) ∧
      vget (t.cl cl).lanes g none = some (cc, e.id) ∧
      (t.ctx (ccCid cc)).balAt cl = (s.ctx (ccCid cc)).balAt cl -
        (cost * max o.n 1 * (1 + 2 * (planesOf o.planes.toNat).length) : Nat) ∧
      (∀ c, c ≠ cl → (t.ctx (ccCid cc)).balAt c = (s.ctx (ccCid cc)).balAt c) ∧
      (∃ x ∈ (t.ctx (ccCid cc)).owed, x.1 = cl ∧ x.2.2 ≤ s.cyc + 256) ∧ Claims.sameBytes s t) ∧
  (∀ o : TenOp, o.fmt ≤ 6 →
    let tk := if o.fmt ≤ 1 then 32 * o.n else if o.fmt = 5 then (32 * o.n * o.k + 15) / 16 else 16 * o.n
    let c := if o.out16 then 32 else 64
    o.occupancy = max tk c + (planesOf o.planes.toNat).length * max (2 * tk) c) ∧
  (∀ (cl : Nat) (s : State), ((s.cl cl).freeLane = none ∨ s.nextCore cl = none) → exec (.tensorBind cl) s = .next s) ∧
  (∀ (cl lane cc id : Nat) (e : EngOp) (o : TenOp) (s : State), lane < 8 → vget (s.cl cl).lanes lane none = some (cc, id) →
    (s.cc cc).sb.find? (fun x => x.id == id) = some e → e.body = .ten o →
    ∃ t, exec (.mmaOccupancyEnd cl lane) s = .next t ∧ vget (t.cl cl).lanes lane none = none ∧
      { due := s.cyc + (if o.out16 then 32 else 64) * (1 + (planesOf o.planes.toNat).length), ev := .mmaRetire cc e.entry } ∈ t.pend ∧ Claims.sameBytes s t ∧
      (∀ a bs b, o.res = [(a, bs)] → bs ≠ [] → (a + bs.length - 1) / 65536 = a / 65536 → a / 65536 < 8 →
        (s.cc cc).slot (a / 65536) = .attached b → Memory.wf b.data = true →
        (∀ i, i < bs.length → t.localAt cc (a + i) = bs[i]?) ∧
        ∀ x, (x < a ∨ a + bs.length ≤ x) → t.localAt cc x = s.localAt cc x)) ∧
  (∀ (cc entry : Nat) (e : EngOp) (o : TenOp) (s : State), (s.cc cc).oldest = some e → e.body = .ten o → e.entry = entry →
    o.phase = 2 →
    ∃ t, exec (.mmaRetire cc entry) s = .next t ∧ (t.cc cc).sb = (s.cc cc).sb.filter (fun x => x.id != e.id) ∧
      (t.t e.tk).a.fmode = orFlags (s.t e.tk).a.fmode o.flags ∧ (s.t e.tk).a.Keeps (t.t e.tk).a NoReg NoReg NoMask ∧
      (∀ u pc d, (s.t e.tk).undo = some (u, pc, d) → ∃ v, (t.t e.tk).undo = some (v, pc, d) ∧ v.fmode = orFlags u.fmode o.flags) ∧
      (t.t e.tk).pc = (s.t e.tk).pc) ∧
  (∀ s : State, ∃ t, exec .energyRefill s = .next t ∧ t.throt = decide (s.jost.plim < t.watt.toNat) ∧
    ∀ cid, (s.ctx cid).res ≠ 0 →
      let c := s.ctx cid
      let cap : Int := c.erefill.toNat / 2 ^ 24 % 2 ^ 32
      let inc : Int := c.erefill.toNat % 2 ^ 24
      (t.ctx cid).bal = if (t.throt = true ∧ s.cyc % 2048 ≠ 0) ∨ cap ≤ c.bal then c.bal else min (c.bal + inc) cap)

/-- MZERO writes zeros and MTRN the transposed tile. MMA.S8 adds each chunk's products to C exactly and saturates once a chunk, in
increasing k; its planes are zeros. Every other MMA rounds each chunk's exact sum to F32 and adds it to the accumulator with one rounding
more, in increasing k from C on, and D is s times that, rounded once to the output format; a plane's result goes on from dC over dA·B and
then A·dB. With no K blocks D is s times C (04 R84, R85; 12 R238, R241, R245). The model's choice, log 15: with chunks of 64 and an odd
number of K blocks the last 32 elements are a chunk of their own. -/
def Obligations.TensorResults : Prop :=
  (∀ (o : TenOp) (rd : Nat → Nat → Nat), o.fmt = 7 → ∀ r ∈ (o.run rd).1, r.2.length = o.outBytes ∧ ∀ x ∈ r.2, x = 0) ∧
  (∀ (o : TenOp) (rd : Nat → Nat → Nat), o.fmt = 8 → o.aA < 2 ^ 19 → o.dA < 2 ^ 19 →
    ∃ bs : Nat → List Byte, (o.run rd).1 = (0 :: planesOf o.planes.toNat).map (fun p => (Claims.imageOf o o.dA p, bs p)) ∧
      (o.run rd).2 = 0 ∧ ∀ p ∈ 0 :: planesOf o.planes.toNat, (bs p).length = o.outBytes ∧ ∀ i j, i < 32 → j < 32 →
        Claims.tileElem (o.outW / 8) (bs p) i j =
          rd (Claims.imageOf o o.aA p) o.outBytes / 2 ^ ((j * 32 + i) * o.outW) % 2 ^ o.outW) ∧
  (∀ (o : TenOp) (rd : Nat → Nat → Nat), o.fmt = 6 → o.out16 = false → o.aA < 2 ^ 19 → o.bA < 2 ^ 19 → o.dA < 2 ^ 19 →
    let a := rd o.aA o.inBytes
    let b := rd o.bA o.inBytes
    let c (i j : Nat) : Int := (BitVec.ofNat 32 (rd o.dA 4096 / 2 ^ (32 * (32 * i + j)))).toInt
    ∃ bs : Nat → List Byte, (o.run rd).1 = (0 :: planesOf o.planes.toNat).map (fun p => (Claims.imageOf o o.dA p, bs p)) ∧
      (o.run rd).2 = 0 ∧ (∀ p ∈ planesOf o.planes.toNat, ∀ x ∈ bs p, x = 0) ∧ ∀ i j, i < 32 → j < 32 →
        (BitVec.ofNat 32 (Claims.tileElem 4 (bs 0) i j)).toInt =
          (List.range ((32 * o.n + 63) / 64)).foldl (fun acc q => Claims.sat32 (acc + Claims.s8Chunk o a b i j q)) (c i j)) ∧
  (∀ (o : TenOp) (rd : Nat → Nat → Nat), o.fmt ≤ 5 → o.aA < 2 ^ 19 → o.bA < 2 ^ 19 → o.dA < 2 ^ 19 →
    let a (p : Nat) : Nat := rd (Claims.imageOf o o.aA p) o.inBytes
    let b (p : Nat) : Nat := rd (Claims.imageOf o o.bA p) o.inBytes
    let c (p i j : Nat) : Nat :=
      rd (Claims.imageOf o o.dA p) o.outBytes / 2 ^ ((i * 32 + j) * o.outW) % 2 ^ o.outW * (if o.out16 then 65536 else 1)
    let scaled (x : Nat) : Nat := ((if o.out16 then BF16 else F32).round 0 0 (xmul (F32.dec o.scale.toNat) (F32.dec x)).1).1
    ∃ bs : Nat → List Byte, (o.run rd).1 = (0 :: planesOf o.planes.toNat).map (fun p => (Claims.imageOf o o.dA p, bs p)) ∧
      ∀ i j, i < 32 → j < 32 →
        Claims.tileElem (o.outW / 8) (bs 0) i j = scaled (Claims.chunkLoop o (a 0) (b 0) i j (c 0 i j)) ∧
        ∀ p ∈ planesOf o.planes.toNat, Claims.tileElem (o.outW / 8) (bs p) i j =
          scaled (Claims.chunkLoop o (a 0) (b p) i j (Claims.chunkLoop o (a p) (b 0) i j (c p i j))))

namespace Sys2Proof.Claims

open Sys2Proof.Machine

/-! ### The copy engine (12 R247-R262) -/

/-- The word of TCQRY (12 R260): ISS, RET, the entry while the copy is not retired, and the bytes performed. -/
def tcqWord (q : TcQ) : Word :=
  BitVec.ofNat 64 ((if q.iss then 1 else 0) + (if q.ret then 2 else 0) +
    (if q.iss = true ∧ q.ret = false then 16 * q.entry else 0) + 65536 * (q.bytes % 2 ^ 36))

/-- Index values of a GATHER, which are read at issue once its local ranges pass (12 R256). -/
def gatherIdx (s : State) (x : Tcw) : List Nat :=
  if x.op = 3 ∧ s.myCC.localStop x x.ranges (x.ranges.drop 1) = none then s.indices x else []

/-- A copy may issue: a scoreboard entry is free and its index array, if it has one, is settled. -/
def copyRoom (s : State) (x : Tcw) : Prop :=
  isSys s.cur = false ∧ s.myCC.sb.length < 16 ∧ (gatherIdx s x = [] ∨ s.idxBusy x = false)

/-- A copy has been accepted: its entry, its TCQRY word, and its pc; no register changes. -/
def Accepted (s s1 t : State) (x : Tcw) (tc : Nat) (ctr : Option (Nat × Nat × Word)) : Prop :=
  ∃ e c, t.myCC.sb = s.myCC.sb ++ [e] ∧ e.tk = s.cur ∧ e.body = .cpy c ∧ c.tcw = x ∧ c.tc = tc ∧ c.ctr = ctr ∧
    (∀ b ∈ c.bursts, b.st = 0) ∧ c.start = s.cyc + (if x.op = 3 then (4 * x.dim1 + 63) / 64 else 0) ∧ Sent t (.copyRetire (ccOf s.cur) e.entry) ∧
    (c.bursts ≠ [] → Sent t (.copyBurstStart (clusterOf s.cur))) ∧
    vget t.myCC.tcq (tsOf s.cur * 4 + tc) TcQ.reset = { iss := true, ret := false, entry := e.entry, bytes := 0, op := e.id } ∧
    t.me.pc = s1.nextPc 4 ∧ s1.me.a.Keeps t.me.a NoReg NoReg NoMask ∧ sameBytes s1 t

end Sys2Proof.Claims

/-- TCSET writes one field of a tile command word; TCQRY reads its state; TCISSUE accepts a copy that passes its checks, the
counter's checks first unless NSIG, waits for a free entry, and is ILLEGAL_INSN where a field rule of its word fails; a GATHER's bursts
start when its index array has been read, at 64 bytes a cc (12 R251-R256, R260). The model's choices: log 82, TCISSUE waits for a free entry
before any of its checks, and log 101, the indices are those of the first cc of that reading. -/
def Obligations.CopyIssue : Prop :=
  (∀ (a : Reg) (f : BitVec 3) (tc : BitVec 2) (s : State), isSys s.cur = false → s.stepping = false →
    ∃ t, exec (.tcset a f tc) s = .next t ∧ t.me.pc = s.nextPc 4 ∧ Claims.sameBytes s t ∧
      (∀ k, k < 8 → Tcw.f (vget t.me.a.tc tc.toNat 0) k =
        (if k = f.toNat then (s.g a).toNat % 2 ^ 32 else Tcw.f (vget s.me.a.tc tc.toNat 0) k)) ∧
      (∀ n, n ≠ tc.toNat → vget t.me.a.tc n 0 = vget s.me.a.tc n 0) ∧
      s.me.a.Keeps { t.me.a with tc := s.me.a.tc } NoReg NoReg NoMask) ∧
  (∀ (d : Reg) (tc : BitVec 2) (s : State), isSys s.cur = false → s.stepping = false →
    ∃ t, exec (.tcqry d tc) s = .next t ∧ s.RegStep t 4 (s.Dest d) NoReg NoMask ∧
      t.me.a.gp 0 d = (if d = 0 then 0 else Claims.tcqWord (vget s.myCC.tcq (tsOf s.cur * 4 + tc.toNat) TcQ.reset))) ∧
  (∀ (a : Reg) (tc : BitVec 2) (s : State),
    let x : Tcw := vget s.me.a.tc tc.toNat 0
    (isSys s.cur = false → 16 ≤ s.myCC.sb.length →
      ∃ t, exec (.tcissue a tc) s = .next t ∧ t.me = { s.me with readyAt := s.cyc + 1 } ∧ t.ccs = s.ccs) ∧
    (isSys s.cur = false → s.myCC.sb.length < 16 → (x.ok = false ∨ s.me.copyPlanes x = none) →
      exec (.tcissue a tc) s = .next (s.trapAt s.cur 1 (Claims.wordOf (.tcissue a tc)) s.me.pc)) ∧
    (∀ ps parts pages glo, Claims.copyRoom s x → x.ok = true → s.me.copyPlanes x = some ps → x.nsig = true →
      let idx := Claims.gatherIdx s x
      let s1 := s.copyXlat x idx (0 :: ps)
      s.copyPlanes x idx (0 :: ps) = .inl (parts, pages, glo) → s1.cur = s.cur → s1.ccs = s.ccs → s1.stepping = false →
      ∃ t, exec (.tcissue a tc) s = .next t ∧ Claims.Accepted s s1 t x tc.toNat none) ∧
    (∀ ps parts pages glo h s0, isSys s.cur = false → s.myCC.sb.length < 16 → x.ok = true → s.me.copyPlanes x = some ps →
      x.nsig = false → s.plan s.cur (ctrChecks .rmw) [s.g a] = (.ok [h], s0) → s0.cur = s.cur → s0.ccs = s.ccs →
      let idx := Claims.gatherIdx s0 x
      (idx = [] ∨ s0.idxBusy x = false) →
      let s1 := s0.copyXlat x idx (0 :: ps)
      s0.copyPlanes x idx (0 :: ps) = .inl (parts, pages, glo) → s1.cur = s.cur → s1.ccs = s.ccs → s1.stepping = false →
      ∃ t, exec (.tcissue a tc) s = .next t ∧ Claims.Accepted s s1 t x tc.toNat (some (h.pa, h.home, h.ea))) ∧
    (∀ ps f v s1, Claims.copyRoom s x → x.ok = true → s.me.copyPlanes x = some ps → x.nsig = true →
      s.copyPlanes x (Claims.gatherIdx s x) (0 :: ps) = .inr (some (f, v), s1) →
      exec (.tcissue a tc) s = .next (s1.trapAt s1.cur f v s1.me.pc)))

/-- A burst starts for the operation that the engine serves; a peer operation sends one request for it, tangent images with
it; a burst's bytes are performed, in any number a step within the engine's 128 bytes a cc, from memory, a fill value or a peer's reply to
a bank or from a bank to memory, then its counter is added, a refused burst failing once the reply has landed, and the copy retires as the
oldest of its core (12 R248, R257, R259; 21 R388, R389, R391). The model's choices: log 29, the bytes of a piece go in rising order, and
log 37, the operation that the engine serves among those of one PRIO. -/
def Obligations.CopyEvents : Prop :=
  (∀ (cl cc i : Nat) (e : EngOp) (c : CopyOp) (s : State), s.pickCopy cl = some (cc, e, c) → c.nextBurst = some i →
    (Tcw.remote c.tcw = false → ∃ t, exec (.copyBurstStart cl) s = .next t ∧
      Claims.Sent t (.copyBurstComplete cc e.entry i) ∧ Claims.sameBytes s t) ∧
    (∀ b, Tcw.remote c.tcw = true → (Tcw.op c.tcw = 8 → 2 ≤ Tcw.f c.tcw 7) → c.bursts[i]? = some b → b.ps ≠ [] →
      ∃ t n, exec (.copyBurstStart cl) s = .next t ∧ n ∈ (t.part (s.partOf e.tk)).flying ∧
        n.cc = cc ∧ n.entry = e.entry ∧ n.burst = i ∧ Claims.Sent t (.transportRequest n) ∧
        ((∀ m ∈ (s.part (s.partOf e.tk)).flying, m.cc ≠ cc ∨ m.entry ≠ e.entry ∨ m.burst ≠ i) →
          n.dst = c.peer ∧ n.seq = mget (s.part (s.partOf e.tk)).sent c.peer 0 ∧ n.imgs.length + 1 = b.ps.length))) ∧
  (∀ (cl : Nat) (s : State), s.pickCopy cl = none → exec (.copyBurstStart cl) s = .next s) ∧
  (∀ (cc entry i : Nat) (e : EngOp) (c : CopyOp) (b : Burst) (s : State), s.copyAt cc entry = some (e, c) →
    c.bursts[i]? = some b →
    ((b.st = 0 ∨ b.st = 3 ∨ b.st = 4) → exec (.copyBurstComplete cc entry i) s = .next s) ∧
    ((b.st = 1 ∨ b.st = 5) → b.left = [] → ∃ t, exec (.copyBurstComplete cc entry i) s = .next t ∧ Claims.sameBytes s t ∧
      (c.ctr ≠ none → Claims.Sent t (.copyBurstComplete cc entry i))) ∧
    (b.st = 6 → b.left = [] → ∃ t e' c' b', exec (.copyBurstComplete cc entry i) s = .next t ∧ Claims.sameBytes s t ∧
      t.copyAt cc entry = some (e', c') ∧ c'.bursts[i]? = some b' ∧ b'.st = 4) ∧
    (∀ p r, (b.st = 1 ∨ b.st = 5 ∨ b.st = 6) → b.left = p :: r → 0 < p.len → ∃ t k, exec (.copyBurstComplete cc entry i) s = .next t ∧
      0 < k ∧ k ≤ p.len ∧
      (p.lands = true → (s.cl (clusterOf e.tk)).landed < 128 → (s.cl (clusterOf e.tk)).landed + k ≤ 128) ∧
      (p.leaves = true → (s.cl (clusterOf e.tk)).sent < 128 → (s.cl (clusterOf e.tk)).sent + k ≤ 128) ∧
      (k < p.len ∨ r ≠ [] ∨ c.ctr ≠ none ∧ b.st ≠ 6 → Claims.Sent t (.copyBurstComplete cc entry i)) ∧
      (∀ a l m, p.src = .fill l → p.dst = .loc a → p.len = l.length → (a + p.len - 1) / 65536 = a / 65536 → a / 65536 < 8 →
        (s.cc cc).slot (a / 65536) = .attached m → Memory.wf m.data = true → Claims.sameBytes s t ∧
        (∀ j, j < k → t.localAt cc (a + j) = l[j]?) ∧ ∀ x, (x < a ∨ a + k ≤ x) → t.localAt cc x = s.localAt cc x) ∧
      (∀ a pa home part m, p.src = .glo pa home false part → p.dst = .loc a →
        (a + p.len - 1) / 65536 = a / 65536 → a / 65536 < 8 → (s.cc cc).slot (a / 65536) = .attached m →
        Memory.wf m.data = true → pa % 192 + p.len ≤ 192 → (∀ j, j < p.len → lineKey (pa + j) = lineKey pa) →
        Claims.noSliceWatch s home → Claims.sameBytes s t ∧
        (∀ j, j < k → t.localAt cc (a + j) = some (s.byteAt home (pa + j))) ∧
        ∀ x, (x < a ∨ a + k ≤ x) → t.localAt cc x = s.localAt cc x) ∧
      (∀ a pa home rm part m, p.src = .loc a → p.dst = .glo pa home rm part →
        a % 65536 + p.len ≤ 65536 → (s.cc cc).slot (a / 65536) = .attached m → pa % 192 + p.len ≤ 192 →
        (∀ j, j < p.len → lineKey (pa + j) = lineKey pa) → Claims.noSliceWatch s home →
        (∀ j, j < k → some (t.byteAt home (pa + j)) = s.localAt cc (a + j)) ∧
        ∀ h x, (h ≠ home ∨ lineKey x ≠ lineKey pa ∨ x < pa ∨ pa + k ≤ x) → t.byteAt h x = s.byteAt h x)) ∧
    (∀ pa home va, b.st = 2 → c.ctr = some (pa, home, va) → pa % 192 + 8 ≤ 192 →
      (∀ j, j < 8 → lineKey (pa + j) = lineKey pa) → Claims.noSliceWatch s home →
      ∃ t, exec (.copyBurstComplete cc entry i) s = .next t ∧
        Claims.memNat t home pa 8 = min (Claims.memNat s home pa 8 + b.bytes) (2 ^ 64 - 1) ∧
        (2 ^ 64 ≤ Claims.memNat s home pa 8 + b.bytes → (t.cc cc).ovf = true) ∧
        (Claims.memNat s home pa 8 + b.bytes < 2 ^ 64 → (t.cc cc).ovf = (s.cc cc).ovf))) ∧
  (∀ (cc entry : Nat) (e : EngOp) (c : CopyOp) (s : State), s.copyAt cc entry = some (e, c) →
    (s.copyDone cc entry = true → ∃ t, exec (.copyRetire cc entry) s = .next t ∧
      (t.cc cc).sb = (s.cc cc).sb.filter (fun x => x.id != e.id) ∧ Claims.sameBytes s t ∧ t.ts = s.ts) ∧
    (s.copyDone cc entry = false → exec (.copyRetire cc entry) s = .next s))

namespace Sys2Proof.Claims

open Sys2Proof.Machine

/-! ### Stream ports (18 R312-R324) -/

/-- The ring word (18 R320). -/
def ringWord (r : RecvPort) : Word :=
  BitVec.ofNat 64 (r.tail.toNat + (if r.bound ≠ none then 2 ^ 48 else 0) + (if r.furl then 2 ^ 49 else 0) +
    r.src.toNat * 2 ^ 51)

/-- A RECV on the port finds no fault (18 R321). -/
def recvOk (r : RecvPort) (nxm : Bool) : Prop := r.conf = true ∧ r.torn = false ∧ (r.nxm = none ∨ r.nxm = some nxm)

/-- A destination word that SOPEN accepts (18 R314, R316). -/
def dstOk (s : State) (w : Word) : Prop :=
  w.toNat < 2 ^ 15 ∧ (s.diesOf (s.partOf s.cur)).contains (dieOfRouter (w.toNat / 32 % 256)) = true ∧
    s.inCoreSet (cidOf s.cur) (w.toNat / 32 % 256 * 8 + w.toNat / 4 % 8) = true

/-- The instruction changes no register and no byte, and its pc goes on. -/
def Quiet (s t : State) : Prop :=
  t.me.pc = s.nextPc 4 ∧ s.me.a.Keeps t.me.a NoReg NoReg NoMask ∧ t.me.a.fmode = s.me.a.fmode ∧ sameBytes s t

/-- The trap of an instruction of a torn or unusable port: nothing else of the thread set has changed. -/
def TrapsAs (s : State) (i : Instr) (code : Nat) (v : Word) : Prop :=
  ∃ u, exec i s = .next (u.trapAt s.cur code v s.me.pc) ∧ u.me.a = s.me.a ∧ u.me.pc = s.me.pc ∧ sameBytes s u

end Sys2Proof.Claims

/-- SOPEN sends a guidon and opens its port with no credit; SSEND spends one credit on 64 bytes and waits for a credit where it
has none; SCLOSE sends a furl; RRING configures a ring; RRLS frees bytes and returns their credits; RECV waits for a tail or a
furl that it has not seen. A port that is torn, closed, unconfigured or wrongly configured gives the traps of 18 R316-R322. The
model's choices: log 33, what an SOPEN of an open port keeps of the old route, with the tear clock at 0, and log 34, RRING of size 0
unconfigures whatever the base is. -/
def Obligations.StreamInstructions : Prop :=
  (∀ (a : Reg) (p : BitVec 2) (s : State), isSys s.cur = false →
    let cc := ccOf s.cur
    let q := s.myCC.sport p.toNat
    (Claims.dstOk s (s.g a) → q.torn = false → s.stepping = false → ∃ t f, exec (.sopen a p) s = .next t ∧ Claims.Quiet s t ∧
      t.myCC.sport p.toNat =
        { isOpen := true, torn := false, dst := s.g a, credits := 0, clk := 0, paused := false, route := q.route + 1
          old := if q.isOpen then q.old ++ [(q.route, q.dst, q.clk)] else q.old } ∧
      Claims.Sent t (.guidonArrival f) ∧ f.src = cc ∧ f.sport = p.toNat ∧ f.dst = s.g a ∧ f.resume = false ∧
      f.nxm = s.myCC.nxm ∧ f.route = q.route + 1 ∧
      (q.isOpen = true → ∃ g, Claims.Sent t (.furlLand g) ∧ g.src = cc ∧ g.sport = p.toNat ∧ g.dst = q.dst ∧
        g.route = q.route)) ∧
    (¬ Claims.dstOk s (s.g a) → exec (.sopen a p) s = .next (s.trapAt s.cur 7 (s.g a) s.me.pc)) ∧
    (Claims.dstOk s (s.g a) → q.torn = true → Claims.TrapsAs s (.sopen a p) 0x1A q.dst)) ∧
  (∀ (a : Reg) (v : BitVec 1) (p : BitVec 2) (s : State), isSys s.cur = false →
    let q := s.myCC.sport p.toNat
    (q.torn = true → Claims.TrapsAs s (.ssend a v p) 0x1A q.dst) ∧
    (q.torn = false → q.isOpen = false → exec (.ssend a v p) s = .next (s.trapAt s.cur 7 (BitVec.ofNat 64 p.toNat) s.me.pc)) ∧
    (q.torn = false → q.isOpen = true → q.credits = 0 →
      ∃ t, exec (.ssend a v p) s = .next t ∧ t.me = { s.me with readyAt := s.cyc + 1 } ∧ t.ccs = s.ccs ∧ t.pend = s.pend) ∧
    (q.torn = false → q.isOpen = true → q.credits ≠ 0 → s.stepping = false →
      ∃ t f, exec (.ssend a v p) s = .next t ∧ Claims.Quiet s t ∧ (t.myCC.sport p.toNat).credits + 1 = q.credits ∧
        Claims.Sent t (.dataFlitLand f) ∧ f.src = ccOf s.cur ∧ f.sport = p.toNat ∧ f.dst = q.dst ∧ f.route = q.route ∧
        f.data = (if v = 1 then s.me.a.vp 0 a else (s.g a).setWidth 512))) ∧
  (∀ (p : BitVec 2) (s : State), isSys s.cur = false →
    let q := s.myCC.sport p.toNat
    (q.torn = true → Claims.TrapsAs s (.sclose p) 0x1A q.dst) ∧
    (q.torn = false → q.isOpen = false → exec (.sclose p) s = .next (s.trapAt s.cur 7 (BitVec.ofNat 64 p.toNat) s.me.pc)) ∧
    (q.torn = false → q.isOpen = true → s.stepping = false → ∃ t f, exec (.sclose p) s = .next t ∧ Claims.Quiet s t ∧
      (t.myCC.sport p.toNat).isOpen = false ∧ Claims.Sent t (.furlLand f) ∧ f.src = ccOf s.cur ∧ f.sport = p.toNat ∧
      f.dst = q.dst ∧ f.route = q.route)) ∧
  (∀ (a b : Reg) (p : BitVec 2) (s : State), isSys s.cur = false →
    let r := s.myCC.rport p.toNat
    let fits := (∃ k, 8 ≤ k ∧ k ≤ 16 ∧ (s.g b).toNat = 2 ^ k) ∧ (s.g a).toNat < 2 ^ 19 ∧ (s.g a).toNat % (s.g b).toNat = 0
    (r.bound = none → fits → s.stepping = false → ∃ t, exec (.rring a b p) s = .next t ∧ Claims.Quiet s t ∧
      let u := t.myCC.rport p.toNat
      u.conf = true ∧ u.base = (s.g a).toNat ∧ u.size = (s.g b).toNat ∧ u.tail = 0 ∧ u.free = 0 ∧ u.seen = 0) ∧
    (r.bound = none → s.g b = 0 → s.stepping = false → ∃ t, exec (.rring a b p) s = .next t ∧ Claims.Quiet s t ∧
      (t.myCC.rport p.toNat).conf = false) ∧
    ((r.bound ≠ none ∨ (s.g b ≠ 0 ∧ ¬ fits)) → exec (.rring a b p) s = .next (s.trapAt s.cur 0x1B (s.g a) s.me.pc))) ∧
  (∀ (a : Reg) (p : BitVec 2) (s : State), isSys s.cur = false →
    let r := s.myCC.rport p.toNat
    let x := s.g a
    (r.conf = false → exec (.rrls a p) s = .next (s.trapAt s.cur 0x1B (BitVec.ofNat 64 p.toNat) s.me.pc)) ∧
    (r.conf = true → (x.toNat % 64 ≠ 0 ∨ (r.tail - r.free).toNat < x.toNat) →
      exec (.rrls a p) s = .next (s.trapAt s.cur 0x1B x s.me.pc)) ∧
    (r.conf = true → x.toNat % 64 = 0 → x.toNat ≤ (r.tail - r.free).toNat → s.stepping = false →
      ∃ t, exec (.rrls a p) s = .next t ∧ Claims.Quiet s t ∧ (t.myCC.rport p.toNat).free = r.free + x.setWidth 48 ∧
        ∀ src sp route, r.bound = some (src, sp, route) → r.torn = false → x ≠ 0 →
          ((s.cc src).sport sp).isOpen = true → ((s.cc src).sport sp).torn = false → ((s.cc src).sport sp).route = route →
          Claims.Sent t (.creditArrival src sp (x.toNat / 64)))) ∧
  (∀ (d : Reg) (p : BitVec 2) (s : State), isSys s.cur = false →
    let r := s.myCC.rport p.toNat
    (Claims.recvOk r s.myCC.nxm → ∃ t, exec (.recv d p) s = .next t ∧ Claims.Stalls s t (.recv p.toNat d) ∧
      ((r.tail ≠ r.seen ∨ r.furl = true) → { due := s.cyc + 1, ev := .recvWake s.cur } ∈ t.pend)) ∧
    (r.conf = false → Claims.TrapsAs s (.recv d p) 0x1B (BitVec.ofNat 64 p.toNat)) ∧
    (r.conf = true → r.torn = true → Claims.TrapsAs s (.recv d p) 0x1A (r.src.setWidth 64)) ∧
    (r.conf = true → r.torn = false → r.nxm ≠ none → r.nxm ≠ some s.myCC.nxm →
      Claims.TrapsAs s (.recv d p) 0x13 (r.src.setWidth 64)))

/-- A guidon binds a configured, unbound port and returns credits for its free space, or waits; a data flit lands its 64 bytes and
then the tail, or tears the route where its slot holds no bank; a furl unbinds; a pause keeps the route bound; a credit adds; a tear
marks both ends; a RECV that is woken writes the ring word, marks the tail as seen and acquires (18 R316-R323). -/
def Obligations.StreamEvents : Prop :=
  (∀ (f : Flit) (s : State), let r := (s.cc (fCC f)).rport (fPort f)
    (f.resume = false → r.waiting = [] → r.conf = true → r.bound = none → ∃ t, exec (.guidonArrival f) s = .next t ∧
      ((t.cc (fCC f)).rport (fPort f)).bound = some (f.src, f.sport, f.route) ∧ ((t.cc (fCC f)).rport (fPort f)).nxm = some f.nxm ∧
      ((t.cc (fCC f)).rport (fPort f)).waiting = [] ∧
      (64 ≤ r.size - (r.tail - r.free).toNat → ((s.cc f.src).sport f.sport).isOpen = true →
        ((s.cc f.src).sport f.sport).torn = false → ((s.cc f.src).sport f.sport).route = f.route →
        Claims.Sent t (.creditArrival f.src f.sport ((r.size - (r.tail - r.free).toNat) / 64)))) ∧
    (f.resume = false → (r.conf = false ∨ r.bound ≠ none) → ∃ t, exec (.guidonArrival f) s = .next t ∧
      ((t.cc (fCC f)).rport (fPort f)).waiting = r.waiting ++ [f] ∧ ((t.cc (fCC f)).rport (fPort f)).bound = r.bound) ∧
    (f.resume = true → r.bound = some (f.src, f.sport, f.route) → ∃ t, exec (.guidonArrival f) s = .next t ∧
      ((t.cc (fCC f)).rport (fPort f)).paused = false ∧ ((t.cc (fCC f)).rport (fPort f)).bound = r.bound) ∧
    (f.resume = true → r.bound ≠ some (f.src, f.sport, f.route) → exec (.guidonArrival f) s = .next s)) ∧
  (∀ (f : Flit) (s : State), let r := (s.cc (fCC f)).rport (fPort f)
    let a := r.base + r.tail.toNat % r.size
    r.bound = some (f.src, f.sport, f.route) →
    (∀ b, r.torn = false → (s.cc (fCC f)).slot (a / 65536) = .attached b → a % 65536 + 64 ≤ 65536 → Memory.wf b.data = true →
      ∃ t, exec (.dataFlitLand f) s = .next t ∧ ((t.cc (fCC f)).rport (fPort f)).tail = r.tail + 64 ∧
        (∀ j, j < 64 → t.localAt (fCC f) (a + j) = some (BitVec.ofNat 8 (f.data.toNat / 2 ^ (8 * j)))) ∧
        (∀ x, (x < a ∨ a + 64 ≤ x) → t.localAt (fCC f) x = s.localAt (fCC f) x) ∧ Claims.sameBytes s t) ∧
    (f.sport < 4 → r.torn = false → ((s.cc (fCC f)).slot (a / 65536) = .empty ∨ (s.cc (fCC f)).slot (a / 65536) = .reserved) →
      ((s.cc f.src).sport f.sport).route = f.route →
      ∃ t, exec (.dataFlitLand f) s = .next t ∧ ((t.cc f.src).sport f.sport).torn = true ∧
        ((t.cc (fCC f)).rport (fPort f)).torn = true ∧ ((t.cc (fCC f)).rport (fPort f)).tail = r.tail) ∧
    (r.waiting = [] → ∃ t, exec (.furlLand f) s = .next t ∧ ((t.cc (fCC f)).rport (fPort f)).bound = none ∧
      ((t.cc (fCC f)).rport (fPort f)).furl = true ∧ ((t.cc (fCC f)).rport (fPort f)).tail = r.tail) ∧
    (∃ t, exec (.pauseFlitLand f) s = .next t ∧ ((t.cc (fCC f)).rport (fPort f)).paused = true ∧
      ((t.cc (fCC f)).rport (fPort f)).bound = r.bound)) ∧
  (∀ (cc p n : Nat) (s : State), p < 4 → ((s.cc cc).sport p).isOpen = true → ∃ t, exec (.creditArrival cc p n) s = .next t ∧
    ((t.cc cc).sport p).credits = ((s.cc cc).sport p).credits + n ∧ Claims.sameBytes s t ∧ t.ts = s.ts) ∧
  (∀ (cc p : Nat) (s : State), p < 4 →
    let q := (s.cc cc).sport p
    let w := q.dst
    let h := (s.die (s.ctx (ccCid cc)).part).hold.toNat
    let limit := (if h = 0 then 65536 else h) * 1024
    q.old = [] →
    (q.isOpen = true → q.torn = false → q.paused = false → limit < q.clk →
      ∃ t, exec (.routeTear cc p) s = .next t ∧ ((t.cc cc).sport p).torn = true ∧
        (((s.cc (dstCC cc w)).rport (dstPort w)).bound = some (cc, p, q.route) →
          ((t.cc (dstCC cc w)).rport (dstPort w)).torn = true)) ∧
    ((q.isOpen = false ∨ q.torn = true ∨ q.paused = true ∨ q.clk ≤ limit) → exec (.routeTear cc p) s = .next s)) ∧
  (∀ (tk p : Nat) (d : Reg) (s : State), (s.t tk).wait = some (.recv p d) → p < 4 → (Claims.from_ s tk).stepping = false →
    let r := (s.cc (ccOf tk)).rport p
    Claims.recvOk r (s.nxm tk) → (r.tail ≠ r.seen ∨ r.furl = true) →
    ∃ t, exec (.recvWake tk) s = .next t ∧ Claims.Resumes s t tk (fun x q => x = d ∧ (q = 0 ∨ q ∈ (s.t tk).dual)) ∧
      (t.t tk).a.gp 0 d = (if d = 0 then 0 else Claims.ringWord r) ∧ ((t.cc (ccOf tk)).rport p).seen = r.tail ∧
      ((t.cc (ccOf tk)).rport p).furl = false ∧ (t.t tk).epoch = s.seq + 1 ∧ Claims.sameBytes s t)

namespace Sys2Proof.Claims

open Sys2Proof.Machine

/-! ### Barriers (14 R268-R290) -/

/-- The barrier state of a handle in one thread set. -/
def barOf (s : State) (tk h : Nat) : BarSt := vget (s.t tk).a.bar h BarSt.reset

/-- The current thread set is a member of the granted channel of its handle. -/
def memberOf (s : State) (h : Nat) (ch : Nat) : Prop :=
  isSys s.cur = false ∧ s.chanOf (cidOf s.cur) h = some ch ∧ posBit (s.chan ch).mem (posOf s.cur) = true

/-- The entries of the hold buffer that are a thread set's. -/
def heldOf (s : State) (tk : Nat) : List Held := (s.core (coreOf tk)).hold.filter (fun h => h.r.who == tk)

/-- Two stores write no common byte. -/
def apart (a b : Req) : Prop :=
  ∀ i j, i < a.len → j < b.len → a.mask.getLsbD i = true → b.mask.getLsbD j = true → a.pa + i ≠ b.pa + j

/-- Request `r` stores every byte that `e` stores. -/
def carries (s : State) (r e : Req) : Prop :=
  ∀ i, i < e.len → i < 64 → e.mask.getLsbD i = true → r.pa ≤ e.pa + i ∧ e.pa + i < r.pa + r.len ∧
    storedByte s r (e.pa + i - r.pa) = dataByte e i

/-- What a vote's combination gives (14 R276). -/
def voteOf (op : Nat) (x y : BitVec 32) : BitVec 32 :=
  match op with
  | 0 => x &&& y
  | 1 => x ||| y
  | 2 => if x < y then y else x
  | _ => x + y

end Sys2Proof.Claims

/-- BARR and BARL make their state waiting, send the owned residual entries and the arrival behind their release, and complete;
BARW delivers the latched result and makes the state idle, or waits; BARWS crosses a superstep that is not complete; BARQ reads a
cluster's membership or arrivals with S. A handle that is not granted, or a thread set that is no member, is ILLEGAL_INSN (14
R268, R272-R277, R281). The model's choice, log 95: where two running launches of a context grant one handle, it names the first such
channel. -/
def Obligations.BarrierInstructions : Prop :=
  (∀ (a : Reg) (h : BitVec 3) (s : State) (ch : Nat), Claims.memberOf s h.toNat ch →
    ((Claims.barOf s s.cur h.toNat).st = 1 → (∃ t, exec (.barr a h) s = .next t ∧ Claims.Stalls s t (.barr h.toNat)) ∧
      ∃ t, exec (.barl h) s = .next t ∧ Claims.Stalls s t (.barr h.toNat)) ∧
    ((Claims.barOf s s.cur h.toNat).st ≠ 1 → s.stepping = false →
      (∃ t v, exec (.barr a h) s = .next t ∧ (Claims.barOf t s.cur h.toNat).st = 1 ∧ t.me.pc = s.nextPc 4 ∧
        Claims.Sent t (.barrierArrival v) ∧ v.tk = s.cur ∧ v.chan = ch ∧ v.hdl = h.toNat ∧ v.vote = (s.g a).toNat % 2 ^ 16 ∧
        v.leave = false ∧ Claims.sameBytes s t ∧ s.me.a.Keeps { t.me.a with bar := s.me.a.bar } NoReg NoReg NoMask) ∧
      (∃ t v, exec (.barl h) s = .next t ∧ (Claims.barOf t s.cur h.toNat).st = 1 ∧ t.me.pc = s.nextPc 4 ∧
        Claims.Sent t (.barrierArrival v) ∧ v.tk = s.cur ∧ v.chan = ch ∧ v.hdl = h.toNat ∧
        v.vote = (if (s.chan ch).op = 0 then 0xFFFF else 0) ∧ v.leave = true))) ∧
  (∀ (d : Reg) (h : BitVec 3) (s : State) (ch : Nat), Claims.memberOf s h.toNat ch →
    ((Claims.barOf s s.cur h.toNat).st = 1 → ∃ t, exec (.barw d h) s = .next t ∧ Claims.Stalls s t (.barw h.toNat d)) ∧
    ((Claims.barOf s s.cur h.toNat).st ≠ 1 → s.stepping = false →
      ∀ i, (i = .barw d h ∨ i = .barws d h) → ∃ t, exec i s = .next t ∧
        t.me.a.gp 0 d = (if d = 0 then 0 else (Claims.barOf s s.cur h.toNat).latched.setWidth 64) ∧
        (Claims.barOf t s.cur h.toNat).st = 0 ∧ t.me.pc = s.nextPc 4 ∧ t.me.epoch = s.seq + 1 ∧ Claims.sameBytes s t ∧
        s.me.a.Keeps { t.me.a with bar := s.me.a.bar } (s.Dest d) NoReg NoMask) ∧
    ((Claims.barOf s s.cur h.toNat).st = 1 → ((Claims.barOf s s.cur h.toNat).noSpec = true ∨ s.me.specOn = true) →
      ∃ t, exec (.barws d h) s = .next t ∧ Claims.Stalls s t (.barw h.toNat d)) ∧
    ((Claims.barOf s s.cur h.toNat).st = 1 → (Claims.barOf s s.cur h.toNat).noSpec = false → s.me.specOn = false →
      s.stepping = false →
      ∃ t c, exec (.barws d h) s = .next t ∧ t.me.spec = some c ∧ c.chk = s.me.a ∧ c.pc = s.me.pc ∧ c.d = d ∧ c.h = h.toNat ∧
        c.chan = ch ∧ c.gen = (s.chan ch).s ∧ t.me.specOn = true ∧ t.me.pc = s.nextPc 4 ∧
        (d ≠ 0 → { cls := 0, r := d.toNat, due := none } ∈ t.me.busy) ∧
        s.me.a.Keeps t.me.a NoReg NoReg NoMask ∧ Claims.sameBytes s t)) ∧
  (∀ (d : Reg) (q : BitVec 1) (h : BitVec 3) (s : State) (ch : Nat), isSys s.cur = false → s.chanOf (cidOf s.cur) h.toNat = some ch →
    s.stepping = false → ∃ t, exec (.barq d q h) s = .next t ∧ s.RegStep t 4 (s.Dest d) NoReg NoMask ∧
      t.me.a.gp 0 d = (if d = 0 then 0 else
        BitVec.ofNat 64 ((mget (if q = 0 then (s.chan ch).mem else (s.chan ch).arr) (clusterOf s.cur) 0).toNat +
          (s.chan ch).s.toNat * 2 ^ 32))) ∧
  (∀ (i : Instr) (h : BitVec 3) (s : State), isSys s.cur = false →
    ((∃ a, i = .barr a h) ∨ i = .barl h ∨ (∃ d, i = .barw d h) ∨ (∃ d, i = .barws d h)) →
    (s.chanOf (cidOf s.cur) h.toNat = none ∨
      ∃ ch, s.chanOf (cidOf s.cur) h.toNat = some ch ∧ posBit (s.chan ch).mem (posOf s.cur) = false) →
    exec i s = .next (s.trapAt s.cur 1 (Claims.wordOf i) s.me.pc))

/-- An arrival joins its vote; the last one raises S by 1, clears the arrivals, and gives every member the result; a wake completes
a BARW; a commit makes a crossing's stores ordinary, the two sectors of one VST.G as one access (06 R128), and delivers the result, also to
what an abandoned operation goes back to (05 R87); an abort restores the checkpoint, sets NOSPEC, counts
and goes back to the BARWS (14 R271, R274, R275, R286, R287, R290). -/
def Obligations.BarrierEvents : Prop :=
  (∀ (v : Arrival) (q : Nat) (s : State), let c := s.chan v.chan
    let pos := posOf v.tk
    let all := ∀ p ∈ positions c.mem, p = pos ∨ posBit c.arr p = true
    c.grant = some (cidOf v.tk, q, v.hdl) → v.hdl < 8 → posBit c.mem pos = true → posBit c.arr pos = false →
    (¬ all → ∃ t, exec (.barrierArrival v) s = .next t ∧ (t.chan v.chan).s = c.s ∧ posBit (t.chan v.chan).arr pos = true ∧
      (t.chan v.chan).vote = Claims.voteOf c.op c.vote (BitVec.ofNat 32 v.vote) ∧ (t.chan v.chan).mem = c.mem ∧ t.ts = s.ts ∧
      Claims.sameBytes s t) ∧
    (all → ∃ t, exec (.barrierArrival v) s = .next t ∧ (t.chan v.chan).s = c.s + 1 ∧ (t.chan v.chan).arr = [] ∧
      (t.chan v.chan).vote = (if c.op = 0 then 0xFFFF else 0) ∧
      ∀ p u, p ∈ positions c.mem → mfind s.ts (tkOf (cidOf v.tk) p) = some u →
        Claims.barOf t (tkOf (cidOf v.tk) p) v.hdl =
          { st := 2, latched := Claims.voteOf c.op c.vote (BitVec.ofNat 32 v.vote), noSpec := false })) ∧
  (∀ (tk h : Nat) (d : Reg) (s : State), h < 8 → (s.t tk).wait = some (.barw h d) → (Claims.barOf s tk h).st = 2 →
    (Claims.from_ s tk).stepping = false →
    ∃ t, exec (.barwWake tk) s = .next t ∧ (t.t tk).wait = none ∧ (t.t tk).pc = (Claims.from_ s tk).nextPc 4 ∧
      (t.t tk).a.gp 0 d = (if d = 0 then 0 else (Claims.barOf s tk h).latched.setWidth 64) ∧ (Claims.barOf t tk h).st = 0 ∧
      (t.t tk).epoch = s.seq + 1 ∧ Claims.sameBytes s t) ∧
  (∀ (tk : Nat) (c : Crossing) (s : State), (s.t tk).spec = some c → c.h < 8 → (Claims.barOf s tk c.h).st = 2 →
    (s.chan c.chan).s ≠ c.gen →
    ∃ t, exec (.specCommit tk) s = .next t ∧ (t.t tk).spec = none ∧ (t.t tk).specOn = false ∧
      (t.t tk).a.gp 0 c.d = (if c.d = 0 then 0 else (Claims.barOf s tk c.h).latched.setWidth 64) ∧
      (Claims.barOf t tk c.h).st = 0 ∧ (t.t tk).epoch = s.seq + 1 ∧ (t.t tk).pc = (s.t tk).pc ∧
      (∀ u pc due, (s.t tk).undo = some (u, pc, due) → ∃ v, (t.t tk).undo = some (v, pc, due) ∧ v.status.getLsbD 6 = false ∧
        v.gp 0 c.d = (if c.d = 0 then 0 else (Claims.barOf s tk c.h).latched.setWidth 64)) ∧
      (∀ e ∈ Claims.heldOf s tk, e.r.mask ≠ 0 → (∀ x ∈ Claims.heldOf s tk, x ≠ e → x.tied e = false ∧ e.tied x = false) →
        ∃ r, Claims.Sent t (.homeStoreApply r) ∧ r.pa = e.r.pa ∧ r.home = e.r.home ∧ r.data = e.r.data ∧ r.mask = e.r.mask ∧
          r.len = e.r.len) ∧
      (∀ e x, e ∈ Claims.heldOf s tk → x ∈ Claims.heldOf s tk → e ≠ x → e.tied x = true → x.tied e = true → e.r.mask ≠ 0 →
        x.r.mask ≠ 0 → e.r.home = x.r.home → Claims.apart e.r x.r →
        (∀ y ∈ Claims.heldOf s tk, y ≠ e → y ≠ x → y.tied e = false ∧ y.tied x = false ∧ e.tied y = false ∧ x.tied y = false) →
        ∃ r, Claims.Sent t (.homeStoreApply r) ∧ r.home = e.r.home ∧ Claims.carries s r e.r ∧ Claims.carries s r x.r) ∧
      ∀ e ∈ (t.core (coreOf tk)).hold, e.r.who ≠ tk) ∧
  (∀ (tk ch gen : Nat) (c : Crossing) (s : State), (s.t tk).spec = some c → c.h < 8 → c.chan = ch % 64 → c.gen.toNat = gen →
    (s.chan c.chan).s = c.gen →
    ∃ t, exec (.specAbort tk ch gen) s = .next t ∧ (t.t tk).spec = none ∧ (t.t tk).pc = c.pc ∧ (t.t tk).wait = none ∧
      (∀ r p, p ≤ 2 → (t.t tk).a.gp p r = c.chk.gp p r ∧ (t.t tk).a.vp p r = c.chk.vp p r) ∧
      (∀ r, (t.t tk).a.mp r = c.chk.mp r) ∧ (Claims.barOf t tk c.h).noSpec = true ∧
      (t.t tk).specst.toNat / 2 ^ 16 % 2 ^ 16 = min ((s.t tk).specst.toNat / 2 ^ 16 % 2 ^ 16 + 1) 0xFFFF ∧
      (∀ e ∈ (t.core (coreOf tk)).hold, e.r.who ≠ tk) ∧ Claims.sameBytes s t) ∧
  (∀ (tk ch gen : Nat) (s : State), (∀ c, (s.t tk).spec = some c → c.chan ≠ ch % 64 ∨ c.gen.toNat ≠ gen ∨
      (s.chan c.chan).s ≠ c.gen) → exec (.specAbort tk ch gen) s = .next s)

namespace Sys2Proof.Claims

open Sys2Proof.Machine

/-! ### Tasks and launches (07 R138-R146; 19 R326-R344) -/

/-- The bound task of a thread set with its launch. -/
def boundTask (s : State) (tk tcb : Nat) (k : Task) (l : Launch) : Prop :=
  (s.t tk).bound = some tcb ∧ s.task? (s.partOf tk) tcb = some k ∧ s.launch? (s.partOf tk) k.cid k.seq = some l

/-- The granule of a launch record (19 R330). -/
def granule (x : BitVec 2048) : Nat := if x.toNat / 2 ^ 256 % 2 ^ 32 = 0 then 1 else x.toNat / 2 ^ 256 % 2 ^ 32

/-- RTNEXT of the current thread set splits its task for the request of a position: the position has no candidate, and the
successor's count can be raised (07 R140; 19 R333, R341). -/
def splits (s : State) (k : Task) (l : Launch) : Prop :=
  (∃ q c, k.req = some (q, c) ∧ s.candidate (s.partOf s.cur) (cidOf q) (posOf q) = none) ∧
    s.freeTcbs (s.partOf s.cur) l.cid l.snap ≠ [] ∧ s.me.specOn = false ∧
    granule l.snap ≤ (s.me.a.rend.toNat - s.me.a.claim.toNat) / 2 ∧ (s.succAdd (s.partOf s.cur) l 1).1 = true

/-- Nothing of the thread set is unfinished: TDONE may end its task (07 R142). -/
def doneReady (s : State) (tk : Nat) : Prop :=
  (∀ x ∈ s.pend, waitsFor tk x.ev = false) ∧ (∀ b ∈ (s.t tk).busy, b.due ≠ none) ∧
    (∀ e ∈ (s.cc (ccOf tk)).sb, e.tk ≠ tk) ∧
    ∀ i e, vget (s.core (coreOf tk)).tile i none = some e → e.r.own.getLsbD (tsOf tk) = false ∨ e.r.cid ≠ cidOf tk

/-- The thread set's task has been parked: its TCB and its task hold the state, and another task may bind. -/
def Parked (s t : State) (tk tcb state : Nat) (pc : Word) : Prop :=
  (t.t tk).bound = none ∧ Sent t (.taskBind (posOf tk)) ∧
    (∃ r, mfind (t.part (s.partOf tk)).tcbs tcb = some r ∧ r.state = state ∧ r.pc = pc) ∧
    ∃ k, t.task? (s.partOf tk) tcb = some k ∧ k.st = state ∧ k.req = none

end Sys2Proof.Claims

/-- RTNEXT claims one iteration and answers the range end; where a request is pending, a TCB is free and both halves hold a granule,
it first gives the upper half to the requester as a new task. YIELD parks the task where another can bind, which then has the
thread set, and is a NOP otherwise.
TDONE, TSPAWN and TSYNC stall behind a release (07 R140, R142, R143; 19 R329, R344). -/
def Obligations.TaskInstructions : Prop :=
  (∀ (d : Reg) (s : State), isSys s.cur = false → s.stepping = false →
    (∀ tcb k l, Claims.boundTask s s.cur tcb k l → ¬ Claims.splits s k l) →
    ∃ t, exec (.rtnext d) s = .next t ∧ t.me.a.gp 0 d = (if d = 0 then 0 else s.me.a.rend) ∧ t.me.a.rend = s.me.a.rend ∧
      t.me.a.claim = (if s.me.a.claim.toNat < s.me.a.rend.toNat then s.me.a.claim + 1 else s.me.a.claim) ∧
      t.me.pc = s.nextPc 4 ∧ Claims.sameBytes s t ∧
      s.me.a.Keeps { t.me.a with claim := s.me.a.claim } (s.Dest d) NoReg NoMask) ∧
  (∀ (d : Reg) (s : State) (tcb q c : Nat) (k : Task) (l : Launch), isSys s.cur = false → s.stepping = false →
    Claims.boundTask s s.cur tcb k l → Claims.splits s k l → k.req = some (q, c) →
    let mid := s.me.a.claim.toNat + (s.me.a.rend.toNat - s.me.a.claim.toNat + 1) / 2
    ∃ t, exec (.rtnext d) s = .next t ∧ t.me.a.gp 0 d = (if d = 0 then 0 else BitVec.ofNat 64 mid) ∧
      t.me.a.rend = BitVec.ofNat 64 mid ∧ t.me.a.claim = s.me.a.claim + 1 ∧ Claims.Sent t (.taskBind (posOf q)) ∧
      ∃ n ∈ (t.part (s.partOf s.cur)).tasks, n.low = mid ∧ n.st = 1 ∧ n.cid = l.cid ∧ n.seq = l.seq ∧ n.pos = posOf q ∧
        n.split = true ∧ n.hv = false) ∧
  (∀ s : State, isSys s.cur = false → s.stepping = false →
    (s.candidate (s.partOf s.cur) (cidOf s.cur) (posOf s.cur) = none →
      ∃ t, exec .yield s = .next t ∧ s.RegStep t 4 NoReg NoReg NoMask) ∧
    (∀ tcb k n l, let p := s.partOf s.cur
      s.candidate p (cidOf s.cur) (posOf s.cur) = some n → (∀ b ∈ s.me.busy, b.due ≠ none) →
      s.me.bound = some tcb → s.task? p tcb = some k → n.tcb ≠ tcb → s.launch? p n.cid n.seq = some l →
      s.imagesOf l.cid (recEntry l.snap) = [] → (s.part p).tcbs.length ≤ 254 →
      ∃ t, exec .yield s = .next t ∧ (t.t s.cur).bound = some n.tcb ∧
        (∃ r, mfind (t.part p).tcbs tcb = some r ∧ r.state = 3 ∧ r.pc = s.nextPc 4) ∧
        ∃ k', t.task? p tcb = some k' ∧ k'.st = 3 ∧ k'.req = none)) ∧
  (∀ s : State, isSys s.cur = false → ∃ t, exec .tdone s = .next t ∧ Claims.Stalls s t .tdone ∧
    Claims.Sent t (.releasePerformed s.cur)) ∧
  (∀ (a : Reg) (s : State), isSys s.cur = false → ∃ t, exec (.tsync a) s = .next t ∧
    Claims.Stalls s t (.tsync (s.g a) (a == 0)) ∧ Claims.Sent t (.releasePerformed s.cur)) ∧
  (∀ (d a : Reg) (s s1 : State) (h : Hit), isSys s.cur = false →
    Claims.Passes s { kind := .load, al := 256, ctr := none, regs := false } [s.g a] 256 true false [h] s1 →
    ∃ t r, exec (.tspawn d a) s = .next t ∧ Claims.Stalls s1 t (.tspawn d r) ∧ r.pa = h.pa + 0x28 ∧ r.va = h.ea ∧
      (∀ x, s1.homeOf (s1.partOf s.cur) (dieOf s.cur) h.pte (h.pa + 0x28) = some x → r.home = x) ∧
      Claims.Sent t (.releasePerformed s.cur)) ∧
  (∀ (i : Instr) (s : State), isSys s.cur = true → (i = .tdone ∨ i = .yield ∨ (∃ d, i = .rtnext d) ∨ (∃ a, i = .tsync a) ∨
    ∃ d a, i = .tspawn d a) → exec i s = .next (s.trapAt s.cur 1 (Claims.wordOf i) s.me.pc))

/-- A performed release ends a TDONE with its task done and its thread set idle (in a context whose termination has begun no task ends and
no launch completes, 20 R364), and lets TSPAWN append and TSYNC ask; TSPAWN's
status is 0 for an append, 1 where the partition does not run or the queue is full, 2 where the queue is not the context's own
open memory queue; TSYNC drops what the dispatcher caches and resumes a faulted task that asks for it; a long WAITGE parks (07
R142, R146; 19 R329, R337, R342, R344). -/
def Obligations.TaskReleases : Prop :=
  (∀ (tk tcb : Nat) (k : Task) (l : Launch) (s : State), (s.t tk).wait = some .tdone → Claims.doneReady s tk →
    Claims.boundTask s tk tcb k l → s.ending k.cid = false → recSucc l.snap = 0 → 2 ≤ l.left →
    ∃ t, exec (.releasePerformed tk) s = .next t ∧ (t.t tk).bound = none ∧ (t.t tk).wait = none ∧
      Claims.Sent t (.taskBind (posOf tk)) ∧ (∃ k', t.task? (s.partOf tk) tcb = some k' ∧ k'.st = 5) ∧
      ∃ l', t.launch? (s.partOf tk) k.cid k.seq = some l' ∧ l'.left = l.left - 1) ∧
  (∀ (p cid seq tcb : Nat) (s : State), s.ending cid = true → s.complete? p cid seq = s ∧
    ∀ k, s.task? p tcb = some k → k.cid = cid → s.endTask p tcb = s) ∧
  (∀ (tk : Nat) (s : State), (∀ x ∈ s.pend, waitsFor tk x.ev = false) →
    (∀ d r, (s.t tk).wait = some (.tspawn d r) → ∃ t, exec (.releasePerformed tk) s = .next t ∧ t.ts = s.ts ∧
      Claims.Sent t (.tspawnStatus tk)) ∧
    (∀ va all, (s.t tk).wait = some (.tsync va all) → ∃ t, exec (.releasePerformed tk) s = .next t ∧ t.ts = s.ts ∧
      Claims.Sent t (.tsyncAck tk))) ∧
  (∀ (tk st : Nat) (d : Reg) (r : Req) (s s1 : State), (s.t tk).wait = some (.tspawn d r) →
    s.append tk r.va r.pa r.home = (st, s1) → (Claims.from_ s1 tk).stepping = false →
    ∃ t, exec (.tspawnStatus tk) s = .next t ∧
      Claims.Resumes s1 t tk (fun x p => x = d ∧ (p = 0 ∨ p ∈ (s1.t tk).dual)) ∧
      (t.t tk).a.gp 0 d = (if d = 0 then 0 else BitVec.ofNat 64 st)) ∧
  (∀ (tk pa home : Nat) (va : Word) (s : State), Claims.noSliceWatch s home →
    let p := s.partOf tk
    let q := Claims.memNat s home pa 8 / 2 ^ 32 % 64
    let own := (s.qw p q 3).getLsbD 15 = true ∧ (s.qw p q 0).toNat % 32 ≤ 16 ∧ (s.qw p q 0).getLsbD 5 = true ∧
      (s.qw p q 3).toNat % 2 ^ 12 = cidOf tk
    let full := (s.qw p q 2 - s.qw p q 1).toNat = 2 ^ ((s.qw p q 0).toNat % 32)
    ((s.die p).state ≠ 0 → (s.append tk va pa home).1 = 1) ∧
    ((s.die p).state = 0 → ¬ own → (s.append tk va pa home).1 = 2) ∧
    ((s.die p).state = 0 → own → full → (s.append tk va pa home).1 = 1) ∧
    (∀ s2, (s.die p).state = 0 → own → ¬ full →
      s.hwWrite (cidOf tk) p (s.qEntry p q (s.qw p q 2).toNat) (wordLe va 8) = some s2 → (s.append tk va pa home).1 = 0)) ∧
  (∀ (tk : Nat) (va : Word) (s : State), (Claims.from_ s tk).stepping = false →
    let p := s.partOf tk
    let drop (u : State) (f : Nat → Nat → Bool) : State := u.upPart p (fun x =>
      { x with recs := x.recs.filter (fun r => !f r.1 r.2.1), tcbs := x.tcbs.filter (fun r => !f r.1 r.2.cid) })
    ((s.t tk).wait = some (.tsync va true) → ∃ t, exec (.tsyncAck tk) s = .next t ∧ Claims.Resumes s t tk NoReg ∧
      t.part p = (drop s (fun _ c => c == cidOf tk)).part p) ∧
    (∀ pa home pte s1, (s.t tk).wait = some (.tsync va false) → s.site tk va .load (s.t tk).priv = (.ok pa home pte, s1) →
      (s1.t tk).a = (s.t tk).a → (s1.t tk).pc = (s.t tk).pc → (s1.t tk).pmctl = (s.t tk).pmctl →
      let s2 := drop s1 (fun a c => a == pa && c == cidOf tk)
      (s1.task? p pa = none → ∃ t, exec (.tsyncAck tk) s = .next t ∧ Claims.Resumes s t tk NoReg ∧ t.part p = s2.part p) ∧
      (∀ k, s1.task? p pa = some k → k.cid = cidOf tk → k.st = 4 → (∀ e ∈ (s1.part p).fq, e.tcb ≠ pa) →
        (s2.getTcb p pa).1.state = 7 → ∃ t, exec (.tsyncAck tk) s = .next t ∧ Claims.Resumes s t tk NoReg ∧
          ∃ k', t.task? p pa = some k' ∧ k'.st = 3))) ∧
  (∀ (tk tcb : Nat) (w : Nat × Nat × Word) (s : State), s.yieldParks tk = some w → (s.t tk).bound = some tcb →
    ∃ t, exec (.yieldPark tk) s = .next t ∧ Claims.Parked s t tk tcb 3 (s.t tk).pc ∧
      (∃ k, t.task? (s.partOf tk) tcb = some k ∧ k.wait = some w)) ∧
  (∀ (tk : Nat) (s : State), s.yieldParks tk = none → exec (.yieldPark tk) s = .next s)

/-- A bind gives the position its first candidate: a new task begins at its record's entry with the argument pointer, its range
and its identity word, all else zero; a task that comes back has the registers and the pc of its TCB. A split request stands on
the first victim for 1024 cc. A fault queue takes one entry and its TAIL moves. Admission refuses, admits with a launch, or waits
for channels and TCBs (02 R40; 07 R140; 19 R331-R334, R339-R341). -/
def Obligations.Dispatching : Prop :=
  (∀ (pos cid : Nat) (k : Task) (l : Launch) (s : State), s.openPos pos = some cid →
    let tk := tkOf cid pos
    let p := s.partOf tk
    let r := (s.getTcb p k.tcb).1
    s.candidate p cid pos = some k → s.launch? p k.cid k.seq = some l → s.imagesOf l.cid (recEntry l.snap) = [] →
    ∃ t, exec (.taskBind pos) s = .next t ∧ (t.t tk).bound = some k.tcb ∧ (t.t tk).wait = none ∧
      (∃ k', t.task? p k.tcb = some k' ∧ k'.st = 2 ∧ k'.pos = posOf tk) ∧
      (k.hv = false → (t.t tk).pc = recW l.snap 0 ∧ (t.t tk).a.gp 0 4 = recW l.snap 8 ∧ (t.t tk).a.gp 0 5 = r.a.claim ∧
        (t.t tk).a.gp 0 6 = r.a.rend ∧ (t.t tk).a.gp 0 7 = BitVec.ofNat 64 (posOf tk) ∧
        (∀ x q, q ≤ 2 → (q = 0 → x.toNat < 4 ∨ 7 < x.toNat) → (t.t tk).a.gp q x = 0) ∧
        (∀ x q, q ≤ 2 → (t.t tk).a.vp q x = 0) ∧ (t.t tk).a.claim = r.a.claim ∧ (t.t tk).a.rend = r.a.rend ∧
        (t.t tk).priv = 0 ∧ (t.t tk).ie = true) ∧
      (k.hv = true → (t.t tk).pc = r.pc &&& ~~~(3 : Word) ∧ (∀ x q, q ≤ 2 → (t.t tk).a.gp q x = r.a.gp q x) ∧
        (∀ x q, q ≤ 2 → (t.t tk).a.vp q x = r.a.vp q x) ∧ (∀ x, (t.t tk).a.mp x = r.a.mp x))) ∧
  (∀ (pos : Nat) (s : State), s.openPos pos = none → exec (.taskBind pos) s = .next s) ∧
  (∀ (pos cid tier : Nat) (k : Task) (s : State), s.wantsSplit pos = true → s.openPos pos = some cid →
    let p := s.partOf (tkOf cid pos)
    firstBy victimLt (s.victims p cid pos) = some (k, tier) →
    ∃ t, exec (.splitRequest pos) s = .next t ∧ (∃ k', t.task? p k.tcb = some k' ∧ k'.req = some (tkOf cid pos, s.cyc)) ∧
      { due := s.cyc + 1024, ev := .splitWithdrawTimeout p k.tcb } ∈ t.pend) ∧
  (∀ (pos : Nat) (s : State), s.wantsSplit pos = false → exec (.splitRequest pos) s = .next s) ∧
  (∀ (p tcb : Nat) (k : Task) (s : State), s.task? p tcb = some k →
    ∃ t k', exec (.splitWithdrawTimeout p tcb) s = .next t ∧ t.task? p tcb = some k' ∧
      (∀ q c, k.req = some (q, c) → k'.req = if c + 1024 ≤ s.cyc then none else k.req) ∧ Claims.sameBytes s t) ∧
  (∀ (p : Nat) (e : FqEnt) (s s1 : State), s.fqPick p = some e → s.fqTry p e = .done s1 →
    ∃ t, exec (.faultQueueWrite p) s = .next t ∧ (t.part p).fq = (s.part p).fq.erase e) ∧
  (∀ (p : Nat) (s : State), s.fqPick p = none → exec (.faultQueueWrite p) s = .next s) ∧
  (∀ (p : Nat) (s : State), s.admits p = false → exec (.admission p) s = .next s) ∧
  (∀ (p q pa : Nat) (va : Word) (x : BitVec 2048) (s s1 s2 : State), s.admits p = true →
    let s0 := s.admWaiters p
    let cid := s0.qCid p q
    s0.pickQueue p = some q →
    ((s0.upPart p (fun y => { y with rrq := vset y.rrq ((s0.qw p q 3).toNat / 2 ^ 12 % 8) ((q + 1) % 64) })).noteHead p q).headVa p q =
      (some va, s1) →
    s1.step1 p q = .go → s1.getRec p cid va = (some (pa, x), s2) →
    (∀ c own, s2.step3 p cid x = some (c, own) → ∃ t, exec (.admission p) s = .next t ∧ Claims.Sent t (.faultQueueWrite p) ∧
      ∃ e ∈ (t.part p).fq, e.q = q ∧ e.words = [0, BitVec.ofNat 64 c, 0, 0, 0, va, 0, 0] ∧ (own = true → e.dflt = true)) ∧
    (s2.step3 p cid x = none → s2.step4 p { q := q, va := va, pa := pa, snap := x } = true → recTasks x ≠ [] →
      ∃ t, exec (.admission p) s = .next t ∧ ∃ l ∈ (t.part p).launches, l.va = va ∧ l.snap = x ∧ l.q = q ∧
        l.left = (recTasks x).length) ∧
    (s2.step3 p cid x = none → s2.step4 p { q := q, va := va, pa := pa, snap := x } = false →
      ∃ t, exec (.admission p) s = .next t ∧ (t.part p).adm = some { q := q, va := va, pa := pa, snap := x })) ∧
  (∀ (p : Nat) (a : Adm) (s : State), (s.part p).adm = some a →
    (s.step4 p a = true → recTasks a.snap ≠ [] → ∃ t, exec (.admissionWaitEnd p) s = .next t ∧ ∃ l ∈ (t.part p).launches,
      l.va = a.va ∧ l.snap = a.snap ∧ l.q = a.q ∧ l.left = (recTasks a.snap).length) ∧
    (s.step4 p a = false → exec (.admissionWaitEnd p) s = .next s))

namespace Sys2Proof.Claims

open Sys2Proof.Machine

/-! ### Partitions, the host and the transport (19 R327; 21 R372-R393) -/

/-- Every die of a number. -/
def allDies (s : State) (p : Nat) (f : DieSt → Prop) : Prop := ∀ d, d < 4 → (s.die d).part = p → f (s.die d)

/-- Every die of number `p` whose state is `a` comes to satisfy `f`; one in another state keeps it and satisfies `g`, and no other die
changes its state. -/
def Moves (s t : State) (p a : Nat) (f g : DieSt → Prop) : Prop :=
  ∀ d, d < 4 → ((s.die d).part = p → (s.die d).state = a → f (t.die d)) ∧
    ((s.die d).part = p → (s.die d).state ≠ a → (t.die d).state = (s.die d).state ∧ g (t.die d)) ∧
    ((s.die d).part ≠ p → (t.die d).state = (s.die d).state)

/-- The bytes lie in one line part of one page. -/
def oneChunk (pa n : Nat) : Prop := 0 < n ∧ pa % 192 + n ≤ 192 ∧ ∀ i, i < n → lineKey (pa + i) = lineKey pa

/-- Exactly these bytes at one home change. -/
def writesAt (s t : State) (home pa : Nat) (data : List Byte) : Prop :=
  (∀ i, i < data.length → some (t.byteAt home (pa + i)) = data[i]?) ∧
    ∀ h x, (h ≠ home ∨ lineKey x ≠ lineKey pa ∨ x < pa ∨ pa + data.length ≤ x) → t.byteAt h x = s.byteAt h x

/-- A request that its peer, which runs, has not answered and whose number is not old. -/
def Fresh (s : State) (n : NetReq) : Prop :=
  n.dst < 4 ∧ s.barOn n.dst = true ∧ ∀ x ∈ (s.part n.dst).replies, x.part = n.part →
    x.seq ≠ n.seq ∧ ¬ (256 ≤ seqGap x.seq n.seq ∧ seqGap x.seq n.seq < 2 ^ 31)

/-- Bytes that a reply brings to a local address, and those of every side of a burst. -/
def landing1 (a : Nat) (bs : List Byte) : List Piece := if bs = [] then [] else [{ src := .fill bs, dst := .loc a, len := bs.length }]
def landings (ps : List Piece) (ds : List (List Byte)) : List Piece :=
  (ps.zip ds).flatMap (fun x => match x.1.dst with | .loc a => landing1 a x.2 | _ => [])

/-- The same pieces, each of whose bytes is as the reply carries it or as the bank holds it already (21 R391). -/
def Torn (k : CC) (l l' : List Piece) : Prop :=
  l'.length = l.length ∧ ∀ (i : Nat) (p q : Piece), l[i]? = some p → l'[i]? = some q → q.dst = p.dst ∧ q.len = p.len ∧
    ∀ (a : Nat) (bs : List Byte), p.dst = .loc a → p.src = .fill bs → ∃ cs : List Byte, q.src = .fill cs ∧ cs.length = bs.length ∧
      ∀ j : Nat, j < bs.length → cs[j]? = bs[j]? ∨ cs[j]? = (k.locRead a bs.length)[j]?

/-- MSI-X of the function is on, and neither it nor the vector is masked (21 R385). -/
def msixOpen (h : HostSt) (f v : Nat) : Prop :=
  (mget h.msixCtl f 0).getLsbD 15 = true ∧ (mget h.msixCtl f 0).getLsbD 14 = false ∧ (h.msixWord f (2 * v + 1)).getLsbD 32 = false

end Sys2Proof.Claims

/-- QUIESCE, ABORT, RESUME and their ends act on every die of a number that is in a state which takes them, and move it between RUN,
QUIESCING, QUIESCED and RESUMING, with RES as 21 R374 and R378 give it; another state stays, and gives STATE; a shoot-down leaves no
translation of its die; PART, NBOUND and MILV change in QUIESCED and OFF alone, and a change clears DONE, also that of a shoot-down that
runs, where a write of the same value touches nothing (21 R374, R375, R378-R380). The model's choices: log 97, the die that is commanded
gives the QTIMEOUT; log 86 what flows while it drains. -/
def Obligations.PartitionStates : Prop :=
  (∀ (die : Nat) (s : State), let p := (s.die die).part
    (∃ t, exec (.pctlQuiesce die) s = .next t ∧
      Claims.Moves s t p 0 (fun d => d.state = 1 ∧ d.qsince = s.cyc ∧ d.qdie = die ∧ d.drained = false) (fun d => d.res = 3) ∧
      ((∃ d, d < 4 ∧ (s.die d).part = p ∧ (s.die d).state = 0) → Claims.Sent t (.quiesceDrain p))) ∧
    (∃ t, exec (.pctlAbort die) s = .next t ∧
      Claims.Moves s t p 1 (fun d => d.state = 0 ∧ d.res = 0 ∧ d.drained = false) (fun d => d.res = 3)) ∧
    ((s.die die).state ≠ 2 → (s.die die).state ≠ 4 → ∃ t, exec (.pctlResume die) s = .next t ∧
      Claims.allDies t p (fun d => d.res = 3) ∧ ∀ d, (t.die d).state = (s.die d).state) ∧
    ((s.die die).state = 2 ∨ (s.die die).state = 4 →
      (s.resumeCheck p = 0 → ∃ t, exec (.pctlResume die) s = .next t ∧
        Claims.allDies t p (fun d => d.state = 3 ∧ d.res = 0) ∧ Claims.Sent t (.resumeDone p)) ∧
      (s.resumeCheck p ≠ 0 → ∃ t, exec (.pctlResume die) s = .next t ∧ Claims.allDies t p (fun d => d.res = s.resumeCheck p) ∧
        ∀ d, (t.die d).state = (s.die d).state))) ∧
  (∀ (p : Nat) (s : State), let lim := (s.die (s.die p).qdie).qto.toNat * 1024
    ((s.die p).state = 1 → (s.die p).drained = false → lim ≠ 0 → (s.die p).qsince + lim ≤ s.cyc → s.busy p = true →
      ∃ t, exec (.quiesceTimeout p) s = .next t ∧ Claims.Moves s t p 1 (fun d => d.state = 0 ∧ d.res = 1) (fun _ => True)) ∧
    (((s.die p).state ≠ 1 ∨ s.busy p = false ∨ lim = 0 ∨ s.cyc < (s.die p).qsince + lim) →
      exec (.quiesceTimeout p) s = .next s)) ∧
  (∀ (p : Nat) (s : State), (s.die p).state = 1 → ((s.die p).drained = true ∨ s.busy p = false) → s.fullCores p = [] →
    (s.inFlight (s.toSlices p) = false → s.anyLost p = false → ∃ t, exec (.quiesceDrain p) s = .next t ∧
      Claims.Moves s t p 1 (fun d => d.state = 2 ∧ d.res = 0) (fun _ => True)) ∧
    ((s.inFlight (s.toSlices p) = true ∨ s.anyLost p = true) → ∃ t, exec (.quiesceDrain p) s = .next t ∧
      Claims.Moves s t p 1 (fun d => d.state = 1 ∧ d.drained = true) (fun _ => True) ∧
      { due := s.cyc + 1, ev := .quiesceDrain p } ∈ t.pend)) ∧
  (∀ (p : Nat) (s : State), (s.die p).state = 1 → (s.die p).drained = false → s.busy p = true →
    exec (.quiesceDrain p) s = .next s) ∧
  (∀ (p : Nat) (s : State), (s.die p).state = 3 → ∃ t, exec (.resumeDone p) s = .next t ∧
    Claims.Moves s t p 3 (fun d => d.state = 0) (fun _ => True) ∧
    ∀ d, d < 4 → (s.die d).part = p → (t.die d).serves = decide (d = p)) ∧
  (∀ (die : Nat) (s : State), ((s.die die).sbusy = false → ∃ t, exec (.shootGo die) s = .next t ∧ (t.die die).sbusy = true ∧
      (t.die die).sdone = false ∧ Claims.Sent t (.shootdownDone die)) ∧
    ((s.die die).sbusy = true → exec (.shootGo die) s = .next s ∧ ∃ t, exec (.shootdownDone die) s = .next t ∧
      (t.die die).sbusy = false ∧ (t.die die).sdone = !(s.die die).sdirty ∧
      (∀ c, dieOfRouter c = die → (t.cl c).tlb = [] ∧ (t.cl c).ptrs = []) ∧
      (∀ k, dieOfRouter (k / 8) = die → (t.core k).utlb = []) ∧ (t.part (s.die die).part).recs = [] ∧
      (t.part (s.die die).part).tcbs = [])) ∧
  (∀ (die : Nat) (v : Word) (s : State),
    ((s.die die).state ≠ 2 → (s.die die).state ≠ 4 → ∀ off, exec (.partNboundMilvWrite die off v) s = .next s) ∧
    (((s.die die).state = 2 ∨ (s.die die).state = 4) →
      ((s.die die).part = v.toNat % 4 → exec (.partNboundMilvWrite die 0 v) s = .next s) ∧
      ((s.die die).part ≠ v.toNat % 4 → ∃ t, exec (.partNboundMilvWrite die 0 v) s = .next t ∧ (t.die die).part = v.toNat % 4 ∧
        (t.die die).sdone = false ∧ (t.die die).sdirty = true) ∧
      ((s.die die).nbound = v.setWidth 2 → exec (.partNboundMilvWrite die 8 v) s = .next s) ∧
      ((s.die die).nbound ≠ v.setWidth 2 → ∃ t, exec (.partNboundMilvWrite die 8 v) s = .next t ∧
        (t.die die).nbound = v.setWidth 2 ∧ (t.die die).sdone = false ∧ (t.die die).sdirty = true) ∧
      ((s.die die).milv = v.setWidth 8 → exec (.partNboundMilvWrite die 16 v) s = .next s) ∧
      ((s.die die).milv ≠ v.setWidth 8 → ∃ t, exec (.partNboundMilvWrite die 16 v) s = .next t ∧
        (t.die die).milv = v.setWidth 8 ∧ (t.die die).sdone = false ∧ (t.die die).sdirty = true)))

/-- A doorbell in RUN numbers the launches up to its TAIL, and waits otherwise; HNOTE signals vectors 48 + i, masked ones pending; a
BAR2 write stores at its home slice and a read answers the bytes, both in RUN alone; ATS answers from the HOST context's tables; a
MSI-X word is kept and a vector that is held back no longer, by the function or its own mask, sends its pending message; a frame of another EtherType goes to the die's system cores, but for those of the ROM's EtherType on ports 0-3
before boot; a write to a frame that is being copied waits (19 R327; 21 R382-R386; 24 R420; 26 R431). The model's choices: log 40, the MSI-X
message control word at 0x400 with Enable in bit 15 and Function Mask in bit 14, and log 52, ATS translates at privilege 0. -/
def Obligations.HostAccesses : Prop :=
  (∀ (fn q : Nat) (tail : Word) (s : State), s.isPart fn = true → q < 64 →
    let tl := (s.qw fn q 2).toNat
    ((s.die fn).state = 0 → s.qOpen fn q = true → (s.qw fn q 0).getLsbD 5 = false → tl ≤ tail.toNat →
      tail.toNat ≤ (s.qw fn q 1).toNat + 2 ^ ((s.qw fn q 0).toNat % 32) → ∃ t, exec (.hostDoorbell fn q tail) s = .next t ∧
        (t.part fn).seqno = (s.part fn).seqno + BitVec.ofNat 40 (tail.toNat - tl)) ∧
    ((s.die fn).state = 0 → (s.qOpen fn q = false ∨ (s.qw fn q 0).getLsbD 5 = true ∨ tail.toNat < tl ∨
        (s.qw fn q 1).toNat + 2 ^ ((s.qw fn q 0).toNat % 32) < tail.toNat) →
      exec (.hostDoorbell fn q tail) s = .next (s.qErr fn q)) ∧
    ((s.die fn).state ≠ 0 → (s.host.bells.filter (fun b => b.1 == fn)).length < 64 → ∃ t,
      exec (.hostDoorbell fn q tail) s = .next t ∧ t.host.bells = s.host.bells ++ [(fn, q, tail)] ∧ t.parts = s.parts ∧
      Claims.sameBytes s t) ∧
    ((s.die fn).state ≠ 0 → 64 ≤ (s.host.bells.filter (fun b => b.1 == fn)).length →
        (s.jost.booted = true ∨ (s.die fn).state ≠ 4) →
      exec (.hostDoorbell fn q tail) s = .next (s.qErr fn q))) ∧
  (∀ (cl : Nat) (note : BitVec 14) (s : State), ∃ t, exec (.hnote cl note) s = .next t ∧ Claims.sameBytes s t ∧
    ∀ i, i < 14 → note.getLsbD i = true → let p := s.partOfDie (dieOfRouter cl)
      (Claims.msixOpen s.host p (48 + i) → (p, 48 + i) ∈ t.host.msgs) ∧
      (¬ Claims.msixOpen s.host p (48 + i) → (p, 48 + i) ∈ t.host.pba)) ∧
  (∀ (fn off pa : Nat) (data : List (BitVec 8)) (s : State), s.barOn fn = true →
    s.bar2 fn off data.length 4 = some [(pa, data.length)] → data.length ≤ 512 → s.heldIn (s.home00 fn) pa data.length = false → Claims.oneChunk pa data.length → Claims.noSliceWatch s (s.home00 fn pa) →
    (s.host.copied.contains (pa / 65536) = true → exec (.hostBar2Write fn off data) s = .next s) ∧
    (s.host.copied.contains (pa / 65536) = false → ∃ t, exec (.hostBar2Write fn off data) s = .next t ∧ Claims.writesAt s t (s.home00 fn pa) pa data) ∧
    (∃ t bs, exec (.hostBar2Read fn off data.length) s = .next t ∧ t.host.reads = s.host.reads ++ [(fn, bs)] ∧
      bs.length = data.length ∧ ∀ i, i < data.length → bs[i]? = some (s.byteAt (s.home00 fn pa) (pa + i)))) ∧
  (∀ (fn off len : Nat) (data : List (BitVec 8)) (s : State), s.barOn fn = false → len ≤ 4096 →
    exec (.hostBar2Write fn off data) s = .next s ∧
    ∃ t, exec (.hostBar2Read fn off len) s = .next t ∧ t.host.reads = s.host.reads ++ [(fn, [])] ∧ Claims.sameBytes s t) ∧
  (∀ (fn : Nat) (va : Word) (write : Bool) (s : State), let w := s.pdesc fn 0x40
    let cid := w.toNat % 2 ^ 12
    (s.barOn fn = true → w.getLsbD 12 = true → ∀ r big s1,
      (s.learn fn cid).walk cid va (if write then .store else .load) 0 = (r, big, s1) → r ≠ .held → ∃ t, exec (.atsRequest fn va write) s = .next t ∧
        t.host.ats = s1.host.ats ++ [(fn, match r with | .ok pa _ => some (BitVec.ofNat 64 pa) | _ => none)]) ∧
    (s.barOn fn = false ∨ w.getLsbD 12 = false → ∃ t, exec (.atsRequest fn va write) s = .next t ∧
      t.host.ats = s.host.ats ++ [(fn, none)] ∧ Claims.sameBytes s t)) ∧
  (∀ (fn off : Nat) (v : Word) (s : State), s.barOn fn = true → off < 0x400 → let n := off / 8 / 2
    ∃ t, exec (.msixTableWrite fn off v) s = .next t ∧ t.host.msixWord fn (off / 8) = v ∧ Claims.sameBytes s t ∧
      (Claims.msixOpen t.host fn n → s.host.pba.contains (fn, n) = true →
        t.host.msgs = s.host.msgs ++ [(fn, n)]) ∧
      (¬ Claims.msixOpen t.host fn n ∨ s.host.pba.contains (fn, n) = false →
        t.host.msgs = s.host.msgs ∧ t.host.pba = s.host.pba)) ∧
  (∀ (fn : Nat) (v : Word) (s : State), fn < 4 → ∃ t, exec (.msixTableWrite fn 0x400 v) s = .next t ∧
    mget t.host.msixCtl fn 0 = v &&& 0xC000 ∧ Claims.sameBytes s t ∧
    ∀ n, n < 64 → Claims.msixOpen t.host fn n → s.host.pba.contains (fn, n) = true → (fn, n) ∈ t.host.msgs) ∧
  (∀ (port etype : Nat) (data : List (BitVec 8)) (s : State),
    (etype ≠ s.jost.etype → (s.jost.booted = true ∨ etype ≠ Config.romType ∨ 4 ≤ port) → data.length ≤ 9216 → ∃ t, exec (.ethFrameArrival port etype data) s = .next t ∧
      t.host.frames = s.host.frames ++ [(port / 4, etype, data)] ∧ Claims.sameBytes s t) ∧
    ((etype = s.jost.etype ∨ (s.jost.booted = false ∧ etype = Config.romType ∧ port < 4) ∨ 9216 < data.length) → exec (.ethFrameArrival port etype data) s = .next s))

/-- A peer's request is performed once and answered: RPUT writes its bytes, RGET answers those at its address, and RATOM changes a word
in one step and answers the old one; it is replayed where it was answered before, dropped where its number is 256 or more old, and answered
as held while its partition does not run or its frame is being copied. At the requester a reply lands its bytes, and then the burst is
performed; a refused or lost request fails its burst, whose bytes are torn; an NRED answers every contributor with the sum when the last
one arrives, or with the partial sum at its deadline (21 R387-R393; 24 R420). -/
def Obligations.TransportExchanges : Prop :=
  (∀ (n : NetReq) (s : State),
    (4 ≤ n.dst → exec (.transportRequest n) s = .next s) ∧
    (n.dst < 4 → s.barOn n.dst = false → ∃ t r, exec (.transportRequest n) s = .next t ∧ Claims.Sent t (.transportReply r) ∧
      r.status = 2 ∧ r.seq = n.seq ∧ r.part = n.part ∧ Claims.sameBytes s t) ∧
    (∀ r, n.dst < 4 → s.barOn n.dst = true →
      ((s.part n.dst).replies.filter (fun x => x.part == n.part)).find? (fun x => x.seq == n.seq) = some r →
      ∃ t, exec (.transportRequest n) s = .next t ∧ Claims.Sent t (.transportReply r) ∧ Claims.sameBytes s t) ∧
    (n.dst < 4 → s.barOn n.dst = true → (∀ x ∈ (s.part n.dst).replies, x.part = n.part → x.seq ≠ n.seq) →
      (∃ x ∈ (s.part n.dst).replies, x.part = n.part ∧ 256 ≤ seqGap x.seq n.seq ∧ seqGap x.seq n.seq < 2 ^ 31) →
      exec (.transportRequest n) s = .next s) ∧
    (Claims.Fresh s n → n.op ≠ 8 → s.netCopied n.dst n = true → ∃ t r, exec (.transportRequest n) s = .next t ∧
      Claims.Sent t (.transportReply r) ∧ r.status = 2 ∧ r.seq = n.seq ∧ Claims.sameBytes s t) ∧
    (∀ pa h cid s1, Claims.Fresh s n → s.netCopied n.dst n = false → s.netHeld n.dst n = false → Claims.noSliceWatch s1 h →
      (n.op = 5 → n.imgs = [] → s.netXlat n.dst n.va n.len .store = (some (pa, h, cid), s1) → n.data.length = n.len →
        Claims.oneChunk pa n.len →
        ∃ t r, exec (.transportRequest n) s = .next t ∧ Claims.writesAt s1 t h pa n.data ∧ Claims.Sent t (.transportReply r) ∧
          r.status = 0 ∧ r.seq = n.seq ∧ r ∈ (t.part n.dst).replies) ∧
      (n.op = 6 → n.imgs = [] → s.netXlat n.dst n.va n.len .load = (some (pa, h, cid), s1) → Claims.oneChunk pa n.len →
        ∃ t r, exec (.transportRequest n) s = .next t ∧ Claims.sameBytes s1 t ∧ Claims.Sent t (.transportReply r) ∧
          r.status = 0 ∧ r.seq = n.seq ∧ r ∈ (t.part n.dst).replies ∧ r.data.length = n.len ∧
          ∀ i, i < n.len → r.data[i]? = some (s1.byteAt h (pa + i))) ∧
      (let k := if n.wide then 8 else 4
       n.op = 7 → n.aux.toNat ≤ 9 → n.va.toNat % k = 0 → s.netXlat n.dst n.va k .rmw = (some (pa, h, cid), s1) →
        Claims.oneChunk pa k → n.data.length = k →
        let old := Claims.memNat s1 h pa k
        ∃ t r, exec (.transportRequest n) s = .next t ∧
          Claims.memNat t h pa k = Claims.amoValue n.aux.toNat (8 * k) old (leNat n.data % 2 ^ (8 * k)) (n.cmp.toNat % 2 ^ (8 * k)) ∧
          (∀ g x, (g ≠ h ∨ lineKey x ≠ lineKey pa ∨ x < pa ∨ pa + k ≤ x) → t.byteAt g x = s1.byteAt g x) ∧
          Claims.Sent t (.transportReply r) ∧ r.status = 0 ∧ r.seq = n.seq ∧ r ∈ (t.part n.dst).replies ∧ leNat r.data = old))) ∧
  (∀ (q : Nat) (n m : NetReq) (e : EngOp) (c : CopyOp) (b : Burst) (s : State),
    s.flyOf n.part n.dst n.seq = some (q, m) → s.copyAt m.cc m.entry = some (e, c) → c.bursts[m.burst]? = some b →
    (n.status = 0 → (b.st = 0 ∨ b.st = 5) → exec (.transportReply n) s = .next s) ∧
    (n.status = 0 → b.st = 1 → m.op = 5 → Tcw.remote c.tcw = true →
      ∃ t, exec (.transportReply n) s = .next t ∧ (∀ k ∈ (t.part q).flying, k ≠ m) ∧ Claims.sameBytes s t ∧
        (c.ctr ≠ none → Claims.Sent t (.copyBurstComplete m.cc e.entry m.burst))) ∧
    (∀ l, n.status = 0 → b.st = 1 → l ≠ [] →
      ((m.op = 6 ∧ l = Claims.landings b.ps (n.data :: n.imgs.map (fun x => x.2.2))) ∨
       (m.op = 7 ∧ l = Claims.landing1 (Tcw.laddr c.tcw + 16)
         (wordLe (if m.wide then leWord n.data else sextW 32 (leWord n.data)) 8)) ∨
       (m.op = 8 ∧ l = Claims.landing1 (Tcw.laddr c.tcw) n.data ++
         Claims.landing1 (Tcw.laddr c.tcw + Tcw.row c.tcw) (natLe (n.nstat + n.recvd * 2 ^ 32) 8))) →
      ∃ t e' c' b', exec (.transportReply n) s = .next t ∧ t.copyAt m.cc m.entry = some (e', c') ∧ c'.bursts[m.burst]? = some b' ∧
        b'.st = 5 ∧ b'.left = l ∧ Claims.Sent t (.copyBurstComplete m.cc e.entry m.burst) ∧ Claims.sameBytes s t) ∧
    (n.status = 1 → (b.st = 0 ∨ b.st = 1 ∧ m.op ≠ 6) → ∃ t e' c' b', exec (.transportReply n) s = .next t ∧
      t.copyAt m.cc m.entry = some (e', c') ∧ c'.bursts[m.burst]? = some b' ∧ b'.st = 4 ∧ ∀ k ∈ (t.part q).flying, k ≠ m) ∧
    (let l := Claims.landings b.ps (n.data :: n.imgs.map (fun x => x.2.2))
     n.status = 1 → b.st = 1 → m.op = 6 → l ≠ [] →
      ∃ t e' c' b', exec (.transportReply n) s = .next t ∧ t.copyAt m.cc m.entry = some (e', c') ∧ c'.bursts[m.burst]? = some b' ∧
        b'.st = 6 ∧ Claims.Torn (s.cc m.cc) l b'.left ∧ ∀ k ∈ (t.part q).flying, k ≠ m)) ∧
  (∀ (part dst seq q : Nat) (m : NetReq) (e : EngOp) (c : CopyOp) (b : Burst) (s : State),
    s.flyOf part dst seq = some (q, m) → s.copyAt m.cc m.entry = some (e, c) →
    c.bursts[m.burst]? = some b → b.st = 1 →
    ((m.status = 2 ∨ m.sends < 16) → ∃ t r, exec (.transportRetransmit part dst seq) s = .next t ∧
      Claims.Sent t (.transportRequest r) ∧ r.seq = m.seq ∧ r.dst = m.dst ∧ r.data = m.data ∧
      r.sends = (if m.status = 2 then m.sends else m.sends + 1) ∧
      { due := s.cyc + 65536, ev := .transportRetransmit part dst seq } ∈ t.pend ∧ Claims.sameBytes s t) ∧
    (m.status ≠ 2 → 16 ≤ m.sends → ∃ t e' c', exec (.transportRetransmit part dst seq) s = .next t ∧
      t.copyAt m.cc m.entry = some (e', c') ∧ ∃ b', c'.bursts[m.burst]? = some b' ∧ b'.st = 4)) ∧
  (∀ (n : NetReq) (s : State), n.dst < 4 →
    ((s.part n.dst).nreds.find? (fun g => g.root == n.dst && g.tag == n.tag) = none →
      ∃ t g, exec (.nredContribution n) s = .next t ∧ g ∈ (t.part n.dst).nreds ∧ g.tag = n.tag ∧ g.sum = n.data ∧ g.who = [n] ∧
        g.count = n.count ∧ { due := s.cyc + n.dead, ev := .nredDeadline n.dst n.tag } ∈ t.pend ∧ Claims.sameBytes s t) ∧
    (∀ g, (s.part n.dst).nreds.find? (fun g => g.root == n.dst && g.tag == n.tag) = some g → g.ended = false →
      g.count = n.count → g.len = n.len → g.wide = n.wide → g.who.length + 1 = g.count →
      ∃ t, exec (.nredContribution n) s = .next t ∧ Claims.sameBytes s t ∧ ∀ x, (x = n ∨ x ∈ g.who) →
        ∃ r, Claims.Sent t (.transportReply r) ∧ r.part = x.part ∧ r.seq = x.seq ∧ r.nstat = 0 ∧ r.recvd = g.count ∧
          r.data = nredAdd g.wide g.sum n.data)) ∧
  (∀ (p tag : Nat) (g : Nred) (s : State), (s.part p).nreds.find? (fun g => g.root == p && g.tag == tag) = some g →
    g.ended = false → g.dead ≤ s.cyc → ∃ t, exec (.nredDeadline p tag) s = .next t ∧ Claims.sameBytes s t ∧
      ∀ x ∈ g.who, ∃ r, Claims.Sent t (.transportReply r) ∧ r.part = x.part ∧ r.seq = x.seq ∧ r.nstat = 2 ∧
        r.recvd = g.who.length ∧ r.data = g.sum)

namespace Sys2Proof.Claims

open Sys2Proof.Machine

/-! ### Power-on, boot and attestation (26 R431-R439) -/

/-- What the header checks of 26 R433 accept: magic, VERSION at or above VFLOOR, FLOOR at or below VERSION, and one to four stages
that lie in the image. -/
def headerOk (j : JostSt) (img : List Byte) : Prop :=
  imgN img 0 4 = 0x4A535441 ∧ j.vfloor.toNat ≤ imgN img 4 4 ∧ imgN img 8 4 ≤ imgN img 4 4 ∧ 1 ≤ imgN img 12 4 ∧ imgN img 12 4 ≤ 4 ∧
    ∀ i, i < imgN img 12 4 → imgN img (16 + 32 * i) 8 + imgN img (24 + 32 * i) 8 ≤ img.length

/-- PMi after an item (26 R434). -/
def measured (pm : BitVec 512) (m : List Byte) : BitVec 512 :=
  sha3 (natLe pm.toNat 64 ++ natLe (sha3 m).toNat 64)

/-- Bytes of an image. -/
def imgBytes (img : List Byte) (off n : Nat) : List Byte := (img.drop off).take n

/-- An item's signature block lies in the image and both signatures in it verify: Ed25519, 64 bytes, and ML-DSA-65, 3309 bytes, of the
SHA3-512 digest of the header and the item (26 R433). -/
def signedWith (ed ml img item : List Byte) (k : Nat) : Prop :=
  let at_ := Config.sigBlockAt k img
  let d := natLe (sha3 (imgBytes img 0 0xA0 ++ item)).toNat 64
  at_ + 64 + 3309 ≤ img.length ∧ Config.edVerify ed d (imgBytes img at_ 64) = true ∧
    Config.mlVerify ml d (imgBytes img (at_ + 64) 3309) = true

end Sys2Proof.Claims

/-- Power-on reset leaves every die OFF, every system core halted at privilege 3, JSTAT at 0 and Jostauth not yet listening, and keeps
Jostauth's store. The first image offered while it listens, on ports 0-3 or by the host, is checked, a second waits, none is taken after
boot. An image passes only if its header is sound and every stage and the platform record carry both signatures of their SHA3-512 digests,
the record under the keys whose digest is PRKH. A failed check sets REJ with its cause and takes the one that waits; an image that passes is
booted: VFLOOR rises to its FLOOR, PM registers measure it, Jostauth derives two identity key pairs from its secret and shows their public
keys with their certificates, its last stage stands in memory, and system core 0 of each named die starts at the entry with g4. Reports are
signed with both private keys and served one at a time in order; a PM7 extension that arrives meanwhile takes effect after it; a sag
stretches the clock within 4 cc and for 64 cc after it (26 R431-R439). The model's choices: log 10, what SHA3-512 is taken from, and free
signatures, keys and platform record; log 21, a missing stage or record is REJCAUSE 7, and the order of the checks; log 22, a start of a core
that runs changes nothing and one after HALT only ends the halt; log 23, when Jostauth begins to listen; log 65, the lag and length of a
sag are the event's; log 69, where a ring's report stands; log 84, an entry's two low bits are taken as 0. -/
def Obligations.BootAndAttestation : Prop :=
  (∀ s : State, ∃ t, exec .powerOnReset s = .next t ∧ t.cyc = 0 ∧ t.ts = State.reset.ts ∧ (∀ d, (t.die d).state = 4) ∧
    t.jost.listen = false ∧ t.jost.jstat = 0 ∧ t.jost.booted = false ∧ t.jost.check = none ∧ (∀ i, i < 8 → vget t.jost.pm i 0 = 0) ∧
    t.jost.vfloor = s.jost.vfloor ∧ t.jost.repair = s.jost.repair ∧ t.jost.secret = s.jost.secret ∧ t.jost.prkh = s.jost.prkh) ∧
  (∀ (port : Nat) (img : List (BitVec 8)) (s : State), 4 ≤ port → exec (.imageArrivalEth (port, img)) s = .next s) ∧
  (∀ (port : Nat) (img : List (BitVec 8)) (s : State), port < 4 →
    (s.jost.booted = true → exec (.imageArrivalEth (port, img)) s = .next s ∧ exec .imggo s = .next s) ∧
    (s.jost.booted = false → s.jost.listen = false → exec (.imageArrivalEth (port, img)) s = .next s) ∧
    (s.jost.booted = false → s.jost.listen = true → s.jost.check = none →
      (∃ t, exec (.imageArrivalEth (port, img)) s = .next t ∧ t.jost.check = some (img, 1) ∧ Claims.Sent t .imageCheckDone) ∧
      (∃ t, exec .imggo s = .next t ∧ t.jost.check = some (memRead s.jost.window 0 s.jost.imglen.toNat, 0) ∧
        Claims.Sent t .imageCheckDone)) ∧
    (s.jost.booted = false → s.jost.listen = true → s.jost.check ≠ none → s.jost.later = none →
      exec .imggo s = .next s ∧ ∃ t, exec (.imageArrivalEth (port, img)) s = .next t ∧ t.jost.later = some (img, 1) ∧
        t.jost.check = s.jost.check)) ∧
  (∀ s : State, s.jost.check = none → exec .imageCheckDone s = .next s) ∧
  (∀ (img : List (BitVec 8)) (src : Nat) (s : State), s.jost.check = some (img, src) →
    (s.jost.imageCause img = 0 → Claims.headerOk s.jost img ∧
      (∀ i, i < imgN img 12 4 → Claims.signedWith Config.rootEd Config.rootMl img
        (Claims.imgBytes img (imgN img (16 + 32 * i) 8) (imgN img (24 + 32 * i) 8)) i) ∧
      (let k := Config.operatorKeys img
       sha3 (k.1 ++ k.2) = s.jost.prkh ∧
        Claims.signedWith k.1 k.2 img (Claims.imgBytes img (imgN img 0x90 8) (imgN img 0x98 8)) 4)) ∧
    (s.jost.imageCause img ≠ 0 → ∃ t, exec .imageCheckDone s = .next t ∧ t.jost.rej = true ∧
      t.jost.rejc = s.jost.imageCause img ∧ t.jost.booted = s.jost.booted ∧ t.jost.check = s.jost.later ∧ t.jost.later = none ∧
      t.jost.pm = s.jost.pm ∧ t.jost.vfloor = s.jost.vfloor ∧ t.mem = s.mem ∧ t.dies = s.dies ∧
      (s.jost.later ≠ none → Claims.Sent t .imageCheckDone)) ∧
    (s.jost.imageCause img = 0 →
      let n := imgN img 12 4
      let body := Claims.imgBytes img (imgN img 0x90 8) (imgN img 0x98 8)
      let p := Config.platform body
      let st (i k : Nat) : Nat := imgN img (16 + 32 * i + 8 * k) 8
      let entry : Word := BitVec.ofNat 64 (st (n - 1) 2 + st (n - 1) 3)
      ∃ t, exec .imageCheckDone s = .next t ∧ t.jost.booted = true ∧ t.jost.listen = false ∧ t.jost.check = none ∧
        t.jost.later = none ∧ t.jost.vfloor.toNat = max s.jost.vfloor.toNat (imgN img 8 4) ∧
        t.jost.version.toNat = imgN img 4 4 ∧ t.jost.source = src ∧ t.jost.repair = s.jost.repair ∧ t.jost.secret = s.jost.secret ∧
        t.jost.edKey = Config.edKeys s.jost.secret ∧ t.jost.mlKey = Config.mlKeys s.jost.secret ∧
        t.jost.identity = [t.jost.edKey.pub, t.jost.mlKey.pub, Config.certOf t.jost.edKey.pub, Config.certOf t.jost.mlKey.pub] ∧
        vget t.jost.pm 0 0 = Claims.measured (vget s.jost.pm 0 0) (Config.romVersion 0) ∧
        (∀ i, i < n → vget t.jost.pm (1 + i) 0 = Claims.measured (vget s.jost.pm (1 + i) 0) (Claims.imgBytes img (st i 0) (st i 1))) ∧
        vget t.jost.pm 5 0 = Claims.measured (vget s.jost.pm 5 0) body ∧
        vget t.jost.pm 6 0 = Claims.measured (vget s.jost.pm 6 0) (s.jost.repair.flatMap (fun w => natLe w.toNat 8)) ∧
        vget t.jost.pm 7 0 = vget s.jost.pm 7 0 ∧
        (s.memOk → ∀ i, i < st (n - 1) 1 → some (memGet t.mem (st (n - 1) 2 + i)) = img[st (n - 1) 0 + i]?) ∧
        (t.die 0).part = p.d0.part ∧ (t.die 1).part = p.d1.part ∧ (t.die 2).part = p.d2.part ∧ (t.die 3).part = p.d3.part ∧
        (∀ d, (t.die d).state = (s.die d).state) ∧
        (p.d0.named = true → Claims.Sent t (.systemCoreStart 0 0 entry t.jost.recPa)) ∧
        (p.d1.named = true → Claims.Sent t (.systemCoreStart 1 0 entry t.jost.recPa)) ∧
        (p.d2.named = true → Claims.Sent t (.systemCoreStart 2 0 entry t.jost.recPa)) ∧
        (p.d3.named = true → Claims.Sent t (.systemCoreStart 3 0 entry t.jost.recPa)))) ∧
  (∀ (die unit : Nat) (pc arg : Word) (s : State), die < 4 → unit < 2 →
    let tk := Config.sysBase + 2 * die + unit
    ((s.t tk).halted = false → exec (.systemCoreStart die unit pc arg) s = .next s) ∧
    ((s.t tk).halted = true → ∃ t, exec (.systemCoreStart die unit pc arg) s = .next t ∧ (t.t tk).halted = false ∧
      ((s.t tk).lastIss = 0 → (t.t tk).pc = pc &&& ~~~(3 : Word) ∧ (t.t tk).a.gp 0 4 = arg) ∧
      ((s.t tk).lastIss ≠ 0 → (t.t tk).pc = (s.t tk).pc ∧ (t.t tk).a = (s.t tk).a) ∧ ∀ k, k ≠ tk → t.t k = s.t k)) ∧
  (∀ (host : Bool) (nonce : BitVec 512) (s : State),
    ∃ t, exec (.attgo host nonce) s = .next t ∧
      t.jost.attq = s.jost.attq ++ [(host, if host then s.jost.nonce else nonce)] ∧
      (s.jost.attq = [] → Claims.Sent t .attestationDone)) ∧
  (∀ s : State, s.jost.attq = [] → exec .attestationDone s = .next s) ∧
  (∀ (host : Bool) (n : BitVec 512) (l : List (Bool × BitVec 512)) (s : State), s.jost.attq = (host, n) :: l →
    let body := natLe n.toNat 64 ++ s.jost.pm.toList.flatMap (fun x => natLe x.toNat 64) ++ natLe s.jost.version.toNat 4 ++
      natLe s.jost.pversion.toNat 4 ++ natLe s.jost.source 4 ++ natLe s.cyc 8
    ∃ t ed ml, exec .attestationDone s = .next t ∧ t.jost.attq = l ∧ t.jost.ext = [] ∧ ed.length = 64 ∧ ml.length = 3309 ∧
      ((Config.edSign s.jost.edKey.priv body).length = 64 → ed = Config.edSign s.jost.edKey.priv body) ∧
      ((Config.mlSign s.jost.mlKey.priv body).length = 3309 → ml = Config.mlSign s.jost.mlKey.priv body) ∧
      (if host then t.jost.report else t.jost.ringRep) = body ++ ed ++ ml ∧
      (host = true → t.jost.repRdy = true) ∧
      vget t.jost.pm 7 0 = s.jost.ext.foldl Claims.measured (vget s.jost.pm 7 0) ∧
      (∀ i, i < 7 → vget t.jost.pm i 0 = vget s.jost.pm i 0) ∧ (l ≠ [] → Claims.Sent t .attestationDone)) ∧
  (∀ (item : List (BitVec 8)) (s : State), ∃ t, exec (.pm7Extend item) s = .next t ∧
    (s.jost.attq = [] → vget t.jost.pm 7 0 = Claims.measured (vget s.jost.pm 7 0) item ∧ t.jost.ext = s.jost.ext) ∧
    (s.jost.attq ≠ [] → t.jost.pm = s.jost.pm ∧ t.jost.ext = s.jost.ext ++ [item]) ∧
    (∀ i, i < 7 → vget t.jost.pm i 0 = vget s.jost.pm i 0)) ∧
  (∀ (item : Word) (s : State), exec (.repairListAppend item) s =
    .next { s with jost := { s.jost with repair := s.jost.repair ++ [item] } }) ∧
  (∀ (die lag len : Nat) (s : State), die < 4 → ∃ t, exec (.sagDetect die lag len) s = .next t ∧
    (t.die die).sagd = (s.die die).sagd + 1 ∧ t.sagFrom ≤ s.cyc + 4 ∧
    (∃ e, t.sagTo = some e ∧ s.cyc + len ≤ e ∧ (∀ x, s.sagTo = some x → x ≤ e)) ∧
    { due := s.cyc + len + 65, ev := .stretchEnd } ∈ t.pend) ∧
  (∀ s : State, (∀ e, s.sagTo = some e → e + 64 < s.cyc → ∃ t, exec .stretchEnd s = .next t ∧ t.sagTo = none ∧ t.stretched = false) ∧
    ((∀ e, s.sagTo = some e → s.cyc ≤ e + 64) → exec .stretchEnd s = .next s))

namespace Sys2Proof.Claims

open Sys2Proof.Machine

/-! ### Errors (24 R411-R422) -/

/-- TAIL is 2^Z records ahead of HEAD: the ring is full (24 R415). -/
def ringFull (s : State) (d : Nat) : Prop := ((s.die d).mctail - (s.die d).mchead).toNat = 2 ^ ((s.die d).mcq.toNat % 32)

/-- The ring of a die takes a record: it is not full, and the next place in it lies on no held line (24 R414, R415). -/
def ringTakes (s : State) (d : Nat) : Prop :=
  ¬ ringFull s d ∧
    let a := (s.die d).mcq.toNat / 2 ^ 12 * 4096 + 64 * ((s.die d).mctail.toNat % 2 ^ ((s.die d).mcq.toNat % 32))
    s.heldLine (s.sysHome a) a = false

/-- It takes one, and none waits for it. -/
def ringOpen (s : State) (d : Nat) : Prop := (s.die d).kept = [] ∧ ringTakes s d

/-- A record was written: TAIL counts it, and where it is severe a machine check of its number is raised within 512 cc (24 R415,
R417). -/
def recorded (s t : State) (d : Nat) (severe : Bool) : Prop :=
  (t.die d).mctail = (s.die d).mctail + 1 ∧ (t.die d).dropped = 0 ∧
    (severe = true → ∃ due, due ≤ s.cyc + 512 ∧ { due := due, ev := .machineCheck d (s.die d).mctail.toNat } ∈ t.pend)

/-- The vector of a function is signalled: its message is sent, or pends while it is held back (21 R385). -/
def signalled (t s : State) (f v : Nat) : Prop :=
  (msixOpen s.host f v → (f, v) ∈ t.host.msgs) ∧ (¬ msixOpen s.host f v → (f, v) ∈ t.host.pba)

/-- Byte `pa` of a held line as its release leaves it: the L2 copy's where its sector is lost neither there nor below it in the
memory-side cache, else that one's where it is not lost there, else LPDDR6's, or zero where it is lost there too (24 R421). -/
def releasedByte (s : State) (home : Nat) (h : HeldLine) (pa : Nat) : Byte :=
  let k := pa % 192 / 48
  let byte (d : BitVec 1536) : Byte := BitVec.ofNat 8 (d.toNat / 2 ^ (8 * (pa % 192)))
  let low : Byte := if h.mem.getLsbD k then 0 else memGet s.mem pa
  let msc : Byte := match s.mscLine home h.line with
    | some l => if l.valid.getLsbD k && !h.msc.getLsbD k then byte l.data else low
    | none => low
  match mfind (s.slice home).l2 h.line with
  | some l => if l.valid.getLsbD k && !h.l2.getLsbD k && !h.msc.getLsbD k then byte l.data else msc
  | none => msc

end Sys2Proof.Claims

/-- What a scrub finds: a corrected error is counted at its L2 way or memory-side cache slot for 2^32 cc, writes the entry back once the
count passes CETHR, and writes a record that a full ring drops and counts, or keeps where it asks for a quarantine; a bank that fails, resident or in its backing area, is marked and
its record raises a machine check, or is kept while the ring is full; a line that is dirty in the failing level, or stands in LPDDR6 alone, is
lost there, and the slice then holds it; a second error in a held line writes no record. Parity errors: an L1 sector is dropped, a
context's thread sets on the core stop, a reduction queue entry goes with its addends, a waiter falls back to polling, a dispatcher error and
a failed link signal the partition's vector 63 with their record. Kept records are written, in order, as the ring takes them. A machine check
enters the handler of system core 0 with cause 0x40 and the record's number, or waits while the core is in that handler, halted or in WFI.
MCREL releases the line of its record: a lost sector takes the value of the intact copy below, one lost in LPDDR6 too reads zero, the line
has no tag, and no other line changes (24 R411, R412, R414-R419, R421). The model's choices: log 57, a line is held as a whole; log 56, a
reduction entry that fails leaves the bytes that its addends found; log 58, the copies above a lost one; log 60, a machine check waits in
those states. -/
def Obligations.ErrorsReported : Prop :=
  (∀ (e : ErrorFound) (s : State), e.fix = true → e.cluster < 256 → e.src ≤ 4 →
    let d := dieOfRouter e.cluster
    let key := lineKey e.pa
    (Claims.ringOpen s d → ∃ t, exec (.scrubRead e) s = .next t ∧ Claims.recorded s t d false) ∧
    (Claims.ringFull s d → ∃ t, exec (.scrubRead e) s = .next t ∧ (t.die d).mctail = (s.die d).mctail ∧
      (errEntry e = none → Claims.sameBytes s t) ∧
      ((∀ x, errEntry e = some x → s.fixesOf e.cluster x + 1 ≤ s.jost.cethr) →
        (t.die d).dropped = (s.die d).dropped + 1 ∧ (t.die d).kept = (s.die d).kept) ∧
      (∀ x, errEntry e = some x → s.jost.cethr < s.fixesOf e.cluster x + 1 → (t.die d).dropped = (s.die d).dropped ∧
        ∃ r, (t.die d).kept = (s.die d).kept ++ [r] ∧ r.w0.getLsbD 8 = true ∧ Claims.Sent t (.errorRecordFlush d)) ∧
      ∀ x, errEntry e = some x → (x.1, x.2.1, x.2.2, s.cyc) ∈ (t.slice e.cluster).fixes ∧
        (s.jost.cethr < s.fixesOf e.cluster x + 1 → s.lostAt e.cluster key = none →
          (x.1 = 1 → ((s.slice e.cluster).l2.map Prod.fst).Pairwise (· < ·) → mfind (t.slice e.cluster).l2 key = none) ∧
          (x.1 = 2 → ((s.slice e.cluster).msc.map Prod.fst).Pairwise (· < ·) → mfind (t.slice e.cluster).msc key = none)))) ∧
  (∀ (e : ErrorFound) (cc n : Nat) (b : Bank) (s : State), e.fix = false → e.src = 0 → e.level ≠ 2 → s.ccs = [(cc, s.cc cc)] → n < 8 →
    ccCore cc / 8 = e.cluster → (s.cc cc).slot n = .attached b → b.phys = some e.index →
    (∀ m c, m < n → ((s.cc cc).slot m).bank? = some c → c.phys ≠ some e.index) →
    let d := dieOfRouter e.cluster
    (Claims.ringOpen s d → ∃ t, exec (.scrubRead e) s = .next t ∧ (t.cc cc).slot n = .attached { b with bad := true } ∧
      Claims.recorded s t d true) ∧
    (Claims.ringFull s d → ∃ t r, exec (.scrubRead e) s = .next t ∧ (t.cc cc).slot n = .attached { b with bad := true } ∧
      (t.die d).kept = (s.die d).kept ++ [r] ∧ r.w0.toNat / 16 % 8 = 3 ∧ r.w3.toNat % 4096 = ccCid cc % 4096 ∧
      Claims.Sent t (.errorRecordFlush d) ∧ Claims.sameBytes s t)) ∧
  (∀ (e : ErrorFound) (b : Bank) (s : State), e.fix = false → e.src = 0 → e.level = 2 → e.cluster < 256 →
    let cc := e.cid * 2048 + e.cluster * 8 + e.core % 8
    let n := e.pa / 65536 % 8
    (s.cc cc).slot n = .attached b → b.phys = none → Claims.ringOpen s (dieOfRouter e.cluster) →
    ∃ t, exec (.scrubRead e) s = .next t ∧ (t.cc cc).slot n = .attached { b with bad := true } ∧
      Claims.recorded s t (dieOfRouter e.cluster) true) ∧
  (∀ (e : ErrorFound) (s : State), e.fix = false → e.cluster < 256 →
    let key := lineKey e.pa
    let k : Nat := e.pa % 192 / 48
    let lost (t : State) (f : HeldLine → BitVec 4) : Prop := t.heldLine e.cluster e.pa = true ∧
      ∃ h ∈ (t.slice e.cluster).lost, h.line = key ∧ (f h).getLsbD k = true
    (∀ h ∈ (s.slice e.cluster).lost, h.line ≠ key) →
    (∀ l : Line, e.src = 1 → mfind (s.slice e.cluster).l2 key = some l → l.valid.getLsbD k = true →
      (l.dirty ≠ 0 → ∃ t, exec (.scrubRead e) s = .next t ∧ lost t HeldLine.l2) ∧
      (l.dirty = 0 → ∃ t, exec (.scrubRead e) s = .next t ∧ t.heldLine e.cluster e.pa = false)) ∧
    (∀ l : Line, e.src = 3 → mfind (s.slice e.cluster).msc key = some l → l.valid.getLsbD k = true →
      (l.dirty ≠ 0 → ∃ t, exec (.scrubRead e) s = .next t ∧ lost t HeldLine.msc) ∧
      (l.dirty = 0 → ∃ t, exec (.scrubRead e) s = .next t ∧ t.heldLine e.cluster e.pa = false)) ∧
    (e.src = 4 → mfind (s.slice e.cluster).l2 key = none → mfind (s.slice e.cluster).msc key = none →
      ∃ t, exec (.scrubRead e) s = .next t ∧ lost t HeldLine.mem)) ∧
  (∀ (e : ErrorFound) (h : HeldLine) (s : State), e.fix = false → 1 ≤ e.src → e.src ≤ 4 →
    (s.slice e.cluster).lost.find? (fun x => x.line == lineKey e.pa) = some h →
    ∃ t, exec (.scrubRead e) s = .next t ∧ ∀ d, (t.die d).mctail = (s.die d).mctail ∧
      (t.die d).kept.length = (s.die d).kept.length) ∧
  (∀ (e : ErrorFound) (s : State), let d := dieOfRouter e.cluster
    let core := e.cluster * 8 + e.core % 8
    (e.src = 5 → e.level = 1 → ∃ t, exec (.parityError e) s = .next t ∧ ∀ x ∈ (t.core core).l1, x.sector ≠ e.pa / 48) ∧
    (e.src = 5 → e.level ≠ 1 → ((s.core core).act = some e.cid ∨ (s.core core).stby = some e.cid) →
      ∃ t, exec (.parityError e) s = .next t ∧ (Claims.ringOpen s d → Claims.recorded s t d true) ∧
        ∀ tk u, mfind s.ts tk = some u → isSys tk = false → cidOf tk = e.cid → coreOf tk = core → (t.t tk).stopped = true) ∧
    (e.src = 6 → ∃ t, exec (.parityError e) s = .next t ∧ ∀ q ∈ (t.slice e.cluster).rq, q.1 ≠ lineKey e.pa) ∧
    (∀ (a : Addends) (q : Nat × Nat), e.src = 6 → (s.slice e.cluster).rq.find? (fun x => x.1 == lineKey e.pa) = some q →
      mfind (s.slice e.cluster).adds (lineKey e.pa) = some a → Claims.ringFull s d →
      ∃ t, exec (.parityError e) s = .next t ∧ ∀ home pa, t.byteAt home pa =
        if home = e.cluster ∧ lineKey pa = lineKey e.pa ∧ a.mask.getLsbD (pa % 192) = true then
          BitVec.ofNat 8 (a.was.toNat / 2 ^ (8 * (pa % 192)))
        else s.byteAt home pa) ∧
    (∀ tk v r b tgt pa, e.src = 7 → (s.slice e.cluster).wait[e.index]? = some (.ts tk, pa, tgt) →
      (s.t tk).wait = some (.waitge v r b) →
      ∃ t, exec (.parityError e) s = .next t ∧ (t.t tk).wait = some (.waitge v r false) ∧
        { due := s.cyc + 1024, ev := .waitgeRepoll tk } ∈ t.pend) ∧
    (e.src = 9 → ∃ t, exec (.parityError e) s = .next t ∧ Claims.signalled t s (s.partOfDie d) 63 ∧
      (Claims.ringOpen s d → Claims.recorded s t d true))) ∧
  (∀ (die cl : Nat) (s : State), ∃ t, exec (.linkFailure die cl) s = .next t ∧ Claims.signalled t s (s.partOfDie die) 63 ∧
    cl ∈ (t.die die).dead ∧ (Claims.ringOpen s die → Claims.recorded s t die true)) ∧
  (∀ (die : Nat) (s : State),
    ((s.die die).kept = [] → exec (.errorRecordFlush die) s = .next s) ∧
    ((s.die die).kept ≠ [] → ¬ Claims.ringTakes s die → ∃ t, exec (.errorRecordFlush die) s = .next t ∧
      (t.die die).kept = (s.die die).kept ∧ (t.die die).mctail = (s.die die).mctail ∧ Claims.Sent t (.errorRecordFlush die) ∧
      Claims.sameBytes s t) ∧
    ((s.die die).kept ≠ [] → Claims.ringTakes s die → ∃ t n, exec (.errorRecordFlush die) s = .next t ∧ 1 ≤ n ∧
      n ≤ (s.die die).kept.length ∧ (t.die die).kept = (s.die die).kept.drop n ∧
      (t.die die).mctail = (s.die die).mctail + BitVec.ofNat 64 n ∧
      ((t.die die).kept ≠ [] → Claims.Sent t (.errorRecordFlush die)))) ∧
  (∀ (die rec : Nat) (s : State), let tk := Config.sysBase + 2 * die
    die < 4 →
    ((s.t tk).inMc = false → (s.t tk).halted = false → (s.t tk).mc = [] → (s.t tk).sent = false →
        (s.t tk).wait ≠ some .wfi → (s.t tk).undo = none → Claims.Plain s tk →
      ∃ t, exec (.machineCheck die rec) s = .next t ∧ (t.t tk).cause = 0x40 ∧ (t.t tk).tval = BitVec.ofNat 64 rec ∧
        (t.t tk).epc = (s.t tk).pc ∧ (t.t tk).pc = Claims.vector (s.ctx tk).tvec 0x40 ∧ (t.t tk).priv = 3 ∧
        (t.t tk).ie = false ∧ (t.t tk).inMc = true ∧ (s.t tk).a.Keeps (t.t tk).a NoReg NoReg NoMask) ∧
    (((s.t tk).inMc = true ∨ (s.t tk).halted = true ∨ (s.t tk).wait = some .wfi) →
      ∃ t, exec (.machineCheck die rec) s = .next t ∧ (t.t tk).mc = (s.t tk).mc ++ [rec] ∧ (t.t tk).pc = (s.t tk).pc ∧
        (t.t tk).a = (s.t tk).a)) ∧
  (∀ (die rec : Nat) (s : State), (∀ x ∈ s.slices, dieOfRouter x.1 = die → ∀ h ∈ x.2.lost, h.recno ≠ rec) →
    exec (.mcrel die rec) s = .next s) ∧
  (∀ (die rec home : Nat) (sl : SliceSt) (h : HeldLine) (s : State),
    s.slices.find? (fun x => dieOfRouter x.1 == die && x.2.lost.any (fun h => h.recno == rec)) = some (home, sl) →
    sl.lost.find? (fun h => h.recno == rec) = some h → mfind s.slices home = some sl → (sl.lost.map HeldLine.line).Nodup →
    s.memOk → sl.quar.toList.any h.slotBy = false →
    ∃ t, exec (.mcrel die rec) s = .next t ∧ (∀ x ∈ (t.slice home).lost, x.line ≠ h.line) ∧
      (∀ g pa, lineKey pa ≠ h.line → t.byteAt g pa = s.byteAt g pa) ∧
      (∀ pa, lineKey pa = h.line → t.byteAt home pa = Claims.releasedByte s home h pa) ∧
      (sl.quar.toList.any h.wayBy = false → ∀ l, mfind (t.slice home).l2 h.line = some l → l.tag = Config.tagNone))

/-- A counter at 2^48 - 1 that counts wraps to 0, sets its PMOVF bit, posts line 6 where OVIE asks for it and freezes where FZOVF
does (23 R401); an instruction that completes at privilege 0 with SS = 1 traps with SSTEP, its result written, EPC at the next
instruction and TVAL at its own (R405); ARM names the next completion, and a stop that has settled lands in one step with every held
member in its handler with 0x87 and S, EPC at the instruction after its barrier instruction (R409, R410). The model's choice, log 73: TVAL of a
stop is S, as R410 says, where the table of 20 R350 has 0. -/
def Obligations.CountersAndStops : Prop :=
  (∀ (tk i : Nat) (s : State), i < 8 → vget (s.t tk).pmc i 0 = 0xFFFFFFFFFFFF → (s.t tk).pmctl.getLsbD 0 = false →
    (s.t tk).pmctl.getLsbD 4 = false →
    ∃ t, exec (.pmcOverflow tk i) s = .next t ∧ vget (t.t tk).pmc i 0 = 0 ∧ (t.t tk).pmovf.getLsbD i = true ∧
      (∀ j, j ≠ i → vget (t.t tk).pmc j 0 = vget (s.t tk).pmc j 0 ∧ (t.t tk).pmovf.getLsbD j = (s.t tk).pmovf.getLsbD j) ∧
      (∀ j, j < 8 → (t.t tk).irq.getLsbD j = ((s.t tk).irq.getLsbD j ||
        (decide (j = 6) && (vget (s.t tk).pmsel i 0).getLsbD 10))) ∧
      (t.t tk).pmctl.getLsbD 0 = (s.t tk).pmctl.getLsbD 1 ∧ (t.t tk).a = (s.t tk).a ∧ (t.t tk).pc = (s.t tk).pc ∧
      (∀ k, k ≠ tk → t.t k = s.t k)) ∧
  (∀ (tk i : Nat) (s : State), (16 ≤ i ∨ i < 8 ∧ vget (s.t tk).pmc i 0 ≠ 0xFFFFFFFFFFFF ∨ i < 8 ∧ (s.t tk).pmctl.getLsbD 0 = true) →
    exec (.pmcOverflow tk i) s = .next s) ∧
  (∀ (i : Instr) (s : State) (d : Reg) (w : Word) (len : Nat), Claims.intValue i s = some (d, w, len) → s.stepping = true →
    s.me.spec = none → s.me.pmctl.getLsbD 5 = false →
    ∃ t, exec i s = .next t ∧ t.me.a.gp 0 d = (if d = 0 then 0 else w) ∧ t.me.cause = 0x23 ∧ t.me.tval = s.me.pc ∧
      t.me.epc = s.nextPc len ∧ t.me.priv = 1 ∧ t.me.ie = false ∧
      t.me.pc = Claims.vector (s.ctx (ctxKey s.cur)).tvec 0x23 ∧ Claims.sameBytes s t) ∧
  (∀ (ch : Nat) (s : State), ((s.chan ch).grant = none → exec (.dstopArm ch) s = .next s) ∧
    ((s.chan ch).grant ≠ none → ∃ t, exec (.dstopArm ch) s = .next t ∧ (t.chan ch).armAt = some s.cyc ∧
      (t.chan ch).stopped = false ∧ (t.chan ch).step = (s.chan ch).step ∧ t.ts = s.ts ∧ Claims.sameBytes s t)) ∧
  (∀ (ch cid q h : Nat) (st : BitVec 32) (s : State), (s.chan ch).stopS = some st → (s.chan ch).grant = some (cid, q, h) →
    (s.dleft ch ≠ 0 → exec (.domainStopLand ch) s = .next s) ∧
    (s.dleft ch = 0 → (s.chan ch).held.Nodup → cid < 4096 → (∀ p ∈ (s.chan ch).held, p < 8192 ∧
        (s.t (tkOf cid p)).pmctl.getLsbD 5 = false ∧ (s.t (tkOf cid p)).pmctl.getLsbD 3 = false) →
      ∃ t, exec (.domainStopLand ch) s = .next t ∧ (t.chan ch).stopped = true ∧ (t.chan ch).step = st ∧
        (t.chan ch).armAt = none ∧ (t.chan ch).held = [] ∧ ∀ p ∈ (s.chan ch).held, let tk := tkOf cid p
          (t.t tk).cause = 0x87 ∧ (t.t tk).tval = st.setWidth 64 ∧ (t.t tk).epc = ((s.t tk).after.getD (s.t tk).pc) ∧
          (t.t tk).lastIss = (s.t tk).lastIss ∧ (t.t tk).pc = Claims.vector (s.ctx cid).tvec 0x87 ∧ (t.t tk).priv = 1 ∧ (t.t tk).ie = false ∧
          (t.t tk).escr.getLsbD 6 = false ∧ (s.t tk).a.Keeps (t.t tk).a NoReg NoReg NoMask))

/-- A register without behaviour of its own takes the fields that it has; a reserved or out-of-range value leaves it as it is (00
R7; 12 R233; 21 R374; 23 R402, R406; 24 R415, R422): MSHARE, BQUAR, watchpoint words, slice watchpoints, quarantine entries, RETF,
PDESC, MCQ, MCHEAD, and the host's IMGLEN, NONCE and image window (21 R384). That BAR4 stands at 2^52 is the model's choice (log
20). -/
def Obligations.RegisterWrites : Prop :=
  ∀ (pa : Nat) (v : Word) (s : State), ∃ t, exec (.registerWrite pa v) s = .next t ∧ t.ts = s.ts ∧
    (pa < 2 ^ 52 → ∀ c off, s.paClass pa = .cluster c off →
      (off = 0 → (t.cl c).mshare =
        (if ∀ k, k < 8 → v.toNat / 2 ^ (4 * k) % 16 ≤ 8 then v &&& 0xFFFFFFFF else (s.cl c).mshare)) ∧
      (off = 8 → (t.cl c).bquar = v &&& 0xFFFFFFFF ∧ (t.cl c).mshare = (s.cl c).mshare) ∧
      (∀ k i, k < 8 → i < 16 → off = 0x800 + 0x100 * k + 0x10 * i → let core := c * 8 + k
        (watchOk v (vget (s.core core).wctl i 0) = true → vget (t.core core).waddr i 0 = v) ∧
        (watchOk v (vget (s.core core).wctl i 0) = false → t = s)) ∧
      (∀ k i, k < 8 → i < 16 → off = 0x808 + 0x100 * k + 0x10 * i → let core := c * 8 + k
        (watchOk (vget (s.core core).waddr i 0) v = true → vget (t.core core).wctl i 0 = v) ∧
        (watchOk (vget (s.core core).waddr i 0) v = false → t = s))) ∧
    (pa < 2 ^ 52 → ∀ c off, s.paClass pa = .slice c off → (∀ i, i < 16 →
        (off = 0x20 * i → vget (t.slice c).swaddr i 0 = v &&& 0xFFFFFFFFFFFFF) ∧
        (off = 0x20 * i + 8 → vget (t.slice c).swctl i 0 =
          (if v.toNat / 8 % 32 ≤ 16 then v &&& 0x1FFFFFFFF else vget (s.slice c).swctl i 0)) ∧
        (off = 0x20 * i + 16 → ∀ j, j < 64 → (vget (t.slice c).swhit i 0).getLsbD j =
          ((vget (s.slice c).swhit i 0).getLsbD j && !(decide (j = 0) && v.getLsbD 0)))) ∧
      (∀ i, i < 32 → off = 0x400 + 8 * i → v.getLsbD 1 = false →
        vget (t.slice c).quar i 0 = (if v.toNat / 4 % 2 ^ 17 ≤ 909 ∧ v.toNat / 2 ^ 19 % 16 ≤ 11 then v &&& 0x7FFFFF
          else vget (s.slice c).quar i 0))) ∧
    (pa < 2 ^ 52 → ∀ d off, s.paClass pa = .die d off →
      (∀ i, i < 64 → off = 0x100 + 8 * i → vget (t.die d).retf i 0 = v &&& 0xFFFFFFFFF0001) ∧
      (off = 0x28 → (t.die d).pdesc = v &&& 0xFFFFFFFFFFFC0) ∧
      (off = 0x30 → (t.die d).mcq = (if v.toNat % 32 ≤ 12 then v &&& ~~~(0xFE0 : Word) else (s.die d).mcq)) ∧
      (off = 0x40 → (t.die d).mchead = v)) ∧
    (pa = 2 ^ 52 + 8 → t.jost.imglen = (if v.toNat ≤ 0x3F00000 then v else s.jost.imglen)) ∧
    (∀ i, i < 8 → pa = 2 ^ 52 + 0x1000 + 8 * i → t.jost.nonce.toNat / 2 ^ (64 * i) % 2 ^ 64 = v.toNat) ∧
    (∀ o, o < 0x3F00000 → o % 8 = 0 → pa = 2 ^ 52 + 0x100000 + o → s.jost.check = none → s.jost.booted = false →
      Memory.wf s.jost.window = true → memRead t.jost.window o 8 = natLe v.toNat 8)

namespace Sys2Proof.Claims

open Sys2Proof.Machine

/-! ### Steps -/

/-- The event of `Instr` that a message in flight, a timer or a hardware step becomes. -/
noncomputable def evInstr (e : Ev) : Instr :=
  match e with
  | .resultReady tk => .resultReady tk
  | .planeGating tk => .planeGating tk
  | .planeWakeDone tk => .planeWakeDone tk
  | .homeLoadServe r => .homeLoadServe r
  | .loadReply r => .loadReply r
  | .homeStoreApply r => .homeStoreApply r
  | .replicaCollapseAck r => .replicaCollapseAck r
  | .amoSliceApply r => .amoSliceApply r
  | .amoReply r => .amoReply r
  | .releasePerformed tk => .releasePerformed tk
  | .redArrival r => .redArrival r
  | .refusalReturn r => .refusalReturn r
  | .forcedMessageApply r => .forcedMessageApply r
  | .residualAgeExpiry c => .residualAgeExpiry c
  | .quotaWindowStart => .quotaWindowStart
  | .reductionQueueDrain c => .reductionQueueDrain c
  | .sigaddApply r => .sigaddApply r
  | .waitgeWake tk => .waitgeWake tk
  | .waitgeRepoll tk => .waitgeRepoll tk
  | .waitTimeout tk => .waitTimeout tk
  | .energyRefill => .energyRefill
  | .tensorBind c => .tensorBind c
  | .mmaOccupancyEnd c l => .mmaOccupancyEnd c l
  | .mmaRetire c e => .mmaRetire c e
  | .copyBurstStart c => .copyBurstStart c
  | .copyBurstComplete c e b => .copyBurstComplete c e b
  | .copyRetire c e => .copyRetire c e
  | .bankRefillDone c n => .bankRefillDone c n
  | .bankScrubDone c b => .bankScrubDone c b
  | .battWake tk => .battWake tk
  | .hoverTableStep tk => .hoverTableStep tk
  | .bdetTableStep tk => .bdetTableStep tk
  | .bwaitWake tk => .bwaitWake tk
  | .barrierArrival v => .barrierArrival v
  | .barwWake tk => .barwWake tk
  | .specCommit tk => .specCommit tk
  | .specAbort tk c g => .specAbort tk c g
  | .guidonArrival f => .guidonArrival f
  | .dataFlitLand f => .dataFlitLand f
  | .furlLand f => .furlLand f
  | .pauseFlitLand f => .pauseFlitLand f
  | .creditArrival c p n => .creditArrival c p n
  | .routeTear c p => .routeTear c p
  | .recvWake tk => .recvWake tk
  | .admission p => .admission p
  | .admissionWaitEnd p => .admissionWaitEnd p
  | .taskBind p => .taskBind p
  | .splitRequest p => .splitRequest p
  | .splitWithdrawTimeout p t => .splitWithdrawTimeout p t
  | .yieldPark tk => .yieldPark tk
  | .faultQueueWrite p => .faultQueueWrite p
  | .tsyncAck tk => .tsyncAck tk
  | .tspawnStatus tk => .tspawnStatus tk
  | .cnextLoad c x => .cnextLoad c x
  | .preemption c => .preemption c
  | .contextStreamEnd c => .contextStreamEnd c
  | .terminationDone d => .terminationDone d
  | .tlbinvAck tk c => .tlbinvAck tk c
  | .quiesceTimeout p => .quiesceTimeout p
  | .quiesceDrain p => .quiesceDrain p
  | .resumeDone p => .resumeDone p
  | .shootdownDone d => .shootdownDone d
  | .transportRequest n => .transportRequest n
  | .transportReply n => .transportReply n
  | .transportRetransmit p d q => .transportRetransmit p d q
  | .nredContribution n => .nredContribution n
  | .nredDeadline p t => .nredDeadline p t
  | .pmcOverflow tk i => .pmcOverflow tk i
  | .domainStopLand c => .domainStopLand c
  | .errorRecordFlush d => .errorRecordFlush d
  | .machineCheck d r => .machineCheck d r
  | .imageCheckDone => .imageCheckDone
  | .systemCoreStart d u pc a => .systemCoreStart d u pc a
  | .attestationDone => .attestationDone
  | .stretchEnd => .stretchEnd

/-- The machine as a step begins whose choice leaves the agenda at `l`. -/
def opens (s : State) (l : List Choice) : State := { s with agenda := l, blocked := false }

/-- The machine as a thread set of the issue list takes its turn. -/
def taking (s : State) (tk : Nat) (l : List Choice) : State :=
  { opens s l with issueq := s.issueq.erase tk, cur := tk, here := s.pend.length }

/-- What a turn leaves in which hardware's part of the instruction has met a held line: the thread set tries again in the next cc
(24 R414). -/
def later (s : State) (tk : Nat) (l : List Choice) : State := (taking s tk l).upT tk (fun t => { t with readyAt := s.cyc + 1 })

/-- The outcome `o` of an instruction as the turn's: the core's pointer moves on. -/
def turned (s : State) (tk : Nat) (l : List Choice) (o : Host.Outcome State Fault Refusal) : Host.Outcome State Fault Refusal :=
  Sys2Proof.Machine.unheld (onNext o (fun t => .next (t.turn tk))) (later s tk l)

/-- What moves next is `c`: the head of the agenda, with `l` behind it, or the machine's own choice where the agenda is empty
(log 4). -/
def chooses (s : State) (c : Choice) (l : List Choice) : Prop := s.agenda = c :: l ∨ (s.agenda = [] ∧ l = [] ∧ (opens s []).auto = c)

/-- The thread set may take its turn now, and no machine check, end of WFI or interrupt comes before its next instruction (20
R353, R356; 24 R417). -/
def mayFetch (s : State) (tk : Nat) (l : List Choice) : Prop :=
  chooses s (.issue tk) l ∧ s.firstOfCore tk = true ∧ (taking s tk l).coreIssued (coreOf tk) = false ∧
    (taking s tk l).mayIssue tk = true ∧ (isSys tk && (s.t tk).mcDue) = false ∧ (s.t tk).wait ≠ some .wfi ∧
    (taking s tk l).irqReady tk = false

/-- Nothing stalls the instruction, and the planes that it needs are awake (05 R86; 02 R28). -/
def free (s : State) (i : Instr) : Prop := s.stalls i = false ∧ s.me.needsWake i = false

/-- Every byte store is in its canonical form: memory, every bank, every bank image and the image window. -/
def Canonical (s : State) : Prop :=
  Memory.wf s.mem = true ∧ (∀ x ∈ s.ccs, ∀ n b, (x.2.slot n).bank? = some b → Memory.wf b.data = true) ∧
    (∀ x ∈ s.images, Memory.wf x.data = true) ∧ Memory.wf s.jost.window = true

/-- The bytes of an instruction in memory, lowest address first (00 R5; 03 R41). -/
def codeBytes (i : Instr) : List (BitVec 8) := (encode i).flatMap (fun w => natLe w.toNat 4)

/-- The instructions that a system core may not issue (01 R19). -/
def notOnSystem (i : Instr) : Bool :=
  match i with
  | .batt .. => true
  | .bdet .. => true
  | .hover .. => true
  | .bwait .. => true
  | .bqry .. => true
  | .tcset .. => true
  | .tcissue .. => true
  | .tcqry .. => true
  | .mmaBf16 .. => true
  | .mmaF16 .. => true
  | .mmaE4m3 .. => true
  | .mmaE5m2 .. => true
  | .mmaE4e5 .. => true
  | .mmaBfp .. => true
  | .mmaS8 .. => true
  | .mzero .. => true
  | .mtrn .. => true
  | .barr .. => true
  | .barl .. => true
  | .barw .. => true
  | .barws .. => true
  | .barq .. => true
  | .rtnext .. => true
  | .yield => true
  | .tdone => true
  | .tspawn .. => true
  | .tsync .. => true
  | .sopen .. => true
  | .ssend .. => true
  | .sclose .. => true
  | .recv .. => true
  | .rrls .. => true
  | .rring .. => true
  | .ldl .. => true
  | .stl .. => true
  | .vldL .. => true
  | .vstL .. => true
  | .vgathL .. => true
  | .vscatL .. => true
  | _ => false

end Sys2Proof.Claims

/-- The cycle counts package time, CYCLE and the wait clocks of the active contexts, one that a return has brought back too, and
makes the issue list of the next cc (00 R3; 07 R137, R144; 23 R399, R401). That Jostauth listens once a cc has passed is the model's
choice, for 26 R431 gives no time (log 23). -/
def Obligations.CycleCounts : Prop :=
  ∀ s : State, ∃ t, exec .coreClockCycle s = .next t ∧ t.cyc = s.cyc + 1 ∧
    t.issueq = t.issueList ∧ t.stretch = (if s.stretched then s.stretch + 1 else s.stretch) ∧
    (s.jost.booted = false → t.jost.listen = true) ∧
    ((s.ts.map Prod.fst).Pairwise (· < ·) →
      ∀ tk u, mfind s.ts tk = some u → s.onCore tk = true → u.pmw = [] → (t.t tk).cycle = u.cycle + 1 ∧ (t.t tk).pc = u.pc ∧
        (t.t tk).wclk = (match u.wait with
          | some w => if w.bounded || (w == .plane && u.wclk != 0) then u.wclk + 1 else u.wclk
          | none => if u.wclk = 0 then 0 else u.wclk + 1))

/-- A fetch reads the word at its page's home where the L1 does not hold it; one that faults raises its fault with the address in
TVAL before the word is decoded, and at the first instruction of a handler starts the context's termination; a fetch watchpoint
raises WATCH; a word that is no instruction raises ILLEGAL_INSN with the word zero-extended (03 R64, R65; 20 R352; 23 R403). -/
def Obligations.FetchAndDecodeFaults : Prop :=
  (∀ (pa home : Nat) (pte : Word) (s s1 : State), isSys s.cur = false → s.site s.cur s.me.pc .fetch s.me.priv = (.ok pa home pte, s1) →
    s1.isReg pa = false → (s1.core (coreOf s.cur)).l1Word pa = none → s1.heldLine home pa = false → pte.getLsbD 8 = false →
    pa % 192 + 4 ≤ 192 → (∀ i, i < 4 → lineKey (pa + i) = lineKey pa) → Claims.noSliceWatch s1 home →
    ∃ w s2, s.fetchAt s.cur s.me.pc = (.ok w, s2) ∧ w.toNat = Claims.memNat s1 home pa 4 ∧ Claims.sameBytes s1 s2 ∧
      s2.ts = s1.ts ∧ (s2.fetchWatch s2.cur = false → exec .instructionFetch s = .next s2)) ∧
  (∀ (w : BitVec 32) (s s1 : State), s.fetchAt s.cur s.me.pc = (.ok w, s1) →
    (s1.fetchWatch s1.cur = false → exec .instructionFetch s = .next s1) ∧
    (s1.fetchWatch s1.cur = true → exec .instructionFetch s = .next (s1.trapAt s1.cur 0x22 s.me.pc s1.me.pc))) ∧
  (∀ (c : Nat) (s s1 : State), s.fetchAt s.cur s.me.pc = (.flt c, s1) →
    (s1.me.entered = false ∨ isSys s1.cur = true →
      exec .instructionFetch s = .next (s1.trapAt s1.cur c s.me.pc s1.me.pc)) ∧
    (s1.me.entered = true → isSys s1.cur = false → (s1.die (s1.partOf s1.cur)).tbusy = false →
      s1.ending (cidOf s1.cur) = false →
      ∃ t, exec .instructionFetch s = .next t ∧ (t.die (s1.partOf s1.cur)).tbusy = true ∧
        (t.die (s1.partOf s1.cur)).tcid = cidOf s1.cur)) ∧
  (∀ (w : BitVec 32) (s : State), exec (.notAnInstruction w) s = .next (s.trapAt s.cur 1 (w.setWidth 64) s.me.pc))

/-- A step runs the decoded instruction: the thread set that takes its turn fetches its word, and the literal where the word has one,
and the step is `exec` of what they decode to, with the core's pointer moved on; a stalled instruction changes no register, and
a word that is refused is NOT_AN_INSTRUCTION. Every other step that runs is `exec` of its event (log 4). Hardware's part that meets a
held line is tried again in the next cc, and an access that arrives at one waits there in its order (24 R414, R421; log 55). -/
def Obligations.StepRunsDecoded : Prop :=
  (∀ (s s1 : State) (tk : Nat) (l : List Choice) (w : BitVec 32) (i : Instr), Claims.mayFetch s tk l →
    (Claims.taking s tk l).fetchAt tk (s.t tk).pc = (.ok w, s1) → s1.fetchWatch s1.cur = false → decode w 0 = .ok i →
    hasLiteral w = false →
    (Claims.free s1 i → step s = Claims.turned s tk l (exec i s1)) ∧
    (s1.stalls i = true → s1.blocked = false → ∃ t, step s = .next t ∧ t.me.a = s1.me.a ∧ t.me.pc = s1.me.pc ∧ Claims.sameBytes s1 t)) ∧
  (∀ (s s1 s2 : State) (tk : Nat) (l : List Choice) (w x : BitVec 32) (i j : Instr), Claims.mayFetch s tk l →
    (Claims.taking s tk l).fetchAt tk (s.t tk).pc = (.ok w, s1) → s1.fetchWatch s1.cur = false → decode w 0 = .ok j →
    hasLiteral w = true → s1.fetchAt s1.cur (s1.me.pc + 4) = (.ok x, s2) → decode w x = .ok i → Claims.free s2 i →
    step s = Claims.turned s tk l (exec i s2)) ∧
  (∀ (s s1 : State) (tk : Nat) (l : List Choice) (w : BitVec 32) (e : DecodeError), Claims.mayFetch s tk l →
    (Claims.taking s tk l).fetchAt tk (s.t tk).pc = (.ok w, s1) → s1.fetchWatch s1.cur = false → decode w 0 = .error e →
    step s = Claims.turned s tk l (exec (.notAnInstruction w) s1)) ∧
  (∀ (s s1 : State) (tk : Nat) (l : List Choice), Claims.mayFetch s tk l →
    (∀ w, (Claims.taking s tk l).fetchAt tk (s.t tk).pc ≠ (.ok w, s1)) → (Claims.taking s tk l).fetchAt tk (s.t tk).pc =
      (((Claims.taking s tk l).fetchAt tk (s.t tk).pc).1, s1) →
    step s = Claims.turned s tk l (exec .instructionFetch (Claims.taking s tk l))) ∧
  (∀ (s : State) (k : Nat) (l : List Choice) (x : Pend), Claims.chooses s (.deliver k) l → s.pend[k]? = some x →
    (Claims.opens s l).deliverable k = true → (Claims.opens s l).arrives (s.pend.take k) x.ev = false →
    step s = Sys2Proof.Machine.unheld (exec (Claims.evInstr x.ev) { (Claims.opens s l).unqueue x.ev with pend := dropAt s.pend k, here := k })
      { Claims.opens s l with pend := setAt s.pend k { x with due := s.cyc + 1 } }) ∧
  (∀ (s : State) (k : Nat) (l : List Choice) (x : Pend), Claims.chooses s (.deliver k) l → s.pend[k]? = some x →
    (Claims.opens s l).deliverable k = true → (Claims.opens s l).arrives (s.pend.take k) x.ev = true →
    ∃ t, step s = .next t ∧ t.pend = s.pend ∧ t.ts = s.ts ∧ Claims.sameBytes s t ∧
      ∃ r, lineReq x.ev = some r ∧ (t.slice r.home).queue = (s.slice r.home).queue ++ [x.ev]) ∧
  (∀ (s : State) (e : Instr) (l : List Choice), Claims.chooses s (.input e) l → (Claims.opens s l).canAct e = true →
    step s = Sys2Proof.Machine.unheld (exec e { Claims.opens s l with here := s.pend.length }) (Claims.opens s l)) ∧
  (∀ (s : State) (l : List Choice), Claims.chooses s .clock l → (Claims.opens s l).cycleOver = true →
    step s = exec .coreClockCycle (Claims.opens s l))

/-- Words written out from the encodings of the spec decode to the instructions that they stand for, one of each of several
families (03 R42-R59). -/
def Obligations.WordsDecode : Prop :=
  decode 0b00000100011001000010100000000001 0 = .ok (.sub 3 4 5) ∧
  decode 0b00000100101001100000010000000010 0xFFFF0000 = .ok (.andLit 5 6 0xFFFF0000) ∧
  decode 0b00101101000010010101000000010011 0 = .ok (.fmadd 8 9 10 0) ∧
  decode 0b11010000110000000000000000000000 0 = .ok (.rtnext 6) ∧
  decode 0b11010100000000000000000000000000 0 = .ok .ecall ∧
  decode 0b11010100000010010000000001100100 0 = .ok (.tlbinv 9 3 0) ∧
  (∃ e, decode 0 0 = .error e) ∧ (∃ e, decode 0xFFFFFFFF 0 = .error e)

/-- Decode and encode agree: the bytes of every well-formed encoded instruction, whatever follows them, decode to it, with every
operand at every value that its encoding admits, and leave what follows. The decoder accepts only well-formed encoded instructions,
and a word has one meaning: what it decodes to encodes to that word and, where it has one, to its literal (03 R41-R64). -/
def Obligations.DecodeEncodeAgree : Prop :=
  (∀ (i : Instr) (rest : List (BitVec 8)), i.encoded = true → i.wf = true →
    decodeBytes (Claims.codeBytes i ++ rest) = .ok (i, rest)) ∧
  (∀ (w x : BitVec 32) (i : Instr), decode w x = .ok i →
    i.wf = true ∧ i.encoded = true ∧ encode i = (if hasLiteral w then [w, x] else [w]))


/-- Every step keeps every byte store (memory, banks, bank images, the image window) in its one canonical form, which is the model's
form of byte-addressed storage (00 R5; log 1). -/
def Obligations.StepKeepsCanonicalMemory : Prop :=
  ∀ s t : State, Claims.Canonical s → step s = .next t → Claims.Canonical t

/-- The machine after reset: canonical byte stores that read zero, every die OFF, the eight system cores halted at privilege 3, no
thread set of a compute core, JSTAT at 0, PM registers of zero, and a cycle count of 0 (21 R384; 26 R431, R434). That memory
reads zero is the model's choice (log 1). -/
def Obligations.ResetMachine : Prop :=
  Claims.Canonical State.reset ∧ (∀ home pa, State.reset.byteAt home pa = 0) ∧ (∀ d, (State.reset.die d).state = 4) ∧
    (∀ k, k < 8 → (State.reset.t (Config.sysBase + k)).halted = true ∧ (State.reset.t (Config.sysBase + k)).priv = 3) ∧
    (∀ tk, isSys tk = false → mfind State.reset.ts tk = none) ∧ State.reset.jost.jstat = 0 ∧
    (∀ i, i < 8 → vget State.reset.jost.pm i 0 = 0) ∧ State.reset.cyc = 0

/-- A system core raises ILLEGAL_INSN, with TVAL the instruction word zero-extended, when it issues a BANK, TCMD, MMA, MAUX, BAR,
TASK or STRM instruction, LDL or STL, or a local VMEM form (01 R19). -/
def Obligations.SystemCoreSubset : Prop :=
  ∀ (i : Instr) (s : State), isSys s.cur = true → Claims.notOnSystem i = true →
    exec i s = .next (s.trapAt s.cur 1 (Claims.wordOf i) s.me.pc)
end

