-- ==== Sys2Proof/Laws/Bits.lean ====
section
/-! SUPPORT. Bit fields: each bit of a word with a field replaced, and reading a field back. -/

namespace Sys2Proof.Machine

/-- Each bit of a word after a field is replaced. -/
theorem getLsbD_putBits {w : Nat} (x : BitVec w) (lo n v i : Nat) :
    (putBits x lo n v).getLsbD i =
      (decide (i < w) && if lo ≤ i ∧ i < lo + n then v.testBit (i - lo) else x.getLsbD i) := by
  by_cases hw : i < w
  · simp only [putBits, BitVec.getLsbD_or, BitVec.getLsbD_and, BitVec.getLsbD_not, BitVec.getLsbD_ofNat,
      Nat.testBit_mul_two_pow, Nat.testBit_two_pow_sub_one, Nat.testBit_mod_two_pow, hw, decide_true, Bool.true_and]
    by_cases h1 : lo ≤ i <;> by_cases h2 : i < lo + n
    · have h3 : i - lo < n := by omega
      simp [h1, h2, h3]
    · have h3 : ¬ i - lo < n := by omega
      simp [h1, h2, h3]
    · simp [h1]
    · simp [h1]
  · simp [hw, BitVec.getLsbD_of_ge _ _ (Nat.le_of_not_lt hw)]

/-- A field is a run of bits. -/
theorem testBit_wbits {w : Nat} (x : BitVec w) (lo n i : Nat) :
    (wbits x lo n).testBit i = (decide (i < n) && x.getLsbD (lo + i)) := by
  simp only [wbits, bits, Nat.testBit_mod_two_pow, Nat.testBit_div_two_pow, BitVec.getLsbD, Nat.add_comm]

theorem wbits_lt {w : Nat} (x : BitVec w) (lo n : Nat) : wbits x lo n < 2 ^ n := Nat.mod_lt _ (Nat.two_pow_pos n)

/-- Reading a field that was just written, inside the word. -/
theorem wbits_putBits_same {w : Nat} (x : BitVec w) (lo n v : Nat) (h : lo + n ≤ w) :
    wbits (putBits x lo n v) lo n = v % 2 ^ n := by
  apply Nat.eq_of_testBit_eq
  intro i
  rw [testBit_wbits, getLsbD_putBits, Nat.testBit_mod_two_pow]
  by_cases hi : i < n
  · have h1 : lo + i < w := by omega
    simp [hi, h1]
  · simp [hi]

/-- Reading a field apart from the one that was written. -/
theorem wbits_putBits_apart {w : Nat} (x : BitVec w) (lo n v l m : Nat) (h : l + m ≤ lo ∨ lo + n ≤ l) :
    wbits (putBits x lo n v) l m = wbits x l m := by
  apply Nat.eq_of_testBit_eq
  intro i
  rw [testBit_wbits, getLsbD_putBits, testBit_wbits]
  by_cases hi : i < m
  · have : ¬ (lo ≤ l + i ∧ l + i < lo + n) := by omega
    by_cases hw : l + i < w
    · simp [hi, hw, this]
    · simp [hw, BitVec.getLsbD_of_ge _ _ (Nat.le_of_not_lt hw)]
  · simp [hi]

theorem getLsbD_putBits_apart {w : Nat} (x : BitVec w) (lo n v i : Nat) (h : i < lo ∨ lo + n ≤ i) :
    (putBits x lo n v).getLsbD i = x.getLsbD i := by
  rw [getLsbD_putBits]
  have : ¬ (lo ≤ i ∧ i < lo + n) := by omega
  by_cases hw : i < w
  · simp [hw, this]
  · simp [hw, BitVec.getLsbD_of_ge _ _ (Nat.le_of_not_lt hw)]

/-- Two words are equal when their bits are. -/
theorem word_ext {w : Nat} {x y : BitVec w} (h : ∀ i < w, x.getLsbD i = y.getLsbD i) : x = y :=
  BitVec.eq_of_getLsbD_eq h

end Sys2Proof.Machine
end

