-- ==== Sys2Proof/Laws/Memory.lean ====
section
/-! SUPPORT. The canonical form of memory and of banks: every write keeps it, a read finds the byte last written, and a word
of memory is its eight bytes. -/

namespace Sys2Proof.Machine

/-! ### One byte -/

theorem memOk_mono (m : List Host.Cell) {a b : Nat} (h : memOk b m = true) (hab : a ≤ b) : memOk a m = true := by
  cases m with
  | nil => rfl
  | cons c m =>
    simp only [memOk, Bool.and_eq_true, decide_eq_true_eq] at h ⊢
    exact ⟨⟨by omega, h.1.2⟩, h.2⟩

/-- A write keeps the canonical form. -/
theorem memSet_ok (m : List Host.Cell) (lo a : Nat) (b : Byte) (h : memOk lo m = true) (ha : lo ≤ a) :
    memOk lo (memSet m a b) = true := by
  induction m generalizing lo with
  | nil =>
    by_cases hb : b = emptyByte
    · simp [memSet, hb, memOk]
    · simp [memSet, hb, memOk, ha]
  | cons c m ih =>
    obtain ⟨c, v⟩ := c
    simp only [memOk, Bool.and_eq_true, decide_eq_true_eq] at h
    obtain ⟨⟨h1, h2⟩, h3⟩ := h
    unfold memSet
    split
    · rename_i hac
      by_cases hb : b = emptyByte
      · simp [hb, memOk, h1, h2, h3]
      · simp only [hb, if_false, memOk, Bool.and_eq_true, decide_eq_true_eq]
        exact ⟨⟨ha, hb⟩, ⟨by omega, h2⟩, h3⟩
    · split
      · rename_i hac
        subst hac
        by_cases hb : b = emptyByte
        · simp only [hb, if_true]
          exact memOk_mono m h3 (by omega)
        · simp only [hb, if_false, memOk, Bool.and_eq_true, decide_eq_true_eq]
          exact ⟨⟨ha, hb⟩, h3⟩
      · simp only [memOk, Bool.and_eq_true, decide_eq_true_eq]
        exact ⟨⟨h1, h2⟩, ih (c + 1) h3 (by omega)⟩

/-- Below the first cell that may be listed every byte is empty. -/
theorem memGet_below (m : List Host.Cell) (lo a : Nat) (h : memOk lo m = true) (ha : a < lo) : memGet m a = emptyByte := by
  cases m with
  | nil => rfl
  | cons c m =>
    obtain ⟨c, v⟩ := c
    simp only [memOk, Bool.and_eq_true, decide_eq_true_eq] at h
    unfold memGet
    rw [if_neg (by omega), if_pos (by omega)]

/-- A read after a write: the byte written at its address, every other byte as before. -/
theorem memGet_memSet (m : List Host.Cell) (lo a x : Nat) (b : Byte) (h : memOk lo m = true) :
    memGet (memSet m a b) x = if x = a then b else memGet m x := by
  induction m generalizing lo with
  | nil =>
    by_cases hb : b = emptyByte
    · subst hb
      by_cases hx : x = a <;> simp [memSet, memGet, hx]
    · simp only [memSet, hb, if_false, memGet]
      by_cases hx : x = a
      · subst hx
        simp
      · rw [if_neg (fun e => hx e.symm), if_neg hx]
        split <;> rfl
  | cons c m ih =>
    obtain ⟨c, v⟩ := c
    have hc := h
    simp only [memOk, Bool.and_eq_true, decide_eq_true_eq] at h
    obtain ⟨⟨h1, h2⟩, h3⟩ := h
    unfold memSet
    split
    · rename_i hac
      by_cases hb : b = emptyByte
      · simp only [hb, if_true]
        by_cases hx : x = a
        · subst hx
          unfold memGet
          rw [if_neg (by omega), if_pos (by omega), if_pos rfl]
        · rw [if_neg hx]
      · simp only [hb, if_false]
        rw [memGet]
        by_cases hx : x = a
        · subst hx
          simp
        · rw [if_neg (fun e => hx e.symm), if_neg hx]
          split
          · unfold memGet
            rw [if_neg (by omega), if_pos (by omega)]
          · rfl
    · split
      · rename_i hac
        subst hac
        by_cases hb : b = emptyByte
        · simp only [hb, if_true]
          by_cases hx : x = a
          · subst hx
            rw [if_pos rfl]
            exact memGet_below m _ _ h3 (by omega)
          · rw [if_neg hx]
            conv => rhs; rw [memGet]
            rw [if_neg (fun e => hx e.symm)]
            split
            · exact memGet_below m _ _ h3 (by omega)
            · rfl
        · simp only [hb, if_false]
          rw [memGet]
          by_cases hx : x = a
          · subst hx
            simp
          · have hx' : ¬ a = x := fun e => hx e.symm
            simp only [memGet, if_neg hx, if_neg hx']
      · rw [memGet]
        conv => rhs; rw [memGet]
        by_cases hx : c = x
        · rw [if_pos hx, if_pos hx, if_neg (by omega)]
        · rw [if_neg hx, if_neg hx]
          split
          · rw [if_neg (by omega)]
          · exact ih (c + 1) h3

theorem memGet_memSet_same (m : List Host.Cell) (a : Nat) (b : Byte) (h : Memory.wf m = true) : memGet (memSet m a b) a = b := by
  rw [memGet_memSet m 0 a a b h, if_pos rfl]

theorem memGet_memSet_other (m : List Host.Cell) (a x : Nat) (b : Byte) (h : Memory.wf m = true) (hx : x ≠ a) :
    memGet (memSet m a b) x = memGet m x := by
  rw [memGet_memSet m 0 a x b h, if_neg hx]

theorem memSet_wf (m : List Host.Cell) (a : Nat) (b : Byte) (h : Memory.wf m = true) : Memory.wf (memSet m a b) = true :=
  memSet_ok m 0 a b h (Nat.zero_le a)

/-- A fold of writes keeps the canonical form. -/
theorem foldl_wf {α : Type} (l : List α) (f : List Host.Cell → α → List Host.Cell)
    (hf : ∀ m x, Memory.wf m = true → Memory.wf (f m x) = true) (m : List Host.Cell) (h : Memory.wf m = true) :
    Memory.wf (l.foldl f m) = true := by
  induction l generalizing m with
  | nil => exact h
  | cons x l ih => exact ih (f m x) (hf m x h)

theorem memWrite_wf (bs : List Byte) (m : List Host.Cell) (a : Nat) (h : Memory.wf m = true) : Memory.wf (memWrite m a bs) = true := by
  induction bs generalizing m a with
  | nil => exact h
  | cons b bs ih => exact ih _ _ (memSet_wf m a b h)

/-- A write of several bytes: each where it belongs, every other byte as before. -/
theorem memGet_memWrite (bs : List Byte) (m : List Host.Cell) (a x : Nat) (h : Memory.wf m = true) :
    memGet (memWrite m a bs) x = if a ≤ x ∧ x < a + bs.length then bs.getD (x - a) 0 else memGet m x := by
  induction bs generalizing m a with
  | nil =>
    rw [if_neg (by simp only [List.length_nil]; omega)]
    rfl
  | cons b bs ih =>
    rw [memWrite, ih _ _ (memSet_wf m a b h), memGet_memSet m 0 a x b h]
    simp only [List.length_cons]
    by_cases h1 : x = a
    · subst h1
      rw [if_neg (by omega), if_pos rfl, if_pos (by omega)]
      simp
    · rw [if_neg h1]
      by_cases h2 : a + 1 ≤ x ∧ x < a + 1 + bs.length
      · rw [if_pos h2, if_pos (by omega)]
        have : x - a = (x - (a + 1)) + 1 := by omega
        rw [this, List.getD_cons_succ]
      · rw [if_neg h2, if_neg (by omega)]

theorem writeBack_wf (m : List Host.Cell) (key : Nat) (d : BitVec 1536) (k : BitVec 4) (h : Memory.wf m = true) :
    Memory.wf (writeBack m key d k) = true := by
  refine foldl_wf _ _ ?_ m h
  intro m i hm
  dsimp only
  split
  · exact memSet_wf m _ _ hm
  · exact hm

/-- The cells of a bank after a local write. -/
def bankWrite (m : List Host.Cell) (a : Nat) (on : Nat → Bool) (bs : List Byte) : List Host.Cell :=
  (span 0 bs.length).foldl (fun m i => if on i then memSet m (a % 65536 + i) (bs.getD i 0) else m) m

theorem bankWrite_wf (m : List Host.Cell) (a : Nat) (on : Nat → Bool) (bs : List Byte) (h : Memory.wf m = true) :
    Memory.wf (bankWrite m a on bs) = true := by
  refine foldl_wf _ _ ?_ m h
  intro m i hm
  split
  · exact memSet_wf m _ _ hm
  · exact hm

/-- A local write changes the bank of one slot. -/
theorem slot_locWrite (c : CC) (a : Nat) (on : Nat → Bool) (bs : List Byte) (n : Nat) :
    (c.locWrite a on bs).slot n =
      if n = a / 65536 then (c.slot n).map (fun b => { b with data := bankWrite b.data a on bs }) else c.slot n := by
  unfold CC.locWrite CC.slot vset
  dsimp only
  by_cases hr : a / 65536 < 8
  · rw [dif_pos hr]
    by_cases hn : n = a / 65536
    · subst hn
      rw [if_pos rfl]
      unfold vget
      rw [dif_pos hr, dif_pos hr, Vector.getElem_set_self]
      rfl
    · rw [if_neg hn]
      unfold vget
      by_cases h8 : n < 8
      · rw [dif_pos h8, dif_pos h8, Vector.getElem_set_ne _ _ (fun e => hn e.symm)]
      · rw [dif_neg h8, dif_neg h8]
  · rw [dif_neg hr]
    by_cases hn : n = a / 65536
    · subst hn
      rw [if_pos rfl]
      unfold vget
      rw [dif_neg hr]
      rfl
    · rw [if_neg hn]

/-- A write to the local space keeps every bank's canonical form. -/
theorem locWrite_banks (c : CC) (a : Nat) (on : Nat → Bool) (bs : List Byte)
    (h : ∀ n b, (c.slot n).bank? = some b → Memory.wf b.data = true) :
    ∀ n b, ((c.locWrite a on bs).slot n).bank? = some b → Memory.wf b.data = true := by
  intro n b hb
  rw [slot_locWrite] at hb
  split at hb
  · have hh := h n
    revert hb hh
    generalize c.slot n = sl
    intro hb hh
    cases sl with
    | empty => cases hb
    | reserved => cases hb
    | attached b0 =>
      injection hb with hb
      rw [← hb]
      exact bankWrite_wf _ _ _ _ (hh b0 rfl)
    | outgoing b0 =>
      injection hb with hb
      rw [← hb]
      exact bankWrite_wf _ _ _ _ (hh b0 rfl)
  · exact h n b hb

theorem reset_memOk : State.reset.memOk := rfl

/-! ### Several bytes as one number -/

theorem leNat_lt (bs : List Byte) : leNat bs < 256 ^ bs.length := by
  induction bs with
  | nil => simp [leNat]
  | cons b bs ih =>
    have := b.isLt
    rw [leNat, List.length_cons, Nat.pow_succ]
    omega

theorem leNat_append (xs ys : List Byte) : leNat (xs ++ ys) = leNat xs + 256 ^ xs.length * leNat ys := by
  induction xs with
  | nil => simp [leNat]
  | cons x xs ih =>
    rw [List.cons_append, leNat, ih, leNat, List.length_cons, Nat.pow_succ, Nat.mul_add, Nat.add_assoc, Nat.mul_comm _ 256, Nat.mul_assoc]

theorem natLe_length (n x : Nat) : (natLe x n).length = n := by
  induction n generalizing x with
  | zero => rfl
  | succ n ih => rw [natLe, List.length_cons, ih]

theorem leNat_natLe (n x : Nat) : leNat (natLe x n) = x % 256 ^ n := by
  induction n generalizing x with
  | zero => simp [natLe, leNat, Nat.mod_one]
  | succ n ih =>
    rw [natLe, leNat, ih, BitVec.toNat_ofNat, show (2 : Nat) ^ 8 = 256 from rfl, Nat.pow_succ, Nat.mul_comm (256 ^ n) 256, Nat.mod_mul]

theorem natLe_leNat (bs : List Byte) : natLe (leNat bs) bs.length = bs := by
  induction bs with
  | nil => rfl
  | cons b bs ih =>
    have hb := b.isLt
    rw [List.length_cons, natLe, leNat]
    have h1 : (b.toNat + 256 * leNat bs) / 256 = leNat bs := by omega
    have h2 : BitVec.ofNat 8 (b.toNat + 256 * leNat bs) = b := by
      apply BitVec.eq_of_toNat_eq
      rw [BitVec.toNat_ofNat]
      omega
    rw [h1, h2, ih]

theorem memRead_length (m : List Host.Cell) (a n : Nat) : (memRead m a n).length = n := by
  induction n generalizing a with
  | zero => rfl
  | succ n ih => rw [memRead, List.length_cons, ih]

theorem memRead_append (m : List Host.Cell) (a n k : Nat) : memRead m a (n + k) = memRead m a n ++ memRead m (a + n) k := by
  induction n generalizing a with
  | zero => simp [memRead]
  | succ n ih =>
    rw [Nat.succ_add, memRead, memRead, ih, List.cons_append, Nat.add_assoc a 1 n, Nat.add_comm 1 n]

/-- A run of bytes inside a longer one. -/
theorem memRead_inside (m : List Host.Cell) (a n o k : Nat) (h : o + k ≤ n) :
    leNat (memRead m a n) / 256 ^ o % 256 ^ k = leNat (memRead m (a + o) k) := by
  obtain ⟨r, rfl⟩ : ∃ r, n = o + (k + r) := ⟨n - o - k, by omega⟩
  have h1 := leNat_lt (memRead m a o)
  have h2 := leNat_lt (memRead m (a + o) k)
  rw [memRead_length] at h1 h2
  rw [memRead_append, memRead_append, leNat_append, leNat_append, memRead_length, memRead_length, Nat.add_mul_div_left _ _ (Nat.pow_pos (by decide)),
    Nat.div_eq_of_lt h1, Nat.zero_add, Nat.add_mul_mod_self_left, Nat.mod_eq_of_lt h2]

theorem mem_span (n lo x : Nat) (h : x ∈ span lo n) : lo ≤ x ∧ x < lo + n := by
  induction n generalizing lo with
  | zero => cases h
  | succ n ih =>
    rw [span, List.mem_cons] at h
    rcases h with h | h
    · omega
    · have := ih (lo + 1) h
      omega

/-- A slice with no watchpoint enabled notes nothing. -/
theorem swNote_quiet (s : State) (home pa n : Nat) (wr : Bool) (c k : Nat)
    (h : ∀ w, w < 16 → (vget (s.slice home).swctl w 0).getLsbD 0 = false) : s.swNote home pa n wr c k = s := by
  have key (l : List Nat) (hl : ∀ w ∈ l, w < 16) (f : State → Nat → State)
      (hf : ∀ w, (vget (s.slice home).swctl w 0).getLsbD 0 = false → f s w = s) : l.foldl f s = s := by
    induction l with
    | nil => rfl
    | cons w l ih =>
      rw [List.foldl_cons, hf w (h w (hl w List.mem_cons_self))]
      exact ih (fun x hx => hl x (List.mem_cons_of_mem w hx))
  unfold State.swNote
  refine key (span 0 16) (fun w hw => by have := mem_span _ _ _ hw; omega) _ ?_
  intro w hw
  simp only [hw, Bool.false_and, Bool.false_eq_true, if_false]

/-! ### Memory with no line in its caches -/

theorem hwNote_flat (s : State) (h : s.slices = []) (home pa n : Nat) (wr : Bool) : s.hwNote home pa n wr = s := by
  have hs : s.slice home = SliceSt.reset := by
    unfold State.slice
    rw [h]
    rfl
  have hh : s.heldLine home pa = false := by
    unfold State.heldLine
    rw [hs]
    rfl
  unfold State.hwNote
  rw [hh]
  refine swNote_quiet s home pa n wr 4 0 ?_
  rw [hs]
  exact (by decide : ∀ w, w < 16 → (vget SliceSt.reset.swctl w 0).getLsbD 0 = false)

/-- With no slice listed, a line is what memory holds. -/
theorem lineVal_flat (s : State) (h : s.slices = []) (home key : Nat) : s.lineVal home key = memLine s.mem key := by
  have hs : s.slice home = SliceSt.reset := by
    unfold State.slice
    rw [h]
    rfl
  unfold State.lineVal State.below State.mscLine
  rw [hs]
  split <;> simp_all [SliceSt.reset, mfind]

/-- The same for hardware, for which a held line has its recovered value. -/
theorem recovered_flat (s : State) (h : s.slices = []) (home key : Nat) : s.recovered home key = memLine s.mem key := by
  have : s.lostAt home key = none := by
    unfold State.lostAt State.slice
    rw [h]
    rfl
  unfold State.recovered
  rw [this]
  exact lineVal_flat s h home key

/-- A line that is not held has one value. -/
theorem recovered_unheld (s : State) (home pa : Nat) (h : s.heldLine home pa = false) :
    s.recovered home (lineKey pa) = s.lineVal home (lineKey pa) := by
  have : s.lostAt home (lineKey pa) = none := by
    simpa [State.lostAt, State.heldLine] using h
  unfold State.recovered
  rw [this]

/-- Nothing is healed in a line that is not held. -/
theorem heal_unheld (s : State) (home pa : Nat) (k : BitVec 4) (h : s.heldLine home pa = false) :
    s.heal home (lineKey pa) k = s := by
  have : s.lostAt home (lineKey pa) = none := by
    simpa [State.lostAt, State.heldLine] using h
  unfold State.heal
  rw [this]

theorem lineKey_line (pa : Nat) : lineKey pa / 2 = pa / 192 := by
  unfold lineKey
  dsimp only
  split <;> omega

theorem memLine_toNat (m : List Host.Cell) (key : Nat) : (memLine m key).toNat = leNat (memRead m (key / 2 * 192) 192) := by
  have h := leNat_lt (memRead m (key / 2 * 192) 192)
  rw [memRead_length] at h
  unfold memLine
  rw [BitVec.toNat_ofNat, Nat.mod_eq_of_lt]
  rw [show (256 : Nat) = 2 ^ 8 from rfl, ← Nat.pow_mul] at h
  exact h

/-- Bytes of one line, read from memory. -/
theorem natLe_memLine (m : List Host.Cell) (pa n : Nat) (h : pa % 192 + n ≤ 192) :
    natLe ((memLine m (lineKey pa)).toNat / 2 ^ (8 * (pa % 192))) n = memRead m pa n := by
  have hb : lineKey pa / 2 * 192 + pa % 192 = pa := by
    rw [lineKey_line]
    omega
  have key : leNat (natLe ((memLine m (lineKey pa)).toNat / 2 ^ (8 * (pa % 192))) n) = leNat (memRead m pa n) := by
    rw [leNat_natLe, memLine_toNat, Nat.pow_mul, show (2 ^ 8 : Nat) = 256 from rfl, memRead_inside _ _ _ _ _ h, hb]
  have h1 := natLe_leNat (natLe ((memLine m (lineKey pa)).toNat / 2 ^ (8 * (pa % 192))) n)
  have h2 := natLe_leNat (memRead m pa n)
  rw [natLe_length] at h1
  rw [memRead_length] at h2
  rw [← h1, ← h2, key]

theorem byteAt_flat (s : State) (h : s.slices = []) (home pa : Nat) : s.byteAt home pa = memGet s.mem pa := by
  unfold State.byteAt
  rw [lineVal_flat s h]
  have := natLe_memLine s.mem pa 1 (by omega)
  simpa [natLe, memRead] using this

/-- An aligned word, read by hardware. -/
theorem rdWord_flat (s : State) (h : s.slices = []) (p pa : Nat) (ha : pa % 8 = 0) : s.rdWord p pa = leWord (memRead s.mem pa 8) := by
  unfold State.rdWord State.rd00 State.rdBy
  rw [show 8 / 64 + 2 = 2 from rfl]
  unfold State.rdN
  have hc : chunk pa 8 = 8 := by
    unfold chunk
    omega
  simp only [hc, recovered_flat s h]
  rw [natLe_memLine _ _ _ (by omega)]
  unfold State.rdN
  simp

/-- Bytes that hardware reads through a context's tables. -/
theorem hwRead_flat (s : State) (h : s.slices = []) (cid d pa hm : Nat) (va pte : Word) (n : Nat)
    (hx : s.xlatHw cid d va .load 1 = (some (pa, hm, pte), s)) : s.hwRead cid d va n = (some (memRead s.mem pa n), s) := by
  have bytes (n lo : Nat) : (span lo n).flatMap (fun i => natLe ((s.recovered hm (lineKey (pa + i))).toNat / 2 ^ (8 * ((pa + i) % 192))) 1) =
      memRead s.mem (pa + lo) n := by
    induction n generalizing lo with
    | zero => rfl
    | succ n ih =>
      rw [span, List.flatMap_cons, ih, recovered_flat s h, natLe_memLine _ _ _ (by omega), memRead, memRead, memRead, Nat.add_assoc]
      rfl
  unfold State.hwRead
  rw [hx]
  simp only [hwNote_flat s h, bytes]
  rfl

end Sys2Proof.Machine
end

