-- ==== Sys2Proof/Laws/PerInstr.lean ====
section
/-! SUPPORT. Statements made per instruction: how many bytes its words take in memory. -/

namespace Sys2Proof.Laws

/-- An encoded instruction takes 4 bytes, 8 with a literal (03 R40); an event has no words. -/
def Length.Statement (i : Instr) : Prop :=
  (encode i).length * 4 = if i.encoded then i.bytes else 0

theorem Length.add (d : BitVec 5) (a : BitVec 5) (b : BitVec 5) : Length.Statement (.add d a b) := rfl
theorem Length.sub (d : BitVec 5) (a : BitVec 5) (b : BitVec 5) : Length.Statement (.sub d a b) := rfl
theorem Length.and (d : BitVec 5) (a : BitVec 5) (b : BitVec 5) : Length.Statement (.and d a b) := rfl
theorem Length.or (d : BitVec 5) (a : BitVec 5) (b : BitVec 5) : Length.Statement (.or d a b) := rfl
theorem Length.xor (d : BitVec 5) (a : BitVec 5) (b : BitVec 5) : Length.Statement (.xor d a b) := rfl
theorem Length.andn (d : BitVec 5) (a : BitVec 5) (b : BitVec 5) : Length.Statement (.andn d a b) := rfl
theorem Length.sll (d : BitVec 5) (a : BitVec 5) (b : BitVec 5) : Length.Statement (.sll d a b) := rfl
theorem Length.srl (d : BitVec 5) (a : BitVec 5) (b : BitVec 5) : Length.Statement (.srl d a b) := rfl
theorem Length.sra (d : BitVec 5) (a : BitVec 5) (b : BitVec 5) : Length.Statement (.sra d a b) := rfl
theorem Length.ror (d : BitVec 5) (a : BitVec 5) (b : BitVec 5) : Length.Statement (.ror d a b) := rfl
theorem Length.slt (d : BitVec 5) (a : BitVec 5) (b : BitVec 5) : Length.Statement (.slt d a b) := rfl
theorem Length.sltu (d : BitVec 5) (a : BitVec 5) (b : BitVec 5) : Length.Statement (.sltu d a b) := rfl
theorem Length.min (d : BitVec 5) (a : BitVec 5) (b : BitVec 5) : Length.Statement (.min d a b) := rfl
theorem Length.max (d : BitVec 5) (a : BitVec 5) (b : BitVec 5) : Length.Statement (.max d a b) := rfl
theorem Length.minu (d : BitVec 5) (a : BitVec 5) (b : BitVec 5) : Length.Statement (.minu d a b) := rfl
theorem Length.maxu (d : BitVec 5) (a : BitVec 5) (b : BitVec 5) : Length.Statement (.maxu d a b) := rfl
theorem Length.mul (d : BitVec 5) (a : BitVec 5) (b : BitVec 5) : Length.Statement (.mul d a b) := rfl
theorem Length.mulh (d : BitVec 5) (a : BitVec 5) (b : BitVec 5) : Length.Statement (.mulh d a b) := rfl
theorem Length.mulhu (d : BitVec 5) (a : BitVec 5) (b : BitVec 5) : Length.Statement (.mulhu d a b) := rfl
theorem Length.mulhsu (d : BitVec 5) (a : BitVec 5) (b : BitVec 5) : Length.Statement (.mulhsu d a b) := rfl
theorem Length.div (d : BitVec 5) (a : BitVec 5) (b : BitVec 5) : Length.Statement (.div d a b) := rfl
theorem Length.divu (d : BitVec 5) (a : BitVec 5) (b : BitVec 5) : Length.Statement (.divu d a b) := rfl
theorem Length.rem (d : BitVec 5) (a : BitVec 5) (b : BitVec 5) : Length.Statement (.rem d a b) := rfl
theorem Length.remu (d : BitVec 5) (a : BitVec 5) (b : BitVec 5) : Length.Statement (.remu d a b) := rfl
theorem Length.clz (d : BitVec 5) (a : BitVec 5) : Length.Statement (.clz d a) := rfl
theorem Length.ctz (d : BitVec 5) (a : BitVec 5) : Length.Statement (.ctz d a) := rfl
theorem Length.popc (d : BitVec 5) (a : BitVec 5) : Length.Statement (.popc d a) := rfl
theorem Length.sextB (d : BitVec 5) (a : BitVec 5) : Length.Statement (.sextB d a) := rfl
theorem Length.sextH (d : BitVec 5) (a : BitVec 5) : Length.Statement (.sextH d a) := rfl
theorem Length.sextW (d : BitVec 5) (a : BitVec 5) : Length.Statement (.sextW d a) := rfl
theorem Length.zextH (d : BitVec 5) (a : BitVec 5) : Length.Statement (.zextH d a) := rfl
theorem Length.zextW (d : BitVec 5) (a : BitVec 5) : Length.Statement (.zextW d a) := rfl
theorem Length.addw (d : BitVec 5) (a : BitVec 5) (b : BitVec 5) : Length.Statement (.addw d a b) := rfl
theorem Length.subw (d : BitVec 5) (a : BitVec 5) (b : BitVec 5) : Length.Statement (.subw d a b) := rfl
theorem Length.addLit (d : BitVec 5) (a : BitVec 5) (lit : BitVec 32) : Length.Statement (.addLit d a lit) := rfl
theorem Length.subLit (d : BitVec 5) (a : BitVec 5) (lit : BitVec 32) : Length.Statement (.subLit d a lit) := rfl
theorem Length.andLit (d : BitVec 5) (a : BitVec 5) (lit : BitVec 32) : Length.Statement (.andLit d a lit) := rfl
theorem Length.orLit (d : BitVec 5) (a : BitVec 5) (lit : BitVec 32) : Length.Statement (.orLit d a lit) := rfl
theorem Length.xorLit (d : BitVec 5) (a : BitVec 5) (lit : BitVec 32) : Length.Statement (.xorLit d a lit) := rfl
theorem Length.andnLit (d : BitVec 5) (a : BitVec 5) (lit : BitVec 32) : Length.Statement (.andnLit d a lit) := rfl
theorem Length.sllLit (d : BitVec 5) (a : BitVec 5) (lit : BitVec 32) : Length.Statement (.sllLit d a lit) := rfl
theorem Length.srlLit (d : BitVec 5) (a : BitVec 5) (lit : BitVec 32) : Length.Statement (.srlLit d a lit) := rfl
theorem Length.sraLit (d : BitVec 5) (a : BitVec 5) (lit : BitVec 32) : Length.Statement (.sraLit d a lit) := rfl
theorem Length.rorLit (d : BitVec 5) (a : BitVec 5) (lit : BitVec 32) : Length.Statement (.rorLit d a lit) := rfl
theorem Length.sltLit (d : BitVec 5) (a : BitVec 5) (lit : BitVec 32) : Length.Statement (.sltLit d a lit) := rfl
theorem Length.sltuLit (d : BitVec 5) (a : BitVec 5) (lit : BitVec 32) : Length.Statement (.sltuLit d a lit) := rfl
theorem Length.minLit (d : BitVec 5) (a : BitVec 5) (lit : BitVec 32) : Length.Statement (.minLit d a lit) := rfl
theorem Length.maxLit (d : BitVec 5) (a : BitVec 5) (lit : BitVec 32) : Length.Statement (.maxLit d a lit) := rfl
theorem Length.minuLit (d : BitVec 5) (a : BitVec 5) (lit : BitVec 32) : Length.Statement (.minuLit d a lit) := rfl
theorem Length.maxuLit (d : BitVec 5) (a : BitVec 5) (lit : BitVec 32) : Length.Statement (.maxuLit d a lit) := rfl
theorem Length.mulLit (d : BitVec 5) (a : BitVec 5) (lit : BitVec 32) : Length.Statement (.mulLit d a lit) := rfl
theorem Length.mulhLit (d : BitVec 5) (a : BitVec 5) (lit : BitVec 32) : Length.Statement (.mulhLit d a lit) := rfl
theorem Length.mulhuLit (d : BitVec 5) (a : BitVec 5) (lit : BitVec 32) : Length.Statement (.mulhuLit d a lit) := rfl
theorem Length.mulhsuLit (d : BitVec 5) (a : BitVec 5) (lit : BitVec 32) : Length.Statement (.mulhsuLit d a lit) := rfl
theorem Length.divLit (d : BitVec 5) (a : BitVec 5) (lit : BitVec 32) : Length.Statement (.divLit d a lit) := rfl
theorem Length.divuLit (d : BitVec 5) (a : BitVec 5) (lit : BitVec 32) : Length.Statement (.divuLit d a lit) := rfl
theorem Length.remLit (d : BitVec 5) (a : BitVec 5) (lit : BitVec 32) : Length.Statement (.remLit d a lit) := rfl
theorem Length.remuLit (d : BitVec 5) (a : BitVec 5) (lit : BitVec 32) : Length.Statement (.remuLit d a lit) := rfl
theorem Length.addwLit (d : BitVec 5) (a : BitVec 5) (lit : BitVec 32) : Length.Statement (.addwLit d a lit) := rfl
theorem Length.subwLit (d : BitVec 5) (a : BitVec 5) (lit : BitVec 32) : Length.Statement (.subwLit d a lit) := rfl
theorem Length.addi (d : BitVec 5) (a : BitVec 5) (imm : BitVec 16) : Length.Statement (.addi d a imm) := rfl
theorem Length.andi (d : BitVec 5) (a : BitVec 5) (imm : BitVec 16) : Length.Statement (.andi d a imm) := rfl
theorem Length.ori (d : BitVec 5) (a : BitVec 5) (imm : BitVec 16) : Length.Statement (.ori d a imm) := rfl
theorem Length.xori (d : BitVec 5) (a : BitVec 5) (imm : BitVec 16) : Length.Statement (.xori d a imm) := rfl
theorem Length.slti (d : BitVec 5) (a : BitVec 5) (imm : BitVec 16) : Length.Statement (.slti d a imm) := rfl
theorem Length.sltiu (d : BitVec 5) (a : BitVec 5) (imm : BitVec 16) : Length.Statement (.sltiu d a imm) := rfl
theorem Length.slli (d : BitVec 5) (a : BitVec 5) (n : BitVec 6) : Length.Statement (.slli d a n) := rfl
theorem Length.srli (d : BitVec 5) (a : BitVec 5) (n : BitVec 6) : Length.Statement (.srli d a n) := rfl
theorem Length.srai (d : BitVec 5) (a : BitVec 5) (n : BitVec 6) : Length.Statement (.srai d a n) := rfl
theorem Length.rori (d : BitVec 5) (a : BitVec 5) (n : BitVec 6) : Length.Statement (.rori d a n) := rfl
theorem Length.lui (d : BitVec 5) (imm : BitVec 16) : Length.Statement (.lui d imm) := rfl
theorem Length.addpc (d : BitVec 5) (imm : BitVec 16) : Length.Statement (.addpc d imm) := rfl
theorem Length.fadd (d : BitVec 5) (a : BitVec 5) (b : BitVec 5) (p : BitVec 2) : Length.Statement (.fadd d a b p) := rfl
theorem Length.fsub (d : BitVec 5) (a : BitVec 5) (b : BitVec 5) (p : BitVec 2) : Length.Statement (.fsub d a b p) := rfl
theorem Length.fmul (d : BitVec 5) (a : BitVec 5) (b : BitVec 5) (p : BitVec 2) : Length.Statement (.fmul d a b p) := rfl
theorem Length.fdiv (d : BitVec 5) (a : BitVec 5) (b : BitVec 5) (p : BitVec 2) : Length.Statement (.fdiv d a b p) := rfl
theorem Length.fsqrt (d : BitVec 5) (a : BitVec 5) (p : BitVec 2) : Length.Statement (.fsqrt d a p) := rfl
theorem Length.fmin (d : BitVec 5) (a : BitVec 5) (b : BitVec 5) (p : BitVec 2) : Length.Statement (.fmin d a b p) := rfl
theorem Length.fmax (d : BitVec 5) (a : BitVec 5) (b : BitVec 5) (p : BitVec 2) : Length.Statement (.fmax d a b p) := rfl
theorem Length.fsgnj (d : BitVec 5) (a : BitVec 5) (b : BitVec 5) (p : BitVec 2) : Length.Statement (.fsgnj d a b p) := rfl
theorem Length.fsgnjn (d : BitVec 5) (a : BitVec 5) (b : BitVec 5) (p : BitVec 2) : Length.Statement (.fsgnjn d a b p) := rfl
theorem Length.fsgnjx (d : BitVec 5) (a : BitVec 5) (b : BitVec 5) (p : BitVec 2) : Length.Statement (.fsgnjx d a b p) := rfl
theorem Length.feq (d : BitVec 5) (a : BitVec 5) (b : BitVec 5) (p : BitVec 2) : Length.Statement (.feq d a b p) := rfl
theorem Length.flt (d : BitVec 5) (a : BitVec 5) (b : BitVec 5) (p : BitVec 2) : Length.Statement (.flt d a b p) := rfl
theorem Length.fle (d : BitVec 5) (a : BitVec 5) (b : BitVec 5) (p : BitVec 2) : Length.Statement (.fle d a b p) := rfl
theorem Length.fclass (d : BitVec 5) (a : BitVec 5) (p : BitVec 2) : Length.Statement (.fclass d a p) := rfl
theorem Length.fcvtS (d : BitVec 5) (a : BitVec 5) (p : BitVec 2) : Length.Statement (.fcvtS d a p) := rfl
theorem Length.fcvtZ (d : BitVec 5) (a : BitVec 5) (p : BitVec 2) : Length.Statement (.fcvtZ d a p) := rfl
theorem Length.fcvtfS (d : BitVec 5) (a : BitVec 5) (p : BitVec 2) : Length.Statement (.fcvtfS d a p) := rfl
theorem Length.fcvtfZ (d : BitVec 5) (a : BitVec 5) (p : BitVec 2) : Length.Statement (.fcvtfZ d a p) := rfl
theorem Length.fcvtp (d : BitVec 5) (a : BitVec 5) (p : BitVec 2) : Length.Statement (.fcvtp d a p) := rfl
theorem Length.fmadd (d : BitVec 5) (a : BitVec 5) (b : BitVec 5) (p : BitVec 2) : Length.Statement (.fmadd d a b p) := rfl
theorem Length.fmsub (d : BitVec 5) (a : BitVec 5) (b : BitVec 5) (p : BitVec 2) : Length.Statement (.fmsub d a b p) := rfl
theorem Length.fnmadd (d : BitVec 5) (a : BitVec 5) (b : BitVec 5) (p : BitVec 2) : Length.Statement (.fnmadd d a b p) := rfl
theorem Length.fcvtSt (d : BitVec 5) (a : BitVec 5) (p : BitVec 2) : Length.Statement (.fcvtSt d a p) := rfl
theorem Length.faddLit (d : BitVec 5) (a : BitVec 5) (p : BitVec 2) (lit : BitVec 32) : Length.Statement (.faddLit d a p lit) := rfl
theorem Length.fsubLit (d : BitVec 5) (a : BitVec 5) (p : BitVec 2) (lit : BitVec 32) : Length.Statement (.fsubLit d a p lit) := rfl
theorem Length.fmulLit (d : BitVec 5) (a : BitVec 5) (p : BitVec 2) (lit : BitVec 32) : Length.Statement (.fmulLit d a p lit) := rfl
theorem Length.fdivLit (d : BitVec 5) (a : BitVec 5) (p : BitVec 2) (lit : BitVec 32) : Length.Statement (.fdivLit d a p lit) := rfl
theorem Length.fminLit (d : BitVec 5) (a : BitVec 5) (p : BitVec 2) (lit : BitVec 32) : Length.Statement (.fminLit d a p lit) := rfl
theorem Length.fmaxLit (d : BitVec 5) (a : BitVec 5) (p : BitVec 2) (lit : BitVec 32) : Length.Statement (.fmaxLit d a p lit) := rfl
theorem Length.fsgnjLit (d : BitVec 5) (a : BitVec 5) (p : BitVec 2) (lit : BitVec 32) : Length.Statement (.fsgnjLit d a p lit) := rfl
theorem Length.fsgnjnLit (d : BitVec 5) (a : BitVec 5) (p : BitVec 2) (lit : BitVec 32) : Length.Statement (.fsgnjnLit d a p lit) := rfl
theorem Length.fsgnjxLit (d : BitVec 5) (a : BitVec 5) (p : BitVec 2) (lit : BitVec 32) : Length.Statement (.fsgnjxLit d a p lit) := rfl
theorem Length.feqLit (d : BitVec 5) (a : BitVec 5) (p : BitVec 2) (lit : BitVec 32) : Length.Statement (.feqLit d a p lit) := rfl
theorem Length.fltLit (d : BitVec 5) (a : BitVec 5) (p : BitVec 2) (lit : BitVec 32) : Length.Statement (.fltLit d a p lit) := rfl
theorem Length.fleLit (d : BitVec 5) (a : BitVec 5) (p : BitVec 2) (lit : BitVec 32) : Length.Statement (.fleLit d a p lit) := rfl
theorem Length.fmaddLit (d : BitVec 5) (a : BitVec 5) (p : BitVec 2) (lit : BitVec 32) : Length.Statement (.fmaddLit d a p lit) := rfl
theorem Length.fmsubLit (d : BitVec 5) (a : BitVec 5) (p : BitVec 2) (lit : BitVec 32) : Length.Statement (.fmsubLit d a p lit) := rfl
theorem Length.fnmaddLit (d : BitVec 5) (a : BitVec 5) (p : BitVec 2) (lit : BitVec 32) : Length.Statement (.fnmaddLit d a p lit) := rfl
theorem Length.ld (d : BitVec 5) (a : BitVec 5) (z : BitVec 3) (q : BitVec 2) (o : BitVec 11) : Length.Statement (.ld d a z q o) := rfl
theorem Length.st (src : BitVec 5) (a : BitVec 5) (z : BitVec 2) (q : BitVec 2) (o : BitVec 12) : Length.Statement (.st src a z q o) := rfl
theorem Length.ldl (d : BitVec 5) (a : BitVec 5) (z : BitVec 3) (o : BitVec 11) : Length.Statement (.ldl d a z o) := rfl
theorem Length.stl (src : BitVec 5) (a : BitVec 5) (z : BitVec 2) (o : BitVec 12) : Length.Statement (.stl src a z o) := rfl
theorem Length.amoSwap (d : BitVec 5) (a : BitVec 5) (b : BitVec 5) (w : BitVec 1) (o : BitVec 2) (sc : BitVec 3) : Length.Statement (.amoSwap d a b w o sc) := rfl
theorem Length.amoAdd (d : BitVec 5) (a : BitVec 5) (b : BitVec 5) (w : BitVec 1) (o : BitVec 2) (sc : BitVec 3) : Length.Statement (.amoAdd d a b w o sc) := rfl
theorem Length.amoAnd (d : BitVec 5) (a : BitVec 5) (b : BitVec 5) (w : BitVec 1) (o : BitVec 2) (sc : BitVec 3) : Length.Statement (.amoAnd d a b w o sc) := rfl
theorem Length.amoOr (d : BitVec 5) (a : BitVec 5) (b : BitVec 5) (w : BitVec 1) (o : BitVec 2) (sc : BitVec 3) : Length.Statement (.amoOr d a b w o sc) := rfl
theorem Length.amoXor (d : BitVec 5) (a : BitVec 5) (b : BitVec 5) (w : BitVec 1) (o : BitVec 2) (sc : BitVec 3) : Length.Statement (.amoXor d a b w o sc) := rfl
theorem Length.amoMin (d : BitVec 5) (a : BitVec 5) (b : BitVec 5) (w : BitVec 1) (o : BitVec 2) (sc : BitVec 3) : Length.Statement (.amoMin d a b w o sc) := rfl
theorem Length.amoMax (d : BitVec 5) (a : BitVec 5) (b : BitVec 5) (w : BitVec 1) (o : BitVec 2) (sc : BitVec 3) : Length.Statement (.amoMax d a b w o sc) := rfl
theorem Length.amoMinu (d : BitVec 5) (a : BitVec 5) (b : BitVec 5) (w : BitVec 1) (o : BitVec 2) (sc : BitVec 3) : Length.Statement (.amoMinu d a b w o sc) := rfl
theorem Length.amoMaxu (d : BitVec 5) (a : BitVec 5) (b : BitVec 5) (w : BitVec 1) (o : BitVec 2) (sc : BitVec 3) : Length.Statement (.amoMaxu d a b w o sc) := rfl
theorem Length.amoCas (d : BitVec 5) (a : BitVec 5) (b : BitVec 5) (w : BitVec 1) (o : BitVec 2) (sc : BitVec 3) : Length.Statement (.amoCas d a b w o sc) := rfl
theorem Length.redAddF32 (a : BitVec 5) (b : BitVec 5) (v : BitVec 1) : Length.Statement (.redAddF32 a b v) := rfl
theorem Length.redAddBf16 (a : BitVec 5) (b : BitVec 5) (v : BitVec 1) : Length.Statement (.redAddBf16 a b v) := rfl
theorem Length.redAddS32 (a : BitVec 5) (b : BitVec 5) (v : BitVec 1) : Length.Statement (.redAddS32 a b v) := rfl
theorem Length.redAddS64 (a : BitVec 5) (b : BitVec 5) (v : BitVec 1) : Length.Statement (.redAddS64 a b v) := rfl
theorem Length.redMaxF32 (a : BitVec 5) (b : BitVec 5) (v : BitVec 1) : Length.Statement (.redMaxF32 a b v) := rfl
theorem Length.redMinF32 (a : BitVec 5) (b : BitVec 5) (v : BitVec 1) : Length.Statement (.redMinF32 a b v) := rfl
theorem Length.fence (k : BitVec 5) (sc : BitVec 5) : Length.Statement (.fence k sc) := rfl
theorem Length.sigadd (a : BitVec 5) (b : BitVec 5) : Length.Statement (.sigadd a b) := rfl
theorem Length.waitge (d : BitVec 5) (a : BitVec 5) (b : BitVec 5) : Length.Statement (.waitge d a b) := rfl
theorem Length.ctrrd (d : BitVec 5) (a : BitVec 5) : Length.Statement (.ctrrd d a) := rfl
theorem Length.rflush : Length.Statement (.rflush) := rfl
theorem Length.discard (a : BitVec 5) : Length.Statement (.discard a) := rfl
theorem Length.l1inv : Length.Statement (.l1inv) := rfl
theorem Length.beq (a : BitVec 5) (b : BitVec 5) (o : BitVec 16) : Length.Statement (.beq a b o) := rfl
theorem Length.bne (a : BitVec 5) (b : BitVec 5) (o : BitVec 16) : Length.Statement (.bne a b o) := rfl
theorem Length.blt (a : BitVec 5) (b : BitVec 5) (o : BitVec 16) : Length.Statement (.blt a b o) := rfl
theorem Length.bge (a : BitVec 5) (b : BitVec 5) (o : BitVec 16) : Length.Statement (.bge a b o) := rfl
theorem Length.bltu (a : BitVec 5) (b : BitVec 5) (o : BitVec 16) : Length.Statement (.bltu a b o) := rfl
theorem Length.bgeu (a : BitVec 5) (b : BitVec 5) (o : BitVec 16) : Length.Statement (.bgeu a b o) := rfl
theorem Length.jal (d : BitVec 5) (o : BitVec 21) : Length.Statement (.jal d o) := rfl
theorem Length.jalr (d : BitVec 5) (a : BitVec 5) (imm : BitVec 16) : Length.Statement (.jalr d a imm) := rfl
theorem Length.lspan (l : BitVec 1) (c : BitVec 1) (b : BitVec 12) (n : BitVec 12) : Length.Statement (.lspan l c b n) := rfl
theorem Length.lexit (l : BitVec 1) : Length.Statement (.lexit l) := rfl
theorem Length.ldis (l : BitVec 1) : Length.Statement (.ldis l) := rfl
theorem Length.vadd (d : BitVec 5) (a : BitVec 5) (b : BitVec 5) (m : BitVec 3) (t : BitVec 3) : Length.Statement (.vadd d a b m t) := rfl
theorem Length.vsub (d : BitVec 5) (a : BitVec 5) (b : BitVec 5) (m : BitVec 3) (t : BitVec 3) : Length.Statement (.vsub d a b m t) := rfl
theorem Length.vmul (d : BitVec 5) (a : BitVec 5) (b : BitVec 5) (m : BitVec 3) (t : BitVec 3) : Length.Statement (.vmul d a b m t) := rfl
theorem Length.vfma (d : BitVec 5) (a : BitVec 5) (b : BitVec 5) (m : BitVec 3) (t : BitVec 3) : Length.Statement (.vfma d a b m t) := rfl
theorem Length.vfms (d : BitVec 5) (a : BitVec 5) (b : BitVec 5) (m : BitVec 3) (t : BitVec 3) : Length.Statement (.vfms d a b m t) := rfl
theorem Length.vmin (d : BitVec 5) (a : BitVec 5) (b : BitVec 5) (m : BitVec 3) (t : BitVec 3) : Length.Statement (.vmin d a b m t) := rfl
theorem Length.vmax (d : BitVec 5) (a : BitVec 5) (b : BitVec 5) (m : BitVec 3) (t : BitVec 3) : Length.Statement (.vmax d a b m t) := rfl
theorem Length.vand (d : BitVec 5) (a : BitVec 5) (b : BitVec 5) (m : BitVec 3) (t : BitVec 3) : Length.Statement (.vand d a b m t) := rfl
theorem Length.vor (d : BitVec 5) (a : BitVec 5) (b : BitVec 5) (m : BitVec 3) (t : BitVec 3) : Length.Statement (.vor d a b m t) := rfl
theorem Length.vxor (d : BitVec 5) (a : BitVec 5) (b : BitVec 5) (m : BitVec 3) (t : BitVec 3) : Length.Statement (.vxor d a b m t) := rfl
theorem Length.vshl (d : BitVec 5) (a : BitVec 5) (b : BitVec 5) (m : BitVec 3) (t : BitVec 3) : Length.Statement (.vshl d a b m t) := rfl
theorem Length.vshr (d : BitVec 5) (a : BitVec 5) (b : BitVec 5) (m : BitVec 3) (t : BitVec 3) : Length.Statement (.vshr d a b m t) := rfl
theorem Length.vceq (d : BitVec 3) (a : BitVec 5) (b : BitVec 5) (m : BitVec 3) (t : BitVec 3) : Length.Statement (.vceq d a b m t) := rfl
theorem Length.vclt (d : BitVec 3) (a : BitVec 5) (b : BitVec 5) (m : BitVec 3) (t : BitVec 3) : Length.Statement (.vclt d a b m t) := rfl
theorem Length.vcle (d : BitVec 3) (a : BitVec 5) (b : BitVec 5) (m : BitVec 3) (t : BitVec 3) : Length.Statement (.vcle d a b m t) := rfl
theorem Length.vsel (d : BitVec 5) (a : BitVec 5) (b : BitVec 5) (m : BitVec 3) (t : BitVec 3) : Length.Statement (.vsel d a b m t) := rfl
theorem Length.vabs (d : BitVec 5) (a : BitVec 5) (m : BitVec 3) (t : BitVec 3) : Length.Statement (.vabs d a m t) := rfl
theorem Length.vneg (d : BitVec 5) (a : BitVec 5) (m : BitVec 3) (t : BitVec 3) : Length.Statement (.vneg d a m t) := rfl
theorem Length.vrcp (d : BitVec 5) (a : BitVec 5) (m : BitVec 3) (t : BitVec 3) : Length.Statement (.vrcp d a m t) := rfl
theorem Length.vrsq (d : BitVec 5) (a : BitVec 5) (m : BitVec 3) (t : BitVec 3) : Length.Statement (.vrsq d a m t) := rfl
theorem Length.vexp2 (d : BitVec 5) (a : BitVec 5) (m : BitVec 3) (t : BitVec 3) : Length.Statement (.vexp2 d a m t) := rfl
theorem Length.vlog2 (d : BitVec 5) (a : BitVec 5) (m : BitVec 3) (t : BitVec 3) : Length.Statement (.vlog2 d a m t) := rfl
theorem Length.vsqrt (d : BitVec 5) (a : BitVec 5) (m : BitVec 3) (t : BitVec 3) : Length.Statement (.vsqrt d a m t) := rfl
theorem Length.vdiv (d : BitVec 5) (a : BitVec 5) (b : BitVec 5) (m : BitVec 3) (t : BitVec 3) : Length.Statement (.vdiv d a b m t) := rfl
theorem Length.vaddg (d : BitVec 5) (a : BitVec 5) (b : BitVec 5) (m : BitVec 3) (t : BitVec 3) : Length.Statement (.vaddg d a b m t) := rfl
theorem Length.vmulg (d : BitVec 5) (a : BitVec 5) (b : BitVec 5) (m : BitVec 3) (t : BitVec 3) : Length.Statement (.vmulg d a b m t) := rfl
theorem Length.vfmag (d : BitVec 5) (a : BitVec 5) (b : BitVec 5) (m : BitVec 3) (t : BitVec 3) : Length.Statement (.vfmag d a b m t) := rfl
theorem Length.vming (d : BitVec 5) (a : BitVec 5) (b : BitVec 5) (m : BitVec 3) (t : BitVec 3) : Length.Statement (.vming d a b m t) := rfl
theorem Length.vmaxg (d : BitVec 5) (a : BitVec 5) (b : BitVec 5) (m : BitVec 3) (t : BitVec 3) : Length.Statement (.vmaxg d a b m t) := rfl
theorem Length.vmovg (d : BitVec 5) (b : BitVec 5) (m : BitVec 3) (t : BitVec 3) : Length.Statement (.vmovg d b m t) := rfl
theorem Length.vext (d : BitVec 5) (a : BitVec 5) (b : BitVec 5) (t : BitVec 3) : Length.Statement (.vext d a b t) := rfl
theorem Length.vins (d : BitVec 5) (a : BitVec 5) (b : BitVec 5) (t : BitVec 3) : Length.Statement (.vins d a b t) := rfl
theorem Length.vcvtBf16F32 (d : BitVec 5) (a : BitVec 5) (h : BitVec 1) (m : BitVec 3) : Length.Statement (.vcvtBf16F32 d a h m) := rfl
theorem Length.vcvtF32Bf16 (d : BitVec 5) (a : BitVec 5) (h : BitVec 1) (m : BitVec 3) : Length.Statement (.vcvtF32Bf16 d a h m) := rfl
theorem Length.vcvtF16F32 (d : BitVec 5) (a : BitVec 5) (h : BitVec 1) (m : BitVec 3) : Length.Statement (.vcvtF16F32 d a h m) := rfl
theorem Length.vcvtF32F16 (d : BitVec 5) (a : BitVec 5) (h : BitVec 1) (m : BitVec 3) : Length.Statement (.vcvtF32F16 d a h m) := rfl
theorem Length.vcvtE4m3F32 (d : BitVec 5) (a : BitVec 5) (q : BitVec 2) (m : BitVec 3) : Length.Statement (.vcvtE4m3F32 d a q m) := rfl
theorem Length.vcvtF32E4m3 (d : BitVec 5) (a : BitVec 5) (q : BitVec 2) (m : BitVec 3) : Length.Statement (.vcvtF32E4m3 d a q m) := rfl
theorem Length.vcvtE5m2F32 (d : BitVec 5) (a : BitVec 5) (q : BitVec 2) (m : BitVec 3) : Length.Statement (.vcvtE5m2F32 d a q m) := rfl
theorem Length.vcvtF32E5m2 (d : BitVec 5) (a : BitVec 5) (q : BitVec 2) (m : BitVec 3) : Length.Statement (.vcvtF32E5m2 d a q m) := rfl
theorem Length.vcvtS32F32 (d : BitVec 5) (a : BitVec 5) (m : BitVec 3) : Length.Statement (.vcvtS32F32 d a m) := rfl
theorem Length.vcvtF32S32 (d : BitVec 5) (a : BitVec 5) (m : BitVec 3) : Length.Statement (.vcvtF32S32 d a m) := rfl
theorem Length.vcvtS8S32 (d : BitVec 5) (a : BitVec 5) (q : BitVec 2) (m : BitVec 3) : Length.Statement (.vcvtS8S32 d a q m) := rfl
theorem Length.bfpenc (d : BitVec 5) (a : BitVec 5) (m : BitVec 3) (k : BitVec 3) : Length.Statement (.bfpenc d a m k) := rfl
theorem Length.bfpdec (d : BitVec 5) (a : BitVec 5) (m : BitVec 3) (k : BitVec 3) : Length.Statement (.bfpdec d a m k) := rfl
theorem Length.vldL (d : BitVec 5) (a : BitVec 5) (b : BitVec 5) (m : BitVec 3) (t : BitVec 3) : Length.Statement (.vldL d a b m t) := rfl
theorem Length.vstL (d : BitVec 5) (a : BitVec 5) (b : BitVec 5) (m : BitVec 3) (t : BitVec 3) : Length.Statement (.vstL d a b m t) := rfl
theorem Length.vldG (d : BitVec 5) (a : BitVec 5) (b : BitVec 5) (m : BitVec 3) (t : BitVec 3) : Length.Statement (.vldG d a b m t) := rfl
theorem Length.vstG (d : BitVec 5) (a : BitVec 5) (b : BitVec 5) (m : BitVec 3) (t : BitVec 3) : Length.Statement (.vstG d a b m t) := rfl
theorem Length.vlds (d : BitVec 5) (a : BitVec 5) (b : BitVec 5) (m : BitVec 3) (t : BitVec 3) : Length.Statement (.vlds d a b m t) := rfl
theorem Length.vgathL (d : BitVec 5) (a : BitVec 5) (b : BitVec 5) (m : BitVec 3) (t : BitVec 3) : Length.Statement (.vgathL d a b m t) := rfl
theorem Length.vscatL (d : BitVec 5) (a : BitVec 5) (b : BitVec 5) (m : BitVec 3) (t : BitVec 3) : Length.Statement (.vscatL d a b m t) := rfl
theorem Length.vperm (d : BitVec 5) (a : BitVec 5) (b : BitVec 5) (m : BitVec 3) (t : BitVec 3) : Length.Statement (.vperm d a b m t) := rfl
theorem Length.vredsum (d : BitVec 5) (a : BitVec 5) (m : BitVec 3) (t : BitVec 3) : Length.Statement (.vredsum d a m t) := rfl
theorem Length.vredmax (d : BitVec 5) (a : BitVec 5) (m : BitVec 3) (t : BitVec 3) : Length.Statement (.vredmax d a m t) := rfl
theorem Length.vredmin (d : BitVec 5) (a : BitVec 5) (m : BitVec 3) (t : BitVec 3) : Length.Statement (.vredmin d a m t) := rfl
theorem Length.mand (d : BitVec 3) (a : BitVec 3) (b : BitVec 3) : Length.Statement (.mand d a b) := rfl
theorem Length.mor (d : BitVec 3) (a : BitVec 3) (b : BitVec 3) : Length.Statement (.mor d a b) := rfl
theorem Length.mnot (d : BitVec 3) (a : BitVec 3) : Length.Statement (.mnot d a) := rfl
theorem Length.mpop (d : BitVec 5) (a : BitVec 3) (t : BitVec 3) : Length.Statement (.mpop d a t) := rfl
theorem Length.dual (w : BitVec 3) (p : BitVec 2) : Length.Statement (.dual w p) := rfl
theorem Length.dget (d : BitVec 5) (a : BitVec 5) (c : BitVec 1) (p : BitVec 2) : Length.Statement (.dget d a c p) := rfl
theorem Length.dset (d : BitVec 5) (a : BitVec 5) (c : BitVec 1) (p : BitVec 2) : Length.Statement (.dset d a c p) := rfl
theorem Length.dclr (d : BitVec 5) (c : BitVec 1) (p : BitVec 2) : Length.Statement (.dclr d c p) := rfl
theorem Length.dclrAll (c : BitVec 1) (p : BitVec 2) : Length.Statement (.dclrAll c p) := rfl
theorem Length.mmaBf16 (d : BitVec 5) (a : BitVec 5) (b : BitVec 5) (c : BitVec 5) (e : BitVec 2) (o : BitVec 1) : Length.Statement (.mmaBf16 d a b c e o) := rfl
theorem Length.mmaF16 (d : BitVec 5) (a : BitVec 5) (b : BitVec 5) (c : BitVec 5) (e : BitVec 2) (o : BitVec 1) : Length.Statement (.mmaF16 d a b c e o) := rfl
theorem Length.mmaE4m3 (d : BitVec 5) (a : BitVec 5) (b : BitVec 5) (c : BitVec 5) (e : BitVec 2) (o : BitVec 1) : Length.Statement (.mmaE4m3 d a b c e o) := rfl
theorem Length.mmaE5m2 (d : BitVec 5) (a : BitVec 5) (b : BitVec 5) (c : BitVec 5) (e : BitVec 2) (o : BitVec 1) : Length.Statement (.mmaE5m2 d a b c e o) := rfl
theorem Length.mmaE4e5 (d : BitVec 5) (a : BitVec 5) (b : BitVec 5) (c : BitVec 5) (e : BitVec 2) (o : BitVec 1) : Length.Statement (.mmaE4e5 d a b c e o) := rfl
theorem Length.mmaBfp (d : BitVec 5) (a : BitVec 5) (b : BitVec 5) (c : BitVec 5) (e : BitVec 2) (o : BitVec 1) (k : BitVec 3) : Length.Statement (.mmaBfp d a b c e o k) := rfl
theorem Length.mmaS8 (d : BitVec 5) (a : BitVec 5) (b : BitVec 5) (e : BitVec 2) : Length.Statement (.mmaS8 d a b e) := rfl
theorem Length.mzero (d : BitVec 5) (e : BitVec 2) (w : BitVec 1) : Length.Statement (.mzero d e w) := rfl
theorem Length.mtrn (d : BitVec 5) (a : BitVec 5) (e : BitVec 2) (w : BitVec 1) : Length.Statement (.mtrn d a e w) := rfl
theorem Length.batt (d : BitVec 5) (sl : BitVec 3) : Length.Statement (.batt d sl) := rfl
theorem Length.bdet (sl : BitVec 3) : Length.Statement (.bdet sl) := rfl
theorem Length.hover (d : BitVec 5) (a : BitVec 5) (t : BitVec 3) (sl : BitVec 3) : Length.Statement (.hover d a t sl) := rfl
theorem Length.bwait (sl : BitVec 3) : Length.Statement (.bwait sl) := rfl
theorem Length.bqry (d : BitVec 5) (sl : BitVec 3) : Length.Statement (.bqry d sl) := rfl
theorem Length.tcset (a : BitVec 5) (f : BitVec 3) (t : BitVec 2) : Length.Statement (.tcset a f t) := rfl
theorem Length.tcissue (a : BitVec 5) (t : BitVec 2) : Length.Statement (.tcissue a t) := rfl
theorem Length.tcqry (d : BitVec 5) (t : BitVec 2) : Length.Statement (.tcqry d t) := rfl
theorem Length.sopen (a : BitVec 5) (p : BitVec 2) : Length.Statement (.sopen a p) := rfl
theorem Length.ssend (a : BitVec 5) (v : BitVec 1) (p : BitVec 2) : Length.Statement (.ssend a v p) := rfl
theorem Length.sclose (p : BitVec 2) : Length.Statement (.sclose p) := rfl
theorem Length.recv (d : BitVec 5) (p : BitVec 2) : Length.Statement (.recv d p) := rfl
theorem Length.rrls (a : BitVec 5) (p : BitVec 2) : Length.Statement (.rrls a p) := rfl
theorem Length.rring (a : BitVec 5) (b : BitVec 5) (p : BitVec 2) : Length.Statement (.rring a b p) := rfl
theorem Length.barr (a : BitVec 5) (h : BitVec 3) : Length.Statement (.barr a h) := rfl
theorem Length.barw (d : BitVec 5) (h : BitVec 3) : Length.Statement (.barw d h) := rfl
theorem Length.barws (d : BitVec 5) (h : BitVec 3) : Length.Statement (.barws d h) := rfl
theorem Length.barq (d : BitVec 5) (q : BitVec 1) (h : BitVec 3) : Length.Statement (.barq d q h) := rfl
theorem Length.barl (h : BitVec 3) : Length.Statement (.barl h) := rfl
theorem Length.rtnext (d : BitVec 5) : Length.Statement (.rtnext d) := rfl
theorem Length.tspawn (d : BitVec 5) (a : BitVec 5) : Length.Statement (.tspawn d a) := rfl
theorem Length.tdone : Length.Statement (.tdone) := rfl
theorem Length.yield : Length.Statement (.yield) := rfl
theorem Length.tsync (a : BitVec 5) : Length.Statement (.tsync a) := rfl
theorem Length.ecall : Length.Statement (.ecall) := rfl
theorem Length.ebreak : Length.Statement (.ebreak) := rfl
theorem Length.eret : Length.Statement (.eret) := rfl
theorem Length.wfi : Length.Statement (.wfi) := rfl
theorem Length.tlbinv (a : BitVec 5) (sc : BitVec 3) (f : BitVec 2) : Length.Statement (.tlbinv a sc f) := rfl
theorem Length.halt : Length.Statement (.halt) := rfl
theorem Length.crd (d : BitVec 5) (imm : BitVec 10) : Length.Statement (.crd d imm) := rfl
theorem Length.cwr (a : BitVec 5) (imm : BitVec 10) : Length.Statement (.cwr a imm) := rfl
theorem Length.csetb (a : BitVec 5) (imm : BitVec 10) : Length.Statement (.csetb a imm) := rfl
theorem Length.cclrb (a : BitVec 5) (imm : BitVec 10) : Length.Statement (.cclrb a imm) := rfl
theorem Length.interruptDelivery (tk : Nat) : Length.Statement (.interruptDelivery tk) := rfl
theorem Length.resultReady (tk : Nat) : Length.Statement (.resultReady tk) := rfl
theorem Length.planeGating (tk : Nat) : Length.Statement (.planeGating tk) := rfl
theorem Length.planeWakeDone (tk : Nat) : Length.Statement (.planeWakeDone tk) := rfl
theorem Length.homeLoadServe (r : Req) : Length.Statement (.homeLoadServe r) := rfl
theorem Length.loadReply (r : Req) : Length.Statement (.loadReply r) := rfl
theorem Length.homeStoreApply (r : Req) : Length.Statement (.homeStoreApply r) := rfl
theorem Length.replicaCollapseAck (r : Req) : Length.Statement (.replicaCollapseAck r) := rfl
theorem Length.amoSliceApply (r : Req) : Length.Statement (.amoSliceApply r) := rfl
theorem Length.amoReply (r : Req) : Length.Statement (.amoReply r) := rfl
theorem Length.releasePerformed (tk : Nat) : Length.Statement (.releasePerformed tk) := rfl
theorem Length.redArrival (r : Req) : Length.Statement (.redArrival r) := rfl
theorem Length.refusalReturn (r : Req) : Length.Statement (.refusalReturn r) := rfl
theorem Length.forcedMessageApply (r : Req) : Length.Statement (.forcedMessageApply r) := rfl
theorem Length.residualAgeExpiry (core : Nat) : Length.Statement (.residualAgeExpiry core) := rfl
theorem Length.quotaWindowStart : Length.Statement (.quotaWindowStart) := rfl
theorem Length.reductionQueueDrain (slice : Nat) : Length.Statement (.reductionQueueDrain slice) := rfl
theorem Length.sigaddApply (r : Req) : Length.Statement (.sigaddApply r) := rfl
theorem Length.waitgeWake (tk : Nat) : Length.Statement (.waitgeWake tk) := rfl
theorem Length.waitgeRepoll (tk : Nat) : Length.Statement (.waitgeRepoll tk) := rfl
theorem Length.waitTimeout (tk : Nat) : Length.Statement (.waitTimeout tk) := rfl
theorem Length.energyRefill : Length.Statement (.energyRefill) := rfl
theorem Length.tensorBind (cluster : Nat) : Length.Statement (.tensorBind cluster) := rfl
theorem Length.mmaOccupancyEnd (cluster lane : Nat) : Length.Statement (.mmaOccupancyEnd cluster lane) := rfl
theorem Length.mmaRetire (cc entry : Nat) : Length.Statement (.mmaRetire cc entry) := rfl
theorem Length.copyBurstStart (cluster : Nat) : Length.Statement (.copyBurstStart cluster) := rfl
theorem Length.copyBurstComplete (cc entry burst : Nat) : Length.Statement (.copyBurstComplete cc entry burst) := rfl
theorem Length.copyRetire (cc entry : Nat) : Length.Statement (.copyRetire cc entry) := rfl
theorem Length.pageWalkDone (w : WalkReq) : Length.Statement (.pageWalkDone w) := rfl
theorem Length.bankRefillDone (cc slot : Nat) : Length.Statement (.bankRefillDone cc slot) := rfl
theorem Length.bankScrubDone (cluster bank : Nat) : Length.Statement (.bankScrubDone cluster bank) := rfl
theorem Length.battWake (tk : Nat) : Length.Statement (.battWake tk) := rfl
theorem Length.hoverTableStep (tk : Nat) : Length.Statement (.hoverTableStep tk) := rfl
theorem Length.bdetTableStep (tk : Nat) : Length.Statement (.bdetTableStep tk) := rfl
theorem Length.bwaitWake (tk : Nat) : Length.Statement (.bwaitWake tk) := rfl
theorem Length.barrierArrival (v : Arrival) : Length.Statement (.barrierArrival v) := rfl
theorem Length.barwWake (tk : Nat) : Length.Statement (.barwWake tk) := rfl
theorem Length.specCommit (tk : Nat) : Length.Statement (.specCommit tk) := rfl
theorem Length.specAbort (tk ch gen : Nat) : Length.Statement (.specAbort tk ch gen) := rfl
theorem Length.guidonArrival (f : Flit) : Length.Statement (.guidonArrival f) := rfl
theorem Length.dataFlitLand (f : Flit) : Length.Statement (.dataFlitLand f) := rfl
theorem Length.furlLand (f : Flit) : Length.Statement (.furlLand f) := rfl
theorem Length.pauseFlitLand (f : Flit) : Length.Statement (.pauseFlitLand f) := rfl
theorem Length.creditArrival (cc port n : Nat) : Length.Statement (.creditArrival cc port n) := rfl
theorem Length.routeTear (cc port : Nat) : Length.Statement (.routeTear cc port) := rfl
theorem Length.recvWake (tk : Nat) : Length.Statement (.recvWake tk) := rfl
theorem Length.hostDoorbell (fn q : Nat) (tail : BitVec 64) : Length.Statement (.hostDoorbell fn q tail) := rfl
theorem Length.admission (part : Nat) : Length.Statement (.admission part) := rfl
theorem Length.admissionWaitEnd (part : Nat) : Length.Statement (.admissionWaitEnd part) := rfl
theorem Length.taskBind (pos : Nat) : Length.Statement (.taskBind pos) := rfl
theorem Length.splitRequest (pos : Nat) : Length.Statement (.splitRequest pos) := rfl
theorem Length.splitWithdrawTimeout (part tcb : Nat) : Length.Statement (.splitWithdrawTimeout part tcb) := rfl
theorem Length.yieldPark (tk : Nat) : Length.Statement (.yieldPark tk) := rfl
theorem Length.faultQueueWrite (part : Nat) : Length.Statement (.faultQueueWrite part) := rfl
theorem Length.tsyncAck (tk : Nat) : Length.Statement (.tsyncAck tk) := rfl
theorem Length.tspawnStatus (tk : Nat) : Length.Statement (.tspawnStatus tk) := rfl
theorem Length.cnextLoad (core cid : Nat) : Length.Statement (.cnextLoad core cid) := rfl
theorem Length.cnextSwitch (core : Nat) : Length.Statement (.cnextSwitch core) := rfl
theorem Length.ipost (lines : BitVec 8) (pos cid : Nat) : Length.Statement (.ipost lines pos cid) := rfl
theorem Length.preemption (core : Nat) : Length.Statement (.preemption core) := rfl
theorem Length.contextStreamEnd (core : Nat) : Length.Statement (.contextStreamEnd core) := rfl
theorem Length.ctermGo (die cid : Nat) : Length.Statement (.ctermGo die cid) := rfl
theorem Length.terminationDone (die : Nat) : Length.Statement (.terminationDone die) := rfl
theorem Length.tlbinvAck (tk cluster : Nat) : Length.Statement (.tlbinvAck tk cluster) := rfl
theorem Length.pctlQuiesce (die : Nat) : Length.Statement (.pctlQuiesce die) := rfl
theorem Length.pctlResume (die : Nat) : Length.Statement (.pctlResume die) := rfl
theorem Length.pctlAbort (die : Nat) : Length.Statement (.pctlAbort die) := rfl
theorem Length.quiesceTimeout (part : Nat) : Length.Statement (.quiesceTimeout part) := rfl
theorem Length.quiesceDrain (part : Nat) : Length.Statement (.quiesceDrain part) := rfl
theorem Length.resumeDone (part : Nat) : Length.Statement (.resumeDone part) := rfl
theorem Length.shootGo (die : Nat) : Length.Statement (.shootGo die) := rfl
theorem Length.shootdownDone (die : Nat) : Length.Statement (.shootdownDone die) := rfl
theorem Length.registerWrite (pa : Nat) (val : BitVec 64) : Length.Statement (.registerWrite pa val) := rfl
theorem Length.hnote (cluster : Nat) (note : BitVec 14) : Length.Statement (.hnote cluster note) := rfl
theorem Length.hostBar2Write (fn off : Nat) (data : List (BitVec 8)) : Length.Statement (.hostBar2Write fn off data) := rfl
theorem Length.hostBar2Read (fn off len : Nat) : Length.Statement (.hostBar2Read fn off len) := rfl
theorem Length.atsRequest (fn : Nat) (va : BitVec 64) (write : Bool) : Length.Statement (.atsRequest fn va write) := rfl
theorem Length.ethFrameArrival (port etype : Nat) (data : List (BitVec 8)) : Length.Statement (.ethFrameArrival port etype data) := rfl
theorem Length.transportRequest (n : NetReq) : Length.Statement (.transportRequest n) := rfl
theorem Length.transportReply (n : NetReq) : Length.Statement (.transportReply n) := rfl
theorem Length.transportRetransmit (part dst seq : Nat) : Length.Statement (.transportRetransmit part dst seq) := rfl
theorem Length.nredContribution (n : NetReq) : Length.Statement (.nredContribution n) := rfl
theorem Length.nredDeadline (part tag : Nat) : Length.Statement (.nredDeadline part tag) := rfl
theorem Length.pmcOverflow (tk idx : Nat) : Length.Statement (.pmcOverflow tk idx) := rfl
theorem Length.dstopArm (ch : Nat) : Length.Statement (.dstopArm ch) := rfl
theorem Length.domainStopLand (ch : Nat) : Length.Statement (.domainStopLand ch) := rfl
theorem Length.scrubRead (e : ErrorFound) : Length.Statement (.scrubRead e) := rfl
theorem Length.parityError (e : ErrorFound) : Length.Statement (.parityError e) := rfl
theorem Length.linkFailure (die cluster : Nat) : Length.Statement (.linkFailure die cluster) := rfl
theorem Length.errorRecordFlush (die : Nat) : Length.Statement (.errorRecordFlush die) := rfl
theorem Length.machineCheck (die rec : Nat) : Length.Statement (.machineCheck die rec) := rfl
theorem Length.mcrel (die rec : Nat) : Length.Statement (.mcrel die rec) := rfl
theorem Length.powerOnReset : Length.Statement (.powerOnReset) := rfl
theorem Length.imageArrivalEth (data : Nat × List (BitVec 8)) : Length.Statement (.imageArrivalEth data) := rfl
theorem Length.imggo : Length.Statement (.imggo) := rfl
theorem Length.imageCheckDone : Length.Statement (.imageCheckDone) := rfl
theorem Length.systemCoreStart (die unit : Nat) (pc arg : BitVec 64) : Length.Statement (.systemCoreStart die unit pc arg) := rfl
theorem Length.attgo (host : Bool) (nonce : BitVec 512) : Length.Statement (.attgo host nonce) := rfl
theorem Length.attestationDone : Length.Statement (.attestationDone) := rfl
theorem Length.pm7Extend (item : List (BitVec 8)) : Length.Statement (.pm7Extend item) := rfl
theorem Length.repairListAppend (item : BitVec 64) : Length.Statement (.repairListAppend item) := rfl
theorem Length.sagDetect (die lag len : Nat) : Length.Statement (.sagDetect die lag len) := rfl
theorem Length.stretchEnd : Length.Statement (.stretchEnd) := rfl
theorem Length.coreClockCycle : Length.Statement (.coreClockCycle) := rfl
theorem Length.notAnInstruction (w : BitVec 32) : Length.Statement (.notAnInstruction w) := rfl
theorem Length.instructionFetch : Length.Statement (.instructionFetch) := rfl
theorem Length.partNboundMilvWrite (die off : Nat) (val : BitVec 64) : Length.Statement (.partNboundMilvWrite die off val) := rfl
theorem Length.msixTableWrite (fn off : Nat) (val : BitVec 64) : Length.Statement (.msixTableWrite fn off val) := rfl

end Sys2Proof.Laws
end

