-- ==== Sys2Proof/Laws/State.lean ====
section
/-! SUPPORT. What each update of the state changes, one lemma for each field and update; and reading a sparse map after a
write. -/

namespace Sys2Proof.Machine

/-! ### Sparse maps -/

@[simp] theorem mget_mset_same {α : Type} (m : AMap α) (k : Nat) (v d : α) : mget (mset m k v) k d = v := by
  induction m with
  | nil => simp [mset, mget]
  | cons p m ih =>
    obtain ⟨k', v'⟩ := p
    unfold mset
    split
    · simp [mget]
    · split
      · simp [mget]
      · rename_i h1 h2
        simp only [mget, if_neg (Ne.symm h2), if_neg h1, ih]

theorem mget_mset_ne {α : Type} (m : AMap α) {k j : Nat} (v d : α) (h : j ≠ k) : mget (mset m k v) j d = mget m j d := by
  induction m with
  | nil => simp [mset, mget, Ne.symm h]
  | cons p m ih =>
    obtain ⟨k', v'⟩ := p
    unfold mset
    split
    · simp only [mget]
      split <;> grind
    · split
      · subst_vars
        simp only [mget]
        split <;> grind
      · simp only [mget, ih]

@[simp] theorem mfind_mset_same {α : Type} (m : AMap α) (k : Nat) (v : α) : mfind (mset m k v) k = some v := by
  induction m with
  | nil => simp [mset, mfind]
  | cons p m ih =>
    obtain ⟨k', v'⟩ := p
    unfold mset
    split
    · simp [mfind]
    · split
      · simp [mfind]
      · rename_i h1 h2
        simp only [mfind, if_neg (Ne.symm h2), if_neg h1, ih]

theorem mfind_mset_ne {α : Type} (m : AMap α) {k j : Nat} (v : α) (h : j ≠ k) : mfind (mset m k v) j = mfind m j := by
  induction m with
  | nil => simp [mset, mfind, Ne.symm h]
  | cons p m ih =>
    obtain ⟨k', v'⟩ := p
    unfold mset
    split
    · simp only [mfind]
      split <;> grind
    · split
      · subst_vars
        simp only [mfind]
        split <;> grind
      · simp only [mfind, ih]

/-! ### Updates of one part -/

@[simp] theorem upT_cyc (s : State) (k : Nat) (f : TSet → TSet) : (s.upT k f).cyc = s.cyc := rfl
@[simp] theorem upT_cur (s : State) (k : Nat) (f : TSet → TSet) : (s.upT k f).cur = s.cur := rfl
@[simp] theorem upT_agenda (s : State) (k : Nat) (f : TSet → TSet) : (s.upT k f).agenda = s.agenda := rfl
@[simp] theorem upT_issueq (s : State) (k : Nat) (f : TSet → TSet) : (s.upT k f).issueq = s.issueq := rfl
@[simp] theorem upT_pend (s : State) (k : Nat) (f : TSet → TSet) : (s.upT k f).pend = s.pend := rfl
@[simp] theorem upT_here (s : State) (k : Nat) (f : TSet → TSet) : (s.upT k f).here = s.here := rfl
@[simp] theorem upT_blocked (s : State) (k : Nat) (f : TSet → TSet) : (s.upT k f).blocked = s.blocked := rfl
@[simp] theorem upT_seq (s : State) (k : Nat) (f : TSet → TSet) : (s.upT k f).seq = s.seq := rfl
@[simp] theorem upT_free (s : State) (k : Nat) (f : TSet → TSet) : (s.upT k f).free = s.free := rfl
@[simp] theorem upT_mem (s : State) (k : Nat) (f : TSet → TSet) : (s.upT k f).mem = s.mem := rfl
@[simp] theorem upT_ccs (s : State) (k : Nat) (f : TSet → TSet) : (s.upT k f).ccs = s.ccs := rfl
@[simp] theorem upT_cores (s : State) (k : Nat) (f : TSet → TSet) : (s.upT k f).cores = s.cores := rfl
@[simp] theorem upT_clusters (s : State) (k : Nat) (f : TSet → TSet) : (s.upT k f).clusters = s.clusters := rfl
@[simp] theorem upT_slices (s : State) (k : Nat) (f : TSet → TSet) : (s.upT k f).slices = s.slices := rfl
@[simp] theorem upT_reps (s : State) (k : Nat) (f : TSet → TSet) : (s.upT k f).reps = s.reps := rfl
@[simp] theorem upT_chans (s : State) (k : Nat) (f : TSet → TSet) : (s.upT k f).chans = s.chans := rfl
@[simp] theorem upT_dies (s : State) (k : Nat) (f : TSet → TSet) : (s.upT k f).dies = s.dies := rfl
@[simp] theorem upT_parts (s : State) (k : Nat) (f : TSet → TSet) : (s.upT k f).parts = s.parts := rfl
@[simp] theorem upT_ctxs (s : State) (k : Nat) (f : TSet → TSet) : (s.upT k f).ctxs = s.ctxs := rfl
@[simp] theorem upT_host (s : State) (k : Nat) (f : TSet → TSet) : (s.upT k f).host = s.host := rfl
@[simp] theorem upT_jost (s : State) (k : Nat) (f : TSet → TSet) : (s.upT k f).jost = s.jost := rfl
@[simp] theorem upT_images (s : State) (k : Nat) (f : TSet → TSet) : (s.upT k f).images = s.images := rfl
@[simp] theorem upT_stretch (s : State) (k : Nat) (f : TSet → TSet) : (s.upT k f).stretch = s.stretch := rfl
@[simp] theorem upT_sagFrom (s : State) (k : Nat) (f : TSet → TSet) : (s.upT k f).sagFrom = s.sagFrom := rfl
@[simp] theorem upT_sagTo (s : State) (k : Nat) (f : TSet → TSet) : (s.upT k f).sagTo = s.sagTo := rfl
@[simp] theorem upT_throt (s : State) (k : Nat) (f : TSet → TSet) : (s.upT k f).throt = s.throt := rfl
@[simp] theorem upT_watt (s : State) (k : Nat) (f : TSet → TSet) : (s.upT k f).watt = s.watt := rfl
@[simp] theorem upT_at_same (s : State) (k : Nat) (f : TSet → TSet) : (s.upT k f).t k = f (s.t k) := mget_mset_same ..
theorem upT_at_ne (s : State) {k j : Nat} (f : TSet → TSet) (h : j ≠ k) : (s.upT k f).t j = s.t j := mget_mset_ne _ _ _ h
@[simp] theorem upT_at_cc (s : State) (k : Nat) (f : TSet → TSet) (j : Nat) : (s.upT k f).cc j = s.cc j := rfl
@[simp] theorem upT_at_core (s : State) (k : Nat) (f : TSet → TSet) (j : Nat) : (s.upT k f).core j = s.core j := rfl
@[simp] theorem upT_at_cl (s : State) (k : Nat) (f : TSet → TSet) (j : Nat) : (s.upT k f).cl j = s.cl j := rfl
@[simp] theorem upT_at_slice (s : State) (k : Nat) (f : TSet → TSet) (j : Nat) : (s.upT k f).slice j = s.slice j := rfl
@[simp] theorem upT_at_chan (s : State) (k : Nat) (f : TSet → TSet) (j : Nat) : (s.upT k f).chan j = s.chan j := rfl
@[simp] theorem upT_at_die (s : State) (k : Nat) (f : TSet → TSet) (j : Nat) : (s.upT k f).die j = s.die j := rfl
@[simp] theorem upT_at_part (s : State) (k : Nat) (f : TSet → TSet) (j : Nat) : (s.upT k f).part j = s.part j := rfl
@[simp] theorem upT_at_ctx (s : State) (k : Nat) (f : TSet → TSet) (j : Nat) : (s.upT k f).ctx j = s.ctx j := rfl

@[simp] theorem upCC_cyc (s : State) (k : Nat) (f : CC → CC) : (s.upCC k f).cyc = s.cyc := rfl
@[simp] theorem upCC_cur (s : State) (k : Nat) (f : CC → CC) : (s.upCC k f).cur = s.cur := rfl
@[simp] theorem upCC_agenda (s : State) (k : Nat) (f : CC → CC) : (s.upCC k f).agenda = s.agenda := rfl
@[simp] theorem upCC_issueq (s : State) (k : Nat) (f : CC → CC) : (s.upCC k f).issueq = s.issueq := rfl
@[simp] theorem upCC_pend (s : State) (k : Nat) (f : CC → CC) : (s.upCC k f).pend = s.pend := rfl
@[simp] theorem upCC_here (s : State) (k : Nat) (f : CC → CC) : (s.upCC k f).here = s.here := rfl
@[simp] theorem upCC_blocked (s : State) (k : Nat) (f : CC → CC) : (s.upCC k f).blocked = s.blocked := rfl
@[simp] theorem upCC_seq (s : State) (k : Nat) (f : CC → CC) : (s.upCC k f).seq = s.seq := rfl
@[simp] theorem upCC_free (s : State) (k : Nat) (f : CC → CC) : (s.upCC k f).free = s.free := rfl
@[simp] theorem upCC_mem (s : State) (k : Nat) (f : CC → CC) : (s.upCC k f).mem = s.mem := rfl
@[simp] theorem upCC_ts (s : State) (k : Nat) (f : CC → CC) : (s.upCC k f).ts = s.ts := rfl
@[simp] theorem upCC_cores (s : State) (k : Nat) (f : CC → CC) : (s.upCC k f).cores = s.cores := rfl
@[simp] theorem upCC_clusters (s : State) (k : Nat) (f : CC → CC) : (s.upCC k f).clusters = s.clusters := rfl
@[simp] theorem upCC_slices (s : State) (k : Nat) (f : CC → CC) : (s.upCC k f).slices = s.slices := rfl
@[simp] theorem upCC_reps (s : State) (k : Nat) (f : CC → CC) : (s.upCC k f).reps = s.reps := rfl
@[simp] theorem upCC_chans (s : State) (k : Nat) (f : CC → CC) : (s.upCC k f).chans = s.chans := rfl
@[simp] theorem upCC_dies (s : State) (k : Nat) (f : CC → CC) : (s.upCC k f).dies = s.dies := rfl
@[simp] theorem upCC_parts (s : State) (k : Nat) (f : CC → CC) : (s.upCC k f).parts = s.parts := rfl
@[simp] theorem upCC_ctxs (s : State) (k : Nat) (f : CC → CC) : (s.upCC k f).ctxs = s.ctxs := rfl
@[simp] theorem upCC_host (s : State) (k : Nat) (f : CC → CC) : (s.upCC k f).host = s.host := rfl
@[simp] theorem upCC_jost (s : State) (k : Nat) (f : CC → CC) : (s.upCC k f).jost = s.jost := rfl
@[simp] theorem upCC_images (s : State) (k : Nat) (f : CC → CC) : (s.upCC k f).images = s.images := rfl
@[simp] theorem upCC_stretch (s : State) (k : Nat) (f : CC → CC) : (s.upCC k f).stretch = s.stretch := rfl
@[simp] theorem upCC_sagFrom (s : State) (k : Nat) (f : CC → CC) : (s.upCC k f).sagFrom = s.sagFrom := rfl
@[simp] theorem upCC_sagTo (s : State) (k : Nat) (f : CC → CC) : (s.upCC k f).sagTo = s.sagTo := rfl
@[simp] theorem upCC_throt (s : State) (k : Nat) (f : CC → CC) : (s.upCC k f).throt = s.throt := rfl
@[simp] theorem upCC_watt (s : State) (k : Nat) (f : CC → CC) : (s.upCC k f).watt = s.watt := rfl
@[simp] theorem upCC_at_t (s : State) (k : Nat) (f : CC → CC) (j : Nat) : (s.upCC k f).t j = s.t j := rfl
@[simp] theorem upCC_at_same (s : State) (k : Nat) (f : CC → CC) : (s.upCC k f).cc k = f (s.cc k) := mget_mset_same ..
theorem upCC_at_ne (s : State) {k j : Nat} (f : CC → CC) (h : j ≠ k) : (s.upCC k f).cc j = s.cc j := mget_mset_ne _ _ _ h
@[simp] theorem upCC_at_core (s : State) (k : Nat) (f : CC → CC) (j : Nat) : (s.upCC k f).core j = s.core j := rfl
@[simp] theorem upCC_at_cl (s : State) (k : Nat) (f : CC → CC) (j : Nat) : (s.upCC k f).cl j = s.cl j := rfl
@[simp] theorem upCC_at_slice (s : State) (k : Nat) (f : CC → CC) (j : Nat) : (s.upCC k f).slice j = s.slice j := rfl
@[simp] theorem upCC_at_chan (s : State) (k : Nat) (f : CC → CC) (j : Nat) : (s.upCC k f).chan j = s.chan j := rfl
@[simp] theorem upCC_at_die (s : State) (k : Nat) (f : CC → CC) (j : Nat) : (s.upCC k f).die j = s.die j := rfl
@[simp] theorem upCC_at_part (s : State) (k : Nat) (f : CC → CC) (j : Nat) : (s.upCC k f).part j = s.part j := rfl
@[simp] theorem upCC_at_ctx (s : State) (k : Nat) (f : CC → CC) (j : Nat) : (s.upCC k f).ctx j = s.ctx j := rfl

@[simp] theorem upCore_cyc (s : State) (k : Nat) (f : CoreSt → CoreSt) : (s.upCore k f).cyc = s.cyc := rfl
@[simp] theorem upCore_cur (s : State) (k : Nat) (f : CoreSt → CoreSt) : (s.upCore k f).cur = s.cur := rfl
@[simp] theorem upCore_agenda (s : State) (k : Nat) (f : CoreSt → CoreSt) : (s.upCore k f).agenda = s.agenda := rfl
@[simp] theorem upCore_issueq (s : State) (k : Nat) (f : CoreSt → CoreSt) : (s.upCore k f).issueq = s.issueq := rfl
@[simp] theorem upCore_pend (s : State) (k : Nat) (f : CoreSt → CoreSt) : (s.upCore k f).pend = s.pend := rfl
@[simp] theorem upCore_here (s : State) (k : Nat) (f : CoreSt → CoreSt) : (s.upCore k f).here = s.here := rfl
@[simp] theorem upCore_blocked (s : State) (k : Nat) (f : CoreSt → CoreSt) : (s.upCore k f).blocked = s.blocked := rfl
@[simp] theorem upCore_seq (s : State) (k : Nat) (f : CoreSt → CoreSt) : (s.upCore k f).seq = s.seq := rfl
@[simp] theorem upCore_free (s : State) (k : Nat) (f : CoreSt → CoreSt) : (s.upCore k f).free = s.free := rfl
@[simp] theorem upCore_mem (s : State) (k : Nat) (f : CoreSt → CoreSt) : (s.upCore k f).mem = s.mem := rfl
@[simp] theorem upCore_ts (s : State) (k : Nat) (f : CoreSt → CoreSt) : (s.upCore k f).ts = s.ts := rfl
@[simp] theorem upCore_ccs (s : State) (k : Nat) (f : CoreSt → CoreSt) : (s.upCore k f).ccs = s.ccs := rfl
@[simp] theorem upCore_clusters (s : State) (k : Nat) (f : CoreSt → CoreSt) : (s.upCore k f).clusters = s.clusters := rfl
@[simp] theorem upCore_slices (s : State) (k : Nat) (f : CoreSt → CoreSt) : (s.upCore k f).slices = s.slices := rfl
@[simp] theorem upCore_reps (s : State) (k : Nat) (f : CoreSt → CoreSt) : (s.upCore k f).reps = s.reps := rfl
@[simp] theorem upCore_chans (s : State) (k : Nat) (f : CoreSt → CoreSt) : (s.upCore k f).chans = s.chans := rfl
@[simp] theorem upCore_dies (s : State) (k : Nat) (f : CoreSt → CoreSt) : (s.upCore k f).dies = s.dies := rfl
@[simp] theorem upCore_parts (s : State) (k : Nat) (f : CoreSt → CoreSt) : (s.upCore k f).parts = s.parts := rfl
@[simp] theorem upCore_ctxs (s : State) (k : Nat) (f : CoreSt → CoreSt) : (s.upCore k f).ctxs = s.ctxs := rfl
@[simp] theorem upCore_host (s : State) (k : Nat) (f : CoreSt → CoreSt) : (s.upCore k f).host = s.host := rfl
@[simp] theorem upCore_jost (s : State) (k : Nat) (f : CoreSt → CoreSt) : (s.upCore k f).jost = s.jost := rfl
@[simp] theorem upCore_images (s : State) (k : Nat) (f : CoreSt → CoreSt) : (s.upCore k f).images = s.images := rfl
@[simp] theorem upCore_stretch (s : State) (k : Nat) (f : CoreSt → CoreSt) : (s.upCore k f).stretch = s.stretch := rfl
@[simp] theorem upCore_sagFrom (s : State) (k : Nat) (f : CoreSt → CoreSt) : (s.upCore k f).sagFrom = s.sagFrom := rfl
@[simp] theorem upCore_sagTo (s : State) (k : Nat) (f : CoreSt → CoreSt) : (s.upCore k f).sagTo = s.sagTo := rfl
@[simp] theorem upCore_throt (s : State) (k : Nat) (f : CoreSt → CoreSt) : (s.upCore k f).throt = s.throt := rfl
@[simp] theorem upCore_watt (s : State) (k : Nat) (f : CoreSt → CoreSt) : (s.upCore k f).watt = s.watt := rfl
@[simp] theorem upCore_at_t (s : State) (k : Nat) (f : CoreSt → CoreSt) (j : Nat) : (s.upCore k f).t j = s.t j := rfl
@[simp] theorem upCore_at_cc (s : State) (k : Nat) (f : CoreSt → CoreSt) (j : Nat) : (s.upCore k f).cc j = s.cc j := rfl
@[simp] theorem upCore_at_same (s : State) (k : Nat) (f : CoreSt → CoreSt) : (s.upCore k f).core k = f (s.core k) := mget_mset_same ..
theorem upCore_at_ne (s : State) {k j : Nat} (f : CoreSt → CoreSt) (h : j ≠ k) : (s.upCore k f).core j = s.core j := mget_mset_ne _ _ _ h
@[simp] theorem upCore_at_cl (s : State) (k : Nat) (f : CoreSt → CoreSt) (j : Nat) : (s.upCore k f).cl j = s.cl j := rfl
@[simp] theorem upCore_at_slice (s : State) (k : Nat) (f : CoreSt → CoreSt) (j : Nat) : (s.upCore k f).slice j = s.slice j := rfl
@[simp] theorem upCore_at_chan (s : State) (k : Nat) (f : CoreSt → CoreSt) (j : Nat) : (s.upCore k f).chan j = s.chan j := rfl
@[simp] theorem upCore_at_die (s : State) (k : Nat) (f : CoreSt → CoreSt) (j : Nat) : (s.upCore k f).die j = s.die j := rfl
@[simp] theorem upCore_at_part (s : State) (k : Nat) (f : CoreSt → CoreSt) (j : Nat) : (s.upCore k f).part j = s.part j := rfl
@[simp] theorem upCore_at_ctx (s : State) (k : Nat) (f : CoreSt → CoreSt) (j : Nat) : (s.upCore k f).ctx j = s.ctx j := rfl

@[simp] theorem upCl_cyc (s : State) (k : Nat) (f : ClusterSt → ClusterSt) : (s.upCl k f).cyc = s.cyc := rfl
@[simp] theorem upCl_cur (s : State) (k : Nat) (f : ClusterSt → ClusterSt) : (s.upCl k f).cur = s.cur := rfl
@[simp] theorem upCl_agenda (s : State) (k : Nat) (f : ClusterSt → ClusterSt) : (s.upCl k f).agenda = s.agenda := rfl
@[simp] theorem upCl_issueq (s : State) (k : Nat) (f : ClusterSt → ClusterSt) : (s.upCl k f).issueq = s.issueq := rfl
@[simp] theorem upCl_pend (s : State) (k : Nat) (f : ClusterSt → ClusterSt) : (s.upCl k f).pend = s.pend := rfl
@[simp] theorem upCl_here (s : State) (k : Nat) (f : ClusterSt → ClusterSt) : (s.upCl k f).here = s.here := rfl
@[simp] theorem upCl_blocked (s : State) (k : Nat) (f : ClusterSt → ClusterSt) : (s.upCl k f).blocked = s.blocked := rfl
@[simp] theorem upCl_seq (s : State) (k : Nat) (f : ClusterSt → ClusterSt) : (s.upCl k f).seq = s.seq := rfl
@[simp] theorem upCl_free (s : State) (k : Nat) (f : ClusterSt → ClusterSt) : (s.upCl k f).free = s.free := rfl
@[simp] theorem upCl_mem (s : State) (k : Nat) (f : ClusterSt → ClusterSt) : (s.upCl k f).mem = s.mem := rfl
@[simp] theorem upCl_ts (s : State) (k : Nat) (f : ClusterSt → ClusterSt) : (s.upCl k f).ts = s.ts := rfl
@[simp] theorem upCl_ccs (s : State) (k : Nat) (f : ClusterSt → ClusterSt) : (s.upCl k f).ccs = s.ccs := rfl
@[simp] theorem upCl_cores (s : State) (k : Nat) (f : ClusterSt → ClusterSt) : (s.upCl k f).cores = s.cores := rfl
@[simp] theorem upCl_slices (s : State) (k : Nat) (f : ClusterSt → ClusterSt) : (s.upCl k f).slices = s.slices := rfl
@[simp] theorem upCl_reps (s : State) (k : Nat) (f : ClusterSt → ClusterSt) : (s.upCl k f).reps = s.reps := rfl
@[simp] theorem upCl_chans (s : State) (k : Nat) (f : ClusterSt → ClusterSt) : (s.upCl k f).chans = s.chans := rfl
@[simp] theorem upCl_dies (s : State) (k : Nat) (f : ClusterSt → ClusterSt) : (s.upCl k f).dies = s.dies := rfl
@[simp] theorem upCl_parts (s : State) (k : Nat) (f : ClusterSt → ClusterSt) : (s.upCl k f).parts = s.parts := rfl
@[simp] theorem upCl_ctxs (s : State) (k : Nat) (f : ClusterSt → ClusterSt) : (s.upCl k f).ctxs = s.ctxs := rfl
@[simp] theorem upCl_host (s : State) (k : Nat) (f : ClusterSt → ClusterSt) : (s.upCl k f).host = s.host := rfl
@[simp] theorem upCl_jost (s : State) (k : Nat) (f : ClusterSt → ClusterSt) : (s.upCl k f).jost = s.jost := rfl
@[simp] theorem upCl_images (s : State) (k : Nat) (f : ClusterSt → ClusterSt) : (s.upCl k f).images = s.images := rfl
@[simp] theorem upCl_stretch (s : State) (k : Nat) (f : ClusterSt → ClusterSt) : (s.upCl k f).stretch = s.stretch := rfl
@[simp] theorem upCl_sagFrom (s : State) (k : Nat) (f : ClusterSt → ClusterSt) : (s.upCl k f).sagFrom = s.sagFrom := rfl
@[simp] theorem upCl_sagTo (s : State) (k : Nat) (f : ClusterSt → ClusterSt) : (s.upCl k f).sagTo = s.sagTo := rfl
@[simp] theorem upCl_throt (s : State) (k : Nat) (f : ClusterSt → ClusterSt) : (s.upCl k f).throt = s.throt := rfl
@[simp] theorem upCl_watt (s : State) (k : Nat) (f : ClusterSt → ClusterSt) : (s.upCl k f).watt = s.watt := rfl
@[simp] theorem upCl_at_t (s : State) (k : Nat) (f : ClusterSt → ClusterSt) (j : Nat) : (s.upCl k f).t j = s.t j := rfl
@[simp] theorem upCl_at_cc (s : State) (k : Nat) (f : ClusterSt → ClusterSt) (j : Nat) : (s.upCl k f).cc j = s.cc j := rfl
@[simp] theorem upCl_at_core (s : State) (k : Nat) (f : ClusterSt → ClusterSt) (j : Nat) : (s.upCl k f).core j = s.core j := rfl
@[simp] theorem upCl_at_same (s : State) (k : Nat) (f : ClusterSt → ClusterSt) : (s.upCl k f).cl k = f (s.cl k) := mget_mset_same ..
theorem upCl_at_ne (s : State) {k j : Nat} (f : ClusterSt → ClusterSt) (h : j ≠ k) : (s.upCl k f).cl j = s.cl j := mget_mset_ne _ _ _ h
@[simp] theorem upCl_at_slice (s : State) (k : Nat) (f : ClusterSt → ClusterSt) (j : Nat) : (s.upCl k f).slice j = s.slice j := rfl
@[simp] theorem upCl_at_chan (s : State) (k : Nat) (f : ClusterSt → ClusterSt) (j : Nat) : (s.upCl k f).chan j = s.chan j := rfl
@[simp] theorem upCl_at_die (s : State) (k : Nat) (f : ClusterSt → ClusterSt) (j : Nat) : (s.upCl k f).die j = s.die j := rfl
@[simp] theorem upCl_at_part (s : State) (k : Nat) (f : ClusterSt → ClusterSt) (j : Nat) : (s.upCl k f).part j = s.part j := rfl
@[simp] theorem upCl_at_ctx (s : State) (k : Nat) (f : ClusterSt → ClusterSt) (j : Nat) : (s.upCl k f).ctx j = s.ctx j := rfl

@[simp] theorem upSlice_cyc (s : State) (k : Nat) (f : SliceSt → SliceSt) : (s.upSlice k f).cyc = s.cyc := rfl
@[simp] theorem upSlice_cur (s : State) (k : Nat) (f : SliceSt → SliceSt) : (s.upSlice k f).cur = s.cur := rfl
@[simp] theorem upSlice_agenda (s : State) (k : Nat) (f : SliceSt → SliceSt) : (s.upSlice k f).agenda = s.agenda := rfl
@[simp] theorem upSlice_issueq (s : State) (k : Nat) (f : SliceSt → SliceSt) : (s.upSlice k f).issueq = s.issueq := rfl
@[simp] theorem upSlice_pend (s : State) (k : Nat) (f : SliceSt → SliceSt) : (s.upSlice k f).pend = s.pend := rfl
@[simp] theorem upSlice_here (s : State) (k : Nat) (f : SliceSt → SliceSt) : (s.upSlice k f).here = s.here := rfl
@[simp] theorem upSlice_blocked (s : State) (k : Nat) (f : SliceSt → SliceSt) : (s.upSlice k f).blocked = s.blocked := rfl
@[simp] theorem upSlice_seq (s : State) (k : Nat) (f : SliceSt → SliceSt) : (s.upSlice k f).seq = s.seq := rfl
@[simp] theorem upSlice_free (s : State) (k : Nat) (f : SliceSt → SliceSt) : (s.upSlice k f).free = s.free := rfl
@[simp] theorem upSlice_mem (s : State) (k : Nat) (f : SliceSt → SliceSt) : (s.upSlice k f).mem = s.mem := rfl
@[simp] theorem upSlice_ts (s : State) (k : Nat) (f : SliceSt → SliceSt) : (s.upSlice k f).ts = s.ts := rfl
@[simp] theorem upSlice_ccs (s : State) (k : Nat) (f : SliceSt → SliceSt) : (s.upSlice k f).ccs = s.ccs := rfl
@[simp] theorem upSlice_cores (s : State) (k : Nat) (f : SliceSt → SliceSt) : (s.upSlice k f).cores = s.cores := rfl
@[simp] theorem upSlice_clusters (s : State) (k : Nat) (f : SliceSt → SliceSt) : (s.upSlice k f).clusters = s.clusters := rfl
@[simp] theorem upSlice_reps (s : State) (k : Nat) (f : SliceSt → SliceSt) : (s.upSlice k f).reps = s.reps := rfl
@[simp] theorem upSlice_chans (s : State) (k : Nat) (f : SliceSt → SliceSt) : (s.upSlice k f).chans = s.chans := rfl
@[simp] theorem upSlice_dies (s : State) (k : Nat) (f : SliceSt → SliceSt) : (s.upSlice k f).dies = s.dies := rfl
@[simp] theorem upSlice_parts (s : State) (k : Nat) (f : SliceSt → SliceSt) : (s.upSlice k f).parts = s.parts := rfl
@[simp] theorem upSlice_ctxs (s : State) (k : Nat) (f : SliceSt → SliceSt) : (s.upSlice k f).ctxs = s.ctxs := rfl
@[simp] theorem upSlice_host (s : State) (k : Nat) (f : SliceSt → SliceSt) : (s.upSlice k f).host = s.host := rfl
@[simp] theorem upSlice_jost (s : State) (k : Nat) (f : SliceSt → SliceSt) : (s.upSlice k f).jost = s.jost := rfl
@[simp] theorem upSlice_images (s : State) (k : Nat) (f : SliceSt → SliceSt) : (s.upSlice k f).images = s.images := rfl
@[simp] theorem upSlice_stretch (s : State) (k : Nat) (f : SliceSt → SliceSt) : (s.upSlice k f).stretch = s.stretch := rfl
@[simp] theorem upSlice_sagFrom (s : State) (k : Nat) (f : SliceSt → SliceSt) : (s.upSlice k f).sagFrom = s.sagFrom := rfl
@[simp] theorem upSlice_sagTo (s : State) (k : Nat) (f : SliceSt → SliceSt) : (s.upSlice k f).sagTo = s.sagTo := rfl
@[simp] theorem upSlice_throt (s : State) (k : Nat) (f : SliceSt → SliceSt) : (s.upSlice k f).throt = s.throt := rfl
@[simp] theorem upSlice_watt (s : State) (k : Nat) (f : SliceSt → SliceSt) : (s.upSlice k f).watt = s.watt := rfl
@[simp] theorem upSlice_at_t (s : State) (k : Nat) (f : SliceSt → SliceSt) (j : Nat) : (s.upSlice k f).t j = s.t j := rfl
@[simp] theorem upSlice_at_cc (s : State) (k : Nat) (f : SliceSt → SliceSt) (j : Nat) : (s.upSlice k f).cc j = s.cc j := rfl
@[simp] theorem upSlice_at_core (s : State) (k : Nat) (f : SliceSt → SliceSt) (j : Nat) : (s.upSlice k f).core j = s.core j := rfl
@[simp] theorem upSlice_at_cl (s : State) (k : Nat) (f : SliceSt → SliceSt) (j : Nat) : (s.upSlice k f).cl j = s.cl j := rfl
@[simp] theorem upSlice_at_same (s : State) (k : Nat) (f : SliceSt → SliceSt) : (s.upSlice k f).slice k = f (s.slice k) := mget_mset_same ..
theorem upSlice_at_ne (s : State) {k j : Nat} (f : SliceSt → SliceSt) (h : j ≠ k) : (s.upSlice k f).slice j = s.slice j := mget_mset_ne _ _ _ h
@[simp] theorem upSlice_at_chan (s : State) (k : Nat) (f : SliceSt → SliceSt) (j : Nat) : (s.upSlice k f).chan j = s.chan j := rfl
@[simp] theorem upSlice_at_die (s : State) (k : Nat) (f : SliceSt → SliceSt) (j : Nat) : (s.upSlice k f).die j = s.die j := rfl
@[simp] theorem upSlice_at_part (s : State) (k : Nat) (f : SliceSt → SliceSt) (j : Nat) : (s.upSlice k f).part j = s.part j := rfl
@[simp] theorem upSlice_at_ctx (s : State) (k : Nat) (f : SliceSt → SliceSt) (j : Nat) : (s.upSlice k f).ctx j = s.ctx j := rfl

@[simp] theorem upChan_cyc (s : State) (k : Nat) (f : ChanSt → ChanSt) : (s.upChan k f).cyc = s.cyc := rfl
@[simp] theorem upChan_cur (s : State) (k : Nat) (f : ChanSt → ChanSt) : (s.upChan k f).cur = s.cur := rfl
@[simp] theorem upChan_agenda (s : State) (k : Nat) (f : ChanSt → ChanSt) : (s.upChan k f).agenda = s.agenda := rfl
@[simp] theorem upChan_issueq (s : State) (k : Nat) (f : ChanSt → ChanSt) : (s.upChan k f).issueq = s.issueq := rfl
@[simp] theorem upChan_pend (s : State) (k : Nat) (f : ChanSt → ChanSt) : (s.upChan k f).pend = s.pend := rfl
@[simp] theorem upChan_here (s : State) (k : Nat) (f : ChanSt → ChanSt) : (s.upChan k f).here = s.here := rfl
@[simp] theorem upChan_blocked (s : State) (k : Nat) (f : ChanSt → ChanSt) : (s.upChan k f).blocked = s.blocked := rfl
@[simp] theorem upChan_seq (s : State) (k : Nat) (f : ChanSt → ChanSt) : (s.upChan k f).seq = s.seq := rfl
@[simp] theorem upChan_free (s : State) (k : Nat) (f : ChanSt → ChanSt) : (s.upChan k f).free = s.free := rfl
@[simp] theorem upChan_mem (s : State) (k : Nat) (f : ChanSt → ChanSt) : (s.upChan k f).mem = s.mem := rfl
@[simp] theorem upChan_ts (s : State) (k : Nat) (f : ChanSt → ChanSt) : (s.upChan k f).ts = s.ts := rfl
@[simp] theorem upChan_ccs (s : State) (k : Nat) (f : ChanSt → ChanSt) : (s.upChan k f).ccs = s.ccs := rfl
@[simp] theorem upChan_cores (s : State) (k : Nat) (f : ChanSt → ChanSt) : (s.upChan k f).cores = s.cores := rfl
@[simp] theorem upChan_clusters (s : State) (k : Nat) (f : ChanSt → ChanSt) : (s.upChan k f).clusters = s.clusters := rfl
@[simp] theorem upChan_slices (s : State) (k : Nat) (f : ChanSt → ChanSt) : (s.upChan k f).slices = s.slices := rfl
@[simp] theorem upChan_reps (s : State) (k : Nat) (f : ChanSt → ChanSt) : (s.upChan k f).reps = s.reps := rfl
@[simp] theorem upChan_dies (s : State) (k : Nat) (f : ChanSt → ChanSt) : (s.upChan k f).dies = s.dies := rfl
@[simp] theorem upChan_parts (s : State) (k : Nat) (f : ChanSt → ChanSt) : (s.upChan k f).parts = s.parts := rfl
@[simp] theorem upChan_ctxs (s : State) (k : Nat) (f : ChanSt → ChanSt) : (s.upChan k f).ctxs = s.ctxs := rfl
@[simp] theorem upChan_host (s : State) (k : Nat) (f : ChanSt → ChanSt) : (s.upChan k f).host = s.host := rfl
@[simp] theorem upChan_jost (s : State) (k : Nat) (f : ChanSt → ChanSt) : (s.upChan k f).jost = s.jost := rfl
@[simp] theorem upChan_images (s : State) (k : Nat) (f : ChanSt → ChanSt) : (s.upChan k f).images = s.images := rfl
@[simp] theorem upChan_stretch (s : State) (k : Nat) (f : ChanSt → ChanSt) : (s.upChan k f).stretch = s.stretch := rfl
@[simp] theorem upChan_sagFrom (s : State) (k : Nat) (f : ChanSt → ChanSt) : (s.upChan k f).sagFrom = s.sagFrom := rfl
@[simp] theorem upChan_sagTo (s : State) (k : Nat) (f : ChanSt → ChanSt) : (s.upChan k f).sagTo = s.sagTo := rfl
@[simp] theorem upChan_throt (s : State) (k : Nat) (f : ChanSt → ChanSt) : (s.upChan k f).throt = s.throt := rfl
@[simp] theorem upChan_watt (s : State) (k : Nat) (f : ChanSt → ChanSt) : (s.upChan k f).watt = s.watt := rfl
@[simp] theorem upChan_at_t (s : State) (k : Nat) (f : ChanSt → ChanSt) (j : Nat) : (s.upChan k f).t j = s.t j := rfl
@[simp] theorem upChan_at_cc (s : State) (k : Nat) (f : ChanSt → ChanSt) (j : Nat) : (s.upChan k f).cc j = s.cc j := rfl
@[simp] theorem upChan_at_core (s : State) (k : Nat) (f : ChanSt → ChanSt) (j : Nat) : (s.upChan k f).core j = s.core j := rfl
@[simp] theorem upChan_at_cl (s : State) (k : Nat) (f : ChanSt → ChanSt) (j : Nat) : (s.upChan k f).cl j = s.cl j := rfl
@[simp] theorem upChan_at_slice (s : State) (k : Nat) (f : ChanSt → ChanSt) (j : Nat) : (s.upChan k f).slice j = s.slice j := rfl
@[simp] theorem upChan_at_same (s : State) (k : Nat) (f : ChanSt → ChanSt) : (s.upChan k f).chan k = f (s.chan k) := mget_mset_same ..
theorem upChan_at_ne (s : State) {k j : Nat} (f : ChanSt → ChanSt) (h : j ≠ k) : (s.upChan k f).chan j = s.chan j := mget_mset_ne _ _ _ h
@[simp] theorem upChan_at_die (s : State) (k : Nat) (f : ChanSt → ChanSt) (j : Nat) : (s.upChan k f).die j = s.die j := rfl
@[simp] theorem upChan_at_part (s : State) (k : Nat) (f : ChanSt → ChanSt) (j : Nat) : (s.upChan k f).part j = s.part j := rfl
@[simp] theorem upChan_at_ctx (s : State) (k : Nat) (f : ChanSt → ChanSt) (j : Nat) : (s.upChan k f).ctx j = s.ctx j := rfl

@[simp] theorem upDie_cyc (s : State) (k : Nat) (f : DieSt → DieSt) : (s.upDie k f).cyc = s.cyc := rfl
@[simp] theorem upDie_cur (s : State) (k : Nat) (f : DieSt → DieSt) : (s.upDie k f).cur = s.cur := rfl
@[simp] theorem upDie_agenda (s : State) (k : Nat) (f : DieSt → DieSt) : (s.upDie k f).agenda = s.agenda := rfl
@[simp] theorem upDie_issueq (s : State) (k : Nat) (f : DieSt → DieSt) : (s.upDie k f).issueq = s.issueq := rfl
@[simp] theorem upDie_pend (s : State) (k : Nat) (f : DieSt → DieSt) : (s.upDie k f).pend = s.pend := rfl
@[simp] theorem upDie_here (s : State) (k : Nat) (f : DieSt → DieSt) : (s.upDie k f).here = s.here := rfl
@[simp] theorem upDie_blocked (s : State) (k : Nat) (f : DieSt → DieSt) : (s.upDie k f).blocked = s.blocked := rfl
@[simp] theorem upDie_seq (s : State) (k : Nat) (f : DieSt → DieSt) : (s.upDie k f).seq = s.seq := rfl
@[simp] theorem upDie_free (s : State) (k : Nat) (f : DieSt → DieSt) : (s.upDie k f).free = s.free := rfl
@[simp] theorem upDie_mem (s : State) (k : Nat) (f : DieSt → DieSt) : (s.upDie k f).mem = s.mem := rfl
@[simp] theorem upDie_ts (s : State) (k : Nat) (f : DieSt → DieSt) : (s.upDie k f).ts = s.ts := rfl
@[simp] theorem upDie_ccs (s : State) (k : Nat) (f : DieSt → DieSt) : (s.upDie k f).ccs = s.ccs := rfl
@[simp] theorem upDie_cores (s : State) (k : Nat) (f : DieSt → DieSt) : (s.upDie k f).cores = s.cores := rfl
@[simp] theorem upDie_clusters (s : State) (k : Nat) (f : DieSt → DieSt) : (s.upDie k f).clusters = s.clusters := rfl
@[simp] theorem upDie_slices (s : State) (k : Nat) (f : DieSt → DieSt) : (s.upDie k f).slices = s.slices := rfl
@[simp] theorem upDie_reps (s : State) (k : Nat) (f : DieSt → DieSt) : (s.upDie k f).reps = s.reps := rfl
@[simp] theorem upDie_chans (s : State) (k : Nat) (f : DieSt → DieSt) : (s.upDie k f).chans = s.chans := rfl
@[simp] theorem upDie_parts (s : State) (k : Nat) (f : DieSt → DieSt) : (s.upDie k f).parts = s.parts := rfl
@[simp] theorem upDie_ctxs (s : State) (k : Nat) (f : DieSt → DieSt) : (s.upDie k f).ctxs = s.ctxs := rfl
@[simp] theorem upDie_host (s : State) (k : Nat) (f : DieSt → DieSt) : (s.upDie k f).host = s.host := rfl
@[simp] theorem upDie_jost (s : State) (k : Nat) (f : DieSt → DieSt) : (s.upDie k f).jost = s.jost := rfl
@[simp] theorem upDie_images (s : State) (k : Nat) (f : DieSt → DieSt) : (s.upDie k f).images = s.images := rfl
@[simp] theorem upDie_stretch (s : State) (k : Nat) (f : DieSt → DieSt) : (s.upDie k f).stretch = s.stretch := rfl
@[simp] theorem upDie_sagFrom (s : State) (k : Nat) (f : DieSt → DieSt) : (s.upDie k f).sagFrom = s.sagFrom := rfl
@[simp] theorem upDie_sagTo (s : State) (k : Nat) (f : DieSt → DieSt) : (s.upDie k f).sagTo = s.sagTo := rfl
@[simp] theorem upDie_throt (s : State) (k : Nat) (f : DieSt → DieSt) : (s.upDie k f).throt = s.throt := rfl
@[simp] theorem upDie_watt (s : State) (k : Nat) (f : DieSt → DieSt) : (s.upDie k f).watt = s.watt := rfl
@[simp] theorem upDie_at_t (s : State) (k : Nat) (f : DieSt → DieSt) (j : Nat) : (s.upDie k f).t j = s.t j := rfl
@[simp] theorem upDie_at_cc (s : State) (k : Nat) (f : DieSt → DieSt) (j : Nat) : (s.upDie k f).cc j = s.cc j := rfl
@[simp] theorem upDie_at_core (s : State) (k : Nat) (f : DieSt → DieSt) (j : Nat) : (s.upDie k f).core j = s.core j := rfl
@[simp] theorem upDie_at_cl (s : State) (k : Nat) (f : DieSt → DieSt) (j : Nat) : (s.upDie k f).cl j = s.cl j := rfl
@[simp] theorem upDie_at_slice (s : State) (k : Nat) (f : DieSt → DieSt) (j : Nat) : (s.upDie k f).slice j = s.slice j := rfl
@[simp] theorem upDie_at_chan (s : State) (k : Nat) (f : DieSt → DieSt) (j : Nat) : (s.upDie k f).chan j = s.chan j := rfl
@[simp] theorem upDie_at_same (s : State) (k : Nat) (f : DieSt → DieSt) : (s.upDie k f).die k = f (s.die k) := mget_mset_same ..
theorem upDie_at_ne (s : State) {k j : Nat} (f : DieSt → DieSt) (h : j ≠ k) : (s.upDie k f).die j = s.die j := mget_mset_ne _ _ _ h
@[simp] theorem upDie_at_part (s : State) (k : Nat) (f : DieSt → DieSt) (j : Nat) : (s.upDie k f).part j = s.part j := rfl
@[simp] theorem upDie_at_ctx (s : State) (k : Nat) (f : DieSt → DieSt) (j : Nat) : (s.upDie k f).ctx j = s.ctx j := rfl

@[simp] theorem upPart_cyc (s : State) (k : Nat) (f : PartSt → PartSt) : (s.upPart k f).cyc = s.cyc := rfl
@[simp] theorem upPart_cur (s : State) (k : Nat) (f : PartSt → PartSt) : (s.upPart k f).cur = s.cur := rfl
@[simp] theorem upPart_agenda (s : State) (k : Nat) (f : PartSt → PartSt) : (s.upPart k f).agenda = s.agenda := rfl
@[simp] theorem upPart_issueq (s : State) (k : Nat) (f : PartSt → PartSt) : (s.upPart k f).issueq = s.issueq := rfl
@[simp] theorem upPart_pend (s : State) (k : Nat) (f : PartSt → PartSt) : (s.upPart k f).pend = s.pend := rfl
@[simp] theorem upPart_here (s : State) (k : Nat) (f : PartSt → PartSt) : (s.upPart k f).here = s.here := rfl
@[simp] theorem upPart_blocked (s : State) (k : Nat) (f : PartSt → PartSt) : (s.upPart k f).blocked = s.blocked := rfl
@[simp] theorem upPart_seq (s : State) (k : Nat) (f : PartSt → PartSt) : (s.upPart k f).seq = s.seq := rfl
@[simp] theorem upPart_free (s : State) (k : Nat) (f : PartSt → PartSt) : (s.upPart k f).free = s.free := rfl
@[simp] theorem upPart_mem (s : State) (k : Nat) (f : PartSt → PartSt) : (s.upPart k f).mem = s.mem := rfl
@[simp] theorem upPart_ts (s : State) (k : Nat) (f : PartSt → PartSt) : (s.upPart k f).ts = s.ts := rfl
@[simp] theorem upPart_ccs (s : State) (k : Nat) (f : PartSt → PartSt) : (s.upPart k f).ccs = s.ccs := rfl
@[simp] theorem upPart_cores (s : State) (k : Nat) (f : PartSt → PartSt) : (s.upPart k f).cores = s.cores := rfl
@[simp] theorem upPart_clusters (s : State) (k : Nat) (f : PartSt → PartSt) : (s.upPart k f).clusters = s.clusters := rfl
@[simp] theorem upPart_slices (s : State) (k : Nat) (f : PartSt → PartSt) : (s.upPart k f).slices = s.slices := rfl
@[simp] theorem upPart_reps (s : State) (k : Nat) (f : PartSt → PartSt) : (s.upPart k f).reps = s.reps := rfl
@[simp] theorem upPart_chans (s : State) (k : Nat) (f : PartSt → PartSt) : (s.upPart k f).chans = s.chans := rfl
@[simp] theorem upPart_dies (s : State) (k : Nat) (f : PartSt → PartSt) : (s.upPart k f).dies = s.dies := rfl
@[simp] theorem upPart_ctxs (s : State) (k : Nat) (f : PartSt → PartSt) : (s.upPart k f).ctxs = s.ctxs := rfl
@[simp] theorem upPart_host (s : State) (k : Nat) (f : PartSt → PartSt) : (s.upPart k f).host = s.host := rfl
@[simp] theorem upPart_jost (s : State) (k : Nat) (f : PartSt → PartSt) : (s.upPart k f).jost = s.jost := rfl
@[simp] theorem upPart_images (s : State) (k : Nat) (f : PartSt → PartSt) : (s.upPart k f).images = s.images := rfl
@[simp] theorem upPart_stretch (s : State) (k : Nat) (f : PartSt → PartSt) : (s.upPart k f).stretch = s.stretch := rfl
@[simp] theorem upPart_sagFrom (s : State) (k : Nat) (f : PartSt → PartSt) : (s.upPart k f).sagFrom = s.sagFrom := rfl
@[simp] theorem upPart_sagTo (s : State) (k : Nat) (f : PartSt → PartSt) : (s.upPart k f).sagTo = s.sagTo := rfl
@[simp] theorem upPart_throt (s : State) (k : Nat) (f : PartSt → PartSt) : (s.upPart k f).throt = s.throt := rfl
@[simp] theorem upPart_watt (s : State) (k : Nat) (f : PartSt → PartSt) : (s.upPart k f).watt = s.watt := rfl
@[simp] theorem upPart_at_t (s : State) (k : Nat) (f : PartSt → PartSt) (j : Nat) : (s.upPart k f).t j = s.t j := rfl
@[simp] theorem upPart_at_cc (s : State) (k : Nat) (f : PartSt → PartSt) (j : Nat) : (s.upPart k f).cc j = s.cc j := rfl
@[simp] theorem upPart_at_core (s : State) (k : Nat) (f : PartSt → PartSt) (j : Nat) : (s.upPart k f).core j = s.core j := rfl
@[simp] theorem upPart_at_cl (s : State) (k : Nat) (f : PartSt → PartSt) (j : Nat) : (s.upPart k f).cl j = s.cl j := rfl
@[simp] theorem upPart_at_slice (s : State) (k : Nat) (f : PartSt → PartSt) (j : Nat) : (s.upPart k f).slice j = s.slice j := rfl
@[simp] theorem upPart_at_chan (s : State) (k : Nat) (f : PartSt → PartSt) (j : Nat) : (s.upPart k f).chan j = s.chan j := rfl
@[simp] theorem upPart_at_die (s : State) (k : Nat) (f : PartSt → PartSt) (j : Nat) : (s.upPart k f).die j = s.die j := rfl
@[simp] theorem upPart_at_same (s : State) (k : Nat) (f : PartSt → PartSt) : (s.upPart k f).part k = f (s.part k) := mget_mset_same ..
theorem upPart_at_ne (s : State) {k j : Nat} (f : PartSt → PartSt) (h : j ≠ k) : (s.upPart k f).part j = s.part j := mget_mset_ne _ _ _ h
@[simp] theorem upPart_at_ctx (s : State) (k : Nat) (f : PartSt → PartSt) (j : Nat) : (s.upPart k f).ctx j = s.ctx j := rfl

@[simp] theorem upCtx_cyc (s : State) (k : Nat) (f : Ctx → Ctx) : (s.upCtx k f).cyc = s.cyc := rfl
@[simp] theorem upCtx_cur (s : State) (k : Nat) (f : Ctx → Ctx) : (s.upCtx k f).cur = s.cur := rfl
@[simp] theorem upCtx_agenda (s : State) (k : Nat) (f : Ctx → Ctx) : (s.upCtx k f).agenda = s.agenda := rfl
@[simp] theorem upCtx_issueq (s : State) (k : Nat) (f : Ctx → Ctx) : (s.upCtx k f).issueq = s.issueq := rfl
@[simp] theorem upCtx_pend (s : State) (k : Nat) (f : Ctx → Ctx) : (s.upCtx k f).pend = s.pend := rfl
@[simp] theorem upCtx_here (s : State) (k : Nat) (f : Ctx → Ctx) : (s.upCtx k f).here = s.here := rfl
@[simp] theorem upCtx_blocked (s : State) (k : Nat) (f : Ctx → Ctx) : (s.upCtx k f).blocked = s.blocked := rfl
@[simp] theorem upCtx_seq (s : State) (k : Nat) (f : Ctx → Ctx) : (s.upCtx k f).seq = s.seq := rfl
@[simp] theorem upCtx_free (s : State) (k : Nat) (f : Ctx → Ctx) : (s.upCtx k f).free = s.free := rfl
@[simp] theorem upCtx_mem (s : State) (k : Nat) (f : Ctx → Ctx) : (s.upCtx k f).mem = s.mem := rfl
@[simp] theorem upCtx_ts (s : State) (k : Nat) (f : Ctx → Ctx) : (s.upCtx k f).ts = s.ts := rfl
@[simp] theorem upCtx_ccs (s : State) (k : Nat) (f : Ctx → Ctx) : (s.upCtx k f).ccs = s.ccs := rfl
@[simp] theorem upCtx_cores (s : State) (k : Nat) (f : Ctx → Ctx) : (s.upCtx k f).cores = s.cores := rfl
@[simp] theorem upCtx_clusters (s : State) (k : Nat) (f : Ctx → Ctx) : (s.upCtx k f).clusters = s.clusters := rfl
@[simp] theorem upCtx_slices (s : State) (k : Nat) (f : Ctx → Ctx) : (s.upCtx k f).slices = s.slices := rfl
@[simp] theorem upCtx_reps (s : State) (k : Nat) (f : Ctx → Ctx) : (s.upCtx k f).reps = s.reps := rfl
@[simp] theorem upCtx_chans (s : State) (k : Nat) (f : Ctx → Ctx) : (s.upCtx k f).chans = s.chans := rfl
@[simp] theorem upCtx_dies (s : State) (k : Nat) (f : Ctx → Ctx) : (s.upCtx k f).dies = s.dies := rfl
@[simp] theorem upCtx_parts (s : State) (k : Nat) (f : Ctx → Ctx) : (s.upCtx k f).parts = s.parts := rfl
@[simp] theorem upCtx_host (s : State) (k : Nat) (f : Ctx → Ctx) : (s.upCtx k f).host = s.host := rfl
@[simp] theorem upCtx_jost (s : State) (k : Nat) (f : Ctx → Ctx) : (s.upCtx k f).jost = s.jost := rfl
@[simp] theorem upCtx_images (s : State) (k : Nat) (f : Ctx → Ctx) : (s.upCtx k f).images = s.images := rfl
@[simp] theorem upCtx_stretch (s : State) (k : Nat) (f : Ctx → Ctx) : (s.upCtx k f).stretch = s.stretch := rfl
@[simp] theorem upCtx_sagFrom (s : State) (k : Nat) (f : Ctx → Ctx) : (s.upCtx k f).sagFrom = s.sagFrom := rfl
@[simp] theorem upCtx_sagTo (s : State) (k : Nat) (f : Ctx → Ctx) : (s.upCtx k f).sagTo = s.sagTo := rfl
@[simp] theorem upCtx_throt (s : State) (k : Nat) (f : Ctx → Ctx) : (s.upCtx k f).throt = s.throt := rfl
@[simp] theorem upCtx_watt (s : State) (k : Nat) (f : Ctx → Ctx) : (s.upCtx k f).watt = s.watt := rfl
@[simp] theorem upCtx_at_t (s : State) (k : Nat) (f : Ctx → Ctx) (j : Nat) : (s.upCtx k f).t j = s.t j := rfl
@[simp] theorem upCtx_at_cc (s : State) (k : Nat) (f : Ctx → Ctx) (j : Nat) : (s.upCtx k f).cc j = s.cc j := rfl
@[simp] theorem upCtx_at_core (s : State) (k : Nat) (f : Ctx → Ctx) (j : Nat) : (s.upCtx k f).core j = s.core j := rfl
@[simp] theorem upCtx_at_cl (s : State) (k : Nat) (f : Ctx → Ctx) (j : Nat) : (s.upCtx k f).cl j = s.cl j := rfl
@[simp] theorem upCtx_at_slice (s : State) (k : Nat) (f : Ctx → Ctx) (j : Nat) : (s.upCtx k f).slice j = s.slice j := rfl
@[simp] theorem upCtx_at_chan (s : State) (k : Nat) (f : Ctx → Ctx) (j : Nat) : (s.upCtx k f).chan j = s.chan j := rfl
@[simp] theorem upCtx_at_die (s : State) (k : Nat) (f : Ctx → Ctx) (j : Nat) : (s.upCtx k f).die j = s.die j := rfl
@[simp] theorem upCtx_at_part (s : State) (k : Nat) (f : Ctx → Ctx) (j : Nat) : (s.upCtx k f).part j = s.part j := rfl
@[simp] theorem upCtx_at_same (s : State) (k : Nat) (f : Ctx → Ctx) : (s.upCtx k f).ctx k = f (s.ctx k) := mget_mset_same ..
theorem upCtx_at_ne (s : State) {k j : Nat} (f : Ctx → Ctx) (h : j ≠ k) : (s.upCtx k f).ctx j = s.ctx j := mget_mset_ne _ _ _ h

/-! ### The current thread set -/

@[simp] theorem upMe_cyc (s : State) (f : TSet → TSet) : (s.upMe f).cyc = s.cyc := rfl
@[simp] theorem upA_cyc (s : State) (f : Arch → Arch) : (s.upA f).cyc = s.cyc := rfl
@[simp] theorem upMe_cur (s : State) (f : TSet → TSet) : (s.upMe f).cur = s.cur := rfl
@[simp] theorem upA_cur (s : State) (f : Arch → Arch) : (s.upA f).cur = s.cur := rfl
@[simp] theorem upMe_agenda (s : State) (f : TSet → TSet) : (s.upMe f).agenda = s.agenda := rfl
@[simp] theorem upA_agenda (s : State) (f : Arch → Arch) : (s.upA f).agenda = s.agenda := rfl
@[simp] theorem upMe_issueq (s : State) (f : TSet → TSet) : (s.upMe f).issueq = s.issueq := rfl
@[simp] theorem upA_issueq (s : State) (f : Arch → Arch) : (s.upA f).issueq = s.issueq := rfl
@[simp] theorem upMe_pend (s : State) (f : TSet → TSet) : (s.upMe f).pend = s.pend := rfl
@[simp] theorem upA_pend (s : State) (f : Arch → Arch) : (s.upA f).pend = s.pend := rfl
@[simp] theorem upMe_here (s : State) (f : TSet → TSet) : (s.upMe f).here = s.here := rfl
@[simp] theorem upMe_blocked (s : State) (f : TSet → TSet) : (s.upMe f).blocked = s.blocked := rfl
@[simp] theorem upA_here (s : State) (f : Arch → Arch) : (s.upA f).here = s.here := rfl
@[simp] theorem upA_blocked (s : State) (f : Arch → Arch) : (s.upA f).blocked = s.blocked := rfl
@[simp] theorem upMe_seq (s : State) (f : TSet → TSet) : (s.upMe f).seq = s.seq := rfl
@[simp] theorem upA_seq (s : State) (f : Arch → Arch) : (s.upA f).seq = s.seq := rfl
@[simp] theorem upMe_free (s : State) (f : TSet → TSet) : (s.upMe f).free = s.free := rfl
@[simp] theorem upA_free (s : State) (f : Arch → Arch) : (s.upA f).free = s.free := rfl
@[simp] theorem upMe_mem (s : State) (f : TSet → TSet) : (s.upMe f).mem = s.mem := rfl
@[simp] theorem upA_mem (s : State) (f : Arch → Arch) : (s.upA f).mem = s.mem := rfl
@[simp] theorem upMe_ccs (s : State) (f : TSet → TSet) : (s.upMe f).ccs = s.ccs := rfl
@[simp] theorem upA_ccs (s : State) (f : Arch → Arch) : (s.upA f).ccs = s.ccs := rfl
@[simp] theorem upMe_cores (s : State) (f : TSet → TSet) : (s.upMe f).cores = s.cores := rfl
@[simp] theorem upA_cores (s : State) (f : Arch → Arch) : (s.upA f).cores = s.cores := rfl
@[simp] theorem upMe_clusters (s : State) (f : TSet → TSet) : (s.upMe f).clusters = s.clusters := rfl
@[simp] theorem upA_clusters (s : State) (f : Arch → Arch) : (s.upA f).clusters = s.clusters := rfl
@[simp] theorem upMe_slices (s : State) (f : TSet → TSet) : (s.upMe f).slices = s.slices := rfl
@[simp] theorem upA_slices (s : State) (f : Arch → Arch) : (s.upA f).slices = s.slices := rfl
@[simp] theorem upMe_reps (s : State) (f : TSet → TSet) : (s.upMe f).reps = s.reps := rfl
@[simp] theorem upA_reps (s : State) (f : Arch → Arch) : (s.upA f).reps = s.reps := rfl
@[simp] theorem upMe_chans (s : State) (f : TSet → TSet) : (s.upMe f).chans = s.chans := rfl
@[simp] theorem upA_chans (s : State) (f : Arch → Arch) : (s.upA f).chans = s.chans := rfl
@[simp] theorem upMe_dies (s : State) (f : TSet → TSet) : (s.upMe f).dies = s.dies := rfl
@[simp] theorem upA_dies (s : State) (f : Arch → Arch) : (s.upA f).dies = s.dies := rfl
@[simp] theorem upMe_parts (s : State) (f : TSet → TSet) : (s.upMe f).parts = s.parts := rfl
@[simp] theorem upA_parts (s : State) (f : Arch → Arch) : (s.upA f).parts = s.parts := rfl
@[simp] theorem upMe_ctxs (s : State) (f : TSet → TSet) : (s.upMe f).ctxs = s.ctxs := rfl
@[simp] theorem upA_ctxs (s : State) (f : Arch → Arch) : (s.upA f).ctxs = s.ctxs := rfl
@[simp] theorem upMe_host (s : State) (f : TSet → TSet) : (s.upMe f).host = s.host := rfl
@[simp] theorem upA_host (s : State) (f : Arch → Arch) : (s.upA f).host = s.host := rfl
@[simp] theorem upMe_jost (s : State) (f : TSet → TSet) : (s.upMe f).jost = s.jost := rfl
@[simp] theorem upA_jost (s : State) (f : Arch → Arch) : (s.upA f).jost = s.jost := rfl
@[simp] theorem upMe_images (s : State) (f : TSet → TSet) : (s.upMe f).images = s.images := rfl
@[simp] theorem upA_images (s : State) (f : Arch → Arch) : (s.upA f).images = s.images := rfl
@[simp] theorem upMe_stretch (s : State) (f : TSet → TSet) : (s.upMe f).stretch = s.stretch := rfl
@[simp] theorem upA_stretch (s : State) (f : Arch → Arch) : (s.upA f).stretch = s.stretch := rfl
@[simp] theorem upMe_sagFrom (s : State) (f : TSet → TSet) : (s.upMe f).sagFrom = s.sagFrom := rfl
@[simp] theorem upA_sagFrom (s : State) (f : Arch → Arch) : (s.upA f).sagFrom = s.sagFrom := rfl
@[simp] theorem upMe_sagTo (s : State) (f : TSet → TSet) : (s.upMe f).sagTo = s.sagTo := rfl
@[simp] theorem upA_sagTo (s : State) (f : Arch → Arch) : (s.upA f).sagTo = s.sagTo := rfl
@[simp] theorem upMe_throt (s : State) (f : TSet → TSet) : (s.upMe f).throt = s.throt := rfl
@[simp] theorem upA_throt (s : State) (f : Arch → Arch) : (s.upA f).throt = s.throt := rfl
@[simp] theorem upMe_watt (s : State) (f : TSet → TSet) : (s.upMe f).watt = s.watt := rfl
@[simp] theorem upA_watt (s : State) (f : Arch → Arch) : (s.upA f).watt = s.watt := rfl
@[simp] theorem upMe_at_cc (s : State) (f : TSet → TSet) (j : Nat) : (s.upMe f).cc j = s.cc j := rfl
@[simp] theorem upA_at_cc (s : State) (f : Arch → Arch) (j : Nat) : (s.upA f).cc j = s.cc j := rfl
@[simp] theorem upMe_at_core (s : State) (f : TSet → TSet) (j : Nat) : (s.upMe f).core j = s.core j := rfl
@[simp] theorem upA_at_core (s : State) (f : Arch → Arch) (j : Nat) : (s.upA f).core j = s.core j := rfl
@[simp] theorem upMe_at_cl (s : State) (f : TSet → TSet) (j : Nat) : (s.upMe f).cl j = s.cl j := rfl
@[simp] theorem upA_at_cl (s : State) (f : Arch → Arch) (j : Nat) : (s.upA f).cl j = s.cl j := rfl
@[simp] theorem upMe_at_slice (s : State) (f : TSet → TSet) (j : Nat) : (s.upMe f).slice j = s.slice j := rfl
@[simp] theorem upA_at_slice (s : State) (f : Arch → Arch) (j : Nat) : (s.upA f).slice j = s.slice j := rfl
@[simp] theorem upMe_at_chan (s : State) (f : TSet → TSet) (j : Nat) : (s.upMe f).chan j = s.chan j := rfl
@[simp] theorem upA_at_chan (s : State) (f : Arch → Arch) (j : Nat) : (s.upA f).chan j = s.chan j := rfl
@[simp] theorem upMe_at_die (s : State) (f : TSet → TSet) (j : Nat) : (s.upMe f).die j = s.die j := rfl
@[simp] theorem upA_at_die (s : State) (f : Arch → Arch) (j : Nat) : (s.upA f).die j = s.die j := rfl
@[simp] theorem upMe_at_part (s : State) (f : TSet → TSet) (j : Nat) : (s.upMe f).part j = s.part j := rfl
@[simp] theorem upA_at_part (s : State) (f : Arch → Arch) (j : Nat) : (s.upA f).part j = s.part j := rfl
@[simp] theorem upMe_at_ctx (s : State) (f : TSet → TSet) (j : Nat) : (s.upMe f).ctx j = s.ctx j := rfl
@[simp] theorem upA_at_ctx (s : State) (f : Arch → Arch) (j : Nat) : (s.upA f).ctx j = s.ctx j := rfl
@[simp] theorem upMe_me (s : State) (f : TSet → TSet) : (s.upMe f).me = f s.me := upT_at_same ..
theorem upMe_at_ne (s : State) (f : TSet → TSet) {k : Nat} (h : k ≠ s.cur) : (s.upMe f).t k = s.t k := upT_at_ne _ _ h
@[simp] theorem upA_me (s : State) (f : Arch → Arch) : (s.upA f).me = { s.me with a := f s.me.a } := upT_at_same ..
theorem upA_at_ne (s : State) (f : Arch → Arch) {k : Nat} (h : k ≠ s.cur) : (s.upA f).t k = s.t k := upT_at_ne _ _ h

/-! ### Messages -/

@[simp] theorem pushAt_cyc (s : State) (d : Nat) (e : Ev) : (s.pushAt d e).cyc = s.cyc := rfl
@[simp] theorem push_cyc (s : State) (e : Ev) : (s.push e).cyc = s.cyc := rfl
@[simp] theorem dropPend_cyc (s : State) (p : Ev → Bool) : (s.dropPend p).cyc = s.cyc := rfl
@[simp] theorem pushAt_cur (s : State) (d : Nat) (e : Ev) : (s.pushAt d e).cur = s.cur := rfl
@[simp] theorem push_cur (s : State) (e : Ev) : (s.push e).cur = s.cur := rfl
@[simp] theorem dropPend_cur (s : State) (p : Ev → Bool) : (s.dropPend p).cur = s.cur := rfl
@[simp] theorem pushAt_agenda (s : State) (d : Nat) (e : Ev) : (s.pushAt d e).agenda = s.agenda := rfl
@[simp] theorem push_agenda (s : State) (e : Ev) : (s.push e).agenda = s.agenda := rfl
@[simp] theorem dropPend_agenda (s : State) (p : Ev → Bool) : (s.dropPend p).agenda = s.agenda := rfl
@[simp] theorem pushAt_issueq (s : State) (d : Nat) (e : Ev) : (s.pushAt d e).issueq = s.issueq := rfl
@[simp] theorem push_issueq (s : State) (e : Ev) : (s.push e).issueq = s.issueq := rfl
@[simp] theorem dropPend_issueq (s : State) (p : Ev → Bool) : (s.dropPend p).issueq = s.issueq := rfl
@[simp] theorem pushAt_seq (s : State) (d : Nat) (e : Ev) : (s.pushAt d e).seq = s.seq := rfl
@[simp] theorem push_seq (s : State) (e : Ev) : (s.push e).seq = s.seq := rfl
@[simp] theorem dropPend_seq (s : State) (p : Ev → Bool) : (s.dropPend p).seq = s.seq := rfl
@[simp] theorem pushAt_free (s : State) (d : Nat) (e : Ev) : (s.pushAt d e).free = s.free := rfl
@[simp] theorem push_free (s : State) (e : Ev) : (s.push e).free = s.free := rfl
@[simp] theorem dropPend_free (s : State) (p : Ev → Bool) : (s.dropPend p).free = s.free := rfl
@[simp] theorem pushAt_mem (s : State) (d : Nat) (e : Ev) : (s.pushAt d e).mem = s.mem := rfl
@[simp] theorem push_mem (s : State) (e : Ev) : (s.push e).mem = s.mem := rfl
@[simp] theorem dropPend_mem (s : State) (p : Ev → Bool) : (s.dropPend p).mem = s.mem := rfl
@[simp] theorem pushAt_ts (s : State) (d : Nat) (e : Ev) : (s.pushAt d e).ts = s.ts := rfl
@[simp] theorem push_ts (s : State) (e : Ev) : (s.push e).ts = s.ts := rfl
@[simp] theorem dropPend_ts (s : State) (p : Ev → Bool) : (s.dropPend p).ts = s.ts := rfl
@[simp] theorem pushAt_ccs (s : State) (d : Nat) (e : Ev) : (s.pushAt d e).ccs = s.ccs := rfl
@[simp] theorem push_ccs (s : State) (e : Ev) : (s.push e).ccs = s.ccs := rfl
@[simp] theorem dropPend_ccs (s : State) (p : Ev → Bool) : (s.dropPend p).ccs = s.ccs := rfl
@[simp] theorem pushAt_cores (s : State) (d : Nat) (e : Ev) : (s.pushAt d e).cores = s.cores := rfl
@[simp] theorem push_cores (s : State) (e : Ev) : (s.push e).cores = s.cores := rfl
@[simp] theorem dropPend_cores (s : State) (p : Ev → Bool) : (s.dropPend p).cores = s.cores := rfl
@[simp] theorem pushAt_clusters (s : State) (d : Nat) (e : Ev) : (s.pushAt d e).clusters = s.clusters := rfl
@[simp] theorem push_clusters (s : State) (e : Ev) : (s.push e).clusters = s.clusters := rfl
@[simp] theorem dropPend_clusters (s : State) (p : Ev → Bool) : (s.dropPend p).clusters = s.clusters := rfl
@[simp] theorem pushAt_slices (s : State) (d : Nat) (e : Ev) : (s.pushAt d e).slices = s.slices := rfl
@[simp] theorem push_slices (s : State) (e : Ev) : (s.push e).slices = s.slices := rfl
@[simp] theorem dropPend_slices (s : State) (p : Ev → Bool) : (s.dropPend p).slices = s.slices := rfl
@[simp] theorem pushAt_reps (s : State) (d : Nat) (e : Ev) : (s.pushAt d e).reps = s.reps := rfl
@[simp] theorem push_reps (s : State) (e : Ev) : (s.push e).reps = s.reps := rfl
@[simp] theorem dropPend_reps (s : State) (p : Ev → Bool) : (s.dropPend p).reps = s.reps := rfl
@[simp] theorem pushAt_chans (s : State) (d : Nat) (e : Ev) : (s.pushAt d e).chans = s.chans := rfl
@[simp] theorem push_chans (s : State) (e : Ev) : (s.push e).chans = s.chans := rfl
@[simp] theorem dropPend_chans (s : State) (p : Ev → Bool) : (s.dropPend p).chans = s.chans := rfl
@[simp] theorem pushAt_dies (s : State) (d : Nat) (e : Ev) : (s.pushAt d e).dies = s.dies := rfl
@[simp] theorem push_dies (s : State) (e : Ev) : (s.push e).dies = s.dies := rfl
@[simp] theorem dropPend_dies (s : State) (p : Ev → Bool) : (s.dropPend p).dies = s.dies := rfl
@[simp] theorem pushAt_parts (s : State) (d : Nat) (e : Ev) : (s.pushAt d e).parts = s.parts := rfl
@[simp] theorem push_parts (s : State) (e : Ev) : (s.push e).parts = s.parts := rfl
@[simp] theorem dropPend_parts (s : State) (p : Ev → Bool) : (s.dropPend p).parts = s.parts := rfl
@[simp] theorem pushAt_ctxs (s : State) (d : Nat) (e : Ev) : (s.pushAt d e).ctxs = s.ctxs := rfl
@[simp] theorem push_ctxs (s : State) (e : Ev) : (s.push e).ctxs = s.ctxs := rfl
@[simp] theorem dropPend_ctxs (s : State) (p : Ev → Bool) : (s.dropPend p).ctxs = s.ctxs := rfl
@[simp] theorem pushAt_host (s : State) (d : Nat) (e : Ev) : (s.pushAt d e).host = s.host := rfl
@[simp] theorem push_host (s : State) (e : Ev) : (s.push e).host = s.host := rfl
@[simp] theorem dropPend_host (s : State) (p : Ev → Bool) : (s.dropPend p).host = s.host := rfl
@[simp] theorem pushAt_jost (s : State) (d : Nat) (e : Ev) : (s.pushAt d e).jost = s.jost := rfl
@[simp] theorem push_jost (s : State) (e : Ev) : (s.push e).jost = s.jost := rfl
@[simp] theorem dropPend_jost (s : State) (p : Ev → Bool) : (s.dropPend p).jost = s.jost := rfl
@[simp] theorem pushAt_images (s : State) (d : Nat) (e : Ev) : (s.pushAt d e).images = s.images := rfl
@[simp] theorem push_images (s : State) (e : Ev) : (s.push e).images = s.images := rfl
@[simp] theorem dropPend_images (s : State) (p : Ev → Bool) : (s.dropPend p).images = s.images := rfl
@[simp] theorem pushAt_stretch (s : State) (d : Nat) (e : Ev) : (s.pushAt d e).stretch = s.stretch := rfl
@[simp] theorem push_stretch (s : State) (e : Ev) : (s.push e).stretch = s.stretch := rfl
@[simp] theorem dropPend_stretch (s : State) (p : Ev → Bool) : (s.dropPend p).stretch = s.stretch := rfl
@[simp] theorem pushAt_sagFrom (s : State) (d : Nat) (e : Ev) : (s.pushAt d e).sagFrom = s.sagFrom := rfl
@[simp] theorem push_sagFrom (s : State) (e : Ev) : (s.push e).sagFrom = s.sagFrom := rfl
@[simp] theorem dropPend_sagFrom (s : State) (p : Ev → Bool) : (s.dropPend p).sagFrom = s.sagFrom := rfl
@[simp] theorem pushAt_sagTo (s : State) (d : Nat) (e : Ev) : (s.pushAt d e).sagTo = s.sagTo := rfl
@[simp] theorem push_sagTo (s : State) (e : Ev) : (s.push e).sagTo = s.sagTo := rfl
@[simp] theorem dropPend_sagTo (s : State) (p : Ev → Bool) : (s.dropPend p).sagTo = s.sagTo := rfl
@[simp] theorem pushAt_throt (s : State) (d : Nat) (e : Ev) : (s.pushAt d e).throt = s.throt := rfl
@[simp] theorem push_throt (s : State) (e : Ev) : (s.push e).throt = s.throt := rfl
@[simp] theorem dropPend_throt (s : State) (p : Ev → Bool) : (s.dropPend p).throt = s.throt := rfl
@[simp] theorem pushAt_watt (s : State) (d : Nat) (e : Ev) : (s.pushAt d e).watt = s.watt := rfl
@[simp] theorem push_watt (s : State) (e : Ev) : (s.push e).watt = s.watt := rfl
@[simp] theorem dropPend_watt (s : State) (p : Ev → Bool) : (s.dropPend p).watt = s.watt := rfl
@[simp] theorem pushAt_at_t (s : State) (d : Nat) (e : Ev) (j : Nat) : (s.pushAt d e).t j = s.t j := rfl
@[simp] theorem push_at_t (s : State) (e : Ev) (j : Nat) : (s.push e).t j = s.t j := rfl
@[simp] theorem dropPend_at_t (s : State) (p : Ev → Bool) (j : Nat) : (s.dropPend p).t j = s.t j := rfl
@[simp] theorem pushAt_at_cc (s : State) (d : Nat) (e : Ev) (j : Nat) : (s.pushAt d e).cc j = s.cc j := rfl
@[simp] theorem push_at_cc (s : State) (e : Ev) (j : Nat) : (s.push e).cc j = s.cc j := rfl
@[simp] theorem dropPend_at_cc (s : State) (p : Ev → Bool) (j : Nat) : (s.dropPend p).cc j = s.cc j := rfl
@[simp] theorem pushAt_at_core (s : State) (d : Nat) (e : Ev) (j : Nat) : (s.pushAt d e).core j = s.core j := rfl
@[simp] theorem push_at_core (s : State) (e : Ev) (j : Nat) : (s.push e).core j = s.core j := rfl
@[simp] theorem dropPend_at_core (s : State) (p : Ev → Bool) (j : Nat) : (s.dropPend p).core j = s.core j := rfl
@[simp] theorem pushAt_at_cl (s : State) (d : Nat) (e : Ev) (j : Nat) : (s.pushAt d e).cl j = s.cl j := rfl
@[simp] theorem push_at_cl (s : State) (e : Ev) (j : Nat) : (s.push e).cl j = s.cl j := rfl
@[simp] theorem dropPend_at_cl (s : State) (p : Ev → Bool) (j : Nat) : (s.dropPend p).cl j = s.cl j := rfl
@[simp] theorem pushAt_at_slice (s : State) (d : Nat) (e : Ev) (j : Nat) : (s.pushAt d e).slice j = s.slice j := rfl
@[simp] theorem push_at_slice (s : State) (e : Ev) (j : Nat) : (s.push e).slice j = s.slice j := rfl
@[simp] theorem dropPend_at_slice (s : State) (p : Ev → Bool) (j : Nat) : (s.dropPend p).slice j = s.slice j := rfl
@[simp] theorem pushAt_at_chan (s : State) (d : Nat) (e : Ev) (j : Nat) : (s.pushAt d e).chan j = s.chan j := rfl
@[simp] theorem push_at_chan (s : State) (e : Ev) (j : Nat) : (s.push e).chan j = s.chan j := rfl
@[simp] theorem dropPend_at_chan (s : State) (p : Ev → Bool) (j : Nat) : (s.dropPend p).chan j = s.chan j := rfl
@[simp] theorem pushAt_at_die (s : State) (d : Nat) (e : Ev) (j : Nat) : (s.pushAt d e).die j = s.die j := rfl
@[simp] theorem push_at_die (s : State) (e : Ev) (j : Nat) : (s.push e).die j = s.die j := rfl
@[simp] theorem dropPend_at_die (s : State) (p : Ev → Bool) (j : Nat) : (s.dropPend p).die j = s.die j := rfl
@[simp] theorem pushAt_at_part (s : State) (d : Nat) (e : Ev) (j : Nat) : (s.pushAt d e).part j = s.part j := rfl
@[simp] theorem push_at_part (s : State) (e : Ev) (j : Nat) : (s.push e).part j = s.part j := rfl
@[simp] theorem dropPend_at_part (s : State) (p : Ev → Bool) (j : Nat) : (s.dropPend p).part j = s.part j := rfl
@[simp] theorem pushAt_at_ctx (s : State) (d : Nat) (e : Ev) (j : Nat) : (s.pushAt d e).ctx j = s.ctx j := rfl
@[simp] theorem push_at_ctx (s : State) (e : Ev) (j : Nat) : (s.push e).ctx j = s.ctx j := rfl
@[simp] theorem dropPend_at_ctx (s : State) (p : Ev → Bool) (j : Nat) : (s.dropPend p).ctx j = s.ctx j := rfl
@[simp] theorem pushAt_me (s : State) (d : Nat) (e : Ev) : (s.pushAt d e).me = s.me := rfl
@[simp] theorem push_me (s : State) (e : Ev) : (s.push e).me = s.me := rfl
@[simp] theorem dropPend_me (s : State) (p : Ev → Bool) : (s.dropPend p).me = s.me := rfl

/-- A message just sent is in flight. -/
theorem mem_insAt {α : Type} (l : List α) (k : Nat) (x : α) : x ∈ insAt l k [x] := by
  induction l generalizing k with
  | nil => simp [insAt]
  | cons y l ih => cases k <;> simp [insAt, ih]

theorem pushAt_sent (s : State) (d : Nat) (e : Ev) : { due := d, ev := e } ∈ (s.pushAt d e).pend := mem_insAt ..

/-- Messages in flight stay in flight when another is sent. -/
theorem mem_insAt_of_mem {α : Type} (l : List α) (k : Nat) (xs : List α) {y : α} (h : y ∈ l) : y ∈ insAt l k xs := by
  induction l generalizing k with
  | nil => simp at h
  | cons z l ih =>
    cases k with
    | zero => simp [insAt, h]
    | succ k =>
      simp only [insAt, List.mem_cons] at h ⊢
      exact h.imp id (ih k)

end Sys2Proof.Machine
end

