-- ==== Sys2Proof/Laws/Retire.lean ====
section
/-! SUPPORT. What the end of an instruction does: the loop checks, the DUAL window and the completion of a register
instruction. -/

namespace Sys2Proof.Machine

/-! ### Reading a byte of memory -/

theorem mscLine_congr {s t : State} (hs : t.slices = s.slices) (home key : Nat) : t.mscLine home key = s.mscLine home key := by
  have h : ∀ k, t.slice k = s.slice k := fun k => by simp only [State.slice, hs]
  unfold State.mscLine State.mscOff
  rw [h home]

theorem byteAt_congr {s t : State} (hm : t.mem = s.mem) (hs : t.slices = s.slices) (home pa : Nat) :
    t.byteAt home pa = s.byteAt home pa := by
  simp only [State.byteAt, State.lineVal, State.below, mscLine_congr hs, State.slice, hm, hs]

theorem CoreSt.Keeps.refl (c : CoreSt) : c.Keeps c := ⟨rfl, rfl, rfl, rfl, rfl, rfl, rfl, rfl, rfl, rfl⟩

/-! ### The window -/

/-- Each bit of STATUS once the window is closed. -/
theorem getLsbD_noWindow (st : Word) (i : Nat) :
    (noWindow st).getLsbD i = (st.getLsbD i && !decide (3 ≤ i ∧ i ≤ 5) && !decide (7 ≤ i ∧ i ≤ 9)) := by
  by_cases hw : i < 64
  · rw [noWindow, getLsbD_putBits, getLsbD_putBits]
    by_cases h1 : 7 ≤ i ∧ i < 7 + 3 <;> by_cases h2 : 3 ≤ i ∧ i < 3 + 3
    · omega
    · have : 7 ≤ i ∧ i ≤ 9 := by omega
      simp [h1, this]
    · have h3 : ¬ (7 ≤ i ∧ i ≤ 9) := by omega
      have h4 : 3 ≤ i ∧ i ≤ 5 := by omega
      simp [hw, h1, h2, h4]
    · have h3 : ¬ (7 ≤ i ∧ i ≤ 9) := by omega
      have h4 : ¬ (3 ≤ i ∧ i ≤ 5) := by omega
      simp [hw, h1, h2, h3, h4]
  · simp [BitVec.getLsbD_of_ge _ _ (Nat.le_of_not_lt hw)]

theorem noWindow_noWindow (st : Word) : noWindow (noWindow st) = noWindow st := by
  apply word_ext; intro i _
  simp only [getLsbD_noWindow]
  by_cases h1 : 3 ≤ i ∧ i ≤ 5 <;> by_cases h2 : 7 ≤ i ∧ i ≤ 9 <;> simp [h1, h2]

/-- A change of the window's own bits is not seen once it is closed. -/
theorem noWindow_putBits3 (st : Word) (v : Nat) : noWindow (putBits st 3 3 v) = noWindow st := by
  apply word_ext; intro i hi
  simp only [getLsbD_noWindow]
  by_cases h : 3 ≤ i ∧ i ≤ 5
  · simp [h]
  · rw [getLsbD_putBits_apart _ _ _ _ _ (by omega)]

theorem noWindow_putBits7 (st : Word) (v : Nat) : noWindow (putBits st 7 3 v) = noWindow st := by
  apply word_ext; intro i hi
  simp only [getLsbD_noWindow]
  by_cases h : 7 ≤ i ∧ i ≤ 9
  · simp [h]
  · rw [getLsbD_putBits_apart _ _ _ _ _ (by omega)]

theorem noWindow_countWindow (st : Word) : noWindow (countWindow st) = noWindow st := by
  unfold countWindow
  split
  · split
    · exact noWindow_noWindow st
    · exact noWindow_putBits3 st _
  · rfl

theorem noWindow_openWindow (w p : Nat) (st : Word) : noWindow (putBits (putBits st 3 3 w) 7 3 p) = noWindow st := by
  rw [noWindow_putBits7, noWindow_putBits3]

/-! ### The loop checks (05 R106) -/

/-- A loop check changes counts and arms only. -/
theorem loopCheck_frame (a : Arch) (l : Nat) (pc : Word) (len : Nat) :
    ∃ lc lstat, (loopCheck a l pc len).1 = { a with lc := lc, lstat := lstat } := by
  unfold loopCheck
  split
  · simp only
    split
    · exact ⟨_, _, rfl⟩
    · split
      · exact ⟨_, _, rfl⟩
      · exact ⟨_, _, rfl⟩
  · exact ⟨a.lc, a.lstat, rfl⟩

theorem loopEnd_frame (a : Arch) (pc : Word) (len : Nat) :
    ∃ lc lstat, (loopEnd a pc len).1 = { a with lc := lc, lstat := lstat } := by
  unfold loopEnd
  obtain ⟨c1, s1, h1⟩ := loopCheck_frame a 1 pc len
  rcases e1 : loopCheck a 1 pc len with ⟨a1, b1⟩
  rw [e1] at h1
  simp only at h1
  cases b1
  · simp only
    obtain ⟨c0, s0, h0⟩ := loopCheck_frame a1 0 pc len
    rcases e0 : loopCheck a1 0 pc len with ⟨a0, b0⟩
    rw [e0] at h0
    simp only at h0
    cases b0 <;> exact ⟨c0, s0, by rw [h0, h1]⟩
  · exact ⟨c1, s1, h1⟩

/-- The loop checks read the loop words only. -/
theorem loopCheck_congr {a b : Arch} (hs : b.lstat = a.lstat) (he : b.le = a.le) (hc : b.lc = a.lc) (l : Nat) (pc : Word)
    (len : Nat) : (loopCheck b l pc len).2 = (loopCheck a l pc len).2 ∧ (loopCheck b l pc len).1.lstat = (loopCheck a l pc len).1.lstat
      ∧ (loopCheck b l pc len).1.lc = (loopCheck a l pc len).1.lc ∧ (loopCheck b l pc len).1.le = a.le
      ∧ (loopCheck b l pc len).1.ls = b.ls ∧ (loopCheck a l pc len).1.le = a.le ∧ (loopCheck a l pc len).1.ls = a.ls := by
  unfold loopCheck
  rw [hs, he, hc]
  split
  · simp only
    split
    · simp [hc, he]
    · split <;> simp [hs, he]
  · simp [hs, he, hc]

theorem loopEnd_congr {a b : Arch} (hs : b.lstat = a.lstat) (he : b.le = a.le) (hc : b.lc = a.lc) (hl : b.ls = a.ls)
    (pc : Word) (len : Nat) : (loopEnd b pc len).2 = (loopEnd a pc len).2 := by
  have h1 := loopCheck_congr hs he hc 1 pc len
  unfold loopEnd
  rcases e1 : loopCheck a 1 pc len with ⟨a1, x1⟩
  rcases e2 : loopCheck b 1 pc len with ⟨b1, y1⟩
  rw [e1, e2] at h1
  simp only at h1
  obtain ⟨rfl, g1, g2, g3, g4, g5, g6⟩ := h1
  cases y1
  · have h0 := loopCheck_congr (a := a1) (b := b1) g1 (g3.trans g5.symm) g2 0 pc len
    rcases e3 : loopCheck a1 0 pc len with ⟨a0, x0⟩
    rcases e4 : loopCheck b1 0 pc len with ⟨b0, y0⟩
    simp only [e3, e4] at h0 ⊢
    obtain ⟨rfl, k1, k2, k3, k4, k5, k6⟩ := h0
    cases y0
    · rfl
    · simp only; rw [k4, k6, g4, g6, hl]
  · simp only; rw [g4, g6, hl]

/-! ### The completion of an instruction -/

/-- Without a single step, `sstep` does nothing. -/
theorem sstep_off (s : State) (pc : Word) (priv : Nat) (h : (decide (priv = 0) && s.me.pmctl.getLsbD 2 && !isSys s.cur) = false) :
    s.sstep pc priv = s := by
  unfold State.sstep
  rw [if_neg]
  simpa using h

/-- An update is known by what it makes of the thread set. -/
theorem upMe_congr {s : State} {f g : TSet → TSet} (h : f s.me = g s.me) : s.upMe f = s.upMe g := by
  unfold State.upMe State.upT State.setT
  rw [show f (s.t s.cur) = g (s.t s.cur) from h]

/-- What the completion of an instruction leaves, without a single step: the register banks and every special register
as they were, pc at the next instruction. -/
theorem retireW_spec (s : State) (len extra : Nat) (win : Word → Word) (under : Bool) (h : s.stepping = false) :
    ∃ st lc lstat q e pa, (s.retireW len extra win under) = s.upMe (fun t =>
      { t with a := { t.a with status := st, lc := lc, lstat := lstat }, pc := s.nextPc len, undo := none, entered := false
               nxmTo := none, exempt := none, readyAt := s.cyc + 1 + extra, lastIss := s.cyc + 1, wclk := 0, quiet := q, evts := e, planeAt := pa }) ∧
      noWindow st = noWindow (win s.me.a.status) := by
  have hs : ∀ f : TSet → TSet, (f s.me).pmctl = s.me.pmctl →
      (s.upMe f).sstep s.me.pc s.me.priv = s.upMe f := by
    intro f hf
    apply sstep_off
    have h' : (decide (s.me.priv = 0) && !isSys s.cur && s.me.pmctl.getLsbD 2) = false := h
    rw [upMe_me, hf, upMe_cur]
    revert h'
    generalize decide (s.me.priv = 0) = x
    generalize isSys s.cur = y
    generalize s.me.pmctl.getLsbD 2 = z
    cases x <;> cases y <;> cases z <;> simp
  have hc := loopEnd_congr (a := s.me.a) (b := { s.me.a with status := win s.me.a.status }) rfl rfl rfl rfl s.me.pc len
  obtain ⟨lc, ls, hf⟩ := loopEnd_frame { s.me.a with status := win s.me.a.status } s.me.pc len
  rcases e1 : loopEnd { s.me.a with status := win s.me.a.status } s.me.pc len with ⟨a1, p1, b1⟩
  rw [e1] at hc hf
  simp only at hc hf
  have hn : s.nextPc len = if s.user then p1 else s.me.pc + BitVec.ofNat 64 len := by
    unfold State.nextPc; rw [← hc]
  have hu : s.user = (decide (s.me.priv = 0) && !isSys s.cur) := rfl
  unfold State.retireW
  simp only
  rw [← hu]
  rw [hs _ (by split <;> rfl), hn]
  cases s.user
  · refine ⟨win s.me.a.status, s.me.a.lc, s.me.a.lstat, if s.me.dual = [] ∨ extra = 0 then s.me.quiet else 0,
      if s.me.dual = [] ∨ under = false then (s.me.ev 2).evts else ((s.me.ev 2).ev 0x13).evts,
      if s.me.dual = [] ∨ extra = 0 then s.me.planeAt else s.cyc + 1, upMe_congr ?_, rfl⟩
    by_cases hd : s.me.dual = [] <;> by_cases he : extra = 0 <;> cases under <;> simp [hd, he, TSet.ev]
  · refine ⟨if b1 then noWindow (win s.me.a.status) else win s.me.a.status, lc, ls,
      if s.me.dual = [] ∨ extra = 0 then s.me.quiet else 0,
      if s.me.dual = [] ∨ under = false then (s.me.ev 2).evts else ((s.me.ev 2).ev 0x13).evts,
      if s.me.dual = [] ∨ extra = 0 then s.me.planeAt else s.cyc + 1, upMe_congr ?_, ?_⟩
    · by_cases hd : s.me.dual = [] <;> by_cases he : extra = 0 <;> cases under <;> cases b1 <;> simp [hd, he, TSet.ev, e1, hf]
    · split
      · exact noWindow_noWindow _
      · rfl

/-! ### A register instruction -/

theorem gp_congr {a b : Arch} (h0 : b.g = a.g) (h1 : b.gd1 = a.gd1) (h2 : b.gd2 = a.gd2) (p : Nat) (r : Reg) :
    b.gp p r = a.gp p r := by
  unfold Arch.gp; split
  · rfl
  · split <;> simp [h0, h1, h2]

theorem vp_congr {a b : Arch} (h0 : b.v = a.v) (h1 : b.vd1 = a.vd1) (h2 : b.vd2 = a.vd2) (p : Nat) (r : Reg) :
    b.vp p r = a.vp p r := by
  unfold Arch.vp; split <;> simp [h0, h1, h2]

theorem mp_congr {a b : Arch} (h : b.m = a.m) (r : BitVec 3) : b.mp r = a.mp r := by
  unfold Arch.mp; split <;> simp [h]

/-- The next pc depends on the loop words, the pc and the privilege only. -/
theorem nextPc_upA (s : State) (f : Arch → Arch) (len : Nat) (hst : (f s.me.a).status = s.me.a.status)
    (h1 : (f s.me.a).lstat = s.me.a.lstat) (h2 : (f s.me.a).le = s.me.a.le) (h3 : (f s.me.a).lc = s.me.a.lc)
    (h4 : (f s.me.a).ls = s.me.a.ls) : (s.upA f).nextPc len = s.nextPc len := by
  have hu : (s.upA f).user = s.user := by
    simp only [State.user, upA_me, upA_cur, TSet.priv, hst]
  simp only [State.nextPc, hu, upA_me]
  rw [loopEnd_congr h1 h2 h3 h4]

theorem stepping_upA (s : State) (f : Arch → Arch) (hst : (f s.me.a).status = s.me.a.status) :
    (s.upA f).stepping = s.stepping := by
  simp only [State.stepping, State.user, upA_me, upA_cur, TSet.priv, hst]

/-- Registers change by `f`, and what is not ready yet by `k`. -/
def State.upRegs (s : State) (f : Arch → Arch) (k : List Busy → List Busy) : State :=
  s.upMe (fun t => { t with a := f t.a, busy := k t.busy })

/-- A register instruction that changes the registers by `f` and completes. -/
theorem regStep_retire (s : State) (f : Arch → Arch) (k : List Busy → List Busy) (len extra : Nat) {G V : Reg → Nat → Prop} {M : BitVec 3 → Prop}
    (hs : s.stepping = false) (hst : (f s.me.a).status = s.me.a.status) (h1 : (f s.me.a).lstat = s.me.a.lstat)
    (h2 : (f s.me.a).le = s.me.a.le) (h3 : (f s.me.a).lc = s.me.a.lc) (h4 : (f s.me.a).ls = s.me.a.ls)
    (hk : s.me.a.Keeps (f s.me.a) G V M) :
    s.RegStep ((s.upRegs f k).retire len extra) len G V M ∧ ((s.upRegs f k).retire len extra).me.a.g = (f s.me.a).g ∧
      ((s.upRegs f k).retire len extra).me.a.gd1 = (f s.me.a).gd1 ∧ ((s.upRegs f k).retire len extra).me.a.gd2 = (f s.me.a).gd2 ∧
      ((s.upRegs f k).retire len extra).me.a.v = (f s.me.a).v ∧ ((s.upRegs f k).retire len extra).me.a.vd1 = (f s.me.a).vd1 ∧
      ((s.upRegs f k).retire len extra).me.a.vd2 = (f s.me.a).vd2 ∧ ((s.upRegs f k).retire len extra).me.a.m = (f s.me.a).m ∧
      ((s.upRegs f k).retire len extra).me.a.fmode = (f s.me.a).fmode ∧
      ((s.upRegs f k).retire len extra).me.a.srseed = (f s.me.a).srseed ∧
      ((s.upRegs f k).retire len extra).me.busy = k s.me.busy := by
  have hm : (s.upRegs f k).me = { s.me with a := f s.me.a, busy := k s.me.busy } := upMe_me ..
  have hcur : (s.upRegs f k).cur = s.cur := upMe_cur ..
  have hu : (s.upRegs f k).stepping = s.stepping := by
    simp only [State.stepping, State.user, hm, hcur, TSet.priv, hst]
  obtain ⟨st, lc, ls, q, e, pa, hr, hw⟩ := retireW_spec (s.upRegs f k) len extra countWindow true (by rw [hu]; exact hs)
  have hr' : (s.upRegs f k).retire len extra = _ := hr
  rw [hr']
  refine ⟨⟨?_, ?_, ?_, ?_, ?_⟩, ?_⟩
  · simp only [upMe_me]
    have hn : (s.upRegs f k).user = s.user := by simp only [State.user, hm, hcur, TSet.priv, hst]
    simp only [State.nextPc, hn, hm]
    rw [loopEnd_congr h1 h2 h3 h4]
  · simp only [upMe_me, hm]
    exact ⟨fun r p hp hg => hk.g r p hp hg, fun r p hp hg => hk.v r p hp hg, fun r hm => hk.m r hm, hk.tc, hk.dmode,
      hk.dtoff, hk.claim, hk.rend, hk.bar⟩
  · simp only [upMe_me, hm]
    refine ⟨?_, h4, h2⟩
    change noWindow st = _
    rw [hw, noWindow_countWindow, hm]
    exact congrArg noWindow hst
  · simp only [upMe_me, hm]
    exact ⟨rfl, rfl, rfl, rfl, rfl, rfl, rfl, rfl, rfl, rfl, rfl, rfl, rfl, rfl, rfl, rfl, rfl, rfl, rfl, rfl, rfl⟩
  · refine ⟨rfl, rfl, ?_, fun k => CoreSt.Keeps.refl _, fun h pa => byteAt_congr rfl rfl h pa, rfl, rfl, rfl, rfl, rfl, rfl,
      rfl, rfl, rfl, rfl, rfl, rfl, rfl, rfl⟩
    intro k hk'
    rw [upMe_at_ne _ _ (by simpa [State.upRegs] using hk')]
    exact upMe_at_ne _ _ hk'
  · simp [upMe_me, hm]

/-- The completion of a register instruction is not undone by later changes of timers and messages in flight. -/
theorem State.RegStep.later {s t u : State} {len : Nat} {G V : Reg → Nat → Prop} {M : BitVec 3 → Prop} (h : s.RegStep t len G V M)
    (ha : u.me.a = t.me.a) (hp : u.me.pc = t.me.pc) (ht : t.me.Keeps u.me) (he : t.Elsewhere u) : s.RegStep u len G V M := by
  obtain ⟨h1, h2, h3, h4, h5⟩ := h
  refine ⟨hp.trans h1, ha ▸ h2, ha ▸ h3, ?_, ?_⟩
  · exact ⟨ht.bound.trans h4.bound, ht.cause.trans h4.cause, ht.epc.trans h4.epc, ht.tval.trans h4.tval,
      ht.escr.trans h4.escr, ht.cycle.trans h4.cycle, ht.wlimit.trans h4.wlimit, ht.specst.trans h4.specst,
      ht.speccnt.trans h4.speccnt, ht.residx.trans h4.residx, ht.pmc.trans h4.pmc, ht.pmsel.trans h4.pmsel,
      ht.pmovf.trans h4.pmovf, ht.pmctl.trans h4.pmctl, ht.irq.trans h4.irq, ht.mc.trans h4.mc, ht.eceil.trans h4.eceil,
      ht.epoch.trans h4.epoch, ht.spec.trans h4.spec, ht.halted.trans h4.halted, ht.stopped.trans h4.stopped⟩
  · refine ⟨he.cur.trans h5.cur, he.cyc.trans h5.cyc, fun k hk => ?_, fun k => ?_, fun a b => (he.bytes a b).trans (h5.bytes a b),
      he.mem.trans h5.mem, he.slices.trans h5.slices, he.reps.trans h5.reps, he.ccs.trans h5.ccs,
      he.clusters.trans h5.clusters, he.chans.trans h5.chans, he.dies.trans h5.dies, he.parts.trans h5.parts,
      he.ctxs.trans h5.ctxs, he.host.trans h5.host, he.jost.trans h5.jost, he.images.trans h5.images,
      he.stretch.trans h5.stretch, he.throt.trans h5.throt⟩
    · rw [he.others k (h5.cur ▸ hk), h5.others k hk]
    · have a := h5.cores k
      have b := he.cores k
      exact ⟨b.act.trans a.act, b.stby.trans a.stby, b.strm.trans a.strm, b.cnext.trans a.cnext, b.l1.trans a.l1,
        b.tile.trans a.tile, b.hold.trans a.hold, b.utlb.trans a.utlb,
        b.waddr.trans a.waddr, b.wctl.trans a.wctl⟩

/-- A result that is ready later (05 R86, R87) changes no register. -/
theorem longAfter_spec (s : State) (t0 : TSet) (lat : Nat) (b : List (Nat × Nat)) :
    (s.longAfter t0 lat b).me.a = s.me.a ∧ (s.longAfter t0 lat b).me.pc = s.me.pc ∧ s.me.Keeps (s.longAfter t0 lat b).me ∧
      s.Elsewhere (s.longAfter t0 lat b) ∧
      (s.longAfter t0 lat b).me.busy = (s.me.soon b (s.cyc + (lat + t0.dual.length))).busy := by
  unfold State.longAfter
  simp only [pushAt_me, upMe_me]
  refine ⟨rfl, rfl, ⟨rfl, rfl, rfl, rfl, rfl, rfl, rfl, rfl, rfl, rfl, rfl, rfl, rfl, rfl, rfl, rfl, rfl, rfl, rfl, rfl, rfl⟩, ?_, trivial⟩
  refine ⟨rfl, rfl, ?_, fun k => CoreSt.Keeps.refl _, fun h pa => byteAt_congr rfl rfl h pa, rfl, rfl, rfl, rfl, rfl, rfl,
      rfl, rfl, rfl, rfl, rfl, rfl, rfl, rfl⟩
  intro k hk
  rw [pushAt_at_t, upMe_at_ne _ _ hk]

/-- A change of a core's unit timers changes no register. -/
theorem upCore_spec (s : State) (c : Nat) (f : CoreSt → CoreSt) (h : ∀ x : CoreSt, x.Keeps (f x)) :
    (s.upCore c f).me = s.me ∧ s.Elsewhere (s.upCore c f) := by
  refine ⟨rfl, rfl, rfl, fun k _ => rfl, fun k => ?_, fun h pa => byteAt_congr rfl rfl h pa, rfl, rfl, rfl, rfl, rfl, rfl,
      rfl, rfl, rfl, rfl, rfl, rfl, rfl, rfl⟩
  by_cases hk : k = c
  · subst hk; rw [upCore_at_same]; exact h _
  · rw [upCore_at_ne _ _ hk]; exact CoreSt.Keeps.refl _

theorem TSet.Keeps.refl (t : TSet) : t.Keeps t :=
  ⟨rfl, rfl, rfl, rfl, rfl, rfl, rfl, rfl, rfl, rfl, rfl, rfl, rfl, rfl, rfl, rfl, rfl, rfl, rfl, rfl, rfl⟩

end Sys2Proof.Machine
end

