-- ==== Sys2Proof/Laws/Results.lean ====
section
/-! SUPPORT. What the operations that write registers do: one register plane, an integer result, a floating-point result and
a vector result. -/

namespace Sys2Proof.Machine

/-! ### One register plane -/

theorem reg_ne {r d : Reg} (h : r ≠ d) : r.toNat ≠ d.toNat := fun e => h (BitVec.eq_of_toNat_eq e)

theorem gp_setG (a : Arch) {p q : Nat} (hp : p ≤ 2) (hq : q ≤ 2) (d r : Reg) (w : Word) :
    (a.setG p d w).gp q r = if r = d ∧ q = p ∧ d ≠ 0 then w else a.gp q r := by
  by_cases hd : d = 0
  · have : ¬ (r = d ∧ q = p ∧ d ≠ 0) := fun h => h.2.2 hd
    rw [if_neg this]
    simp only [Arch.setG, if_pos hd]
  · by_cases hr : r = 0
    · have : ¬ (r = d ∧ q = p ∧ d ≠ 0) := fun h => hd (h.1 ▸ hr)
      rw [if_neg this]
      simp only [Arch.gp, if_pos hr]
    · by_cases hrd : r = d
      · subst hrd
        interval_cases p <;> interval_cases q <;> simp only [Arch.setG, Arch.gp, if_neg hr] <;> simp [show ¬ r = 0#5 from hr]
      · have hn := (reg_ne hrd).symm
        interval_cases p <;> interval_cases q <;> simp only [Arch.setG, Arch.gp, if_neg hr, if_neg hd] <;> simp [hrd, hn]

theorem vp_setG (a : Arch) (p q : Nat) (d r : Reg) (w : Word) : (a.setG p d w).vp q r = a.vp q r := by
  apply vp_congr <;> (unfold Arch.setG; split; rfl; split <;> rfl)

theorem vp_setV (a : Arch) {p q : Nat} (hp : p ≤ 2) (hq : q ≤ 2) (d r : Reg) (w : VWord) :
    (a.setV p d w).vp q r = if r = d ∧ q = p then w else a.vp q r := by
  by_cases hrd : r = d
  · subst hrd
    interval_cases p <;> interval_cases q <;> simp [Arch.setV, Arch.vp]
  · have hn := (reg_ne hrd).symm
    interval_cases p <;> interval_cases q <;> simp [Arch.setV, Arch.vp, hrd, hn]

theorem gp_setV (a : Arch) (p q : Nat) (d r : Reg) (w : VWord) : (a.setV p d w).gp q r = a.gp q r := by
  apply gp_congr <;> (unfold Arch.setV; split <;> rfl)

/-- What a write of one plane of a g register leaves. -/
theorem setG_frame (a : Arch) (p : Nat) (d : Reg) (w : Word) :
    ∃ g g1 g2, a.setG p d w = { a with g := g, gd1 := g1, gd2 := g2 } := by
  unfold Arch.setG
  split
  · exact ⟨a.g, a.gd1, a.gd2, rfl⟩
  · split
    · exact ⟨_, a.gd1, a.gd2, rfl⟩
    · exact ⟨a.g, _, a.gd2, rfl⟩
    · exact ⟨a.g, a.gd1, _, rfl⟩

theorem setV_frame (a : Arch) (p : Nat) (d : Reg) (w : VWord) :
    ∃ v v1 v2, a.setV p d w = { a with v := v, vd1 := v1, vd2 := v2 } := by
  unfold Arch.setV
  split
  · exact ⟨_, a.vd1, a.vd2, rfl⟩
  · exact ⟨a.v, _, a.vd2, rfl⟩
  · exact ⟨a.v, a.vd1, _, rfl⟩

/-! ### A step of registers: only g planes, v planes, m, FMODE and SRSEED may differ -/

/-- Two register files that agree outside the banks, FMODE and SRSEED. -/
def Arch.Banks (a b : Arch) : Prop :=
  ∃ g g1 g2 v v1 v2 m fm sr, b = { a with g := g, gd1 := g1, gd2 := g2, v := v, vd1 := v1, vd2 := v2, m := m, fmode := fm, srseed := sr }

theorem Banks.refl (a : Arch) : a.Banks a := ⟨_, _, _, _, _, _, _, _, _, rfl⟩

theorem Banks.trans {a b c : Arch} (h : a.Banks b) (k : b.Banks c) : a.Banks c := by
  obtain ⟨g, g1, g2, v, v1, v2, m, fm, sr, rfl⟩ := h
  obtain ⟨g', g1', g2', v', v1', v2', m', fm', sr', rfl⟩ := k
  exact ⟨_, _, _, _, _, _, _, _, _, rfl⟩

theorem Banks.setG (a : Arch) (p : Nat) (d : Reg) (w : Word) : a.Banks (a.setG p d w) := by
  obtain ⟨g, g1, g2, h⟩ := setG_frame a p d w
  exact ⟨g, g1, g2, _, _, _, _, _, _, h⟩

theorem Banks.setV (a : Arch) (p : Nat) (d : Reg) (w : VWord) : a.Banks (a.setV p d w) := by
  obtain ⟨g, g1, g2, h⟩ := setV_frame a p d w
  exact ⟨_, _, _, g, g1, g2, _, _, _, h⟩

theorem Banks.setM (a : Arch) (d : BitVec 3) (w : Word) : a.Banks (a.setM d w) := by
  unfold Arch.setM
  split
  · exact Banks.refl a
  · exact ⟨_, _, _, _, _, _, _, _, _, rfl⟩

theorem Banks.fmode (a : Arch) (w : Word) : a.Banks { a with fmode := w } := ⟨_, _, _, _, _, _, _, _, _, rfl⟩

theorem Banks.foldl {α : Type} (f : Arch → α → Arch) (l : List α) (h : ∀ (a : Arch) (x : α), a.Banks (f a x)) (a : Arch) :
    a.Banks (l.foldl f a) := by
  induction l generalizing a with
  | nil => exact Banks.refl a
  | cons x l ih => exact Banks.trans (h a x) (ih _)

/-- A register file that differs in the banks only keeps everything else. -/
theorem Banks.keeps {a b : Arch} (h : a.Banks b) {G V : Reg → Nat → Prop} {M : BitVec 3 → Prop}
    (hg : ∀ r p, p ≤ 2 → ¬ G r p → b.gp p r = a.gp p r) (hv : ∀ r p, p ≤ 2 → ¬ V r p → b.vp p r = a.vp p r)
    (hm : ∀ r, ¬ M r → b.mp r = a.mp r) : a.Keeps b G V M := by
  obtain ⟨g, g1, g2, v, v1, v2, m, fm, sr, rfl⟩ := h
  exact ⟨hg, hv, hm, rfl, rfl, rfl, rfl, rfl, rfl⟩

/-- A change of the banks that completes. -/
theorem regStep_banks (s : State) (f : Arch → Arch) (k : List Busy → List Busy) (len extra : Nat) {G V : Reg → Nat → Prop} {M : BitVec 3 → Prop}
    (hs : s.stepping = false) (hb : s.me.a.Banks (f s.me.a)) (hk : s.me.a.Keeps (f s.me.a) G V M) :
    s.RegStep ((s.upRegs f k).retire len extra) len G V M ∧
      (∀ p r, ((s.upRegs f k).retire len extra).me.a.gp p r = (f s.me.a).gp p r) ∧
      (∀ p r, ((s.upRegs f k).retire len extra).me.a.vp p r = (f s.me.a).vp p r) ∧
      (∀ r, ((s.upRegs f k).retire len extra).me.a.mp r = (f s.me.a).mp r) ∧
      ((s.upRegs f k).retire len extra).me.a.fmode = (f s.me.a).fmode ∧
      ((s.upRegs f k).retire len extra).me.a.srseed = (f s.me.a).srseed ∧
      ((s.upRegs f k).retire len extra).me.busy = k s.me.busy := by
  have hb' := hb
  obtain ⟨g, g1, g2, v, v1, v2, m, fm, sr, he⟩ := hb'
  obtain ⟨h, h0, h1, h2, h3, h4, h5, h6, h7, h8, h9⟩ := regStep_retire s f k len extra (G := G) (V := V) (M := M) hs
    (by rw [he]) (by rw [he]) (by rw [he]) (by rw [he]) (by rw [he]) hk
  exact ⟨h, fun p r => gp_congr h0 h1 h2 p r, fun p r => vp_congr h3 h4 h5 p r, fun r => mp_congr h6 r, h7, h8, h9⟩

/-! ### Planes acted on -/

theorem planesOf_le (f p : Nat) (h : p ∈ planesOf f) : 1 ≤ p ∧ p ≤ 2 := by
  unfold planesOf at h
  split at h <;> split at h <;> simp at h <;> omega

theorem dual_le (t : TSet) (p : Nat) (h : p ∈ t.dual) : 1 ≤ p ∧ p ≤ 2 := by
  unfold TSet.dual at h
  split at h
  · simp at h
  · split at h
    · exact planesOf_le _ _ h
    · split at h
      · exact planesOf_le _ _ h
      · simp at h

/-- Planes of a register set to one value each. -/
theorem gp_foldl_setG (ps : List Nat) (hps : ∀ p ∈ ps, p ≤ 2) (a : Arch) (d r : Reg) {q : Nat} (hq : q ≤ 2) (w : Nat → Word) :
    (ps.foldl (fun a p => a.setG p d (w p)) a).gp q r = if r = d ∧ q ∈ ps ∧ d ≠ 0 then w q else a.gp q r := by
  induction ps generalizing a with
  | nil => simp
  | cons p ps ih =>
    rw [List.foldl_cons, ih (fun p hp => hps p (List.mem_cons_of_mem _ hp)), gp_setG _ (hps p List.mem_cons_self) hq]
    by_cases h1 : r = d <;> by_cases h2 : q ∈ ps <;> by_cases h3 : q = p <;> by_cases h4 : d = 0 <;> simp [h1, h2, h3, h4]
    all_goals subst_vars; simp_all

/-- An integer result: the primal and zero in the planes acted on (05 R91). -/
theorem gp_putInt (a : Arch) (ps : List Nat) (hps : ∀ p ∈ ps, 1 ≤ p ∧ p ≤ 2) (d r : Reg) {q : Nat} (hq : q ≤ 2) (w : Word) :
    (a.putInt ps d w).gp q r =
      if r = d ∧ d ≠ 0 ∧ (q = 0 ∨ q ∈ ps) then (if q = 0 then w else 0) else a.gp q r := by
  unfold Arch.putInt
  rw [gp_foldl_setG ps (fun p hp => (hps p hp).2) _ d r hq (fun _ => 0), gp_setG a (by omega) hq]
  by_cases h0 : q = 0
  · subst h0
    have : 0 ∉ ps := fun h => by have := (hps 0 h).1; omega
    by_cases h1 : r = d <;> by_cases h2 : d = 0 <;> simp [h1, h2, this]
  · by_cases h1 : r = d <;> by_cases h2 : d = 0 <;> by_cases h3 : q ∈ ps <;> simp [h0, h1, h2, h3]

theorem Banks.putInt (a : Arch) (ps : List Nat) (d : Reg) (w : Word) : a.Banks (a.putInt ps d w) :=
  Banks.trans (Banks.setG a 0 d w) (Banks.foldl _ ps (fun a p => Banks.setG a p d 0) _)

theorem vp_putInt (a : Arch) (ps : List Nat) (d r : Reg) (q : Nat) (w : Word) : (a.putInt ps d w).vp q r = a.vp q r := by
  unfold Arch.putInt
  have : ∀ (l : List Nat) (b : Arch), (l.foldl (fun a p => a.setG p d 0) b).vp q r = b.vp q r := by
    intro l
    induction l with
    | nil => intro b; rfl
    | cons p l ih => intro b; rw [List.foldl_cons, ih, vp_setG]
  rw [this, vp_setG]

theorem putInt_others (a : Arch) (ps : List Nat) (d : Reg) (w : Word) :
    ∃ g g1 g2, a.putInt ps d w = { a with g := g, gd1 := g1, gd2 := g2 } := by
  unfold Arch.putInt
  have : ∀ (l : List Nat) (b : Arch), (∃ g g1 g2, b = { a with g := g, gd1 := g1, gd2 := g2 }) →
      ∃ g g1 g2, (l.foldl (fun a p => a.setG p d 0) b) = { a with g := g, gd1 := g1, gd2 := g2 } := by
    intro l
    induction l with
    | nil => intro b h; exact h
    | cons p l ih =>
      intro b h
      rw [List.foldl_cons]
      apply ih
      obtain ⟨g, g1, g2, rfl⟩ := h
      obtain ⟨x, y, z, h⟩ := setG_frame { a with g := g, gd1 := g1, gd2 := g2 } p d 0
      exact ⟨x, y, z, h⟩
  exact this ps _ (setG_frame a 0 d w)

/-- An integer result completes: the destination holds it, its planes acted on are zero, nothing else changes. -/
theorem putInt_doneD_spec (s : State) (d : Reg) (w : Word) (len : Nat) (hs : s.stepping = false) :
    s.RegStep ((s.putInt d w).doneD len) len (s.Dest d) NoReg NoMask ∧
      ((s.putInt d w).doneD len).me.a.gp 0 d = (if d = 0 then 0 else w) ∧
      (∀ p ∈ s.me.dual, ((s.putInt d w).doneD len).me.a.gp p d = 0) ∧
      ((s.putInt d w).doneD len).me.a.fmode = s.me.a.fmode ∧ ((s.putInt d w).doneD len).me.a.srseed = s.me.a.srseed ∧
      ((s.putInt d w).doneD len).me.busy = (s.me.renew [(0, d.toNat)]).busy := by
  obtain ⟨g, g1, g2, he⟩ := putInt_others s.me.a s.me.dual d w
  have hk : s.me.a.Keeps (s.me.a.putInt s.me.dual d w) (s.Dest d) NoReg NoMask := by
    apply Banks.keeps (Banks.putInt ..)
    · intro r p hp hg
      rw [gp_putInt _ _ (fun p hp => dual_le _ _ hp) _ _ hp]
      unfold State.Dest at hg
      rw [if_neg (by tauto)]
    · intro r p _ _; exact vp_putInt ..
    · intro r _; exact mp_congr (by rw [he]) r
  obtain ⟨h, hg, hv, hm, hf, hsr, hb⟩ := regStep_banks s (fun a => a.putInt s.me.dual d w)
    (fun l => l.filter (fun b => b.due.isNone || !([(0, d.toNat)] : List (Nat × Nat)).contains (b.cls, b.r))) len (s.putInt d w).me.dual.length
    hs (Banks.putInt ..) hk
  refine ⟨h, ?_, ?_, ?_, ?_, hb⟩
  · refine (hg 0 d).trans ?_
    show (s.me.a.putInt s.me.dual d w).gp _ d = _
    rw [gp_putInt _ _ (fun p hp => dual_le _ _ hp) _ _ (by omega)]
    by_cases hd : d = 0
    · simp [hd, Arch.gp]
    · rw [if_pos ⟨rfl, hd, .inl rfl⟩, if_pos rfl, if_neg hd]
  · intro p hp
    refine (hg p d).trans ?_
    have := dual_le _ _ hp
    show (s.me.a.putInt s.me.dual d w).gp _ d = _
    rw [gp_putInt _ _ (fun p hp => dual_le _ _ hp) _ _ this.2]
    have h0 : p ≠ 0 := by omega
    by_cases hd : d = 0
    · simp [hd, Arch.gp]
    · rw [if_pos ⟨rfl, hd, .inr hp⟩, if_neg h0]
  · exact hf.trans (by rw [he])
  · exact hsr.trans (by rw [he])

/-! ### Results that are ready later -/

theorem useVec_spec (s : State) (n : Nat) : (s.useVec n).me = s.me ∧ s.Elsewhere (s.useVec n) :=
  upCore_spec s _ _ (fun _ => ⟨rfl, rfl, rfl, rfl, rfl, rfl, rfl, rfl, rfl, rfl⟩)

/-- A register instruction stays what it is when its result is ready later and its unit is taken. -/
theorem State.RegStep.long {s t : State} {len : Nat} {G V : Reg → Nat → Prop} {M : BitVec 3 → Prop} (h : s.RegStep t len G V M)
    (t0 : TSet) (lat : Nat) (b : List (Nat × Nat)) : s.RegStep (t.longAfter t0 lat b) len G V M := by
  obtain ⟨h1, h2, h3, h4, _⟩ := longAfter_spec t t0 lat b
  exact h.later h1 h2 h3 h4

theorem State.RegStep.core {s t : State} {len : Nat} {G V : Reg → Nat → Prop} {M : BitVec 3 → Prop} (h : s.RegStep t len G V M)
    (c : Nat) (f : CoreSt → CoreSt) (hf : ∀ x : CoreSt, x.Keeps (f x)) : s.RegStep (t.upCore c f) len G V M :=
  h.later rfl rfl (TSet.Keeps.refl _) (upCore_spec t c f hf).2

/-- `vecDone`: the registers change by `f`, the result is ready `lat` cc later, the vector unit is taken. -/
theorem vecDone_spec (lat cls r : Nat) (f : Arch → Arch) (s : State) {G V : Reg → Nat → Prop} {M : BitVec 3 → Prop}
    (hs : s.stepping = false) (hb : s.me.a.Banks (f s.me.a)) (hk : s.me.a.Keeps (f s.me.a) G V M) :
    ∃ t, vecDone lat cls r f s = .next t ∧ s.RegStep t 4 G V M ∧ (∀ p q, t.me.a.gp p q = (f s.me.a).gp p q) ∧
      (∀ p q, t.me.a.vp p q = (f s.me.a).vp p q) ∧ (∀ q, t.me.a.mp q = (f s.me.a).mp q) ∧
      t.me.a.fmode = (f s.me.a).fmode ∧ t.me.a.srseed = (f s.me.a).srseed ∧
      t.me.busy = { cls := cls, r := r, due := some (s.cyc + (lat + s.me.dual.length)) } :: (s.me.renew [(cls, r)]).busy := by
  obtain ⟨h, hg, hv, hm, hf, hsr, hbs⟩ := regStep_banks s f id 4 (s.upA f).me.dual.length hs hb hk
  obtain ⟨e1, e2, e3, e4, e5⟩ := longAfter_spec ((s.upA f).retire 4 (s.upA f).me.dual.length) s.me lat [(cls, r)]
  refine ⟨_, rfl, ?_, fun p q => ?_, fun p q => ?_, fun q => ?_, ?_, ?_, ?_⟩
  · exact (h.long s.me lat [(cls, r)]).core _ _ (fun _ => ⟨rfl, rfl, rfl, rfl, rfl, rfl, rfl, rfl, rfl, rfl⟩)
  · exact (congrArg (fun a => a.gp p q) e1).trans (hg p q)
  · exact (congrArg (fun a => a.vp p q) e1).trans (hv p q)
  · exact (congrArg (fun a => a.mp q) e1).trans (hm q)
  · exact (congrArg Arch.fmode e1).trans hf
  · exact (congrArg Arch.srseed e1).trans hsr
  · refine e5.trans ?_
    have hc : ((s.upA f).retire 4 (s.upA f).me.dual.length).cyc = s.cyc := h.rest.cyc
    have hb' : ((s.upA f).retire 4 (s.upA f).me.dual.length).me.busy = s.me.busy := hbs
    simp only [TSet.soon, TSet.renew, hc, hb', List.map_cons, List.map_nil, List.cons_append, List.nil_append]

/-- The multiply group: an integer result that is ready 3 cc after its issue. -/
theorem mulOp_spec (len : Nat) (d : Reg) (w : Word) (s : State) (hs : s.stepping = false) :
    ∃ t, mulOp len d w s = .next t ∧ s.RegStep t len (s.Dest d) NoReg NoMask ∧
      t.me.a.gp 0 d = (if d = 0 then 0 else w) ∧ (∀ p ∈ s.me.dual, t.me.a.gp p d = 0) ∧ t.me.a.fmode = s.me.a.fmode ∧
      t.me.a.srseed = s.me.a.srseed ∧
      t.me.busy = { cls := 0, r := d.toNat, due := some (s.cyc + (3 + s.me.dual.length)) } :: (s.me.renew [(0, d.toNat)]).busy := by
  obtain ⟨h, h0, h1, h2, h3, h4⟩ := putInt_doneD_spec s d w len hs
  obtain ⟨e1, _, _, _, e5⟩ := longAfter_spec ((s.putInt d w).doneD len) s.me 3 [(0, d.toNat)]
  refine ⟨_, rfl, h.long _ _ _, ?_, ?_, ?_, ?_, ?_⟩
  · exact (congrArg (fun a => a.gp 0 d) e1).trans h0
  · exact fun p hp => (congrArg (fun a => a.gp p d) e1).trans (h1 p hp)
  · exact (congrArg Arch.fmode e1).trans h2
  · exact (congrArg Arch.srseed e1).trans h3
  · refine e5.trans ?_
    simp only [TSet.soon, TSet.renew, h4, h.rest.cyc, List.filter_filter, Bool.and_self]
    rfl

/-- The divide group: 36 cc, for which the core's divider is taken. -/
theorem divOp_spec (len : Nat) (d : Reg) (w : Word) (s : State) (hs : s.stepping = false) :
    ∃ t, divOp len d w s = .next t ∧ s.RegStep t len (s.Dest d) NoReg NoMask ∧
      t.me.a.gp 0 d = (if d = 0 then 0 else w) ∧ (∀ p ∈ s.me.dual, t.me.a.gp p d = 0) ∧ t.me.a.fmode = s.me.a.fmode ∧
      t.me.a.srseed = s.me.a.srseed ∧
      t.me.busy = { cls := 0, r := d.toNat, due := some (s.cyc + (36 + s.me.dual.length)) } :: (s.me.renew [(0, d.toNat)]).busy ∧
      (t.core (coreOf s.cur)).divAt = s.cyc + 36 := by
  obtain ⟨h, h0, h1, h2, h3, h4⟩ := putInt_doneD_spec s d w len hs
  obtain ⟨e1, _, _, _, e5⟩ := longAfter_spec ((s.putInt d w).doneD len) s.me 36 [(0, d.toNat)]
  refine ⟨_, rfl, (h.long _ _ _).core _ _ (fun _ => ⟨rfl, rfl, rfl, rfl, rfl, rfl, rfl, rfl, rfl, rfl⟩),
    ?_, ?_, ?_, ?_, ?_, ?_⟩
  · exact (congrArg (fun a => a.gp 0 d) e1).trans h0
  · exact fun p hp => (congrArg (fun a => a.gp p d) e1).trans (h1 p hp)
  · exact (congrArg Arch.fmode e1).trans h2
  · exact (congrArg Arch.srseed e1).trans h3
  · refine e5.trans ?_
    simp only [TSet.soon, TSet.renew, h4, h.rest.cyc, List.filter_filter, Bool.and_self]
    rfl
  · rw [upCore_at_same]

end Sys2Proof.Machine
end

