-- ==== Sys2Proof/Tests/Slice0.lean ====
section
/-! SUPPORT. The model's own tests: words of the spec's listings, ill-formed terms, results worked out in the spec, and for each
statement states that meet its hypotheses, clause by clause. -/

namespace Sys2Proof.Tests

open Sys2Proof.Machine

set_option Elab.async false

/-- The word (and its literal) decodes to the instruction. -/
noncomputable def reads (w lit : BitVec 32) (i : Instr) : Bool :=
  match decode w lit with
  | .ok j => decide (j = i)
  | .error _ => false

/-- The word is refused for this reason. -/
noncomputable def refuses (w lit : BitVec 32) (e : DecodeError) : Bool :=
  match decode w lit with
  | .ok _ => false
  | .error e' => decide (e' = e)

/-! ### Words of the listings decode (00 R5; 03 R42-R59; the chapter that owns each instruction) -/

theorem test_decode_opr : reads 0x04642801 0 (.sub 3 4 5) ∧ reads 0x04640400 0x12345678 (.addLit 3 4 0x12345678)
    ∧ reads 0x04A60402 0xFFFF0000 (.andLit 5 6 0xFFFF0000) ∧ reads 0x054B6015 0 (.divu 10 11 12)
    ∧ reads 0x04A60018 0 (.clz 5 6) ∧ reads 0x05052810 0 (.mul 8 5 5) ∧ reads 0x06107806 0 (.sll 16 16 15)
    ∧ reads 0x06100405 3 (.andnLit 16 16 3) := by decide

theorem test_decode_immediates : reads 0x0864FFFE 0 (.addi 3 4 0xFFFE) ∧ reads 0x0CA6FF00 0 (.andi 5 6 0xFF00)
    ∧ reads 0x1DEE0001 0 (.sltiu 15 14 1) ∧ reads 0x20A68003 0 (.srai 5 6 3) ∧ reads 0x20A6000C 0 (.slli 5 6 12)
    ∧ reads 0x24A01234 0 (.lui 5 0x1234) := by decide

theorem test_decode_fop : reads 0x2D090500 0x3FC00000 (.faddLit 8 9 1 0x3FC00000) ∧ reads 0x2D095013 0 (.fmadd 8 9 10 0)
    ∧ reads 0x2CA60116 0 (.fcvtSt 5 6 1) ∧ reads 0x2CE8480A 0 (.feq 7 8 9 0)
    ∧ reads 0x2DEF0010 0 (.fcvtfS 15 15 0) ∧ reads 0x2DB5A807 0 (.fsgnj 13 21 21 0)
    ∧ reads 0x2D694802 0 (.fmul 11 9 9 0) := by decide

theorem test_decode_memory : reads 0x31044810 0 (.ld 8 4 2 1 16) ∧ reads 0x312477F8 0 (.ld 9 4 3 2 0x7F8)
    ∧ reads 0x3104A006 0 (.ld 8 4 5 0 6) ∧ reads 0x35049020 0 (.st 8 4 2 1 32) ∧ reads 0x3502CFF8 0 (.st 8 2 3 0 0xFF8)
    ∧ reads 0x392C07FF 0 (.ldl 9 12 0 0x7FF) ∧ reads 0x3D2C4002 0 (.stl 9 12 1 2) := by decide

theorem test_decode_atomics : reads 0x41445879 0 (.amoAdd 10 4 11 1 3 1) ∧ reads 0x4109524B 0 (.amoCas 8 9 10 0 1 3)
    ∧ reads 0x40A63820 0 (.amoSwap 5 6 7 1 0 0) ∧ reads 0x44094000 0 (.redAddF32 9 8 0)
    ∧ reads 0x44094100 0 (.redMaxF32 9 8 0) ∧ reads 0x44091A40 0 (.redAddBf16 9 3 1) := by decide

theorem test_decode_sync : reads 0x48200800 0 (.fence 1 1) ∧ reads 0x48000000 0 (.fence 0 0)
    ∧ reads 0x48602000 0 (.fence 3 4) ∧ reads 0x48000004 0 .rflush ∧ reads 0x48095001 0 (.sigadd 9 10)
    ∧ reads 0x49696002 0 (.waitge 11 9 12) ∧ reads 0x49690003 0 (.ctrrd 11 9) ∧ reads 0x48090005 0 (.discard 9)
    ∧ reads 0x48000006 0 .l1inv := by decide

theorem test_decode_flow : reads 0x50A6FFFD 0 (.bne 5 6 0xFFFD) ∧ reads 0x5CA60005 0 (.bltu 5 6 5)
    ∧ reads 0x60A60007 0 (.bgeu 5 6 7) ∧ reads 0x64200028 0 (.jal 1 0x28) ∧ reads 0x641FFFF9 0 (.jal 0 0x1FFFF9)
    ∧ reads 0x68010000 0 (.jalr 0 1 0) ∧ reads 0x6C003064 0 (.lspan 0 0 3 100) ∧ reads 0x6F005009 0 (.lspan 1 1 5 9)
    ∧ reads 0x70000001 0 (.lexit 1) ∧ reads 0x70000002 0 (.ldis 0) := by decide

theorem test_decode_vector : reads 0x80642A03 0 (.vfma 3 4 5 2 0) ∧ reads 0x80221820 0 (.vadd 1 2 3 0 1)
    ∧ reads 0x80642A0C 0 (.vceq 3 4 5 2 0) ∧ reads 0x80C748BC 0 (.vmaxg 6 7 9 0 5) ∧ reads 0x80A8309E 0 (.vext 5 8 6 4)
    ∧ reads 0x84C71004 0 (.vcvtE4m3F32 6 7 2 0) ∧ reads 0x84430800 0 (.vcvtBf16F32 2 3 1 0)
    ∧ reads 0x854B004B 0 (.bfpenc 10 11 0 2) ∧ reads 0x888C6B20 0 (.vldL 4 12 13 3 1)
    ∧ reads 0x88AC3005 0 (.vgathL 5 12 6 0 0) ∧ reads 0x8D090101 0 (.vredsum 8 9 1 0)
    ∧ reads 0x8CA30027 0 (.mpop 5 3 1) := by decide

theorem test_decode_dual : reads 0x91600000 0 (.dual 2 3) ∧ reads 0x90200000 0 (.dual 0 1)
    ∧ reads 0x95CC0004 0 (.dget 14 12 0 1) ∧ reads 0x952A0005 0 (.dset 9 10 0 1) ∧ reads 0x94640015 0 (.dset 3 4 1 1)
    ∧ reads 0x9500000E 0 (.dclr 8 0 3) ∧ reads 0x9400003E 0 (.dclrAll 1 3) := by decide

theorem test_decode_tensor : reads 0xA1095010 0 (.mmaBf16 8 9 10 0 1 0) ∧ reads 0xB50952EA 0 (.mmaBfp 8 9 10 11 2 1 2)
    ∧ reads 0xA90952D8 0 (.mmaE4m3 8 9 10 11 1 1) ∧ reads 0xB9095010 0 (.mmaS8 8 9 10 1)
    ∧ reads 0xBD000000 0 (.mzero 8 0 0) ∧ reads 0xBD090048 0 (.mtrn 8 9 0 1) := by decide

theorem test_decode_bank_and_copy : reads 0xC18D015A 0 (.hover 12 13 5 3) ∧ reads 0xC1000010 0 (.batt 8 2)
    ∧ reads 0xC0000011 0 (.bdet 2) ∧ reads 0xC000002B 0 (.bwait 5) ∧ reads 0xC120002C 0 (.bqry 9 5)
    ∧ reads 0xC4090044 0 (.tcset 9 4 1) ∧ reads 0xC4090001 0 (.tcissue 9 0) ∧ reads 0xC500000A 0 (.tcqry 8 2) := by
  decide

theorem test_decode_stream_and_barrier : reads 0xC8090008 0 (.sopen 9 1) ∧ reads 0xC80A0009 0 (.ssend 10 0 1)
    ∧ reads 0xC8030029 0 (.ssend 3 1 1) ∧ reads 0xC800000A 0 (.sclose 1) ∧ reads 0xC9600003 0 (.recv 11 0)
    ∧ reads 0xC80C0004 0 (.rrls 12 0) ∧ reads 0xC80D7005 0 (.rring 13 14 0) ∧ reads 0xCC090010 0 (.barr 9 2)
    ∧ reads 0xCD400012 0 (.barws 10 2) ∧ reads 0xCD400011 0 (.barw 10 2) ∧ reads 0xCD600043 0 (.barq 11 1 0)
    ∧ reads 0xCC00002C 0 (.barl 5) := by decide

theorem test_decode_task_and_system : reads 0xD0C00000 0 (.rtnext 6) ∧ reads 0xD0000002 0 .tdone
    ∧ reads 0xD0000003 0 .yield ∧ reads 0xD1090001 0 (.tspawn 8 9) ∧ reads 0xD0090004 0 (.tsync 9)
    ∧ reads 0xD4000000 0 .ecall ∧ reads 0xD4000001 0 .ebreak ∧ reads 0xD4000002 0 .eret
    ∧ reads 0xD4000003 0 .wfi ∧ reads 0xD4090064 0 (.tlbinv 9 3 0) ∧ reads 0xD409006C 0 (.tlbinv 9 3 1)
    ∧ reads 0xD4000094 0 (.tlbinv 0 4 2) ∧ reads 0xD4000005 0 .halt := by decide

theorem test_decode_control_words : reads 0xD9200010 0 (.crd 9 0x010) ∧ reads 0xDC090010 0 (.cwr 9 0x010)
    ∧ reads 0xE0050036 0 (.csetb 5 0x036) ∧ reads 0xE4060010 0 (.cclrb 6 0x010)
    ∧ reads 0xDC0A0103 0 (.cwr 10 0x103) := by decide

/-- Words that 03 R64 and the chapters call illegal: zero, major 0x3F, MMA.S8 with a scale (12), L = 1 with b ≠ 0, a compare into
m0 (06). -/
theorem test_decode_illegal : refuses 0 0 .illegalMajor ∧ refuses 0xFFFFFFFF 0 .illegalMajor
    ∧ refuses 0xB90952D0 0 .nonzeroField ∧ refuses 0x04642C01 0 .nonzeroField
    ∧ refuses 0x80042A0C 0 .reservedValue := by decide

/-- The encoder gives the listing's words back. -/
theorem test_encode : encode (.addLit 3 4 0x12345678) = [0x04640400, 0x12345678] ∧ encode (.amoCas 8 9 10 0 1 3) = [0x4109524B]
    ∧ encode (.mmaBfp 8 9 10 11 2 1 2) = [0xB50952EA] ∧ encode (.tlbinv 0 4 2) = [0xD4000094] := by decide

/-! ### Ill-formed terms are refused, one for each check of `WellFormed` -/

theorem test_wf_refuses : (Instr.fadd 1 2 3 2).wf = false ∧ (Instr.ld 1 2 7 0 0).wf = false ∧ (Instr.ld 1 2 0 3 0).wf = false
    ∧ (Instr.st 1 2 0 2 0).wf = false ∧ (Instr.amoAdd 1 2 3 0 0 5).wf = false ∧ (Instr.fence 4 0).wf = false
    ∧ (Instr.fence 0 5).wf = false ∧ (Instr.tlbinv 0 0 3).wf = false ∧ (Instr.tlbinv 1 0 2).wf = false
    ∧ (Instr.lspan 0 0 0 1).wf = false ∧ (Instr.lspan 0 1 1 32).wf = false ∧ (Instr.vfma 1 2 3 0 3).wf = false
    ∧ (Instr.vand 1 2 3 0 2).wf = false ∧ (Instr.vgathL 1 2 3 0 1).wf = false ∧ (Instr.vceq 0 1 2 0 0).wf = false
    ∧ (Instr.bfpenc 1 2 0 7).wf = false ∧ (Instr.dual 0 0).wf = false ∧ (Instr.dget 1 2 0 3).wf = false
    ∧ (Instr.sagDetect 0 5 1).wf = false := by decide


/-! ### Small states -/

/-- Thread set 0 of core 0, context 0 at privilege 0, at address 0x100000, with nothing in flight. -/
def base : State := { State.reset.withFetchWord 32 0 with agenda := [], issueq := [], cur := 0, cyc := 100 }

/-- The same with some g registers set. -/
def regs (l : List (Reg × Word)) : State := l.foldl (fun s x => s.setG x.1 x.2) base

/-- The same with the thread set changed. -/
def with_ (s : State) (f : TSet → TSet) : State := s.upT s.cur f

/-- DMODE.ON = 1 with both planes acted on. -/
def dualOn : State := base.upA (fun a => { a with dmode := 7 })

/-- At privilege 1. -/
def priv1 : State := base.upA (fun a => { a with status := 5 })

/-- System core 0, running at privilege 3. -/
def sysOn : State :=
  let s := { base with cur := Config.sysBase }
  s.upT Config.sysBase (fun t => { t with halted := false, pc := 0x1000 })

/-- Page entry of a readable and writable page at PLACE = 10, router 0 (20 R366). -/
def ptePlain (frame : Nat) : Word := BitVec.ofNat 64 (frame * 65536 + 2048 + 64 + 32 + 16 + 4 + 2 + 1)
/-- Page entry of a counter page. -/
def pteCtr (frame : Nat) : Word := BitVec.ofNat 64 (frame * 65536 + 2048 + 128 + 64 + 32 + 16 + 4 + 2 + 1)

/-- Page 0x20 is plain memory at frame 0x30, page 0x21 a counter page at frame 0x31. -/
def mapped : State :=
  base.upCore 0 (fun c => { c with utlb := { cid := 0, big := false, page := 0x20, pte := ptePlain 0x30 } ::
    { cid := 0, big := false, page := 0x21, pte := pteCtr 0x31 } :: c.utlb })

/-- A bank in slot 0 of core 0 and context 0, in place 0 of cluster 0. -/
def bank0 : Bank := { data := [(0, 0x11), (3, 0x80)], nxm := false, owner := 0, phys := some 0, bad := false }
def banked : State :=
  let s := base.upCC 0 (fun c => { c with slots := vset c.slots 0 (.attached bank0) })
  s.upCl 0 (fun c => { c with phys := vset c.phys 0 { st := 1, gen := 0 } })

/-- Memory with no slice listed has no slice watchpoint. -/
theorem quiet_slices (s : State) (h : s.slices = []) (home : Nat) : Claims.noSliceWatch s home := by
  unfold Claims.noSliceWatch State.slice
  rw [h]
  exact (by decide : ∀ w, w < 16 → (vget SliceSt.reset.swctl w 0).getLsbD 0 = false)

/-! ### Hypotheses are met: integers, floating point, transfers, loops, dual (05; 15) -/

theorem hyp_IntegerResults : ∃ i d w, Claims.intValue i dualOn = some (d, w, 8) ∧ dualOn.stepping = false :=
  ⟨.remuLit 0 4 0x80000000, _, _, rfl, by decide⟩

theorem hyp_IntegerResults_long : ∃ i d, Claims.longInt i = some (d, 36) ∧ base.stepping = false := ⟨.divu 31 4 5, _, rfl, by decide⟩

theorem hyp_FloatRoundedResults : ∃ i r, Claims.fpRounded i dualOn = some r ∧ dualOn.stepping = false :=
  ⟨.fnmaddLit 0 31 1 0xFFFFFFFF, _, rfl, by decide⟩

theorem hyp_FloatCompared : ∃ i d len w f, Claims.fpToWord i base = some (d, len, w, f) ∧ base.stepping = false :=
  ⟨.fltLit 3 4 0 0x7FC00000, _, _, _, _, rfl, by decide⟩

theorem hyp_FloatMoved : ∃ i d len f c tan, Claims.fpMoved i dualOn = some (d, len, f, c, tan) ∧ dualOn.stepping = false :=
  ⟨.fmin 3 4 5 1, _, _, _, _, _, rfl, by decide⟩

theorem hyp_Transfers : (∃ i o, Claims.branchOf i base = some (true, o) ∧ base.stepping = false) ∧
    (∃ i o, Claims.branchOf i base = some (false, o) ∧ base.stepping = false) ∧
    (base.g 0 + (4 : BitVec 16).signExtend 64).toNat % 4 = 0 ∧ (base.g 0 + (0xFFFE : BitVec 16).signExtend 64).toNat % 4 ≠ 0 :=
  ⟨⟨.beq 0 0 0x8000, _, rfl, by decide⟩, ⟨.bne 0 0 0x7FFF, _, rfl, by decide⟩, by decide, by decide⟩

theorem hyp_LoopInstructions : (Instr.lspan 0 0 1 0).wf = true ∧ (Instr.lspan 1 1 4095 31).wf = true ∧ base.stepping = false ∧
    ∃ s : State, Claims.armed s.me.a 1 = true ∧ Claims.armed s.me.a 0 = false ∧ s.stepping = false :=
  ⟨by decide, by decide, by decide, base.upA (fun a => { a with lstat := 2 }), by decide⟩

/-- Both levels end at the pc, with counts of 2 and 1. -/
def looping : State :=
  base.upA (fun a => { a with lstat := 3, ls := Vector.replicate 2 0xFFF00, le := Vector.replicate 2 0x100000, lc := vset (Vector.replicate 2 1) 1 2 })

theorem hyp_LoopEndChecks : ∃ i d w, Claims.intValue i looping = some (d, w, 4) ∧ looping.stepping = false ∧ looping.user = true ∧
    Claims.ends looping 4 1 = true ∧ 1 < Claims.count looping.me.a 1 ∧ Claims.ends looping 4 0 = true ∧ Claims.count looping.me.a 0 ≤ 1 :=
  ⟨.add 1 2 3, _, _, rfl, by decide⟩

theorem hyp_LoopEndChecks_system : ∃ i d w, Claims.intValue i sysOn = some (d, w, 4) ∧ sysOn.user = false := ⟨.add 1 2 3, _, _, rfl, by decide⟩

theorem hyp_DualInstructions : base.stepping = false ∧ base.me.priv = 0 ∧ (loopEnd base.me.a base.me.pc 4).2.2 = false ∧
    (base.upA (fun a => { a with dmode := 0 })).me.a.dmode.getLsbD 0 = false ∧ dualOn.me.a.dmode.getLsbD 0 = true ∧ priv1.me.priv ≠ 0 ∧
    (Instr.dget 0 31 1 2).wf = true ∧ (Instr.dset 31 0 0 1).wf = true := by decide

theorem hyp_DualInstructions_window : ∃ i d w, ∃ s : State, Claims.intValue i s = some (d, w, 4) ∧ s.stepping = false ∧ s.me.dact = true ∧
    s.me.dwin = 0 ∧ (loopEnd s.me.a s.me.pc 4).2.2 = false :=
  ⟨.add 1 2 3, _, _, base.upA (fun a => { a with status := 0x384 }), rfl, by decide⟩

/-! ### Vectors (06) -/

/-- Lane 3 of v4 is a NaN. -/
def nanLane : State := base.upA (fun a => { a with v := vset a.v 4 (BitVec.ofNat 512 (0x7FC00000 * 2 ^ 96)) })

theorem hyp_VectorLaneResults : ∃ i r, Claims.lanesOf i dualOn = some r ∧ i.wf = true ∧ dualOn.stepping = false :=
  ⟨.vfma 3 4 5 1 2, _, rfl, by decide⟩

theorem hyp_VectorFrames : (∃ i d, Claims.vDest i = some d ∧ base.stepping = false) ∧
    (∃ i r, Claims.narrowOf i base = some r ∧ i.wf = true ∧ base.stepping = false) ∧
    ∃ i r, Claims.narrowOf i base = some r ∧ r.draws = true ∧ i.wf = true :=
  ⟨⟨.bfpenc 31 0 0 6, _, rfl, by decide⟩, ⟨.vcvtE4m3F32 3 4 3 1, _, rfl, by decide⟩, .bfpdec 3 4 0 0, _, rfl, by decide⟩

/-- Stochastic rounding draws once for each active lane of a BFPDEC (04 R78). -/
def stochastic : State := base.upA (fun a => { a with fmode := 5, srseed := 1, m := vset a.m 1 5 })

theorem test_bfpdec_draws_per_active_lane : ∀ t, exec (.bfpdec 3 4 1 0) stochastic = .next t →
    t.me.a.srseed = (srDraw (srDraw 1).2).2 := by
  intro t h; cases h; decide +kernel

/-- Type 1 lanes and integer lanes, governed by m0. -/
theorem hyp_MasksAndScalars : (Instr.vceq 1 4 5 0 0).wf = true ∧ (Instr.vclt 7 4 5 0 7).wf = true ∧ (Instr.vcle 7 4 5 7 3).wf = true ∧
    (Instr.mand 1 2 3).wf = true ∧ (Instr.mor 7 0 0).wf = true ∧ (Instr.mnot 1 0).wf = true ∧ (Instr.vext 0 31 0 7).wf = true ∧
    (Instr.vredsum 3 4 0 7).wf = true ∧ (Instr.vredmax 3 4 0 3).wf = true ∧ (Instr.vredmin 3 4 7 2).wf = true ∧ base.stepping = false := by
  decide

theorem hyp_MasksAndScalars_lanes : Claims.onLanes base 0 3 ≠ [] ∧ Claims.onLanes base 1 0 = [] ∧
    (∃ i c, chooseF (tFmt 0) true ((Claims.onLanes base 0 0).map (fun i => (i, lane (base.me.a.vp 0 4) (tWidth 0) i))) = some (i, c)) ∧
    ∃ k ∈ Claims.onLanes nanLane 0 0, (Claims.floatLane nanLane 0 4 0 k).isNan = true :=
  ⟨by decide, by decide, ⟨0, 0, by decide +kernel⟩, 3, by decide, by decide +kernel⟩

/-! ### Global and local memory (05 R97-R103; 06 R127-R130; 10) -/

/-- g4 = the plain page, g5 = the counter page, g6 = slot 0 of the local space, g2 a value. -/
def mem0 : State := ((mapped.setG 4 0x200000).setG 5 0x210008).setG 2 0x1122334455667788
/-- The same with d1 acted on. -/
def mem1 : State := mem0.upA (fun a => { a with dmode := 3 })
/-- The same while a crossing is pending. -/
def memSpec : State := mem0.upA (fun a => { a with status := 0x44 })

/-- The hits of a plan and the state that its translations leave. -/
def hitsOf (s : State) (c : Checks) (eas : List Word) : List Hit :=
  match (s.plan s.cur c eas).1 with
  | .ok hs => hs
  | _ => []
def afterOf (s : State) (c : Checks) (eas : List Word) : State := (s.plan s.cur c eas).2

/-- All that makes addresses pass that touch the bytes `f` of their hits, as one test. -/
def passingOn (s : State) (c : Checks) (eas : List Word) (f : List Hit → List Touch) : Bool :=
  match s.plan s.cur c eas with
  | (.ok hs, t) => (t.watch t.cur (f hs)).isNone && !t.stepping && t.cur == s.cur && decide (t.me.a = s.me.a)
  | _ => false

def passing (s : State) (c : Checks) (eas : List Word) (n : Nat) (rd wr : Bool) : Bool := passingOn s c eas (touches n rd wr)

theorem passesOn (s : State) (c : Checks) (eas : List Word) (f : List Hit → List Touch) (h : passingOn s c eas f = true) :
    Claims.PassesOn s c eas (f (hitsOf s c eas)) (hitsOf s c eas) (afterOf s c eas) := by
  unfold passingOn at h
  unfold Claims.PassesOn hitsOf afterOf
  split at h
  · rename_i heq
    simp only [Bool.and_eq_true, Option.isNone_iff_eq_none, Bool.not_eq_true', beq_iff_eq, decide_eq_true_eq] at h
    rw [heq]
    exact ⟨rfl, h.1.1.1, h.1.1.2, h.1.2, h.2⟩
  · exact absurd h (by decide)

theorem passes (s : State) (c : Checks) (eas : List Word) (n : Nat) (rd wr : Bool) (h : passing s c eas n rd wr = true) :
    Claims.Passes s c eas n rd wr (hitsOf s c eas) (afterOf s c eas) := passesOn s c eas (touches n rd wr) h

/-- The one hit of a plan of one address. -/
def hit1 (s : State) (c : Checks) (eas : List Word) : Hit := (hitsOf s c eas).headD { ea := 0, pa := 0, home := 0, pte := 0 }

theorem passes1 (s : State) (c : Checks) (eas : List Word) (n : Nat) (rd wr : Bool) (h : passing s c eas n rd wr = true)
    (h1 : hitsOf s c eas = [hit1 s c eas]) : Claims.Passes s c eas n rd wr [hit1 s c eas] (afterOf s c eas) :=
  h1 ▸ passes s c eas n rd wr h

/-- The bytes 0x300000-0x30002F stand in core 0's L1. -/
def memL1 : State :=
  { (mem0.upCore 0 (fun c => { c with l1 := [{ sector := 0x10000, mask := 0xFFFFFFFFFFFF, data := 0xAB, seq := 5, cid := 0 }] })) with seq := 5 }

theorem hyp_LoadsComplete : ∃ hs s1, Claims.Passes mem1 { kind := .load, al := 8, ctr := none, regs := true }
      ((mem1.me.planes (loadDual 3)).map (mem1.me.a.gea (mem1.ea 4 (0x3F8 : BitVec 11)))) 8 true false hs s1 ∧ (∀ h ∈ hs, s1.isReg h.pa = false) ∧
    (Instr.ld 3 4 3 0 0x3F8).wf = true := ⟨_, _, passes _ _ _ _ _ _ (by decide +kernel), by decide +kernel⟩

theorem hyp_LoadsComplete_served : ∃ h s1 x, Claims.Passes memL1 { kind := .load, al := 1, ctr := none, regs := false }
      ((memL1.me.planes (loadDual 0)).map (memL1.me.a.gea (memL1.ea 4 (0 : BitVec 11)))) 1 true false [h] s1 ∧ s1.isReg h.pa = false ∧
    h.pte.getLsbD 9 = false ∧ s1.me.specOn = false ∧ s1.l1Read memL1.cur 0 h.pa 1 = some x :=
  ⟨_, _, _, passes1 _ _ _ _ _ _ (by decide +kernel) (by decide +kernel), by decide +kernel, by decide +kernel, by decide +kernel,
    (Option.some_get (by decide +kernel)).symm⟩

theorem hyp_LoadsComplete_sent : ∃ hs s1, Claims.Passes memSpec { kind := .load, al := 4, ctr := none, regs := false }
      ((memSpec.me.planes (loadDual 2)).map (memSpec.me.a.gea (memSpec.ea 4 (4 : BitVec 11)))) 4 true false hs s1 ∧ s1.me.specOn = true ∧
    (memSpec.me.planes (loadDual 2)).zip hs ≠ [] := ⟨_, _, passes _ _ _ _ _ _ (by decide +kernel), by decide +kernel⟩

theorem hyp_StoresComplete : ∃ hs s1, Claims.Passes mem1 { kind := .store, al := 4, ctr := some true, regs := false }
      ((mem1.me.planes (storeDual 2)).map (mem1.me.a.gea (mem1.ea 4 (0x7FC : BitVec 12)))) 4 false true hs s1 ∧ (∀ h ∈ hs, s1.isReg h.pa = false) ∧
    (Instr.st 2 4 2 1 0x7FC).wf = true ∧ s1.me.specOn = false ∧ (mem1.me.planes (storeDual 2)).zip hs ≠ [] :=
  ⟨_, _, passes _ _ _ _ _ _ (by decide +kernel), by decide +kernel⟩

theorem hyp_StoresComplete_held : ∃ hs s1, Claims.Passes memSpec { kind := .store, al := 8, ctr := some true, regs := true }
      ((memSpec.me.planes (storeDual 3)).map (memSpec.me.a.gea (memSpec.ea 4 (0x7F8 : BitVec 12)))) 8 false true hs s1 ∧
    (∀ h ∈ hs, s1.isReg h.pa = false) ∧ s1.me.specOn = true ∧ (s1.core (coreOf memSpec.cur)).hold.length + 2 * hs.length ≤ 64 :=
  ⟨_, _, passes _ _ _ _ _ _ (by decide +kernel), by decide +kernel⟩

/-- A request of core 0 at the last bytes of a line of page 0x30. -/
def rq (k : ReqKind) (len : Nat) : Req :=
  { who := 0, agent := .thread, cid := 0, kind := k, pa := 0x3000C0 - len, home := 0, len := len, data := 7, mask := 0xFFFFFFFFFFFFFFFF, cmp := 3
    va := 0x200000, dst := .g 3 0 3, acq := false, rel := false, fill := false, rm := false, die := 0, spec := none, chans := []
    own := 1, lanes := [], iss := 0, pl := 0, drain := false, p00 := false }

/-- Every entry of core 0's hold buffer holds a store of thread set 1. -/
def memFull : State :=
  memSpec.upCore 0 (fun c => { c with hold := List.replicate 64 { sector := 0x10003, r := { rq .store 8 with who := 1 }, rel := false, ties := [] } })

theorem hyp_StoresComplete_full : ∃ hs s1, Claims.Passes memFull { kind := .store, al := 8, ctr := some true, regs := true }
      ((memFull.me.planes (storeDual 3)).map (memFull.me.a.gea (memFull.ea 4 (0x7F8 : BitVec 12)))) 8 false true hs s1 ∧
    (∀ h ∈ hs, s1.isReg h.pa = false) ∧ s1.me.specOn = true ∧ 64 ≤ (s1.core (coreOf memFull.cur)).hold.length ∧
    (s1.core (coreOf memFull.cur)).hold.all (fun h => h.r.who != memFull.cur) = true :=
  ⟨_, _, passes _ _ _ _ _ _ (by decide +kernel), by decide +kernel⟩

/-- A crossing of channel 0 at the slice 0, all 1024 marks of which stand. -/
def memMarked (n : Nat) : State :=
  (memSpec.upT 0 (fun t => { t with spec := some { chk := t.a, pc := t.pc, d := 0, h := 0, chan := 0, gen := 0 } })).upSlice 0
    (fun c => { c with marks := List.replicate n { line := 0, chan := 0, gen := 0 } })

theorem hyp_LoadsComplete_marks (n : Nat) (hn : n = 0 ∨ n = 1024) : ∃ hs s1, Claims.Passes (memMarked n) { kind := .load, al := 4, ctr := none, regs := false }
      (((memMarked n).me.planes (loadDual 2)).map ((memMarked n).me.a.gea ((memMarked n).ea 4 (4 : BitVec 11)))) 4 true false hs s1 ∧
    s1.markFull hs = decide (n = 1024) := by
  rcases hn with rfl | rfl
  · exact ⟨_, _, passes _ _ _ _ _ _ (by decide +kernel), by decide +kernel⟩
  · exact ⟨_, _, passes _ _ _ _ _ _ (by decide +kernel), by decide +kernel⟩

theorem hyp_VectorGlobalAccesses : ∃ hs s1, Claims.PassesOn memSpec { kind := .load, al := 64, ctr := none, regs := false }
      ((memSpec.me.planes true).map (memSpec.me.a.gea (memSpec.g 4 + memSpec.g 0))) (Claims.laneTouches memSpec 0 0 true false hs) hs s1 ∧
    s1.markFull hs = false ∧ s1.me.specOn = true ∧ (memSpec.me.planes true).zip hs ≠ [] :=
  ⟨_, _, passesOn _ _ _ (Claims.laneTouches memSpec 0 0 true false) (by decide +kernel), by decide +kernel⟩

theorem hyp_VectorGlobalAccesses_strided : ∃ hs s1,
    let xs := (memSpec.me.planes true).flatMap (fun p => (Claims.onLanes memSpec 0 2).map (fun i => (p, i)))
    Claims.Passes memSpec { kind := .load, al := 2, ctr := none, regs := false }
      (xs.map (fun x => memSpec.me.a.gea (memSpec.g 4 + BitVec.ofNat 64 x.2 * memSpec.g 0) x.1)) 2 true false hs s1 ∧ s1.me.specOn = true ∧
    xs.zip hs ≠ [] := ⟨_, _, passes _ _ _ _ _ _ (by decide +kernel), by decide +kernel⟩

theorem hyp_VectorGlobalAccesses_store : ∃ hs s1, Claims.PassesOn mem1 { kind := .store, al := 64, ctr := some true, regs := false }
      ((mem1.me.planes true).map (mem1.me.a.gea (mem1.g 4 + mem1.g 0))) (Claims.laneTouches mem1 0 0 false true hs) hs s1 ∧
    s1.me.specOn = false ∧ laneBytes (mem1.me.a.mp 0) (tWidth 0) ≠ 0 ∧ (mem1.me.planes true).zip hs ≠ [] :=
  ⟨_, _, passesOn _ _ _ (Claims.laneTouches mem1 0 0 false true) (by decide +kernel), by decide +kernel⟩

/-- The last bytes of slot 0 stand at the address in g6, and lane addresses in v5. -/
def loc0 : State := (banked.setG 6 0xFFC0).upA (fun a => a.setV 0 5 0)

theorem banks_ok (s : State) (x : Nat × CC) (h : s.ccs = [x])
    (hx : (x.2.slots.toList.all (fun sl => match sl.bank? with | some b => Memory.wf b.data | none => true)) = true) : s.banksOk := by
  intro cc n b hb
  unfold State.cc at hb
  rw [h] at hb
  have key : ∀ c : CC, (c.slots.toList.all (fun sl => match sl.bank? with | some b => Memory.wf b.data | none => true)) = true →
      (c.slot n).bank? = some b → Memory.wf b.data = true := by
    intro c hc hb
    unfold CC.slot vget at hb
    split at hb
    · have := List.all_eq_true.mp hc (c.slots[n]) (by simp)
      rw [hb] at this
      exact this
    · exact absurd hb (by simp [Slot.bank?])
  obtain ⟨k, c⟩ := x
  simp only [mget] at hb
  split at hb
  · exact key c hx hb
  · split at hb <;> exact key CC.reset (by decide) hb

theorem hyp_LocalAccesses : loc0.banksOk ∧ loc0.me.planes (storeDual 3) = [0] ∧
    Claims.LocalOk loc0 (loadLen 3) (loadLen 3) true false ((loc0.me.planes (loadDual 3)).map (loc0.me.a.lea (loc0.ea 6 (0x38 : BitVec 11)))) ∧
    Claims.LocalOk loc0 (storeLen 3) (storeLen 3) false true ((loc0.me.planes (storeDual 3)).map (loc0.me.a.lea (loc0.ea 6 (0x38 : BitVec 12)))) ∧
    Claims.LocalLanes loc0 0 0 true false ((loc0.me.planes true).map (loc0.me.a.lea (loc0.g 6 + loc0.g 0))) ∧
    Claims.LocalLanes loc0 0 0 false true ((loc0.me.planes true).map (loc0.me.a.lea (loc0.g 6 + loc0.g 0))) ∧
    (laneBytes (loc0.me.a.mp 0) (tWidth 0)).getLsbD 63 = true ∧
    (laneBytes 1 (tWidth 0)).getLsbD 63 = false := by
  refine ⟨banks_ok _ _ rfl (by decide +kernel), ?_⟩
  unfold Claims.LocalLanes Claims.LocalOk Claims.LocalOn
  decide +kernel

theorem hyp_LocalAccesses_gather (w : Bool) : Claims.LocalOk loc0 4 4 (!w) w ((loc0.me.planes true).flatMap (fun p =>
    (active (loc0.me.a.mp 0) 16).map (fun i => loc0.me.a.lea (loc0.g 6 + BitVec.ofNat 64 (lane (loc0.me.a.vp 0 5) 32 i)) p))) := by
  unfold Claims.LocalOk Claims.LocalOn
  cases w <;> decide +kernel

theorem one_line (k : ReqKind) (len : Nat) (h : len ∈ [4, 8]) : Claims.oneLine (rq k len) := by
  have key : ∀ n ∈ [4, 8], (0x3000C0 - n) % 192 + n ≤ 192 ∧ ∀ i, i < n → lineKey (0x3000C0 - n + i) = lineKey (0x3000C0 - n) := by decide +kernel
  exact key len h

theorem hyp_LoadsAndStoresPerformed : (rq .load 8).rm = false ∧ isSys (rq .load 8).who = false ∧ (rq .load 8).spec = none ∧
    Claims.oneLine (rq .load 8) ∧ Claims.noSliceWatch mem0 0 ∧ (rq .store 8).kind = .store ∧ mem0.repDies (lineKey (rq .store 8).pa) = [] ∧
    (rq .load 8).dst = .g 3 0 3 ∧ Claims.unheld mem0 (rq .store 8) ∧ Claims.unheld mem0 { rq .store 8 with who := Config.sysBase } :=
  ⟨rfl, by decide +kernel, rfl, one_line _ 8 (by decide), quiet_slices _ rfl _, rfl, by decide +kernel, rfl, .inl (by decide +kernel),
    .inr (by decide +kernel)⟩

/-- Die 1 holds a replica of the line. -/
def replicated : State := { mem0 with reps := [(repKey 1 (lineKey (rq .store 8).pa), { valid := 15, dirty := 0, data := 0, tag := 0 })] }

theorem hyp_LoadsAndStoresPerformed_replica : replicated.repDies (lineKey (rq .store 8).pa) ≠ [] ∧ Claims.noSliceWatch replicated 0 :=
  ⟨by decide +kernel, quiet_slices _ rfl _⟩

theorem hyp_Atomics : ∃ h s1, Claims.amoCode (.amoCas 3 4 2 1 3 0) = some (9, 3, 4, 2, 1, 3, 0) ∧
    Claims.Passes mem0 (rmwChecks 8) [mem0.g 4] 8 true true [h] s1 :=
  ⟨_, _, rfl, passes1 _ _ _ _ _ _ (by decide +kernel) (by decide +kernel)⟩

theorem hyp_Atomics_performed : (rq (.amo 0) 4).kind = .amo 0 ∧ (rq (.amo 9) 8).len = 8 ∧ Claims.oneLine (rq (.amo 0) 4) ∧
    mem0.repDies (lineKey (rq (.amo 0) 4).pa) = [] ∧ Claims.noSliceWatch mem0 0 ∧ (rq (.amo 0) 4).dst = .g 3 0 3 ∧
    Claims.unheld mem0 (rq (.amo 0) 4) :=
  ⟨rfl, rfl, one_line _ 4 (by decide), by decide +kernel, quiet_slices _ rfl _, rfl, .inl (by decide +kernel)⟩

theorem hyp_Reductions : (∃ i hs s1, Claims.redCode i = some (1, 2, 4, 2, 0) ∧
      Claims.Passes mem1 (rmwChecks 2) ((mem1.me.planes (decide (1 ≤ 1))).map (mem1.me.a.gea (mem1.g 4))) 2 false true hs s1 ∧ isSys mem1.cur = false) ∧
    ∃ i hs s1, Claims.redCode i = some (3, 8, 4, 2, 1) ∧
      Claims.Passes mem0 (rmwChecks 64) ((mem0.me.planes (decide (3 ≤ 1))).map (mem0.me.a.gea (mem0.g 4))) 64 false true hs s1 :=
  ⟨⟨.redAddBf16 4 2 0, _, _, rfl, passes _ _ _ _ _ _ (by decide +kernel), by decide +kernel⟩, .redAddS64 4 2 1, _, _, rfl,
    passes _ _ _ _ _ _ (by decide +kernel)⟩

/-- A reduction message with one addend in the last lane of its line. -/
def red1 (op k : Nat) : Req := { rq (.red op) 8 with lanes := [(k, 1)], pa := 0x300000 }

/-- A vector one, with addends in the first and the last lanes of its line. -/
def red2 : Req := { red1 3 23 with lanes := [(0, 1), (23, 2)], len := 64 }

theorem hyp_Reductions_applied : red2.kind = .red 3 ∧ Claims.lanesOk red2 3 ∧ mem0.inQuota red2 = true ∧
    mem0.hasRoom red2 = true ∧ mem0.repDies (lineKey red2.pa) = [] ∧ Claims.noSliceWatch mem0 0 ∧ Claims.unheld mem0 red2 := by
  refine ⟨rfl, ⟨by decide +kernel, ?_⟩, by decide +kernel, by decide +kernel, by decide +kernel, quiet_slices _ rfl _, .inl (by decide +kernel)⟩
  have h : ∀ p ∈ red2.lanes, redW 3 * p.1 + redW 3 ≤ 192 ∧ ∀ j, j < redW 3 → lineKey (laneAddr red2 p.1 + j) = lineKey red2.pa := by
    decide +kernel
  exact fun k x hx => h (k, x) hx

/-- The context's quota is spent, and the queue has an entry free, or none. -/
theorem hyp_Reductions_room : let s (n : Nat) := mem0.upSlice 0 (fun c => { c with rq := List.replicate n (4, 0), cnt := [(cntKey red2, 1000)] })
    (s 47).inQuota red2 = false ∧ (s 47).hasRoom red2 = true ∧ ((s 47).slice red2.home).rq.length < 48 ∧
    (s 64).hasRoom red2 = false ∧ (mem0.upSlice 0 (fun c => { c with rq := List.replicate 64 (4, 0) })).inQuota red2 = true ∧
    (mem0.upSlice 0 (fun c => { c with rq := List.replicate 64 (4, 0) })).hasRoom red2 = false := by decide +kernel

/-- A request of core 0 matches the entry 31 of its tile, and none of an empty tile. -/
theorem hyp_Reductions_tile : let s := mem0.upCore 0 (fun c => { c with tile := vset c.tile 31 (some { r := red1 3 23, born := 0 }) })
    s.tileMatch 0 (red1 3 23) = some 31 ∧ vget (s.core 0).tile 31 none = some { r := red1 3 23, born := 0 } ∧
    mem0.tileMatch 0 (red1 3 23) = none := by decide +kernel

/-- The home slice's reduction queue is full and the context's quota is spent. -/
def redFull : State :=
  mem0.upSlice 0 (fun c => { c with rq := List.replicate 48 (4, 0), cnt := [(cntKey (red1 3 0), 1000)] })

theorem hyp_Reductions_refused : redFull.inQuota (red1 3 0) = false ∧ 48 ≤ (redFull.slice (red1 3 0).home).rq.length := by decide +kernel

theorem hyp_ResidualTile : ((mem0.core (coreOf (red1 0 0).who)).act = some (red1 0 0).cid) ∧
    mem0.tileMatch (coreOf (red1 0 0).who) { red1 0 0 with own := (red1 0 0).own ||| BitVec.ofNat 4 (2 ^ tsOf (red1 0 0).who) } = none ∧
    (∀ k, k < 4 → mem0.relWaits (tkOf (red1 0 0).cid (coreOf (red1 0 0).who * 4 + k)) = false) ∧
    ∃ i, i < 32 ∧ vget (mem0.core (coreOf (red1 0 0).who)).tile i none = none :=
  ⟨by decide +kernel, by decide +kernel, by decide +kernel, 31, by decide +kernel⟩

theorem hyp_ResidualTile_ending : mem0.ending (red1 0 0).cid = false ∧
    (mem0.upDie 1 (fun d => { d with tbusy := true, tcid := 0 })).ending (red1 0 0).cid = true := by decide +kernel

/-- The last entry of the residual tile holds an addend since cc 0, at cc 4096. -/
def tiled : State := { (mem0.upCore 0 (fun c => { c with tile := vset c.tile 31 (some { r := red1 0 0, born := 0 }) })) with cyc := 4096 }

theorem hyp_ResidualTile_age : (vget (tiled.core 0).tile 31 none).isSome = true ∧ (0 : Nat) + 4096 ≤ tiled.cyc := by decide +kernel

/-! ### Fences, counters, maintenance, planes (10 R186-R202; 02 R27) -/

/-- The current thread set waits. -/
def waiting (s : State) (w : Wait) : State := with_ s (fun t => { t with wait := some w })

/-- A word of memory. -/
def put (s : State) (pa : Nat) (w : Word) : State := { s with mem := memWrite s.mem pa (wordLe w 8) }

theorem hyp_Fences : isSys tiled.cur = false ∧ ∃ e, vget (tiled.core (coreOf tiled.cur)).tile 31 none = some e ∧
    e.r.own.getLsbD (tsOf tiled.cur) = true ∧ e.r.cid = cidOf tiled.cur :=
  ⟨by decide, { r := red1 0 0, born := 0 }, by decide +kernel⟩

theorem hyp_Fences_performed : ((waiting mem0 (.fence 2 true)).t 0).wait = some (.fence 2 true) ∧ Claims.quietTs (waiting mem0 (.fence 2 true)) 0 ∧
    (Claims.from_ (waiting mem0 (.fence 2 true)) 0).stepping = false ∧ ((waiting mem0 .rflush).t 0).wait = some .rflush := by
  refine ⟨by decide +kernel, ?_, by decide +kernel⟩
  intro x hx
  exact absurd hx List.not_mem_nil

theorem hyp_Fences_not_ready : let s := (waiting mem0 (.fence 2 true)).push (.homeLoadServe (rq .load 8))
    (s.t 0).wait = some (.fence 2 true) ∧ s.relReady 0 = false := by decide +kernel

theorem hyp_CounterAdditions : ∃ h s1, Claims.Passes mem0 (ctrChecks .rmw) [mem0.g 5] 8 false true [h] s1 :=
  ⟨_, _, passes1 _ _ _ _ _ _ (by decide +kernel) (by decide +kernel)⟩

/-- A counter at the address of `rq` and a SIGADD that waits for its reply; thread set 4 waits for the counter. -/
def counting (c : Nat) : State :=
  let s := put (waiting priv1 .sigadd) 0x3000B8 (BitVec.ofNat 64 c)
  s.upSlice 0 (fun x => { x with wait := [(.ts 4, 0x3000B8, 0xFFFFFFFFFFFFFFFF)] })

theorem counting_quiet (c : Nat) : Claims.noSliceWatch (counting c) 0 := by
  unfold Claims.noSliceWatch
  exact (by decide : ∀ w, w < 16 → (vget SliceSt.reset.swctl w 0).getLsbD 0 = false)

theorem hyp_CounterAdditions_applied : (rq .sigadd 8).len = 8 ∧ Claims.oneLine (rq .sigadd 8) ∧ Claims.noSliceWatch (counting 0xFFFFFFFFFFFFFFF8) 0 ∧
    ((counting 0xFFFFFFFFFFFFFFF8).t 0).wait = some .sigadd ∧
    Claims.memNat (counting 0xFFFFFFFFFFFFFFF8) 0 0x3000B8 8 + (rq .sigadd 8).data.toNat % 2 ^ 64 < 2 ^ 64 ∧
    (Claims.from_ (counting 0xFFFFFFFFFFFFFFF8) 0).stepping = false ∧ Claims.unheld (counting 0xFFFFFFFFFFFFFFF8) (rq .sigadd 8) :=
  ⟨rfl, one_line _ 8 (by decide), counting_quiet _, by decide +kernel, by decide +kernel, by decide +kernel, .inl (by decide +kernel)⟩

theorem hyp_CounterAdditions_overflow : 2 ^ 64 ≤ Claims.memNat (counting 0xFFFFFFFFFFFFFFF9) 0 0x3000B8 8 + (rq .sigadd 8).data.toNat % 2 ^ 64 ∧
    Claims.ToHandler (counting 0xFFFFFFFFFFFFFFF9) 0 := ⟨by decide +kernel, by decide +kernel, .inr (by decide +kernel), by decide +kernel⟩

theorem hyp_CounterWaits : ∃ h s1, Claims.Passes mem0 (ctrChecks .load) [mem0.g 5] 8 true false [h] s1 :=
  ⟨_, _, passes1 _ _ _ _ _ _ (by decide +kernel) (by decide +kernel)⟩

/-- A WAITGE with target 3 on a counter of this value, with `n` waiters in the slice. -/
def awaiting (c n : Nat) : State :=
  (put (waiting mem0 (.waitge 3 (rq .waitge 8) false)) 0x3000B8 (BitVec.ofNat 64 c)).upSlice 0
    (fun x => { x with wait := List.replicate n (.ts 4, 0, 0) })

theorem hyp_CounterWaits_woken : Claims.oneLine { rq .waitge 8 with len := 8 } ∧ Claims.unheld (awaiting 3 0) (rq .waitge 8) ∧
    ((awaiting 3 0).t 0).wait = some (.waitge 3 (rq .waitge 8) false) ∧ (rq .waitge 8).cmp.toNat ≤ Claims.memNat (awaiting 3 0) 0 0x3000B8 8 ∧
    (Claims.from_ (awaiting 3 0) 0).stepping = false ∧ Claims.memNat (awaiting 2 255) 0 0x3000B8 8 < (rq .waitge 8).cmp.toNat ∧
    ((awaiting 2 255).slice 0).wait.length < 256 ∧ 256 ≤ ((awaiting 2 256).slice 0).wait.length :=
  ⟨one_line _ 8 (by decide), .inl (by decide +kernel), by decide +kernel⟩

theorem hyp_CounterWaits_timeout : let s := with_ priv1 (fun t => { t with wait := some (.barw 0 3), wclk := 1 })
    (s.t 0).wait = some (.barw 0 3) ∧ (Wait.barw 0 3).bounded = true ∧ (∀ n, Wait.barw 0 3 ≠ .expired n) ∧ (s.t 0).wlim < (s.t 0).wclk ∧
    Claims.ToHandler s 0 :=
  ⟨by decide +kernel, rfl, fun n h => (nomatch h), by decide +kernel, by decide +kernel, .inr (by decide +kernel), by decide +kernel⟩

/-- At privilege 0 a wait is over its limit while a load is outstanding; and a wait that is over. -/
theorem hyp_CounterWaits_late :
    (with_ mem0 (fun t => { t with wait := some (.barw 0 3), wclk := 1, busy := [{ cls := 0, r := 3, due := none }] })).mustLand 0 cTimeout = true ∧
    (let s := with_ priv1 (fun t => { t with wait := some (.expired 1) });
      (s.t 0).wait = some (.expired 1) ∧ (s.t 0).spec = none ∧ (s.t 0).priv ≠ 0 ∧ (s.t 0).pmctl.getLsbD 5 = false) := by decide +kernel

/-- The bytes of the line part that a DISCARD names. -/
def discarded (h : Hit) : Touch :=
  let lo := max (h.pa / 192 * 192) (h.pa / 65536 * 65536)
  let hi := min (h.pa / 192 * 192 + 192) (h.pa / 65536 * 65536 + 65536)
  { lo := h.ea.toNat - (h.pa - lo), len := hi - lo, rd := false, wr := true, loc := false }

theorem hyp_CacheMaintenance : ∃ h s1, mem0.plan mem0.cur (rmwChecks 1) [mem0.g 4] = (.ok [h], s1) ∧ s1.cur = mem0.cur ∧
    s1.stepping = false ∧ s1.watch s1.cur [discarded h] = none := by
  have h := passes1 mem0 (rmwChecks 1) [mem0.g 4] 1 false true (by decide +kernel) (by decide +kernel)
  exact ⟨_, _, h.1, h.2.2.2.1, h.2.2.1, by decide +kernel⟩

theorem hyp_CacheMaintenance_slice : (rq .discard 8).kind = .discard ∧ mem0.repDies (lineKey (rq .discard 8).pa) = [] ∧
    Claims.noSliceWatch mem0 0 ∧ ((mem0.slice 0).l2.map Prod.fst).Pairwise (· < ·) := ⟨rfl, by decide +kernel, quiet_slices _ rfl _, by decide +kernel⟩

theorem hyp_ResultsAndPlanes : let s := with_ mem0 (fun t => { t with quiet := 4096, a := { t.a with dmode := 10 } })
    (s.t 0).a.dmode.getLsbD 4 = false ∧ 4096 ≤ (s.t 0).quiet ∧ (s.t 0).a.dmode.getLsbD 0 = false ∧ (s.t 0).dact = false ∧ (s.t 0).spec = none ∧
    (s.core (coreOf 0)).act = some (cidOf 0) ∧ ((s.upCore 0 (fun c => { c with act := none })).core (coreOf 0)).act ≠ some (cidOf 0) ∧
    (mem0.t 0).quiet < 4096 ∧ ((with_ mem0 (fun t => { t with wakeAt := some 5 })).t 0).wakeAt ≠ none := by decide +kernel

/-! ### Exceptions, control words, walks, contexts (20) -/

theorem plain (s : State) (tk : Nat) (h : (s.t tk).spec = none ∧ (s.t tk).specOn = false ∧ (s.t tk).pmctl.getLsbD 5 = false) : Claims.Plain s tk := h

theorem hyp_TrapsEnterHandlers : Claims.Plain mem0 0 ∧ Claims.Plain priv1 0 ∧ (priv1.t 0).priv ≠ 0 ∧ (0x1B : Nat) < 0x1C ∧
    Claims.Plain sysOn sysOn.cur ∧ isSys sysOn.cur = true := 
  ⟨plain _ _ (by decide +kernel), plain _ _ (by decide +kernel), by decide +kernel, by decide, plain _ _ (by decide +kernel), by decide +kernel⟩

/-- A launch record with one task of 100 iterations. -/
def record1 : BitVec 2048 := BitVec.ofNat 2048 (0x100000 + 100 * 2 ^ 192)
def launch1 : Launch := { seq := 1, va := 0x400000, pa := 0x40000, cid := 0, q := 0, snap := record1, left := 2, first := [] }
def task1 : Task := { tcb := 0x200000, seq := 1, low := 0, cid := 0, st := 2, pos := 0, hv := true, split := false, wait := none, wclk := 0
                      wlim := 0, size := 0, req := none }
/-- The bound task of thread set 0 and its launch as the dispatcher holds them. -/
def tasked : State := base.upPart 0 (fun p => { p with launches := [launch1], tasks := [task1], used := [0x200000] })

theorem hyp_UserFaultsPark : isSys 0 = false ∧ (tasked.t 0).priv = 0 ∧ Claims.Plain tasked 0 ∧ (∀ b ∈ (tasked.t 0).busy, b.due ≠ none) ∧
    (tasked.t 0).bound = some 0x200000 ∧ tasked.task? (tasked.partOf 0) 0x200000 = some task1 ∧
    tasked.launch? (tasked.partOf 0) task1.cid task1.seq = some launch1 :=
  ⟨by decide +kernel, by decide +kernel, plain _ _ (by decide +kernel), by decide +kernel⟩

theorem hyp_PrivilegedInstructions : priv1.me.priv ≠ 0 ∧ (with_ priv1 (fun t => { t with escr := 4 })).me.escr.toNat % 4 ≤ 1 ∧ sysOn.me.priv = 3 ∧
    mem0.me.priv = 0 ∧ priv1.me.priv < (with_ priv1 (fun t => { t with escr := 3 })).me.escr.toNat % 4 ∧ priv1.me.priv ≠ 3 ∧
    (let s := with_ priv1 (fun t => { t with cause := 0x22, epc := 0x100000, watch := some 0x100000, escr := 4 });
      s.me.cause = 0x22 ∧ s.me.watch = some s.me.epc ∧ s.me.escr.toNat % 4 ≤ s.me.priv) := by decide +kernel

theorem hyp_PrivilegedInstructions_tlbinv : isSys priv1.cur = false ∧ priv1.draining (priv1.partOf 0) = false ∧ isSys sysOn.cur = true ∧
    (priv1.upDie 0 (fun d => { d with state := 1, drained := true })).draining (priv1.partOf 0) = true := by decide +kernel

/-- An ERET past a covered ECALL, and one back to it. -/
theorem hyp_PrivilegedInstructions_pastCall :
    (with_ priv1 (fun t => { t with cause := 0x20, callAt := some 0x100000, epc := 0x100004, escr := 0xB0 })).me.pastCall = true ∧
    (with_ priv1 (fun t => { t with cause := 0x20, callAt := some 0x100000, epc := 0x100000, escr := 0xB0 })).me.pastCall = false := by
  decide +kernel

/-- An EPC that the handler has moved on gives no exemption (23 R404). -/
theorem test_eret_elsewhere : ((with_ priv1 (fun t => { t with cause := 0x22, epc := 0x100004, watch := some 0x100000, escr := 4 })).eret).me.exempt = none := by
  decide +kernel

/-- Lines 1 and 7 are pending; or a termination is posted to the position. -/
def lined : State := with_ base (fun t => { t with irq := 0x82 })
def termed : State := base.upCtx 0 (fun c => { c with state := 5, terms := [(0x55, none)] })

theorem hyp_InterruptsDelivered : Claims.Plain lined 0 ∧ isSys 0 = false ∧ (lined.core (coreOf 0)).act = some (cidOf 0) ∧ (lined.t 0).bound ≠ none ∧
    (lined.t 0).ie = true ∧ (lined.t 0).stopped = false ∧ (lined.t 0).sent = false ∧ lined.inFlight (fun e => e == .specCommit 0) = false ∧
    (Claims.resumeArch lined 0).status.getLsbD 6 = false ∧ (lined.ctx 0).terms = [] ∧
    (lined.t 0).irq.getLsbD 1 = true ∧ (∀ j, j < 1 → (lined.t 0).irq.getLsbD j = false) ∧
    (termed.ctx (cidOf 0)).state.toNat / 2 ^ 16 % 2 ^ 13 = posOf 0 ∧ (termed.ctx (cidOf 0)).state.getLsbD 2 = true ∧ (termed.ctx (cidOf 0)).terms ≠ [] := by
  refine ⟨plain _ _ (by decide +kernel), ?_⟩
  decide +kernel

/-- A long operation at 0x0FF8 with 20 cc to go, and one whose last cc has passed. -/
theorem hyp_InterruptsDelivered_undo : let s (due : Nat) := with_ lined (fun t => { t with undo := some (Arch.reset, 0xFF8, due) })
    Claims.resumePc (s 120) 0 = 0xFF8 ∧ Claims.resumePc (s 100) 0 = (lined.t 0).pc ∧ (Claims.resumeArch (s 120) 0).status.getLsbD 6 = false := by
  decide +kernel

/-- A partition descriptor at 0x10000 with CIDs 0 to 15, context descriptors at 0x20000; context 0 is resident and VALID. -/
def described : State :=
  let s := put (put mem0 0x10008 0x20000) 0x10010 (16 * 4096)
  let s := s.upDie 0 (fun d => { d with pdesc := 0x10000 })
  s.upCtx 0 (fun c => { c with res := 1, state := 1 })

theorem hyp_InterruptsDelivered_ipost : described.cidIn (described.partOfDie (dieOfRouter (0 / 32))) 0 = true ∧ (described.ctx 0).res ≠ 0 ∧
    (described.ctx 0).state.getLsbD 0 = true ∧ (mfind described.ts (tkOf 0 0)).isSome = true := by decide +kernel

theorem hyp_ControlWords : (∃ r, cwRow (0x010 : BitVec 10).toNat = some r ∧ r.user ≠ 0 ∧ base.flagsPending base.cur = false ∧ base.stepping = false) ∧
    (∃ r, cwRow (0x002 : BitVec 10).toNat = some r ∧ base.me.priv = 0 ∧ r.user = 0) ∧ cwRow (0x3FF : BitVec 10).toNat = none ∧
    (∃ r, cwRow (0x010 : BitVec 10).toNat = some r ∧ r.user = 2 ∧ cwPass 0x010 r 0x1FD = true ∧ cwPass 0x010 r 0x200 = false ∧
      base.cwWaits 0x010 = false) ∧ (∃ r, cwRow (0x100 : BitVec 10).toNat = some r ∧ priv1.me.priv ≠ 0 ∧ cwPass 0x100 r 5 = true) :=
  ⟨⟨_, rfl, by decide +kernel⟩, ⟨_, rfl, by decide +kernel⟩, by decide +kernel, ⟨_, rfl, by decide +kernel⟩, _, rfl, by decide +kernel⟩

theorem hyp_ControlWords_write : ∃ r v, cwRow (0x010 : BitVec 10).toNat = some r ∧
    Claims.cwOperand (.csetb 4 0x010) r (mem0.cwGet mem0.cur 0x010) mem0 = some (0x010, v) := ⟨_, _, rfl, rfl⟩

/-- Three levels of tables for address 0x7FFF8000_20000000 − 1 page: at 0x110000, 0x120000, 0x130000; the leaf maps frame 0x30. -/
def tabled : State :=
  let s := put (put (put described (0x110000 + 8 * 0x1FFF) 0x120001) (0x120000 + 8 * 0x1FFF) 0x130001) (0x130000 + 8 * 0x1FFF) (ptePlain 0x30)
  s.upCtx 0 (fun c => { c with root := 0x110001 })
/-- The second-level entry is a 512 MiB leaf. -/
def tabledBig : State := put tabled (0x120000 + 8 * 0x1FFF) (BitVec.ofNat 64 (0x20000000 + 64 + 32 + 4 + 2 + 1))

theorem tabled_quiet : ∀ h, Claims.noSliceWatch tabled h := quiet_slices _ rfl

theorem hyp_PageWalks : let va : Word := 0x7FFFFFFFFFFFF8
    va.toNat / 2 ^ 55 = 0 ∧ va.getLsbD 54 = true ∧ (tabled.ctx 0).root.getLsbD 0 = true ∧
    (tabled.ctx 0).root.toNat / 2 ^ 16 % 2 ^ 36 * 65536 + 8 * (va.toNat / 2 ^ 42 % 2 ^ 13) = 0x110000 + 8 * 0x1FFF ∧
    tabled.rdWord 0 (0x110000 + 8 * 0x1FFF) = 0x120001 ∧ tabled.rdWord 0 (0x120000 + 8 * 0x1FFF) = 0x130001 ∧
    tabled.rdWord 0 (0x130000 + 8 * 0x1FFF) = ptePlain 0x30 ∧ (∀ a ∈ [0x11FFF8, 0x12FFF8, 0x13FFF8], tabled.tableOk 0 a = true ∧ tabled.heldLine (tabled.home00 0 a) a = false) ∧
    leafOk false (ptePlain 0x30) = true ∧ leafAllows (ptePlain 0x30) .store 1 = true ∧ tabled.inPartition 0 (leafPa false (ptePlain 0x30) va) = true ∧
    tabled.retired (leafPa false (ptePlain 0x30) va) = false := by decide +kernel

theorem hyp_PageWalks_big : let e := tabledBig.rdWord 0 (0x120000 + 8 * 0x1FFF)
    e.getLsbD 0 = true ∧ e.toNat / 2 % 8 ≠ 0 ∧ e.toNat / 2 ^ 52 = 0 ∧ leafOk true e = true ∧ leafAllows e .load 1 = true ∧
    leafAllows e .fetch 1 = false ∧ (let pa := e.toNat / 2 ^ 29 % 2 ^ 23 * 2 ^ 29 + (0x7FFFFFFFFFFFF8 : Nat) % 2 ^ 29;
      tabledBig.inPartition 0 pa = true ∧ tabledBig.retired pa = false) := by decide +kernel

theorem hyp_PageWalks_none : (base.ctx 0).root.getLsbD 0 = false ∧ (0x40000000000000 : Word).getLsbD 54 = true := by decide +kernel

/-- Context 1 is valid, with an image table whose entry for core 0 is an image at 0x50000. -/
def loadReady : State :=
  let s := put (put (put described (0x20000 + 4096 + 0x38) 1) (0x20000 + 4096 + 0x40) 0x60000) 0x60000 0x50000
  { s with dies := s.dies }

theorem hyp_ContextLifecycle_load : loadReady.loadable 1 0 = true ∧ loadReady.loadable 0 0 = false ∧ (loadReady.core 0).strm = none ∧
    (loadReady.core 0).stby = none ∧
    (let s := loadReady.upCore 0 (fun c => { c with stby := some 2 }); s.loadable 1 0 = true ∧ (s.core 0).stby = some 2) ∧
    (let s := loadReady.upCore 0 (fun c => { c with strm := some (2, true) });
      s.hasImage 1 0 = true ∧ s.hasImage 2 0 = false ∧ (s.core 0).strm ≠ none) := by decide +kernel

theorem hyp_ContextLifecycle_stream : (let s := loadReady.upCore 0 (fun c => { c with strm := some (1, true) });
      (s.core 0).wantLd = [] ∧ (s.core 0).strm = some (1, true) ∧ ∀ k, k < 4 → mfind (s.ctx 1).kept k = none) ∧
    (let s := loadReady.upCore 0 (fun c => { c with strm := some (1, false), stby := some 1 });
      (s.core 0).strm = some (1, false) ∧ s.settledOut 1 0 = true) ∧
    (let s := (loadReady.upCore 0 (fun c => { c with strm := some (1, false), stby := some 1 })).setT (tkOf 1 0) { TSet.reset with wait := some .wfi };
      (s.core 0).strm = some (1, false) ∧ s.settledOut 1 0 = false) := by decide +kernel

/-- A pending switch to context 1 at the end of the quantum. -/
def switching : State := { loadReady.upCore 0 (fun c => { c with stby := some 1, wantSw := true }) with cyc := 32000 }

theorem hyp_ContextLifecycle_switch : (base.core 0).stby = none ∧ (switching.core 0).wantLd = [] ∧ (∀ c, (base.core 0).strm ≠ some (c, true)) ∧
    (switching.core 0).stby ≠ none ∧ (switching.core 0).wantSw = true ∧ (switching.core 0).strm = none ∧ switching.quotaSum 0 1 ≤ switching.banksOf 0 ∧
    (switching.core 0).since + 32000 ≤ switching.cyc ∧ (base.core 0).act ≠ none ∧ base.cyc < (base.core 0).since + 32000 := by
  refine ⟨by decide +kernel, by decide +kernel, ?_, by decide +kernel⟩
  intro c h
  exact absurd (congrArg Option.isSome h) (by simp [base]; decide +kernel)

theorem hyp_ContextLifecycle_term : (described.die 0).tbusy = false ∧ (described.ctx 0).res ≠ 0 ∧ described.cidIn (described.partOfDie 0) 0 = true ∧
    (described.ctx 0).state.getLsbD 0 = true ∧ described.ending 0 = false ∧
    (let s := described.upDie 1 (fun d => { d with tbusy := true, tcid := 0 }); (s.die 0).tbusy = false ∧ s.ending 0 = true) ∧
    (let s := described.upCtx 0 (fun c => { c with state := 0 }); (s.ctx 0).state.getLsbD 0 = false) ∧
    (let s := described.upDie 0 (fun d => { d with tbusy := true }); (s.die 0).tbusy = true ∧ (s.die 0).termq = [] ∧ s.pend = []) := by decide +kernel

/-- A walk of core 0 in context 0. -/
def walk0 : WalkReq := { cid := 0, core := 0, va := 0x7FFFFFFFFFFFF8, kind := .store, priv := 1 }

theorem hyp_TranslationCaches : (tabled.core walk0.core).act = some walk0.cid ∧
    (∃ pa pte s1, tabled.walkCl 0 walk0.cid walk0.va walk0.kind walk0.priv = (.ok pa pte, false, s1)) ∧
    (tabled.core 8).act ≠ some 0 := by
  refine ⟨by decide +kernel, ?_, by decide +kernel⟩
  have h : (match tabled.walkCl 0 walk0.cid walk0.va walk0.kind walk0.priv with | (.ok _ _, false, _) => true | _ => false) = true := by decide +kernel
  split at h
  · rename_i h'
    exact ⟨_, _, _, h'⟩
  · exact absurd h (by decide)

theorem hyp_TranslationCaches_tlbinv : (let s := waiting sysOn (.tlbinv 0 0 0 [] false);
      (s.t s.cur).wait = some (.tlbinv 0 0 0 [] false) ∧ s.pend = [] ∧ (Claims.from_ s s.cur).stepping = false ∧ s.tlbScope s.cur 0 = []) ∧
    (let s := waiting priv1 (.tlbinv 1 3 0 [] false); s.pend = [] ∧ s.tlbScope 0 3 ≠ []) ∧
    (let s := waiting priv1 (.tlbinv 1 1 0 [0] true);
      (s.t 0).wait = some (.tlbinv 1 1 0 [0] true) ∧ s.tlbBusy 0 1 1 0 0 = false ∧ ([0] : List Nat).erase 0 = []) ∧
    (let s := waiting priv1 (.tlbinv 2 2 0 [0, 1] true); s.tlbBusy 0 2 2 0 0 = false ∧ ([0, 1] : List Nat).erase 0 ≠ []) := by decide +kernel

theorem hyp_InterruptsDelivered_commit : (lined.push (.specCommit 0)).inFlight (fun e => e == .specCommit 0) = true := by decide +kernel

/-- A store of the context under way, and the same at a lost line. -/
def ended (held : Bool) : State :=
  let s := (described.upDie 0 (fun d => { d with tbusy := true })).push (.homeStoreApply (rq .store 8))
  s.upSlice 0 (fun c => { c with lost := if held then [{ line := lineKey (rq .store 8).pa, recno := 1, level := 1, way := 0, l2 := 8, msc := 0, mem := 0 }] else [] })

theorem hyp_ContextLifecycle_ended :
    (ended false).inFlight (fun e => writeOf ((ended false).die 0).tcid e && !(ended false).heldOf ((ended false).die 0).tcid e) = true ∧
    ((ended true).die 0).tbusy = true ∧ ((ended true).die 0).termq = [] ∧
    ∀ x ∈ (ended true).pend, writeOf ((ended true).die 0).tcid x.ev = true → (ended true).heldOf ((ended true).die 0).tcid x.ev = true := by
  decide +kernel

/-! ### Banks (08) -/

/-- A record placed on cluster 0 with all its cores and a quota of 2 banks. -/
def record2 : BitVec 2048 := BitVec.ofNat 2048 (0x100000 + 2 * 2 ^ 56 * 2 ^ 256 + 0xFF * 2 ^ 16 * 2 ^ 320)

/-- One bank attached in slot 0, with quota for one more. -/
def placed : State :=
  banked.upPart 0 (fun p => { p with launches := [{ launch1 with snap := record2 }], tasks := [task1], used := [0x200000] })

/-- The same with slot 0 outgoing, or with slot 1 reserved. -/
def outgoing0 : State := placed.upCC 0 (fun c => { c with slots := vset c.slots 0 (.outgoing bank0) })
def reserved1 : State := placed.upCC 0 (fun c => { c with slots := vset c.slots 1 .reserved })
/-- No place of the pool is free; or the quota is spent. -/
def poolFull : State := placed.upCl 0 (fun c => { c with phys := Vector.replicate 32 { st := 1, gen := 0 } })
def quotaSpent : State := placed.upCC 0 (fun c => { c with slots := vset c.slots 1 (.attached { bank0 with phys := some 1 }) })

theorem lowest1 (s : State) (h : (s.cl 0).phys = vset (Vector.replicate 32 Phys.reset) 0 { st := 1, gen := 0 }) (hq : (s.cl 0).bquar = 0) :
    Claims.lowestFree (s.cl 0) 1 := by
  unfold Claims.lowestFree
  simp only [h, hq]
  exact ⟨by decide, by decide, by decide⟩

theorem hyp_BankInstructions_batt : isSys placed.cur = false ∧ placed.myCC.slot 7 = .empty ∧
    placed.heldBanks (cidOf placed.cur) (clusterOf placed.cur) < placed.quotaOf (cidOf placed.cur) (clusterOf placed.cur) ∧
    Claims.lowestFree (placed.cl (clusterOf placed.cur)) 1 ∧ placed.stepping = false ∧
    quotaSpent.myCC.slot 7 = .empty ∧ quotaSpent.quotaOf 0 0 ≤ quotaSpent.heldBanks 0 0 ∧
    placed.myCC.slot 0 = .attached bank0 ∧ outgoing0.myCC.slot 0 = .outgoing bank0 ∧ reserved1.myCC.slot 1 = .reserved :=
  ⟨by decide +kernel, by decide +kernel, by decide +kernel, lowest1 placed rfl rfl, by decide +kernel⟩

theorem hyp_BankInstructions_full : poolFull.myCC.slot 7 = .empty ∧ poolFull.heldBanks 0 0 < poolFull.quotaOf 0 0 ∧
    ∀ p, ¬ Claims.lowestFree (poolFull.cl (clusterOf poolFull.cur)) p := by
  refine ⟨by decide +kernel, by decide +kernel, ?_⟩
  intro p h
  have key : ∀ p, p < 32 → (vget (poolFull.cl 0).phys p Phys.reset).st ≠ 0 := by decide +kernel
  exact key p h.1 h.2.1.1

/-- g10 names core 1 of cluster 0 as the target of a HOVER, g11 core 8, which is outside, both slot and core fields. -/
def hovering : State := (placed.setG 10 4).setG 11 32
def hoverTaken : State := hovering.upCC 1 (fun c => { c with slots := vset c.slots 7 .reserved })

theorem hyp_BankInstructions_hover : Claims.hoverCore (hovering.g 10) / 8 = clusterOf hovering.cur ∧
    hovering.inCoreSet (cidOf hovering.cur) (Claims.hoverCore (hovering.g 10)) = true ∧
    (hovering.cc (cidOf hovering.cur * 2048 + Claims.hoverCore (hovering.g 10))).slot 7 = .empty ∧
    (hoverTaken.cc (cidOf hoverTaken.cur * 2048 + Claims.hoverCore (hoverTaken.g 10))).slot 7 ≠ .empty ∧
    Claims.hoverCore (hovering.g 11) / 8 ≠ clusterOf hovering.cur ∧ hovering.myCC.slot 1 = .empty ∧ hovering.stepping = false := by decide +kernel

theorem hyp_BankInstructions_step : let s := waiting outgoing0 (.hover 0 1 7 3)
    (s.t 0).wait = some (.hover 0 1 7 3) ∧ (s.cc (ccOf 0)).slot 0 = .outgoing bank0 ∧ (s.cc (ccOf 0)).drained 0 = true ∧
    (Claims.from_ s 0).stepping = false ∧ cidOf 0 * 2048 + 1 ≠ ccOf 0 := by decide +kernel

theorem hyp_BankEvents : (let s := waiting outgoing0 (.bdet 0);
      isSys 0 = false ∧ (s.t 0).wait = some (.bdet 0) ∧ (s.cc (ccOf 0)).slot 0 = .outgoing bank0 ∧ (s.cc (ccOf 0)).drained 0 = true ∧
      (Claims.from_ s 0).stepping = false ∧ bank0.phys = some 0) ∧
    (let s := placed.upCl 0 (fun c => { c with phys := vset c.phys 31 { st := 2, gen := 5 } }); (vget (s.cl 0).phys 31 Phys.reset).st = 2) ∧
    (let s := waiting placed (.bwait 7); (s.t 0).wait = some (.bwait 7) ∧ (s.cc (ccOf 0)).slot 7 = .empty ∧
      (Claims.from_ s 0).stepping = false) := by decide +kernel

theorem hyp_BankEvents_batt : let s := waiting placed (.batt 7 3)
    isSys 0 = false ∧ (s.t 0).wait = some (.batt 7 3) ∧ (s.cc (ccOf 0)).slot 7 = .empty ∧
    s.heldBanks (cidOf 0) (clusterOf 0) < s.quotaOf (cidOf 0) (clusterOf 0) ∧ Claims.lowestFree (s.cl (clusterOf 0)) 1 :=
  ⟨by decide +kernel, by decide +kernel, by decide +kernel, by decide +kernel, lowest1 _ rfl rfl⟩

theorem hyp_BankEvents_refill : let s := placed.upCC 8 (fun c => { c with slots := vset c.slots 7 (.attached { bank0 with phys := none }) })
    (s.cc 0).slot 0 = .attached bank0 ∧ (s.cc 8).slot 7 = .attached { bank0 with phys := none } ∧
    (vget (s.cl 1).phys 0 Phys.reset).st = 0 ∧ (s.cl 1).bquar.getLsbD 0 = false := by decide +kernel

/-! ### Tensor and copy engines (12) -/

/-- Banks in slots 0-2; g8 = slot 0 with N = 1, g9 = slot 1, g10 = slot 2. -/
def tensorial : State :=
  let b (k : Nat) : Slot := .attached { bank0 with phys := some k }
  let s := placed.upCC 0 (fun c => { c with slots := vset (vset (vset c.slots 0 (b 0)) 1 (b 1)) 2 (b 2) })
  (((s.setG 8 0x20000).setG 9 0x0).setG 10 0x110000)

theorem tile_ok (c : CC) (x : Tile) (h : c.tileStop x = none) (h2 : x.a.toNat < 2 ^ 19) : Claims.tileOk c x := by
  unfold CC.tileStop at h
  split at h
  · cases h
  split at h
  · cases h
  split at h
  · cases h
  rename_i h3 h4 h5
  have hm : wbits x.a 16 3 = x.a.toNat / 65536 := by
    unfold wbits bits
    have : x.a.toNat / 2 ^ 16 < 8 := by omega
    omega
  rw [hm] at h
  split at h <;> try cases h
  rename_i b hb
  refine ⟨by omega, h2, by omega, b, hb, ?_⟩
  intro hn
  rw [hn] at h
  simpa using h

/-- Entry for a tensor operation. -/
def opOf (i : Instr) (s : State) : TenOp := (Claims.tensorOf i s).getD
  { fmt := 7, k := 0, n := 0, aA := 0, bA := 0, dA := 0, scale := 0, out16 := false, cls := 0, nxm := false, planes := 0, offL := Vector.replicate 2 0
    phase := 0, lane := 0, passes := [], due := 0, res := [], flags := 0 }

theorem hyp_TensorIssue : ∃ o, Claims.tensorOf (.mmaBf16 8 9 10 0 1 0) tensorial = some o ∧ Claims.tensorRoom tensorial o ∧
    (∀ x ∈ o.tiles, Claims.tileOk tensorial.myCC x) ∧ tensorial.stepping = false := by
  refine ⟨opOf (.mmaBf16 8 9 10 0 1 0) tensorial, by decide +kernel, by unfold Claims.tensorRoom; decide +kernel, ?_,
    by decide +kernel⟩
  have h : (opOf (.mmaBf16 8 9 10 0 1 0) tensorial).tiles.all (fun x => (tensorial.myCC.tileStop x).isNone && decide (x.a.toNat < 2 ^ 19)) = true := by
    decide +kernel
  intro x hx
  have := List.all_eq_true.mp h x hx
  simp only [Bool.and_eq_true, Option.isNone_iff_eq_none, decide_eq_true_eq] at this
  exact tile_ok _ _ this.1 this.2

/-- The scoreboard is full. -/
def sbFull : State := tensorial.upCC 0 (fun c => { c with
  sb := (span 0 16).map (fun k => { id := k, entry := k, tk := 0, loc := [], glo := [], body := .ten { opOf (.mzero 8 0 0) tensorial with phase := 1 } })
  nextId := 16 })

theorem hyp_TensorIssue_full : isSys sbFull.cur = false ∧ 16 ≤ sbFull.myCC.sb.length ∧ (∃ o, Claims.tensorOf (.mzero 8 0 0) sbFull = some o) ∧
    min ((tensorial.ctx (cidOf tensorial.cur)).erefill.toNat / 2 ^ 56 % 4) (with_ tensorial (fun t => { t with eceil := 1 })).me.eceil <
      (opOf (.mmaBf16 8 9 10 0 0 0) tensorial).cls := by
  refine ⟨by decide +kernel, by decide +kernel, ⟨opOf (.mzero 8 0 0) sbFull, by decide +kernel⟩, by decide +kernel⟩

/-- MZERO to a misaligned address, to one whose tile passes the end of its slot, to an empty slot. -/
def zeroAt (a : Word) : State := tensorial.setG 12 a

theorem hyp_TensorIssue_stops : (∀ a ∈ [0x20, 0xF040, 0x30000], ∃ x, (opOf (.mzero 12 0 0) (zeroAt a)).tiles = [] ++ x :: [] ∧
      Claims.tensorRoom (zeroAt a) (opOf (.mzero 12 0 0) (zeroAt a)) ∧ x.a = a) ∧ (0x20 : Word).toNat % 64 ≠ 0 ∧
    (0xF040 : Word).toNat % 64 = 0 ∧ ((0xF040 : Word).toNat + 4096 - 1) / 65536 ≠ (0xF040 : Word).toNat / 65536 ∧
    (zeroAt 0x30000).myCC.slot 3 = .empty := by
  refine ⟨?_, by decide, by decide, by decide, by decide +kernel⟩
  intro a ha
  simp only [List.mem_cons, List.not_mem_nil, or_false] at ha
  rcases ha with ha | ha | ha <;> subst ha <;>
    exact ⟨{ a := _, bytes := 4096, narrow := false, wr := true }, by decide +kernel,
      by unfold Claims.tensorRoom; decide +kernel, rfl⟩

/-- The destination's slot is outgoing. -/
theorem hyp_TensorIssue_outgoing : let s := tensorial.upCC 0 (fun c => { c with slots := vset c.slots 3 (.outgoing bank0) })
    (opOf (.mzero 12 0 0) (s.setG 12 0x30000)).tiles.map Tile.a = [0x30000] ∧ (s.setG 12 0x30000).myCC.slot 3 = .outgoing bank0 := by
  decide +kernel

/-- NXM of the context is set while the bank of slot 0 was attached without it. -/
def nxmWrong : State := tensorial.upCC 0 (fun c => { c with nxm := true })

theorem hyp_TensorIssue_nxm : ∃ x xs, (opOf (.mmaE4m3 8 9 10 0 1 0) nxmWrong).tiles = [] ++ x :: xs ∧ x.narrow = true ∧ x.a.toNat % 64 = 0 ∧
    x.a.toNat < 2 ^ 19 ∧ (x.a.toNat + x.bytes - 1) / 65536 = x.a.toNat / 65536 ∧
    (∃ b, nxmWrong.myCC.slot (x.a.toNat / 65536) = .attached b ∧ b.nxm ≠ nxmWrong.myCC.nxm) :=
  ⟨{ a := 0, bytes := 1024, narrow := true, wr := false }, (opOf (.mmaE4m3 8 9 10 0 1 0) nxmWrong).tiles.drop 1, by decide +kernel, rfl, by decide,
    by decide, by decide, { bank0 with phys := some 0 }, by decide +kernel⟩

/-- One MZERO queued; the same while it occupies lane group 7 with its result, and when its write-back has ended. -/
def queued (f : TenOp → TenOp) : State :=
  (tensorial.upCC 0 (fun c => { c with
    sb := [{ id := 3, entry := 5, tk := 0, loc := [{ lo := 0x20000, len := 4096, wr := true }], glo := [], body := .ten (f (opOf (.mzero 8 0 0) tensorial)) }]
    nextId := 4 })).upCl 0 (fun c => { c with lanes := vset c.lanes 7 (some (0, 3)) })

theorem hyp_TensorEvents_bind : ((queued id).cl 0).freeLane = some 0 ∧ (queued id).nextCore 0 = some 0 ∧
    (∃ e, (queued id).head (0 * 8 + 0) = some (0, e) ∧ e.body = .ten (opOf (.mzero 8 0 0) tensorial)) ∧ tensorial.nextCore 0 = none := by
  refine ⟨by decide +kernel, by decide +kernel, ?_, by decide +kernel⟩
  have h : (((queued id).head 0).map (fun x => (x.1, x.2.body))) = some (0, .ten (opOf (.mzero 8 0 0) tensorial)) := by decide +kernel
  obtain ⟨⟨cc, e⟩, h1, h2⟩ := Option.map_eq_some_iff.mp h
  injection h2 with h2 h3
  dsimp only at h2 h3
  subst h2
  exact ⟨e, h1, h3⟩

theorem hyp_TensorEvents_end : let f (o : TenOp) : TenOp := { o with phase := 1, lane := 7, res := [(0x2F000, List.replicate 4096 0)] }
    vget ((queued f).cl 0).lanes 7 none = some (0, 3) ∧ (((queued f).cc 0).sb.find? (fun x => x.id == 3)).isSome = true ∧
    (0x2F000 + 4096 - 1) / 65536 = 0x2F000 / 65536 ∧ 0x2F000 / 65536 < 8 ∧
    ((queued f).cc 0).slot 2 = .attached { bank0 with phys := some 2 } ∧ Memory.wf { bank0 with phys := some 2 }.data = true := by decide +kernel

theorem hyp_TensorEvents_retire : let f (o : TenOp) : TenOp := { o with phase := 2 }
    (((queued f).cc 0).oldest.map EngOp.entry) = some 5 ∧ (opOf (.mzero 8 0 0) tensorial).fmt = 7 ∧ (described.ctx 0).res ≠ 0 := by decide +kernel

theorem hyp_TensorResults : (opOf (.mzero 8 0 1) tensorial).fmt = 7 ∧
    (let o := opOf (.mtrn 8 9 0 0) tensorial; o.fmt = 8 ∧ o.planes = 0 ∧ o.aA < 2 ^ 19 ∧ o.dA < 2 ^ 19) ∧
    (let o := { opOf (.mmaS8 8 9 10 1) tensorial with n := 2 }; o.fmt = 6 ∧ o.out16 = false ∧ o.n = 2 ∧ o.bA < 2 ^ 19) ∧
    (let o := { opOf (.mmaBfp 8 9 10 0 1 1 2) tensorial with n := 0 }; o.fmt ≤ 5 ∧ o.n = 0 ∧ o.planes = 0 ∧ o.dA < 2 ^ 19) := by decide +kernel

/-! ### The copy engine (12 R247-R262; 21 R388) -/

/-- A command word by its eight fields. -/
def tcw (l : List Nat) : BitVec 256 := BitVec.ofNat 256 (l.foldr (fun x n => x + n * 2 ^ 32) 0)

/-- A bank in slot 0, a peer table at 0x18000 whose entry 0 is partition 1 of this package, and TC0 = `x`. -/
def copying (x : BitVec 256) : State :=
  let s := put (put (put described 0x10030 0x18000) 0x18000 (BitVec.ofNat 64 (2 ^ 50 + 2 ^ 48))) 0x18008 1
  let s := s.upCC 0 (fun c => { c with slots := vset c.slots 0 (.attached bank0) })
  s.upA (fun a => { a with tc := vset a.tc 0 x })

/-- 64 bytes from the plain page to local 0x40; the same with NSIG, and back; a GATHER of 4 rows; a peer's 200 bytes. -/
def fetch64 : BitVec 256 := tcw [0x30, 0x40, 0x200000, 0, 0x10008, 0, 0, 0]
def fetch64n : BitVec 256 := tcw [0xB0, 0x40, 0x200000, 0, 0x10008, 0, 0, 0]
def store64n : BitVec 256 := tcw [0xB1, 0x40, 0x200000, 0, 0x10008, 0, 0, 0]
def gather4 : BitVec 256 := tcw [0xB3, 0x40, 0x200000, 0, 0x40001, 8, 8, 0x20]
def rput200 : BitVec 256 := tcw [0xB5, 0x40, 0x200000, 0, 0x10019, 0, 0, 0]

/-- All that makes a copy acceptable, as one test: the planes' checks pass and change no register or scoreboard. -/
def accepts (s s0 : State) (x : Tcw) : Bool :=
  match s.copyPlanes x (Claims.gatherIdx s x) [0] with
  | .inl _ => let u := s.copyXlat x (Claims.gatherIdx s x) [0]; u.cur == s0.cur && decide (u.ccs = s0.ccs) && !u.stepping
  | .inr _ => false

theorem accepts_spec (s s0 : State) (x : Tcw) (h : accepts s s0 x = true) : ∃ parts pages glo,
    s.copyPlanes x (Claims.gatherIdx s x) [0] = .inl (parts, pages, glo) ∧ (s.copyXlat x (Claims.gatherIdx s x) [0]).cur = s0.cur ∧
    (s.copyXlat x (Claims.gatherIdx s x) [0]).ccs = s0.ccs ∧ (s.copyXlat x (Claims.gatherIdx s x) [0]).stepping = false := by
  unfold accepts at h
  split at h
  · rename_i r heq
    obtain ⟨a, b, c⟩ := r
    simp only [Bool.and_eq_true, Bool.not_eq_true', beq_iff_eq, decide_eq_true_eq] at h
    exact ⟨a, b, c, heq, h.1.1, h.1.2, h.2⟩
  · cases h

theorem hyp_CopyIssue_tc : isSys (copying 0).cur = false ∧ (copying 0).stepping = false := by decide +kernel

theorem hyp_CopyIssue_full : 16 ≤ sbFull.myCC.sb.length ∧ isSys sbFull.cur = false ∧ (copying (tcw [0x400])).myCC.sb.length < 16 ∧
    Tcw.ok (tcw [0x400]) = false ∧ Tcw.ok fetch64 = true ∧ ((copying (tcw [0x40])).upA (fun a => { a with dmode := 0x18 })).me.copyPlanes (tcw [0x40]) = none := by decide +kernel

theorem hyp_CopyIssue : ∀ x ∈ [fetch64n, store64n, gather4, rput200], Claims.copyRoom (copying x) x ∧ Tcw.ok x = true ∧
    (copying x).me.copyPlanes x = some [] ∧ Tcw.nsig x = true ∧ ∃ parts pages glo,
    (copying x).copyPlanes x (Claims.gatherIdx (copying x) x) [0] = .inl (parts, pages, glo) ∧
    ((copying x).copyXlat x (Claims.gatherIdx (copying x) x) [0]).cur = (copying x).cur ∧
    ((copying x).copyXlat x (Claims.gatherIdx (copying x) x) [0]).ccs = (copying x).ccs ∧
    ((copying x).copyXlat x (Claims.gatherIdx (copying x) x) [0]).stepping = false := by
  intro x hx
  simp only [List.mem_cons, List.not_mem_nil, or_false] at hx
  rcases hx with hx | hx | hx | hx <;> subst hx <;>
    exact ⟨by unfold Claims.copyRoom; decide +kernel, by decide +kernel, by decide +kernel, by decide +kernel,
      accepts_spec _ _ _ (by decide +kernel)⟩

theorem hyp_CopyIssue_counted : ∃ h s0, (copying fetch64).plan (copying fetch64).cur (ctrChecks .rmw) [(copying fetch64).g 5] = (.ok [h], s0) ∧
    s0.cur = (copying fetch64).cur ∧ s0.ccs = (copying fetch64).ccs ∧ Tcw.nsig fetch64 = false ∧ Claims.gatherIdx s0 fetch64 = [] ∧
    ∃ parts pages glo, s0.copyPlanes fetch64 (Claims.gatherIdx s0 fetch64) [0] = .inl (parts, pages, glo) ∧
      (s0.copyXlat fetch64 (Claims.gatherIdx s0 fetch64) [0]).cur = (copying fetch64).cur ∧
      (s0.copyXlat fetch64 (Claims.gatherIdx s0 fetch64) [0]).ccs = (copying fetch64).ccs ∧
      (s0.copyXlat fetch64 (Claims.gatherIdx s0 fetch64) [0]).stepping = false := by
  have h := passes1 (copying fetch64) (ctrChecks .rmw) [(copying fetch64).g 5] 8 false true (by decide +kernel) (by decide +kernel)
  exact ⟨_, _, h.1, h.2.2.2.1, by decide +kernel, by decide +kernel, by decide +kernel, accepts_spec _ _ _ (by decide +kernel)⟩

/-- A fault: slot 1 is empty; the global address is misaligned. -/
theorem hyp_CopyIssue_faults : ∀ x ∈ [tcw [0xB0, 0x10040, 0x200000, 0, 0x10008], tcw [0xB0, 0x40, 0x200004, 0, 0x10008]],
    Claims.copyRoom (copying x) x ∧ Tcw.ok x = true ∧ (copying x).me.copyPlanes x = some [] ∧ ∃ f v s1,
    (copying x).copyPlanes x (Claims.gatherIdx (copying x) x) [0] = .inr (some (f, v), s1) := by
  have key (x : Tcw) (s : State) (h : (match s.copyPlanes x (Claims.gatherIdx s x) [0] with | .inr (some _, _) => true | _ => false) = true) :
      ∃ f v s1, s.copyPlanes x (Claims.gatherIdx s x) [0] = .inr (some (f, v), s1) := by
    split at h
    · exact ⟨_, _, _, by assumption⟩
    · cases h
  intro x hx
  simp only [List.mem_cons, List.not_mem_nil, or_false] at hx
  rcases hx with hx | hx <;> subst hx <;>
    exact ⟨by unfold Claims.copyRoom; decide +kernel, by decide +kernel, by decide +kernel, key _ _ (by decide +kernel)⟩

/-- One copy in the scoreboard: its word, its counter, its bursts. -/
def copyOf (x : Tcw) (ctr : Option (Nat × Nat × Word)) (bs : List Burst) : EngOp :=
  { id := 3, entry := 5, tk := 0, loc := [], glo := [], body := .cpy { tcw := x, ctr := ctr, planes := 0, offs := Vector.replicate 4 0, chans := []
                                                                       tc := 0, peer := 1, pages := [], passed := 0, bursts := bs, start := 0 } }
def copies (l : List EngOp) : State := (copying fetch64).upCC 0 (fun c => { c with sb := l, nextId := 4 })
def burst (st n : Nat) (ps : List Piece) : Burst := { bytes := n, row := 0, ps := ps, left := ps, st := st }
def inPiece (n : Nat) : Piece := { src := .glo 0x300080 0 false true, dst := .loc 0xFFC0, len := n }
def outPiece (n : Nat) : Piece := { src := .loc 0xFFC0, dst := .glo 0x300080 0 false true, len := n }

theorem pick_spec (s : State) (b : Bool) (h : (match s.pickCopy 0 with
      | some (_, _, c) => c.nextBurst == some 0 && Tcw.remote c.tcw == b && (Tcw.op c.tcw != 8) && c.bursts[0]?.isSome
      | none => false) = true) :
    ∃ cc e c, s.pickCopy 0 = some (cc, e, c) ∧ c.nextBurst = some 0 ∧ Tcw.remote c.tcw = b ∧ Tcw.op c.tcw ≠ 8 ∧ ∃ k, c.bursts[0]? = some k := by
  split at h
  · rename_i cc e c heq
    simp only [Bool.and_eq_true, beq_iff_eq, bne_iff_ne] at h
    exact ⟨cc, e, c, heq, h.1.1.1, h.1.1.2, h.1.2, Option.isSome_iff_exists.mp h.2⟩
  · cases h

theorem hyp_CopyEvents_start : (∃ cc e c, (copies [copyOf fetch64 none [burst 0 64 [inPiece 64]]]).pickCopy 0 = some (cc, e, c) ∧
      c.nextBurst = some 0 ∧ Tcw.remote c.tcw = false ∧ Tcw.op c.tcw ≠ 8 ∧ ∃ k, c.bursts[0]? = some k) ∧
    (∃ cc e c, (copies [copyOf rput200 none [burst 0 192 [{ src := .loc 0x40, dst := .peer 0x200000, len := 192 }]]]).pickCopy 0 =
      some (cc, e, c) ∧ c.nextBurst = some 0 ∧ Tcw.remote c.tcw = true ∧ Tcw.op c.tcw ≠ 8 ∧ ∃ k, c.bursts[0]? = some k) ∧
    (copies []).pickCopy 0 = none := ⟨pick_spec _ _ (by decide +kernel), pick_spec _ _ (by decide +kernel), by decide +kernel⟩

/-- The copies of the next theorem: a burst of 64 bytes into the end of slot 0, one out of it, one performed with a counter. -/
def copyIn : State := copies [copyOf fetch64n none [burst 1 64 [inPiece 64]]]
def copyOut : State := copies [copyOf store64n none [burst 1 64 [outPiece 64]]]
def copyDone (c : Nat) : State := put (copies [copyOf fetch64 (some (0x3000B8, 0, 0x2000B8)) [burst 2 64 [inPiece 64]]]) 0x3000B8 (BitVec.ofNat 64 c)

theorem hyp_CopyEvents_performed : Claims.noSliceWatch copyIn 0 ∧ Claims.noSliceWatch copyOut 0 ∧ (copyIn.copyAt 0 5).map (fun x => x.1.entry) = some 5 ∧ (burst 1 64 [inPiece 64]).st = 1 ∧
    (burst 1 64 [inPiece 64]).left = inPiece 64 :: [] ∧ (inPiece 64).lands = true ∧ (outPiece 64).leaves = true ∧
    (copyIn.cl 0).landed < 128 ∧ (copyOut.cl 0).sent < 128 ∧ (0xFFC0 + 64 - 1) / 65536 = 0xFFC0 / 65536 ∧ (copyIn.cc 0).slot 0 = .attached bank0 ∧ Memory.wf bank0.data = true ∧
    0x300080 % 192 + 64 ≤ 192 ∧ (∀ j, j < 64 → lineKey (0x300080 + j) = lineKey 0x300080) ∧
    (copyOut.copyAt 0 5).isSome = true ∧ 0xFFC0 % 65536 + 64 ≤ 65536 ∧ (copyOut.cc 0).slot 0 = .attached bank0 :=
  ⟨quiet_slices _ rfl _, quiet_slices _ rfl _, by decide +kernel⟩

/-- The bytes of a reply into the end of slot 0, and a burst of a reply that its peer refuses. -/
def replyPiece : Piece := { src := .fill (List.replicate 64 7), dst := .loc 0xFFC0, len := 64 }
theorem hyp_CopyEvents_reply : let s := copies [copyOf rput200 none [burst 5 64 [replyPiece], burst 6 64 []]]
    (s.copyAt 0 5).map (fun x => x.2.bursts) = some [burst 5 64 [replyPiece], burst 6 64 []] ∧ replyPiece.len = (List.replicate 64 (7 : Byte)).length ∧
    (burst 6 64 []).left = [] ∧ (s.cc 0).slot 0 = .attached bank0 := by decide +kernel

/-- A burst with nothing left to move, and a peer's burst of a tile and its image, none of whose requests flies. -/
theorem hyp_CopyEvents_bounds : (burst 1 0 []).left = [] ∧ (burst 1 0 []).st = 1 ∧
    (∀ m ∈ ((copies []).part 0).flying, m.entry ≠ 5) ∧ (burst 0 128 [outPiece 64, outPiece 64]).ps ≠ [] := by decide +kernel

theorem hyp_CopyEvents_counted : ∀ c ∈ [0xFFFFFFFFFFFFFFBF, 0xFFFFFFFFFFFFFFC0], ((copyDone c).copyAt 0 5).isSome = true ∧ 0x3000B8 % 192 + 8 ≤ 192 ∧
    Claims.memNat (copyDone c) 0 0x3000B8 8 = c ∧ Claims.noSliceWatch (copyDone c) 0 := by
  intro c hc
  simp only [List.mem_cons, List.not_mem_nil, or_false] at hc
  rcases hc with hc | hc <;> subst hc <;> exact ⟨by decide +kernel, by decide, by decide +kernel, quiet_slices _ rfl _⟩

theorem hyp_CopyEvents_retire : (copies [copyOf fetch64 none [burst 3 64 []]]).copyDone 0 5 = true ∧
    (copies [copyOf fetch64 none [burst 2 64 []]]).copyDone 0 5 = false ∧ ((copies [copyOf fetch64 none [burst 2 64 []]]).copyAt 0 5).isSome = true := by
  decide +kernel

/-! ### Streams (18 R312-R324) -/

/-- A destination word: core 1 of cluster 0, receive port 2. -/
def dst1 : Word := 0x4004
/-- g4 = the destination word, g5 = 2^15 more; g6 = 0x80 bytes; g7 = 8 bytes; send port 1 and receive port 2 as given. -/
def streaming (q : SendPort) (r : RecvPort) : State :=
  let s := placed.upCC 0 (fun c => { c with send := vset c.send 1 q, recv := vset c.recv 2 r })
  let s := s.upCC 1 (fun c => { c with slots := vset c.slots 7 (.attached { bank0 with phys := some 1 }), recv := vset c.recv 2 r })
  (((((s.setG 4 dst1).setG 5 (dst1 + 0x8000)).setG 6 0x80).setG 7 8).setG 8 0x70F00).setG 9 0x100
def openTo (n : Nat) : SendPort := { isOpen := true, torn := false, dst := dst1, credits := n, clk := 0, paused := false, route := 2, old := [] }
def tornTo : SendPort := { openTo 0 with torn := true }
/-- A ring of 256 bytes at the end of slot 7, with 64 bytes before its end in the tail. -/
def ring (b : Option (Nat × Nat × Nat)) : RecvPort :=
  { RecvPort.reset with conf := true, base := 0x7FF00, size := 256, tail := 0xC0, free := 0x40, seen := 0x40, bound := b, nxm := some false }
def flit1 (resume : Bool) : Flit := { src := 0, sport := 1, dst := dst1, nxm := false, data := 0x0102, resume := resume, route := 2 }

theorem hyp_StreamInstructions_sopen : (let s := streaming SendPort.reset RecvPort.reset;
      isSys s.cur = false ∧ Claims.dstOk s (s.g 4) ∧ ¬ Claims.dstOk s (s.g 5) ∧ (s.myCC.sport 1).torn = false ∧ s.stepping = false) ∧
    ((streaming (openTo 0) RecvPort.reset).myCC.sport 1).isOpen = true ∧ ((streaming tornTo RecvPort.reset).myCC.sport 1).torn = true := by
  refine ⟨⟨by decide +kernel, by unfold Claims.dstOk; decide +kernel, ?_, by decide +kernel⟩, by decide +kernel⟩
  intro h
  exact absurd h.1 (by decide +kernel)

theorem hyp_StreamInstructions_ssend : ((streaming (openTo 0) RecvPort.reset).myCC.sport 1).credits = 0 ∧
    ((streaming (openTo 1) RecvPort.reset).myCC.sport 1).credits ≠ 0 ∧ ((streaming (openTo 1) RecvPort.reset).myCC.sport 1).torn = false ∧
    ((streaming (openTo 1) RecvPort.reset).myCC.sport 0).isOpen = false := by decide +kernel

theorem hyp_StreamInstructions_rring : let s := streaming SendPort.reset RecvPort.reset
    (∀ k, 8 ≤ k → (s.g 6).toNat ≠ 2 ^ k) ∧ s.g 6 ≠ 0 ∧
    (s.myCC.rport 2).bound = none ∧ (s.g 9).toNat = 2 ^ 8 ∧ (s.g 8).toNat < 2 ^ 19 ∧ (s.g 8).toNat % (s.g 9).toNat = 0 ∧ s.g 0 = 0 ∧
    ((streaming SendPort.reset (ring (some (8, 1, 2)))).myCC.rport 2).bound ≠ none := by
  refine ⟨?_, by decide +kernel⟩
  intro k hk h
  have : 2 ^ 8 ≤ 2 ^ k := Nat.pow_le_pow_right (by decide) hk
  rw [← h] at this
  exact absurd this (by decide +kernel)

/-- Send port 1 of core 0 goes to receive port 2 of core 0 itself. -/
def toSelf : State := streaming { openTo 0 with dst := 0x4000 } (ring (some (0, 1, 2)))

theorem hyp_StreamInstructions_rrls : (toSelf.myCC.rport 2).conf = true ∧
    (toSelf.myCC.rport 2).bound = some (0, 1, 2) ∧ (toSelf.myCC.rport 2).torn = false ∧ ((toSelf.cc 0).sport 1).isOpen = true ∧
    ((toSelf.cc 0).sport 1).torn = false ∧ ((toSelf.cc 0).sport 1).route = 2 ∧ (toSelf.g 6).toNat % 64 = 0 ∧
    (toSelf.g 6).toNat ≤ ((toSelf.myCC.rport 2).tail - (toSelf.myCC.rport 2).free).toNat ∧ (toSelf.g 7).toNat % 64 ≠ 0 ∧
    ((toSelf.myCC.rport 2).tail - (toSelf.myCC.rport 2).free).toNat < (toSelf.g 9).toNat ∧ toSelf.g 6 ≠ 0 ∧
    (toSelf.myCC.rport 0).conf = false := by decide +kernel

theorem hyp_StreamInstructions_recv : Claims.recvOk (toSelf.myCC.rport 2) toSelf.myCC.nxm ∧ (toSelf.myCC.rport 2).tail ≠ (toSelf.myCC.rport 2).seen ∧
    (let r := { ring none with torn := true }; r.conf = true ∧ r.torn = true) ∧
    (let r := { ring none with nxm := some true }; r.conf = true ∧ r.torn = false ∧ r.nxm ≠ none ∧ r.nxm ≠ some false) :=
  ⟨by unfold Claims.recvOk; decide +kernel, by decide +kernel, by decide, by decide⟩

theorem hyp_StreamEvents_guidon : (let s := streaming (openTo 0) (ring none);
      let r := (s.cc (fCC (flit1 false))).rport (fPort (flit1 false));
      r.waiting = [] ∧ r.conf = true ∧ r.bound = none ∧ 64 ≤ r.size - (r.tail - r.free).toNat ∧ ((s.cc 0).sport 1).isOpen = true ∧
      ((s.cc 0).sport 1).torn = false ∧ ((s.cc 0).sport 1).route = (flit1 false).route) ∧
    (((streaming (openTo 0) (ring (some (0, 1, 1)))).cc 1).rport 2).bound ≠ some (0, 1, 2) ∧ (flit1 true).resume = true ∧
    (((streaming (openTo 0) (ring (some (0, 1, 2)))).cc 1).rport 2).bound = some (0, 1, 2) := by decide +kernel

/-- The ring at the end of slot 7, and in slot 3, which is empty. -/
theorem hyp_StreamEvents_land : (let s := streaming (openTo 0) (ring (some (0, 1, 2))); let r := (s.cc 1).rport 2;
      let a := r.base + r.tail.toNat % r.size;
      r.bound = some (0, 1, 2) ∧ r.torn = false ∧ (s.cc 1).slot (a / 65536) = .attached { bank0 with phys := some 1 } ∧ a % 65536 + 64 = 65536 ∧
      Memory.wf bank0.data = true ∧ r.waiting = []) ∧
    (let s := streaming (openTo 0) { ring (some (0, 1, 2)) with base := 0x30000 }; let r := (s.cc 1).rport 2;
      r.bound = some (0, 1, 2) ∧ r.torn = false ∧ (s.cc 1).slot ((r.base + r.tail.toNat % r.size) / 65536) = .empty ∧
      ((s.cc 0).sport 1).route = (flit1 false).route) ∧ fCC (flit1 false) = 1 ∧ fPort (flit1 false) = 2 ∧
    ((streaming (openTo 0) RecvPort.reset).cc 0).sport 1 = openTo 0 := by decide +kernel

/-- A route whose clock has just passed the default limit of 2^16 KiB cc, and one that has reached it. -/
theorem hyp_StreamEvents_tear : (streaming { openTo 0 with clk := 65536 * 1024 + 1 } (ring (some (0, 1, 2)))).cc 0 |>.sport 1 |> (fun q =>
      q.old = [] ∧ q.isOpen = true ∧ q.torn = false ∧ q.paused = false ∧ 65536 * 1024 < q.clk) := by decide +kernel

theorem hyp_StreamEvents_recv : let s := waiting toSelf (.recv 2 3)
    (s.t 0).wait = some (.recv 2 3) ∧ (Claims.from_ s 0).stepping = false ∧ Claims.recvOk ((s.cc (ccOf 0)).rport 2) (s.nxm 0) ∧
    ((s.cc (ccOf 0)).rport 2).tail ≠ ((s.cc (ccOf 0)).rport 2).seen :=
  ⟨by decide +kernel, by decide +kernel, by unfold Claims.recvOk; decide +kernel, by decide +kernel⟩

/-! ### Barriers (14 R268-R290) -/

/-- Channel 5 is granted to context 0 as handle 2, with these members and arrivals of cluster 0. -/
def channel (mem arr : Nat) : ChanSt :=
  { ChanSt.reset with grant := some (0, 1, 2), s := 0xFFFFFFFF, op := 3, vote := 7, mem := [(0, BitVec.ofNat 32 mem)], arr := [(0, BitVec.ofNat 32 arr)] }
def chans (mem arr : Nat) (b : BarSt) : State :=
  let s := placed.upChan 5 (fun _ => channel mem arr)
  s.upA (fun a => { a with bar := vset a.bar 2 b })
def idle : BarSt := { st := 0, latched := 0x80000001, noSpec := false }
def arrived : BarSt := { idle with st := 1 }
def done : BarSt := { idle with st := 2 }
/-- A crossing of handle 2 that waits for superstep `g`. -/
def crossing (g : BitVec 32) : Crossing := { chk := regs [(3, 99)] |>.me.a, pc := 0x100100, d := 3, h := 2, chan := 5, gen := g }
def crossed (b : BarSt) (g : BitVec 32) : State :=
  let s := with_ (chans 0x11 1 b) (fun t => { t with spec := some (crossing g) })
  s.upCore 0 (fun c => { c with hold := [{ sector := 0x300000, rel := false, ties := [], r := rq .store 8 }] })

theorem hyp_BarrierInstructions : Claims.memberOf (chans 0x11 0 idle) 2 5 ∧ (Claims.barOf (chans 0x11 0 idle) 0 2).st ≠ 1 ∧
    (Claims.barOf (chans 0x11 0 arrived) 0 2).st = 1 ∧ (Claims.barOf (chans 0x11 0 arrived) 0 2).noSpec = false ∧
    (chans 0x11 0 arrived).me.specOn = false ∧ (chans 0x11 0 idle).stepping = false ∧
    (Claims.barOf (chans 0x11 0 { arrived with noSpec := true }) 0 2).noSpec = true ∧
    ((chans 0x11 0 arrived).upA (fun a => { a with status := 0x44 })).me.specOn = true :=
  ⟨by unfold Claims.memberOf; decide +kernel, by decide +kernel⟩

theorem hyp_BarrierInstructions_stops : (chans 0x10 0 idle).chanOf 0 2 = some 5 ∧ posBit ((chans 0x10 0 idle).chan 5).mem (posOf 0) = false ∧
    (chans 0x11 0 idle).chanOf 0 1 = none := by decide +kernel

/-- Position 0 arrives first, or last. -/
theorem hyp_BarrierEvents_arrival : let v : Arrival := { tk := 0, chan := 5, hdl := 2, vote := 0xFFFF, leave := false }
    ((chans 0x11 0 arrived).chan v.chan).grant = some (cidOf v.tk, 1, v.hdl) ∧ posBit ((chans 0x11 0 arrived).chan 5).mem (posOf 0) = true ∧
    posBit ((chans 0x11 0 arrived).chan 5).arr (posOf 0) = false ∧
    ¬ (∀ p ∈ positions ((chans 0x11 0 arrived).chan 5).mem, p = posOf 0 ∨ posBit ((chans 0x11 0 arrived).chan 5).arr p = true) ∧
    (∀ p ∈ positions ((chans 0x11 0x10 arrived).chan 5).mem, p = posOf 0 ∨ posBit ((chans 0x11 0x10 arrived).chan 5).arr p = true) ∧
    posBit ((chans 0x11 0x10 arrived).chan 5).arr (posOf 0) = false ∧ 0 ∈ positions ((chans 0x11 0x10 arrived).chan 5).mem ∧
    (mfind (chans 0x11 0x10 arrived).ts (tkOf 0 0)).isSome = true := by decide +kernel

theorem hyp_BarrierEvents_wake : let s := waiting (chans 0x11 1 done) (.barw 2 3)
    (s.t 0).wait = some (.barw 2 3) ∧ (Claims.barOf s 0 2).st = 2 ∧ (Claims.from_ s 0).stepping = false := by decide +kernel

theorem hyp_BarrierEvents_spec : (((crossed done 0xFFFFFFFE).t 0).spec).isSome = true ∧ (Claims.barOf (crossed done 0xFFFFFFFE) 0 2).st = 2 ∧
    ((crossed done 0xFFFFFFFE).chan 5).s ≠ 0xFFFFFFFE ∧ ((crossed done 0).core (coreOf 0)).hold.map (fun e => e.r.who) = [0] ∧
    5 = (64 + 5) % 64 ∧ ((crossed arrived 0xFFFFFFFF).chan 5).s = (crossing 0xFFFFFFFF).gen ∧ base.me.spec = none := by decide +kernel

/-- Two sectors of one VST.G in the hold buffer. -/
def halfA : Held :=
  { sector := 0x10000, rel := false, ties := [7], r := { rq .store 48 with pa := 0x300000, mask := BitVec.ofNat 64 (2 ^ 48 - 1) } }
def halfB : Held :=
  { sector := 0x10001, rel := false, ties := [7], r := { rq .store 16 with pa := 0x300030, mask := BitVec.ofNat 64 (2 ^ 16 - 1) } }
def tiedHold : State := (crossed done 0xFFFFFFFE).upCore 0 (fun c => { c with hold := [halfA, halfB] })

theorem hyp_BarrierEvents_tied : Claims.heldOf tiedHold 0 = [halfA, halfB] ∧ halfA ≠ halfB ∧ halfA.tied halfB = true ∧ halfB.tied halfA = true ∧
    halfA.r.mask ≠ 0 ∧ halfB.r.mask ≠ 0 ∧ halfA.r.home = halfB.r.home ∧ Claims.apart halfA.r halfB.r := by
  refine ⟨by decide +kernel, by decide +kernel, by decide, by decide, by decide +kernel, by decide +kernel, rfl, ?_⟩
  intro i j hi _ _ _
  have h : i < 48 := hi
  show 0x300000 + i ≠ 0x300030 + j
  omega

/-- A long operation runs as the crossing commits. -/
theorem hyp_BarrierEvents_undo : let s := with_ (crossed done 0xFFFFFFFE) (fun t => { t with undo := some (t.a, 0xFF8, 120) })
    (s.t 0).undo = some ((s.t 0).a, 0xFF8, 120) ∧ (s.t 0).spec = some (crossing 0xFFFFFFFE) ∧ (crossing 0xFFFFFFFE).h < 8 := by decide +kernel

/-! ### Tasks and launches (07; 19) -/

/-- A record on cluster 0: 100 iterations, granule 4, TPC 2, quota 2, all cores, argument pointer 0x55, handle 1 on channel 9 if asked. -/
def record4 (mem : Nat) : BitVec 2048 :=
  BitVec.ofNat 2048 (0x100000 + 0x55 * 2 ^ 64 + 100 * 2 ^ 192 + (4 + 2 * 2 ^ 48 + 2 * 2 ^ 56) * 2 ^ 256 + 0xFF * 2 ^ 16 * 2 ^ 320 + 9 * 2 ^ (8 * 0x99) +
    mem * 2 ^ (8 * 0xA4))
def launch4 : Launch := { launch1 with snap := record4 0 }
def ready4 : Task := { task1 with tcb := 0x202000, st := 1, hv := false, low := 50 }
def parked4 : Task := { ready4 with st := 3, hv := true }

/-- Four TCBs at 0x50000 in the partition's pool; a default fault queue of 2 entries at 0x60000; the bound task's range is 10 to 18. -/
def working (l : List Task) : State :=
  let s := (put tabled 0x10020 0x50004).upPart 0 (fun p => { p with launches := [launch4], tasks := l, used := [0x200000, 0x202000] })
  let s := s.upCtx 0 (fun c => { c with dfq := 0x60001 })
  s.upA (fun a => { a with claim := 10, rend := 18 })

theorem hyp_TaskInstructions : isSys (working [task1]).cur = false ∧ (working [task1]).stepping = false ∧
    (∀ tcb k l, Claims.boundTask (working [task1]) 0 tcb k l → ¬ Claims.splits (working [task1]) k l) := by
  refine ⟨by decide +kernel, by decide +kernel, ?_⟩
  intro tcb k l h hs
  have h1 : tcb = 0x200000 := by
    have : (some tcb : Option Nat) = some 0x200000 := h.1.symm.trans (by decide +kernel)
    injection this
  subst h1
  have h2 : some k = some task1 := h.2.1.symm.trans (by decide +kernel)
  injection h2 with h2
  obtain ⟨⟨q, c, h3, -⟩, -⟩ := hs
  rw [h2] at h3
  cases h3

theorem hyp_TaskInstructions_split : let k := { task1 with req := some (5, 90) }
    Claims.boundTask (working [k]) 0 0x200000 k launch4 ∧ Claims.splits (working [k]) k launch4 ∧
    Claims.granule (record4 0) = ((working [k]).me.a.rend.toNat - (working [k]).me.a.claim.toNat) / 2 :=
  ⟨by unfold Claims.boundTask; decide +kernel, ⟨⟨5, 90, rfl, by decide +kernel⟩, by decide +kernel⟩, by decide +kernel⟩

/-- A request whose position has a candidate again is not served (19 R341). -/
theorem hyp_TaskInstructions_candidate : ((working [{ task1 with req := some (5, 90) }, { ready4 with pos := 5 }]).candidate 0 (cidOf 5) (posOf 5)).isSome = true := by
  decide +kernel

theorem hyp_TaskInstructions_yield : (working [task1]).candidate 0 0 0 = none ∧ (working [task1, parked4]).candidate 0 0 0 = some parked4 ∧
    (∀ b ∈ (working [task1, parked4]).me.busy, b.due ≠ none) ∧ (working [task1, parked4]).me.bound = some 0x200000 ∧
    (working [task1, parked4]).task? 0 0x200000 = some task1 ∧ parked4.tcb ≠ 0x200000 ∧
    (working [task1, parked4]).launch? 0 parked4.cid parked4.seq = some launch4 ∧
    (working [task1, parked4]).imagesOf launch4.cid (recEntry launch4.snap) = [] ∧ ((working [task1, parked4]).part 0).tcbs.length ≤ 254 := by decide +kernel

theorem hyp_TaskInstructions_tspawn : ∃ h s1, Claims.Passes (working [task1]) { kind := .load, al := 256, ctr := none, regs := false }
    [(working [task1]).g 4] 256 true false [h] s1 := ⟨_, _, passes1 _ _ _ _ _ _ (by decide +kernel) (by decide +kernel)⟩

theorem hyp_TaskReleases_tdone : let s := waiting (working [task1]) .tdone
    (s.t 0).wait = some .tdone ∧ Claims.doneReady s 0 ∧ Claims.boundTask s 0 0x200000 task1 launch4 ∧ recSucc launch4.snap = 0 ∧ launch4.left = 2 := by
  refine ⟨by decide +kernel, ⟨by decide +kernel, by decide +kernel, by decide +kernel, ?_⟩, by unfold Claims.boundTask; decide +kernel,
    by decide +kernel, rfl⟩
  intro i e h
  have hn : ∀ i, vget ((waiting (working [task1]) .tdone).core 0).tile i none = none := by
    intro i
    have : ((waiting (working [task1]) .tdone).core 0).tile = Vector.replicate 32 none := by decide +kernel
    rw [this]
    unfold vget
    simp
  exact absurd (h.symm.trans (hn i)) (by simp)

/-- Launch queue 1 of partition 0: a ring of 2^z entries at the mapped page, HEAD and TAIL, and its fourth word; the record of a
TSPAWN at 0x300000 names it. -/
def queue1 (w0 hd tl w3 : Nat) : State :=
  let s := put (put (put (put (put (working [task1]) 0x10000 0x14000) 0x14020 (BitVec.ofNat 64 (0x7FFFFFFFFF0000 + w0))) 0x14028 (BitVec.ofNat 64 hd))
    0x14030 (BitVec.ofNat 64 tl)) 0x14038 (BitVec.ofNat 64 w3)
  waiting (put (s.upDie 0 (fun d => { d with state := 0 })) 0x300028 0x100000000) (.tspawn 3 (rq .load 0x100))

theorem hyp_TaskReleases_tspawn : let s := queue1 0x21 3 4 0x8000
    let own (s : State) : Prop := (s.qw 0 1 3).getLsbD 15 = true ∧ (s.qw 0 1 0).toNat % 32 ≤ 16 ∧ (s.qw 0 1 0).getLsbD 5 = true ∧
      (s.qw 0 1 3).toNat % 2 ^ 12 = cidOf 0
    Claims.noSliceWatch s 0 ∧
    (∀ x ∈ s.pend, waitsFor 0 x.ev = false) ∧ (s.t 0).wait = some (.tspawn 3 (rq .load 0x100)) ∧ (Claims.from_ s 0).stepping = false ∧
    Claims.memNat s 0 (0x300000 + 0x28) 8 / 2 ^ 32 % 64 = 1 ∧ (s.die 0).state = 0 ∧ own s ∧
    (s.qw 0 1 2 - s.qw 0 1 1).toNat ≠ 2 ^ ((s.qw 0 1 0).toNat % 32) ∧
    (s.hwWrite (cidOf 0) 0 (s.qEntry 0 1 (s.qw 0 1 2).toNat) (wordLe 0x300000 8)).isSome = true ∧ ¬ own (queue1 0x01 3 4 0x8000) ∧
    own (queue1 0x21 3 5 0x8000) ∧ ((queue1 0x21 3 5 0x8000).qw 0 1 2 - (queue1 0x21 3 5 0x8000).qw 0 1 1).toNat = 2 ^ 1 := by
  refine ⟨quiet_slices _ rfl _, ?_⟩
  decide +kernel

/-- A faulted task whose TCB at 0x300000, the plain page, asks to be resumed; the dispatcher has it in its cache. -/
def resumable : State :=
  let s := waiting (working [task1, { parked4 with tcb := 0x300000, st := 4 }]) (.tsync 0x200000 false)
  s.upPart 0 (fun p => { p with tcbs := [(0x300000, { TcbRec.empty with state := 7, cid := 1 })] })

theorem hyp_TaskReleases_tsync : (resumable.t 0).wait = some (.tsync 0x200000 false) ∧ (Claims.from_ resumable 0).stepping = false ∧
    ∃ pte s1, resumable.site 0 0x200000 .load (resumable.t 0).priv = (.ok 0x300000 0 pte, s1) ∧ (s1.t 0).a = (resumable.t 0).a ∧
      (s1.t 0).pc = (resumable.t 0).pc ∧ (s1.t 0).pmctl = (resumable.t 0).pmctl ∧
      s1.task? 0 0x300000 = some { parked4 with tcb := 0x300000, st := 4 } ∧ (∀ e ∈ (s1.part 0).fq, e.tcb ≠ 0x300000) ∧
      ((s1.upPart 0 (fun x => { x with tcbs := x.tcbs.filter (fun r => !(r.1 == 0x300000 && r.2.cid == 0)) })).getTcb 0 0x300000).1.state = 7 :=
  ⟨by decide +kernel, by decide +kernel, ptePlain 0x30, (resumable.site 0 0x200000 .load (resumable.t 0).priv).2, by decide +kernel⟩

theorem hyp_TaskReleases_park : let k := { parked4 with low := 0 }
    let t1 := { task1 with low := 50 }
    let s := with_ (working [t1, k]) (fun t => { t with wait := some (.waitge 3 (rq .waitge 8) false), wclk := 257 })
    let s := s.upPart 0 (fun p => { p with launches := [{ launch4 with snap := record4 0 + BitVec.ofNat 2048 (2 ^ (8 * 0x38 + 48)) }] })
    s.yieldParks 0 = some ((rq .waitge 8).pa, (rq .waitge 8).home, (rq .waitge 8).cmp) ∧ (s.t 0).bound = some 0x200000 ∧
    (working [task1]).yieldParks 0 = none := by decide +kernel

theorem hyp_TaskReleases_ending : (waiting (working [task1]) .tdone).ending task1.cid = false ∧
    (let s := (working [task1]).upDie 1 (fun d => { d with tbusy := true, tcid := 0 }); s.ending task1.cid = true ∧ s.task? 0 0x200000 = some task1) := by
  decide +kernel

/-- Thread set 0 is idle, with these tasks. -/
def idleWith (l : List Task) : State := with_ (working l) (fun t => { t with bound := none })

theorem hyp_Dispatching_bind : ∀ k ∈ [ready4, parked4], (idleWith [k]).openPos 0 = some 0 ∧ (idleWith [k]).candidate 0 0 0 = some k ∧
    (idleWith [k]).launch? 0 k.cid k.seq = some launch4 ∧ (idleWith [k]).imagesOf launch4.cid (recEntry launch4.snap) = [] := by decide +kernel

theorem hyp_Dispatching_hv : ready4.hv = false ∧ parked4.hv = true ∧ (working [ready4]).openPos 0 = none := by decide +kernel

/-- Position 1 runs a task that position 0 may ask to split. -/
def victim : Task := { task1 with pos := 1, size := 90 }

theorem hyp_Dispatching_split : (idleWith [victim]).wantsSplit 0 = true ∧ (idleWith [victim]).openPos 0 = some 0 ∧
    firstBy victimLt ((idleWith [victim]).victims 0 0 0) = some (victim, 0) ∧ (idleWith [ready4]).wantsSplit 0 = false ∧
    (idleWith [{ victim with req := some (0, 90) }]).task? 0 0x200000 = some { victim with req := some (0, 90) } ∧
    90 + 1024 ≤ ({ idleWith [{ victim with req := some (0, 90) }] with cyc := 1114 } : State).cyc := by decide +kernel

/-- An entry that waits for the default queue. -/
def entry0 (n : Nat) : FqEnt := { cid := 0, va := 0x60000, phys := true, z := n, tcb := 0, dflt := true, q := 1, words := [0, 1, 0, 0, 0, 0x100, 0, 0] }
def faulting (n : Nat) : State := (idleWith []).upPart 0 (fun p => { p with fq := [entry0 n] })

theorem hyp_Dispatching_fault : (faulting 1).fqPick 0 = some (entry0 1) ∧ (match (faulting 1).fqTry 0 (entry0 1) with | .done _ => true | _ => false) = true ∧
    (idleWith []).fqPick 0 = none := by decide +kernel

/-- Memory of the next states: a queue array at 0x4000 whose queue 1 holds one launch, its record at 0x300100 behind virtual page 1,
for 2 tasks on core 0 with handle 1 on channel 9; the pool has `n` TCBs. -/
def admMem (n : Nat) : List Host.Cell :=
  [(0x4020, 1), (0x4022, 1), (0x4030, 1), (0x4039, 0x80), (0x10001, 0x40), (0x10012, 1), (0x10020, BitVec.ofNat 8 n), (0x10022, 5),
   (0x110000, 1), (0x110002, 0x12), (0x120000, 1), (0x120002, 0x13), (0x130008, 0x77), (0x130009, 8), (0x13000A, 0x30),
   (0x300001, 1), (0x300002, 1), (0x300118, 2), (0x30012A, 1), (0x300199, 9), (0x3001A4, 1)]
/-- State 0 can admit the launch, state 1 has too few TCBs, in state 2 another launch holds the channel. -/
def admitting (i : Nat) : State :=
  { State.reset with
    cyc := 100, mem := admMem (if i = 1 then 1 else 2)
    chans := [(9, { ChanSt.reset with grant := if i = 2 then some (3, 7, 0) else none })]
    ctxs := [(0, { Ctx.reset with res := 1, state := 1, root := 0x110001, dfq := 0x60001 })]
    dies := [(0, { DieSt.reset with pdesc := 0x10000, state := 0, milv := 0x11 })], parts := [(0, { PartSt.reset with rrq := Vector.replicate 8 2 })] }

/-- The record of that launch. -/
def record9 : BitVec 2048 := BitVec.ofNat 2048 (2 * 2 ^ 192 + 2 ^ 336 + 9 * 2 ^ (8 * 0x99) + 2 ^ (8 * 0xA4))

/-- What holds of each of the three states. -/
theorem three (P : Nat → Prop) (h0 : P 0) (h1 : P 1) (h2 : P 2) (i : Nat) (hi : i < 3) : P i := by
  have : i = 0 ∨ i = 1 ∨ i = 2 := by omega
  rcases this with h | h | h <;> subst h <;> assumption

theorem adm_page (i : Nat) (hi : i < 3) : ∀ x ∈ [((0x10000 : Word), 0), (0x10100, 0x100), (0x10160, 0x160), (0x10180, 0x180)],
    (admitting i).xlatHw 0 0 x.1 .load 1 = (some (0x300000 + x.2, 0, 0x300877), admitting i) := by
  revert i
  exact three _ (by decide +kernel) (by decide +kernel) (by decide +kernel)

theorem adm_word (i off : Nat) (hi : i < 3) (h : off % 8 = 0) :
    (admitting i).pdesc 0 off = leWord (memRead (admitting i).mem (0x10000 + off) 8) := by
  have : wbits ((admitting i).die 0).pdesc 6 46 * 64 = 0x10000 := by
    revert i
    exact three _ (by decide +kernel) (by decide +kernel) (by decide +kernel)
  unfold State.pdesc
  rw [this, rdWord_flat _ rfl _ _ (by omega)]

theorem adm_p (i : Nat) (hi : i < 3) : (leWord (memRead (admitting i).mem (0x10000 + 0) 8)).toNat = 0x4000 := by
  revert i
  exact three _ (by decide +kernel) (by decide +kernel) (by decide +kernel)

theorem adm_at (i q : Nat) (hi : i < 3) : (admitting i).qAt 0 q = 0x4000 + 32 * q := by
  unfold State.qAt
  rw [adm_word i 0 hi rfl]
  exact congrArg (· + 32 * q) (adm_p i hi)

theorem adm_q (i q k : Nat) (hi : i < 3) : (admitting i).qw 0 q k = leWord (memRead (admitting i).mem (0x4000 + 32 * q + 8 * k) 8) := by
  unfold State.qw
  rw [adm_at i q hi, rdWord_flat (admitting i) rfl _ _ (by omega)]

theorem adm_open (i : Nat) (hi : i < 3) : ∀ q, q < 64 → ((leWord (memRead (admitting i).mem (0x4000 + 32 * q + 8 * 3) 8)).getLsbD 15) = (q == 1) := by
  revert i
  exact three _ (by decide +kernel) (by decide +kernel) (by decide +kernel)

theorem adm_heads (i : Nat) (hi : i < 3) : (admitting i).heads 0 = [1] := by
  have h1 : (decide (wbits ((admitting i).qw 0 1 0) 0 5 ≤ 16) && (admitting i).qw 0 1 1 != (admitting i).qw 0 1 2) = true := by
    rw [adm_q i 1 0 hi, adm_q i 1 1 hi, adm_q i 1 2 hi]
    revert i
    exact three _ (by decide +kernel) (by decide +kernel) (by decide +kernel)
  have h : (admitting i).heads 0 = (span 0 64).filter (fun q => q == 1) := by
    refine List.filter_congr ?_
    intro q hq
    unfold State.qOpen
    rw [adm_q i q 3 hi, adm_open i hi q (by have := mem_span _ _ _ hq; omega), Bool.and_assoc]
    by_cases hq1 : q = 1
    · subst hq1
      rw [h1]
      rfl
    · simp [hq1]
  rw [h]
  decide +kernel

theorem adm_cid (i : Nat) (hi : i < 3) : (admitting i).qCid 0 1 = 0 := by
  have h : wbits (leWord (memRead (admitting i).mem (0x4000 + 32 * 1 + 8 * 3) 8)) 0 12 = 0 := by
    revert i
    exact three _ (by decide +kernel) (by decide +kernel) (by decide +kernel)
  unfold State.qCid
  rw [adm_q i 1 3 hi]
  exact h

theorem adm_entry (i : Nat) (hi : i < 3) : (admitting i).qEntry 0 1 ((admitting i).qw 0 1 1).toNat = 0x10000 := by
  unfold State.qEntry
  rw [adm_q i 1 0 hi, adm_q i 1 1 hi]
  revert i
  exact three _ (by decide +kernel) (by decide +kernel) (by decide +kernel)

theorem adm_learn (i : Nat) : (admitting i).learn 0 0 = admitting i := by
  have h : ((admitting i).ctx 0).res ≠ 0 := by
    rw [show ((admitting i).ctx 0).res = 1 from rfl]
    decide
  unfold State.learn
  rw [if_pos (by simp only [h, decide_true, Bool.true_or, not_false_eq_true, ne_eq])]

theorem adm_read (i : Nat) (hi : i < 3) : (admitting i).hwRead 0 0 0x10000 8 = (some (memRead (admitting i).mem (0x300000 + 0) 8), admitting i) :=
  hwRead_flat (admitting i) rfl 0 0 (0x300000 + 0) 0 0x10000 0x300877 8 (adm_page i hi (0x10000, 0) List.mem_cons_self)

theorem adm_va (i : Nat) (hi : i < 3) : leWord (memRead (admitting i).mem (0x300000 + 0) 8) = 0x10100 := by
  revert i
  exact three _ (by decide +kernel) (by decide +kernel) (by decide +kernel)

theorem headVa_of (s : State) (p q cid : Nat) (va : Word) (bs : List Byte) (h1 : s.qCid p q = cid) (h2 : s.qEntry p q (s.qw p q 1).toNat = va)
    (h3 : s.learn p cid = s) (h4 : s.hwRead cid p va 8 = (some bs, s)) : s.headVa p q = (some (leWord bs), s) := by
  unfold State.headVa
  rw [h1, h2, h3, h4]

theorem adm_headVa (i : Nat) (hi : i < 3) : (admitting i).headVa 0 1 = (some 0x10100, admitting i) := by
  rw [← adm_va i hi]
  exact headVa_of _ 0 1 0 0x10000 _ (adm_cid i hi) (adm_entry i hi) (adm_learn i) (adm_read i hi)

theorem step1_of (s : State) (p q cid : Nat) (va : Word) (bs ps : List Byte) (h1 : s.qCid p q = cid) (h2 : s.headVa p q = (some va, s))
    (h3 : va.toNat % 256 = 0) (h4 : s.hwRead cid p (va + 0x60) 16 = (some bs, s)) (h7 : s.hwRead cid p (va + 0x80) 8 = (some ps, s))
    (h5 : BitVec.ofNat 64 (bits (leNat bs) 0 64) = 0) (h6 : BitVec.slt 0 (leWord ps) = false) : s.step1 p q = .go := by
  unfold State.step1
  simp only [h1, h2, h3, h4, h5, h6, h7, ne_eq, not_true_eq_false, if_false, Bool.not_false, if_true]

theorem adm_step1 (i : Nat) (hi : i < 3) : (admitting i).step1 0 1 = .go := by
  have h := hwRead_flat (admitting i) rfl 0 0 (0x300000 + 0x160) 0 0x10160 0x300877 16 (adm_page i hi (0x10160, 0x160) (by simp))
  have h7 := hwRead_flat (admitting i) rfl 0 0 (0x300000 + 0x180) 0 0x10180 0x300877 8 (adm_page i hi (0x10180, 0x180) (by simp))
  have h5 : BitVec.ofNat 64 (bits (leNat (memRead (admitting i).mem (0x300000 + 0x160) 16)) 0 64) = 0 := by
    clear h h7
    revert i
    exact three _ (by decide +kernel) (by decide +kernel) (by decide +kernel)
  have h6 : BitVec.slt 0 (leWord (memRead (admitting i).mem (0x300000 + 0x180) 8)) = false := by
    clear h h7 h5
    revert i
    exact three _ (by decide +kernel) (by decide +kernel) (by decide +kernel)
  exact step1_of _ 0 1 0 0x10100 _ _ (adm_cid i hi) (adm_headVa i hi) (by decide) h h7 h5 h6

theorem admWaiters_of (s : State) (p q : Nat) (h1 : s.heads p = [q]) (h2 : s.step1 p q = .go) : s.admWaiters p = s := by
  unfold State.admWaiters
  rw [h1, List.foldl_cons, h2]
  rfl

theorem pickQueue_of (s : State) (p q : Nat) (h1 : s.heads p = [q]) (h2 : s.step1 p q = .go) : s.pickQueue p = some q := by
  have h : s.headGoes p q = true := by
    unfold State.headGoes
    rw [h2]
  unfold State.pickQueue
  rw [h1, List.filter_cons, h]
  rfl

/-- The state after the record has been read. -/
def admitted (i : Nat) : State := (admitting i).upPart 0 (fun y => { y with recs := mput y.recs 0x300100 (0, record9) 64 })

theorem noteN_flat (s : State) (hs : s.slices = []) (h : Nat → Nat) (wr : Bool) : ∀ f pa n, s.noteN h pa n wr f = s
  | 0, _, _ => rfl
  | f + 1, pa, n => by
    unfold State.noteN
    split
    · rfl
    · rw [hwNote_flat s hs]
      exact noteN_flat s hs h wr f _ _

theorem getRec_of (s : State) (hs : s.slices = []) (p cid pa h : Nat) (va pte : Word) (x : BitVec 2048) (h1 : va.toNat % 256 = 0)
    (h2 : s.xlatHw cid p va .load 1 = (some (pa, h, pte), s)) (h3 : mfind (s.part p).recs pa = none) 
    (h5 : BitVec.ofNat 2048 (leNat (s.rdBy (s.homeBy p pte) pa 256)) = x) :
    s.getRec p cid va = (some (pa, x), s.upPart p (fun y => { y with recs := mput y.recs pa (cid, x) 64 })) := by
  unfold State.getRec
  rw [if_neg (by omega), h2]
  simp only [h3, noteN_flat s hs, h5]

theorem adm_record (i : Nat) (hi : i < 3) : (admitting i).getRec 0 0 0x10100 = (some (0x300100, record9), admitted i) := by
  have h5 : BitVec.ofNat 2048 (leNat ((admitting i).rdBy ((admitting i).homeBy 0 0x300877) 0x300100 256)) = record9 := by
    revert i
    exact three _ (by decide +kernel) (by decide +kernel) (by decide +kernel)
  exact getRec_of (admitting i) rfl 0 0 0x300100 0 0x10100 0x300877 record9 (by decide) (adm_page i hi (0x10100, 0x100) (by simp)) rfl h5

theorem noteHead_of (s : State) (hs : s.slices = []) (p q cid : Nat) (va : Word) (bs ps cs : List Byte) (h1 : s.qCid p q = cid)
    (h2 : s.headVa p q = (some va, s)) (h4 : s.hwRead cid p (va + 0x60) 16 = (some bs, s)) (h7 : s.hwRead cid p (va + 0x80) 8 = (some ps, s))
    (h8 : s.hwRead cid p (va + 0x60) 8 = (some cs, s)) (h9 : leNat cs = 0) : s.noteHead p q = s := by
  unfold State.noteHead
  simp only [noteN_flat s hs, h1, h2, h4, h7, State.step1Ctr, h8, h9, if_true]

theorem adm_noteHead (i : Nat) (hi : i < 3) : (admitting i).noteHead 0 1 = admitting i := by
  have h := hwRead_flat (admitting i) rfl 0 0 (0x300000 + 0x160) 0 0x10160 0x300877 16 (adm_page i hi (0x10160, 0x160) (by simp))
  have h7 := hwRead_flat (admitting i) rfl 0 0 (0x300000 + 0x180) 0 0x10180 0x300877 8 (adm_page i hi (0x10180, 0x180) (by simp))
  have h8 := hwRead_flat (admitting i) rfl 0 0 (0x300000 + 0x160) 0 0x10160 0x300877 8 (adm_page i hi (0x10160, 0x160) (by simp))
  have h9 : leNat (memRead (admitting i).mem (0x300000 + 0x160) 8) = 0 := by
    clear h h7 h8
    revert i
    exact three _ (by decide +kernel) (by decide +kernel) (by decide +kernel)
  exact noteHead_of _ rfl 0 1 0 0x10100 _ _ _ (adm_cid i hi) (adm_headVa i hi) h h7 h8 h9

theorem adm_turn (i : Nat) (hi : i < 3) : (admitting i).upPart 0
    (fun y => { y with rrq := vset y.rrq (((admitting i).qw 0 1 3).toNat / 2 ^ 12 % 8) ((1 + 1) % 64) }) = admitting i := by
  have h : (leWord (memRead (admitting i).mem (0x4000 + 32 * 1 + 8 * 3) 8)).toNat / 2 ^ 12 % 8 = 0 := by
    revert i
    exact three _ (by decide +kernel) (by decide +kernel) (by decide +kernel)
  have hv : vset (Vector.replicate 8 2) 0 ((1 + 1) % 64) = Vector.replicate 8 2 := by decide
  rw [adm_q i 1 3 hi, h]
  unfold State.upPart
  rw [show (admitting i).part 0 = { PartSt.reset with rrq := Vector.replicate 8 2 } from rfl]
  simp only [hv]
  rfl

/-- The launch is admitted in state 0, refused in state 1, and waits in state 2. -/
theorem hyp_Dispatching_admission (i : Nat) (hi : i < 3) : (admitting i).admits 0 = true ∧ ((admitting i).admWaiters 0).pickQueue 0 = some 1 ∧
    ((admitting i).admWaiters 0).qCid 0 1 = 0 ∧
    ((((admitting i).admWaiters 0).upPart 0
      (fun y => { y with rrq := vset y.rrq ((((admitting i).admWaiters 0).qw 0 1 3).toNat / 2 ^ 12 % 8) ((1 + 1) % 64) })).noteHead 0 1).headVa 0 1 = (some 0x10100, admitting i) ∧
    (admitting i).step1 0 1 = .go ∧ (admitting i).getRec 0 0 0x10100 = (some (0x300100, record9), admitted i) := by
  rw [admWaiters_of _ 0 1 (adm_heads i hi) (adm_step1 i hi), adm_turn i hi, adm_noteHead i hi]
  refine ⟨?_, pickQueue_of _ 0 1 (adm_heads i hi) (adm_step1 i hi), adm_cid i hi, adm_headVa i hi, adm_step1 i hi, adm_record i hi⟩
  revert i
  exact three _ (by decide +kernel) (by decide +kernel) (by decide +kernel)

theorem hyp_Dispatching_verdicts : recTasks record9 ≠ [] ∧ (admitted 0).step3 0 0 record9 = none ∧
    (admitted 0).step4 0 { q := 1, va := 0x10100, pa := 0x300100, snap := record9 } = true ∧ (admitted 1).step3 0 0 record9 = some (cAccess, false) ∧
    ((admitted 0).upCtx 0 (fun c => { c with dfq := 0x4000000001 })).step3 0 0 record9 = some (cPfSt, true) ∧
    (admitted 2).step3 0 0 record9 = none ∧ (admitted 2).step4 0 { q := 1, va := 0x10100, pa := 0x300100, snap := record9 } = false := by
  decide +kernel

/-- In state 0 the admission waits with its step 4 open; in state 2 with the channel held. -/
theorem hyp_Dispatching_wait : let a : Adm := { q := 1, va := 0x10100, pa := 0x300100, snap := record9 }
    ((admitting 0).upPart 0 (fun p => { p with adm := some a })).step4 0 a = true ∧
    ((admitting 2).upPart 0 (fun p => { p with adm := some a })).step4 0 a = false ∧
    ((idleWith []).upPart 0 (fun p => { p with admAt := 101 })).admits 0 = false := by decide +kernel

/-! ### Partitions, the host, the transport (19 R327; 21 R372-R393) -/

/-- Dies 0 and 1 are partition 0 in a state; die 2 is partition 2, in RUN. -/
def parted (st : Nat) (f : DieSt → DieSt) : State :=
  { State.reset with
    cyc := 5000
    dies := [(0, f { DieSt.reset with state := st, milv := 0x33, nbound := 1, sdone := true, qto := 2, pdesc := 0x10000 }),
      (1, f { DieSt.reset with state := st, milv := 0x33, nbound := 1, sdone := true, serves := false, pdesc := 0x10000 }),
      (2, { DieSt.reset with state := 0, part := 2, milv := 0x44, pdesc := 0x20000 }), (3, { DieSt.reset with part := 3 })] }

/-- A queue of the partition is busy. -/
def busyPart (st : Nat) (f : DieSt → DieSt) : State :=
  { parted st f with mem := [(0x4030, 1), (0x4039, 0x80), (0x10001, 0x40)] }

theorem hyp_PartitionStates_commands : ((parted 0 id).die 1).state = 0 ∧ ((parted 0 id).die 0).qto ≠ 0 ∧ ((parted 1 id).die 1).state = 1 ∧
    ((parted 2 id).die 0).state = 2 ∧ (parted 2 id).resumeCheck 0 = 0 ∧ ((parted 4 id).die 1).state = 4 ∧ (parted 4 id).resumeCheck 0 = 0 ∧
    (parted 2 (fun d => { d with sdone := false })).resumeCheck 0 = 4 ∧ (parted 2 (fun d => { d with nbound := 0 })).resumeCheck 0 = 2 := by decide +kernel

theorem hyp_PartitionStates_timeout : let s := busyPart 1 (fun d => { d with qsince := 2952 })
    (s.die 0).state = 1 ∧ (s.die 0).drained = false ∧ (s.die (s.die 0).qdie).qto.toNat * 1024 ≠ 0 ∧
    (s.die 0).qsince + (s.die (s.die 0).qdie).qto.toNat * 1024 = s.cyc ∧ (s.die 1).qto.toNat * 1024 = 0 ∧
    s.qBusy 0 1 = true := by decide +kernel

theorem busy_of (s : State) (p q : Nat) (hq : q ∈ span 0 64) (h : s.qBusy p q = true) : s.busy p = true :=
  List.any_eq_true.mpr ⟨q, hq, h⟩

theorem hyp_PartitionStates_busy (f : DieSt → DieSt) (h : (busyPart 1 f).qBusy 0 1 = true) : (busyPart 1 f).busy 0 = true :=
  busy_of _ 0 1 (by decide) h

theorem hyp_PartitionStates_drain : let s := parted 1 (fun d => { d with drained := true })
    (s.die 0).state = 1 ∧ (s.die 0).drained = true ∧ s.fullCores 0 = [] ∧ s.inFlight (s.toSlices 0) = false ∧
    (s.push (.homeLoadServe (rq .load 8))).inFlight ((s.push (.homeLoadServe (rq .load 8))).toSlices 0) = true ∧
    ((parted 3 id).die 0).state = 3 := by decide +kernel

theorem hyp_PartitionStates_shoot : ((parted 0 id).die 0).sbusy = false ∧ ((parted 0 (fun d => { d with sbusy := true })).die 0).sbusy = true ∧
    ((parted 2 id).die 0).part ≠ (1 : Word).toNat % 4 ∧ ((parted 2 id).die 0).milv ≠ (0x11 : Word).setWidth 8 ∧
    ((parted 2 id).die 0).nbound ≠ (2 : Word).setWidth 2 ∧ ((parted 0 id).die 0).state ≠ 2 := by
  decide +kernel

/-- A die that is OFF joins a running partition's number: commands and their ends pass it by. -/
theorem hyp_PartitionStates_passed : let s := (parted 0 id).upDie 3 (fun d => { d with part := 0 })
    (s.die 3).part = (s.die 0).part ∧ (s.die 3).state = 4 ∧ (s.die 0).state = 0 ∧ (s.die 2).part ≠ (s.die 0).part := by decide +kernel

theorem hyp_PartitionStates_lost : (parted 1 id).anyLost 0 = false ∧ ((parted 1 id).upSlice 0 (fun c => { c with
    lost := [{ line := 0, recno := 1, level := 1, way := 0, l2 := 1, msc := 0, mem := 0 }] })).anyLost 0 = true := by decide +kernel

/-- Queue 1 of partition 0 holds 2 of 4 launches; a memory queue; the partition does not run. -/
def belled (st b5 : Nat) : State :=
  { parted st id with mem := (if b5 = 0 then [(0x4020, 2)] else [(0x4020, 0x22)]) ++ [(0x4028, 3), (0x4030, 5), (0x4039, 0x80), (0x10001, 0x40)] }

theorem hyp_HostAccesses_doorbell : (belled 0 0).isPart 0 = true ∧ ((belled 0 0).die 0).state = 0 ∧ (belled 0 0).qOpen 0 1 = true ∧
    ((belled 0 0).qw 0 1 0).getLsbD 5 = false ∧ ((belled 0 0).qw 0 1 2).toNat ≤ (7 : Word).toNat ∧
    (7 : Word).toNat = ((belled 0 0).qw 0 1 1).toNat + 2 ^ (((belled 0 0).qw 0 1 0).toNat % 32) ∧ ((belled 0 1).qw 0 1 0).getLsbD 5 = true ∧
    (4 : Word).toNat < ((belled 0 0).qw 0 1 2).toNat ∧ ((belled 2 0).die 0).state ≠ 0 ∧ (belled 2 0).host.bells = [] ∧
    ((belled 2 0).die 0).pdesc ≠ 0 ∧ (let s := { belled 2 0 with host := { HostSt.reset with bells := List.replicate 64 (0, 1, 4) } };
      (s.host.bells.filter (fun b => b.1 == 0)).length = 64) := by decide +kernel

theorem hyp_HostAccesses_bar : let s := parted 0 id
    s.barOn 0 = true ∧ s.bar2 0 0x3000B8 8 4 = some [(0x3000B8, 8)] ∧ s.bar2 0 (2 ^ 37 + 8) 8 4 = some [(2 ^ 37 + 8, 8)] ∧ s.heldIn (s.home00 0) 0x3000B8 8 = false ∧
    0x3000B8 % 192 + 8 = 192 ∧ (∀ i, i < 8 → lineKey (0x3000B8 + i) = lineKey 0x3000B8) ∧ (parted 2 id).barOn 0 = false ∧ s.barOn 1 = false ∧
    s.host.copied.contains (0x3000B8 / 65536) = false ∧
    ({ s with host := { s.host with copied := [0x30] } } : State).host.copied.contains (0x3000B8 / 65536) = true := by
  decide +kernel

/-- A write over the end of die 0's range goes on in die 1's, both in the partition's list (21 R383). -/
theorem test_bar2_pieces : (parted 0 id).bar2 0 (2 ^ 37 - 8) 16 4 = some [(2 ^ 37 - 8, 8), (2 ^ 37, 8)] := by decide +kernel

theorem hyp_HostAccesses_quiet (home : Nat) : Claims.noSliceWatch (parted 0 id) home := quiet_slices _ rfl home

/-- Context 5 is the HOST and the NET context of partition 0; its tables map virtual page 1 to frame 0x30. -/
def served : State :=
  { parted 0 id with
    mem := [(0x10038, 5), (0x10039, 0x10), (0x10040, 5), (0x10041, 0x10), (0x110000, 1), (0x110002, 0x12), (0x120000, 1), (0x120002, 0x13),
      (0x130008, 0x77), (0x130009, 8), (0x13000A, 0x30)]
    ctxs := [(5, { Ctx.reset with res := 1, state := 1, root := 0x110001 })] }

theorem hyp_HostAccesses_ats : served.barOn 0 = true ∧ (served.pdesc 0 0x40).getLsbD 12 = true ∧ (served.pdesc 0 0x40).toNat % 2 ^ 12 = 5 ∧
    (served.ctx 5).res ≠ 0 ∧ (served.walk 5 0x100B8 .load 0).1 ≠ .held ∧ ((parted 0 id).pdesc 0 0x40).getLsbD 12 = false := by decide +kernel

/-- MSI-X on with vector 48 open; the function masked; the vector masked. -/
theorem hyp_HostAccesses_open : (let h : HostSt := { HostSt.reset with msixCtl := [(0, 0x8000)], msix := [(0x61, 0)] }; Claims.msixOpen h 0 48) ∧
    ¬ Claims.msixOpen { HostSt.reset with msixCtl := [(0, 0xC000)], msix := [(0x61, 0)] } 0 48 ∧
    ¬ Claims.msixOpen { HostSt.reset with msixCtl := [(0, 0x8000)] } 0 47 := by
  unfold Claims.msixOpen
  decide +kernel

theorem hyp_HostAccesses_msix : (1 : Nat) < 0x400 ∧ (parted 0 id).barOn 0 = true ∧
    (({ parted 0 id with host := { HostSt.reset with pba := [(0, 63)] } } : State).host.pba.contains (0, 63)) = true ∧
    (0x88B5 : Nat) ≠ (parted 0 id).jost.etype ∧ (9216 : Nat) ≤ 9216 ∧ (parted 0 id).jost.booted = false ∧
    ({ parted 0 id with jost := { JostSt.reset with booted := true } } : State).jost.booted = true := by decide +kernel

/-- An RPUT of 4 bytes from partition 2 to partition 0, its request number 7. -/
def rput : NetReq :=
  { part := 2, dst := 0, seq := 7, op := 5, va := 0x100B8, len := 4, data := [1, 2, 3, 4], imgs := [], aux := 0, cmp := 0, wide := false, tag := 0, count := 0
    dead := 0, recvd := 0, nstat := 0, tk := 0, cc := 0, entry := 5, burst := 0, sends := 1, status := 0 }

theorem hyp_TransportExchanges_request : rput.dst < 4 ∧ served.barOn rput.dst = true ∧ (∀ x ∈ (served.part rput.dst).replies, x.part ≠ rput.part) ∧
    served.netHeld 0 rput = false ∧
    (parted 2 id).barOn rput.dst = false ∧ ((served.netXlat 0 0x100B8 4 .store).1).isSome = true ∧
    (served.netXlat 0 0x100B8 1 .load).1 = some (0x3000B8, 0, 5) ∧ served.heldIn (fun _ => 0) 0x3000B8 4 = false ∧
    (((served.upPart 0 (fun p => { p with replies := [rput] })).part 0).replies.filter (fun x => x.part == 2)).find? (fun x => x.seq == 7) = some rput := by
  decide +kernel

/-- A number that is 256 or more behind one that was answered; one that is fresh beside an answered one; a frame that is being copied. -/
theorem hyp_TransportExchanges_numbers : let s := served.upPart 0 (fun p => { p with replies := [{ rput with seq := 300 }] })
    (∀ x ∈ (s.part rput.dst).replies, x.part = rput.part → x.seq ≠ rput.seq) ∧
    (∃ x ∈ (s.part rput.dst).replies, x.part = rput.part ∧ 256 ≤ seqGap x.seq rput.seq ∧ seqGap x.seq rput.seq < 2 ^ 31) ∧
    Claims.Fresh s { rput with seq := 45 } ∧ served.netCopied 0 rput = false ∧
    ({ served with host := { served.host with copied := [0x30] } } : State).netCopied 0 rput = true := by
  unfold Claims.Fresh
  decide +kernel

/-- An RGET of the line's last bytes, and a CAS of its last word. -/
def rget : NetReq := { rput with op := 6, data := [], len := 4 }
def ratom : NetReq := { rput with op := 7, va := 0x100B8, wide := true, aux := 9, len := 8, data := [1, 2, 3, 4, 5, 6, 7, 8], cmp := 3 }
theorem hyp_TransportExchanges_served : ∃ s1 s2, served.netXlat 0 rget.va 4 .load = (some (0x3000B8, 0, 5), s1) ∧
    served.netXlat 0 ratom.va 8 .rmw = (some (0x3000B8, 0, 5), s2) ∧ Claims.noSliceWatch s1 0 ∧ Claims.noSliceWatch s2 0 ∧
    served.netCopied 0 rget = false ∧ served.netHeld 0 rget = false ∧ served.netCopied 0 ratom = false ∧ served.netHeld 0 ratom = false ∧
    ratom.aux.toNat ≤ 9 ∧ ratom.va.toNat % 8 = 0 ∧ ratom.data.length = 8 ∧ Claims.oneChunk 0x3000B8 8 := by
  refine ⟨(served.netXlat 0 rget.va 4 .load).2, (served.netXlat 0 ratom.va 8 .rmw).2, by decide +kernel, by decide +kernel, ?_, ?_,
    by decide +kernel, by decide +kernel, by decide +kernel, by decide +kernel, by decide, by decide, rfl, by decide, by decide, by decide⟩ <;>
  · unfold Claims.noSliceWatch
    decide +kernel

theorem hyp_TransportExchanges_performed : ∃ s1, served.netXlat 0 0x100B8 4 .store = (some (0x3000B8, 0, 5), s1) ∧ Claims.noSliceWatch s1 0 ∧
    Claims.oneChunk 0x3000B8 4 := by
  refine ⟨(served.netXlat 0 0x100B8 4 .store).2, by decide +kernel, ?_, by decide, by decide, by decide⟩
  unfold Claims.noSliceWatch
  decide +kernel

/-- An RPUT and an RGET in flight from partition 0, with the copies that sent them. -/
def flying (n : NetReq) (x : BitVec 256) (p : Piece) : State :=
  (copies [copyOf x (some (0x3000B8, 0, 0x2000B8)) [burst 1 n.len [p]]]).upPart 0 (fun q => { q with flying := [n] })
def rput0 : NetReq := { rput with part := 0, dst := 1 }
def rget0 : NetReq := { rput0 with op := 6 }
def putPiece : Piece := { src := .loc 0x40, dst := .peer 0x200000, len := 4 }
def getPiece : Piece := { src := .peer 0x200000, dst := .loc 0xFFFC, len := 4 }

theorem hyp_TransportExchanges_reply : let s := flying rput0 rput200 putPiece
    s.flyOf 0 1 7 = some (0, rput0) ∧ (burst 0 4 [putPiece]).st = 0 ∧ (s.copyAt 0 5).isSome = true ∧ (burst 1 4 [putPiece]).st = 1 ∧
    (∀ k ∈ (s.part 0).flying, k.dst = rput0.dst ∧ k.seq = rput0.seq ∨ ¬ (k.cc = rput0.cc ∧ k.entry = rput0.entry ∧ k.burst = rput0.burst)) ∧
    rget0.op = 6 ∧ (burst 1 4 [getPiece]).ps.head? = some getPiece ∧ ((flying rget0 0 getPiece).cc 0).slot (0xFFFC / 65536) = .attached bank0 ∧
    0xFFFC % 65536 + rget0.data.length = 65536 ∧ Memory.wf bank0.data = true := by decide +kernel

/-- What replies of ops 6, 7 and 8 bring; a reply whose burst lands already, one that comes early, and a refused one. -/
theorem hyp_TransportExchanges_landings : Claims.landings [getPiece] [rget0.data] ≠ [] ∧ Claims.landing1 (Tcw.laddr rput200 + 16) (wordLe 0 8) ≠ [] ∧
    Claims.landing1 (Tcw.laddr rput200 + Tcw.row rput200) (natLe (2 * 2 ^ 32) 8) ≠ [] ∧ Tcw.remote rput200 = true ∧ (burst 5 4 [getPiece]).st = 5 ∧
    (burst 0 4 [getPiece]).st = 0 ∧ ({ rget0 with status := 1 } : NetReq).status = 1 := by decide +kernel

theorem hyp_TransportExchanges_retransmit : rput0.sends < 16 ∧ 16 ≤ ({ rput0 with sends := 16 } : NetReq).sends ∧
    ({ rput0 with sends := 16, status := 2 } : NetReq).status = 2 ∧
    (flying { rput0 with sends := 16 } rput200 putPiece).flyOf 0 1 7 = some (0, { rput0 with sends := 16 }) := by
  decide +kernel

/-- An NRED of two contributors at partition 0. -/
def nred0 : NetReq := { rput with op := 8, tag := 9, count := 2, dead := 1024, data := [0, 0, 0x80, 0x3F] }
def instance0 (dead : Nat) : Nred :=
  { root := 0, tag := 9, count := 2, len := 4, wide := false, dead := dead, sum := [0, 0, 0x80, 0x3F], who := [{ nred0 with part := 1 }], ended := false }
def reducing (dead : Nat) : State := served.upPart 0 (fun p => { p with nreds := [instance0 dead] })

theorem hyp_TransportExchanges_nred : nred0.dst < 4 ∧ (served.part 0).nreds.find? (fun g => g.root == 0 && g.tag == 9) = none ∧
    ((reducing 5000).part 0).nreds.find? (fun g => g.root == 0 && g.tag == 9) = some (instance0 5000) ∧ (instance0 5000).ended = false ∧
    (instance0 5000).count = nred0.count ∧ (instance0 5000).len = nred0.len ∧ (instance0 5000).wide = nred0.wide ∧
    (instance0 5000).who.length + 1 = (instance0 5000).count ∧ (instance0 5000).dead ≤ (reducing 5000).cyc := by decide +kernel

/-! ### Boot and attestation (26 R431-R439) -/

/-- Jostauth in a state. -/
def josted (f : JostSt → JostSt) : State := { State.reset with jost := f JostSt.reset }

/-- An image of 0x1000 bytes: VERSION 3, FLOOR 2, one stage of 8 bytes at 0xA0 for address 0x1000, an empty platform record. -/
def image1 : List Byte :=
  [0x41, 0x54, 0x53, 0x4A, 3, 0, 0, 0, 2, 0, 0, 0, 1, 0, 0, 0, 0xA0, 0, 0, 0, 0, 0, 0, 0, 8, 0, 0, 0, 0, 0, 0, 0, 0, 0x10, 0, 0, 0, 0, 0, 0,
   4, 0, 0, 0, 0, 0, 0, 0] ++ zeros 0xFD0

theorem hyp_Boot_arrival : (josted (fun j => { j with booted := true })).jost.booted = true ∧ (josted id).jost.booted = false ∧
    (josted id).jost.listen = false ∧ (josted (fun j => { j with listen := true })).jost.listen = true ∧
    (josted id).jost.check = none ∧ (josted (fun j => { j with check := some (image1, 1) })).jost.check ≠ none ∧
    (josted (fun j => { j with check := some (image1, 1) })).jost.later = none := by decide +kernel

/-- A bad magic is cause 1, a VERSION below VFLOOR cause 2, a short image cause 7. -/
theorem hyp_Boot_refused : JostSt.reset.imageCause (0 :: image1.drop 1) = 1 ∧ ({ JostSt.reset with vfloor := 4 } : JostSt).imageCause image1 = 2 ∧
    JostSt.reset.imageCause (image1.take 0x9F) = 7 := by decide +kernel

/-- What an image must satisfy to pass. -/
theorem imageCause_zero (j : JostSt) (img : List Byte) (st : Stage) (h : img.length = 0x1000 ∧ imgN img 0 4 = 0x4A535441 ∧
    imgN img 4 4 = 3 ∧ imgN img 8 4 = 2 ∧ imgN img 0xC 4 = 1 ∧ stagesOf img = [st] ∧ imgN img 0x90 8 + imgN img 0x98 8 = 0 ∧
    j.vfloor.toNat = 0 ∧ st.off + st.len = 0xA8) (s0 : stageSigned img 0 = true)
    (s4 : recordSigned j.prkh img = true) (hp : platOk (Config.platform (recordOf img)) = true)
    (hb : (Config.platform (recordOf img)).fwBase = st.load) (hl : (Config.platform (recordOf img)).fwLen = st.len) : j.imageCause img = 0 := by
  obtain ⟨h1, h2, h3, h4, h5, h6, h7, h8, h9⟩ := h
  unfold JostSt.imageCause
  simp only [h1, h2, h3, h4, h5, h6, h7, h8, h9, s4, hp, hb, hl, List.any_cons, List.any_nil, List.length_cons, List.length_nil, span]
  simp [s0]

/-- Whatever the free values of log 10 are: where they pass the signatures and a platform record in range, the image passes. -/
theorem hyp_Boot_passes (h0 : stageSigned image1 0 = true) (h4 : recordSigned JostSt.reset.prkh image1 = true)
    (hp : platOk (Config.platform (recordOf image1)) = true) (hb : (Config.platform (recordOf image1)).fwBase = 0x1000)
    (hl : (Config.platform (recordOf image1)).fwLen = 8) : JostSt.reset.imageCause image1 = 0 :=
  imageCause_zero _ _ { off := 0xA0, len := 8, load := 0x1000, ent := 4 } (by decide +kernel) h0 h4 hp hb hl

theorem hyp_Boot_starts : (State.reset.t (Config.sysBase + 2 * 3 + 1)).halted = true ∧ (State.reset.t (Config.sysBase + 2 * 3 + 1)).lastIss = 0 ∧
    (sysOn.t Config.sysBase).halted = false ∧
    ((with_ sysOn (fun t => { t with halted := true, lastIss := 7 })).t Config.sysBase).lastIss ≠ 0 := by decide +kernel

theorem hyp_Boot_attestation : (josted id).jost.attq = [] ∧ (josted (fun j => { j with attq := [(true, 5), (false, 6)] })).jost.attq ≠ [] ∧
    ({ josted id with sagTo := some 10, cyc := 75 } : State).sagTo = some 10 ∧ 10 + 64 < ({ josted id with sagTo := some 10, cyc := 75 } : State).cyc ∧
    ({ josted id with sagTo := some 10, cyc := 74 } : State).cyc ≤ 10 + 64 := by decide +kernel

/-! ### Errors (24) -/

/-- Die 0 with a record ring of 2 entries at 0x8000 whose HEAD is 0. -/
def ringed (tail : Nat) : State :=
  { placed with dies := [(0, { DieSt.reset with state := 0, milv := 0x11, mcq := 0x8001, mctail := BitVec.ofNat 64 tail })] }
def err0 : ErrorFound := { src := 0, fix := true, level := 0, cluster := 0, core := 0, cid := 0, pa := 0x300080, index := 0, way := 0, finder := none }
def bad0 : ErrorFound := { err0 with fix := false }
def bad1 : ErrorFound := { bad0 with src := 1, level := 1 }
/-- Sector 2 of the line of 0x300080 is valid in L2, dirty if `d`; the line is held, or not. -/
def lineIn (d : BitVec 4) (l : List HeldLine) : State :=
  (ringed 0).upSlice 0 (fun x => { x with l2 := [(lineKey 0x300080, { valid := 15, dirty := d, data := 0xABCDEF, tag := 3 })], lost := l })
def heldAt (level : Nat) : HeldLine :=
  { line := lineKey 0x300080, recno := 0, level := level, way := 0, l2 := if level = 1 then 4 else 0, msc := if level = 2 then 4 else 0
    mem := if level = 3 then 4 else 0 }

theorem hyp_ErrorsReported_ring : err0.fix = true ∧ Claims.ringOpen (ringed 1) 0 ∧ Claims.ringFull (ringed 2) 0 :=
  ⟨rfl, by unfold Claims.ringOpen Claims.ringTakes Claims.ringFull; decide +kernel, by unfold Claims.ringFull; decide +kernel⟩

/-- A corrected error of L2, within CETHR and past it, in a full ring; its line is not held. -/
def err1 : ErrorFound := { err0 with src := 1 }
def fixing (n : Nat) : State := { ringed 2 with jost := { JostSt.reset with cethr := n } }
theorem hyp_ErrorsReported_fixed : errEntry err1 = some (1, l2SetOf (lineKey 0x300080), 0) ∧ errEntry err0 = none ∧
    (∀ x, (fixing 1).fixesOf 0 x + 1 ≤ (fixing 1).jost.cethr ∧ (fixing 0).jost.cethr < (fixing 0).fixesOf 0 x + 1) ∧
    (fixing 0).lostAt err1.cluster (lineKey err1.pa) = none ∧ (((fixing 0).slice 0).l2.map Prod.fst).Pairwise (· < ·) :=
  ⟨rfl, rfl, fun _ => ⟨Nat.le_refl 1, Nat.zero_lt_one⟩, by decide +kernel, by decide +kernel⟩

theorem hyp_ErrorsReported_bank : (ringed 1).ccs = [(0, (ringed 1).cc 0)] ∧ ccCore 0 / 8 = bad0.cluster ∧
    ((ringed 1).cc 0).slot 0 = .attached bank0 ∧ bank0.phys = some bad0.index ∧ bad0.fix = false ∧ bad0.src = 0 ∧ bad0.level ≠ 2 := by decide +kernel

/-- Slot 0's bank lies in its backing area. -/
theorem hyp_ErrorsReported_backing : let s := (ringed 1).upCC 0 (fun c => { c with slots := vset c.slots 0 (.attached { bank0 with phys := none }) })
    let e : ErrorFound := { bad0 with level := 2, pa := 0x80 }
    (s.cc (e.cid * 2048 + e.cluster * 8 + e.core % 8)).slot (e.pa / 65536 % 8) = .attached { bank0 with phys := none } ∧ Claims.ringOpen s 0 := by
  unfold Claims.ringOpen Claims.ringTakes Claims.ringFull
  decide +kernel

theorem hyp_ErrorsReported_line : bad1.level = 1 ∧ (0x300080 : Nat) % 192 / 48 = 2 ∧ (∀ h ∈ ((lineIn 4 []).slice 0).lost, h.line ≠ lineKey 0x300080) ∧
    (mfind ((lineIn 4 []).slice 0).l2 (lineKey 0x300080)).map (fun l => (l.valid.getLsbD 2, l.dirty)) = some (true, 4) ∧
    (mfind ((lineIn 0 []).slice 0).l2 (lineKey 0x300080)).map (fun l => (l.valid.getLsbD 2, l.dirty)) = some (true, 0) ∧
    (let s := (ringed 0).upSlice 0 (fun x => { x with msc := [(lineKey 0x300080, { valid := 15, dirty := 4, data := 0, tag := 3 })] });
      (mfind (s.slice 0).msc (lineKey 0x300080)).map (fun l => (l.valid.getLsbD 2, l.dirty)) = some (true, 4)) ∧
    mfind ((ringed 0).slice 0).l2 (lineKey 0x300080) = none ∧ mfind ((ringed 0).slice 0).msc (lineKey 0x300080) = none ∧
    ((lineIn 4 [heldAt 1]).slice 0).lost.find? (fun x => x.line == lineKey bad1.pa) = some (heldAt 1) := by decide +kernel

theorem hyp_ErrorsReported_parity : ((ringed 0).core 0).act = some 0 ∧ (mfind (ringed 0).ts 0).isSome = true ∧ coreOf 0 = 0 ∧ cidOf 0 = 0 ∧
    (let s := (waiting (ringed 0) (.waitge 3 (rq .waitge 8) true)).upSlice 0 (fun x => { x with wait := [(.ts 0, 0x3000B8, 3)] });
      (s.slice 0).wait[0]? = some (.ts 0, 0x3000B8, 3) ∧ (s.t 0).wait = some (.waitge 3 (rq .waitge 8) true)) := by decide +kernel

/-- The first 8 bytes of the line of 0x300080 are what an addend made of 5. -/
def added : State :=
  (ringed 2).upSlice 0 (fun x => { x with l2 := [(lineKey 0x300080, { valid := 15, dirty := 1, data := 0x7000000000000009, tag := 3 })]
                                          rq := [(lineKey 0x300080, 3)], adds := [(lineKey 0x300080, { mask := 0xFF, was := 5, lanes := [] })] })

theorem hyp_ErrorsReported_addends : (added.slice 0).rq.find? (fun x => x.1 == lineKey 0x300080) = some (lineKey 0x300080, 3) ∧
    mfind (added.slice 0).adds (lineKey 0x300080) = some { mask := 0xFF, was := 5, lanes := [] } ∧ Claims.ringFull added 0 ∧ dieOfRouter 0 = 0 :=
  ⟨by decide +kernel, by decide +kernel, by unfold Claims.ringFull; decide +kernel, by decide +kernel⟩

theorem test_parity_drops_addends : (match exec (.parityError { err0 with src := 6 }) added with
    | .next t => (t.byteAt 0 0x300000, t.byteAt 0 0x300007, (t.slice 0).rq)
    | _ => (0, 0, [])) = (5, 0, []) := by decide +kernel

theorem hyp_ErrorsReported_flush : let r := mkRec base bad0 3 false 0 0 0 false 0 0
    let s (n : Nat) := (ringed n).upDie 0 (fun d => { d with kept := [r, r] })
    ((s 1).die 0).kept ≠ [] ∧ Claims.ringTakes (s 1) 0 ∧ ((s 2).die 0).kept ≠ [] ∧ ¬ Claims.ringTakes (s 2) 0 ∧
    ((ringed 1).die 0).kept = [] := by
  unfold Claims.ringTakes Claims.ringFull
  decide +kernel

theorem hyp_ErrorsReported_check : let t := sysOn.t Config.sysBase
    Claims.Plain sysOn Config.sysBase ∧
    t.inMc = false ∧ t.halted = false ∧ t.mc = [] ∧ t.sent = false ∧ t.wait ≠ some .wfi ∧ t.undo = none ∧
    (State.reset.t Config.sysBase).halted = true ∧ ((waiting sysOn .wfi).t Config.sysBase).wait = some .wfi :=
  ⟨plain _ _ (by decide +kernel), by decide +kernel⟩

theorem hyp_ErrorsReported_release : (∀ l ∈ [1, 3], let s := lineIn 4 [heldAt l]
      (s.slices.find? (fun x => dieOfRouter x.1 == 0 && x.2.lost.any (fun h => h.recno == 0))).map Prod.fst = some 0 ∧
      (s.slice 0).lost.find? (fun h => h.recno == 0) = some (heldAt l) ∧ (mfind s.slices 0).isSome = true ∧
      ((s.slice 0).lost.map HeldLine.line).Nodup ∧ (s.slice 0).quar.toList.any (heldAt l).slotBy = false ∧
      (s.slice 0).quar.toList.any (heldAt l).wayBy = false) ∧
    (∀ x ∈ (lineIn 4 [heldAt 1]).slices, dieOfRouter x.1 = 0 → ∀ h ∈ x.2.lost, h.recno ≠ 1) ∧ Memory.wf (lineIn 4 [heldAt 1]).mem = true ∧
    (let s := (lineIn 4 [heldAt 3]).upSlice 0 (fun x => { x with l2 := [] });
      mfind (s.slice 0).l2 (lineKey 0x300080) = none ∧ mfind (s.slice 0).msc (lineKey 0x300080) = none) := by decide +kernel

/-- What hardware writes to a held line survives its release; the bytes beside it have the value below (24 R421, log 55). -/
theorem test_heal_survives_release : (match exec (.mcrel 0 0) ((lineIn 4 [heldAt 1]).wrBy (fun _ => 0) 0x300080 0 [7]) with
      | .next t => some (t.byteAt 0 0x300080, t.byteAt 0 0x300081)
      | _ => none) = some (7, 0) := by decide +kernel

/-! ### Counters, single steps, domain stops (23) -/

/-- PMC3 stands at its end, with OVIE = 1 and FZOVF = 1. -/
def ending : State := with_ base (fun t => { t with pmc := vset t.pmc 3 0xFFFFFFFFFFFF, pmsel := vset t.pmsel 3 0x400, pmctl := 2 })
/-- Single steps at privilege 0. -/
def stepped : State := with_ base (fun t => { t with pmctl := 4 })
/-- The stop of channel 5 has settled with position 0 held. -/
def settled : State :=
  (chans 0x1 0 idle).upChan 5 (fun c => { c with stopS := some 9, held := [0], mems := [0], armAt := some 50 })

theorem hyp_CountersAndStops : vget (ending.t 0).pmc 3 0 = 0xFFFFFFFFFFFF ∧ (ending.t 0).pmctl.getLsbD 0 = false ∧ (ending.t 0).pmctl.getLsbD 4 = false ∧
    (ending.t 0).pmctl.getLsbD 1 = true ∧ (vget (ending.t 0).pmsel 3 0).getLsbD 10 = true ∧ vget (base.t 0).pmc 3 0 ≠ 0xFFFFFFFFFFFF := by decide +kernel

theorem hyp_CountersAndStops_step : ∃ d w, Claims.intValue (.add 1 2 3) stepped = some (d, w, 4) ∧ stepped.stepping = true ∧ stepped.me.spec = none ∧
    stepped.me.pmctl.getLsbD 5 = false := ⟨1, _, rfl, by decide +kernel⟩

theorem hyp_CountersAndStops_stop : (settled.chan 5).stopS = some 9 ∧ (settled.chan 5).grant = some (0, 1, 2) ∧ settled.dleft 5 = 0 ∧
    (settled.chan 5).held.Nodup ∧ (∀ p ∈ (settled.chan 5).held, p < 8192 ∧ (settled.t (tkOf 0 p)).pmctl.getLsbD 5 = false ∧
      (settled.t (tkOf 0 p)).pmctl.getLsbD 3 = false) ∧ (base.chan 5).grant = none ∧
    (settled.upChan 5 (fun c => { c with held := [] })).dleft 5 ≠ 0 := by decide +kernel

/-! ### Registers, cycles, steps (21-24; 03 R64-R66; 07 R136, R137) -/

theorem hyp_RegisterWrites : (∀ x ∈ [(0xFF00000000000, PaClass.cluster 0 0), (0xFF00000000008, .cluster 0 8), (0xFF000000FFFF8, .cluster 255 0xFF8),
      (0xFF00000000800, .cluster 0 0x800), (0xFF000000FFFF0, .cluster 255 (0x800 + 0x100 * 7 + 0x10 * 15)),
      (0xFF80000000000, .slice 0 0), (0xFF80000FF01F0, .slice 255 (0x20 * 15 + 16)), (0xFF800000004F8, .slice 0 (0x400 + 8 * 31)),
      (0xFFE0000000100, .die 0 0x100), (0xFFE00000302F8, .die 3 (0x100 + 8 * 63)), (0xFFE0000030028, .die 3 0x28), (0xFFE0000000030, .die 0 0x30),
      (0xFFE0000030040, .die 3 0x40)], x.1 < 2 ^ 52 ∧ State.reset.paClass x.1 = x.2) ∧
    State.reset.jost.check = none ∧ State.reset.jost.booted = false ∧ Memory.wf State.reset.jost.window = true := by decide +kernel

/-- The values that the fields take, and those that they do not, at the ends of their ranges. -/
theorem hyp_RegisterWrites_values : watchOk 0x10000 0x20F = true ∧ watchOk 0x8000 0x20F = false ∧ watchOk 0 0x220 = false ∧ watchOk 0 0x18 = false ∧
    (∀ k, k < 8 → (0x88888888 : Nat) / 2 ^ (4 * k) % 16 ≤ 8) ∧ ¬ ((0x90000000 : Nat) / 2 ^ 28 % 16 ≤ 8) := by decide +kernel

theorem hyp_CycleCounts : (base.ts.map Prod.fst).Pairwise (· < ·) ∧ (∃ u, mfind base.ts 0 = some u ∧ u.pmw = []) ∧ base.onCore 0 = true :=
  ⟨by decide +kernel, ⟨_, rfl, rfl⟩, by decide +kernel⟩

/-- Reset with the word of SUB g3, g4, g5 where the next step fetches. -/
def atSub : State := { State.reset.withFetchWord 32 0x0464A001 with cur := 0 }
/-- The same with ADD g3, g4, literal. -/
def atLit : State := { State.reset.withFetchWord 64 (0x04640400 + 7 * 2 ^ 32) with cur := 0 }
/-- The page is not executable, at privilege 0. -/
def noExec : State := atSub.upCore 0 (fun c => { c with utlb := c.utlb.map (fun e => { e with pte := e.pte &&& ~~~8 }) })

theorem fetch_home : (atSub.site 0 (atSub.t 0).pc .fetch 0) = (.ok 0x100000 0 progPte, atSub) := by decide +kernel

theorem hyp_FetchAndDecodeFaults : isSys atSub.cur = false ∧ atSub.site atSub.cur atSub.me.pc .fetch atSub.me.priv = (.ok 0x100000 0 progPte, atSub) ∧
    atSub.isReg 0x100000 = false ∧ (atSub.core (coreOf atSub.cur)).l1Word 0x100000 = none ∧ atSub.heldLine 0 0x100000 = false ∧
    progPte.getLsbD 8 = false ∧ (0x100000 : Nat) % 192 + 4 ≤ 192 ∧ (∀ i, i < 4 → lineKey (0x100000 + i) = lineKey 0x100000) ∧
    Claims.noSliceWatch atSub 0 := by
  refine ⟨by decide +kernel, fetch_home, by decide +kernel, by decide +kernel, ?_⟩
  exact ⟨by decide +kernel, by decide +kernel, by decide, by decide, (by decide +kernel : ∀ w, w < 16 → (vget (atSub.slice 0).swctl w 0).getLsbD 0 = false)⟩

theorem fetch_sub : (atSub.fetchAt 0 (atSub.t 0).pc).1 = .ok 0x0464A001 := by decide +kernel

theorem hyp_FetchAndDecodeFaults_fault : (noExec.fetchAt 0 (noExec.t 0).pc).1 = .flt 6 ∧ noExec.me.entered = false ∧
    (with_ noExec (fun t => { t with entered := true })).me.entered = true ∧ (noExec.die (noExec.partOf 0)).tbusy = false ∧
    noExec.ending (cidOf noExec.cur) = false := by decide +kernel

theorem hyp_StepRunsDecoded : Claims.mayFetch atSub 0 [] ∧ reads 0x0464A001 0 (.sub 3 4 20) ∧ hasLiteral 0x0464A001 = false := by
  refine ⟨⟨.inl rfl, ?_, ?_, ?_, ?_, ?_, ?_⟩, ?_, ?_⟩ <;> decide +kernel

/-- The literal of ADD. -/
theorem hyp_StepRunsDecoded_literal : Claims.mayFetch atLit 0 [] ∧ reads 0x04640400 0 (.addLit 3 4 0) ∧ hasLiteral 0x04640400 = true ∧
    (atLit.fetchAt 0 (atLit.t 0).pc).1 = .ok 0x04640400 ∧
    ((atLit.fetchAt 0 (atLit.t 0).pc).2.fetchAt 0 ((atLit.fetchAt 0 (atLit.t 0).pc).2.me.pc + 4)).1 = .ok 7 := by
  refine ⟨⟨.inl rfl, ?_, ?_, ?_, ?_, ?_, ?_⟩, ?_, ?_, ?_, ?_⟩ <;> decide +kernel

theorem hyp_StepRunsDecoded_free : Claims.free atSub (.sub 3 4 20) ∧
    (with_ atSub (fun t => { t with busy := [{ cls := 0, r := 4, due := none }] })).stalls (.sub 3 4 20) = true ∧
    refuses 0 0 .illegalMajor = true ∧ Claims.mayFetch noExec 0 [] := by
  refine ⟨⟨?_, ?_⟩, ?_, ?_, ⟨.inl rfl, ?_, ?_, ?_, ?_, ?_, ?_⟩⟩ <;> decide +kernel

/-- A choice that a step takes: a clock, an input, a delivery. -/
theorem hyp_StepRunsDecoded_choices : (Claims.opens State.reset []).cycleOver = true ∧ (Claims.opens State.reset []).canAct .imggo = true ∧
    (let s := { State.reset with pend := [⟨0, .quotaWindowStart⟩] }; (Claims.opens s []).deliverable 0 = true ∧
      (Claims.opens s []).arrives (s.pend.take 0) .quotaWindowStart = false) := by decide +kernel

/-- A store arrives at a line that is held. -/
theorem hyp_StepRunsDecoded_arrives : (Claims.opens (ended true) []).deliverable 0 = true ∧
    (ended true).pend[0]?.map Pend.ev = some (.homeStoreApply (rq .store 8)) ∧
    (Claims.opens (ended true) []).arrives ((ended true).pend.take 0) (.homeStoreApply (rq .store 8)) = true := by decide +kernel

/-- What a thread set reads of one outcome. -/
noncomputable def g3After (o : Host.Outcome State Fault Refusal) (tk : Nat) : Option (Word × Word) :=
  match o with
  | .next t => some ((t.t tk).a.gp 0 3, (t.t tk).pc)
  | _ => none

/-- One step from the state that `withFetchWord` makes: SUB g3, g4, g20 with zeros, and ADD g3, g4, 7 (05 R88, R106). -/
theorem test_step_sub : g3After (step atSub) 0 = some (0, 0x100004) := by decide +kernel
theorem test_step_lit : g3After (step atLit) 0 = some (7, 0x100008) := by decide +kernel

theorem no_ccs : atSub.ccs = [] := by decide +kernel

theorem hyp_StepKeepsCanonicalMemory : Claims.Canonical atSub :=
  ⟨by decide +kernel, fun x hx => absurd hx (by rw [no_ccs]; exact List.not_mem_nil), by decide +kernel⟩

theorem hyp_DecodeEncodeAgree : (Instr.bfpenc 31 31 1 1).wf = true ∧ (Instr.bfpenc 31 31 1 1).encoded = true ∧
    reads 0xFFFFFFFF 0 .tdone = false := by decide +kernel

theorem hyp_SystemCoreSubset : isSys sysOn.cur = true ∧ Claims.notOnSystem .tdone = true ∧ Claims.notOnSystem (.vscatL 1 2 3 0 0) = true := by
  decide +kernel

end Sys2Proof.Tests
end

section
/-! # Every step keeps the byte stores canonical: the rules

`Canonical` speaks of four parts of the machine: memory, the banks in the tables of the cores and contexts, the bank images and the image
window. One lemma for each function of the model that gives a state says that it keeps them, and is stated for any machine that has
them, so that the proof for a chain of updates is the chain of the lemmas: `h.upT.push` for `(s.upT ..).push ..`.

The proofs are elaborated one after another: some hundred small ones at a time take more threads than the check has memory for. -/

set_option Elab.async false

namespace Sys2Proof.Claims

open Sys2Proof.Machine

/-- The byte stores of the machine, which alone decide whether it is canonical. -/
abbrev stores (s : State) : List Host.Cell × AMap CC × List BankImage × List Host.Cell := (s.mem, s.ccs, s.images, s.jost.window)

/-- An outcome that leaves the machine with canonical byte stores, if it leaves a machine. -/
def CanonicalOut : Out → Prop
  | .next t => Canonical t
  | _ => True

/-- Every bank of a core's table is in canonical form. -/
def CanonicalCC (c : CC) : Prop := ∀ n b, (c.slot n).bank? = some b → Memory.wf b.data = true

section
variable {s t : State}

/-- A change of the machine beside its byte stores. -/
theorem Canonical.same (h : Canonical s) (e : stores t = stores s := by rfl) : Canonical t := by
  obtain ⟨hm, hc, hi, hw⟩ := h
  simp only [stores, Prod.mk.injEq] at e
  obtain ⟨em, ec, ei, ew⟩ := e
  exact ⟨em ▸ hm, ec ▸ hc, ei ▸ hi, ew ▸ hw⟩

/-- The machine that a function gives beside a result. -/
theorem Canonical.snd {α : Type} {p : α × State} {a : α} (h : Canonical p.2) (e : p = (a, t)) : Canonical t := by
  rw [e] at h; exact h

/-- The machine that a function gives beside two results. -/
theorem Canonical.snd2 {α β : Type} {p : α × β × State} {a : α} {b : β} (h : Canonical p.2.2) (e : p = (a, b, t)) : Canonical t := by
  rw [e] at h; exact h

/-- A fold whose step is known for the members of the list alone. -/
theorem Canonical.foldlMem {α : Type} {f : State → α → State} {l : List α} (h : Canonical s)
    (hf : ∀ s, ∀ x ∈ l, Canonical s → Canonical (f s x)) : Canonical (l.foldl f s) := by
  induction l generalizing s with
  | nil => exact h
  | cons x l ih => exact ih (hf s x List.mem_cons_self h) fun s y hy => hf s y (List.mem_cons_of_mem _ hy)

theorem Canonical.foldl {α : Type} {f : State → α → State} {l : List α} (h : Canonical s) (hf : ∀ s x, Canonical s → Canonical (f s x)) :
    Canonical (l.foldl f s) :=
  h.foldlMem fun s x _ => hf s x

/-- What a map holds after an insertion: what it held, and the new entry. -/
theorem mem_mset {α : Type} {m : AMap α} {k : Nat} {v : α} {x : Nat × α} (hx : x ∈ mset m k v) : x ∈ m ∨ x = (k, v) := by
  induction m with
  | nil => simpa [mset] using hx
  | cons p m ih =>
    obtain ⟨k', v'⟩ := p
    unfold mset at hx
    split at hx
    · simpa [or_comm] using hx
    · split at hx
      · rcases List.mem_cons.1 hx with rfl | hx
        · exact .inr rfl
        · exact .inl (List.mem_cons_of_mem _ hx)
      · rcases List.mem_cons.1 hx with rfl | hx
        · exact .inl List.mem_cons_self
        · exact (ih hx).imp_left (List.mem_cons_of_mem _)

/-- What a map gives: the default, or an entry of it. -/
theorem mget_eq_or {α : Type} (m : AMap α) (k : Nat) (d : α) : mget m k d = d ∨ ∃ x ∈ m, mget m k d = x.2 := by
  induction m with
  | nil => exact .inl rfl
  | cons p m ih =>
    obtain ⟨k', v'⟩ := p
    unfold mget
    split
    · exact .inr ⟨_, List.mem_cons_self, rfl⟩
    · split
      · exact .inl rfl
      · exact ih.imp_right fun ⟨x, hx, e⟩ => ⟨x, List.mem_cons_of_mem _ hx, e⟩

theorem vget_vset {α : Type} {n : Nat} (v : Vector α n) (i j : Nat) (x d : α) :
    vget (vset v i x) j d = if i = j ∧ j < n then x else vget v j d := by
  unfold vget vset
  by_cases hj : j < n <;> by_cases hi : i < n <;> simp [hi, hj, Vector.getElem_set]
  rintro rfl
  exact absurd hj hi

theorem CanonicalCC.reset : CanonicalCC CC.reset := by
  intro n b h
  have : (CC.reset.slot n) = .empty := by
    unfold CC.slot vget CC.reset; split <;> simp
  simp [this, Slot.bank?] at h

/-- The table of every core and context, one never used too. -/
theorem Canonical.cc (h : Canonical s) (k : Nat) : CanonicalCC (s.cc k) := by
  obtain ⟨_, hc, _⟩ := h
  unfold State.cc
  rcases mget_eq_or s.ccs k CC.reset with e | ⟨x, hx, e⟩
  · rw [e]; exact CanonicalCC.reset
  · rw [e]; exact hc x hx

theorem Canonical.upCC {k : Nat} {f : CC → CC} (h : Canonical s) (hf : ∀ c, CanonicalCC c → CanonicalCC (f c)) :
    Canonical (s.upCC k f) := by
  have hk := hf _ (h.cc k)
  obtain ⟨hm, hc, hi, hw⟩ := h
  refine ⟨hm, fun x hx => ?_, hi, hw⟩
  rcases mem_mset hx with hx | rfl
  · exact hc x hx
  · exact hk

/-- A change that leaves the slots of the table. -/
theorem Canonical.upCCRest {k : Nat} {f : CC → CC} (h : Canonical s) (e : ∀ c, (f c).slots = c.slots := by intro; rfl) :
    Canonical (s.upCC k f) :=
  h.upCC fun c hc n b hb => hc n b (by rw [← hb, CC.slot, CC.slot, e])

/-- The bank of a slot, where it has one, is in canonical form. -/
def CanonicalSlot (x : Slot) : Prop := ∀ b, x.bank? = some b → Memory.wf b.data = true

theorem CanonicalSlot.empty : CanonicalSlot .empty := nofun
theorem CanonicalSlot.reserved : CanonicalSlot .reserved := nofun

theorem CanonicalSlot.attached {b : Bank} (h : Memory.wf b.data = true) : CanonicalSlot (.attached b) := by
  intro b' e; cases e; exact h

theorem CanonicalSlot.outgoing {b : Bank} (h : Memory.wf b.data = true) : CanonicalSlot (.outgoing b) := by
  intro b' e; cases e; exact h

/-- A change of a bank beside its bytes. -/
theorem CanonicalSlot.map {x : Slot} {f : Bank → Bank} (h : CanonicalSlot x) (e : ∀ b, (f b).data = b.data := by intro; rfl) :
    CanonicalSlot (x.map f) := by
  cases x with
  | empty => exact CanonicalSlot.empty
  | reserved => exact CanonicalSlot.reserved
  | attached b => exact .attached ((e b).symm ▸ h b rfl)
  | outgoing b => exact .outgoing ((e b).symm ▸ h b rfl)

/-- A slot changes to one whose bank is canonical. -/
theorem CanonicalCC.setSlot {c : CC} {i : Nat} {x : Slot} (h : CanonicalCC c) (hx : CanonicalSlot x) :
    CanonicalCC { c with slots := vset c.slots i x } := by
  intro n b hb
  simp only [CC.slot, vget_vset] at hb
  split at hb
  · exact hx b hb
  · exact h n b hb

theorem Canonical.ite {c : Prop} [Decidable c] {a b : State} (ha : Canonical a) (hb : Canonical b) : Canonical (if c then a else b) := by
  split
  · exact ha
  · exact hb

theorem CanonicalOut.ite {c : Prop} [Decidable c] {a b : Out} (ha : CanonicalOut a) (hb : CanonicalOut b) :
    CanonicalOut (if c then a else b) := by
  split
  · exact ha
  · exact hb

theorem CanonicalCC.foldl {α : Type} {f : CC → α → CC} {l : List α} {c : CC} (h : CanonicalCC c)
    (hf : ∀ c x, CanonicalCC c → CanonicalCC (f c x)) : CanonicalCC (l.foldl f c) := by
  induction l generalizing c with
  | nil => exact h
  | cons x l ih => exact ih (hf c x h)

theorem CanonicalCC.locWrite {c : CC} {a : Nat} {on : Nat → Bool} {bs : List Byte} (h : CanonicalCC c) :
    CanonicalCC (c.locWrite a on bs) :=
  locWrite_banks c a on bs h

theorem Canonical.mapCcs {f : Nat × CC → Nat × CC} (h : Canonical s) (hf : ∀ x, CanonicalCC x.2 → CanonicalCC (f x).2) :
    Canonical { s with ccs := s.ccs.map f } := by
  obtain ⟨hm, hc, hi, hw⟩ := h
  refine ⟨hm, fun x hx => ?_, hi, hw⟩
  obtain ⟨y, hy, rfl⟩ := List.mem_map.1 hx
  exact hf y (hc y hy)

/-- A result beside a machine. Said by name, so that no proof unfolds the functions on the way to that machine. -/
theorem Canonical.pair {α : Type} {a : α} (h : Canonical s) : Canonical (a, s).2 := h

/-- A choice between two results, each with its machine. -/
theorem Canonical.iteSnd {α : Type} {c : Prop} [Decidable c] {a b : α × State} (ha : Canonical a.2) (hb : Canonical b.2) :
    Canonical (if c then a else b).2 := by
  split
  · exact ha
  · exact hb

/-- A fold that may stop keeps the byte stores canonical where it does not stop. -/
theorem Canonical.foldlM {α : Type} {f : State → α → Option State} {l : List α} (h : Canonical s) (e : l.foldlM f s = some t)
    (hf : ∀ s x t, Canonical s → f s x = some t → Canonical t) : Canonical t := by
  induction l generalizing s with
  | nil => cases e; exact h
  | cons x l ih =>
    rw [List.foldlM_cons] at e
    obtain ⟨u, hu, e⟩ := Option.bind_eq_some_iff.1 e
    exact ih (hf s x u h hu) e

/-! ### Updates of parts that hold no bytes -/

theorem Canonical.setT {k : Nat} {u : TSet} (h : Canonical s) : Canonical (s.setT k u) := h.same
theorem Canonical.upT {k : Nat} {f : TSet → TSet} (h : Canonical s) : Canonical (s.upT k f) := h.same
theorem Canonical.upCore {k : Nat} {f : CoreSt → CoreSt} (h : Canonical s) : Canonical (s.upCore k f) := h.same
theorem Canonical.upCl {k : Nat} {f : ClusterSt → ClusterSt} (h : Canonical s) : Canonical (s.upCl k f) := h.same
theorem Canonical.upSlice {k : Nat} {f : SliceSt → SliceSt} (h : Canonical s) : Canonical (s.upSlice k f) := h.same
theorem Canonical.upChan {k : Nat} {f : ChanSt → ChanSt} (h : Canonical s) : Canonical (s.upChan k f) := h.same
theorem Canonical.upDie {k : Nat} {f : DieSt → DieSt} (h : Canonical s) : Canonical (s.upDie k f) := h.same
theorem Canonical.upPart {k : Nat} {f : PartSt → PartSt} (h : Canonical s) : Canonical (s.upPart k f) := h.same
theorem Canonical.upCtx {k : Nat} {f : Ctx → Ctx} (h : Canonical s) : Canonical (s.upCtx k f) := h.same
theorem Canonical.upMe {f : TSet → TSet} (h : Canonical s) : Canonical (s.upMe f) := h.same
theorem Canonical.upA {f : Arch → Arch} (h : Canonical s) : Canonical (s.upA f) := h.same
theorem Canonical.evt {tk code : Nat} (h : Canonical s) : Canonical (s.evt tk code) := h.same
theorem Canonical.pushAt {due : Nat} {e : Ev} (h : Canonical s) : Canonical (s.pushAt due e) := h.same
theorem Canonical.push {e : Ev} (h : Canonical s) : Canonical (s.push e) := h.same
theorem Canonical.dropPend {p : Ev → Bool} (h : Canonical s) : Canonical (s.dropPend p) := h.same

theorem Canonical.setCtxs {v : AMap Ctx} (h : Canonical s) : Canonical { s with ctxs := v } := h.same
theorem Canonical.setClusters {v : AMap ClusterSt} (h : Canonical s) : Canonical { s with clusters := v } := h.same
theorem Canonical.setSlices {v : AMap SliceSt} (h : Canonical s) : Canonical { s with slices := v } := h.same

/-- Memory changes to one in canonical form. -/
theorem Canonical.setMem {m : List Host.Cell} (h : Canonical s) (hm : Memory.wf m = true) : Canonical { s with mem := m } := by
  obtain ⟨_, hc, hi, hw⟩ := h
  exact ⟨hm, hc, hi, hw⟩

theorem Canonical.window (h : Canonical s) : Memory.wf s.jost.window = true := h.2.2.2

/-- Jostauth changes to a state whose image window is in canonical form. -/
theorem Canonical.setJost {j : JostSt} (h : Canonical s) (hj : Memory.wf j.window = true) : Canonical { s with jost := j } := by
  obtain ⟨hm, hc, hi, _⟩ := h
  exact ⟨hm, hc, hi, hj⟩

/-- LPDDR6 takes line data. -/
theorem Canonical.writeBack {key : Nat} {d : BitVec 1536} {k : BitVec 4} (h : Canonical s) :
    Canonical { s with mem := writeBack s.mem key d k } := h.setMem (writeBack_wf _ _ _ _ h.1)

/-- A write that may fault, and changes nothing then. -/
theorem Canonical.getD {o : Option State} (h : Canonical s) (ho : ∀ t, o = some t → Canonical t) : Canonical (o.getD s) := by
  cases o with
  | none => exact h
  | some t => exact ho t rfl

/-- A change of a table beside its slots. -/
theorem CanonicalCC.same {c d : CC} (h : CanonicalCC c) (e : d.slots = c.slots := by rfl) : CanonicalCC d :=
  fun n b hb => h n b (by rw [← hb, CC.slot, CC.slot, e])

theorem CanonicalCC.retag {c : CC} {x : Bool} (h : CanonicalCC c) : CanonicalCC (c.retag x) := by
  intro n
  have e : (c.retag x).slot n = (c.slot n).map fun b => { b with nxm := x } := by
    unfold CC.retag CC.slot vget
    by_cases hn : n < 8
    · simp [hn]
    · simp [hn, Slot.map]
  rw [e]
  exact CanonicalSlot.map (h n)

end
end Sys2Proof.Claims
end

section
/-! # Every step keeps the byte stores canonical: the memories, the engines, the barriers and the streams -/

set_option Elab.async false

namespace Sys2Proof.Claims

open Sys2Proof.Machine

section
variable {s t : State}

/-! ### State -/

theorem Canonical.reset : Canonical State.reset :=
  ⟨rfl, fun _ hx => absurd hx List.not_mem_nil, fun _ hx => absurd hx List.not_mem_nil, rfl⟩

/-! ### Store -/

theorem Canonical.fillLine {home key : Nat} {k : BitVec 4} (h : Canonical s) : Canonical (s.fillLine home key k) := by
  unfold State.fillLine
  refine .ite h ?_
  split
  exact h.upSlice

theorem Canonical.heal {home key : Nat} {k : BitVec 4} (h : Canonical s) : Canonical (s.heal home key k) := by
  unfold State.heal
  split
  · exact h
  · exact h.writeBack.upSlice

theorem Canonical.homeRead {home pa n : Nat} (h : Canonical s) : Canonical (s.homeRead home pa n).2 := h.fillLine

theorem Canonical.homeWrite {home pa : Nat} {on : List Bool} {bs : List Byte} {w : Nat} (h : Canonical s) :
    Canonical (s.homeWrite home pa on bs w) :=
  h.fillLine.upSlice

theorem Canonical.evictL2 {home key : Nat} (h : Canonical s) : Canonical (s.evictL2 home key) := by
  unfold State.evictL2
  split
  · exact h
  · exact .ite h.upSlice (.ite h.upSlice.writeBack h.upSlice.upSlice)

theorem Canonical.evictMsc {home key : Nat} (h : Canonical s) : Canonical (s.evictMsc home key) := by
  unfold State.evictMsc
  split
  · exact h
  · exact h.upSlice.writeBack

theorem Canonical.trimSet {home key : Nat} (h : Canonical s) : Canonical (s.trimSet home key) := by
  unfold State.trimSet
  refine .ite h ?_
  split
  · exact h.same.evictL2
  · exact h

theorem Canonical.trimSlot {home key : Nat} (h : Canonical s) : Canonical (s.trimSlot home key) := by
  unfold State.trimSlot
  split
  · exact .ite h h.evictMsc
  · exact h

theorem Canonical.trimSlice {home : Nat} (h : Canonical s) : Canonical (s.trimSlice home) :=
  .ite (.ite h (h.foldl (fun _ _ h1 => h1.trimSet)))
    (Canonical.foldl (.ite h (h.foldl (fun _ _ h1 => h1.trimSet))) (fun _ _ h1 => h1.trimSlot))

theorem Canonical.flushSlice {home : Nat} (h : Canonical s) : Canonical (s.flushSlice home) :=
  (h.foldl (fun _ _ h1 => h1.evictL2)).foldl fun _ _ h1 => h1.evictMsc

theorem Canonical.repRead {d home pa n : Nat} (h : Canonical s) : Canonical (s.repRead d home pa n).2 := h.same

theorem Canonical.collapse {key : Nat} (h : Canonical s) : Canonical (s.collapse key) := h.same

theorem Canonical.learn {p cid : Nat} (h : Canonical s) : Canonical (s.learn p cid) := .ite h h.upCtx

theorem Canonical.postIrq {tk : Nat} {lines : BitVec 8} (h : Canonical s) : Canonical (s.postIrq tk lines) := by
  unfold State.postIrq
  split
  · exact h.upT
  · split
    · exact h
    · exact .ite h h.collapse.heal.homeWrite

theorem Canonical.swNote {home pa n : Nat} {wr : Bool} {cls clus : Nat} (h : Canonical s) : Canonical (s.swNote home pa n wr cls clus) :=
  h.foldl (fun _ _ h1 => .ite (.ite h1.upSlice (.ite h1.upSlice.learn.postIrq h1.upSlice.learn)) h1)

theorem Canonical.hwNote {home pa n : Nat} {wr : Bool} (h : Canonical s) : Canonical (s.hwNote home pa n wr) := .ite h.same h.swNote

theorem Canonical.noteN {g : Nat → Nat} {pa n f : Nat} {wr : Bool} (h : Canonical s) : Canonical (s.noteN g pa n wr f) := by
  induction f generalizing s pa n with
  | zero => exact h
  | succ f ih => exact .ite h (ih h.hwNote)

theorem Canonical.wrN {g : Nat → Nat} {pa w f : Nat} {bs : List Byte} (h : Canonical s) : Canonical (s.wrN g pa w bs f) := by
  induction f generalizing s pa bs with
  | zero => exact h
  | succ f ih =>
    cases bs with
    | nil => exact h
    | cons b bs => exact ih h.hwNote.collapse.heal.homeWrite

theorem Canonical.wrBy {x1 : Nat → Nat} {pa w : Nat} {bs : List Byte} (h : Canonical s) : Canonical (s.wrBy x1 pa w bs) := h.wrN

theorem Canonical.wr00 {p pa w : Nat} {bs : List Byte} (h : Canonical s) : Canonical (s.wr00 p pa w bs) := h.wrBy

theorem Canonical.wrWord {p pa w : Nat} {v : Word} (h : Canonical s) : Canonical (s.wrWord p pa w v) := h.wr00

/-! ### Tcb -/

theorem Canonical.putTcb {p pa : Nat} {r : TcbRec} (h : Canonical s) : Canonical (s.putTcb p pa r) := h.wrBy.upPart

theorem Canonical.getTcb {p pa : Nat} (h : Canonical s) : Canonical (s.getTcb p pa).2 := by
  unfold State.getTcb
  split
  · exact h
  · exact h.noteN.upPart

/-! ### Walk -/

theorem Canonical.markAD {p ea cid : Nat} {e : Word} {k : AccessKind} (h : Canonical s) : Canonical (s.markAD p ea cid e k) :=
  .ite h h.wrWord

theorem Canonical.walkAt {hw : Bool} {p cid : Nat} {va : Word} {k : AccessKind} {priv a lvl f : Nat} (h : Canonical s) :
    Canonical (s.walkAt hw p cid va k priv a lvl f).2.2 := by
  induction f generalizing s a lvl with
  | zero => exact h
  | succ f ih =>
    unfold State.walkAt
    extract_lets _ _ _ s1 _ s2
    have h1 : Canonical s1 := h.hwNote
    have h2 : Canonical s2 := h1.markAD
    split
    · exact h
    · split
      · exact h
      · split
        · exact h1
        · split
          · split
            · exact h1
            · exact ih h1
          · split
            · exact h1
            · split
              · exact h2
              · exact h1

theorem Canonical.walkBy {hw : Bool} {cid : Nat} {va : Word} {k : AccessKind} {priv : Nat} (h : Canonical s) :
    Canonical (s.walkBy hw cid va k priv).2.2 := by
  unfold State.walkBy
  extract_lets
  split
  · exact h
  · exact h.walkAt

theorem Canonical.walk {cid : Nat} {va : Word} {k : AccessKind} {priv : Nat} (h : Canonical s) : Canonical (s.walk cid va k priv).2.2 :=
  h.walkBy

theorem Canonical.notePtr {cl : Nat} {x : PtrE} (h : Canonical s) : Canonical (s.notePtr cl x) := h.upCl

theorem Canonical.notePtrs {cid cl : Nat} {va : Word} {big : Bool} (h : Canonical s) : Canonical (s.notePtrs cid cl va big) := by
  unfold State.notePtrs
  extract_lets _ _ _ s1
  have h1 : Canonical s1 := h.notePtr
  split
  · exact h.notePtr
  · exact .ite h1 h1.notePtr

theorem Canonical.walkCl {cl cid : Nat} {va : Word} {k : AccessKind} {priv : Nat} (h : Canonical s) :
    Canonical (s.walkCl cl cid va k priv).2.2 := by
  unfold State.walkCl
  extract_lets
  split
  · exact h
  · split
    · exact h.walkAt
    · exact h.walkAt
    · exact h.walk

theorem Canonical.walkFill {cl cid : Nat} {va : Word} {k : AccessKind} {priv : Nat} (h : Canonical s) :
    Canonical (s.walkFill cl cid va k priv).2.2 := by
  unfold State.walkFill
  split
  · rename_i s1 e1
    have h1 : Canonical s1 := h.walkCl.snd2 e1
    exact h1.notePtrs.upCl
  · exact h.walkCl

theorem Canonical.xlat {tk : Nat} {va : Word} {k : AccessKind} {priv : Nat} (h : Canonical s) : Canonical (s.xlat tk va k priv).2 := by
  unfold State.xlat
  extract_lets _ _ _ _ _ s1
  have h1 : Canonical s1 := h.evt
  split
  · exact h
  · split
    · exact h
    · split
      · exact h1.upCore
      · split
        · rename_i s2 e1
          have h2 : Canonical s2 := h1.evt.walkFill.snd2 e1
          exact h2.upCore
        · rename_i s2 _ e1
          exact h1.evt.walkFill.snd2 e1

theorem Canonical.xlatHw {cid d : Nat} {va : Word} {k : AccessKind} {priv : Nat} (h : Canonical s) :
    Canonical (s.xlatHw cid d va k priv).2 := by
  unfold State.xlatHw
  split
  · rename_i s1 e1
    have h1 : Canonical s1 := h.walkBy.snd2 e1
    split <;> exact h1
  · rename_i s1 _ e1
    exact h.walkBy.snd2 e1

theorem Canonical.dropTlb {cl : Nat} {p : TlbE → Bool} {q : PtrE → Bool} (h : Canonical s) : Canonical (s.dropTlb cl p q) := by
  unfold State.dropTlb
  refine h.upCl.foldl fun s1 x1 h1 => ?_
  split
  · exact h1
  · exact h1.upCore

theorem Canonical.hwRead {cid d : Nat} {va : Word} {n : Nat} (h : Canonical s) : Canonical (s.hwRead cid d va n).2 := by
  unfold State.hwRead
  split
  · rename_i s1 e1
    have h1 : Canonical s1 := h.xlatHw.snd e1
    exact h1.hwNote
  · rename_i s1 e1
    exact h.xlatHw.snd e1

theorem Canonical.hwWrite {cid d : Nat} {va : Word} {bs : List Byte} (h : Canonical s) (e : s.hwWrite cid d va bs = some t) :
    Canonical t := by
  unfold State.hwWrite at e
  split at e
  · rename_i s1 e1
    have h1 : Canonical s1 := h.xlatHw.snd e1
    cases e
    exact h1.hwNote.collapse.heal.homeWrite
  · cases e

/-! ### Ops -/

theorem Canonical.setG {r : Reg} {w : Word} (h : Canonical s) : Canonical (s.setG r w) := h.upMe

theorem Canonical.abortSpec {tk : Nat} (h : Canonical s) : Canonical (s.abortSpec tk) := by
  unfold State.abortSpec
  split
  · exact h
  · exact h.same.upCore.upT

theorem Canonical.sendRes {core : Nat} {p : Res → Bool} (h : Canonical s) : Canonical (s.sendRes core p) := by
  unfold State.sendRes
  refine h.foldl fun s1 x1 h1 => ?_
  split
  · exact h1
  · exact .ite (h1.upCore.upCCRest.push.foldl (fun _ _ h2 => .ite h2.evt h2)) h1

theorem Canonical.sendOwn {tk : Nat} (h : Canonical s) : Canonical (s.sendOwn tk) := h.sendRes

theorem Canonical.wakeWaiters {home pa c : Nat} (h : Canonical s) : Canonical (s.wakeWaiters home pa c) := by
  unfold State.wakeWaiters
  refine h.upSlice.foldl fun s1 x1 h1 => ?_
  split <;> exact h1.push

theorem Canonical.ctrAdd {home pa amt cid : Nat} {sat : Bool} (h : Canonical s) : Canonical (s.ctrAdd home pa amt cid sat).2 := by
  unfold State.ctrAdd
  split
  rename_i s1 e1
  have h1 : Canonical s1 := h.homeRead.snd e1
  extract_lets
  split
  · exact h1.collapse.homeWrite.wakeWaiters
  · split
    · exact h1.collapse.homeWrite.wakeWaiters
    · exact h1

theorem Canonical.trace {tk kind : Nat} {step : BitVec 32} {pc val : Word} (h : Canonical s) :
    Canonical (s.trace tk kind step pc val) := by
  unfold State.trace
  refine .ite h ?_
  split
  · refine .ite h ?_
    split
    · exact h
    · rename_i s1 e1
      have h1 : Canonical s1 := h.hwWrite e1
      split
      · exact h
      · rename_i s2 e2
        have h2 : Canonical s2 := h1.hwWrite e2
        exact h2.hwNote.heal.ctrAdd
  · exact h

theorem Canonical.enterHandler {tk code : Nat} {tval epc : Word} (h : Canonical s) : Canonical (s.enterHandler tk code tval epc) :=
  .ite h.upT.trace h.upT

theorem Canonical.upTask {p tcb : Nat} {f : Task → Task} (h : Canonical s) : Canonical (s.upTask p tcb f) := h.upPart

theorem Canonical.park {tk state : Nat} {pc : Word} {wait : Option (Nat × Nat × Word)} (h : Canonical s) :
    Canonical (s.park tk state pc wait) := by
  unfold State.park
  extract_lets _ _ s1
  have h1 : Canonical s1 := h.sendOwn
  split
  · exact h
  · split
    · exact h.upT
    · exact h1.putTcb.upTask.upT

theorem Canonical.parkFault {tk code : Nat} {tval epc : Word} (h : Canonical s) : Canonical (s.parkFault tk code tval epc) := by
  unfold State.parkFault
  extract_lets _ _ _ _ _ s1
  have h1 : Canonical s1 := h.upT.park
  split
  · exact h.enterHandler
  · split
    exact .ite h1.upPart.push.trace h1.upPart.push

theorem Canonical.trapAt {tk code : Nat} {tval epc : Word} (h : Canonical s) : Canonical (s.trapAt tk code tval epc) :=
  .ite h.abortSpec.upT (.ite h.upT (.ite h.parkFault h.enterHandler))

theorem Canonical.trap {code : Nat} {tval : Word} (h : Canonical s) : Canonical (s.trap code tval) := h.trapAt

theorem Canonical.illegal {w : BitVec 32} (h : Canonical s) : CanonicalOut (s.illegal w) := h.trap

theorem Canonical.privFault {w : BitVec 32} (h : Canonical s) : CanonicalOut (s.privFault w) := h.trap

theorem Canonical.sstep {pc0 : Word} {priv0 : Nat} (h : Canonical s) : Canonical (s.sstep pc0 priv0) := .ite h.trapAt h

theorem Canonical.retireW {len extra : Nat} {win : Word → Word} {under : Bool} (h : Canonical s) :
    Canonical (s.retireW len extra win under) :=
  h.upMe.sstep

theorem Canonical.retire {len extra : Nat} (h : Canonical s) : Canonical (s.retire len extra) := h.retireW

theorem Canonical.done {len : Nat} (h : Canonical s) : Canonical (s.done len) := h.retire

theorem Canonical.doneD {len : Nat} (h : Canonical s) : Canonical (s.doneD len) := h.retire

theorem Canonical.jump {target : Word} (h : Canonical s) : Canonical (s.jump target) := h.upMe.sstep

theorem Canonical.noJump (h : Canonical s) : Canonical s.noJump := h.upA.retireW

theorem Canonical.eret (h : Canonical s) : Canonical s.eret := h.upMe.sstep

theorem Canonical.putInt {d : Reg} {w : Word} (h : Canonical s) : Canonical (s.putInt d w) := h.upMe

theorem Canonical.longAfter {t0 : TSet} {lat : Nat} {b : List (Nat × Nat)} (h : Canonical s) : Canonical (s.longAfter t0 lat b) :=
  h.upMe.pushAt

theorem Canonical.relStep {tk scope : Nat} (h : Canonical s) : Canonical (s.relStep tk scope) := .ite h h.sendOwn

theorem Canonical.acquire {tk : Nat} (h : Canonical s) : Canonical (s.acquire tk) := h.same.upT

theorem Canonical.unlessHeld {f : State → State} (h : Canonical s) (hf : ∀ t, Canonical t → Canonical (f t)) :
    Canonical (s.unlessHeld f) :=
  .ite h (hf _ h)

theorem Canonical.startWait {w : Wait} (h : Canonical s) : Canonical (s.startWait w) := h.upMe

theorem Canonical.asTk {tk : Nat} {f : State → State} (h : Canonical s) (hf : ∀ t, Canonical t → Canonical (f t)) :
    Canonical (s.asTk tk f) :=
  hf _ h.same

/-! ### Access -/

theorem Canonical.notSys {i : Instr} {k : Out} (h : Canonical s) (hk : CanonicalOut k) : CanonicalOut (s.notSys i k) := .ite h.illegal hk

theorem Canonical.again (h : Canonical s) : CanonicalOut s.again := h.upMe

theorem Canonical.untilResolved (h : Canonical s) : CanonicalOut s.untilResolved := h.upMe

theorem Canonical.noteReq {r : Req} {home pa n : Nat} {wr : Bool} (h : Canonical s) : Canonical (s.noteReq r home pa n wr) := h.swNote

theorem Canonical.site {tk : Nat} {ea : Word} {k : AccessKind} {priv : Nat} (h : Canonical s) : Canonical (s.site tk ea k priv).2 := by
  unfold State.site
  split
  · exact h
  · split
    · rename_i s1 e1
      have h1 : Canonical s1 := h.xlat.snd e1
      split <;> exact h1
    · rename_i s1 e1
      exact h.xlat.snd e1
    · rename_i s1 e1
      exact h.xlat.snd e1
    · rename_i s1 e1
      exact h.xlat.snd e1

theorem Canonical.plan {tk : Nat} {c : Checks} {eas : List Word} (h : Canonical s) : Canonical (s.plan tk c eas).2 := by
  induction eas generalizing s with
  | nil => exact h
  | cons ea eas ih =>
    unfold State.plan
    split
    · exact h
    · split <;> rename_i s1 e1 <;> have h1 : Canonical s1 := h.site.snd e1
      · exact h1
      · exact h1
      · exact h1
      · split
        · exact h1
        · split
          · rename_i s2 e2
            exact (ih h1).snd e2
          · exact ih h1

theorem Canonical.planned {c : Checks} {eas : List Word} {k : List Hit → State → Out} (h : Canonical s)
    (hk : ∀ x1 t, Canonical t → CanonicalOut (k x1 t)) : CanonicalOut (s.planned c eas k) := by
  unfold State.planned
  split
  · rename_i s1 e1
    have h1 : Canonical s1 := h.plan.snd e1
    exact hk _ _ h1
  · rename_i s1 e1
    have h1 : Canonical s1 := h.plan.snd e1
    exact h1.trap
  · exact h.again
  · exact trivial

theorem Canonical.watched {ts : List Touch} {k : Out} (h : Canonical s) (hk : CanonicalOut k) : CanonicalOut (s.watched ts k) := by
  unfold State.watched
  split
  · exact h.trap
  · exact hk

theorem Canonical.dropL1 {core : Nat} {ks : List Nat} (h : Canonical s) : Canonical (s.dropL1 core ks) := by
  unfold State.dropL1
  extract_lets s1
  have h1 : Canonical s1 := h.upCore
  exact h1.same

theorem Canonical.fillL1 {core cid seq : Nat} {lanes : List (Nat × BitVec 64)} (h : Canonical s) :
    Canonical (s.fillL1 core cid seq lanes) :=
  h.foldl fun _ _ h1 => h1.upCore

theorem Canonical.marking {hs : List Hit} {k : Out} (h : Canonical s) (hk : CanonicalOut k) : CanonicalOut (s.marking hs k) :=
  .ite h.untilResolved hk

theorem Canonical.load {x : Hit} {d : Dst} {o : LoadOp} (h : Canonical s) : Canonical (s.load x d o) := by
  unfold State.load
  dsimp only
  split
  · exact h.upMe
  · exact h.upMe.push

theorem Canonical.store {x : Hit} {pl len : Nat} {mask : BitVec 64} {data : BitVec 512} {rel : Bool} (h : Canonical s)
    (e : s.store x pl len mask data rel = some t) : Canonical t := by
  unfold State.store at e
  extract_lets _ _ _ _ s1 s2 at e
  have h1 : Canonical s1 := .ite h h.dropL1
  have h2 : Canonical s2 := .ite h1.relStep h1
  split at e
  · split at e
    · cases e
    · cases e
      exact h1.upCore.evt
  · cases e
    exact h2.push

theorem Canonical.localOn {i : Instr} {al n : Nat} {ts : List Touch} {eas : List Word} {k : Out} (h : Canonical s) (hk : CanonicalOut k) :
    CanonicalOut (s.localOn i al n ts eas k) := by
  unfold State.localOn
  refine h.notSys ?_
  split
  · exact h.trap
  · refine Canonical.again ?_
    split
    · exact h.evt
    · exact h
  · exact h.watched hk

theorem Canonical.local {i : Instr} {al n : Nat} {rd wr : Bool} {eas : List Word} {k : Out} (h : Canonical s) (hk : CanonicalOut k) :
    CanonicalOut (s.local i al n rd wr eas k) :=
  h.localOn hk

/-! ### Fop -/

theorem Canonical.fpRes {len lat : Nat} {p : BitVec 2} {d : Reg} {r : FRes} (h : Canonical s) : CanonicalOut (fpRes len lat p d r s) :=
  h.upA.doneD.longAfter

theorem Canonical.fpInt {len : Nat} {d : Reg} {w : Word} {f : Flags} (h : Canonical s) : CanonicalOut (fpInt len d w f s) :=
  h.putInt.upA.doneD.longAfter

theorem Canonical.fpOp {fo : Fmt → Nat → FArg → FArg → FArg → FRes} {len l32 l64 : Nat} {p : BitVec 2} {d a : Reg} {b : FArg}
    (h : Canonical s) : CanonicalOut (fpOp fo len l32 l64 p d a b s) :=
  h.fpRes

theorem Canonical.fpFeq {len : Nat} {p : BitVec 2} {d a : Reg} {b : FArg} (h : Canonical s) : CanonicalOut (fpFeq len p d a b s) :=
  h.fpInt

theorem Canonical.fpFlt {len : Nat} {p : BitVec 2} {d a : Reg} {b : FArg} (h : Canonical s) : CanonicalOut (fpFlt len p d a b s) :=
  h.fpInt

theorem Canonical.fpFle {len : Nat} {p : BitVec 2} {d a : Reg} {b : FArg} (h : Canonical s) : CanonicalOut (fpFle len p d a b s) :=
  h.fpInt

theorem Canonical.fpFromInt {p : BitVec 2} {d : Reg} {x : ℤ} (h : Canonical s) : CanonicalOut (fpFromInt p d x s) := h.fpRes

/-! ### Vector -/

theorem Canonical.useVec {n : Nat} (h : Canonical s) : Canonical (s.useVec n) := h.upCore

theorem Canonical.useTrn (h : Canonical s) : Canonical s.useTrn := h.upCore

theorem Canonical.vecDone {lat cls r : Nat} {f : Arch → Arch} (h : Canonical s) : CanonicalOut (vecDone lat cls r f s) :=
  h.upA.doneD.longAfter.useVec

theorem Canonical.vop {fo : Fmt → Nat → FArg → FArg → FArg → FRes} {io : Nat → Nat → Nat → Nat} {lf li : Nat} {d a b : Reg}
    {m t : BitVec 3} (h : Canonical s) : CanonicalOut (vop fo io lf li d a b m t s) :=
  .ite h.vecDone h.vecDone

theorem Canonical.vopG {fo : Fmt → Nat → FArg → FArg → FArg → FRes} {io : Nat → Nat → Nat → Nat} {lf li : Nat} {d a b : Reg}
    {m t : BitVec 3} (h : Canonical s) : CanonicalOut (vopG fo io lf li d a b m t s) :=
  .ite h.vecDone h.vecDone

theorem Canonical.vtrn {fo : Fmt → Nat → FArg → FArg → FArg → FRes} {lat : Nat} {d a b : Reg} {m t : BitVec 3} (h : Canonical s) :
    CanonicalOut (vtrn fo lat d a b m t s) :=
  h.useTrn.vop

theorem Canonical.vcmp {fc : XR → XR → Bool} {ic : ℤ → ℤ → Bool} {ord : Bool} {d : BitVec 3} {a b : Reg} {m t : BitVec 3}
    (h : Canonical s) : CanonicalOut (vcmp fc ic ord d a b m t s) :=
  h.vecDone

theorem Canonical.execVclt {d : BitVec 3} {a b : Reg} {m t : BitVec 3} (h : Canonical s) : CanonicalOut (execVclt d a b m t s) := h.vcmp

theorem Canonical.execVcle {d : BitVec 3} {a b : Reg} {m t : BitVec 3} (h : Canonical s) : CanonicalOut (execVcle d a b m t s) := h.vcmp

theorem Canonical.vmove {d : Reg} {t : Nat} {on : List Nat} {src : Nat → Nat → Nat} (h : Canonical s) :
    CanonicalOut (vmove d t on src s) :=
  h.vecDone

theorem Canonical.vnarrow {wo : Nat} {conv : Nat → Nat → Nat → Nat × Flags} {zeroTan draws : Bool} {d a : Reg} {q : Nat} {m : BitVec 3}
    (h : Canonical s) : CanonicalOut (vnarrow wo conv zeroTan draws d a q m s) :=
  h.vecDone

theorem Canonical.vwiden {wi : Nat} {conv : Nat → Nat × Flags} {zeroTan : Bool} {d a : Reg} {q : Nat} {m : BitVec 3} (h : Canonical s) :
    CanonicalOut (vwiden wi conv zeroTan d a q m s) :=
  h.vecDone

theorem Canonical.execVcvtS32F32 {d a : Reg} {m : BitVec 3} (h : Canonical s) : CanonicalOut (execVcvtS32F32 d a m s) := h.vwiden

theorem Canonical.execVcvtF32S32 {d a : Reg} {m : BitVec 3} (h : Canonical s) : CanonicalOut (execVcvtF32S32 d a m s) := h.vwiden

theorem Canonical.execVcvtS8S32 {d a : Reg} {q : BitVec 2} {m : BitVec 3} (h : Canonical s) : CanonicalOut (execVcvtS8S32 d a q m s) :=
  h.vnarrow

theorem Canonical.vredMinmax {mx : Bool} {d a : Reg} {m t : BitVec 3} (h : Canonical s) : CanonicalOut (vredMinmax mx d a m t s) := by
  unfold Machine.vredMinmax
  refine .ite ?_ h.vecDone
  split <;> exact h.vecDone

theorem Canonical.maskOp {d : BitVec 3} {w : Word} (h : Canonical s) : CanonicalOut (maskOp d w s) := h.upMe.done

theorem Canonical.intOp' {d : Reg} {w : Word} (h : Canonical s) : CanonicalOut (execMpop.intOp' d w s) := h.putInt.doneD

/-! ### Vmem -/

theorem Canonical.soon {lat : Nat} {bs : List (Nat × Nat)} (h : Canonical s) : Canonical (s.soon lat bs) := h.upMe

theorem Canonical.vmemDone (h : Canonical s) : Canonical s.vmemDone := h.doneD.useVec

theorem Canonical.execVldG {d a b : Reg} {m t : BitVec 3} (h : Canonical s) : CanonicalOut (execVldG d a b m t s) :=
  h.planned (fun _ _ h1 => h1.watched (h1.marking (h1.foldl (fun _ _ h2 => h2.load)).vmemDone))

theorem Canonical.execVstG {d a b : Reg} {m t : BitVec 3} (h : Canonical s) : CanonicalOut (execVstG d a b m t s) := by
  unfold Machine.execVstG
  refine h.planned fun hs s1 h1 => h1.watched ?_
  split
  · rename_i s2 e
    refine (h1.foldlM e fun s x t h e => ?_).vmemDone
    split at e
    · cases e; exact h
    · exact h.store e
  · exact h.untilResolved

theorem Canonical.execVlds {d a b : Reg} {m t : BitVec 3} (h : Canonical s) : CanonicalOut (execVlds d a b m t s) :=
  h.planned (fun _ _ h1 => h1.watched (h1.marking (h1.foldl (fun _ _ h2 => h2.load)).vmemDone))

theorem Canonical.execVscatL {d a b : Reg} {m t : BitVec 3} (h : Canonical s) : CanonicalOut (execVscatL d a b m t s) :=
  h.local (h.foldl (fun _ _ h1 => h1.upCC (fun _ h2 => h2.foldl (fun _ _ h3 => h3.locWrite)))).vmemDone

theorem Canonical.execStl {src a : Reg} {z : BitVec 2} {o : BitVec 12} (h : Canonical s) : CanonicalOut (execStl src a z o s) :=
  h.local (Canonical.ite (h.foldl (fun _ _ h1 => h1.upCC (fun _ h2 => h2.locWrite))).doneD
    (h.foldl (fun _ _ h1 => h1.upCC (fun _ h2 => h2.locWrite))).done)

/-! ### Global -/

theorem Canonical.abortMarks {home pa : Nat} {chans : List (Nat × BitVec 32)} {burst : Bool} (h : Canonical s) :
    Canonical (s.abortMarks home pa chans burst) := by
  unfold State.abortMarks
  refine h.foldl fun s1 x1 h1 => ?_
  refine h1.foldl fun s2 x2 h2 => ?_
  split
  · exact .ite h2.push h2
  · exact h2

theorem Canonical.sysHeal {r : Req} (h : Canonical s) : Canonical (s.sysHeal r) := .ite h.heal h

theorem Canonical.wrReq {r : Req} {on : List Bool} {bs : List Byte} (h : Canonical s) : Canonical (s.wrReq r on bs) :=
  h.noteReq.collapse.homeWrite.abortMarks

theorem Canonical.discardLine {home key : Nat} (h : Canonical s) : Canonical (s.discardLine home key) := h.collapse.upSlice

theorem Canonical.amoAt {r : Req} {op : Nat} (h : Canonical s) : Canonical (s.amoAt r op) := by
  unfold State.amoAt
  extract_lets _ s1
  have h1 : Canonical s1 := h.noteReq
  split
  rename_i s2 e1
  have h2 : Canonical s2 := h1.homeRead.snd e1
  refine Canonical.push ?_
  split
  · exact h2.wrReq
  · exact h2.collapse

theorem Canonical.redAt {r : Req} (h : Canonical s) : Canonical (s.redAt r) := by
  unfold State.redAt
  refine (h.foldl ?_).abortMarks
  intro s1 x1 h1
  extract_lets
  split
  rename_i s2 e1
  have h2 : Canonical s2 := h1.homeRead.snd e1
  exact h2.noteReq.collapse.homeWrite.upSlice

theorem Canonical.enqueue {r : Req} (h : Canonical s) : Canonical (s.enqueue r) := by
  unfold State.enqueue
  extract_lets
  split
  · exact h.upSlice
  · exact h.upSlice.push

theorem Canonical.takeRes {core : Nat} {r : Req} (h : Canonical s) : Canonical (s.takeRes core r).2 := by
  unfold State.takeRes
  split
  · exact h
  · split
    · exact h
    · exact h.upCore

theorem Canonical.force {core : Nat} {r : Req} (h : Canonical s) : Canonical (s.force core r) :=
  h.upCCRest.push.foldl fun _ _ h1 => .ite h1.evt h1

theorem Canonical.newRes {core : Nat} {r : Req} (h : Canonical s) : Canonical (s.newRes core r) := by
  unfold State.newRes
  extract_lets _ s1
  have h1 : Canonical s1 := by
    unfold s1
    split
    · exact h
    · split
      · exact h
      · split
        · exact h
        · exact h.upCore.force
  split
  · exact h1
  · exact h1.upCore

theorem Canonical.amo {op : Nat} {d a b : Reg} {w : BitVec 1} {o : BitVec 2} {sc : BitVec 3} (h : Canonical s) :
    CanonicalOut (amo op d a b w o sc s) :=
  h.planned (fun _ _ h1 => h1.watched (h1.foldl (fun _ _ h2 => (Canonical.upMe (.ite h2.relStep h2)).push)).doneD)

theorem Canonical.red {op : Nat} {a b : Reg} {v : BitVec 1} (h : Canonical s) : CanonicalOut (red op a b v s) := by
  unfold Machine.red
  refine h.planned ?_
  intro x11 s1 h1
  refine h1.watched (Canonical.ite (h1.foldl ?_).evt.doneD (h1.foldl ?_).evt.done)
  · intro s2 x1 h2
    refine .ite h2.push ?_
    split
    rename_i s3 e1
    have h3 : Canonical s3 := h2.takeRes.snd e1
    exact h3.push
  · intro s2 x1 h2
    refine .ite h2.push ?_
    split
    rename_i s3 e1
    have h3 : Canonical s3 := h2.takeRes.snd e1
    exact h3.push

theorem Canonical.serveBytes {r : Req} (h : Canonical s) : Canonical (s.serveBytes r).2 := by
  unfold State.serveBytes
  split
  · exact h.noteReq.repRead
  · split
    · exact h.noteReq
    · exact h.noteReq.homeRead

theorem Canonical.execHomeLoadServe {r : Req} (h : Canonical s) : CanonicalOut (execHomeLoadServe r s) := by
  unfold Machine.execHomeLoadServe
  split
  rename_i s1 e1
  have h1 : Canonical s1 := h.serveBytes.snd e1
  extract_lets s2 _ s3
  have h2 : Canonical s2 := by
    unfold s2
    split
    · exact h1
    · exact .ite h1 h1.upSlice
  have h3 : Canonical s3 := h2.same.evt
  exact h3.push

theorem Canonical.landed {r : Req} (h : Canonical s) : Canonical (s.landed r) := h.upT

theorem Canonical.execLoadReply {r : Req} (h : Canonical s) : CanonicalOut (execLoadReply r s) :=
  Canonical.ite (Canonical.acquire (.ite h.landed h.landed.fillL1)) (.ite h.landed h.landed.fillL1)

theorem Canonical.perform {r : Req} (h : Canonical s) : Canonical (s.perform r) := by
  unfold State.perform
  extract_lets s1
  have h1 : Canonical s1 := h.sysHeal
  split
  · exact h1.amoAt
  · exact h1.noteReq.discardLine.abortMarks
  · exact h1.enqueue.redAt
  · exact .ite h1.wrReq h1.wrReq

theorem Canonical.afterCollapse {r : Req} (h : Canonical s) : Canonical (s.afterCollapse r) := .ite h.perform h.collapse.push

theorem Canonical.execHomeStoreApply {r : Req} (h : Canonical s) : CanonicalOut (execHomeStoreApply r s) := h.afterCollapse

theorem Canonical.execReplicaCollapseAck {r : Req} (h : Canonical s) : CanonicalOut (execReplicaCollapseAck r s) := h.collapse.perform

theorem Canonical.execAmoSliceApply {r : Req} (h : Canonical s) : CanonicalOut (execAmoSliceApply r s) := h.afterCollapse

theorem Canonical.execAmoReply {r : Req} (h : Canonical s) : CanonicalOut (execAmoReply r s) := Canonical.ite h.landed.acquire h.landed

theorem Canonical.execRedArrival {r : Req} (h : Canonical s) : CanonicalOut (execRedArrival r s) :=
  .ite (.ite h.upSlice.afterCollapse h) h.push

theorem Canonical.execRefusalReturn {r : Req} (h : Canonical s) : CanonicalOut (execRefusalReturn r s) := by
  unfold Machine.execRefusalReturn
  refine .ite h.upCCRest.evt (.ite ?_ ?_)
  · split
    rename_i s1 e1
    have h1 : Canonical s1 := h.upCCRest.evt.takeRes.snd e1
    exact h1.force
  · split
    · split
      · exact h.upCCRest.evt.upCore
      · exact h.upCCRest.evt
    · exact h.upCCRest.evt.newRes

theorem Canonical.execForcedMessageApply {r : Req} (h : Canonical s) : CanonicalOut (execForcedMessageApply r s) := .ite h.afterCollapse h

theorem Canonical.execResidualAgeExpiry {core : Nat} (h : Canonical s) : CanonicalOut (execResidualAgeExpiry core s) := h.sendRes

theorem Canonical.execQuotaWindowStart (h : Canonical s) : CanonicalOut (execQuotaWindowStart s) := h.same

theorem Canonical.execReductionQueueDrain {slice : Nat} (h : Canonical s) : CanonicalOut (execReductionQueueDrain slice s) := h.upSlice

theorem Canonical.offSlot {tk : Nat} {f : State → State} (h : Canonical s) (hf : ∀ t, Canonical t → Canonical (f t)) :
    Canonical (s.offSlot tk f) :=
  hf _ h

theorem Canonical.finish {tk : Nat} (h : Canonical s) : Canonical (s.finish tk) :=
  h.offSlot fun _ h1 => h1.asTk (fun _ h2 => h2.upMe.done)

theorem Canonical.finishD {tk : Nat} {d : Reg} {w : Word} (h : Canonical s) : Canonical (s.finishD tk d w) :=
  h.offSlot fun _ h1 => h1.asTk (fun _ h2 => h2.upMe.putInt.doneD)

theorem Canonical.waitTrap {tk code : Nat} {tval : Word} (h : Canonical s) : Canonical (s.waitTrap tk code tval) :=
  h.offSlot fun _ h1 => h1.trapAt

theorem Canonical.execSigaddApply {r : Req} (h : Canonical s) : CanonicalOut (execSigaddApply r s) := by
  unfold Machine.execSigaddApply
  split
  rename_i s1 e1
  have h1 : Canonical s1 := h.noteReq.sysHeal.ctrAdd.snd e1
  exact .ite (Canonical.ite h1.abortMarks h1)
    (.ite (Canonical.finish (.ite h1.abortMarks h1)) (Canonical.upT (.ite h1.abortMarks h1)).waitTrap)

theorem Canonical.unregister {tk : Nat} (h : Canonical s) : Canonical (s.unregister tk) := by
  unfold State.unregister
  split
  · exact h.upSlice
  · exact h

theorem Canonical.waitgeAt {tk : Nat} (h : Canonical s) : Canonical (s.waitgeAt tk) := by
  unfold State.waitgeAt
  split
  · split
    rename_i s1 e1
    have h1 : Canonical s1 := h.noteReq.sysHeal.homeRead.snd e1
    exact .ite h1.unregister.dropPend.finishD.acquire (.ite h1 (.ite h1.upSlice.upT h1.upT.pushAt))
  · exact h

theorem Canonical.execWaitgeWake {tk : Nat} (h : Canonical s) : CanonicalOut (execWaitgeWake tk s) := h.waitgeAt

theorem Canonical.execWaitgeRepoll {tk : Nat} (h : Canonical s) : CanonicalOut (execWaitgeRepoll tk s) := h.waitgeAt

theorem Canonical.timeOut {tk n : Nat} (h : Canonical s) : Canonical (s.timeOut tk n) := .ite h.upT h.upT.waitTrap

theorem Canonical.execWaitTimeout {tk : Nat} (h : Canonical s) : CanonicalOut (execWaitTimeout tk s) := by
  unfold Machine.execWaitTimeout
  extract_lets
  split
  · exact h.timeOut
  · exact .ite h.unregister.dropPend.timeOut h
  · exact h

/-! ### Banks -/

theorem Canonical.setPhys {cl b st : Nat} (h : Canonical s) : Canonical (s.setPhys cl b st) := h.upCl

theorem Canonical.scrub {cl b : Nat} (h : Canonical s) : Canonical (s.scrub cl b) := h.setPhys.pushAt

theorem Canonical.upBank {cc n : Nat} {f : Bank → Bank} (h : Canonical s) (e : ∀ b, (f b).data = b.data := by intro; rfl) :
    Canonical (s.upBank cc n f) :=
  h.upCC fun _ hc => hc.setSlot (CanonicalSlot.map (hc n) e)

theorem Canonical.setSlot {cc n : Nat} {x : Slot} (h : Canonical s) (hx : CanonicalSlot x) : Canonical (s.setSlot cc n x) :=
  h.upCC fun _ hc => hc.setSlot hx

theorem Canonical.evictBank {cc n : Nat} (h : Canonical s) : Canonical (s.evictBank cc n) := by
  unfold State.evictBank
  split
  · split
    · exact .ite h h.upBank.scrub
    · exact h
  · exact h

theorem Canonical.makeRoom {cl : Nat} (h : Canonical s) : Canonical (s.makeRoom cl) := by
  unfold State.makeRoom
  refine .ite h ?_
  split
  · exact h.evictBank
  · exact h

theorem Canonical.refillBank {cc n : Nat} (h : Canonical s) : Canonical (s.refillBank cc n) := by
  unfold State.refillBank
  split
  · exact .ite h.pushAt h
  · exact h

theorem Canonical.wakeBwait {cc n : Nat} (h : Canonical s) : Canonical (s.wakeBwait cc n) := by
  unfold State.wakeBwait
  refine h.foldl fun s1 x1 h1 => ?_
  extract_lets
  split
  · exact .ite h1.push h1
  · exact h1

theorem Canonical.attach {cc n p : Nat} {nxm : Bool} {data : List Host.Cell} (h : Canonical s) (hd : Memory.wf data = true) :
    Canonical (s.attach cc n p nxm data) :=
  (h.setSlot (.attached hd)).setPhys.wakeBwait

theorem Canonical.release {cc n : Nat} (h : Canonical s) : Canonical (s.release cc n) := by
  have h1 : Canonical (s.setSlot cc n .empty) := h.setSlot .empty
  unfold State.release
  dsimp only
  split
  · exact h1
  · split
    · exact h1.scrub
    · exact h1

theorem Canonical.unmark {cc n : Nat} (h : Canonical s) : Canonical (s.unmark cc n) := by
  refine h.upCC fun c hc => hc.setSlot ?_
  split
  · rename_i b e
    exact .attached (hc n b (congrArg Slot.bank? e))
  · exact hc n

theorem Canonical.unreserve {cc n : Nat} (h : Canonical s) : Canonical (s.unreserve cc n) := by
  refine h.upCC fun c hc => hc.setSlot ?_
  split
  · exact .empty
  · exact hc n

theorem Canonical.batt {d : Reg} {n : Nat} (h : Canonical s) : Canonical (s.batt d n) := by
  unfold State.batt
  extract_lets
  split
  · exact h.trap
  · exact h.trap
  · exact h.trap
  · refine .ite h.trap ?_
    split
    · exact (h.attach rfl).putInt.soon.doneD
    · exact h.makeRoom.startWait.push

theorem Canonical.execBdet {sl : BitVec 3} (h : Canonical s) : CanonicalOut (execBdet sl s) := by
  unfold Machine.execBdet
  refine h.notSys ?_
  dsimp only
  split
  · exact h.again
  · rename_i b e
    exact (h.setSlot (.outgoing (h.cc _ _ b (congrArg Slot.bank? e)))).startWait.push
  · exact h.trap

theorem Canonical.execHover {d a : Reg} {u sl : BitVec 3} (h : Canonical s) : CanonicalOut (execHover d a u sl s) := by
  unfold Machine.execHover
  refine h.notSys ?_
  dsimp only
  split
  · rename_i b e
    have hb : Memory.wf b.data = true := h.cc _ _ b (congrArg Slot.bank? e)
    refine .ite h.putInt.doneD ?_
    split
    · exact ((h.setSlot (.outgoing hb)).setSlot .reserved).startWait.push
    · exact h.putInt.doneD
  · exact h.putInt.doneD

theorem Canonical.execBattWake {tk : Nat} (h : Canonical s) : CanonicalOut (execBattWake tk s) := by
  unfold Machine.execBattWake
  split
  · exact h.offSlot fun _ h1 => h1.upT.asTk (fun _ h2 => h2.batt)
  · exact h

theorem Canonical.execHoverTableStep {tk : Nat} (h : Canonical s) : CanonicalOut (execHoverTableStep tk s) := by
  unfold Machine.execHoverTableStep
  extract_lets cc
  split
  · extract_lets tcc
    split
    · rename_i b e
      extract_lets s1 s2
      have h1 : Canonical s1 := ((h.setSlot .empty).setSlot (.attached (h.cc _ _ b (congrArg Slot.bank? e)))).wakeBwait
      have h2 : Canonical s2 := .ite h1.refillBank h1
      exact .ite h h2.finishD
    · exact h
  · exact h

theorem Canonical.execBdetTableStep {tk : Nat} (h : Canonical s) : CanonicalOut (execBdetTableStep tk s) := by
  unfold Machine.execBdetTableStep
  extract_lets
  split
  · split
    · exact .ite h h.release.finish
    · exact h
  · exact h

theorem Canonical.execBwaitWake {tk : Nat} (h : Canonical s) : CanonicalOut (execBwaitWake tk s) := by
  unfold Machine.execBwaitWake
  split
  · exact h.finish
  · exact h

theorem Canonical.execBankRefillDone {cc slot : Nat} (h : Canonical s) : CanonicalOut (execBankRefillDone cc slot s) := by
  unfold Machine.execBankRefillDone
  extract_lets
  split
  · exact h
  · refine .ite h ?_
    split
    · exact h.upBank.setPhys
    · split
      · exact h.upBank.upBank
      · exact h

theorem Canonical.execBankScrubDone {cluster bank : Nat} (h : Canonical s) : CanonicalOut (execBankScrubDone cluster bank s) :=
  .ite h.upCl h

/-! ### Tensor -/

theorem Canonical.tensor {i : Instr} {o : TenOp} (h : Canonical s) : CanonicalOut (tensor i o s) := by
  unfold Machine.tensor
  refine h.notSys (.ite h.again (.ite h.illegal ?_))
  split
  · exact h.trap
  · refine Canonical.again ?_
    split
    · exact h.evt
    · exact h
  · exact h.upCCRest.done

theorem Canonical.debit {cl cid : Nat} {o : TenOp} (h : Canonical s) : Canonical (s.debit cl cid o) := h.same.upCtx

theorem Canonical.tickLanes {cl : Nat} (h : Canonical s) : Canonical (s.tickLanes cl) :=
  h.foldl fun _ _ h1 => .ite h1.upCCRest.pushAt h1.upCCRest

theorem Canonical.credit {cl k : Nat} (h : Canonical s) : Canonical (s.credit cl k) := h.upCl

theorem Canonical.endVisit {cl k : Nat} (h : Canonical s) : Canonical (s.endVisit cl k) := .ite h.upCl h

theorem Canonical.bind {cl g cc : Nat} {e : EngOp} {o : TenOp} (h : Canonical s) : Canonical (s.bind cl g cc e o) := by
  unfold State.bind
  extract_lets
  split
  exact h.upCCRest.debit.upCl.evt

theorem Canonical.execTensorBind {cluster : Nat} (h : Canonical s) : CanonicalOut (execTensorBind cluster s) := by
  unfold Machine.execTensorBind
  split
  · split
    · exact h
    · split
      · exact h
      · exact Canonical.ite h.credit.bind.endVisit.push h.credit.bind.endVisit
  · exact h

theorem Canonical.execMmaOccupancyEnd {cluster lane : Nat} (h : Canonical s) : CanonicalOut (execMmaOccupancyEnd cluster lane s) := by
  unfold Machine.execMmaOccupancyEnd
  split
  · exact h
  · extract_lets s1
    have h1 : Canonical s1 := h.upCl
    split
    · exact h1
    · split
      · exact h1
      · extract_lets _ s2 s3
        have h2 : Canonical s2 := h1.upCC fun c hc => (hc.foldl fun c x hc => hc.locWrite : CanonicalCC _)
        have h3 : Canonical s3 := h2.pushAt
        exact Canonical.ite h3.push h3

theorem Canonical.freeOp {cc id : Nat} (h : Canonical s) : Canonical (s.freeOp cc id) := h.upCCRest

theorem Canonical.execMmaRetire {cc entry : Nat} (h : Canonical s) : CanonicalOut (execMmaRetire cc entry s) := by
  unfold Machine.execMmaRetire
  split
  · exact h
  · split
    · exact h
    · exact .ite h h.upT.freeOp

theorem Canonical.refillTable {p : Nat} (h : Canonical s) : Canonical (s.refillTable p) :=
  h.foldl (fun _ _ h1 => .ite h1 (.ite h1 (h1.unlessHeld (fun _ h2 => h2.wrWord))))

theorem Canonical.execEnergyRefill (h : Canonical s) : CanonicalOut (execEnergyRefill s) :=
  .ite h.same (h.same.same.foldl (fun _ _ h1 => .ite h1.refillTable h1))

/-! ### Copy -/

theorem Canonical.copyPlane {x : Tcw} {idx : List Nat} {p : Nat} (h : Canonical s) : Canonical (s.copyPlane x idx p).2 := by
  unfold State.copyPlane
  extract_lets
  split
  · exact h
  · exact h
  · split
    · exact h
    · split
      · split <;> exact h
      · split
        · exact h
        · split
          · rename_i s1 e1
            exact h.plan.snd e1
          · rename_i s1 e1
            exact h.plan.snd e1
          · rename_i s1 _ _ e1
            exact h.plan.snd e1

theorem Canonical.copyPlanes {x : Tcw} {idx ps : List Nat} {r : Option (Nat × Word)} (h : Canonical s)
    (e : s.copyPlanes x idx ps = .inr (r, t)) :
    Canonical t := by
  induction ps generalizing s with
  | nil => cases e
  | cons p ps ih =>
    unfold State.copyPlanes at e
    split at e <;> rename_i s1 e1 <;> have h1 : Canonical s1 := h.copyPlane.snd e1
    · cases e; exact h1
    · cases e; exact h1
    · split at e
      · cases e
      · rename_i e2
        cases e
        exact ih h1 e2

theorem Canonical.copyXlat {x : Tcw} {idx ps : List Nat} (h : Canonical s) : Canonical (s.copyXlat x idx ps) :=
  h.foldl fun _ _ h1 => h1.copyPlane

theorem Canonical.acceptCopy {x : Tcw} {t : Nat} {ctr : Option (Nat × Nat × Word)} {ps : List Nat} {parts : List (Word × List Part)}
    {pages : List (Nat × Nat)} {glo : List Rng} (h : Canonical s) : Canonical (s.acceptCopy x t ctr ps parts pages glo) :=
  (h.upCCRest.foldl (fun _ _ h1 => h1.push)).push.evt

theorem Canonical.issueCopy {x : Tcw} {t : Nat} {ps : List Nat} {ctr : Option (Nat × Nat × Word)} (h : Canonical s) :
    CanonicalOut (s.issueCopy x t ps ctr) := by
  unfold State.issueCopy
  extract_lets idx
  split
  · exact h.again
  · split
    · exact h.copyXlat.acceptCopy.retire
    · rename_i s1 e1
      exact (h.copyPlanes e1).trap
    · exact h.again

theorem Canonical.execTcissue {a : Reg} {t : BitVec 2} (h : Canonical s) : CanonicalOut (execTcissue a t s) := by
  unfold Machine.execTcissue
  refine h.notSys (.ite h.again ?_)
  split
  · refine .ite h.issueCopy ?_
    split
    · rename_i s1 e1
      have h1 : Canonical s1 := h.plan.snd e1
      exact h1.issueCopy
    · rename_i s1 e1
      have h1 : Canonical s1 := h.plan.snd e1
      exact h1.trap
    · exact h.again
    · exact trivial
  · exact h.illegal

theorem Canonical.upCopy {cc id : Nat} {f : CopyOp → CopyOp} (h : Canonical s) : Canonical (s.upCopy cc id f) := h.upCCRest

theorem Canonical.flown {cc entry i : Nat} (h : Canonical s) : Canonical (s.flown cc entry i) := h.same

theorem Canonical.performedBurst {cc : Nat} {e : EngOp} {c : CopyOp} {i : Nat} (h : Canonical s) : Canonical (s.performedBurst cc e c i) :=
  .ite (Canonical.upCCRest (.ite h.flown h) (fun _ => by dsimp only; split <;> rfl)).upCopy
    (Canonical.upCCRest (.ite h.flown h) (fun _ => by dsimp only; split <;> rfl)).upCopy.push

theorem Canonical.landBurst {cc : Nat} {e : EngOp} {c : CopyOp} {i st : Nat} {l : List Piece} (h : Canonical s) :
    Canonical (s.landBurst cc e c i st l) :=
  .ite (.ite h.performedBurst h.upCopy) h.upCopy.push

theorem Canonical.sendNet {n : NetReq} (h : Canonical s) : Canonical (s.sendNet n) := h.upCl.pushAt

theorem Canonical.sendPeer {cc : Nat} {e : EngOp} {c : CopyOp} {b : Nat} (h : Canonical s) : Canonical (s.sendPeer cc e c b) := by
  unfold State.sendPeer
  refine .ite h.landBurst (.ite h.performedBurst ?_)
  split
  · exact h.sendNet
  · exact h.upPart.sendNet.pushAt

theorem Canonical.execCopyBurstStart {cluster : Nat} (h : Canonical s) : CanonicalOut (execCopyBurstStart cluster s) := by
  unfold Machine.execCopyBurstStart
  split
  · exact h
  · split
    · exact h
    · exact .ite (h.foldl (fun _ _ h1 => h1.upCopy)).upCl.upCopy.sendPeer (h.foldl (fun _ _ h1 => h1.upCopy)).upCl.upCopy.push

theorem Canonical.movePiece {cc : Nat} {e : EngOp} {c : CopyOp} {p : Piece} (h : Canonical s) : Canonical (s.movePiece cc e c p) := by
  unfold State.movePiece
  split
  rename_i s1 e1
  have h1 : Canonical s1 := by
    refine Canonical.snd ?_ e1
    split
    · exact h
    · exact h
    · extract_lets s2
      have h1 : Canonical s2 := h.noteReq
      split
      · exact h1.repRead
      · exact h1.homeRead
    · exact h
  split
  · exact h1.upCC fun _ h2 => h2.locWrite
  · exact h1.wrReq
  · exact h1

theorem Canonical.countBurst {cc : Nat} {e : EngOp} {c : CopyOp} {n : Nat} (h : Canonical s) : Canonical (s.countBurst cc e c n) := by
  unfold State.countBurst
  split
  · exact h
  · extract_lets
    split
    rename_i s1 e1
    have h1 : Canonical s1 := h.noteReq.ctrAdd.snd e1
    exact .ite h1 h1.upCCRest

theorem Canonical.execCopyBurstComplete {cc entry burst : Nat} (h : Canonical s) :
    CanonicalOut (execCopyBurstComplete cc entry burst s) := by
  unfold Machine.execCopyBurstComplete
  split
  · exact h
  · split
    · exact h
    · split
      · exact h
      · exact h.countBurst.upCopy
      · exact h
      · exact h
      · extract_lets
        split
        · exact Canonical.ite h.upCopy h.performedBurst
        · exact Canonical.ite (.ite h.same.movePiece.upCl.upCopy.upCopy h.same.movePiece.upCl.upCopy.performedBurst)
            h.same.movePiece.upCl.upCopy.push

theorem Canonical.execCopyRetire {cc entry : Nat} (h : Canonical s) : CanonicalOut (execCopyRetire cc entry s) := by
  unfold Machine.execCopyRetire
  refine .ite ?_ h
  split
  · exact h
  · exact h.freeOp.upCCRest fun _ => by dsimp only; split <;> rfl

/-! ### Control -/

theorem Canonical.cwPut {ix : Nat} {w : Word} (h : Canonical s) : Canonical (s.cwPut ix w) := by
  unfold State.cwPut
  dsimp only
  split
  case h_27 => exact h.upCCRest
  all_goals exact h.same

theorem Canonical.cwWait {ix : Nat} {o : CwOp} {v : Word} (h : Canonical s) : CanonicalOut (s.cwWait ix o v) :=
  Canonical.again (.ite h.upMe h)

theorem CanonicalCC.nxmPut {c : CC} {o : CwOp} {v : Word} (h : CanonicalCC c) : CanonicalCC (c.nxmPut o v) := h.retag

theorem Canonical.nxmWrite {o : CwOp} {v : Word} (h : Canonical s) : Canonical (s.nxmWrite o v) := by
  unfold State.nxmWrite
  refine h.foldl fun s1 x1 h1 => ?_
  refine .ite (h1.upCC fun _ hc => hc.nxmPut) ?_
  split
  · exact (h1.upCC fun _ hc => hc.nxmPut).asTk fun _ h2 => h2.done
  · exact h1

theorem Canonical.cwWrite {w : BitVec 32} {o : CwOp} {a : Reg} {x : BitVec 10} (h : Canonical s) : CanonicalOut (cwWrite w o a x s) := by
  unfold Machine.cwWrite
  extract_lets
  split
  · exact h.illegal
  · exact .ite h.privFault (.ite h.illegal (.ite h.cwWait (.ite h.nxmWrite.done (.ite h.upMe.done h.cwPut.done))))

theorem Canonical.execCrd {d : Reg} {x : BitVec 10} (h : Canonical s) : CanonicalOut (execCrd d x s) := by
  unfold Machine.execCrd
  extract_lets
  split
  · exact h.illegal
  · exact .ite h.privFault (.ite h.again h.putInt.doneD)

/-! ### Images -/

theorem Canonical.getOps {cc x : Nat} (h : Canonical s) : Canonical (s.getOps cc x) := h.upCCRest.foldl fun _ _ h1 => h1.push

/-! ### Barriers -/

theorem Canonical.upBarAt {tk x2 : Nat} {f : BarSt → BarSt} (h : Canonical s) : Canonical (s.upBarAt tk x2 f) := by
  unfold State.upBarAt
  split
  · exact h.upT
  · split
    · exact h
    · exact h.wr00

theorem Canonical.pennantOut {c : ChanSt} {cid : Nat} {st : BitVec 32} (h : Canonical s) : Canonical (s.pennantOut c cid st) :=
  .ite h (.ite (h.getD fun _ e => h.hwWrite e) h)

theorem Canonical.imageStep {tk x2 : Nat} {res st : BitVec 32} (h : Canonical s) : Canonical (s.imageStep tk x2 res st) := by
  unfold State.imageStep
  extract_lets
  split
  · exact h
  · exact .ite h.trace h

theorem Canonical.tellMember {ch x2 tk : Nat} {res st : BitVec 32} (h : Canonical s) : Canonical (s.tellMember ch x2 tk res st) := by
  unfold State.tellMember
  extract_lets s1
  have h1 : Canonical s1 := h.upBarAt
  split
  · exact h1.imageStep
  · extract_lets s2
    have h2 : Canonical s2 := .ite h1.trace h1
    split
    · exact .ite h2.push h2
    · split
      · exact .ite h2.push h2
      · exact .ite h2.push h2
      · exact h2

theorem Canonical.complete {ch : Nat} (h : Canonical s) : Canonical (s.complete ch) := by
  unfold State.complete
  extract_lets
  split
  · exact h
  · extract_lets s1 _ _ s2 s3 s4
    have h1 : Canonical s1 := h.pennantOut
    have h2 : Canonical s2 := h1.upChan
    have h3 : Canonical s3 := h2.same
    have h4 : Canonical s4 := h3.foldl fun _ _ h4 => h4.tellMember
    exact .ite h4.push h4

theorem Canonical.execBarrierArrival {v : Arrival} (h : Canonical s) : CanonicalOut (execBarrierArrival v s) :=
  .ite h (Canonical.ite h.upChan.complete h.upChan)

theorem Canonical.barCheck {i : Instr} {x2 : Nat} {member : Bool} {k : Nat → Out} (h : Canonical s) (hk : ∀ x1, CanonicalOut (k x1)) :
    CanonicalOut (s.barCheck i x2 member k) := by
  unfold State.barCheck
  refine h.notSys ?_
  split
  · exact h.illegal
  · exact .ite h.illegal (hk _)

theorem Canonical.arrive {ch x2 vote : Nat} {leave : Bool} (h : Canonical s) : CanonicalOut (s.arrive ch x2 vote leave) :=
  .ite h.startWait h.upA.relStep.push.done

theorem Canonical.holdMember {tk x2 : Nat} (h : Canonical s) : Canonical (s.holdMember tk x2) := by
  unfold State.holdMember
  split
  · exact h
  · exact .ite h.upChan.upT.push h

theorem Canonical.barwDone {x1 : Nat} {d : Reg} (h : Canonical s) : Canonical (s.barwDone x1 d) :=
  h.putInt.upA.upMe.doneD.acquire.holdMember

theorem Canonical.barw {x1 : Nat} {d : Reg} (h : Canonical s) : CanonicalOut (s.barw x1 d) := .ite h.startWait h.barwDone

theorem Canonical.cross {ch x2 : Nat} {d : Reg} (h : Canonical s) : Canonical (s.cross ch x2 d) := h.upMe.retire

theorem Canonical.execBarwWake {tk : Nat} (h : Canonical s) : CanonicalOut (execBarwWake tk s) := by
  unfold Machine.execBarwWake
  split
  · exact .ite (h.offSlot (fun _ h1 => h1.asTk (fun _ h2 => h2.barwDone))) h
  · exact .ite h.upT h
  · exact h

theorem Canonical.drainHeld {tk : Nat} (h : Canonical s) : Canonical (s.drainHeld tk) :=
  h.upCore.foldl fun _ _ h1 => Canonical.push (.ite h1.dropL1.relStep h1.dropL1)

theorem Canonical.execSpecCommit {tk : Nat} (h : Canonical s) : CanonicalOut (execSpecCommit tk s) := by
  unfold Machine.execSpecCommit
  split
  · exact h
  · extract_lets _ _ _ _ _ s1 s2 s3 s4 s5
    have h1 : Canonical s1 := h.upT
    have h2 : Canonical s2 := h1.acquire
    have h3 : Canonical s3 := h2.same
    have h4 : Canonical s4 := h3.same
    have h5 : Canonical s5 := h4.drainHeld.holdMember
    exact .ite h (Canonical.ite h5.upT h5)

theorem Canonical.execSpecAbort {tk ch gen : Nat} (h : Canonical s) : CanonicalOut (execSpecAbort tk ch gen s) := by
  unfold Machine.execSpecAbort
  split
  · exact h
  · exact .ite h.abortSpec h

/-! ### Streams -/

theorem Canonical.upSend {cc p : Nat} {f : SendPort → SendPort} (h : Canonical s) : Canonical (s.upSend cc p f) := h.upCCRest

theorem Canonical.upRecv {cc p : Nat} {f : RecvPort → RecvPort} (h : Canonical s) : Canonical (s.upRecv cc p f) := h.upCCRest

theorem Canonical.wakeRecv {cc p : Nat} (h : Canonical s) : Canonical (s.wakeRecv cc p) := by
  unfold State.wakeRecv
  refine h.foldl fun s1 x1 h1 => ?_
  extract_lets
  split
  · split
    · exact .ite h1.pushAt h1
    · exact h1
  · exact h1

theorem Canonical.pushLast {e : Ev} (h : Canonical s) : Canonical (s.pushLast e) := h.same

theorem Canonical.dropCredits {cc p : Nat} (h : Canonical s) : Canonical (s.dropCredits cc p) := h.dropPend

theorem Canonical.sendCredit {src sp route n : Nat} (h : Canonical s) : Canonical (s.sendCredit src sp route n) := .ite h h.push

theorem Canonical.bindRoute {cc p : Nat} {f : Flit} (h : Canonical s) : Canonical (s.bindRoute cc p f) := h.upRecv.sendCredit

theorem Canonical.bindNext {cc p : Nat} (h : Canonical s) : Canonical (s.bindNext cc p) := by
  unfold State.bindNext
  extract_lets
  split
  · exact h
  · exact .ite h.upRecv.bindRoute h

theorem Canonical.sendFurl {cc p : Nat} (h : Canonical s) : Canonical (s.sendFurl cc p) := h.dropCredits.push.upSend

theorem Canonical.tornSend {p : Nat} (h : Canonical s) : Canonical (s.tornSend p) := .ite h.trap h.upSend.trap

theorem Canonical.recv {d : Reg} {p : Nat} (h : Canonical s) : Canonical (s.recv d p) := by
  unfold State.recv
  extract_lets _ _ s1 s2
  have h1 : Canonical s1 := h.upRecv
  have h2 : Canonical s2 := h1.upMe.putInt.doneD
  split
  · exact h
  · exact .ite h.upMe.trap (Canonical.upMe (.ite h.upRecv.bindNext h)).trap
  · exact h2.acquire

theorem Canonical.execRecv {d : Reg} {p : BitVec 2} (h : Canonical s) : CanonicalOut (execRecv d p s) := by
  unfold Machine.execRecv
  refine h.notSys ?_
  split
  · exact h.recv
  · exact h.startWait.pushAt
  · exact h.startWait

theorem Canonical.execRrls {a : Reg} {p : BitVec 2} (h : Canonical s) : CanonicalOut (execRrls a p s) := by
  unfold Machine.execRrls
  refine h.notSys (.ite h.trap (.ite h.trap (Canonical.done ?_)))
  split
  · exact .ite h.upRecv h.upRecv.sendCredit
  · exact h.upRecv

theorem Canonical.execGuidonArrival {f : Flit} (h : Canonical s) : CanonicalOut (execGuidonArrival f s) :=
  .ite (.ite h.upRecv h) h.upRecv.bindNext

theorem Canonical.tear {f : Flit} (h : Canonical s) : Canonical (s.tear f) :=
  (Canonical.upSend (.ite h.dropCredits h)).dropPend.upRecv.wakeRecv

theorem Canonical.execDataFlitLand {f : Flit} (h : Canonical s) : CanonicalOut (execDataFlitLand f s) := by
  unfold Machine.execDataFlitLand
  refine .ite h ?_
  extract_lets _ s1
  have h1 : Canonical s1 := h.upCC fun _ h1 => h1.locWrite
  split
  · exact h1.upRecv.wakeRecv
  · exact h
  · exact h.tear

theorem Canonical.execFurlLand {f : Flit} (h : Canonical s) : CanonicalOut (execFurlLand f s) := .ite h h.upSend.upRecv.bindNext.wakeRecv

theorem Canonical.execPauseFlitLand {f : Flit} (h : Canonical s) : CanonicalOut (execPauseFlitLand f s) := .ite h.upRecv h

theorem Canonical.execCreditArrival {cc port n : Nat} (h : Canonical s) : CanonicalOut (execCreditArrival cc port n s) := .ite h.upSend h

theorem Canonical.execRouteTear {cc port : Nat} (h : Canonical s) : CanonicalOut (execRouteTear cc port s) := by
  unfold Machine.execRouteTear
  split
  · exact h.tear
  · exact h

theorem Canonical.execRecvWake {tk : Nat} (h : Canonical s) : CanonicalOut (execRecvWake tk s) := by
  unfold Machine.execRecvWake
  split
  · exact h.offSlot fun _ h1 => h1.asTk (fun _ h2 => h2.recv)
  · exact h

end
end Sys2Proof.Claims
end

section
/-! # Every step keeps the byte stores canonical: the tasks, the contexts, the registers and the step -/

set_option Elab.async false

namespace Sys2Proof.Claims

open Sys2Proof.Machine

section
variable {s t : State}

/-! ### Tasks -/

theorem Canonical.signal {f v : Nat} (h : Canonical s) : Canonical (s.signal f v) := .ite h (.ite (.ite h h.same) h.same)

theorem Canonical.setQw {p q i : Nat} {w : Word} (h : Canonical s) : Canonical (s.setQw p q i w) := h.wrWord

theorem Canonical.qErr {p q : Nat} (h : Canonical s) : Canonical (s.qErr p q) := h.setQw

theorem Canonical.number {p q lo hi : Nat} (h : Canonical s) : Canonical (s.number p q lo hi) := h.foldl fun _ _ h1 => h1.upPart

theorem Canonical.signalQ {p q : Nat} (h : Canonical s) : Canonical (s.signalQ p q) := .ite h.signal h

theorem Canonical.startTerm {d cid : Nat} {why : Option (Nat × Word)} (h : Canonical s) : Canonical (s.startTerm d cid why) :=
  .ite h (.ite h.upDie h.same.upDie.push)

theorem Canonical.dispFail {p cid : Nat} (h : Canonical s) : Canonical (s.dispFail p cid) := h.startTerm

theorem Canonical.getRec {p cid : Nat} {va : Word} (h : Canonical s) : Canonical (s.getRec p cid va).2 := by
  unfold State.getRec
  split
  · exact h
  · split
    · rename_i s1 e1
      exact h.xlatHw.snd e1
    · rename_i s1 e1
      have h1 : Canonical s1 := h.xlatHw.snd e1
      split
      · exact h1
      · exact h1.noteN.upPart

theorem Canonical.predAdd {p cid : Nat} {va d : Word} (h : Canonical s) (e : s.predAdd p cid va d = some t) : Canonical t := by
  unfold State.predAdd at e
  split at e
  · cases e
  · rename_i s1 e1
    have h1 : Canonical s1 := h.xlatHw.snd e1
    split at e
    rename_i s2 e2
    have h2 : Canonical s2 := h1.heal.homeRead.snd e2
    cases e
    exact h2.hwNote.collapse.homeWrite.upPart

theorem Canonical.succAdd {p : Nat} {l : Launch} {d : Word} (h : Canonical s) : Canonical (s.succAdd p l d).2 := by
  unfold State.succAdd
  split
  · exact h
  · split
    · rename_i s1 e1
      exact h.predAdd e1
    · exact h.dispFail

theorem Canonical.fqAt {p : Nat} {e : FqEnt} {va : Word} {k : AccessKind} (h : Canonical s) : Canonical (s.fqAt p e va k).2 := by
  unfold State.fqAt
  split
  · exact h
  · split
    · rename_i s1 e1
      exact h.xlatHw.snd e1
    · rename_i s1 e1
      exact h.xlatHw.snd e1

theorem Canonical.fqTry {p : Nat} {x : FqEnt} (h : Canonical s) (e : s.fqTry p x = .done t) : Canonical t := by
  unfold State.fqTry at e
  split at e
  · cases e
  · split at e
    · rename_i s1 e1
      have h1 : Canonical s1 := h.fqAt.snd e1
      dsimp only at e
      split at e
      · cases e
      · split at e
        · rename_i s2 e2
          have h2 : Canonical s2 := h1.noteN.fqAt.snd e2
          cases e
          exact h2.wrBy.wrBy
        · cases e
    · cases e

theorem Canonical.execFaultQueueWrite {part : Nat} (h : Canonical s) : CanonicalOut (execFaultQueueWrite part s) := by
  unfold Machine.execFaultQueueWrite
  split
  · exact h
  · extract_lets out s1
    have h1 : Canonical s1 := by
      unfold s1
      split
      · rename_i s2 e2
        exact (h.fqTry e2).upPart.signalQ
      · exact h
      · exact .ite h.upPart.dispFail (.ite h.upPart.signalQ.qErr h.upPart)
    exact Canonical.ite h1 h1.push

theorem Canonical.detachAll {cc : Nat} (h : Canonical s) : Canonical (s.detachAll cc) := by
  unfold State.detachAll
  refine h.foldl fun s1 x1 h1 => ?_
  split
  · exact h1.release
  · exact h1

theorem Canonical.returnChan {ch : Nat} (h : Canonical s) : Canonical (s.returnChan ch) := by
  unfold State.returnChan
  extract_lets s1
  have h1 : Canonical s1 := h.upChan
  exact h1.same

theorem Canonical.complete? {p cid seq : Nat} (h : Canonical s) : Canonical (s.complete? p cid seq) := by
  unfold State.complete?
  split
  · exact h
  · refine .ite h (.ite (((h.foldl (fun _ _ h1 => h1.detachAll)).foldl (fun _ _ h1 => h1.returnChan)).foldl ?_).upPart.signalQ ?_)
    · intro s1 x1 h1
      split
      rename_i s2 e1
      have h2 : Canonical s2 := h1.getTcb.snd e1
      exact h2.putTcb
    · split
      · rename_i s1 e1
        have h1 : Canonical s1 := by
          refine (((h.foldl (fun _ _ h1 => h1.detachAll)).foldl (fun _ _ h1 => h1.returnChan)).foldl ?_).upPart.xlatHw.snd e1
          intro s2 x1 h1
          split
          rename_i s3 e2
          have h2 : Canonical s3 := h1.getTcb.snd e2
          exact h2.putTcb
        split
        · rename_i s2 e2
          have h2 : Canonical s2 := h1.hwNote.heal.ctrAdd.snd e2
          exact h2.signalQ
        · rename_i s2 e2
          have h2 : Canonical s2 := h1.hwNote.heal.ctrAdd.snd e2
          exact h2.dispFail
      · rename_i s1 e1
        have h1 : Canonical s1 := by
          refine (((h.foldl (fun _ _ h1 => h1.detachAll)).foldl (fun _ _ h1 => h1.returnChan)).foldl ?_).upPart.xlatHw.snd e1
          intro s2 x1 h1
          split
          rename_i s3 e2
          have h2 : Canonical s3 := h1.getTcb.snd e2
          exact h2.putTcb
        exact h1.dispFail

theorem Canonical.completeAll {p : Nat} (h : Canonical s) : Canonical (s.completeAll p) :=
  h.foldl (fun _ _ h1 => .ite (h1.unlessHeld (fun _ h2 => h2.complete?)) h1)

theorem Canonical.endTask {p tcb : Nat} (h : Canonical s) : Canonical (s.endTask p tcb) := by
  unfold State.endTask
  split
  · exact h
  · split
    · exact h
    · split
      · rename_i s1 e1
        exact h.succAdd.snd e1
      · rename_i s1 e1
        have h1 : Canonical s1 := h.succAdd.snd e1
        split
        rename_i s2 e2
        have h2 : Canonical s2 := h1.getTcb.snd e2
        exact h2.putTcb.upTask.upPart.complete?

theorem Canonical.attachImage {cc : Nat} {nxm : Bool} {i : BankImage} (h : Canonical s) (hi : Memory.wf i.data = true) :
    Canonical (s.attachImage cc nxm i) := by
  unfold State.attachImage
  split
  · exact h.attach hi
  · exact (h.setSlot (.attached hi)).wakeBwait.refillBank

theorem Canonical.imagesOf {cid : Nat} {entry : Word} {i : BankImage} (h : Canonical s) (hi : i ∈ s.imagesOf cid entry) :
    Memory.wf i.data = true :=
  h.2.2.1 i (List.mem_of_mem_filter hi)

theorem Canonical.firstBind {p cc : Nat} {l : Launch} (h : Canonical s) : Canonical (s.firstBind p cc l).2 := by
  unfold State.firstBind
  split
  · exact h
  · extract_lets s1 is
    have h1 : Canonical s1 := h.upPart
    split
    · exact h1
    · exact h1.foldlMem fun s2 i hi h2 => h2.attachImage (h1.imagesOf hi)

theorem Canonical.withdraw {p tk : Nat} (h : Canonical s) : Canonical (s.withdraw p tk) := h.upPart

theorem Canonical.bindTask {p tk : Nat} {k : Machine.Task} {l : Launch} (h : Canonical s) : Canonical (s.bindTask p tk k l) := by
  unfold State.bindTask
  extract_lets pos cc
  split
  rename_i s1 e1
  have h1 : Canonical s1 := h.getTcb.snd e1
  extract_lets s2
  have h2 : Canonical s2 := .ite h1 (h1.upCC fun _ hc => hc.retag)
  split
  rename_i s3 e3
  have h3 : Canonical s3 := h2.firstBind.snd e3
  extract_lets s4 s5 s6 s7 s8
  have h7 : Canonical s7 := h3.upT.putTcb.upTask.withdraw
  have h8 : Canonical s8 := .ite h7.evt h7
  split
  · exact h8.parkFault
  · exact h8

theorem Canonical.execTaskBind {pos : Nat} (h : Canonical s) : CanonicalOut (execTaskBind pos s) := by
  unfold Machine.execTaskBind
  split
  · exact h
  · extract_lets
    split
    · exact h
    · split
      · exact h
      · exact h.bindTask

theorem Canonical.execSplitRequest {pos : Nat} (h : Canonical s) : CanonicalOut (execSplitRequest pos s) := by
  unfold Machine.execSplitRequest
  refine .ite h ?_
  split
  · exact h
  · extract_lets
    split
    · exact h
    · exact h.upTask.pushAt

theorem Canonical.execSplitWithdrawTimeout {part tcb : Nat} (h : Canonical s) : CanonicalOut (execSplitWithdrawTimeout part tcb s) :=
  h.upTask

theorem Canonical.newTask {p : Nat} {l : Launch} {tcb : Nat × Word} {pos lo hi : Nat} {split : Bool} (h : Canonical s) :
    Canonical (s.newTask p l tcb pos lo hi split) :=
  h.upPart.putTcb

theorem Canonical.split? {p : Nat} {k : Machine.Task} {l : Launch} {r : Option Nat} (h : Canonical s) (e : s.split? p k l = some (r, t)) :
    Canonical t := by
  unfold State.split? at e
  dsimp only at e
  split at e
  · split at e
    · cases e
    · split at e <;> rename_i s1 e1 <;> have h1 : Canonical s1 := h.succAdd.snd e1 <;> cases e
      · exact h1
      · exact h1.upPart.newTask.upTask.push
  · cases e

theorem Canonical.execRtnext {d : Reg} (h : Canonical s) : CanonicalOut (execRtnext d s) := by
  unfold Machine.execRtnext
  refine h.notSys ?_
  extract_lets
  split
  rename_i s1 e1
  have h1 : Canonical s1 := by
    refine Canonical.snd ?_ e1
    split
    · exact h
    · split
      · exact h
      · split
        · exact h
        · split
          · rename_i s2 e2
            exact (h.split? e2).upA
          · rename_i s2 e2
            exact h.split? e2
          · exact h
  extract_lets a s2 s3 s4
  have h3 : Canonical s3 := by
    unfold s3
    split
    · exact h1.upA
    · exact h1.upA.upTask
  have h4 : Canonical s4 := h3.putInt
  exact Canonical.doneD (.ite h4 h4.soon)

theorem Canonical.execTspawn {d a : Reg} (h : Canonical s) : CanonicalOut (execTspawn d a s) :=
  h.notSys (h.planned (fun _ _ h1 => h1.watched (h1.foldl (fun _ _ h2 => h2.relStep.startWait.push))))

theorem Canonical.append {tk : Nat} {va : Word} {pa home : Nat} (h : Canonical s) : Canonical (s.append tk va pa home).2 := by
  unfold State.append
  extract_lets p s1 q w3 hd tl
  have h1 : Canonical s1 := h.hwNote
  refine .iteSnd h1 (.iteSnd (.pair h1.qErr) (.iteSnd h1 ?_))
  split
  · exact .pair h1.qErr
  · rename_i s2 e2
    exact .pair (h1.hwWrite e2).setQw.number

theorem Canonical.execTspawnStatus {tk : Nat} (h : Canonical s) : CanonicalOut (execTspawnStatus tk s) := by
  unfold Machine.execTspawnStatus
  split
  · split
    rename_i s1 e1
    have h1 : Canonical s1 := h.append.snd e1
    exact h1.finishD
  · exact h

theorem Canonical.tsyncTcb {p cid pa : Nat} (h : Canonical s) : Canonical (s.tsyncTcb p cid pa) := by
  unfold State.tsyncTcb
  split
  · exact h
  · refine .ite h ?_
    split
    rename_i s1 e1
    have h1 : Canonical s1 := h.getTcb.snd e1
    exact .ite h1.putTcb.upTask (.ite h1.endTask h1)

theorem Canonical.execTsyncAck {tk : Nat} (h : Canonical s) : CanonicalOut (execTsyncAck tk s) := by
  unfold Machine.execTsyncAck
  extract_lets
  split
  · refine .ite h.upPart.finish ?_
    split
    · rename_i s1 e1
      have h1 : Canonical s1 := h.site.snd e1
      exact h1.upPart.tsyncTcb.finish
    · rename_i s1 e1
      have h1 : Canonical s1 := h.site.snd e1
      exact h1.upT.waitTrap
    · rename_i s1 e1
      exact h.site.snd e1
    · rename_i s1 e1
      exact h.site.snd e1
  · exact h

theorem Canonical.tdoneEnd {tk : Nat} (h : Canonical s) : Canonical (s.tdoneEnd tk) := by
  unfold State.tdoneEnd
  extract_lets
  split
  · exact h.upT
  · exact h.upT.endTask.push

theorem Canonical.yieldTo {tk : Nat} {pc : Word} {w : Option (Nat × Nat × Word)} (h : Canonical s) : Canonical (s.yieldTo tk pc w) :=
  .ite h.park.same.trace h.park

theorem Canonical.doneNoStep {len : Nat} (h : Canonical s) : Canonical (s.doneNoStep len) := h.upMe.done.upMe

theorem Canonical.execYield (h : Canonical s) : CanonicalOut (execYield s) := by
  unfold Machine.execYield
  refine h.notSys ?_
  extract_lets _ _ s1 s2
  have h1 : Canonical s1 := h.doneNoStep
  have h2 : Canonical s2 := h1.yieldTo
  split
  · exact h.done
  · refine .ite h.again ?_
    split
    · exact h2
    · exact h2.bindTask

theorem Canonical.execYieldPark {tk : Nat} (h : Canonical s) : CanonicalOut (execYieldPark tk s) := by
  unfold Machine.execYieldPark
  split
  · exact h
  · exact h.unregister.dropPend.yieldTo.push

theorem Canonical.headVa {p q : Nat} (h : Canonical s) : Canonical (s.headVa p q).2 := by
  unfold State.headVa
  split
  · rename_i s1 e1
    exact h.learn.hwRead.snd e1
  · rename_i s1 e1
    exact h.learn.hwRead.snd e1

theorem Canonical.admWaiters {p : Nat} (h : Canonical s) : Canonical (s.admWaiters p) := by
  unfold State.admWaiters
  refine h.foldl fun s1 x1 h1 => ?_
  split
  · exact .ite h1 h1.upSlice
  · exact h1

theorem Canonical.popHead {p q : Nat} (h : Canonical s) : Canonical (s.popHead p q) := h.setQw

theorem Canonical.refuse {p q : Nat} {va fq : Word} {code : Nat} (h : Canonical s) : Canonical (s.refuse p q va fq code) :=
  h.popHead.upPart.push

theorem Canonical.grantChan {p cid seq : Nat} {x : BitVec 2048} {x5 : Nat} (h : Canonical s) : Canonical (s.grantChan p cid seq x x5) :=
  h.upChan.foldl fun _ _ h1 => .ite h1.upBarAt h1

theorem Canonical.step5 {p : Nat} {a : Adm} (h : Canonical s) : Canonical (s.step5 p a) := by
  unfold State.step5
  extract_lets cid seq ts l free s1 s2 s3 s4 s5
  have h2 : Canonical s2 := h.upPart.foldl fun _ _ h => h.newTask
  have h3 : Canonical s3 := h2.foldl fun _ _ h => h.grantChan
  have h5 : Canonical s5 := h3.succAdd.popHead
  exact .ite h5.complete? h5

theorem Canonical.noteHead {p q : Nat} (h : Canonical s) : Canonical (s.noteHead p q) := by
  unfold State.noteHead
  extract_lets _ s1
  have h1 : Canonical s1 := h.noteN
  split
  · rename_i s2 e1
    exact h1.headVa.snd e1
  · rename_i s2 e1
    have h2 : Canonical s2 := h1.headVa.snd e1
    extract_lets s3 s4
    have h3 : Canonical s3 := h2.hwRead
    have h4 : Canonical s4 := h3.hwRead
    split
    · exact h4.hwNote
    · exact h4

theorem Canonical.takeHead {p q : Nat} (h : Canonical s) : Canonical (s.takeHead p q) := by
  unfold State.takeHead
  extract_lets _ s1 s2
  have h1 : Canonical s1 := h.upPart
  have h2 : Canonical s2 := h1.noteHead
  split
  · rename_i s3 e1
    have h3 : Canonical s3 := h2.headVa.snd e1
    exact h3.refuse
  · rename_i s3 e1
    have h3 : Canonical s3 := h2.headVa.snd e1
    split
    · exact h3
    · exact h3.refuse
    · split
      · rename_i s4 e2
        have h4 : Canonical s4 := h3.getRec.snd e2
        exact h4.refuse
      · rename_i s4 e2
        have h4 : Canonical s4 := h3.getRec.snd e2
        split
        · exact h4.refuse
        · exact .ite h4.step5 h4.upPart

theorem Canonical.execAdmission {part : Nat} (h : Canonical s) : CanonicalOut (execAdmission part s) := by
  unfold Machine.execAdmission
  refine .ite h ?_
  extract_lets s1
  have h1 : Canonical s1 := h.admWaiters
  split
  · exact h1
  · exact h1.takeHead

theorem Canonical.execAdmissionWaitEnd {part : Nat} (h : Canonical s) : CanonicalOut (execAdmissionWaitEnd part s) := by
  unfold Machine.execAdmissionWaitEnd
  split
  · exact .ite h.step5 h
  · exact h.execAdmission

/-! ### Contexts -/

theorem Canonical.clearIrq {tk code : Nat} (h : Canonical s) : Canonical (s.clearIrq tk code) := .ite h.upCtx h.upT

theorem Canonical.abandonWait {tk : Nat} (h : Canonical s) : Canonical (s.abandonWait tk) := by
  unfold State.abandonWait
  extract_lets
  split
  · exact h
  · refine (Canonical.dropPend ?_).upT
    split
    · exact h.unmark.unreserve
    · exact h.unmark
    · exact h.unregister
    · exact h

theorem Canonical.undoLong {tk : Nat} (h : Canonical s) : Canonical (s.undoLong tk) := by
  unfold State.undoLong
  split
  · exact h
  · exact .ite h h.upT

theorem Canonical.execInterruptDelivery {tk : Nat} (h : Canonical s) : CanonicalOut (execInterruptDelivery tk s) := by
  unfold Machine.execInterruptDelivery
  refine .ite h ?_
  split
  · exact h
  · exact h.abortSpec.undoLong.abandonWait.clearIrq.enterHandler

theorem Canonical.execIpost {lines : BitVec 8} {pos cid : Nat} (h : Canonical s) : CanonicalOut (execIpost lines pos cid s) :=
  .ite h (Canonical.ite h.learn.postIrq h.learn)

theorem Canonical.putImage {cid core : Nat} (h : Canonical s) : Canonical (s.putImage cid core) := by
  unfold State.putImage
  extract_lets
  split
  · exact h
  · exact (h.foldl (fun _ _ h1 => h1.wr00)).wr00

theorem Canonical.streamIn {cid core : Nat} (h : Canonical s) : Canonical (s.streamIn cid core) :=
  (Canonical.foldl (.ite (h.learn.upCtx.foldl (fun _ _ h1 => h1.setT)).upCCRest.getOps
    (h.learn.upCtx.foldl (fun _ _ h1 => h1.setT)).upCCRest) (fun _ _ h1 => h1.upCtx)).upCore

theorem Canonical.unlearn {cid : Nat} (h : Canonical s) : Canonical (s.unlearn cid) := .ite h h.upCtx.wr00

theorem Canonical.streamOut {cid core : Nat} (h : Canonical s) : Canonical (s.streamOut cid core) := by
  unfold State.streamOut
  extract_lets s1 s2 s3 s4 s5
  have h3 : Canonical s3 := (h.foldl fun _ _ h => h.upT).putImage.foldl fun _ _ h => h.upCtx
  clear_value s3
  have h4 : Canonical s4 := h3.same
  clear_value s4
  exact h4.upCtx.unlearn.upCore

theorem Canonical.startLoad {core cid : Nat} (h : Canonical s) : Canonical (s.startLoad core cid) := by
  unfold State.startLoad
  split <;> exact h.upCore.pushAt

theorem Canonical.nextLoad {core : Nat} (h : Canonical s) : Canonical (s.nextLoad core) := by
  unfold State.nextLoad
  split
  · exact h.upCore.startLoad
  · exact h.upCore

theorem Canonical.execCnextLoad {core cid : Nat} (h : Canonical s) : CanonicalOut (execCnextLoad core cid s) :=
  .ite (Canonical.ite h.upCore h) (Canonical.ite h.startLoad h)

theorem Canonical.execContextStreamEnd {core : Nat} (h : Canonical s) : CanonicalOut (execContextStreamEnd core s) := by
  unfold Machine.execContextStreamEnd
  split
  · exact h
  · exact h.streamIn.nextLoad
  · exact .ite h.pushAt h.streamOut.nextLoad

theorem Canonical.stopTs {tk : Nat} (h : Canonical s) : Canonical (s.stopTs tk) := by
  unfold State.stopTs
  extract_lets s1
  have h1 : Canonical s1 := h.abortSpec.undoLong
  split
  · exact h1
  · exact h1.finish
  · exact .ite h1 h1.abandonWait

theorem Canonical.stopEngines {cc : Nat} (h : Canonical s) : Canonical (s.stopEngines cc) := by
  unfold State.stopEngines
  refine h.foldl fun s1 x1 h1 => ?_
  split
  · exact .ite h1.dropPend.upCl.upCCRest h1
  · refine h1.foldl fun s2 x2 h2 => ?_
    split
    · exact .ite (Canonical.upCopy (.ite h2.dropPend h2)) (.ite (Canonical.upCopy (.ite h2.dropPend h2)).push (.ite h2.dropPend h2))
    · exact h2

theorem Canonical.pauseRoutes {cc : Nat} (h : Canonical s) : Canonical (s.pauseRoutes cc) :=
  h.foldl fun _ _ h1 => .ite h1.pushLast.upSend h1

theorem Canonical.resumeRoutes {cc : Nat} (h : Canonical s) : Canonical (s.resumeRoutes cc) :=
  h.foldl fun _ _ h1 => .ite h1.pushLast.upSend h1

theorem Canonical.withdrawCore {p core : Nat} (h : Canonical s) : Canonical (s.withdrawCore p core) := h.upPart

theorem Canonical.deactivate {core : Nat} (h : Canonical s) : Canonical (s.deactivate core) := by
  unfold State.deactivate
  split
  · exact h
  · exact (h.foldl (fun _ _ h1 => h1.stopTs.upT)).sendRes.stopEngines.pauseRoutes.withdrawCore.upCore

theorem Canonical.activate {core cid : Nat} (h : Canonical s) : Canonical (s.activate core cid) :=
  (h.upCore.foldl (fun _ _ h1 => h1.refillBank)).resumeRoutes.foldl fun _ _ h1 => .ite h1.acquire.upT.trace h1.acquire.upT

theorem Canonical.wantSwitch {core : Nat} (h : Canonical s) : Canonical (s.wantSwitch core) := h.upCore.push

theorem Canonical.execCnextSwitch {core : Nat} (h : Canonical s) : CanonicalOut (execCnextSwitch core s) := .ite h h.wantSwitch

theorem Canonical.execPreemption {core : Nat} (h : Canonical s) : CanonicalOut (execPreemption core s) := by
  unfold Machine.execPreemption
  refine .ite h ?_
  split
  · exact h
  · exact h.deactivate.activate

theorem Canonical.execCtermGo {die cid : Nat} (h : Canonical s) : CanonicalOut (execCtermGo die cid s) :=
  .ite h (.ite h.learn.upDie.startTerm.upDie h.learn.upDie)

theorem Canonical.tearPiece {cc : Nat} {e : EngOp} {c : CopyOp} {p : Piece} (h : Canonical s) : Canonical (s.tearPiece cc e c p) := by
  unfold State.tearPiece
  split
  · exact .ite h h.same.wrReq
  · exact h

theorem Canonical.tearCopies {cc : Nat} (h : Canonical s) : Canonical (s.tearCopies cc) := by
  unfold State.tearCopies
  refine h.foldl fun s1 x1 h1 => ?_
  split
  · exact h1
  · exact h1.foldl (fun _ _ h2 => .ite (h2.foldl (fun _ _ h3 => h3.tearPiece)) h2)

theorem Canonical.endCores {cid : Nat} (h : Canonical s) : Canonical (s.endCores cid) := by
  unfold State.endCores
  extract_lets ccs cut _ s1 s2
  have h1 : Canonical s1 := h.foldl fun s2 cc h2 =>
    (h2.tearCopies.stopEngines.foldl fun _ _ h => h.release).upCC fun _ _ => CanonicalCC.reset.same
  have h2 : Canonical s2 := h1.same
  exact h2.dropPend.foldl fun _ _ h => h.dropPend.nextLoad

theorem Canonical.endQueues {p cid : Nat} (h : Canonical s) : Canonical (s.endQueues p cid) := by
  unfold State.endQueues
  extract_lets chs s1 s2 mine s3
  have h2 : Canonical s2 := (h.foldl fun _ _ h => h.returnChan).foldl fun _ _ h => .ite h.setQw h
  exact h2.setSlices.upPart

theorem Canonical.endCtx {p cid : Nat} {why : Option (Nat × Word)} (h : Canonical s) : Canonical (s.endCtx p cid why) := by
  unfold State.endCtx
  extract_lets s1 _ _ s2
  have h1 : Canonical s1 := by
    refine h.foldl fun s3 x1 h1 => ?_
    split
    · exact h1.dropTlb
    · exact h1
  have h2 : Canonical s2 := h1.wrWord.upCtx
  split
  · exact h2
  · exact .ite h2 h2.learn.upCtx.signal

theorem Canonical.endBusy {cid : Nat} (h : Canonical s) : Canonical (s.endBusy cid) := by
  unfold State.endBusy
  refine (h.foldl (fun _ _ h1 => h1.upDie)).foldl fun s1 x1 h1 => ?_
  split
  · exact h1.upDie.startTerm
  · exact h1

theorem Canonical.execTerminationDone {die : Nat} (h : Canonical s) : CanonicalOut (execTerminationDone die s) :=
  .ite (Canonical.ite h.dropPend h) (Canonical.endCores (.ite h.dropPend h)).endQueues.endCtx.endBusy

theorem Canonical.tlbDrop {tk form sc cl : Nat} {va : Word} (h : Canonical s) : Canonical (s.tlbDrop tk form sc cl va) := by
  unfold State.tlbDrop
  split
  exact .ite h.upCore h.dropTlb

theorem Canonical.execTlbinvAck {tk cluster : Nat} (h : Canonical s) : CanonicalOut (execTlbinvAck tk cluster s) := by
  unfold Machine.execTlbinvAck
  split
  · exact .ite h.tlbDrop.pushAt (.ite h.tlbDrop.finish h.tlbDrop.upT)
  · exact h

theorem Canonical.tlbSend {tk f sc : Nat} {va : Word} (h : Canonical s) : Canonical (s.tlbSend tk f sc va) :=
  .ite (Canonical.finish (.ite h.same h)) ((Canonical.upT (.ite h.same h)).foldl (fun _ _ h1 => h1.push))

theorem Canonical.execPageWalkDone {w : WalkReq} (h : Canonical s) : CanonicalOut (execPageWalkDone w s) := by
  unfold Machine.execPageWalkDone
  refine .ite h ?_
  split
  · rename_i s1 e1
    have h1 : Canonical s1 := h.walkFill.snd2 e1
    exact h1.upCore
  · rename_i s1 _ e1
    exact h.walkFill.snd2 e1

/-! ### Partition -/

theorem Canonical.applyBell {p q : Nat} {tail : Word} (h : Canonical s) : Canonical (s.applyBell p q tail) := .ite h.qErr h.setQw.number

theorem Canonical.applyBells {f : Nat} (h : Canonical s) : Canonical (s.applyBells f) := h.same.foldl fun _ _ h1 => h1.applyBell

theorem Canonical.upDies {p : Nat} {f : DieSt → DieSt} (h : Canonical s) : Canonical (s.upDies p f) :=
  h.foldl fun _ _ h1 => .ite h1.upDie h1

theorem Canonical.command {p st : Nat} {f : DieSt → DieSt} (h : Canonical s) : Canonical (s.command p st f) := h.upDies

theorem Canonical.upDiesIn {p st : Nat} {f : DieSt → DieSt} (h : Canonical s) : Canonical (s.upDiesIn p st f) := h.upDies

theorem Canonical.execPctlQuiesce {die : Nat} (h : Canonical s) : CanonicalOut (execPctlQuiesce die s) :=
  Canonical.ite h.command.push.signal h.command

theorem Canonical.backToRun {p res : Nat} (h : Canonical s) : Canonical (s.backToRun p res) := h.dropPend.upDiesIn.applyBells.signal

theorem Canonical.execPctlAbort {die : Nat} (h : Canonical s) : CanonicalOut (execPctlAbort die s) :=
  Canonical.ite h.command.backToRun h.command

theorem Canonical.execQuiesceTimeout {part : Nat} (h : Canonical s) : CanonicalOut (execQuiesceTimeout part s) :=
  Canonical.ite h.backToRun h

theorem Canonical.emptyCore {core : Nat} (h : Canonical s) : Canonical (s.emptyCore core) := by
  unfold State.emptyCore
  extract_lets s1 s2 s3
  have h1 : Canonical s1 := .ite h h.dropPend.upCore
  have h2 : Canonical s2 := h1.dropPend.upCore
  have h3 : Canonical s3 := by
    unfold s3
    split
    · exact .ite h2.streamOut h2
    · exact h2
  split
  · exact h3.deactivate
  · exact h3

theorem Canonical.flushPart {p : Nat} (h : Canonical s) : Canonical (s.flushPart p) :=
  (h.foldl (fun _ _ h1 => .ite h1.flushSlice h1)).same

theorem Canonical.execQuiesceDrain {part : Nat} (h : Canonical s) : CanonicalOut (execQuiesceDrain part s) := by
  unfold Machine.execQuiesceDrain
  extract_lets d s1 s2 s3
  have h1 : Canonical s1 := h.upDiesIn
  have h2 : Canonical s2 := .ite h1 (h1.foldl fun _ _ h => h.emptyCore)
  clear_value s2
  exact .ite h (.ite h2.pushAt h2.flushPart.dropPend.upDiesIn)

theorem Canonical.execPctlResume {die : Nat} (h : Canonical s) : CanonicalOut (execPctlResume die s) := by
  unfold Machine.execPctlResume
  refine .ite h.upDies ?_
  split
  · exact h.upDies.push
  · exact h.upDies

theorem Canonical.adopt {p : Nat} (h : Canonical s) : Canonical (s.adopt p) := h.foldl fun _ _ h1 => .ite h1 h1.upPart.upPart

theorem Canonical.serveAs {p : Nat} (h : Canonical s) : Canonical (s.serveAs p) := h.foldl fun _ _ h1 => .ite h1.upDie h1

theorem Canonical.rehome {p : Nat} (h : Canonical s) : Canonical (s.rehome p) := by
  unfold State.rehome
  refine h.mapCcs fun x hx => ?_
  split
  · exact hx
  · exact hx

theorem Canonical.execResumeDone {part : Nat} (h : Canonical s) : CanonicalOut (execResumeDone part s) :=
  .ite h h.upDiesIn.serveAs.adopt.same.same.rehome.applyBells.signal

theorem Canonical.execShootGo {die : Nat} (h : Canonical s) : CanonicalOut (execShootGo die s) := .ite h h.upDie.push

theorem Canonical.execShootdownDone {die : Nat} (h : Canonical s) : CanonicalOut (execShootdownDone die s) :=
  .ite h h.same.upPart.upPart.upDie

theorem Canonical.execPartNboundMilvWrite {die off : Nat} {val : Word} (h : Canonical s) :
    CanonicalOut (execPartNboundMilvWrite die off val s) :=
  .ite h (.ite h h.upDie)

theorem Canonical.execHnote {cluster : Nat} {note : BitVec 14} (h : Canonical s) : CanonicalOut (execHnote cluster note s) :=
  h.foldl fun _ _ h1 => .ite h1.signal h1

theorem Canonical.outWrite {g : Nat → Nat} {pa w cls f : Nat} {bs : List Byte} (h : Canonical s) :
    Canonical (s.outWrite g pa w cls bs f) := by
  induction f generalizing s pa bs with
  | zero => exact h
  | succ f ih =>
    cases bs with
    | nil => exact h
    | cons b bs => exact ih h.swNote.collapse.homeWrite

theorem Canonical.putPieces {f : Nat} {data : List Byte} {l : List (Nat × Nat)} (h : Canonical s) : Canonical (s.putPieces f data l) := by
  induction l generalizing s data with
  | nil => exact h
  | cons x l ih => exact ih h.outWrite

theorem Canonical.execHostBar2Write {fn off : Nat} {data : List (BitVec 8)} (h : Canonical s) :
    CanonicalOut (execHostBar2Write fn off data s) := by
  unfold Machine.execHostBar2Write
  refine .ite h ?_
  split
  · exact h
  · exact .ite h h.putPieces

theorem Canonical.outNote {g : Nat → Nat} {pa n cls f : Nat} (h : Canonical s) : Canonical (s.outNote g pa n cls f) := by
  induction f generalizing s pa n with
  | zero => exact h
  | succ f ih => exact .ite h (ih h.swNote)

theorem Canonical.execHostBar2Read {fn off len : Nat} (h : Canonical s) : CanonicalOut (execHostBar2Read fn off len s) := by
  unfold Machine.execHostBar2Read
  refine .ite h (.ite h.same ?_)
  split
  · exact h.same
  · exact .ite h (h.foldl (fun _ _ h1 => h1.outNote)).same

theorem Canonical.execAtsRequest {fn : Nat} {va : Word} {write : Bool} (h : Canonical s) :
    CanonicalOut (execAtsRequest fn va write s) := by
  unfold Machine.execAtsRequest
  refine .ite h.same ?_
  split
  · rename_i s1 e1
    have h1 : Canonical s1 := h.learn.walk.snd2 e1
    exact h1.same
  · rename_i s1 e1
    exact h.learn.walk.snd2 e1
  · rename_i s1 _ _ e1
    have h1 : Canonical s1 := h.learn.walk.snd2 e1
    exact h1.same

theorem Canonical.linkLog {p : Nat} {n : NetReq} {peer cause : Nat} (h : Canonical s) : Canonical (s.linkLog p n peer cause) :=
  h.wr00.upPart

theorem Canonical.netXlat {p : Nat} {va : Word} {n : Nat} {k : AccessKind} (h : Canonical s) : Canonical (s.netXlat p va n k).2 := by
  unfold State.netXlat
  extract_lets
  split
  · exact h
  · split
    · rename_i s1 e1
      have h1 : Canonical s1 := h.learn.xlatHw.snd e1
      split <;> exact h1
    · rename_i s1 e1
      exact h.learn.xlatHw.snd e1

theorem Canonical.netXlats {p : Nat} {k : AccessKind} {l : List (BitVec 64 × Nat × List Byte)} (h : Canonical s) :
    Canonical (s.netXlats p k l).2 := by
  induction l generalizing s with
  | nil => exact h
  | cons x l ih => exact ih h.netXlat

theorem Canonical.outAborts {x1 pa n : Nat} {chans : List (Nat × BitVec 32)} (h : Canonical s) : Canonical (s.outAborts x1 pa n chans) :=
  .ite h.abortMarks h.abortMarks.abortMarks

theorem Canonical.netPut {chans : List (Nat × BitVec 32)} {torn : Bool} {rs : List (Option (Nat × Nat × Nat))}
    {xs : List (BitVec 64 × Nat × List Byte)} (h : Canonical s) : Canonical (s.netPut chans torn rs xs) := by
  unfold State.netPut
  refine h.foldl fun s1 x1 h1 => ?_
  split
  · exact h1
  · exact h1.same.outWrite.outAborts

theorem Canonical.netPerform {p : Nat} {n : NetReq} (h : Canonical s) : Canonical (s.netPerform p n).2 := by
  unfold State.netPerform
  extract_lets
  split
  · split
    rename_i s1 e1
    have h1 : Canonical s1 := h.netXlats.snd e1
    exact h1.netPut
  · split
    rename_i s1 e1
    have h1 : Canonical s1 := h.netXlats.snd e1
    refine h1.foldl fun s2 x1 h2 => ?_
    split
    · exact h2.outNote
    · exact h2
  · split
    · exact h
    · split
      · rename_i s1 e1
        have h1 : Canonical s1 := h.netXlat.snd e1
        extract_lets _ s2 s3
        have h2 : Canonical s2 := h1.swNote
        have h3 : Canonical s3 := by
          unfold s3
          split
          · exact h2.outWrite.outAborts
          · exact h2
        exact h3
      · rename_i s1 e1
        exact h.netXlat.snd e1

theorem Canonical.netReply {p : Nat} {n : NetReq} (h : Canonical s) : Canonical (s.netReply p n) := h.upPart.push

theorem Canonical.execTransportRequest {n : NetReq} (h : Canonical s) : CanonicalOut (execTransportRequest n s) := by
  unfold Machine.execTransportRequest
  refine .ite h (.ite h.push ?_)
  extract_lets
  split
  · exact h.push
  · refine .ite h (.ite (Canonical.ite h h.push) (.ite h.push (.ite h.pushAt ?_)))
    split
    rename_i s1 e1
    have h1 : Canonical s1 := h.netPerform.snd e1
    exact Canonical.netReply (.ite h1.linkLog h1)

theorem Canonical.nredReply {n : NetReq} {data : List Byte} {st recvd : Nat} (h : Canonical s) : Canonical (s.nredReply n data st recvd) :=
  h.netReply

theorem Canonical.execNredContribution {n : NetReq} (h : Canonical s) : CanonicalOut (execNredContribution n s) := by
  unfold Machine.execNredContribution
  refine .ite h ?_
  extract_lets _ _ s1
  have h1 : Canonical s1 := h.upPart
  split
  · exact h.upPart.pushAt
  · exact .ite (.ite h.upPart.pushAt h.upPart.nredReply) (.ite h.nredReply (.ite h.upPart (h1.foldl (fun _ _ h2 => h2.nredReply))))

theorem Canonical.execNredDeadline {part tag : Nat} (h : Canonical s) : CanonicalOut (execNredDeadline part tag s) := by
  unfold Machine.execNredDeadline
  split
  · exact h
  · exact .ite h (h.upPart.foldl (fun _ _ h1 => h1.nredReply))

theorem Canonical.upFly {q : Nat} {n : NetReq} {f : NetReq → Option NetReq} (h : Canonical s) : Canonical (s.upFly q n f) := h.upPart

theorem Canonical.netFail {q : Nat} {n r : NetReq} {cause : Nat} (h : Canonical s) : Canonical (s.netFail q n r cause) := by
  unfold State.netFail
  extract_lets s1
  have h1 : Canonical s1 := h.upFly
  clear_value s1
  split
  · exact h1
  · extract_lets s2 l
    have h2 : Canonical s2 := h1.linkLog
    clear_value s2 l
    split
    · refine .ite ?_ (.ite h2.upCopy h2)
      have h3 : Canonical { s2 with free := s2.free + l.foldl (fun k (p : Piece) => k + p.len) 0 } := h2.same
      exact h3.landBurst
    · exact h2

theorem Canonical.execTransportReply {n : NetReq} (h : Canonical s) : CanonicalOut (execTransportReply n s) := by
  unfold Machine.execTransportReply
  split
  · exact h
  · refine .ite h.upFly (.ite h.netFail ?_)
    split
    · exact h.upFly
    · dsimp only [CanonicalOut]
      split
      · exact h.landBurst
      · exact h
      · exact h
      · exact h.upFly

theorem Canonical.execTransportRetransmit {part dst seq : Nat} (h : Canonical s) :
    CanonicalOut (execTransportRetransmit part dst seq s) := by
  unfold Machine.execTransportRetransmit
  split
  · exact h
  · exact .ite h.pushAt (.ite h.netFail h.upFly.sendNet.pushAt)

/-! ### Observe -/

theorem Canonical.pmcWrap {tk i : Nat} (h : Canonical s) : Canonical (s.pmcWrap tk i) := .ite (.ite h.upT.push h.upT.trace) h.upT

theorem Canonical.execPmcOverflow {tk idx : Nat} (h : Canonical s) : CanonicalOut (execPmcOverflow tk idx s) :=
  .ite h.pmcWrap (.ite h.trace h)

theorem Canonical.execDstopArm {ch : Nat} (h : Canonical s) : CanonicalOut (execDstopArm ch s) := .ite h h.upChan

theorem Canonical.disarm {ch : Nat} (h : Canonical s) : Canonical (s.disarm ch) := h.upChan

theorem Canonical.execDomainStopLand {ch : Nat} (h : Canonical s) : CanonicalOut (execDomainStopLand ch s) := by
  unfold Machine.execDomainStopLand
  extract_lets
  split
  · exact .ite h (h.upChan.foldl
      (fun _ _ h1 => .ite (h1.offSlot (fun _ h2 => h2.enterHandler.upT)).trace (h1.offSlot (fun _ h2 => h2.enterHandler.upT))))
  · exact h

/-! ### Errors -/

theorem Canonical.putRec {d : Nat} {r : ErrRec} (h : Canonical s) : Canonical (s.putRec d r) :=
  .ite (Canonical.pushAt (.ite h.wrBy.upDie.upSlice h.wrBy.upDie)) (.ite h.wrBy.upDie.upSlice h.wrBy.upDie)

theorem Canonical.flushKept {d f : Nat} (h : Canonical s) : Canonical (s.flushKept d f) := by
  induction f generalizing s with
  | zero => exact h
  | succ f ih =>
    unfold State.flushKept
    split
    · exact h
    · exact .ite h (ih h.upDie.putRec)

theorem Canonical.newRec {d : Nat} {r : ErrRec} (h : Canonical s) : Canonical (s.newRec d r) := by
  have h1 : Canonical (s.flushKept d (s.die d).kept.length) := h.flushKept
  exact .ite (.ite h1.upDie.push h1.upDie) h1.putRec

theorem Canonical.execErrorRecordFlush {die : Nat} (h : Canonical s) : CanonicalOut (execErrorRecordFlush die s) :=
  Canonical.ite h.flushKept h.flushKept.push

theorem Canonical.addCount {d home : Nat} {x3 : HeldLine} (h : Canonical s) : Canonical (s.addCount d home x3) := .ite h.upDie h.wrBy

theorem Canonical.badBank {d : Nat} {e : ErrorFound} (h : Canonical s) : Canonical (s.badBank d e) := by
  unfold State.badBank
  split
  · exact h
  · exact h.upBank.newRec

theorem Canonical.stopStream {cid core : Nat} (h : Canonical s) : Canonical (s.stopStream cid core) :=
  h.same.dropPend.upCtx.unlearn.upCore.nextLoad

theorem Canonical.stopStreams {cid : Nat} (h : Canonical s) : Canonical (s.stopStreams cid) := h.foldl fun _ _ h1 => h1.stopStream

theorem Canonical.loseLine {d : Nat} {e : ErrorFound} {k : BitVec 4} (h : Canonical s) : Canonical (s.loseLine d e k) :=
  h.upSlice.newRec.stopStreams

theorem Canonical.cleanLine {home key : Nat} {l : Line} {k : BitVec 4} (h : Canonical s) : Canonical (s.cleanLine home key l k) :=
  h.writeBack.upSlice

theorem Canonical.failLine {d : Nat} {e : ErrorFound} (h : Canonical s) : Canonical (s.failLine d e) := by
  unfold State.failLine
  extract_lets home key owner refetch sl k has up
  have hr : ∀ {s}, Canonical s → Canonical (refetch s) := fun h => h.newRec
  split
  · split
    · exact h
    · exact .ite h (.ite (hr h.upSlice) h.loseLine)
  · split
    · exact h
    · exact .ite h (.ite (hr h.upSlice) h.loseLine)
  · clear_value up
    split
    · exact hr h.cleanLine
    · exact h.loseLine

theorem Canonical.moreLost {d : Nat} {e : ErrorFound} {x3 : HeldLine} (h : Canonical s) : Canonical (s.moreLost d e x3) :=
  .ite h h.upSlice.addCount

theorem Canonical.badLine {d : Nat} {e : ErrorFound} (h : Canonical s) : Canonical (s.badLine d e) := by
  unfold State.badLine
  split
  · exact h.moreLost
  · exact h.failLine

theorem Canonical.fixed {d : Nat} {e : ErrorFound} (h : Canonical s) : Canonical (s.fixed d e) := by
  unfold State.fixed
  extract_lets
  split
  · exact h.newRec
  · exact Canonical.newRec (.ite h.upSlice (.ite h.upSlice.evictL2 h.upSlice.evictMsc))

theorem Canonical.dropWaiter {home i : Nat} (h : Canonical s) : Canonical (s.dropWaiter home i) := by
  unfold State.dropWaiter
  split
  · exact h
  · extract_lets s1
    have h1 : Canonical s1 := h.upSlice
    split
    · split
      · exact h1.upT.pushAt
      · exact h1
    · exact h1

theorem Canonical.dropAddends {home key : Nat} (h : Canonical s) : Canonical (s.dropAddends home key) := by
  unfold State.dropAddends
  refine Canonical.upSlice ?_
  split
  · exact h
  · exact h.collapse.fillLine.upSlice

theorem Canonical.execParityError {e : ErrorFound} (h : Canonical s) : CanonicalOut (execParityError e s) := by
  unfold Machine.execParityError
  extract_lets _ _ s1 _ _ s2
  have h1 : Canonical s1 := h.upCore
  have h2 : Canonical s2 := h.same
  split
  · exact Canonical.ite h1.newRec (.ite h2.newRec h)
  · split
    · exact h
    · exact h.dropAddends.newRec
  · exact h.dropWaiter.newRec
  · exact h.newRec.signal
  · exact h

theorem Canonical.takeMc {tk rec : Nat} (h : Canonical s) : Canonical (s.takeMc tk rec) := h.undoLong.abandonWait.enterHandler

theorem Canonical.execMachineCheck {die rec : Nat} (h : Canonical s) : CanonicalOut (execMachineCheck die rec s) := .ite h.upT h.takeMc

theorem Canonical.releaseLine {home : Nat} {x2 : HeldLine} (h : Canonical s) : Canonical (s.releaseLine home x2) :=
  .ite (Canonical.writeBack (.ite h.heal.upSlice.evictMsc h.heal.upSlice)).upSlice (.ite h.heal.upSlice.evictMsc h.heal.upSlice)

theorem Canonical.execMcrel {die rec : Nat} (h : Canonical s) : CanonicalOut (execMcrel die rec s) := by
  unfold Machine.execMcrel
  split
  · exact h
  · split
    · exact h
    · exact h.releaseLine

/-! ### Regs -/

theorem CanonicalOut.onNext {o : Out} {f : State → Out} (ho : CanonicalOut o) (hf : ∀ t, Canonical t → CanonicalOut (f t)) :
    CanonicalOut (Machine.onNext o f) := by
  cases o with
  | next t => exact hf t ho
  | fault e => trivial
  | refused r => trivial

theorem Canonical.clusterPut {c off : Nat} {v : Word} (h : Canonical s) : Canonical (s.clusterPut c off v) :=
  .ite (.ite h.upCl h) (.ite h.upCl (.ite (.ite (.ite h.upCore h) (.ite (.ite h.upCore h) h)) h))

theorem Canonical.quarPut {c i : Nat} {v : Word} (h : Canonical s) : Canonical (s.quarPut c i v) :=
  .ite h (.ite (h.upSlice.foldl (fun _ _ h1 => .ite h1.evictMsc h1)) h.upSlice)

theorem Canonical.slicePut {c off : Nat} {v : Word} (h : Canonical s) : Canonical (s.slicePut c off v) := by
  unfold State.slicePut
  refine .ite ?_ (.ite h.quarPut h)
  split
  · exact h.upSlice
  · exact .ite h.upSlice h
  · exact .ite h.upSlice h
  · exact h

theorem Canonical.diePut {d off : Nat} {v : Word} (h : Canonical s) : Canonical (s.diePut d off v) := by
  unfold State.diePut
  refine .ite h.upDie ?_
  split
  · exact h.upDie
  · exact .ite h.upDie h
  · exact h.upDie.push
  · exact h

theorem Canonical.bar4Put {off : Nat} {v : Word} (h : Canonical s) : Canonical (s.bar4Put off v) := by
  unfold State.bar4Put
  refine .ite (.ite h.same h) (.ite h.same (.ite (.ite h ?_) h))
  exact h.setJost (memWrite_wf _ _ _ h.window)

theorem Canonical.execRegisterWrite {pa : Nat} {val : Word} (h : Canonical s) : CanonicalOut (execRegisterWrite pa val s) := by
  unfold Machine.execRegisterWrite
  refine Canonical.ite h.bar4Put ?_
  split
  · exact h.clusterPut
  · exact h.slicePut
  · exact h.diePut
  · exact h

theorem Canonical.cnextPut {core : Nat} {v : Word} (h : Canonical s) : CanonicalOut (s.cnextPut core v) := by
  unfold State.cnextPut
  extract_lets cid load named
  have hn : Canonical (named s) := h.upCore
  exact .ite h (.onNext (.ite hn.execCnextLoad (Canonical.ite h hn)) fun t ht => .ite ht (.ite ht.wantSwitch ht.execCnextSwitch))

theorem Canonical.pctlPut {d : Nat} {v : Word} (h : Canonical s) : CanonicalOut (s.pctlPut d v) := by
  unfold State.pctlPut
  extract_lets s1
  have h1 : Canonical s1 := h.upDie
  refine .onNext h1.execPartNboundMilvWrite fun t ht => ?_
  split
  · exact ht.execPctlQuiesce
  · exact ht.execPctlResume
  · exact ht.execPctlAbort
  · exact ht

theorem Canonical.ctermPut {d : Nat} {v : Word} (h : Canonical s) : CanonicalOut (s.ctermPut d v) := .ite h.execCtermGo h.upDie

theorem Canonical.dstopPut {ch : Nat} {v : Word} (h : Canonical s) : CanonicalOut (s.dstopPut ch v) := .ite h.execDstopArm h.disarm

theorem Canonical.regStore {tk pa : Nat} {v : Word} (h : Canonical s) : CanonicalOut (s.regStore tk pa v) := by
  unfold State.regStore
  split
  · refine .ite h.execHnote (.ite ?_ (.ite h h.execRegisterWrite))
    extract_lets
    split
    · exact h.cnextPut
    · exact h.execIpost
    · exact h
  · exact .ite h h.execRegisterWrite
  · exact .ite h.dstopPut h
  · split
    · exact h.pctlPut
    · exact h.execPartNboundMilvWrite
    · exact h.execPartNboundMilvWrite
    · exact .ite h.execShootGo h
    · exact h.execMcrel
    · exact h.ctermPut
    · exact h.execRegisterWrite
  · exact h

/-! ### Memory -/

theorem Canonical.loadOne {x1 : Hit} {dst : Dst} {o : LoadOp} (h : Canonical s) : Canonical (s.loadOne x1 dst o) := .ite h.upMe h.load

theorem Canonical.execLd {d a : Reg} {z : BitVec 3} {q : BitVec 2} {o : BitVec 11} (h : Canonical s) : CanonicalOut (execLd d a z q o s) :=
  h.planned (fun _ _ h1 => h1.watched (.ite h1.again (h1.marking (h1.foldl (fun _ _ h2 => h2.loadOne)).upA.doneD)))

theorem Canonical.storeOne {x : Hit} {pl n : Nat} {w : Word} {rel : Bool} {o : Out} (h : Canonical s)
    (e : s.storeOne x pl n w rel = some o) :
    CanonicalOut o := by
  unfold State.storeOne at e
  split at e
  · cases e
    exact h.regStore
  · obtain ⟨t, et, rfl⟩ := Option.map_eq_some_iff.1 e
    exact h.store et

theorem Canonical.storeAll {a0 : Arch} {src : Reg} {n : Nat} {rel : Bool} {l : List (Nat × Hit)} {o : Out} (h : Canonical s)
    (e : s.storeAll a0 src n rel l = some o) : CanonicalOut o := by
  induction l generalizing s with
  | nil => cases e; exact h
  | cons x l ih =>
    unfold State.storeAll at e
    split at e
    · rename_i s1 e1
      exact ih (h.storeOne e1) e
    · exact h.storeOne e

theorem Canonical.execSt {src a : Reg} {z q : BitVec 2} {o : BitVec 12} (h : Canonical s) : CanonicalOut (execSt src a z q o s) := by
  unfold Machine.execSt
  refine h.planned fun hs s1 h1 => h1.watched (.ite h1.again ?_)
  split
  · rename_i o e
    exact .onNext (h1.storeAll e) fun t ht => Canonical.ite ht.doneD ht.done
  · exact h.untilResolved

/-! ### Boot -/

theorem Canonical.execPowerOnReset : CanonicalOut (execPowerOnReset s) :=
  (Canonical.reset.same : Canonical _)

theorem Canonical.offer {img : List Byte} {src : Nat} (h : Canonical s) : Canonical (s.offer img src) :=
  .ite h (.ite (.ite h h.same) (Canonical.same h).push)

theorem Canonical.boot {img : List Byte} {src : Nat} (h : Canonical s) : Canonical (s.boot img src) := by
  have hm : Memory.wf ((stagesOf img).foldl (fun m x => memWrite m x.load (imgPart img x.off x.len))
      (memWrite s.mem (s.jost.accept img src).recPa.toNat (recordOf img))) = true :=
    foldl_wf _ _ (fun m x hm => memWrite_wf _ _ _ hm) _ (memWrite_wf _ _ _ h.1)
  have h1 := (h.setMem hm).setJost (j := s.jost.accept img src) rfl
  unfold State.boot
  refine h1.upDie.upDie.upDie.upDie.foldl fun s1 d h1 => ?_
  split
  · exact .ite h1.push h1
  · exact h1

theorem Canonical.execImageCheckDone (h : Canonical s) : CanonicalOut (execImageCheckDone s) := by
  unfold Machine.execImageCheckDone
  split
  · exact h
  · extract_lets c _ s1
    have h1 : Canonical s1 := h.same
    exact .ite h.boot (Canonical.ite h1.push h1)

theorem Canonical.execSystemCoreStart {die unit : Nat} {pc arg : Word} (h : Canonical s) :
    CanonicalOut (execSystemCoreStart die unit pc arg s) :=
  .ite h (.ite h h.upT)

theorem Canonical.execAttgo {host : Bool} {nonce : BitVec 512} (h : Canonical s) : CanonicalOut (execAttgo host nonce s) := by
  unfold Machine.execAttgo
  extract_lets n idle _ s1
  have h1 : Canonical s1 := h.same
  exact Canonical.ite h1.push h1

theorem measureAll_window (l : List (List Byte)) (j : JostSt) (i : Nat) :
    (l.foldl (fun j m => j.measure i m) j).window = j.window := by
  induction l generalizing j with
  | nil => rfl
  | cons m l ih => exact ih _

theorem Canonical.execAttestationDone (h : Canonical s) : CanonicalOut (execAttestationDone s) := by
  unfold Machine.execAttestationDone
  split
  · exact h
  · extract_lets r _ j1 j2 s1
    have e1 : j1.window = s.jost.window := measureAll_window _ _ _
    have h1 : Canonical s1 := by
      refine h.setJost ?_
      unfold j2
      split <;> exact e1 ▸ h.window
    exact Canonical.ite h1 h1.push

theorem Canonical.execPm7Extend {item : List (BitVec 8)} (h : Canonical s) : CanonicalOut (execPm7Extend item s) := by
  refine h.setJost ?_
  split <;> exact h.window

theorem Canonical.execStretchEnd (h : Canonical s) : CanonicalOut (execStretchEnd s) := by
  unfold Machine.execStretchEnd
  split
  · exact Canonical.ite h.same h
  · exact h

/-! ### Wakes -/

theorem Canonical.execResultReady {tk : Nat} (h : Canonical s) : CanonicalOut (execResultReady tk s) := h.upT

theorem Canonical.execPlaneGating {tk : Nat} (h : Canonical s) : CanonicalOut (execPlaneGating tk s) := .ite h h.upT

theorem Canonical.startWake (h : Canonical s) : Canonical s.startWake := .ite h.upMe h.upMe.upMe.pushAt

theorem Canonical.execPlaneWakeDone {tk : Nat} (h : Canonical s) : CanonicalOut (execPlaneWakeDone tk s) := .ite h h.upT

theorem Canonical.execReleasePerformed {tk : Nat} (h : Canonical s) : CanonicalOut (execReleasePerformed tk s) := by
  unfold Machine.execReleasePerformed
  split
  · exact h
  · refine .ite h.pushAt ?_
    split
    · exact Canonical.ite h.finish h.finish.acquire
    · exact h.finish
    · exact .ite h.sendOwn.push h.tdoneEnd
    · exact h.push
    · exact h.push
    · exact .ite h h.tlbSend
    · exact h

/-! ### Issue -/

theorem Canonical.fetchHome {tk pa home : Nat} {pte : Word} (h : Canonical s) : Canonical (s.fetchHome tk pa home pte).2 := by
  unfold State.fetchHome
  extract_lets s1
  have h1 : Canonical s1 := h.swNote
  split
  rename_i s2 e1
  have h2 : Canonical s2 := by
    refine Canonical.snd ?_ e1
    split
    · exact h1.repRead
    · exact h1.homeRead
  extract_lets _ s3
  have h3 : Canonical s3 := h2.same
  split
  · exact h2
  · exact h3.fillL1

theorem Canonical.fetchAt {tk : Nat} {va : Word} (h : Canonical s) : Canonical (s.fetchAt tk va).2 := by
  unfold State.fetchAt
  split
  · rename_i s1 e1
    exact h.site.snd e1
  · rename_i s1 e1
    exact h.site.snd e1
  · rename_i s1 e1
    exact h.site.snd e1
  · rename_i s1 e1
    have h1 : Canonical s1 := h.site.snd e1
    split
    · exact h1
    · split
      · exact h1.swNote
      · split
        · exact h1
        · split
          · exact h1
          · split
            rename_i s2 e2
            exact h1.fetchHome.snd e2

theorem Canonical.fetchTrap {code : Nat} {va : Word} (h : Canonical s) : Canonical (s.fetchTrap code va) := .ite h.startTerm h.trap

theorem Canonical.execInstructionFetch (h : Canonical s) : CanonicalOut (execInstructionFetch s) := by
  unfold Machine.execInstructionFetch
  split
  · rename_i s1 e1
    have h1 : Canonical s1 := h.fetchAt.snd e1
    exact h1.fetchTrap
  · rename_i s1 e1
    have h1 : Canonical s1 := h.fetchAt.snd e1
    exact h1.again
  · exact trivial
  · rename_i s1 e1
    have h1 : Canonical s1 := h.fetchAt.snd e1
    exact .ite h1.trap h1

theorem Canonical.execNotAnInstruction {w : BitVec 32} (h : Canonical s) : CanonicalOut (execNotAnInstruction w s) := h.illegal

theorem Canonical.start {run : Instr → State → Out} {i : Instr} (hrun : ∀ x1 t, Canonical t → CanonicalOut (run x1 t)) (h : Canonical s) :
    CanonicalOut (s.start run i) :=
  .ite h.again (.ite h.startWake (hrun _ _ h))

theorem Canonical.instruction {run : Instr → State → Out} (hrun : ∀ x1 t, Canonical t → CanonicalOut (run x1 t)) (h : Canonical s) :
    CanonicalOut (s.instruction run) := by
  unfold State.instruction
  split
  · rename_i s1 e1
    have h1 : Canonical s1 := h.fetchAt.snd e1
    refine .ite h.execInstructionFetch ?_
    split
    · exact h1.execNotAnInstruction
    · refine .ite ?_ (Canonical.start hrun h1)
      split
      · rename_i s2 e2
        have h2 : Canonical s2 := h1.fetchAt.snd e2
        split
        · exact Canonical.start hrun h2
        · exact h2.execNotAnInstruction
      · rename_i s2 e2
        have h2 : Canonical s2 := h1.fetchAt.snd e2
        exact h2.fetchTrap
      · rename_i s2 e2
        have h2 : Canonical s2 := h1.fetchAt.snd e2
        exact h2.again
      · exact trivial
  · exact h.execInstructionFetch

theorem Canonical.slot {run : Instr → State → Out} (hrun : ∀ x1 t, Canonical t → CanonicalOut (run x1 t)) (h : Canonical s) :
    CanonicalOut (s.slot run) := by
  unfold State.slot
  refine .ite ?_ (.ite h.finish (.ite h.execInterruptDelivery (Canonical.instruction hrun h)))
  split
  · exact .ite h.finish h.upMe.takeMc
  · exact h

theorem Canonical.turn {tk : Nat} (h : Canonical s) : Canonical (s.turn tk) := .ite h.upCore h

theorem Canonical.settleTurn {tk : Nat} {o : Out} (h : Canonical s) (ho : CanonicalOut o) : CanonicalOut (s.settleTurn tk o) := by
  unfold State.settleTurn
  cases o with
  | next t => exact Canonical.ite h (Canonical.turn ho)
  | fault e => exact CanonicalOut.ite h trivial
  | refused r => exact CanonicalOut.ite h trivial

theorem CanonicalOut.unheld {o : Out} {r : State} (ho : CanonicalOut o) (h : Canonical r) : CanonicalOut (Machine.unheld o r) := by
  cases o with
  | next t => exact CanonicalOut.ite (h : CanonicalOut (.next r)) ho
  | fault e => trivial
  | refused r => trivial

theorem Canonical.issue {run : Instr → State → Out} {tk : Nat} (hrun : ∀ i t, Canonical t → CanonicalOut (run i t)) (h : Canonical s) :
    CanonicalOut (s.issue run tk) := by
  unfold State.issue
  extract_lets s1
  have h1 : Canonical s1 := h.same
  exact .ite h1 (.unheld (h1.settleTurn (Canonical.slot hrun h1)) h1.upT)

/-! ### Clock -/

theorem Canonical.unqueue {e : Ev} (h : Canonical s) : Canonical (s.unqueue e) := by
  unfold State.unqueue
  split
  · exact .ite h.upSlice h
  · exact h

theorem Canonical.runEv {e : Ev} (h : Canonical s) : CanonicalOut (runEv e s) :=
  match e with
  | .resultReady _ => h.execResultReady
  | .planeGating _ => h.execPlaneGating
  | .planeWakeDone _ => h.execPlaneWakeDone
  | .homeLoadServe _ => h.execHomeLoadServe
  | .loadReply _ => h.execLoadReply
  | .homeStoreApply _ => h.execHomeStoreApply
  | .replicaCollapseAck _ => h.execReplicaCollapseAck
  | .amoSliceApply _ => h.execAmoSliceApply
  | .amoReply _ => h.execAmoReply
  | .releasePerformed _ => h.execReleasePerformed
  | .redArrival _ => h.execRedArrival
  | .refusalReturn _ => h.execRefusalReturn
  | .forcedMessageApply _ => h.execForcedMessageApply
  | .residualAgeExpiry _ => h.execResidualAgeExpiry
  | .quotaWindowStart => h.execQuotaWindowStart
  | .reductionQueueDrain _ => h.execReductionQueueDrain
  | .sigaddApply _ => h.execSigaddApply
  | .waitgeWake _ => h.execWaitgeWake
  | .waitgeRepoll _ => h.execWaitgeRepoll
  | .waitTimeout _ => h.execWaitTimeout
  | .energyRefill => h.execEnergyRefill
  | .tensorBind _ => h.execTensorBind
  | .mmaOccupancyEnd _ _ => h.execMmaOccupancyEnd
  | .mmaRetire _ _ => h.execMmaRetire
  | .copyBurstStart _ => h.execCopyBurstStart
  | .copyBurstComplete _ _ _ => h.execCopyBurstComplete
  | .copyRetire _ _ => h.execCopyRetire
  | .bankRefillDone _ _ => h.execBankRefillDone
  | .bankScrubDone _ _ => h.execBankScrubDone
  | .battWake _ => h.execBattWake
  | .hoverTableStep _ => h.execHoverTableStep
  | .bdetTableStep _ => h.execBdetTableStep
  | .bwaitWake _ => h.execBwaitWake
  | .barrierArrival _ => h.execBarrierArrival
  | .barwWake _ => h.execBarwWake
  | .specCommit _ => h.execSpecCommit
  | .specAbort _ _ _ => h.execSpecAbort
  | .guidonArrival _ => h.execGuidonArrival
  | .dataFlitLand _ => h.execDataFlitLand
  | .furlLand _ => h.execFurlLand
  | .pauseFlitLand _ => h.execPauseFlitLand
  | .creditArrival _ _ _ => h.execCreditArrival
  | .routeTear _ _ => h.execRouteTear
  | .recvWake _ => h.execRecvWake
  | .admission _ => h.execAdmission
  | .admissionWaitEnd _ => h.execAdmissionWaitEnd
  | .taskBind _ => h.execTaskBind
  | .splitRequest _ => h.execSplitRequest
  | .splitWithdrawTimeout _ _ => h.execSplitWithdrawTimeout
  | .yieldPark _ => h.execYieldPark
  | .faultQueueWrite _ => h.execFaultQueueWrite
  | .tsyncAck _ => h.execTsyncAck
  | .tspawnStatus _ => h.execTspawnStatus
  | .cnextLoad _ _ => h.execCnextLoad
  | .preemption _ => h.execPreemption
  | .contextStreamEnd _ => h.execContextStreamEnd
  | .terminationDone _ => h.execTerminationDone
  | .tlbinvAck _ _ => h.execTlbinvAck
  | .quiesceTimeout _ => h.execQuiesceTimeout
  | .quiesceDrain _ => h.execQuiesceDrain
  | .resumeDone _ => h.execResumeDone
  | .shootdownDone _ => h.execShootdownDone
  | .transportRequest _ => h.execTransportRequest
  | .transportReply _ => h.execTransportReply
  | .transportRetransmit _ _ _ => h.execTransportRetransmit
  | .nredContribution _ => h.execNredContribution
  | .nredDeadline _ _ => h.execNredDeadline
  | .pmcOverflow _ _ => h.execPmcOverflow
  | .domainStopLand _ => h.execDomainStopLand
  | .errorRecordFlush _ => h.execErrorRecordFlush
  | .machineCheck _ _ => h.execMachineCheck
  | .imageCheckDone => h.execImageCheckDone
  | .systemCoreStart _ _ _ _ => h.execSystemCoreStart
  | .attestationDone => h.execAttestationDone
  | .stretchEnd => h.execStretchEnd

theorem Canonical.countPmcs {tk : Nat} (h : Canonical s) : Canonical (s.countPmcs tk) :=
  (h.upT.foldl (fun _ _ h1 => .ite h1 (.ite h1.pmcWrap h1.upT))).upT

theorem Canonical.tickTs {tk : Nat} (h : Canonical s) : Canonical (s.tickTs tk) := .ite h.upT h.countPmcs.upT

theorem Canonical.tickParked (h : Canonical s) : Canonical s.tickParked := h.same

theorem Canonical.tickRoutes (h : Canonical s) : Canonical s.tickRoutes := h.foldl fun _ _ h1 => h1.foldl (fun _ _ h2 => h2.upSend)

theorem Canonical.tickUnits (h : Canonical s) : Canonical s.tickUnits := by
  unfold State.tickUnits
  extract_lets cls s1 s2 s3
  have h1 : Canonical s1 := h.foldl fun _ _ h => h.tickLanes
  have h3 : Canonical s3 := h1.setCtxs.foldl fun _ _ h => h.trimSlice
  refine h3.setClusters.setJost ?_
  split <;> exact h3.window

theorem Canonical.once {c : Bool} {e : Ev} (h : Canonical s) : Canonical (s.once c e) := .ite h.same h

theorem Canonical.dueTs {tk : Nat} (h : Canonical s) : Canonical (s.dueTs tk) :=
  .ite h (Canonical.once (.ite h.once.once.withdraw h.once.once)).once.once

theorem Canonical.duePart {p : Nat} (h : Canonical s) : Canonical (s.duePart p) :=
  (Canonical.once (.ite (h.once.completeAll.unlessHeld (fun _ h1 => h1.admWaiters)) h.once.completeAll)).once

theorem Canonical.dueUnits (h : Canonical s) : Canonical s.dueUnits :=
  (((h.foldl (fun _ _ h1 => h1.once.once)).foldl (fun _ _ h1 => h1.once)).foldl (fun _ _ h1 => h1.foldl (fun _ _ h2 => h2.once))).foldl
    fun _ _ h1 => h1.once

theorem Canonical.deliver {k : Nat} (h : Canonical s) : CanonicalOut (s.deliver k) := by
  unfold State.deliver
  split
  · exact h
  · refine .ite ?_ (.unheld (Canonical.same h.unqueue).runEv h.same)
    split
    · exact h.upSlice
    · exact h

theorem Canonical.execCoreClockCycle (h : Canonical s) : CanonicalOut (execCoreClockCycle s) := by
  unfold Machine.execCoreClockCycle
  extract_lets s1 s2 s3 s4 s5 s6 s7 s8
  have h1 : Canonical s1 := h.foldl fun _ _ h => h.tickTs
  have h2 : Canonical s2 := h1.tickParked.tickRoutes.tickUnits
  have h3 : Canonical s3 := by
    clear_value s2
    exact h2.same
  have h6 : Canonical s6 := h3.once.once.foldl fun _ _ h => h.dueTs
  have h7 : Canonical s7 := h6.foldl fun _ _ h => .ite h.duePart h
  have h8 : Canonical s8 := h7.dueUnits
  clear_value s8
  exact h8.same

theorem Canonical.act {run : Instr → State → Out} {c : Choice} (hrun : ∀ x1 t, Canonical t → CanonicalOut (run x1 t)) (h : Canonical s) :
    CanonicalOut (s.act run c) := by
  unfold State.act
  split
  · exact .ite h.deliver h
  · exact .ite (Canonical.issue hrun h) h
  · exact .ite ((hrun _ _ h.same).unheld h) h
  · exact .ite h.execCoreClockCycle h
  · exact h.upCore
  · exact Canonical.ite h h.evictL2
  · exact Canonical.ite h h.evictMsc
  · exact h.evictBank
  · exact h.dropTlb
  · exact h.same

theorem Canonical.advance {run : Instr → State → Out} (hrun : ∀ i t, Canonical t → CanonicalOut (run i t)) (h : Canonical s) :
    CanonicalOut (s.advance run) := by
  unfold State.advance
  extract_lets s1
  have h1 : Canonical s1 := h.same
  split
  · exact Canonical.act hrun h1.same
  · exact Canonical.act hrun h1

/-! ### Dual -/

theorem Canonical.dmov {lat : Nat} {b : List (Nat × Nat)} {f : Arch → Arch} (h : Canonical s) : CanonicalOut (s.dmov lat b f) :=
  h.upMe.retireW

theorem Canonical.execDclr {d : Reg} {c : BitVec 1} {p : BitVec 2} (h : Canonical s) : CanonicalOut (execDclr d c p s) := h.dmov

theorem Canonical.execDclrAll {c : BitVec 1} {p : BitVec 2} (h : Canonical s) : CanonicalOut (execDclrAll c p s) := h.dmov

/-! ### Flow -/

theorem Canonical.branch {taken : Bool} {o : BitVec 16} (h : Canonical s) : CanonicalOut (branch taken o s) := .ite h.jump h.noJump

/-! ### Scalar -/

theorem Canonical.intOp {len : Nat} {d : Reg} {w : Word} (h : Canonical s) : CanonicalOut (intOp len d w s) := h.putInt.doneD

theorem Canonical.mulOp {len : Nat} {d : Reg} {w : Word} (h : Canonical s) : CanonicalOut (mulOp len d w s) := h.putInt.doneD.longAfter

theorem Canonical.divOp {len : Nat} {d : Reg} {w : Word} (h : Canonical s) : CanonicalOut (divOp len d w s) :=
  h.putInt.doneD.longAfter.upCore

/-! ### Dispatch -/

theorem Canonical.exec {i : Instr} (h : Canonical s) : CanonicalOut (exec i s) :=
  match i with
  | .add _ _ _ => h.intOp
  | .sub _ _ _ => h.intOp
  | .and _ _ _ => h.intOp
  | .or _ _ _ => h.intOp
  | .xor _ _ _ => h.intOp
  | .andn _ _ _ => h.intOp
  | .sll _ _ _ => h.intOp
  | .srl _ _ _ => h.intOp
  | .sra _ _ _ => h.intOp
  | .ror _ _ _ => h.intOp
  | .slt _ _ _ => h.intOp
  | .sltu _ _ _ => h.intOp
  | .min _ _ _ => h.intOp
  | .max _ _ _ => h.intOp
  | .minu _ _ _ => h.intOp
  | .maxu _ _ _ => h.intOp
  | .mul _ _ _ => h.mulOp
  | .mulh _ _ _ => h.mulOp
  | .mulhu _ _ _ => h.mulOp
  | .mulhsu _ _ _ => h.mulOp
  | .div _ _ _ => h.divOp
  | .divu _ _ _ => h.divOp
  | .rem _ _ _ => h.divOp
  | .remu _ _ _ => h.divOp
  | .clz _ _ => h.intOp
  | .ctz _ _ => h.intOp
  | .popc _ _ => h.intOp
  | .sextB _ _ => h.intOp
  | .sextH _ _ => h.intOp
  | .sextW _ _ => h.intOp
  | .zextH _ _ => h.intOp
  | .zextW _ _ => h.intOp
  | .addw _ _ _ => h.intOp
  | .subw _ _ _ => h.intOp
  | .addLit _ _ _ => h.intOp
  | .subLit _ _ _ => h.intOp
  | .andLit _ _ _ => h.intOp
  | .orLit _ _ _ => h.intOp
  | .xorLit _ _ _ => h.intOp
  | .andnLit _ _ _ => h.intOp
  | .sllLit _ _ _ => h.intOp
  | .srlLit _ _ _ => h.intOp
  | .sraLit _ _ _ => h.intOp
  | .rorLit _ _ _ => h.intOp
  | .sltLit _ _ _ => h.intOp
  | .sltuLit _ _ _ => h.intOp
  | .minLit _ _ _ => h.intOp
  | .maxLit _ _ _ => h.intOp
  | .minuLit _ _ _ => h.intOp
  | .maxuLit _ _ _ => h.intOp
  | .mulLit _ _ _ => h.mulOp
  | .mulhLit _ _ _ => h.mulOp
  | .mulhuLit _ _ _ => h.mulOp
  | .mulhsuLit _ _ _ => h.mulOp
  | .divLit _ _ _ => h.divOp
  | .divuLit _ _ _ => h.divOp
  | .remLit _ _ _ => h.divOp
  | .remuLit _ _ _ => h.divOp
  | .addwLit _ _ _ => h.intOp
  | .subwLit _ _ _ => h.intOp
  | .addi _ _ _ => h.intOp
  | .andi _ _ _ => h.intOp
  | .ori _ _ _ => h.intOp
  | .xori _ _ _ => h.intOp
  | .slti _ _ _ => h.intOp
  | .sltiu _ _ _ => h.intOp
  | .slli _ _ _ => h.intOp
  | .srli _ _ _ => h.intOp
  | .srai _ _ _ => h.intOp
  | .rori _ _ _ => h.intOp
  | .lui _ _ => h.intOp
  | .addpc _ _ => h.intOp
  | .fadd _ _ _ _ => h.fpOp
  | .fsub _ _ _ _ => h.fpOp
  | .fmul _ _ _ _ => h.fpOp
  | .fdiv _ _ _ _ => h.fpOp
  | .fsqrt _ _ _ => h.fpOp
  | .fmin _ _ _ _ => h.fpOp
  | .fmax _ _ _ _ => h.fpOp
  | .fsgnj _ _ _ _ => h.fpOp
  | .fsgnjn _ _ _ _ => h.fpOp
  | .fsgnjx _ _ _ _ => h.fpOp
  | .feq _ _ _ _ => h.fpFeq
  | .flt _ _ _ _ => h.fpFlt
  | .fle _ _ _ _ => h.fpFle
  | .fclass _ _ _ => h.fpInt
  | .fcvtS _ _ _ => h.fpInt
  | .fcvtZ _ _ _ => h.fpInt
  | .fcvtfS _ _ _ => h.fpFromInt
  | .fcvtfZ _ _ _ => h.fpFromInt
  | .fcvtp _ _ _ => h.fpRes
  | .fmadd _ _ _ _ => h.fpOp
  | .fmsub _ _ _ _ => h.fpOp
  | .fnmadd _ _ _ _ => h.fpOp
  | .fcvtSt _ _ _ => h.fpInt
  | .faddLit _ _ _ _ => h.fpOp
  | .fsubLit _ _ _ _ => h.fpOp
  | .fmulLit _ _ _ _ => h.fpOp
  | .fdivLit _ _ _ _ => h.fpOp
  | .fminLit _ _ _ _ => h.fpOp
  | .fmaxLit _ _ _ _ => h.fpOp
  | .fsgnjLit _ _ _ _ => h.fpOp
  | .fsgnjnLit _ _ _ _ => h.fpOp
  | .fsgnjxLit _ _ _ _ => h.fpOp
  | .feqLit _ _ _ _ => h.fpFeq
  | .fltLit _ _ _ _ => h.fpFlt
  | .fleLit _ _ _ _ => h.fpFle
  | .fmaddLit _ _ _ _ => h.fpOp
  | .fmsubLit _ _ _ _ => h.fpOp
  | .fnmaddLit _ _ _ _ => h.fpOp
  | .ld _ _ _ _ _ => h.execLd
  | .st _ _ _ _ _ => h.execSt
  | .ldl _ _ _ _ => h.local h.upA.soon.doneD
  | .stl _ _ _ _ => h.execStl
  | .amoSwap _ _ _ _ _ _ => h.amo
  | .amoAdd _ _ _ _ _ _ => h.amo
  | .amoAnd _ _ _ _ _ _ => h.amo
  | .amoOr _ _ _ _ _ _ => h.amo
  | .amoXor _ _ _ _ _ _ => h.amo
  | .amoMin _ _ _ _ _ _ => h.amo
  | .amoMax _ _ _ _ _ _ => h.amo
  | .amoMinu _ _ _ _ _ _ => h.amo
  | .amoMaxu _ _ _ _ _ _ => h.amo
  | .amoCas _ _ _ _ _ _ => h.amo
  | .redAddF32 _ _ _ => h.red
  | .redAddBf16 _ _ _ => h.red
  | .redAddS32 _ _ _ => h.red
  | .redAddS64 _ _ _ => h.red
  | .redMaxF32 _ _ _ => h.red
  | .redMinF32 _ _ _ => h.red
  | .fence _ _ => (Canonical.startWait (.ite h h.relStep)).push
  | .sigadd _ _ => h.planned (fun _ _ h1 => h1.watched (h1.relStep.foldl (fun _ _ h2 => h2.push)).startWait)
  | .waitge _ _ _ => h.planned (fun _ _ h1 => h1.watched (h1.foldl (fun _ _ h2 => h2.startWait.push)))
  | .ctrrd _ _ => h.planned (fun _ _ h1 => h1.watched (h1.foldl (fun _ _ h2 => h2.upMe.push)).doneD)
  | .rflush => (Canonical.startWait (.ite h h.sendOwn)).push
  | .discard _ => h.planned (fun _ _ h1 => h1.watched (h1.foldl (fun _ _ h2 => h2.push)).done)
  | .l1inv => (Canonical.done (.ite h h.upCore)).upMe
  | .beq _ _ _ => h.branch
  | .bne _ _ _ => h.branch
  | .blt _ _ _ => h.branch
  | .bge _ _ _ => h.branch
  | .bltu _ _ _ => h.branch
  | .bgeu _ _ _ => h.branch
  | .jal _ _ => h.setG.jump
  | .jalr _ _ _ => .ite h.setG.jump h.trap
  | .lspan _ _ _ _ => .ite h.upA.jump h.upA.noJump
  | .lexit _ => .ite h.upA.jump h.noJump
  | .ldis _ => h.upA.noJump
  | .vadd _ _ _ _ _ => h.vop
  | .vsub _ _ _ _ _ => h.vop
  | .vmul _ _ _ _ _ => h.vop
  | .vfma _ _ _ _ _ => h.vop
  | .vfms _ _ _ _ _ => h.vop
  | .vmin _ _ _ _ _ => h.vop
  | .vmax _ _ _ _ _ => h.vop
  | .vand _ _ _ _ _ => h.vop
  | .vor _ _ _ _ _ => h.vop
  | .vxor _ _ _ _ _ => h.vop
  | .vshl _ _ _ _ _ => h.vop
  | .vshr _ _ _ _ _ => h.vop
  | .vceq _ _ _ _ _ => h.vcmp
  | .vclt _ _ _ _ _ => h.execVclt
  | .vcle _ _ _ _ _ => h.execVcle
  | .vsel _ _ _ _ _ => h.vmove
  | .vabs _ _ _ _ => h.vop
  | .vneg _ _ _ _ => h.vop
  | .vrcp _ _ _ _ => h.vtrn
  | .vrsq _ _ _ _ => h.vtrn
  | .vexp2 _ _ _ _ => h.vtrn
  | .vlog2 _ _ _ _ => h.vtrn
  | .vsqrt _ _ _ _ => h.vtrn
  | .vdiv _ _ _ _ _ => h.vtrn
  | .vaddg _ _ _ _ _ => h.vopG
  | .vmulg _ _ _ _ _ => h.vopG
  | .vfmag _ _ _ _ _ => h.vopG
  | .vming _ _ _ _ _ => h.vopG
  | .vmaxg _ _ _ _ _ => h.vopG
  | .vmovg _ _ _ _ => h.vmove
  | .vext _ _ _ _ => h.vecDone
  | .vins _ _ _ _ => h.vmove
  | .vcvtBf16F32 _ _ _ _ => h.vnarrow
  | .vcvtF32Bf16 _ _ _ _ => h.vwiden
  | .vcvtF16F32 _ _ _ _ => h.vnarrow
  | .vcvtF32F16 _ _ _ _ => h.vwiden
  | .vcvtE4m3F32 _ _ _ _ => h.vnarrow
  | .vcvtF32E4m3 _ _ _ _ => h.vwiden
  | .vcvtE5m2F32 _ _ _ _ => h.vnarrow
  | .vcvtF32E5m2 _ _ _ _ => h.vwiden
  | .vcvtS32F32 _ _ _ => h.execVcvtS32F32
  | .vcvtF32S32 _ _ _ => h.execVcvtF32S32
  | .vcvtS8S32 _ _ _ _ => h.execVcvtS8S32
  | .bfpenc _ _ _ _ => h.vecDone
  | .bfpdec _ _ _ _ => h.vecDone
  | .vldL _ _ _ _ _ => h.localOn h.upA.soon.vmemDone
  | .vstL _ _ _ _ _ => h.localOn (h.foldl (fun _ _ h1 => h1.upCC (fun _ h2 => h2.locWrite))).vmemDone
  | .vldG _ _ _ _ _ => h.execVldG
  | .vstG _ _ _ _ _ => h.execVstG
  | .vlds _ _ _ _ _ => h.execVlds
  | .vgathL _ _ _ _ _ => h.local h.upA.soon.vmemDone
  | .vscatL _ _ _ _ _ => h.execVscatL
  | .vperm _ _ _ _ _ => h.vecDone
  | .vredsum _ _ _ _ => .ite h.vecDone h.vecDone
  | .vredmax _ _ _ _ => h.vredMinmax
  | .vredmin _ _ _ _ => h.vredMinmax
  | .mand _ _ _ => h.maskOp
  | .mor _ _ _ => h.maskOp
  | .mnot _ _ => h.maskOp
  | .mpop _ _ _ => h.intOp'
  | .dual _ _ => .ite h.done h.retireW
  | .dget _ _ _ _ => .ite h.dmov h.dmov
  | .dset _ _ _ _ => .ite h.dmov h.dmov
  | .dclr _ _ _ => h.execDclr
  | .dclrAll _ _ => h.execDclrAll
  | .mmaBf16 _ _ _ _ _ _ => h.tensor
  | .mmaF16 _ _ _ _ _ _ => h.tensor
  | .mmaE4m3 _ _ _ _ _ _ => h.tensor
  | .mmaE5m2 _ _ _ _ _ _ => h.tensor
  | .mmaE4e5 _ _ _ _ _ _ => h.tensor
  | .mmaBfp _ _ _ _ _ _ _ => h.tensor
  | .mmaS8 _ _ _ _ => h.tensor
  | .mzero _ _ _ => h.tensor
  | .mtrn _ _ _ _ => h.tensor
  | .batt _ _ => h.notSys h.batt
  | .bdet _ => h.execBdet
  | .hover _ _ _ _ => h.execHover
  | .bwait _ => h.notSys (.ite h.done h.dropPend.startWait)
  | .bqry _ _ => h.notSys h.putInt.doneD
  | .tcset _ _ _ => h.notSys h.upA.done
  | .tcissue _ _ => h.execTcissue
  | .tcqry _ _ => h.notSys h.putInt.doneD
  | .sopen _ _ => h.notSys (.ite h.trap (.ite h.tornSend (Canonical.upSend (.ite h.sendFurl h)).push.done))
  | .ssend _ _ _ => h.notSys (.ite h.tornSend (.ite h.trap (.ite h.again h.push.upSend.done)))
  | .sclose _ => h.notSys (.ite h.tornSend (.ite h.trap h.sendFurl.done))
  | .recv _ _ => h.execRecv
  | .rrls _ _ => h.execRrls
  | .rring _ _ _ => h.notSys (.ite h.trap h.upRecv.bindNext.done)
  | .barr _ _ => h.barCheck fun _ => h.arrive
  | .barw _ _ => h.barCheck fun _ => h.barw
  | .barws _ _ => h.barCheck fun _ => .ite h.cross h.barw
  | .barq _ _ _ => h.barCheck fun _ => h.putInt.doneD
  | .barl _ => h.barCheck fun _ => h.arrive
  | .rtnext _ => h.execRtnext
  | .tspawn _ _ => h.execTspawn
  | .tdone => h.notSys h.startWait.push
  | .yield => h.execYield
  | .tsync _ => .ite h.illegal h.relStep.startWait.push
  | .ecall => h.trap
  | .ebreak => h.trap
  | .eret => .ite h.privFault h.eret
  | .wfi => .ite h.privFault h.startWait
  | .tlbinv _ _ _ => .ite h.privFault (.ite h.again h.relStep.startWait.push)
  | .halt => .ite h.privFault h.done.upMe
  | .crd _ _ => h.execCrd
  | .cwr _ _ => h.cwWrite
  | .csetb _ _ => h.cwWrite
  | .cclrb _ _ => h.cwWrite
  | .interruptDelivery _ => h.execInterruptDelivery
  | .resultReady _ => h.execResultReady
  | .planeGating _ => h.execPlaneGating
  | .planeWakeDone _ => h.execPlaneWakeDone
  | .homeLoadServe _ => h.execHomeLoadServe
  | .loadReply _ => h.execLoadReply
  | .homeStoreApply _ => h.execHomeStoreApply
  | .replicaCollapseAck _ => h.execReplicaCollapseAck
  | .amoSliceApply _ => h.execAmoSliceApply
  | .amoReply _ => h.execAmoReply
  | .releasePerformed _ => h.execReleasePerformed
  | .redArrival _ => h.execRedArrival
  | .refusalReturn _ => h.execRefusalReturn
  | .forcedMessageApply _ => h.execForcedMessageApply
  | .residualAgeExpiry _ => h.execResidualAgeExpiry
  | .quotaWindowStart => h.execQuotaWindowStart
  | .reductionQueueDrain _ => h.execReductionQueueDrain
  | .sigaddApply _ => h.execSigaddApply
  | .waitgeWake _ => h.execWaitgeWake
  | .waitgeRepoll _ => h.execWaitgeRepoll
  | .waitTimeout _ => h.execWaitTimeout
  | .energyRefill => h.execEnergyRefill
  | .tensorBind _ => h.execTensorBind
  | .mmaOccupancyEnd _ _ => h.execMmaOccupancyEnd
  | .mmaRetire _ _ => h.execMmaRetire
  | .copyBurstStart _ => h.execCopyBurstStart
  | .copyBurstComplete _ _ _ => h.execCopyBurstComplete
  | .copyRetire _ _ => h.execCopyRetire
  | .pageWalkDone _ => h.execPageWalkDone
  | .bankRefillDone _ _ => h.execBankRefillDone
  | .bankScrubDone _ _ => h.execBankScrubDone
  | .battWake _ => h.execBattWake
  | .hoverTableStep _ => h.execHoverTableStep
  | .bdetTableStep _ => h.execBdetTableStep
  | .bwaitWake _ => h.execBwaitWake
  | .barrierArrival _ => h.execBarrierArrival
  | .barwWake _ => h.execBarwWake
  | .specCommit _ => h.execSpecCommit
  | .specAbort _ _ _ => h.execSpecAbort
  | .guidonArrival _ => h.execGuidonArrival
  | .dataFlitLand _ => h.execDataFlitLand
  | .furlLand _ => h.execFurlLand
  | .pauseFlitLand _ => h.execPauseFlitLand
  | .creditArrival _ _ _ => h.execCreditArrival
  | .routeTear _ _ => h.execRouteTear
  | .recvWake _ => h.execRecvWake
  | .hostDoorbell _ _ _ => .ite h (.ite h.applyBell (.ite h.same (Canonical.ite h.qErr h)))
  | .admission _ => h.execAdmission
  | .admissionWaitEnd _ => h.execAdmissionWaitEnd
  | .taskBind _ => h.execTaskBind
  | .splitRequest _ => h.execSplitRequest
  | .splitWithdrawTimeout _ _ => h.execSplitWithdrawTimeout
  | .yieldPark _ => h.execYieldPark
  | .faultQueueWrite _ => h.execFaultQueueWrite
  | .tsyncAck _ => h.execTsyncAck
  | .tspawnStatus _ => h.execTspawnStatus
  | .cnextLoad _ _ => h.execCnextLoad
  | .cnextSwitch _ => h.execCnextSwitch
  | .ipost _ _ _ => h.execIpost
  | .preemption _ => h.execPreemption
  | .contextStreamEnd _ => h.execContextStreamEnd
  | .ctermGo _ _ => h.execCtermGo
  | .terminationDone _ => h.execTerminationDone
  | .tlbinvAck _ _ => h.execTlbinvAck
  | .pctlQuiesce _ => h.execPctlQuiesce
  | .pctlResume _ => h.execPctlResume
  | .pctlAbort _ => h.execPctlAbort
  | .quiesceTimeout _ => h.execQuiesceTimeout
  | .quiesceDrain _ => h.execQuiesceDrain
  | .resumeDone _ => h.execResumeDone
  | .shootGo _ => h.execShootGo
  | .shootdownDone _ => h.execShootdownDone
  | .registerWrite _ _ => h.execRegisterWrite
  | .hnote _ _ => h.execHnote
  | .hostBar2Write _ _ _ => h.execHostBar2Write
  | .hostBar2Read _ _ _ => h.execHostBar2Read
  | .atsRequest _ _ _ => h.execAtsRequest
  | .ethFrameArrival _ _ _ => .ite h h.same
  | .transportRequest _ => h.execTransportRequest
  | .transportReply _ => h.execTransportReply
  | .transportRetransmit _ _ _ => h.execTransportRetransmit
  | .nredContribution _ => h.execNredContribution
  | .nredDeadline _ _ => h.execNredDeadline
  | .pmcOverflow _ _ => h.execPmcOverflow
  | .dstopArm _ => h.execDstopArm
  | .domainStopLand _ => h.execDomainStopLand
  | .scrubRead _ => .ite h (Canonical.ite h.fixed (.ite h.badBank h.badLine))
  | .parityError _ => h.execParityError
  | .linkFailure _ _ => h.upDie.newRec.signal
  | .errorRecordFlush _ => h.execErrorRecordFlush
  | .machineCheck _ _ => h.execMachineCheck
  | .mcrel _ _ => h.execMcrel
  | .powerOnReset => .execPowerOnReset
  | .imageArrivalEth _ => Canonical.ite h.offer h
  | .imggo => .ite h h.offer
  | .imageCheckDone => h.execImageCheckDone
  | .systemCoreStart _ _ _ _ => h.execSystemCoreStart
  | .attgo _ _ => h.execAttgo
  | .attestationDone => h.execAttestationDone
  | .pm7Extend _ => h.execPm7Extend
  | .repairListAppend _ => h.setJost h.window
  | .sagDetect _ _ _ => .ite h h.same.upDie.pushAt
  | .stretchEnd => h.execStretchEnd
  | .coreClockCycle => h.execCoreClockCycle
  | .notAnInstruction _ => h.execNotAnInstruction
  | .instructionFetch => h.execInstructionFetch
  | .partNboundMilvWrite _ _ _ => h.execPartNboundMilvWrite
  | .msixTableWrite _ _ _ => .ite h (.ite h.same (.ite h h.same))

/-! ### Step -/

theorem Canonical.step (h : Canonical s) : CanonicalOut (step s) := Canonical.advance (fun _ _ h => h.exec) h

end
end Sys2Proof.Claims

namespace Sys2Proof

open Sys2Proof.Machine Sys2Proof.Claims

/-- Settles O58: `Canonical.step` reads off the outcome of the step. -/
theorem stepKeepsCanonicalMemory : Obligations.StepKeepsCanonicalMemory := by
  unfold Obligations.StepKeepsCanonicalMemory
  intro s t h e
  have ht : CanonicalOut (step s) := h.step
  rw [e] at ht
  exact ht

end Sys2Proof
end

section
/-! # The cycle's clocks

`Steady b k s` says that the clocks of the package and of thread set `k` stand in `s` as in `b`, with all that their counting depends
on. Only the cycle's own functions move them: every other function that CORE_CLOCK_CYCLE calls keeps `Steady`, one lemma for each. -/

set_option Elab.async false

namespace Sys2Proof.Claims
open Sys2Proof.Machine

/-- What a thread set's clocks depend on, and the clocks. -/
abbrev clockOf (u : TSet) : Word × Word × Nat × Option Wait × List (Nat × Nat × Word) := (u.cycle, u.pc, u.wclk, u.wait, u.pmw)

/-- The clocks of the package and of thread set `k`, with what their counting depends on. -/
abbrev clockView (k : Nat) (s : State) :=
  ((s.cyc, s.stretch, s.sagFrom, s.sagTo), (s.jost.booted, s.jost.listen), (s.core (coreOf k)).act, clockOf (s.t k))

/-- The clocks stand as in `b`. -/
def Steady (b : State) (k : Nat) (s : State) : Prop := clockView k s = clockView k b

/-- A map whose entries change beside what `f` reads of them. -/
theorem apply_mget_map {α β : Type} {f : α → β} {g : Nat × α → Nat × α} (hk : ∀ x, (g x).1 = x.1) (hf : ∀ x, f (g x).2 = f x.2)
    (m : AMap α) (k : Nat) (d : α) : f (mget (m.map g) k d) = f (mget m k d) := by
  induction m with
  | nil => rfl
  | cons x m ih =>
    have e : g x = (x.1, (g x).2) := Prod.ext (hk x) rfl
    rw [List.map_cons, e]
    unfold mget
    split
    · exact hf x
    · split
      · rfl
      · exact ih

section
variable {b s t : State} {k : Nat}

theorem Steady.refl : Steady s k s := rfl

/-- A change of the machine beside its clocks. -/
theorem Steady.same (h : Steady b k s) (e : clockView k t = clockView k s := by rfl) : Steady b k t := e.trans h

theorem Steady.snd {α : Type} {p : α × State} {a : α} (h : Steady b k p.2) (e : p = (a, t)) : Steady b k t := by
  rw [e] at h; exact h

theorem Steady.snd2 {α β : Type} {p : α × β × State} {a : α} {c : β} (h : Steady b k p.2.2) (e : p = (a, c, t)) : Steady b k t := by
  rw [e] at h; exact h

theorem Steady.foldl {α : Type} {f : State → α → State} {l : List α} (h : Steady b k s) (hf : ∀ s x, Steady b k s → Steady b k (f s x)) :
    Steady b k (l.foldl f s) := by
  induction l generalizing s with
  | nil => exact h
  | cons x l ih => exact ih (hf s x h)

theorem Steady.ite {c : Prop} [Decidable c] {s t : State} (hs : Steady b k s) (ht : Steady b k t) : Steady b k (if c then s else t) := by
  split
  · exact hs
  · exact ht

theorem Steady.iteSnd {α : Type} {c : Prop} [Decidable c] {p q : α × State} (hp : Steady b k p.2) (hq : Steady b k q.2) :
    Steady b k (if c then p else q).2 := by
  split
  · exact hp
  · exact hq

/-- A change of a thread set beside its clocks. -/
theorem Steady.upT {i : Nat} {f : TSet → TSet} (h : Steady b k s) (hf : ∀ u, clockOf (f u) = clockOf u := by intro; rfl) :
    Steady b k (s.upT i f) := by
  refine h.same ?_
  by_cases hi : i = k
  · subst hi
    simp [clockView, hf]
  · have e : (s.upT i f).t k = s.t k := upT_at_ne s f (Ne.symm hi)
    simp only [clockView, e]
    rfl

theorem Steady.upCC {i : Nat} {f : CC → CC} (h : Steady b k s) : Steady b k (s.upCC i f) := h.same
theorem Steady.upCl {i : Nat} {f : ClusterSt → ClusterSt} (h : Steady b k s) : Steady b k (s.upCl i f) := h.same
theorem Steady.upSlice {i : Nat} {f : SliceSt → SliceSt} (h : Steady b k s) : Steady b k (s.upSlice i f) := h.same
theorem Steady.upChan {i : Nat} {f : ChanSt → ChanSt} (h : Steady b k s) : Steady b k (s.upChan i f) := h.same
theorem Steady.upDie {i : Nat} {f : DieSt → DieSt} (h : Steady b k s) : Steady b k (s.upDie i f) := h.same
theorem Steady.upPart {i : Nat} {f : PartSt → PartSt} (h : Steady b k s) : Steady b k (s.upPart i f) := h.same
theorem Steady.upCtx {i : Nat} {f : Ctx → Ctx} (h : Steady b k s) : Steady b k (s.upCtx i f) := h.same
theorem Steady.pushAt {due : Nat} {e : Ev} (h : Steady b k s) : Steady b k (s.pushAt due e) := h.same
theorem Steady.push {e : Ev} (h : Steady b k s) : Steady b k (s.push e) := h.same

/-! ### What moves no clock -/

theorem Steady.fillLine {home key : Nat} {i : BitVec 4} (h : Steady b k s) : Steady b k (s.fillLine home key i) := by
  unfold State.fillLine
  refine .ite h ?_
  split
  exact h.upSlice

theorem Steady.heal {home key : Nat} {i : BitVec 4} (h : Steady b k s) : Steady b k (s.heal home key i) := by
  unfold State.heal
  split
  · exact h
  · exact h.same.upSlice

theorem Steady.homeRead {home pa n : Nat} (h : Steady b k s) : Steady b k (s.homeRead home pa n).2 := h.fillLine

theorem Steady.homeWrite {home pa : Nat} {on : List Bool} {bs : List Byte} {w : Nat} (h : Steady b k s) :
    Steady b k (s.homeWrite home pa on bs w) :=
  h.fillLine.upSlice

theorem Steady.evictL2 {home key : Nat} (h : Steady b k s) : Steady b k (s.evictL2 home key) := by
  unfold State.evictL2
  split
  · exact h
  · extract_lets s1
    have h1 : Steady b k s1 := h.upSlice
    exact .ite h1 (.ite h1.same h1.upSlice)

theorem Steady.evictMsc {home key : Nat} (h : Steady b k s) : Steady b k (s.evictMsc home key) := by
  unfold State.evictMsc
  split
  · exact h
  · extract_lets s1
    have h1 : Steady b k s1 := h.upSlice
    exact h1.same

theorem Steady.trimSet {home key : Nat} (h : Steady b k s) : Steady b k (s.trimSet home key) := by
  unfold State.trimSet
  refine .ite h ?_
  split
  · exact h.same.evictL2
  · exact h

theorem Steady.trimSlot {home key : Nat} (h : Steady b k s) : Steady b k (s.trimSlot home key) := by
  unfold State.trimSlot
  split
  · exact .ite h h.evictMsc
  · exact h

theorem Steady.trimSlice {home : Nat} (h : Steady b k s) : Steady b k (s.trimSlice home) :=
  .ite (.ite h (h.foldl (fun _ _ h1 => h1.trimSet)))
    (Steady.foldl (.ite h (h.foldl (fun _ _ h1 => h1.trimSet))) (fun _ _ h1 => h1.trimSlot))

theorem Steady.collapse {key : Nat} (h : Steady b k s) : Steady b k (s.collapse key) := h.same

theorem Steady.learn {p cid : Nat} (h : Steady b k s) : Steady b k (s.learn p cid) := .ite h h.upCtx

theorem Steady.postIrq {tk : Nat} {lines : BitVec 8} (h : Steady b k s) : Steady b k (s.postIrq tk lines) := by
  unfold State.postIrq
  split
  · exact h.upT
  · split
    · exact h
    · exact .ite h h.collapse.heal.homeWrite

theorem Steady.swNote {home pa n : Nat} {wr : Bool} {cls clus : Nat} (h : Steady b k s) : Steady b k (s.swNote home pa n wr cls clus) :=
  h.foldl (fun _ _ h1 => .ite (.ite h1.upSlice (.ite h1.upSlice.learn.postIrq h1.upSlice.learn)) h1)

theorem Steady.hwNote {home pa n : Nat} {wr : Bool} (h : Steady b k s) : Steady b k (s.hwNote home pa n wr) := .ite h.same h.swNote

theorem Steady.noteN {g : Nat → Nat} {pa n f : Nat} {wr : Bool} (h : Steady b k s) : Steady b k (s.noteN g pa n wr f) := by
  induction f generalizing s pa n with
  | zero => exact h
  | succ f ih => exact .ite h (ih h.hwNote)

theorem Steady.wrN {g : Nat → Nat} {pa w f : Nat} {bs : List Byte} (h : Steady b k s) : Steady b k (s.wrN g pa w bs f) := by
  induction f generalizing s pa bs with
  | zero => exact h
  | succ f ih =>
    cases bs with
    | nil => exact h
    | cons c bs => exact ih h.hwNote.collapse.heal.homeWrite

theorem Steady.wrBy {g : Nat → Nat} {pa w : Nat} {bs : List Byte} (h : Steady b k s) : Steady b k (s.wrBy g pa w bs) := h.wrN

theorem Steady.wr00 {p pa w : Nat} {bs : List Byte} (h : Steady b k s) : Steady b k (s.wr00 p pa w bs) := h.wrBy

theorem Steady.wrWord {p pa w : Nat} {v : Word} (h : Steady b k s) : Steady b k (s.wrWord p pa w v) := h.wr00

theorem Steady.putTcb {p pa : Nat} {r : TcbRec} (h : Steady b k s) : Steady b k (s.putTcb p pa r) := h.wrBy.upPart

theorem Steady.getTcb {p pa : Nat} (h : Steady b k s) : Steady b k (s.getTcb p pa).2 := by
  unfold State.getTcb
  split
  · exact h
  · exact h.noteN.upPart

theorem Steady.markAD {p ea cid : Nat} {e : Word} {i : AccessKind} (h : Steady b k s) : Steady b k (s.markAD p ea cid e i) :=
  .ite h h.wrWord

theorem Steady.walkAt {hw : Bool} {p cid : Nat} {va : Word} {acc : AccessKind} {priv a lvl f : Nat} (h : Steady b k s) :
    Steady b k (s.walkAt hw p cid va acc priv a lvl f).2.2 := by
  induction f generalizing s a lvl with
  | zero => exact h
  | succ f ih =>
    unfold State.walkAt
    extract_lets _ _ _ s1 _ s2
    have h1 : Steady b k s1 := h.hwNote
    have h2 : Steady b k s2 := h1.markAD
    split
    · exact h
    · split
      · exact h
      · split
        · exact h1
        · split
          · split
            · exact h1
            · exact ih h1
          · split
            · exact h1
            · split
              · exact h2
              · exact h1

theorem Steady.walkBy {hw : Bool} {cid : Nat} {va : Word} {i : AccessKind} {priv : Nat} (h : Steady b k s) :
    Steady b k (s.walkBy hw cid va i priv).2.2 := by
  unfold State.walkBy
  extract_lets
  split
  · exact h
  · exact h.walkAt

theorem Steady.xlatHw {cid d : Nat} {va : Word} {i : AccessKind} {priv : Nat} (h : Steady b k s) :
    Steady b k (s.xlatHw cid d va i priv).2 := by
  unfold State.xlatHw
  split
  · rename_i s1 e1
    have h1 : Steady b k s1 := h.walkBy.snd2 e1
    split <;> exact h1
  · rename_i s1 _ e1
    have h1 : Steady b k s1 := h.walkBy.snd2 e1
    exact h1

theorem Steady.hwRead {cid d : Nat} {va : Word} {n : Nat} (h : Steady b k s) : Steady b k (s.hwRead cid d va n).2 := by
  unfold State.hwRead
  split
  · rename_i s1 e1
    have h1 : Steady b k s1 := h.xlatHw.snd e1
    exact h1.hwNote
  · rename_i s1 e1
    have h1 : Steady b k s1 := h.xlatHw.snd e1
    exact h1

theorem Steady.hwWrite {cid d : Nat} {va : Word} {bs : List Byte} (h : Steady b k s) (e : s.hwWrite cid d va bs = some t) :
    Steady b k t := by
  unfold State.hwWrite at e
  split at e
  · rename_i s1 e1
    have h1 : Steady b k s1 := h.xlatHw.snd e1
    cases e
    exact h1.hwNote.collapse.heal.homeWrite
  · cases e

theorem Steady.wakeWaiters {home pa c : Nat} (h : Steady b k s) : Steady b k (s.wakeWaiters home pa c) := by
  unfold State.wakeWaiters
  refine h.upSlice.foldl fun s1 x1 h1 => ?_
  split <;> exact h1.push

theorem Steady.ctrAdd {home pa amt cid : Nat} {sat : Bool} (h : Steady b k s) : Steady b k (s.ctrAdd home pa amt cid sat).2 := by
  unfold State.ctrAdd
  split
  rename_i s1 e1
  have h1 : Steady b k s1 := h.homeRead.snd e1
  extract_lets
  split
  · exact h1.collapse.homeWrite.wakeWaiters
  · split
    · exact h1.collapse.homeWrite.wakeWaiters
    · exact h1

theorem Steady.trace {tk kind : Nat} {step : BitVec 32} {pc val : Word} (h : Steady b k s) : Steady b k (s.trace tk kind step pc val) := by
  unfold State.trace
  extract_lets cid c d
  refine .ite h ?_
  split
  · extract_lets
    refine .ite h ?_
    split
    · exact h
    · rename_i s1 e1
      have h1 : Steady b k s1 := h.hwWrite e1
      split
      · exact h
      · rename_i s2 e2
        exact (h1.hwWrite e2).hwNote.heal.ctrAdd
  · exact h

theorem Steady.unlessHeld {f : State → State} (h : Steady b k s) (hf : ∀ t, Steady b k t → Steady b k (f t)) :
    Steady b k (s.unlessHeld f) :=
  .ite h (hf _ h)

theorem Steady.setPhys {cl bit st : Nat} (h : Steady b k s) : Steady b k (s.setPhys cl bit st) := h.upCl

theorem Steady.scrub {cl bit : Nat} (h : Steady b k s) : Steady b k (s.scrub cl bit) := h.setPhys.pushAt

theorem Steady.setSlot {cc n : Nat} {x : Slot} (h : Steady b k s) : Steady b k (s.setSlot cc n x) := h.upCC

theorem Steady.release {cc n : Nat} (h : Steady b k s) : Steady b k (s.release cc n) := by
  unfold State.release
  split
  · exact h.setSlot
  · extract_lets s1
    have h1 : Steady b k s1 := h.setSlot
    split
    · exact h1.scrub
    · exact h1

theorem Steady.tickLanes {cl : Nat} (h : Steady b k s) : Steady b k (s.tickLanes cl) := h.foldl fun _ _ h1 => .ite h1.upCC.pushAt h1.upCC

theorem Steady.upSend {cc p : Nat} {f : SendPort → SendPort} (h : Steady b k s) : Steady b k (s.upSend cc p f) := h.upCC

theorem Steady.signal {f v : Nat} (h : Steady b k s) : Steady b k (s.signal f v) := .ite h (.ite (.ite h h.same) h.same)

theorem Steady.signalQ {p q : Nat} (h : Steady b k s) : Steady b k (s.signalQ p q) := .ite h.signal h

theorem Steady.mapTs {g : Nat × TSet → Nat × TSet} {g' : Nat × CoreSt → Nat × CoreSt} (h : Steady b k s)
    (hk : ∀ x, (g x).1 = x.1) (hg : ∀ x, clockOf (g x).2 = clockOf x.2)
    (hk' : ∀ x, (g' x).1 = x.1) (hg' : ∀ x, (g' x).2.act = x.2.act) :
    Steady b k { s with ts := s.ts.map g, cores := s.cores.map g' } := by
  refine h.same ?_
  have e : clockOf (State.t { s with ts := s.ts.map g, cores := s.cores.map g' } k) = clockOf (s.t k) := apply_mget_map hk hg _ _ _
  have e' : (State.core { s with ts := s.ts.map g, cores := s.cores.map g' } (coreOf k)).act = (s.core (coreOf k)).act :=
    apply_mget_map hk' hg' _ _ _
  simp only [clockView, e, e']

theorem Steady.startTerm {d cid : Nat} {why : Option (Nat × Word)} (h : Steady b k s) : Steady b k (s.startTerm d cid why) := by
  unfold State.startTerm
  refine .ite h (.ite h.upDie (Steady.push (Steady.upDie (h.mapTs ?_ ?_ ?_ ?_))))
  · intro x
    dsimp only
    split <;> rfl
  · intro x
    dsimp only
    split <;> rfl
  · exact fun _ => rfl
  · exact fun _ => rfl

theorem Steady.dispFail {p cid : Nat} (h : Steady b k s) : Steady b k (s.dispFail p cid) := h.startTerm

theorem Steady.detachAll {cc : Nat} (h : Steady b k s) : Steady b k (s.detachAll cc) := by
  unfold State.detachAll
  refine h.foldl fun s1 x1 h1 => ?_
  split
  · exact h1.release
  · exact h1

theorem Steady.returnChan {ch : Nat} (h : Steady b k s) : Steady b k (s.returnChan ch) := by
  unfold State.returnChan
  extract_lets s1
  have h1 : Steady b k s1 := h.upChan
  exact h1.same

theorem Steady.complete? {p cid seq : Nat} (h : Steady b k s) : Steady b k (s.complete? p cid seq) := by
  unfold State.complete?
  split
  · exact h
  · refine .ite h (.ite (((h.foldl (fun _ _ h1 => h1.detachAll)).foldl (fun _ _ h1 => h1.returnChan)).foldl ?_).upPart.signalQ ?_)
    · intro s1 x1 h1
      split
      rename_i s2 e1
      have h2 : Steady b k s2 := h1.getTcb.snd e1
      exact h2.putTcb
    · split
      · rename_i s1 e1
        have h1 : Steady b k s1 := by
          refine (((h.foldl (fun _ _ h1 => h1.detachAll)).foldl (fun _ _ h1 => h1.returnChan)).foldl ?_).upPart.xlatHw.snd e1
          intro s2 x1 h1
          split
          rename_i s3 e2
          have h2 : Steady b k s3 := h1.getTcb.snd e2
          exact h2.putTcb
        split
        · rename_i s2 e2
          have h2 : Steady b k s2 := h1.hwNote.heal.ctrAdd.snd e2
          exact h2.signalQ
        · rename_i s2 e2
          have h2 : Steady b k s2 := h1.hwNote.heal.ctrAdd.snd e2
          exact h2.dispFail
      · rename_i s1 e1
        have h1 : Steady b k s1 := by
          refine (((h.foldl (fun _ _ h1 => h1.detachAll)).foldl (fun _ _ h1 => h1.returnChan)).foldl ?_).upPart.xlatHw.snd e1
          intro s2 x1 h1
          split
          rename_i s3 e2
          have h2 : Steady b k s3 := h1.getTcb.snd e2
          exact h2.putTcb
        exact h1.dispFail

theorem Steady.completeAll {p : Nat} (h : Steady b k s) : Steady b k (s.completeAll p) :=
  h.foldl (fun _ _ h1 => .ite (h1.unlessHeld (fun _ h2 => h2.complete?)) h1)

theorem Steady.withdraw {p tk : Nat} (h : Steady b k s) : Steady b k (s.withdraw p tk) := h.upPart

theorem Steady.headVa {p q : Nat} (h : Steady b k s) : Steady b k (s.headVa p q).2 := by
  unfold State.headVa
  split
  · rename_i s1 e1
    have h1 : Steady b k s1 := h.learn.hwRead.snd e1
    exact h1
  · rename_i s1 e1
    have h1 : Steady b k s1 := h.learn.hwRead.snd e1
    exact h1

theorem Steady.admWaiters {p : Nat} (h : Steady b k s) : Steady b k (s.admWaiters p) := by
  unfold State.admWaiters
  refine h.foldl fun s1 x1 h1 => ?_
  split
  · exact .ite h1 h1.upSlice
  · exact h1

theorem Steady.pmcWrap {tk i : Nat} (h : Steady b k s) : Steady b k (s.pmcWrap tk i) := by
  unfold State.pmcWrap
  extract_lets t0 s1 s2
  have h1 : Steady b k s1 := h.upT
  have h2 : Steady b k s2 := h1.trace
  exact .ite (.ite h1.push h2) h1

theorem Steady.tickParked (h : Steady b k s) : Steady b k s.tickParked := h.same

theorem Steady.tickRoutes (h : Steady b k s) : Steady b k s.tickRoutes := h.foldl fun _ _ h1 => h1.foldl (fun _ _ h2 => h2.upSend)

theorem Steady.once {c : Bool} {e : Ev} (h : Steady b k s) : Steady b k (s.once c e) := .ite h.same h

theorem Steady.dueTs {tk : Nat} (h : Steady b k s) : Steady b k (s.dueTs tk) :=
  .ite h (Steady.once (.ite h.once.once.withdraw h.once.once)).once.once

theorem Steady.duePart {p : Nat} (h : Steady b k s) : Steady b k (s.duePart p) :=
  (Steady.once (.ite (h.once.completeAll.unlessHeld (fun _ h1 => h1.admWaiters)) h.once.completeAll)).once

theorem Steady.dueUnits (h : Steady b k s) : Steady b k s.dueUnits :=
  (((h.foldl (fun _ _ h1 => h1.once.once)).foldl (fun _ _ h1 => h1.once)).foldl (fun _ _ h1 => h1.foldl (fun _ _ h2 => h2.once))).foldl
    fun _ _ h1 => h1.once

/-! ### The cycle of a thread set, and of the package -/

theorem Steady.upT_ne {i : Nat} {f : TSet → TSet} (h : Steady b k s) (hi : i ≠ k) : Steady b k (s.upT i f) := by
  refine h.same ?_
  have e : (s.upT i f).t k = s.t k := upT_at_ne s f hi.symm
  simp only [clockView, e]
  rfl

/-- Events mark no clock. -/
theorem clockOf_ev (u : TSet) (code : Nat) : clockOf (u.ev code) = clockOf u := rfl

theorem clockOf_levels (s : State) (tk : Nat) (u : TSet) : clockOf (s.levels tk u) = clockOf u := by
  have hev : ∀ (c : Prop) [Decidable c] (v : TSet) (code : Nat), clockOf (if c then v.ev code else v) = clockOf v := by
    intro c _ v code
    split <;> rfl
  unfold State.levels
  simp only [hev]

/-- The counters of a cc count before the thread set's CYCLE does. -/
theorem Steady.countOne {tk : Nat} {l : List Nat} {on : Nat → Bool} {wrapped : List Nat} (h : Steady b k s) :
    Steady b k (l.foldl (fun s i => if !on i then s else if wrapped.contains i then s.pmcWrap tk i
      else s.upT tk (fun t => { t with pmc := vset t.pmc i (vget t.pmc i 0 + 1) })) s) :=
  h.foldl fun _ _ h => .ite h (.ite h.pmcWrap h.upT)

/-- Another thread set's cycle. -/
theorem Steady.tickTs_ne {tk : Nat} (h : Steady b k s) (hi : tk ≠ k) : Steady b k (s.tickTs tk) := by
  have hl : Steady b k (s.upT tk (s.levels tk)) := h.upT_ne hi
  have hc : Steady b k (s.countPmcs tk) := hl.countOne.upT_ne hi
  exact .ite (h.upT_ne hi) (hc.upT_ne hi)

/-- The wait clock of a thread set once a cc has passed (07 R144). -/
def nextWclk (u : TSet) : Nat :=
  match u.wait with
  | some w => if w.bounded || (w == .plane && u.wclk != 0) then u.wclk + 1 else u.wclk
  | none => if u.wclk = 0 then 0 else u.wclk + 1

/-- The machine with thread set `k` one cc on, as far as its clocks go. -/
def ticked (k : Nat) (s : State) : State := s.upT k fun u => { u with cycle := u.cycle + 1, wclk := nextWclk u }

theorem ticked_at (k : Nat) (s : State) :
    (ticked k s).t k = { s.t k with cycle := (s.t k).cycle + 1, wclk := nextWclk (s.t k) } := upT_at_same ..

theorem steady_iff : Steady b k s ↔ (s.cyc = b.cyc ∧ s.stretch = b.stretch ∧ s.sagFrom = b.sagFrom ∧ s.sagTo = b.sagTo) ∧
    (s.jost.booted = b.jost.booted ∧ s.jost.listen = b.jost.listen) ∧ (s.core (coreOf k)).act = (b.core (coreOf k)).act ∧
    clockOf (s.t k) = clockOf (b.t k) := by
  simp [Steady, clockView]

theorem Steady.onCore (h : Steady b k s) : s.onCore k = b.onCore k := by
  obtain ⟨_, _, ha, _⟩ := steady_iff.1 h
  simp [State.onCore, ha]

theorem Steady.pmw (h : Steady b k s) : (s.t k).pmw = (b.t k).pmw := by
  obtain ⟨_, _, _, hc⟩ := steady_iff.1 h
  simp only [clockOf, Prod.mk.injEq] at hc
  exact hc.2.2.2.2

/-- A change of the clocks of the thread set, the same on both sides. -/
theorem Steady.upT_both {f g : TSet → TSet} (h : Steady b k s) (e : clockOf (f (s.t k)) = clockOf (g (b.t k))) :
    Steady (b.upT k g) k (s.upT k f) := by
  obtain ⟨hc, hj, ha, _⟩ := steady_iff.1 h
  exact steady_iff.2 ⟨hc, hj, ha, by rw [upT_at_same, upT_at_same]; exact e⟩

theorem nextWclk_eq (u : TSet) :
    (if (match u.wait with | some w => w.bounded | none => false) || (u.wclk != 0 && (u.wait.isNone || u.wait == some .plane))
      then u.wclk + 1 else u.wclk) = nextWclk u := by
  unfold nextWclk
  cases u.wait with
  | none => by_cases hz : u.wclk = 0 <;> simp [hz]
  | some w => simp [Bool.and_comm]

theorem nextWclk_congr {u v : TSet} (e : clockOf u = clockOf v) : nextWclk u = nextWclk v := by
  obtain ⟨_, _, hk, hw, _⟩ : _ ∧ _ ∧ u.wclk = v.wclk ∧ u.wait = v.wait ∧ _ := by simpa only [Prod.mk.injEq] using e
  unfold nextWclk
  rw [hk, hw]

/-- CYCLE counts, where no write of the counters is under way. -/
theorem Steady.countPmcs (h : Steady b k s) (hp : (b.t k).pmw = []) :
    Steady (b.upT k fun u => { u with cycle := u.cycle + 1 }) k (s.countPmcs k) := by
  unfold State.countPmcs
  extract_lets s1 t1 on wrapped s2
  have h2 : Steady b k s2 := (h.upT (clockOf_levels s k) : Steady b k s1).countOne
  clear_value s2
  refine h2.upT_both ?_
  obtain ⟨_, _, _, hc⟩ := steady_iff.1 h2
  simp only [clockOf, Prod.mk.injEq] at hc ⊢
  obtain ⟨hy, hpc, hk, hw, hm⟩ := hc
  simp only [hm, hp, List.foldl_nil, hy, hpc, hk, hw, and_self]

/-- The thread set's own cycle, where its context is active and no write of its counters is under way. -/
theorem Steady.tickTs_same (h : Steady b k s) (hon : b.onCore k = true) (hp : (b.t k).pmw = []) :
    Steady (ticked k b) k (s.tickTs k) := by
  have hs : s.onCore k = true := h.onCore.trans hon
  have h1 := h.countPmcs hp
  obtain ⟨_, _, _, hc⟩ := steady_iff.1 h1
  unfold State.tickTs
  rw [if_neg (by simp [hs])]
  refine (h1.upT_both (g := fun u => { u with wclk := nextWclk u, pmw := [] }) ?_).trans ?_
  · have hk := nextWclk_congr hc
    simp only [clockOf, Prod.mk.injEq] at hc ⊢
    obtain ⟨hy, hpc, _, hw, _⟩ := hc
    exact ⟨hy, hpc, (nextWclk_eq _).trans hk, hw, trivial⟩
  · refine steady_iff.2 ⟨⟨rfl, rfl, rfl, rfl⟩, ⟨rfl, rfl⟩, rfl, ?_⟩
    simp only [ticked, upT_at_same, clockOf, hp]
    rfl

/-- The cycles of the thread sets of a list that does not name this one. -/
theorem Steady.tickOthers {l : List Nat} (h : Steady b k s) (hk : k ∉ l) : Steady b k (l.foldl (fun s tk => s.tickTs tk) s) := by
  induction l generalizing s with
  | nil => exact h
  | cons x l ih =>
    obtain ⟨hx, hl⟩ := not_or.1 (mt List.mem_cons.2 hk)
    exact ih (h.tickTs_ne (Ne.symm hx)) hl

/-- The cycles of the thread sets of a list that names this one once. -/
theorem Steady.tickAll {l : List Nat} (h : Steady b k s) (hl : l.Nodup) (hk : k ∈ l) (hon : b.onCore k = true) (hp : (b.t k).pmw = []) :
    Steady (ticked k b) k (l.foldl (fun s tk => s.tickTs tk) s) := by
  induction l generalizing s with
  | nil => exact absurd hk List.not_mem_nil
  | cons x l ih =>
    obtain ⟨hx, hl⟩ := List.nodup_cons.1 hl
    by_cases e : x = k
    · subst e
      exact (h.tickTs_same hon hp).tickOthers hx
    · exact ih (h.tickTs_ne e) hl ((List.mem_cons.1 hk).resolve_left (Ne.symm e))
/-- Jostauth listens where no image has passed. -/
def listening (s : State) : State := { s with jost := if s.jost.booted then s.jost else { s.jost with listen := true } }

/-- The clocks of the package one cc on. -/
def timed (s : State) : State := { s with cyc := s.cyc + 1, stretch := if s.stretched then s.stretch + 1 else s.stretch }

theorem Steady.listen {cls : AMap ClusterSt} (h : Steady b k s) :
    Steady (listening b) k
      { s with clusters := cls, jost := if s.jost.booted then s.jost else { s.jost with listen := true } } := by
  obtain ⟨hy, ⟨hb, hl⟩, ha, hc⟩ := steady_iff.1 h
  refine steady_iff.2 ⟨hy, ?_, ha, hc⟩
  unfold listening
  dsimp only
  rw [hb]
  split
  · exact ⟨hb, hl⟩
  · exact ⟨rfl, rfl⟩

theorem Steady.tickUnits (h : Steady b k s) : Steady (listening b) k s.tickUnits := by
  unfold State.tickUnits
  extract_lets cls s1 s2 s3
  have h1 : Steady b k s1 := h.foldl fun _ _ h => h.tickLanes
  have h2 : Steady b k s2 := h1.same
  have h3 : Steady b k s3 := h2.foldl fun _ _ h => h.trimSlice
  exact h3.listen

theorem Steady.time {n : Nat} (h : Steady b k s) :
    Steady (timed b) k { s with stretch := if s.stretched then s.stretch + 1 else s.stretch, cyc := s.cyc + 1, here := n } := by
  obtain ⟨⟨hy, hs, hf, ht⟩, hj, ha, hc⟩ := steady_iff.1 h
  have e : s.stretched = b.stretched := by simp only [State.stretched, hy, hf, ht]
  refine steady_iff.2 ⟨⟨congrArg (· + 1) hy, ?_, hf, ht⟩, hj, ha, hc⟩
  unfold timed
  dsimp only
  rw [e, hs]

/-- What the cycle does once every thread set has had its cc: the clocks of the package go on, and the issue list is made last. -/
theorem exec_coreClockCycle (s : State) : ∃ u, exec .coreClockCycle s = .next { u with issueq := u.issueList } ∧
    ∀ k b, Steady b k ((s.ts.map Prod.fst).foldl (fun s tk => s.tickTs tk) s) → Steady (timed (listening b)) k u := by
  change ∃ u, execCoreClockCycle s = _ ∧ _
  unfold execCoreClockCycle
  extract_lets s1 s2 s3 s4 s5 s6 s7 s8
  refine ⟨s8, rfl, fun k b h => ?_⟩
  have h2 : Steady (listening b) k s2 := Steady.tickUnits (Steady.tickRoutes (Steady.tickParked h))
  have h3 : Steady (timed (listening b)) k s3 := h2.time
  have h6 : Steady (timed (listening b)) k s6 := h3.once.once.foldl fun _ _ h => h.dueTs
  exact (h6.foldl fun _ _ h => .ite h.duePart h).dueUnits

theorem mget_of_mfind {α : Type} {m : AMap α} {k : Nat} {v d : α} (h : mfind m k = some v) : mget m k d = v := by
  induction m with
  | nil => cases h
  | cons x m ih =>
    unfold mfind at h
    unfold mget
    split at h
    · rw [if_pos ‹_›]
      exact Option.some.inj h
    · rw [if_neg ‹_›]
      split at h
      · cases h
      · rw [if_neg ‹_›]
        exact ih h

theorem mem_of_mfind {α : Type} {m : AMap α} {k : Nat} {v : α} (h : mfind m k = some v) : k ∈ m.map Prod.fst := by
  induction m with
  | nil => cases h
  | cons x m ih =>
    unfold mfind at h
    split at h
    · exact List.mem_map.2 ⟨_, List.mem_cons_self, ‹_›⟩
    · split at h
      · cases h
      · exact List.mem_cons_of_mem _ (ih h)

end
end Sys2Proof.Claims

namespace Sys2Proof

open Sys2Proof.Machine Sys2Proof.Claims

/-- Settles O53. The clocks of the package are read at a thread set that is none of the machine's, which no cycle touches. -/
theorem cycleCounts : Obligations.CycleCounts := by
  unfold Obligations.CycleCounts
  intro s
  obtain ⟨u, e, hu⟩ := exec_coreClockCycle s
  refine ⟨_, e, ?_⟩
  obtain ⟨n, hn⟩ := Infinite.exists_notMem_finset (s.ts.map Prod.fst).toFinset
  obtain ⟨⟨hy, hs, _, _⟩, ⟨_, hl⟩, _, _⟩ := steady_iff.1 (hu n s (Steady.refl.tickOthers (mt List.mem_toFinset.2 hn)))
  refine ⟨hy, rfl, hs, fun hb => ?_, fun hp tk v hv hon hw => ?_⟩
  · rw [hl]
    simp [timed, listening, hb]
  · have ht : s.t tk = v := mget_of_mfind hv
    have hnd : (s.ts.map Prod.fst).Nodup := hp.imp Nat.ne_of_lt
    obtain ⟨_, _, _, hc⟩ := steady_iff.1 (hu tk _ (Steady.refl.tickAll hnd (mem_of_mfind hv) hon (ht ▸ hw)))
    have hc' : clockOf (u.t tk) = clockOf { v with cycle := v.cycle + 1, wclk := nextWclk v } := by
      rw [hc, ← ht]
      exact congrArg clockOf (ticked_at tk s)
    simp only [clockOf, Prod.mk.injEq] at hc'
    obtain ⟨hcy, hpc, hk, _, _⟩ := hc'
    exact ⟨hcy, hpc, hk⟩

end Sys2Proof
end

section
/-! # Register writes

What a write of a register without behaviour of its own does, block by block. -/

namespace Sys2Proof.Claims

open Sys2Proof.Machine

/-! ### The checks of a value -/

theorem mshareOk_iff (v : Word) : mshareOk v = true ↔ ∀ k, k < 8 → v.toNat / 2 ^ (4 * k) % 16 ≤ 8 := by
  have hs : ∀ k, k ∈ span 0 8 ↔ k < 8 := fun k => by simp only [span, List.mem_cons, List.not_mem_nil, or_false]; omega
  simp only [mshareOk, List.all_eq_true, decide_eq_true_eq, hs]
  rfl

/-- A quarantine entry of the L2 (24 R422). -/
theorem quarOk_l2 {v : Word} (h : v.getLsbD 1 = false) :
    quarOk v = true ↔ v.toNat / 4 % 2 ^ 17 ≤ 909 ∧ v.toNat / 2 ^ 19 % 16 ≤ 11 := by
  unfold quarOk
  rw [if_neg (by rw [h]; exact Bool.false_ne_true), Bool.and_eq_true, decide_eq_true_eq, decide_eq_true_eq]
  rfl

/-! ### A write changes no thread set -/

theorem foldl_ts {α : Type} {f : State → α → State} (hf : ∀ s x, (f s x).ts = s.ts) (l : List α) (s : State) :
    (l.foldl f s).ts = s.ts := by
  induction l generalizing s with
  | nil => rfl
  | cons x l ih => rw [List.foldl_cons, ih, hf]

theorem evictMsc_ts (s : State) (home key : Nat) : (s.evictMsc home key).ts = s.ts := by
  unfold State.evictMsc
  split <;> rfl

theorem clusterPut_ts (s : State) (c off : Nat) (v : Word) : (s.clusterPut c off v).ts = s.ts := by
  unfold State.clusterPut
  dsimp only
  split_ifs <;> rfl

theorem quarPut_ts (s : State) (c i : Nat) (v : Word) : (s.quarPut c i v).ts = s.ts := by
  unfold State.quarPut
  extract_lets s1
  split
  · rfl
  · split
    · refine foldl_ts (fun t x => ?_) _ s1
      split
      · exact evictMsc_ts t c x.1
      · rfl
    · rfl

theorem slicePut_ts (s : State) (c off : Nat) (v : Word) : (s.slicePut c off v).ts = s.ts := by
  unfold State.slicePut
  extract_lets i
  split
  · split
    · rfl
    · split <;> rfl
    · split <;> rfl
    · rfl
  · split
    · exact quarPut_ts ..
    · rfl

theorem diePut_ts (s : State) (d off : Nat) (v : Word) : (s.diePut d off v).ts = s.ts := by
  unfold State.diePut
  split
  · rfl
  · split
    · rfl
    · split <;> rfl
    · rfl
    · rfl

theorem bar4Put_ts (s : State) (off : Nat) (v : Word) : (s.bar4Put off v).ts = s.ts := by
  unfold State.bar4Put
  extract_lets j
  split_ifs <;> rfl

/-! ### The cluster block (12 R233; 23 R402) -/

section
variable (s : State) (c : Nat) (v : Word)

theorem clusterPut_mshare : ((s.clusterPut c 0 v).cl c).mshare =
    (if ∀ k, k < 8 → v.toNat / 2 ^ (4 * k) % 16 ≤ 8 then v &&& 0xFFFFFFFF else (s.cl c).mshare) := by
  unfold State.clusterPut
  rw [if_pos rfl]
  by_cases h : mshareOk v = true
  · rw [if_pos h, if_pos ((mshareOk_iff v).1 h), upCl_at_same]
  · rw [if_neg h, if_neg (mt (mshareOk_iff v).2 h)]

theorem clusterPut_bquar : s.clusterPut c 8 v = s.upCl c (fun x => { x with bquar := v &&& 0xFFFFFFFF }) := rfl

/-- A watchpoint's address word. -/
theorem clusterPut_waddr {k i : Nat} (hi : i < 16) : s.clusterPut c (0x800 + 0x100 * k + 0x10 * i) v =
    if watchOk v (vget (s.core (c * 8 + k)).wctl i 0) then s.upCore (c * 8 + k) (fun x => { x with waddr := vset x.waddr i v }) else s := by
  have h1 : (0x800 + 0x100 * k + 0x10 * i - 0x800) / 0x100 = k := by omega
  have h2 : (0x800 + 0x100 * k + 0x10 * i - 0x800) % 0x100 / 0x10 = i := by omega
  have h3 : (0x800 + 0x100 * k + 0x10 * i - 0x800) % 0x10 = 0 := by omega
  unfold State.clusterPut
  dsimp only
  rw [if_neg (by omega), if_neg (by omega), if_pos (by omega), if_pos h3, h1, h2]

/-- A watchpoint's control word. -/
theorem clusterPut_wctl {k i : Nat} (hi : i < 16) : s.clusterPut c (0x808 + 0x100 * k + 0x10 * i) v =
    if watchOk (vget (s.core (c * 8 + k)).waddr i 0) v then s.upCore (c * 8 + k) (fun x => { x with wctl := vset x.wctl i v }) else s := by
  have h1 : (0x808 + 0x100 * k + 0x10 * i - 0x800) / 0x100 = k := by omega
  have h2 : (0x808 + 0x100 * k + 0x10 * i - 0x800) % 0x100 / 0x10 = i := by omega
  have h3 : (0x808 + 0x100 * k + 0x10 * i - 0x800) % 0x10 = 8 := by omega
  unfold State.clusterPut
  dsimp only
  rw [if_neg (by omega), if_neg (by omega), if_pos (by omega), if_neg (by omega), if_pos h3, h1, h2]

/-! ### The slice block (23 R406; 24 R422) -/

theorem slicePut_swaddr {i : Nat} (hi : i < 16) : s.slicePut c (0x20 * i) v =
    s.upSlice c (fun sl => { sl with swaddr := vset sl.swaddr i (v &&& 0xFFFFFFFFFFFFF) }) := by
  have h1 : 0x20 * i / 0x20 = i := by omega
  have h2 : 0x20 * i % 0x20 = 0 := by omega
  unfold State.slicePut
  dsimp only
  rw [if_pos (by omega), h1, h2]
  rfl

theorem slicePut_swctl {i : Nat} (hi : i < 16) : s.slicePut c (0x20 * i + 8) v =
    if v.toNat / 8 % 32 ≤ 16 then s.upSlice c (fun sl => { sl with swctl := vset sl.swctl i (v &&& 0x1FFFFFFFF) }) else s := by
  have h1 : (0x20 * i + 8) / 0x20 = i := by omega
  have h2 : (0x20 * i + 8) % 0x20 = 8 := by omega
  unfold State.slicePut
  dsimp only
  rw [if_pos (by omega), h1, h2]
  rfl

theorem slicePut_swhit {i : Nat} (hi : i < 16) : s.slicePut c (0x20 * i + 16) v =
    if v.getLsbD 0 then s.upSlice c (fun sl => { sl with swhit := vset sl.swhit i (putBits (vget sl.swhit i 0) 0 1 0) }) else s := by
  have h1 : (0x20 * i + 16) / 0x20 = i := by omega
  have h2 : (0x20 * i + 16) % 0x20 = 16 := by omega
  unfold State.slicePut
  dsimp only
  rw [if_pos (by omega), h1, h2]
  rfl

/-- A quarantine entry of the L2, which drops no line. -/
theorem slicePut_quar {i : Nat} (hi : i < 32) (hv : v.getLsbD 1 = false) : s.slicePut c (0x400 + 8 * i) v =
    if v.toNat / 4 % 2 ^ 17 ≤ 909 ∧ v.toNat / 2 ^ 19 % 16 ≤ 11 then s.upSlice c (fun sl => { sl with quar := vset sl.quar i (v &&& 0x7FFFFF) })
    else s := by
  have h1 : (0x400 + 8 * i - 0x400) / 8 = i := by omega
  unfold State.slicePut State.quarPut
  dsimp only
  rw [if_neg (by omega), if_pos (by omega), h1]
  by_cases h : quarOk v = true
  · rw [if_neg (by simp [h]), if_neg (by rw [hv, Bool.and_false]; exact Bool.false_ne_true), if_pos ((quarOk_l2 hv).1 h)]
  · rw [if_pos (by simp [h]), if_neg (mt (quarOk_l2 hv).2 h)]

/-! ### The die block (21 R374; 24 R415) -/

theorem diePut_retf {i : Nat} (hi : i < 64) : s.diePut c (0x100 + 8 * i) v =
    s.upDie c (fun x => { x with retf := vset x.retf i (v &&& 0xFFFFFFFFF0001) }) := by
  have h1 : (0x100 + 8 * i - 0x100) / 8 = i := by omega
  unfold State.diePut
  rw [if_pos (by omega), h1]

theorem diePut_pdesc : s.diePut c 0x28 v = s.upDie c (fun x => { x with pdesc := v &&& 0xFFFFFFFFFFFC0 }) := rfl

theorem diePut_mcq : s.diePut c 0x30 v =
    if v.toNat % 32 ≤ 12 then s.upDie c (fun x => { x with mcq := v &&& ~~~(0xFE0 : Word) }) else s := by
  have h : wbits v 0 5 = v.toNat % 32 := by simp [wbits, bits]
  unfold State.diePut
  rw [← h]
  rfl

theorem diePut_mchead : s.diePut c 0x40 v = (s.upDie c (fun x => { x with mchead := v })).push (.errorRecordFlush c) := rfl

end

/-! ### BAR4 (21 R384) -/

theorem memRead_getElem (m : List Host.Cell) (a n i : Nat) (h : i < (memRead m a n).length) : (memRead m a n)[i] = memGet m (a + i) := by
  induction n generalizing a i with
  | zero => cases h
  | succ n ih =>
    cases i with
    | zero => rfl
    | succ i =>
      simp only [memRead, List.getElem_cons_succ]
      rw [ih, Nat.add_assoc, Nat.add_comm 1 i]

/-- Bytes that were just written read back. -/
theorem memRead_memWrite_same (m : List Host.Cell) (a : Nat) (bs : List Byte) (h : Memory.wf m = true) :
    memRead (memWrite m a bs) a bs.length = bs := by
  refine List.ext_getElem (memRead_length _ _ _) fun i hi hb => ?_
  rw [memRead_getElem, memGet_memWrite _ _ _ _ h, if_pos (by omega), Nat.add_sub_cancel_left, List.getD_eq_getElem _ _ hb]

section
variable (s : State) (v : Word)

theorem bar4Put_imglen : (s.bar4Put 8 v).jost.imglen = (if v.toNat ≤ 0x3F00000 then v else s.jost.imglen) := by
  unfold State.bar4Put
  dsimp only
  rw [if_pos rfl]
  split <;> rfl

theorem bar4Put_nonce {i : Nat} (hi : i < 8) : (s.bar4Put (0x1000 + 8 * i) v).jost.nonce = putBits s.jost.nonce (64 * i) 64 v.toNat := by
  have h : 8 * (0x1000 + 8 * i - 0x1000) = 64 * i := by omega
  unfold State.bar4Put
  dsimp only
  rw [if_neg (by omega), if_pos (by omega), h]

theorem bar4Put_window {o : Nat} (ho : o < 0x3F00000) (hc : s.jost.check = none) (hb : s.jost.booted = false) :
    (s.bar4Put (0x100000 + o) v).jost.window = memWrite s.jost.window o (wordLe v 8) := by
  unfold State.bar4Put
  dsimp only
  rw [if_neg (by omega), if_neg (by omega), if_pos (by omega), if_neg (by simp [hc, hb]), Nat.add_sub_cancel_left]

end

/-! ### REGISTER_WRITE -/

/-- What REGISTER_WRITE leaves. -/
def regWritten (pa : Nat) (v : Word) (s : State) : State :=
  if bar4Base ≤ pa then s.bar4Put (pa - bar4Base) v
  else match s.paClass pa with
    | .cluster c off => s.clusterPut c off v
    | .slice c off => s.slicePut c off v
    | .die d off => s.diePut d off v
    | _ => s

section
variable {pa : Nat} {v : Word} {s : State}

theorem exec_registerWrite : exec (.registerWrite pa v) s = .next (regWritten pa v s) := rfl

theorem regWritten_ts : (regWritten pa v s).ts = s.ts := by
  unfold regWritten
  split
  · exact bar4Put_ts ..
  · split
    · exact clusterPut_ts ..
    · exact slicePut_ts ..
    · exact diePut_ts ..
    · rfl

theorem regWritten_cluster {c off : Nat} (hp : pa < 2 ^ 52) (h : s.paClass pa = .cluster c off) :
    regWritten pa v s = s.clusterPut c off v := by
  unfold regWritten
  have hb : ¬ bar4Base ≤ pa := Nat.not_le.2 hp
  rw [if_neg hb, h]

theorem regWritten_slice {c off : Nat} (hp : pa < 2 ^ 52) (h : s.paClass pa = .slice c off) :
    regWritten pa v s = s.slicePut c off v := by
  unfold regWritten
  have hb : ¬ bar4Base ≤ pa := Nat.not_le.2 hp
  rw [if_neg hb, h]

theorem regWritten_die {d off : Nat} (hp : pa < 2 ^ 52) (h : s.paClass pa = .die d off) :
    regWritten pa v s = s.diePut d off v := by
  unfold regWritten
  have hb : ¬ bar4Base ≤ pa := Nat.not_le.2 hp
  rw [if_neg hb, h]

theorem regWritten_bar4 {off : Nat} (h : pa = 2 ^ 52 + off) : regWritten pa v s = s.bar4Put off v := by
  subst h
  unfold regWritten bar4Base
  rw [if_pos (Nat.le_add_right _ _), Nat.add_sub_cancel_left]

end

/-- An element of a vector that was just set. -/
theorem vget_vset_same {α : Type} {n : Nat} (u : Vector α n) {i : Nat} (x d : α) (hi : i < n) : vget (vset u i x) i d = x := by
  rw [vget_vset, if_pos ⟨rfl, hi⟩]

end Sys2Proof.Claims

namespace Sys2Proof

open Sys2Proof.Machine Sys2Proof.Claims

/-- Settles O52, block by block: what `regWritten` is at each register, and the field read back. -/
theorem registerWrites : Obligations.RegisterWrites := by
  unfold Obligations.RegisterWrites
  intro pa v s
  refine ⟨_, exec_registerWrite, regWritten_ts, fun hp c off h => ?_, fun hp c off h => ?_, fun hp d off h => ?_, ?_, ?_, ?_⟩
  · rw [regWritten_cluster hp h]
    refine ⟨?_, ?_, ?_, ?_⟩
    · rintro rfl
      exact clusterPut_mshare s c v
    · rintro rfl
      rw [clusterPut_bquar, upCl_at_same]
      exact ⟨rfl, rfl⟩
    · rintro k i - hi rfl
      rw [clusterPut_waddr s c v hi]
      refine ⟨fun hw => ?_, fun hw => ?_⟩
      · rw [if_pos hw, upCore_at_same]
        exact vget_vset_same _ _ _ hi
      · rw [if_neg (by rw [hw]; exact Bool.false_ne_true)]
    · rintro k i - hi rfl
      rw [clusterPut_wctl s c v hi]
      refine ⟨fun hw => ?_, fun hw => ?_⟩
      · rw [if_pos hw, upCore_at_same]
        exact vget_vset_same _ _ _ hi
      · rw [if_neg (by rw [hw]; exact Bool.false_ne_true)]
  · rw [regWritten_slice hp h]
    refine ⟨fun i hi => ⟨?_, ?_, ?_⟩, ?_⟩
    · rintro rfl
      rw [slicePut_swaddr s c v hi, upSlice_at_same]
      exact vget_vset_same _ _ _ hi
    · rintro rfl
      rw [slicePut_swctl s c v hi]
      split
      · rw [upSlice_at_same]
        exact vget_vset_same _ _ _ hi
      · rfl
    · rintro rfl j hj
      rw [slicePut_swhit s c v hi]
      split
      · rename_i hv
        rw [upSlice_at_same, vget_vset_same _ _ _ hi, getLsbD_putBits, hv]
        by_cases h0 : j = 0 <;> simp [h0, hj]
      · rename_i hv
        rw [Bool.eq_false_iff.2 hv, Bool.and_false]
        simp
    · rintro i hi rfl hv
      rw [slicePut_quar s c v hi hv]
      split
      · rw [upSlice_at_same]
        exact vget_vset_same _ _ _ hi
      · rfl
  · rw [regWritten_die hp h]
    refine ⟨?_, ?_, ?_, ?_⟩
    · rintro i hi rfl
      rw [diePut_retf s d v hi, upDie_at_same]
      exact vget_vset_same _ _ _ hi
    · rintro rfl
      rw [diePut_pdesc, upDie_at_same]
    · rintro rfl
      rw [diePut_mcq]
      split
      · rw [upDie_at_same]
      · rfl
    · rintro rfl
      rw [diePut_mchead, push_at_die, upDie_at_same]
  · intro h
    rw [regWritten_bar4 h]
    exact bar4Put_imglen s v
  · intro i hi h
    rw [regWritten_bar4 (by omega : pa = 2 ^ 52 + (0x1000 + 8 * i)), bar4Put_nonce s v hi]
    have hb := wbits_putBits_same s.jost.nonce (64 * i) 64 v.toNat (by omega)
    rw [Nat.mod_eq_of_lt v.isLt] at hb
    exact hb
  · intro o ho _ h hc hb hw
    rw [regWritten_bar4 (by omega : pa = 2 ^ 52 + (0x100000 + o)), bar4Put_window s v ho hc hb]
    have hr := memRead_memWrite_same s.jost.window o (wordLe v 8) hw
    rwa [wordLe, natLe_length] at hr

end Sys2Proof
end

section
/-! # The termination of a context on a die that the package does not have

The end of a termination clears TBUSY on the dies 0 to 3, all that there are (25 R426). `Obligations.ContextLifecycle` lets its
clause on TERMINATION_DONE range over every number of a die; from 4 on TBUSY stays. -/

namespace Sys2Proof.Claims

open Sys2Proof.Machine

/-- The start of a termination on die `d` leaves the other dies. -/
theorem startTerm_die_ne (s : State) {d j : Nat} (cid : Nat) (why : Option (Nat × Word)) (h : j ≠ d) :
    (s.startTerm d cid why).die j = s.die j := by
  unfold State.startTerm
  split
  · rfl
  · split
    · exact upDie_at_ne _ _ h
    · exact mget_mset_ne _ _ _ h

/-- The end of a termination leaves what does not stand for one of the package's four dies. -/
theorem endBusy_die_of_ge (s : State) (cid : Nat) {j : Nat} (h : 4 ≤ j) : (s.endBusy cid).die j = s.die j := by
  have hne : ∀ d ∈ [0, 1, 2, 3].filter (fun d => (s.die d).tbusy && (s.die d).tcid == cid), j ≠ d := by
    intro d hd
    have hd4 : d ∈ [0, 1, 2, 3] := List.mem_of_mem_filter hd
    simp only [List.mem_cons, List.not_mem_nil, or_false] at hd4
    omega
  unfold State.endBusy
  refine List.foldlRecOn (motive := fun t : State => t.die j = s.die j) _ _ ?_ fun t ht d hd => ?_
  · refine List.foldlRecOn (motive := fun t : State => t.die j = s.die j) _ _ rfl fun t ht d hd => ?_
    exact (upDie_at_ne _ _ (hne d hd)).trans ht
  · split
    · exact (startTerm_die_ne _ _ _ (hne d hd)).trans ((upDie_at_ne _ _ (hne d hd)).trans ht)
    · exact ht

/-- The reset state with context 0's termination under way on a die 4. -/
def endingOnDie4 : State := { State.reset with dies := [(4, { DieSt.reset with tbusy := true })] }

/-- That state when the context's cores, queues and descriptor have ended. -/
def endedOnDie4 : State := ((endingOnDie4.endCores 0).endQueues 0 0).endCtx 0 0 none

theorem exec_terminationDone_endingOnDie4 : exec (.terminationDone 4) endingOnDie4 = .next (endedOnDie4.endBusy 0) := rfl

theorem endedOnDie4_tbusy : (endedOnDie4.die 4).tbusy = true := by decide +kernel

end Sys2Proof.Claims

namespace Sys2Proof

open Sys2Proof.Machine Sys2Proof.Claims

/-- Refutes O30: its clause on TERMINATION_DONE has no premise `die < 4`, and on die 4 TBUSY is still set when the termination is done. -/
theorem not_contextLifecycle : ¬ Obligations.ContextLifecycle := by
  unfold Obligations.ContextLifecycle
  rintro ⟨-, -, -, -, -, -, hdone, -, -⟩
  have hpend : ∀ x ∈ endingOnDie4.pend, writeOf (endingOnDie4.die 4).tcid x.ev = true → endingOnDie4.heldOf (endingOnDie4.die 4).tcid x.ev = true :=
    fun _ hx => absurd hx List.not_mem_nil
  obtain ⟨t, hexec, hfree, -⟩ := hdone 4 endingOnDie4 rfl rfl hpend
  rw [exec_terminationDone_endingOnDie4] at hexec
  obtain rfl : endedOnDie4.endBusy 0 = t := by injection hexec
  rw [endBusy_die_of_ge _ _ (Nat.le_refl 4), endedOnDie4_tbusy] at hfree
  exact Bool.noConfusion hfree

end Sys2Proof
end

section
/-! # What a system core may not issue

Every instruction that 01 R19 takes from the system cores begins with the one check `State.notSys`, directly or through the shared
operation of its family, and that check answers with the instruction's first word, which fits 32 bits. -/

namespace Sys2Proof.Claims

open Sys2Proof.Machine

/-- Every field of a first word lies inside its 32 bits (03 R42-R60). -/
theorem firstWord_lt (i : Instr) : i.firstWord < 2 ^ 32 := by
  cases i
  all_goals
    dsimp only [Instr.firstWord, asm]
    omega

/-- The meaning of each instruction that 01 R19 names is a check of the core before anything else, family by family: BANK,
TCMD, MMA and MAUX, BAR, TASK, STRM, and the local accesses. -/
theorem exec_eq_notSys_of_notOnSystem {i : Instr} (s : State) (h : notOnSystem i = true) : ∃ k, exec i s = s.notSys i k := by
  cases i
  case batt | bdet | hover | bwait | bqry => exact ⟨_, rfl⟩
  case tcset | tcissue | tcqry => exact ⟨_, rfl⟩
  case mmaBf16 | mmaF16 | mmaE4m3 | mmaE5m2 | mmaE4e5 | mmaBfp | mmaS8 | mzero | mtrn => exact ⟨_, rfl⟩
  case barr | barl | barw | barws | barq => exact ⟨_, rfl⟩
  case rtnext | yield | tdone | tspawn | tsync => exact ⟨_, rfl⟩
  case sopen | ssend | sclose | recv | rrls | rring => exact ⟨_, rfl⟩
  case ldl | stl | vldL | vstL | vgathL | vscatL => exact ⟨_, rfl⟩
  all_goals exact absurd h Bool.false_ne_true

theorem notSys_of_isSys {s : State} (i : Instr) (k : Out) (h : isSys s.cur = true) :
    s.notSys i k = s.illegal (BitVec.ofNat 32 i.firstWord) := if_pos h

/-- ILLEGAL_INSN for an instruction has its first word, zero-extended, as TVAL (03 R65). -/
theorem illegal_firstWord (s : State) (i : Instr) :
    s.illegal (BitVec.ofNat 32 i.firstWord) = .next (s.trapAt s.cur 1 (wordOf i) s.me.pc) := by
  have hw : (BitVec.ofNat 32 i.firstWord).setWidth 64 = wordOf i :=
    BitVec.setWidth_ofNat_of_le_of_lt (by decide) (firstWord_lt i)
  rw [State.illegal, State.trap, hw]

end Sys2Proof.Claims

namespace Sys2Proof

open Sys2Proof.Machine Sys2Proof.Claims

/-- Settles O60: each of these instructions checks the core first, and a system core fails the check. -/
theorem systemCoreSubset : Obligations.SystemCoreSubset := by
  unfold Obligations.SystemCoreSubset
  intro i s hsys hi
  obtain ⟨k, hexec⟩ := exec_eq_notSys_of_notOnSystem s hi
  rw [hexec, notSys_of_isSys i k hsys, illegal_firstWord]

end Sys2Proof
end

section
/-! # What an access of the hardware leaves alone

Walks, reads and writes of the dispatcher, trace records and the dispatcher's caches change memory with its caches, the messages in
flight, the words of contexts that are not resident, and the interrupt lines that a slice watchpoint posts. `Accessed b s` says that
`s` differs from `b` in no more than that; one lemma for each function, stated for any machine that has it, so that the proof for a
chain of accesses is the chain of the lemmas. -/

namespace Sys2Proof.Claims

open Sys2Proof.Machine

/-- A thread set beside its interrupt lines. -/
abbrev calm (u : TSet) : TSet := { u with irq := 0 }

/-- A partition beside the dispatcher's caches of launch records and TCBs. -/
abbrev uncached (x : PartSt) : PartSt := { x with recs := [], tcbs := [] }

/-- The parts of the machine that no access changes, and those in which it changes little. -/
abbrev restOf (s : State) :=
  ((s.cur, s.cyc, s.agenda, s.issueq), (s.ccs, s.cores, s.clusters, s.chans), (s.dies, s.host, s.jost, s.images),
    (s.stretch, s.sagFrom, s.sagTo, s.throt, s.watt))

/-- The machine `s` is `b` after accesses of the hardware. -/
structure Accessed (b s : State) : Prop where
  rest : restOf s = restOf b
  ts : ∀ k, calm (s.t k) = calm (b.t k)
  parts : ∀ p, uncached (s.part p) = uncached (b.part p)

section
variable {b s t : State}

theorem Accessed.refl : Accessed s s := ⟨rfl, fun _ => rfl, fun _ => rfl⟩

/-- A change of memory, of its caches, of the messages in flight or of the words of contexts. -/
theorem Accessed.same (h : Accessed b s) (e : (restOf t, t.ts, t.parts) = (restOf s, s.ts, s.parts) := by rfl) : Accessed b t := by
  obtain ⟨hr, he⟩ := Prod.ext_iff.1 e
  obtain ⟨ht, hp⟩ := Prod.ext_iff.1 he
  dsimp only at hr ht hp
  refine ⟨hr.trans h.rest, fun k => ?_, fun p => ?_⟩
  · rw [State.t, ht]
    exact h.ts k
  · rw [State.part, hp]
    exact h.parts p

/-- The machine that a function gives beside a result. -/
theorem Accessed.snd {α : Type} {p : α × State} {a : α} (h : Accessed b p.2) (e : p = (a, t)) : Accessed b t := by
  rw [e] at h; exact h

/-- The machine that a function gives beside two results. -/
theorem Accessed.snd2 {α β : Type} {p : α × β × State} {a : α} {c : β} (h : Accessed b p.2.2) (e : p = (a, c, t)) : Accessed b t := by
  rw [e] at h; exact h

theorem Accessed.ite {c : Prop} [Decidable c] {s t : State} (hs : Accessed b s) (ht : Accessed b t) : Accessed b (if c then s else t) := by
  split
  · exact hs
  · exact ht

theorem Accessed.foldl {α : Type} {f : State → α → State} {l : List α} (h : Accessed b s) (hf : ∀ s x, Accessed b s → Accessed b (f s x)) :
    Accessed b (l.foldl f s) := by
  induction l generalizing s with
  | nil => exact h
  | cons x l ih => exact ih (hf s x h)

/-- A change of a thread set's interrupt lines. -/
theorem Accessed.upT {k : Nat} {f : TSet → TSet} (h : Accessed b s) (hf : ∀ u, calm (f u) = calm u := by intro; rfl) : Accessed b (s.upT k f) := by
  refine ⟨h.rest, fun j => ?_, h.parts⟩
  by_cases hj : j = k
  · subst hj
    rw [upT_at_same, hf]
    exact h.ts j
  · rw [upT_at_ne _ _ hj]
    exact h.ts j

/-- A change of the dispatcher's caches. -/
theorem Accessed.upPart {p : Nat} {f : PartSt → PartSt} (h : Accessed b s) (hf : ∀ x, uncached (f x) = uncached x := by intro; rfl) :
    Accessed b (s.upPart p f) := by
  refine ⟨h.rest, h.ts, fun j => ?_⟩
  by_cases hj : j = p
  · subst hj
    rw [upPart_at_same, hf]
    exact h.parts j
  · rw [upPart_at_ne _ _ hj]
    exact h.parts j

theorem Accessed.upSlice {i : Nat} {f : SliceSt → SliceSt} (h : Accessed b s) : Accessed b (s.upSlice i f) := h.same
theorem Accessed.upCtx {i : Nat} {f : Ctx → Ctx} (h : Accessed b s) : Accessed b (s.upCtx i f) := h.same
theorem Accessed.push {e : Ev} (h : Accessed b s) : Accessed b (s.push e) := h.same

/-! ### A home slice -/

theorem Accessed.fillLine {home key : Nat} {i : BitVec 4} (h : Accessed b s) : Accessed b (s.fillLine home key i) := by
  unfold State.fillLine
  refine .ite h ?_
  split
  exact h.upSlice

theorem Accessed.heal {home key : Nat} {i : BitVec 4} (h : Accessed b s) : Accessed b (s.heal home key i) := by
  unfold State.heal
  split
  · exact h
  · exact h.same.upSlice

theorem Accessed.homeRead {home pa n : Nat} (h : Accessed b s) : Accessed b (s.homeRead home pa n).2 := h.fillLine

theorem Accessed.homeWrite {home pa : Nat} {on : List Bool} {bs : List Byte} {w : Nat} (h : Accessed b s) :
    Accessed b (s.homeWrite home pa on bs w) := by
  unfold State.homeWrite
  exact h.fillLine.upSlice

theorem Accessed.collapse {key : Nat} (h : Accessed b s) : Accessed b (s.collapse key) := h.same

theorem Accessed.learn {p cid : Nat} (h : Accessed b s) : Accessed b (s.learn p cid) := .ite h h.upCtx

theorem Accessed.postIrq {tk : Nat} {lines : BitVec 8} (h : Accessed b s) : Accessed b (s.postIrq tk lines) := by
  unfold State.postIrq
  split
  · exact h.upT
  · split
    · exact h
    · exact .ite h h.collapse.heal.homeWrite

theorem Accessed.swNote {home pa n : Nat} {wr : Bool} {cls clus : Nat} (h : Accessed b s) : Accessed b (s.swNote home pa n wr cls clus) :=
  h.foldl (fun _ _ h1 => .ite (.ite h1.upSlice (.ite h1.upSlice.learn.postIrq h1.upSlice.learn)) h1)

theorem Accessed.hwNote {home pa n : Nat} {wr : Bool} (h : Accessed b s) : Accessed b (s.hwNote home pa n wr) := .ite h.same h.swNote

/-! ### Bytes that the hardware reads and writes -/

theorem Accessed.noteN {g : Nat → Nat} {pa n f : Nat} {wr : Bool} (h : Accessed b s) : Accessed b (s.noteN g pa n wr f) := by
  induction f generalizing s pa n with
  | zero => exact h
  | succ f ih => exact .ite h (ih h.hwNote)

theorem Accessed.wrN {g : Nat → Nat} {pa w f : Nat} {bs : List Byte} (h : Accessed b s) : Accessed b (s.wrN g pa w bs f) := by
  induction f generalizing s pa bs with
  | zero => exact h
  | succ f ih =>
    cases bs with
    | nil => exact h
    | cons c bs => exact ih h.hwNote.collapse.heal.homeWrite

theorem Accessed.wrBy {g : Nat → Nat} {pa w : Nat} {bs : List Byte} (h : Accessed b s) : Accessed b (s.wrBy g pa w bs) := h.wrN

theorem Accessed.wrWord {p pa w : Nat} {v : Word} (h : Accessed b s) : Accessed b (s.wrWord p pa w v) := by
  unfold State.wrWord State.wr00
  exact h.wrBy

theorem Accessed.setQw {p q i : Nat} {w : Word} (h : Accessed b s) : Accessed b (s.setQw p q i w) := h.wrWord

/-! ### TCBs -/

theorem Accessed.putTcb {p pa : Nat} {r : TcbRec} (h : Accessed b s) : Accessed b (s.putTcb p pa r) := h.wrBy.upPart

theorem Accessed.getTcb {p pa : Nat} (h : Accessed b s) : Accessed b (s.getTcb p pa).2 := by
  unfold State.getTcb
  split
  · exact h
  · dsimp only
    exact h.noteN.upPart

/-! ### Walks and what follows them -/

theorem Accessed.markAD {p ea cid : Nat} {e : Word} {i : AccessKind} (h : Accessed b s) : Accessed b (s.markAD p ea cid e i) :=
  .ite h h.wrWord

theorem Accessed.walkAt {hw : Bool} {p cid : Nat} {va : Word} {acc : AccessKind} {priv a lvl f : Nat} (h : Accessed b s) :
    Accessed b (s.walkAt hw p cid va acc priv a lvl f).2.2 := by
  induction f generalizing s a lvl with
  | zero => exact h
  | succ f ih =>
    unfold State.walkAt
    extract_lets _ _ _ s1 _ s2
    have h1 : Accessed b s1 := h.hwNote
    have h2 : Accessed b s2 := h1.markAD
    split
    · exact h
    · split
      · exact h
      · split
        · exact h1
        · split
          · split
            · exact h1
            · exact ih h1
          · split
            · exact h1
            · split
              · exact h2
              · exact h1

theorem Accessed.walkBy {hw : Bool} {cid : Nat} {va : Word} {i : AccessKind} {priv : Nat} (h : Accessed b s) :
    Accessed b (s.walkBy hw cid va i priv).2.2 := by
  unfold State.walkBy
  extract_lets
  split
  · exact h
  · exact h.walkAt

theorem Accessed.xlatHw {cid d : Nat} {va : Word} {i : AccessKind} {priv : Nat} (h : Accessed b s) :
    Accessed b (s.xlatHw cid d va i priv).2 := by
  unfold State.xlatHw
  split
  · rename_i s1 e1
    have h1 : Accessed b s1 := h.walkBy.snd2 e1
    split <;> exact h1
  · rename_i s1 _ e1
    exact h.walkBy.snd2 e1

theorem Accessed.hwWrite {cid d : Nat} {va : Word} {bs : List Byte} (h : Accessed b s) (e : s.hwWrite cid d va bs = some t) : Accessed b t := by
  unfold State.hwWrite at e
  split at e
  · rename_i s1 e1
    have h1 : Accessed b s1 := h.xlatHw.snd e1
    cases e
    exact h1.hwNote.collapse.heal.homeWrite
  · cases e

theorem Accessed.wakeWaiters {home pa c : Nat} (h : Accessed b s) : Accessed b (s.wakeWaiters home pa c) := by
  unfold State.wakeWaiters
  refine h.upSlice.foldl fun s1 x1 h1 => ?_
  split <;> exact h1.push

theorem Accessed.ctrAdd {home pa amt cid : Nat} {sat : Bool} (h : Accessed b s) : Accessed b (s.ctrAdd home pa amt cid sat).2 := by
  unfold State.ctrAdd
  split
  rename_i s1 e1
  have h1 : Accessed b s1 := h.homeRead.snd e1
  extract_lets
  split
  · exact h1.collapse.homeWrite.wakeWaiters
  · split
    · exact h1.collapse.homeWrite.wakeWaiters
    · exact h1

theorem Accessed.trace {tk kind : Nat} {step : BitVec 32} {pc val : Word} (h : Accessed b s) : Accessed b (s.trace tk kind step pc val) := by
  unfold State.trace
  extract_lets cid c d
  refine .ite h ?_
  split
  · extract_lets
    refine .ite h ?_
    split
    · exact h
    · rename_i s1 e1
      have h1 : Accessed b s1 := h.hwWrite e1
      split
      · exact h
      · rename_i s2 e2
        exact (h1.hwWrite e2).hwNote.heal.ctrAdd
  · exact h

/-- A trace record leaves the tables of the cores and the current thread set. -/
theorem trace_tables (s : State) (tk kind : Nat) (step : BitVec 32) (pc val : Word) :
    (s.trace tk kind step pc val).cur = s.cur ∧ (s.trace tk kind step pc val).ccs = s.ccs := by
  have h := (Accessed.trace (tk := tk) (kind := kind) (step := step) (pc := pc) (val := val) (Accessed.refl (s := s))).rest
  simp only [restOf, Prod.mk.injEq] at h
  obtain ⟨⟨hcur, -⟩, ⟨hccs, -⟩, -⟩ := h
  exact ⟨hcur, hccs⟩

end
end Sys2Proof.Claims
end

section
/-! # Results that become ready, and the gating and waking of the tangent planes

RESULT_READY, PLANE_GATING and PLANE_WAKE_DONE (05 R86; 02 R27-R29) are each one update of one thread set, or nothing. -/

namespace Sys2Proof.Claims

open Sys2Proof.Machine

/-- An update of one thread set changes no byte of memory. -/
theorem sameBytes_upT (s : State) (k : Nat) (f : TSet → TSet) : sameBytes s (s.upT k f) :=
  fun home pa => byteAt_congr rfl rfl home pa

/-- The registers that are still busy after RESULT_READY: those that wait for a reply or for a later cc. -/
theorem mem_filter_due_iff (l : List Busy) (cyc : Nat) (b : Busy) :
    b ∈ l.filter (fun b => match b.due with | some d => decide (cyc < d) | none => true) ↔
      b ∈ l ∧ ∀ d, b.due = some d → cyc < d := by
  rw [List.mem_filter]
  cases b.due <;> simp

/-- The planes may gate (02 R27) when DMODE, the window and the crossing let the quiet time count. -/
theorem planesIdle_iff (t : TSet) : t.planesIdle = true ↔ t.a.dmode.getLsbD 0 = false ∧ t.dact = false ∧ t.spec = none := by
  simp [TSet.planesIdle, and_assoc]

/-- Every condition of PLANE_GATING (02 R27). -/
def Gates (s : State) (tk : Nat) : Prop :=
  (s.t tk).gated = false ∧ 4096 ≤ (s.t tk).quiet ∧ (s.t tk).planesIdle = true ∧
    (isSys tk = true ∨ (s.core (coreOf tk)).act = some (cidOf tk))

/-- Registers after the planes have gated: with RET = 0 the planes are zero (02 R29), and GATED is set. -/
def gatedArch (a : Arch) : Arch :=
  { (if a.dmode.getLsbD 3 then a else a.lost) with dmode := putBits (if a.dmode.getLsbD 3 then a else a.lost).dmode 4 1 1 }

/-- The test that PLANE_GATING makes fails exactly where every condition holds. -/
theorem gating_test_iff (s : State) (tk : Nat) :
    ((s.t tk).gated || decide ((s.t tk).quiet < 4096) || !(s.t tk).planesIdle ||
      !(isSys tk || (s.core (coreOf tk)).act == some (cidOf tk))) = true ↔ ¬ Gates s tk := by
  simp only [Gates, Bool.or_eq_true, Bool.not_eq_true', Bool.or_eq_false_iff, decide_eq_true_eq, beq_eq_false_iff_ne, not_and_or, not_or,
    Bool.not_eq_false, Bool.not_eq_true, not_le, ne_eq, or_assoc]

theorem execPlaneGating_of_gates {s : State} {tk : Nat} (h : Gates s tk) :
    execPlaneGating tk s = .next (s.upT tk (fun t => { t with a := gatedArch t.a, quiet := 0 })) :=
  if_neg fun hc => (gating_test_iff s tk).1 hc h

theorem execPlaneGating_of_not_gates {s : State} {tk : Nat} (h : ¬ Gates s tk) : execPlaneGating tk s = .next s :=
  if_pos ((gating_test_iff s tk).2 h)

theorem gp_lost (a : Arch) (r : Reg) {p : Nat} (hp : p = 1 ∨ p = 2) : a.lost.gp p r = 0 := by
  rcases hp with rfl | rfl <;> simp [Arch.gp, Arch.lost]

theorem vp_lost (a : Arch) (r : Reg) {p : Nat} (hp : p = 1 ∨ p = 2) : a.lost.vp p r = 0 := by
  rcases hp with rfl | rfl <;> simp [Arch.vp, Arch.lost]

/-- Gating leaves the primals. -/
theorem gatedArch_primal (a : Arch) (r : Reg) : (gatedArch a).gp 0 r = a.gp 0 r ∧ (gatedArch a).vp 0 r = a.vp 0 r := by
  unfold gatedArch
  split <;> exact ⟨gp_congr rfl rfl rfl _ _, rfl⟩

/-- The planes of the gated registers: as before with RET = 1, zero with RET = 0. -/
theorem gatedArch_planes (a : Arch) (r : Reg) {p : Nat} (hp : p = 1 ∨ p = 2) :
    (gatedArch a).gp p r = (if a.dmode.getLsbD 3 then a.gp p r else 0) ∧
      (gatedArch a).vp p r = (if a.dmode.getLsbD 3 then a.vp p r else 0) := by
  unfold gatedArch
  split
  · exact ⟨gp_congr rfl rfl rfl _ _, vp_congr rfl rfl rfl _ _⟩
  · exact ⟨(gp_congr rfl rfl rfl _ _).trans (gp_lost a r hp), (vp_congr rfl rfl rfl _ _).trans (vp_lost a r hp)⟩

theorem gatedArch_gated (a : Arch) : (gatedArch a).dmode.getLsbD 4 = true := by
  simp [gatedArch, getLsbD_putBits]

/-- What PLANE_WAKE_DONE makes of a thread set (02 R28). -/
def woken (cyc : Nat) (t : TSet) : TSet :=
  { t with a := { t.a with dmode := putBits t.a.dmode 4 1 0 }, wakeAt := none, quiet := 0
           wait := if t.wait = some .plane then none else t.wait, readyAt := cyc }

theorem execPlaneWakeDone_of_waking {s : State} {tk : Nat} (h : (s.t tk).wakeAt ≠ none) :
    execPlaneWakeDone tk s = .next (s.upT tk (woken s.cyc)) :=
  if_neg (by simpa [Option.isNone_iff_eq_none] using h)

theorem woken_wait (cyc : Nat) (t : TSet) : (woken cyc t).wait ≠ some .plane := by
  unfold woken
  dsimp only
  split
  · exact nofun
  · assumption

theorem woken_dmode (cyc : Nat) (t : TSet) (i : Nat) :
    (woken cyc t).a.dmode.getLsbD i = if i = 4 then false else t.a.dmode.getLsbD i := by
  split
  · subst i
    exact (getLsbD_putBits ..).trans (by simp)
  · exact getLsbD_putBits_apart _ _ _ _ _ (by omega)

theorem woken_keeps (cyc : Nat) (t : TSet) :
    t.a.Keeps { (woken cyc t).a with dmode := t.a.dmode } NoReg NoReg NoMask :=
  ⟨fun _ _ _ _ => rfl, fun _ _ _ _ => rfl, fun _ _ => rfl, rfl, rfl, rfl, rfl, rfl, rfl⟩

end Sys2Proof.Claims

namespace Sys2Proof

open Sys2Proof.Machine Sys2Proof.Claims

/-- Settles O23, event by event: each is one update of its thread set, whose registers `gatedArch` and `woken` give. -/
theorem resultsAndPlanes : Obligations.ResultsAndPlanes := by
  unfold Obligations.ResultsAndPlanes
  refine ⟨fun tk s => ?ready, fun tk s hg hq h0 hd hs ha => ?gates, fun tk s h => ?stays, fun tk s hw => ?wakes⟩
  case ready =>
    refine ⟨_, rfl, ?_, fun b => ?_, fun k hk => upT_at_ne _ _ hk, sameBytes_upT _ _ _⟩
    · rw [upT_at_same]
    · rw [upT_at_same]
      exact mem_filter_due_iff _ _ _
  case gates =>
    refine ⟨_, execPlaneGating_of_gates ⟨hg, hq, (planesIdle_iff _).2 ⟨h0, hd, hs⟩, ha⟩, ?_, ?_, ?_, fun k hk => upT_at_ne _ _ hk⟩
    all_goals rw [upT_at_same]
    · exact gatedArch_gated _
    · exact gatedArch_primal _
    · exact fun r p => gatedArch_planes _ r
  case stays =>
    refine execPlaneGating_of_not_gates fun ⟨hg, hq, hi, ha⟩ => ?_
    obtain ⟨h0, hd, hs⟩ := (planesIdle_iff _).1 hi
    rcases h with h | h | h | h | h | ⟨h1, h2⟩
    · exact Bool.noConfusion (h.symm.trans hg)
    · omega
    · exact Bool.noConfusion (h.symm.trans h0)
    · exact Bool.noConfusion (h.symm.trans hd)
    · exact h hs
    · exact ha.elim (fun ha => Bool.noConfusion (ha.symm.trans h1)) h2
  case wakes =>
    refine ⟨_, execPlaneWakeDone_of_waking hw, ?_, ?_, ?_, ?_, ?_, fun k hk => upT_at_ne _ _ hk⟩
    all_goals rw [upT_at_same]
    · exact woken_dmode _ _ 4
    · rfl
    · exact woken_wait _ _
    · exact woken_keeps _ _
    · exact fun i hi => (woken_dmode _ _ i).trans (if_neg hi)

end Sys2Proof
end

section
/-! # A write of SBST where an entry is numbered past the scoreboard

SBST (12 R250) holds OVF in bit 31 beside the VALID bits of the sixteen entries. `Obligations.ControlWords` lets its clause on a write
of SBST range over every table of a core, also one with an entry 23, whose VALID bit falls on bit 31: a write then reads OVF = 1 where
there is none, and leaves it. -/

namespace Sys2Proof.Claims

open Sys2Proof.Machine

/-- SSTEP enters the handler or aborts a crossing; the cores' tables stay, and so does the current thread set. -/
theorem sstep_tables (s : State) (pc0 : Word) (priv0 : Nat) :
    (s.sstep pc0 priv0).cur = s.cur ∧ (s.sstep pc0 priv0).ccs = s.ccs := by
  have hpark : parks 0x23 = false := rfl
  have hland : s.mustLand s.cur 0x23 = false := by simp [State.mustLand, hpark]
  unfold State.sstep State.trapAt
  dsimp only
  split
  · split
    · unfold State.abortSpec
      split <;> exact ⟨rfl, rfl⟩
    · rw [if_neg (by simp [hland]), if_neg (by simp [hpark])]
      unfold State.enterHandler
      dsimp only
      split
      · exact trace_tables ..
      · exact ⟨rfl, rfl⟩
  · exact ⟨rfl, rfl⟩

/-- The completion of an instruction leaves the table of its core. -/
theorem done_myCC (s : State) (len : Nat) : (s.done len).myCC = s.myCC := by
  unfold State.done State.retire State.retireW
  dsimp only
  obtain ⟨hcur, hccs⟩ := sstep_tables (s.upMe _) s.me.pc s.me.priv
  rw [State.myCC, State.cc, hcur, hccs]
  rfl

/-- CWR, CSETB and CCLRB on a word that may be written, does not wait and is neither NXMC nor a counter word. -/
theorem cwWrite_put {w : BitVec 32} {o : CwOp} {a : Reg} {x : BitVec 10} {s : State} {r : CwRow} (hrow : cwRow x.toNat = some r)
    (hpriv : s.me.priv ≠ 0 ∨ r.user = 2) (hpass : cwPass x.toNat r (cwWritten o r.w1c (s.cwGet s.cur x.toNat) (s.g a)) = true)
    (hwait : s.cwWaits x.toNat = false) (hnxm : x.toNat ≠ 0x012) (hpm : isPmw x.toNat = false) :
    cwWrite w o a x s =
      .next ((s.cwPut x.toNat (cwMerge r (s.cwGet s.cur x.toNat) (cwWritten o r.w1c (s.cwGet s.cur x.toNat) (s.g a)))).done 4) := by
  unfold cwWrite
  dsimp only
  rw [hrow]
  dsimp only
  rw [if_neg (by simpa [imp_iff_not_or, or_comm] using hpriv), if_neg (by simp [hpass]), if_neg (by simp [hwait]), if_neg hnxm,
    if_neg (by simp [hpm])]

/-- An auxiliary operation in an entry 23. -/
def entry23 : EngOp :=
  { id := 0, entry := 23, tk := 0, loc := [], glo := []
    body := .ten { fmt := 7, k := 0, n := 0, aA := 0, bA := 0, dA := 0, scale := 0, out16 := false, cls := 0, nxm := false, planes := 0
                   offL := Vector.replicate 2 0, phase := 0, lane := 0, passes := [], due := 0, res := [], flags := 0 } }

/-- Thread set 0 at privilege 1, with that entry in its core's table and OVF = 0. -/
def crowded : State :=
  { State.reset with cur := 0, ts := [(0, { TSet.reset with a := { Arch.reset with status := 1 } })]
                     ccs := [(0, { CC.reset with sb := [entry23] })] }

/-- The row of SBST (02 R30). -/
def sbstRow : CwRow := { user := 1, rw := 0, w1c := 0x80000000, ro := 0x1F070FFFFF1F }

/-- What a CWR of 0 to SBST gives there, before it completes. -/
def crowdedWritten : State := crowded.cwPut 0x090 (cwMerge sbstRow (crowded.cwGet crowded.cur 0x090) (crowded.g 0))

theorem exec_cwr_crowded : exec (.cwr 0 0x090) crowded = .next (crowdedWritten.done 4) :=
  cwWrite_put (w := asmW 0xDC000000 [((0 : Reg).toNat, 16), ((0x090 : BitVec 10).toNat, 0)]) (o := .wr) (a := 0) (x := 0x090)
    (s := crowded) (r := sbstRow) rfl (by decide +kernel) (by decide +kernel) (by decide +kernel) (by decide) (by decide)

theorem crowdedWritten_ovf : crowdedWritten.myCC.ovf = true := by decide +kernel

end Sys2Proof.Claims

namespace Sys2Proof

open Sys2Proof.Machine Sys2Proof.Claims

/-- Refutes O28: a CWR of 0 to SBST with an entry 23 in the table sets OVF, where the clause on SBST keeps it 0. -/
theorem not_controlWords : ¬ Obligations.ControlWords := by
  unfold Obligations.ControlWords
  rintro ⟨-, -, hwrite⟩
  obtain ⟨-, -, hput⟩ := hwrite (.cwr 0 0x090) 0x090 (crowded.g 0) crowded _ rfl rfl
  obtain ⟨u, hexec, -, -, -, -, -, -, hovf, -⟩ := hput (by decide +kernel) (by decide +kernel) (by decide +kernel)
    (fun h => absurd h (by decide))
  rw [exec_cwr_crowded] at hexec
  have hdone : crowdedWritten.done 4 = u.done 4 := by injection hexec
  have hcc : crowdedWritten.myCC = u.myCC := by rw [← done_myCC _ 4, hdone, done_myCC]
  have hclear : u.myCC.ovf = false := (hovf rfl (by decide +kernel)).trans (by decide +kernel)
  rw [← hcc, crowdedWritten_ovf] at hclear
  exact Bool.noConfusion hclear

end Sys2Proof
end

section
/-! # The dispatcher: binding, split requests, the fault queue and admission

What a bind makes of its position and its task (`bindEnd`), what the end of an admission leaves of the launches, and which entry leaves
a fault queue (02 R40; 19 R331-R341). The accesses that these make on the way are `Accessed`. -/

namespace Sys2Proof.Claims

open Sys2Proof.Machine

/-! ### Tasks -/

theorem mem_of_firstBy {α : Type} {lt : α → α → Bool} {l : List α} {x : α} (h : firstBy lt l = some x) : x ∈ l := by
  induction l generalizing x with
  | nil => cases h
  | cons y l ih =>
    unfold firstBy at h
    split at h
    · cases h
      exact List.mem_cons_self
    · rename_i z hz
      cases h
      split
      · exact List.mem_cons_of_mem _ (ih hz)
      · exact List.mem_cons_self

theorem mem_tasks_of_candidate {s : State} {p cid pos : Nat} {k : Task} (h : s.candidate p cid pos = some k) : k ∈ (s.part p).tasks := by
  have hk : k ∈ s.cands p cid pos := mem_of_firstBy h
  unfold State.cands at hk
  dsimp only at hk
  split at hk
  · exact List.mem_of_mem_filter hk
  · split at hk <;> exact List.mem_of_mem_filter hk

theorem mem_tasks_of_victim {s : State} {p cid pos : Nat} {v : Task × Nat} (h : v ∈ s.victims p cid pos) : v.1 ∈ (s.part p).tasks := by
  unfold State.victims at h
  obtain ⟨k, hk, hv⟩ := List.mem_filterMap.1 h
  split at hv
  · cases hv
  · split at hv
    · cases hv
      exact hk
    · cases hv

/-- A task that the dispatcher tracks is found by its TCB. -/
theorem task?_of_mem {s : State} {p : Nat} {k : Task} (h : k ∈ (s.part p).tasks) : ∃ k0, s.task? p k.tcb = some k0 :=
  Option.isSome_iff_exists.1 (List.find?_isSome.2 ⟨k, h, beq_self_eq_true _⟩)

/-- Tasks that change beside their TCBs are found where they were. -/
theorem task?_upPart_map {s : State} {p tcb : Nat} {f : Task → Task} (hf : ∀ k, (f k).tcb = k.tcb) :
    (s.upPart p (fun x => { x with tasks := x.tasks.map f })).task? p tcb = (s.task? p tcb).map f := by
  unfold State.task?
  rw [upPart_at_same, List.find?_map]
  have e : (fun k : Task => k.tcb == tcb) ∘ f = fun k => k.tcb == tcb := funext fun k => by simp [hf]
  rw [e]

/-- The task of a TCB after its update. -/
theorem task?_upTask {s : State} {p tcb : Nat} {f : Task → Task} {k : Task} (h : s.task? p tcb = some k) (hf : ∀ k, (f k).tcb = k.tcb) :
    (s.upTask p tcb f).task? p tcb = some (f k) := by
  have hk : k.tcb = tcb := by simpa using List.find?_some h
  unfold State.upTask
  rw [task?_upPart_map, h, Option.map_some, if_pos hk]
  intro k
  split
  · exact hf k
  · rfl

theorem task?_congr {s t : State} {p tcb : Nat} (h : (t.part p).tasks = (s.part p).tasks) : t.task? p tcb = s.task? p tcb := by
  unfold State.task?
  rw [h]

/-! ### The parts of a partition after an access -/

section
variable {b s t : State}

theorem Accessed.tasks (h : Accessed b s) (p : Nat) : (s.part p).tasks = (b.part p).tasks :=
  (congrArg PartSt.tasks (h.parts p) :)

theorem Accessed.launches (h : Accessed b s) (p : Nat) : (s.part p).launches = (b.part p).launches :=
  (congrArg PartSt.launches (h.parts p) :)

theorem Accessed.fq (h : Accessed b s) (p : Nat) : (s.part p).fq = (b.part p).fq :=
  (congrArg PartSt.fq (h.parts p) :)

theorem Accessed.images (h : Accessed b s) : s.images = b.images :=
  congrArg (fun x => x.2.2.1.2.2.2) h.rest

/-- A thread set after an access: only its interrupt lines may differ. -/
theorem Accessed.tset (h : Accessed b s) (k : Nat) : s.t k = { b.t k with irq := (s.t k).irq } := by
  have e : { calm (s.t k) with irq := (s.t k).irq } = { calm (b.t k) with irq := (s.t k).irq } := by rw [h.ts k]
  exact e

theorem Accessed.predAdd {p cid : Nat} {va d : Word} (h : Accessed b s) (e : s.predAdd p cid va d = some t) : Accessed b t := by
  unfold State.predAdd at e
  split at e
  · cases e
  · rename_i pa hm _ s1 e1
    have h1 : Accessed b s1 := h.xlatHw.snd e1
    have h2 : Accessed b ((s1.heal hm (lineKey pa) (sectsOf (pa % 192) 8)).homeRead hm pa 8).2 := h1.heal.homeRead
    cases e
    exact (h2.hwNote.collapse.homeWrite (w := cid)).upPart

theorem Accessed.fqAt {p : Nat} {e : FqEnt} {va : Word} {k : AccessKind} (h : Accessed b s) : Accessed b (s.fqAt p e va k).2 := by
  unfold State.fqAt
  split
  · exact h
  · split
    · rename_i s1 e1
      exact h.xlatHw.snd e1
    · rename_i s1 e1
      exact h.xlatHw.snd e1

/-- An entry that is written changes memory alone. -/
theorem Accessed.fqTry {p : Nat} {e : FqEnt} (h : Accessed b s) (ht : s.fqTry p e = .done t) : Accessed b t := by
  unfold State.fqTry at ht
  split at ht
  · cases ht
  · split at ht
    · rename_i pa hm s1 e1
      have h1 : Accessed b s1 := h.fqAt.snd e1
      dsimp only at ht
      split at ht
      · cases ht
      · split at ht
        · rename_i ea eh s2 e2
          have h2 : Accessed b s2 := h1.noteN.fqAt.snd e2
          cases ht
          exact h2.wrBy.wrBy
        · cases ht
    · cases ht

end

/-! ### Binding (02 R40; 19 R339) -/

/-- What a bind at `pos` in cc `cyc` makes of the thread set: the entry state of a new task, or the state that the TCB `r` holds. -/
def tsetAt (cyc pos : Nat) (k : Task) (l : Launch) (r : TcbRec) (t : TSet) : TSet :=
  let t := { t with bound := some k.tcb, wait := none, busy := [], undo := none, exempt := none, entered := false
                    eceil := recN l.snap 0x30 8 2, readyAt := cyc + 1 }
  if k.hv then
    { t with a := backArch t.a r.a, pc := r.pc &&& ~~~(3 : Word), residx := r.residx &&& 0x7FF, wlimit := r.wlimit
             wclk := k.wclk, wlim := k.wlim }
  else
    { t with a := entryArch t.a l.snap pos r.a.claim.toNat r.a.rend.toNat, pc := recEntry l.snap
             wlimit := BitVec.ofNat 64 (recWlimit l.snap), wclk := 0, wlim := 0 }

/-- What a bind at `pos` makes of the task. -/
def taskAt (pos : Nat) (r : TcbRec) (k : Task) : Task :=
  { k with st := 2, pos := pos, hv := true, wait := none, size := r.a.rend.toNat - r.a.claim.toNat }

/-- A task whose split request, if position `tk` made it, is withdrawn. -/
def withdrawn (tk : Nat) (k : Task) : Task :=
  match k.req with | some (q, _) => if q = tk then { k with req := none } else k | none => k

theorem withdrawn_keeps (tk : Nat) (k : Task) :
    (withdrawn tk k).tcb = k.tcb ∧ (withdrawn tk k).st = k.st ∧ (withdrawn tk k).pos = k.pos := by
  unfold withdrawn
  split
  · split <;> exact ⟨rfl, rfl, rfl⟩
  · exact ⟨rfl, rfl, rfl⟩

/-- The end of a bind, once the TCB has been read and the launch's first bind on the core has been made. -/
def bindEnd (u : State) (p tk : Nat) (k : Task) (l : Launch) (r : TcbRec) : State :=
  let s := (((u.upT tk (tsetAt u.cyc (posOf tk) k l r)).putTcb p k.tcb { r with state := 2, home := posOf tk / 4 * 4, hv := true }).upTask p
    k.tcb (taskAt (posOf tk) r)).withdraw p tk
  if k.split then s.evt tk 0x16 else s

/-- The first bind of a launch whose kernel brings no image. -/
theorem firstBind_noImages {s : State} {p cc : Nat} {l : Launch} (h : s.imagesOf l.cid (recEntry l.snap) = []) :
    ∃ u, s.firstBind p cc l = (none, u) ∧ ∀ q, (u.part q).tasks = (s.part q).tasks := by
  unfold State.firstBind
  split
  · exact ⟨s, rfl, fun _ => rfl⟩
  · dsimp only
    have hi : ∀ f : PartSt → PartSt, (s.upPart p f).imagesOf l.cid (recEntry l.snap) = [] := fun _ => h
    simp only [hi, List.find?_nil, List.foldl_nil]
    refine ⟨_, rfl, fun q => ?_⟩
    by_cases hq : q = p
    · subst hq
      rw [upPart_at_same]
    · rw [upPart_at_ne _ _ hq]

/-- A bind whose kernel brings no image is its end in a machine with the same tasks. -/
theorem bindTask_eq {s : State} {p tk : Nat} {k : Task} {l : Launch} (h : s.imagesOf l.cid (recEntry l.snap) = []) :
    ∃ u, s.bindTask p tk k l = bindEnd u p tk k l (s.getTcb p k.tcb).1 ∧ (u.part p).tasks = (s.part p).tasks := by
  unfold State.bindTask
  rcases hg : s.getTcb p k.tcb with ⟨r, s1⟩
  have h1 : Accessed s s1 := Accessed.refl.getTcb.snd hg
  dsimp only
  generalize hs2 : (if recNxm l.snap == (s1.cc (ccOf tk)).nxm then s1 else s1.upCC (ccOf tk) (fun c => c.retag (recNxm l.snap))) = s2
  have h2 : s2.images = s1.images ∧ s2.parts = s1.parts := by
    rw [← hs2]
    split <;> exact ⟨rfl, rfl⟩
  obtain ⟨himages, hparts⟩ := h2
  have hi : s2.imagesOf l.cid (recEntry l.snap) = [] := by
    unfold State.imagesOf at h ⊢
    rw [himages, h1.images, h]
  obtain ⟨u, hu, htasks⟩ := firstBind_noImages (p := p) (cc := ccOf tk) hi
  rw [hu]
  refine ⟨u, rfl, ?_⟩
  rw [htasks, State.part, hparts]
  exact h1.tasks p

@[simp] theorem upTask_at_t (s : State) (p tcb : Nat) (f : Task → Task) (j : Nat) : (s.upTask p tcb f).t j = s.t j := rfl
@[simp] theorem withdraw_at_t (s : State) (p tk j : Nat) : (s.withdraw p tk).t j = s.t j := rfl

theorem withdraw_eq (s : State) (p tk : Nat) :
    s.withdraw p tk = s.upPart p (fun x => { x with tasks := x.tasks.map (withdrawn tk) }) := rfl

theorem task?_withdraw {s : State} {p tk tcb : Nat} {k : Task} (h : s.task? p tcb = some k) :
    (s.withdraw p tk).task? p tcb = some (withdrawn tk k) := by
  rw [withdraw_eq, task?_upPart_map fun k => (withdrawn_keeps tk k).1, h, Option.map_some]

/-- The position after a bind: `tsetAt` of what it was, beside interrupt lines and events. -/
theorem bindEnd_tset (u : State) (p tk : Nat) (k : Task) (l : Launch) (r : TcbRec) :
    ∃ irq evts, (bindEnd u p tk k l r).t tk = { tsetAt u.cyc (posOf tk) k l r (u.t tk) with irq := irq, evts := evts } := by
  unfold bindEnd
  dsimp only
  generalize hv : State.putTcb _ _ _ _ = v
  have ha : Accessed (u.upT tk (tsetAt u.cyc (posOf tk) k l r)) v := by
    rw [← hv]
    exact Accessed.refl.putTcb
  have ht := ha.tset tk
  rw [upT_at_same] at ht
  split
  · rw [State.evt, upT_at_same, withdraw_at_t, upTask_at_t, ht]
    exact ⟨_, _, rfl⟩
  · rw [withdraw_at_t, upTask_at_t, ht]
    exact ⟨_, _, rfl⟩

/-- The task after a bind: bound, in the position. -/
theorem bindEnd_task {u : State} {p tk : Nat} {k k0 : Task} {l : Launch} {r : TcbRec} (h : u.task? p k.tcb = some k0) :
    ∃ k', (bindEnd u p tk k l r).task? p k.tcb = some k' ∧ k'.st = 2 ∧ k'.pos = posOf tk := by
  unfold bindEnd
  dsimp only
  generalize hv : State.putTcb _ _ _ _ = v
  have ha : Accessed (u.upT tk (tsetAt u.cyc (posOf tk) k l r)) v := by
    rw [← hv]
    exact Accessed.refl.putTcb
  have hend := task?_withdraw (tk := tk) (task?_upTask (f := taskAt (posOf tk) r) ((task?_congr (ha.tasks p)).trans h) fun _ => rfl)
  obtain ⟨-, hst, hpos⟩ := withdrawn_keeps tk (taskAt (posOf tk) r k0)
  refine ⟨withdrawn tk (taskAt (posOf tk) r k0), ?_, hst, hpos⟩
  split <;> exact hend

/-! ### The registers of a task that begins (02 R40) -/

theorem gp_zero_eq_vget (a : Arch) (r : Reg) : a.gp 0 r = if r = 0 then 0 else vget a.g r.toNat 0 := by
  unfold Arch.gp vget
  simp [r.isLt]

/-- g7 to g4 of a task that begins, and every other g register. -/
theorem entryArch_gp_zero (a : Arch) (x : BitVec 2048) (pos lo hi : Nat) (r : Reg) :
    (entryArch a x pos lo hi).gp 0 r = if 7 = r.toNat then BitVec.ofNat 64 pos else if 6 = r.toNat then BitVec.ofNat 64 hi
      else if 5 = r.toNat then BitVec.ofNat 64 lo else if 4 = r.toNat then recW x 8 else 0 := by
  have hz : vget (Vector.replicate 32 (0 : Word)) r.toNat 0 = 0 := by simp [vget]
  have hr : r.toNat < 32 := r.isLt
  rw [gp_zero_eq_vget]
  split
  · subst r
    rfl
  · simp only [entryArch, vget_vset, hz, hr, and_true]

theorem entryArch_planes (a : Arch) (x : BitVec 2048) (pos lo hi : Nat) (r : Reg) {q : Nat} (hq : q = 1 ∨ q = 2) :
    (entryArch a x pos lo hi).gp q r = 0 := by
  rcases hq with rfl | rfl <;> simp [Arch.gp, entryArch]

theorem entryArch_vp (a : Arch) (x : BitVec 2048) (pos lo hi : Nat) (r : Reg) {q : Nat} (hq : q ≤ 2) :
    (entryArch a x pos lo hi).vp q r = 0 := by
  interval_cases q <;> simp [Arch.vp, entryArch]

/-- The registers and the status of a thread set whose task begins: its range in g5, g6 and the claim interval, its identity word in g7,
zero in the registers that have no argument, privilege 0 with interrupts on (02 R40). -/
theorem newTask_registers {u : TSet} {a : Arch} {x : BitVec 2048} {pos : Nat} {lo hi : Word}
    (h : u.a = entryArch a x pos lo.toNat hi.toNat) :
    u.a.gp 0 4 = recW x 8 ∧ u.a.gp 0 5 = lo ∧ u.a.gp 0 6 = hi ∧ u.a.gp 0 7 = BitVec.ofNat 64 pos ∧
      (∀ r q, q ≤ 2 → (q = 0 → r.toNat < 4 ∨ 7 < r.toNat) → u.a.gp q r = 0) ∧ (∀ r q, q ≤ 2 → u.a.vp q r = 0) ∧
      u.a.claim = lo ∧ u.a.rend = hi ∧ u.priv = 0 ∧ u.ie = true := by
  have hlo : BitVec.ofNat 64 lo.toNat = lo := by simp
  have hhi : BitVec.ofNat 64 hi.toNat = hi := by simp
  unfold TSet.priv TSet.ie
  rw [h]
  refine ⟨entryArch_gp_zero .., (entryArch_gp_zero ..).trans hlo, (entryArch_gp_zero ..).trans hhi, entryArch_gp_zero ..,
    fun r q hq hr => ?_, fun r q hq => entryArch_vp _ _ _ _ _ r hq, hlo, hhi,
    (by decide : wbits (4 : Word) 0 2 = 0), (by decide : (4 : Word).getLsbD 2 = true)⟩
  rcases Nat.eq_zero_or_pos q with rfl | hq0
  · have hr0 := hr rfl
    rw [entryArch_gp_zero, if_neg (by omega), if_neg (by omega), if_neg (by omega), if_neg (by omega)]
  · exact entryArch_planes _ _ _ _ _ r (by omega)

/-- What a bind gives a task that begins (02 R40). -/
theorem tsetAt_new {k : Task} (hv : k.hv = false) (cyc pos : Nat) (l : Launch) (r : TcbRec) (t : TSet) :
    (tsetAt cyc pos k l r t).pc = recW l.snap 0 ∧
      (tsetAt cyc pos k l r t).a = entryArch t.a l.snap pos r.a.claim.toNat r.a.rend.toNat := by
  unfold tsetAt
  rw [hv]
  exact ⟨rfl, rfl⟩

/-- What a bind gives a task that comes back. -/
theorem tsetAt_back {k : Task} (hv : k.hv = true) (cyc pos : Nat) (l : Launch) (r : TcbRec) (t : TSet) :
    (tsetAt cyc pos k l r t).pc = r.pc &&& ~~~(3 : Word) ∧ (tsetAt cyc pos k l r t).a = backArch t.a r.a := by
  unfold tsetAt
  rw [hv]
  exact ⟨rfl, rfl⟩

theorem tsetAt_bound (cyc pos : Nat) (k : Task) (l : Launch) (r : TcbRec) (t : TSet) :
    (tsetAt cyc pos k l r t).bound = some k.tcb ∧ (tsetAt cyc pos k l r t).wait = none := by
  unfold tsetAt
  dsimp only
  split <;> exact ⟨rfl, rfl⟩

theorem execTaskBind_eq {s : State} {pos cid : Nat} {k : Task} {l : Launch} (ho : s.openPos pos = some cid)
    (hc : s.candidate (s.partOf (tkOf cid pos)) cid pos = some k) (hl : s.launch? (s.partOf (tkOf cid pos)) k.cid k.seq = some l) :
    execTaskBind pos s = .next (s.bindTask (s.partOf (tkOf cid pos)) (tkOf cid pos) k l) := by
  simp only [execTaskBind, ho, hc, hl]

theorem execTaskBind_of_closed {s : State} {pos : Nat} (h : s.openPos pos = none) : execTaskBind pos s = .next s := by
  unfold execTaskBind
  rw [h]

/-! ### Split requests (07 R140; 19 R341) -/

theorem execSplitRequest_eq {s : State} {pos cid tier : Nat} {k : Task} (hw : s.wantsSplit pos = true) (ho : s.openPos pos = some cid)
    (hf : firstBy victimLt (s.victims (s.partOf (tkOf cid pos)) cid pos) = some (k, tier)) :
    execSplitRequest pos s = .next ((s.upTask (s.partOf (tkOf cid pos)) k.tcb (fun k => { k with req := some (tkOf cid pos, s.cyc) })).pushAt
      (s.cyc + 1024) (.splitWithdrawTimeout (s.partOf (tkOf cid pos)) k.tcb)) := by
  simp only [execSplitRequest, hw, ho, hf, Bool.not_true, Bool.false_eq_true, if_false]

/-- A task whose split request, if it has stood for 1024 cc, is withdrawn. -/
def lapsed (cyc : Nat) (k : Task) : Task :=
  match k.req with | some (_, c) => if c + 1024 ≤ cyc then { k with req := none } else k | none => k

theorem execSplitWithdrawTimeout_eq (s : State) (p tcb : Nat) :
    execSplitWithdrawTimeout p tcb s = .next (s.upTask p tcb (lapsed s.cyc)) := rfl

theorem lapsed_tcb (cyc : Nat) (k : Task) : (lapsed cyc k).tcb = k.tcb := by
  unfold lapsed
  split
  · split <;> rfl
  · rfl

theorem lapsed_req {cyc q c : Nat} {k : Task} (h : k.req = some (q, c)) :
    (lapsed cyc k).req = if c + 1024 ≤ cyc then none else k.req := by
  simp only [lapsed, h]
  split
  · rfl
  · exact h

/-! ### The fault queue (19 R334) -/

theorem signalQ_part (s : State) (p q j : Nat) : (s.signalQ p q).part j = s.part j := by
  unfold State.signalQ State.signal
  dsimp only
  split
  · split
    · rfl
    · split
      · split <;> rfl
      · rfl
  · rfl

theorem execFaultQueueWrite_of_none {s : State} {p : Nat} (h : s.fqPick p = none) : execFaultQueueWrite p s = .next s := by
  unfold execFaultQueueWrite
  rw [h]

/-- An entry that has been written leaves the fault queue. -/
theorem execFaultQueueWrite_done {s s1 : State} {p : Nat} {e : FqEnt} (hp : s.fqPick p = some e) (hd : s.fqTry p e = .done s1) :
    ∃ t, execFaultQueueWrite p s = .next t ∧ (t.part p).fq = (s.part p).fq.erase e := by
  have h1 : Accessed s s1 := Accessed.refl.fqTry hd
  have hout : (((s1.upPart p (fun x => { x with fq := x.fq.erase e })).signalQ p e.q).part p).fq = (s.part p).fq.erase e := by
    rw [signalQ_part, upPart_at_same]
    exact congrArg (List.erase · e) (h1.fq p)
  simp only [execFaultQueueWrite, hp, hd]
  refine ⟨_, rfl, ?_⟩
  split <;> exact hout

/-! ### Launches through an admission (19 R331) -/

/-- Every partition has the launches it had. -/
def SameLaunches (s t : State) : Prop := ∀ q, (t.part q).launches = (s.part q).launches

section
variable {b s t : State}

theorem SameLaunches.refl : SameLaunches s s := fun _ => rfl

theorem SameLaunches.mem {l : Launch} {p : Nat} (h : SameLaunches s t) (hl : l ∈ (s.part p).launches) : l ∈ (t.part p).launches := by
  rw [h p]
  exact hl

theorem SameLaunches.same (h : SameLaunches b s) (e : t.parts = s.parts := by rfl) : SameLaunches b t := by
  intro q
  rw [State.part, e]
  exact h q

theorem SameLaunches.access (h : SameLaunches b s) (ha : Accessed s t) : SameLaunches b t :=
  fun q => (ha.launches q).trans (h q)

theorem SameLaunches.upPart {p : Nat} {f : PartSt → PartSt} (h : SameLaunches b s) (hf : ∀ x, (f x).launches = x.launches) :
    SameLaunches b (s.upPart p f) := by
  intro q
  by_cases hq : q = p
  · subst hq
    rw [upPart_at_same, hf, h q]
  · rw [upPart_at_ne _ _ hq, h q]

theorem SameLaunches.foldl {α : Type} {f : State → α → State} {l : List α} (h : SameLaunches b s)
    (hf : ∀ s x, SameLaunches b s → SameLaunches b (f s x)) : SameLaunches b (l.foldl f s) := by
  induction l generalizing s with
  | nil => exact h
  | cons x l ih => exact ih (hf s x h)

theorem SameLaunches.newTask {p : Nat} {l : Launch} {tcb : Nat × Word} {pos lo hi : Nat} {split : Bool} (h : SameLaunches b s) :
    SameLaunches b (s.newTask p l tcb pos lo hi split) := by
  unfold State.newTask
  dsimp only
  refine SameLaunches.access (h.upPart fun _ => ?_) Accessed.refl.putTcb
  rfl

theorem SameLaunches.upBarAt {tk i : Nat} {f : BarSt → BarSt} (h : SameLaunches b s) : SameLaunches b (s.upBarAt tk i f) := by
  unfold State.upBarAt
  split
  · exact h.same
  · split
    · exact h
    · exact h.access Accessed.refl.wrBy

theorem SameLaunches.grantChan {p cid seq i : Nat} {x : BitVec 2048} (h : SameLaunches b s) : SameLaunches b (s.grantChan p cid seq x i) := by
  unfold State.grantChan
  dsimp only
  refine SameLaunches.foldl h.same fun s1 q h1 => ?_
  split
  · exact h1.upBarAt
  · exact h1

theorem SameLaunches.startTerm {d cid : Nat} {why : Option (Nat × Word)} (h : SameLaunches b s) : SameLaunches b (s.startTerm d cid why) := by
  unfold State.startTerm
  split
  · exact h
  · split <;> exact h.same

theorem SameLaunches.succAdd {p : Nat} {l : Launch} {d : Word} (h : SameLaunches b s) : SameLaunches b (s.succAdd p l d).2 := by
  unfold State.succAdd
  split
  · exact h
  · split
    · rename_i s1 e1
      exact h.access (Accessed.refl.predAdd e1)
    · exact h.startTerm

theorem SameLaunches.popHead {p q : Nat} (h : SameLaunches b s) : SameLaunches b (s.popHead p q) := h.access Accessed.refl.setQw

end

/-- The launch that step 5 makes of an admission. -/
def admittedLaunch (s : State) (p : Nat) (a : Adm) : Launch :=
  { seq := mget (s.part p).qseq (a.q * 2 ^ 64 + (s.qw p a.q 1).toNat) 0, va := a.va, pa := a.pa, cid := s.qCid p a.q, q := a.q
    snap := a.snap, left := (recTasks a.snap).length, first := [] }

/-- Step 5 for a launch with tasks: the launch stands in the partition's list. -/
theorem mem_launches_step5 (s : State) (p : Nat) (a : Adm) (ht : recTasks a.snap ≠ []) :
    admittedLaunch s p a ∈ ((s.step5 p a).part p).launches := by
  unfold State.step5
  dsimp only
  rw [if_neg ht]
  generalize hu : State.upPart s p _ = u
  have hmem : admittedLaunch s p a ∈ (u.part p).launches := by
    rw [← hu, upPart_at_same]
    exact List.mem_append_right _ List.mem_cons_self
  refine SameLaunches.mem ?_ hmem
  exact ((SameLaunches.refl.foldl fun _ _ h => h.newTask).foldl fun _ _ h => h.grantChan).succAdd.popHead

/-! ### Admission: the head that is taken -/

section
variable {s s1 s2 : State} {p q pa : Nat} {va : Word} {x : BitVec 2048}

theorem execAdmission_of_not (h : s.admits p = false) : execAdmission p s = .next s := if_pos (by rw [h]; rfl)

theorem execAdmission_of_pick (h : s.admits p = true) (hq : (s.admWaiters p).pickQueue p = some q) :
    execAdmission p s = .next ((s.admWaiters p).takeHead p q) := by
  simp only [execAdmission, h, hq, Bool.not_true, Bool.false_eq_true, if_false]

theorem execAdmissionWaitEnd_eq {a : Adm} (h : (s.part p).adm = some a) :
    execAdmissionWaitEnd p s = if s.step4 p a then .next (s.step5 p a) else .next s := by
  unfold execAdmissionWaitEnd
  rw [h]

/-- What becomes of a head whose record has been read: the checks of step 3 gave `o`, those of step 4 `free`. -/
def headTaken (s : State) (p q : Nat) (va : Word) (pa : Nat) (x : BitVec 2048) (o : Option (Nat × Bool)) (free : Bool) : State :=
  match o with
  | some (c, bad) => s.refuse p q va (if bad then 0 else recFq x) c
  | none =>
    if free then s.step5 p { q := q, va := va, pa := pa, snap := x }
    else s.upPart p (fun y => { y with adm := some { q := q, va := va, pa := pa, snap := x } })

theorem takeHead_eq
    (hva : ((s.upPart p (fun y => { y with rrq := vset y.rrq (wbits (s.qw p q 3) 12 3) ((q + 1) % 64) })).noteHead p q).headVa p q =
      (some va, s1))
    (hgo : s1.step1 p q = .go) (hrec : s1.getRec p (s.qCid p q) va = (some (pa, x), s2)) :
    s.takeHead p q =
      headTaken s2 p q va pa x (s2.step3 p (s.qCid p q) x) (s2.step4 p { q := q, va := va, pa := pa, snap := x }) := by
  unfold State.takeHead
  dsimp only
  rw [hva]
  dsimp only
  rw [hgo]
  dsimp only
  rw [hrec]
  rfl

/-- A refusal puts its entry into the fault queue, and says that the queue has work. -/
theorem refuse_entry (s : State) (p q : Nat) (va fq : Word) (code : Nat) :
    Sent (s.refuse p q va fq code) (.faultQueueWrite p) ∧ ∃ e ∈ ((s.refuse p q va fq code).part p).fq, e.q = q ∧
      e.words = [0, BitVec.ofNat 64 code, 0, 0, 0, va, 0, 0] ∧ (fq = 0 → e.dflt = true) := by
  unfold State.refuse
  dsimp only
  refine ⟨⟨_, pushAt_sent ..⟩, ?_⟩
  rw [push_at_part, upPart_at_same]
  refine ⟨_, List.mem_append_right _ List.mem_cons_self, ?_⟩
  split
  · exact ⟨rfl, rfl, fun _ => rfl⟩
  · rename_i hfq
    refine ⟨rfl, rfl, fun h => absurd ?_ hfq⟩
    rw [h]
    decide

end

end Sys2Proof.Claims

namespace Sys2Proof

open Sys2Proof.Machine Sys2Proof.Claims

/-- Settles O45, row by row: `bindEnd` for a bind, `refuse`, `step5` or a wait for the head of a queue. -/
theorem dispatching : Obligations.Dispatching := by
  unfold Obligations.Dispatching
  refine ⟨?bind, fun pos s ho => ?noBind, ?split, fun pos s hw => ?noSplit, fun p tcb k s hk => ?lapse, fun p e s s1 => ?written,
    fun p s hp => ?noEntry, fun p s => execAdmission_of_not, ?admission, fun p a s ha => ?waiting⟩
  case bind =>
    intro pos cid k l s ho
    dsimp only
    intro hc hl hi
    obtain ⟨u, hu, htasks⟩ := bindTask_eq (p := s.partOf (tkOf cid pos)) (tk := tkOf cid pos) (k := k) hi
    obtain ⟨k0, hk0⟩ := task?_of_mem (mem_tasks_of_candidate hc)
    obtain ⟨irq, evts, ht⟩ := bindEnd_tset u (s.partOf (tkOf cid pos)) (tkOf cid pos) k l (s.getTcb (s.partOf (tkOf cid pos)) k.tcb).1
    generalize s.getTcb (s.partOf (tkOf cid pos)) k.tcb = rs at hu ht ⊢
    obtain ⟨r, sr⟩ := rs
    dsimp only at hu ht ⊢
    obtain ⟨hbound, hwait⟩ := tsetAt_bound u.cyc (posOf (tkOf cid pos)) k l r (u.t (tkOf cid pos))
    refine ⟨_, (execTaskBind_eq ho hc hl).trans (congrArg _ hu), ?_, ?_, bindEnd_task ((task?_congr htasks).trans hk0),
      fun hv => ?_, fun hv => ?_⟩
    · rw [ht]
      exact hbound
    · rw [ht]
      exact hwait
    · obtain ⟨hpc, harch⟩ := tsetAt_new hv u.cyc (posOf (tkOf cid pos)) l r (u.t (tkOf cid pos))
      rw [ht]
      exact ⟨hpc, newTask_registers harch⟩
    · obtain ⟨hpc, harch⟩ := tsetAt_back hv u.cyc (posOf (tkOf cid pos)) l r (u.t (tkOf cid pos))
      rw [ht]
      dsimp only
      rw [harch]
      exact ⟨hpc, fun _ _ _ => rfl, fun _ _ _ => rfl, fun _ => rfl⟩
  case noBind => exact execTaskBind_of_closed ho
  case split =>
    intro pos cid tier k s hw ho
    dsimp only
    intro hf
    obtain ⟨k0, hk0⟩ := task?_of_mem (mem_tasks_of_victim (mem_of_firstBy hf))
    exact ⟨_, execSplitRequest_eq hw ho hf, ⟨_, task?_upTask hk0 fun _ => rfl, rfl⟩, pushAt_sent ..⟩
  case noSplit => exact if_pos (by rw [hw]; rfl)
  case lapse =>
    refine ⟨_, _, execSplitWithdrawTimeout_eq s p tcb, task?_upTask hk (lapsed_tcb _), fun q c => lapsed_req, ?_⟩
    exact fun home pa => byteAt_congr rfl rfl home pa
  case written => exact execFaultQueueWrite_done
  case noEntry => exact execFaultQueueWrite_of_none hp
  case admission =>
    intro p q pa va x s s1 s2 hadm
    dsimp only
    intro hq hva hgo hrec
    have hexec := (execAdmission_of_pick hadm hq).trans (congrArg _ (takeHead_eq hva hgo hrec))
    refine ⟨fun c own h3 => ?_, fun h3 h4 ht => ?_, fun h3 h4 => ?_⟩
    · obtain ⟨hsent, e, he, heq, hwords, hdflt⟩ := refuse_entry s2 p q va (if own then 0 else recFq x) c
      rw [h3] at hexec
      exact ⟨_, hexec, hsent, e, he, heq, hwords, fun ho => hdflt (if_pos ho)⟩
    · rw [h3, h4] at hexec
      exact ⟨_, hexec, _, mem_launches_step5 s2 p _ ht, rfl, rfl, rfl, rfl⟩
    · rw [h3, h4] at hexec
      refine ⟨_, hexec, ?_⟩
      dsimp only [headTaken]
      rw [if_neg Bool.false_ne_true, upPart_at_same]
  case waiting =>
    refine ⟨fun h4 ht => ?_, fun h4 => ?_⟩
    · exact ⟨_, (execAdmissionWaitEnd_eq ha).trans (if_pos h4), _, mem_launches_step5 s p a ht, rfl, rfl, rfl, rfl⟩
    · exact (execAdmissionWaitEnd_eq ha).trans (if_neg (Bool.not_eq_true _ ▸ h4))

end Sys2Proof
end

section
/-! # Words and instructions: the encoder and the decoder agree

Two facts about words carry the proof. A word that `asm` puts together shows its fixed bits and its fields wherever one looks, so the
decoder finds in the first word of an instruction the codes of its row and its operands. And a word is what its fixed bits and its
fields say bit range by bit range, so the instruction that a row of the decoder reads off a word has this word as its first. -/

set_option Elab.async false

namespace Sys2Proof

/-! ### Fields of an assembled word -/

theorem fld_toNat (w lo n : Nat) : (fld w lo n).toNat = w / 2 ^ lo % 2 ^ n := BitVec.toNat_ofNat _ _

theorem fld_eq_of_slice {w lo n : Nat} {v : BitVec n} (h : w / 2 ^ lo % 2 ^ n = v.toNat) : fld w lo n = v :=
  BitVec.eq_of_toNat_eq ((fld_toNat w lo n).trans h)

/-- The fixed bits from a place on stand apart from the word that the bits below it make with the fields. -/
theorem asm_eq_split (f k : Nat) (fs : List (Nat × Nat)) : asm f fs = f / k * k + asm (f % k) fs := by
  induction fs with
  | nil => exact (Nat.div_add_mod' f k).symm
  | cons x fs ih => rw [asm, ih, asm, Nat.add_assoc]

/-- Above the fields stand the fixed bits. -/
theorem asm_div {f k : Nat} {fs : List (Nat × Nat)} (h : asm (f % k) fs < k) : asm f fs / k = f / k := by
  rw [asm_eq_split f k, Nat.add_comm, Nat.add_mul_div_right _ _ (Nat.zero_lt_of_lt h), Nat.div_eq_of_lt h, Nat.zero_add]

/-- A field changes no bits below its place. -/
theorem asm_slice_skip {f k m v l : Nat} {fs : List (Nat × Nat)} (h : k * m ∣ 2 ^ l) :
    asm f ((v, l) :: fs) / k % m = asm f fs / k % m := by
  obtain ⟨c, hc⟩ := h
  have hk : 0 < k := Nat.pos_of_ne_zero fun e => by simp [e] at hc
  have e : v * 2 ^ l = k * (m * (v * c)) := by rw [hc]; ring
  rw [asm, e, Nat.add_mul_div_left _ _ hk, Nat.add_mul_mod_self_left]

theorem fld_asm_skip {f lo n v l : Nat} {fs : List (Nat × Nat)} (h : lo + n ≤ l) :
    fld (asm f ((v, l) :: fs)) lo n = fld (asm f fs) lo n :=
  fld_eq_of_slice (by rw [asm_slice_skip (Nat.pow_add 2 lo n ▸ Nat.pow_dvd_pow 2 h), fld_toNat])

/-- A field reads back where the fixed bits leave its place free and the fields behind it end below it. -/
theorem fld_asm_same {f n l : Nat} {v : BitVec n} {fs : List (Nat × Nat)} (h : asm (f % 2 ^ l) fs < 2 ^ l)
    (h0 : f / 2 ^ l % 2 ^ n = 0) : fld (asm f ((v.toNat, l) :: fs)) l n = v :=
  fld_eq_of_slice (by rw [asm, Nat.add_mul_div_right _ _ (Nat.two_pow_pos l), asm_div h, Nat.add_mod, h0, Nat.zero_add, Nat.mod_mod,
    Nat.mod_eq_of_lt v.isLt])

/-! ### The decoder reads the first word of an instruction -/

/-- Decoding the first word of the instruction, with its literal where it has one, gives the instruction, before the checks of its
field values. -/
def ReadsBack (i : Instr) : Prop := ∀ lit, decodeFields i.firstWord (i.literal.getD lit) = .ok i

/-- The rows of majors 0x01 to 0x0A. The opcode table, and so `Instr`, stands in the order of the majors. -/
theorem readsBack_integer {i : Instr} (hhi : decide (i.ctorIdx < 72) = true) : ReadsBack i := by
  cases i <;> cases hhi
  all_goals
    intro lit
    change decodeFields (asm _ _) _ = _
    simp (disch := (try simp only [asm]); omega) only [decodeFields, decodeOpr, decodeShi, asm_div, asm_slice_skip,
      fld_asm_same, fld_asm_skip, ↓reduceIte, Nat.reducePow, Nat.reduceDiv, Nat.reduceMod, Nat.reduceEqDiff]
  all_goals rfl

/-- The rows of major 0x0B. -/
theorem readsBack_float {i : Instr} (hlo : decide (72 ≤ i.ctorIdx) = true) (hhi : decide (i.ctorIdx < 110) = true) : ReadsBack i := by
  cases i <;> cases hlo <;> cases hhi
  all_goals
    intro lit
    change decodeFields (asm _ _) _ = _
    simp (disch := (try simp only [asm]); omega) only [decodeFields, decodeFop, asm_div, asm_slice_skip,
      fld_asm_same, fld_asm_skip, ↓reduceIte, Nat.reducePow, Nat.reduceDiv, Nat.reduceMod, Nat.reduceEqDiff]
  all_goals rfl

/-- The rows of majors 0x0C to 0x1C. -/
theorem readsBack_memory {i : Instr} (hlo : decide (110 ≤ i.ctorIdx) = true) (hhi : decide (i.ctorIdx < 148) = true) : ReadsBack i := by
  cases i <;> cases hlo <;> cases hhi
  all_goals
    intro lit
    change decodeFields (asm _ _) _ = _
    simp (disch := (try simp only [asm]); omega) only [decodeFields, decodeAmo, decodeRed, decodeSync, decodeLctl, asm_div,
      asm_slice_skip, fld_asm_same, fld_asm_skip, ↓reduceIte, Nat.reducePow, Nat.reduceDiv, Nat.reduceMod, Nat.reduceEqDiff, and_self]

/-- The rows of majors 0x20 to 0x23. -/
theorem readsBack_vector {i : Instr} (hlo : decide (148 ≤ i.ctorIdx) = true) (hhi : decide (i.ctorIdx < 208) = true) : ReadsBack i := by
  cases i <;> cases hlo <;> cases hhi
  all_goals
    intro lit
    change decodeFields (asm _ _) _ = _
    simp (disch := (try simp only [asm]); omega) only [decodeFields, decodeVop, decodeVcvt, decodeVmem, decodeVprm, asm_div,
      asm_slice_skip, fld_asm_same, fld_asm_skip, ↓reduceIte, Nat.reducePow, Nat.reduceDiv, Nat.reduceMod, Nat.reduceEqDiff, and_self]

/-- The rows of majors 0x24 to 0x39, the last that have a word. -/
theorem readsBack_unit {i : Instr} (hlo : decide (208 ≤ i.ctorIdx) = true) (henc : i.encoded = true) : ReadsBack i := by
  cases i <;> cases hlo <;> cases henc
  all_goals
    intro lit
    change decodeFields (asm _ _) _ = _
    simp (disch := (try simp only [asm]); omega) only [decodeFields, decodeDmov, decodeMaux, decodeBank, decodeTcmd, decodeStrm,
      decodeBar, decodeTask, decodeSys, asm_div, asm_slice_skip, fld_asm_same, fld_asm_skip, ↓reduceIte, Nat.reducePow, Nat.reduceDiv,
      Nat.reduceMod, Nat.reduceEqDiff, and_self]

theorem readsBack {i : Instr} (h : i.encoded = true) : ReadsBack i := by
  by_cases h1 : i.ctorIdx < 72
  · exact readsBack_integer (decide_eq_true h1)
  by_cases h2 : i.ctorIdx < 110
  · exact readsBack_float (decide_eq_true (Nat.le_of_not_lt h1)) (decide_eq_true h2)
  by_cases h3 : i.ctorIdx < 148
  · exact readsBack_memory (decide_eq_true (Nat.le_of_not_lt h2)) (decide_eq_true h3)
  by_cases h4 : i.ctorIdx < 208
  · exact readsBack_vector (decide_eq_true (Nat.le_of_not_lt h3)) (decide_eq_true h4)
  · exact readsBack_unit (decide_eq_true (Nat.le_of_not_lt h4)) h

/-! ### A word put together again from its bit ranges -/

/-- A word that takes its highest field from `w`, up to the top of this field, whose place the fixed bits leave free. -/
theorem asm_mod_of_field {f w l n m : Nat} {fs : List (Nat × Nat)} (hm : l + n = m) (h0 : f / 2 ^ l % 2 ^ n = 0)
    (h : asm (f % 2 ^ l) fs = w % 2 ^ l) : asm (f % 2 ^ m) (((fld w l n).toNat, l) :: fs) = w % 2 ^ m := by
  have hf : f % 2 ^ (l + n) = f % 2 ^ l := by rw [Nat.pow_add, Nat.mod_mul, h0, Nat.mul_zero, Nat.add_zero]
  rw [← hm, asm, hf, h, fld_toNat, Nat.pow_add, Nat.mod_mul, Nat.mul_comm (2 ^ l)]

/-- A word up to a place, where `w` has the fixed bits that stand below it. -/
theorem asm_mod_of_fixed {f w l n : Nat} {fs : List (Nat × Nat)} (hfix : f / 2 ^ l % 2 ^ n = w / 2 ^ l % 2 ^ n)
    (h : asm (f % 2 ^ l) fs = w % 2 ^ l) : asm (f % 2 ^ (l + n)) fs = w % 2 ^ (l + n) := by
  have hdiv : f % 2 ^ (l + n) / 2 ^ l = f / 2 ^ l % 2 ^ n := by rw [Nat.pow_add, Nat.mod_mul_right_div_self]
  have hmod : f % 2 ^ (l + n) % 2 ^ l = f % 2 ^ l := Nat.mod_mod_of_dvd _ ⟨2 ^ n, Nat.pow_add 2 l n⟩
  rw [asm_eq_split _ (2 ^ l), hdiv, hmod, h, hfix, Nat.pow_add, Nat.mod_mul, Nat.add_comm, Nat.mul_comm]

/-- The same with a field under these fixed bits. -/
theorem asm_mod_of_fixed_field {f w l n m : Nat} {fs : List (Nat × Nat)} (h0 : f / 2 ^ l % 2 ^ n = 0) (hm : l + n ≤ m)
    (hfix : f / 2 ^ (l + n) % 2 ^ (m - (l + n)) = w / 2 ^ (l + n) % 2 ^ (m - (l + n)))
    (h : asm (f % 2 ^ l) fs = w % 2 ^ l) : asm (f % 2 ^ m) (((fld w l n).toNat, l) :: fs) = w % 2 ^ m := by
  obtain ⟨k, rfl⟩ := Nat.exists_eq_add_of_le hm
  rw [Nat.add_sub_cancel_left] at hfix
  exact asm_mod_of_fixed hfix (asm_mod_of_field rfl h0 h)

/-- Below its last field a word has the fixed bits alone. -/
theorem asm_mod_nil {f w m : Nat} (h : f % 2 ^ m = w % 2 ^ m) : asm (f % 2 ^ m) [] = w % 2 ^ m := h

theorem asm_eq_of_mod {f w : Nat} {fs : List (Nat × Nat)} (hf : f < 2 ^ 32) (hw : w < 2 ^ 32) (h : asm (f % 2 ^ 32) fs = w % 2 ^ 32) :
    asm f fs = w := by
  rwa [Nat.mod_eq_of_lt hf, Nat.mod_eq_of_lt hw] at h

/-! ### The decoder gives an instruction whose first word it has read -/

/-- A word is followed by a literal (03 R41, R44). -/
def TakesLiteral (w : Nat) : Prop := (w / 2 ^ 26 = 0x01 ∨ w / 2 ^ 26 = 0x0B) ∧ w / 2 ^ 10 % 2 = 1

theorem hasLiteral_iff (w : BitVec 32) : hasLiteral w = true ↔ TakesLiteral w.toNat := by
  simp only [hasLiteral, TakesLiteral, Bool.and_eq_true, Bool.or_eq_true, beq_iff_eq]

theorem not_takesLiteral {w k : Nat} (h : w / 2 ^ 26 = k) (h1 : k ≠ 0x01) (hB : k ≠ 0x0B) : ¬ TakesLiteral w := by
  unfold TakesLiteral
  omega

/-- The first word of the instruction is `w`, and its literal is `lit` where `w` takes one. -/
def Spells (w : Nat) (lit : BitVec 32) (i : Instr) : Prop :=
  i.encoded = true ∧ i.firstWord = w ∧ (TakesLiteral w → i.literal = some lit) ∧ (¬ TakesLiteral w → i.literal = none)

/-- What a decoder gives, if it gives an instruction, has the property. -/
def AllOk (P : Instr → Prop) (r : Except DecodeError Instr) : Prop := ∀ i, r = .ok i → P i

section
variable {P : Instr → Prop} {a b : Except DecodeError Instr} {w : Nat} {lit : BitVec 32}

theorem AllOk.ok {i : Instr} (h : P i) : AllOk P (.ok i) :=
  fun _ e => Except.ok.inj e ▸ h

theorem AllOk.error {e : DecodeError} : AllOk P (.error e) :=
  fun _ h => absurd h (by simp)

/-- A row of a decoder. The rows behind it hold by their own conditions. -/
theorem AllOk.row {c : Prop} [Decidable c] (ha : c → AllOk P a) (hb : AllOk P b) : AllOk P (if c then a else b) := by
  split
  · exact ha ‹_›
  · exact hb

/-- A row whose instruction has bits that must be zero. -/
theorem AllOk.guarded {c z : Prop} [Decidable c] [Decidable z] {e : DecodeError} (ha : c → z → AllOk P a) (hb : AllOk P b) :
    AllOk P (if c then if z then a else .error e else b) :=
  .row (fun hc => .row (ha hc) .error) hb

/-- A row that a bit of the word splits in two. -/
theorem AllOk.bit {k : Nat} (ha : w / 2 ^ k % 2 = 1 → AllOk P a) (hb : w / 2 ^ k % 2 = 0 → AllOk P b) :
    AllOk P (if w / 2 ^ k % 2 = 1 then a else b) := by
  split
  · exact ha ‹_›
  · exact hb (Nat.mod_two_ne_one.1 ‹_›)

theorem decodeOpr_spells_of_literal (hw : w < 2 ^ 32) (hop : w / 2 ^ 26 = 0x01) (hbit : w / 2 ^ 10 % 2 = 1) :
    AllOk (Spells w lit) (decodeOpr w lit) := by
  have hl : TakesLiteral w := ⟨.inl hop, hbit⟩
  simp only [decodeOpr, if_pos hbit]
  repeat' refine .row (fun _ => ?_) ?_
  any_goals exact .error
  all_goals
    refine .ok ⟨rfl, ?_, fun _ => ?_, fun h => absurd hl h⟩
    rotate_left
    -- A row has the literal in its form, or wants the bit to be zero, against `hbit`.
    first | rfl | omega
    refine asm_eq_of_mod (by decide) hw ?_
    repeat' first | refine asm_mod_of_field rfl rfl ?_ | refine asm_mod_of_fixed_field rfl (by decide) (by omega) ?_
    exact asm_mod_nil (by omega)

theorem decodeOpr_spells_of_registers (hw : w < 2 ^ 32) (hop : w / 2 ^ 26 = 0x01) (hbit : w / 2 ^ 10 % 2 = 0) :
    AllOk (Spells w lit) (decodeOpr w lit) := by
  have hl : ¬ TakesLiteral w := fun h => by unfold TakesLiteral at h; omega
  simp only [decodeOpr, if_neg (Nat.mod_two_ne_one.2 hbit)]
  repeat' refine .row (fun _ => ?_) ?_
  any_goals exact .error
  all_goals
    refine .ok ⟨rfl, ?_, fun h => absurd h hl, fun _ => rfl⟩
    refine asm_eq_of_mod (by decide) hw ?_
    repeat' first | refine asm_mod_of_field rfl rfl ?_ | refine asm_mod_of_fixed_field rfl (by decide) (by omega) ?_
    exact asm_mod_nil (by omega)

theorem decodeOpr_spells (hw : w < 2 ^ 32) (hop : w / 2 ^ 26 = 0x01) : AllOk (Spells w lit) (decodeOpr w lit) :=
  (Nat.mod_two_eq_zero_or_one (w / 2 ^ 10)).elim (decodeOpr_spells_of_registers hw hop) (decodeOpr_spells_of_literal hw hop)

theorem decodeFop_spells (hw : w < 2 ^ 32) (hop : w / 2 ^ 26 = 0x0B) : AllOk (Spells w lit) (decodeFop w lit) := by
  have hl : TakesLiteral w ↔ w / 2 ^ 10 % 2 = 1 := by unfold TakesLiteral; omega
  unfold Spells
  rw [hl]
  clear hl
  unfold decodeFop
  repeat' first | refine .bit (fun _ => ?_) (fun _ => ?_) | refine .row (fun _ => ?_) ?_
  any_goals exact .error
  all_goals
    refine .ok ⟨rfl, ?_, fun _ => ?_, fun _ => ?_⟩
    rotate_left
    -- The literal of the row's form, and its absence: one holds by the form, the other is against the row's bit.
    iterate 2 first | rfl | omega
    refine asm_eq_of_mod (by decide) hw ?_
    repeat' first | refine asm_mod_of_field rfl rfl ?_ | refine asm_mod_of_fixed_field rfl (by decide) (by omega) ?_
    exact asm_mod_nil (by omega)

/-- The decoders of shifts by an immediate, atomics, reductions, synchronisation and loop control. -/
theorem scalarDecoders_spell (hw : w < 2 ^ 32) :
    (w / 2 ^ 26 = 0x08 → AllOk (Spells w lit) (decodeShi w)) ∧
    (w / 2 ^ 26 = 0x10 → AllOk (Spells w lit) (decodeAmo w)) ∧
    (w / 2 ^ 26 = 0x11 → AllOk (Spells w lit) (decodeRed w)) ∧
    (w / 2 ^ 26 = 0x12 → AllOk (Spells w lit) (decodeSync w)) ∧
    (w / 2 ^ 26 = 0x1C → AllOk (Spells w lit) (decodeLctl w)) := by
  refine ⟨fun hop => ?_, fun hop => ?_, fun hop => ?_, fun hop => ?_, fun hop => ?_⟩
  all_goals
    have hl := not_takesLiteral hop (by decide) (by decide)
    simp only [decodeShi, decodeAmo, decodeRed, decodeSync, decodeLctl]
    repeat' first | refine .bit (fun _ => ?_) (fun _ => ?_) | refine .row (fun _ => ?_) ?_
    any_goals exact .error
  all_goals
    refine .ok ⟨rfl, ?_, fun h => absurd h hl, fun _ => rfl⟩
    refine asm_eq_of_mod (by decide) hw ?_
    repeat' first | refine asm_mod_of_field rfl rfl ?_ | refine asm_mod_of_fixed_field rfl (by decide) (by omega) ?_
    exact asm_mod_nil (by omega)

/-- The decoders of the vector unit. -/
theorem vectorDecoders_spell (hw : w < 2 ^ 32) :
    (w / 2 ^ 26 = 0x20 → AllOk (Spells w lit) (decodeVop w)) ∧
    (w / 2 ^ 26 = 0x21 → AllOk (Spells w lit) (decodeVcvt w)) ∧
    (w / 2 ^ 26 = 0x22 → AllOk (Spells w lit) (decodeVmem w)) ∧
    (w / 2 ^ 26 = 0x23 → AllOk (Spells w lit) (decodeVprm w)) := by
  refine ⟨fun hop => ?_, fun hop => ?_, fun hop => ?_, fun hop => ?_⟩
  all_goals
    have hl := not_takesLiteral hop (by decide) (by decide)
    simp only [decodeVop, decodeVcvt, decodeVmem, decodeVprm]
    repeat' first | refine .bit (fun _ => ?_) (fun _ => ?_) | refine .row (fun _ => ?_) ?_
    any_goals exact .error
  all_goals
    refine .ok ⟨rfl, ?_, fun h => absurd h hl, fun _ => rfl⟩
    refine asm_eq_of_mod (by decide) hw ?_
    repeat' first | refine asm_mod_of_field rfl rfl ?_ | refine asm_mod_of_fixed_field rfl (by decide) (by omega) ?_
    exact asm_mod_nil (by omega)

/-- The decoders of tangent planes, the tensor array, banks, copies, streams, barriers, tasks and the system. -/
theorem unitDecoders_spell (hw : w < 2 ^ 32) :
    (w / 2 ^ 26 = 0x25 → AllOk (Spells w lit) (decodeDmov w)) ∧
    (w / 2 ^ 26 = 0x2F → AllOk (Spells w lit) (decodeMaux w)) ∧
    (w / 2 ^ 26 = 0x30 → AllOk (Spells w lit) (decodeBank w)) ∧
    (w / 2 ^ 26 = 0x31 → AllOk (Spells w lit) (decodeTcmd w)) ∧
    (w / 2 ^ 26 = 0x32 → AllOk (Spells w lit) (decodeStrm w)) ∧
    (w / 2 ^ 26 = 0x33 → AllOk (Spells w lit) (decodeBar w)) ∧
    (w / 2 ^ 26 = 0x34 → AllOk (Spells w lit) (decodeTask w)) ∧
    (w / 2 ^ 26 = 0x35 → AllOk (Spells w lit) (decodeSys w)) := by
  refine ⟨fun hop => ?_, fun hop => ?_, fun hop => ?_, fun hop => ?_, fun hop => ?_, fun hop => ?_, fun hop => ?_, fun hop => ?_⟩
  all_goals
    have hl := not_takesLiteral hop (by decide) (by decide)
    simp only [decodeDmov, decodeMaux, decodeBank, decodeTcmd, decodeStrm, decodeBar, decodeTask, decodeSys]
    repeat' first | refine .bit (fun _ => ?_) (fun _ => ?_) | refine .row (fun _ => ?_) ?_
    any_goals exact .error
  all_goals
    refine .ok ⟨rfl, ?_, fun h => absurd h hl, fun _ => rfl⟩
    refine asm_eq_of_mod (by decide) hw ?_
    repeat' first | refine asm_mod_of_field rfl rfl ?_ | refine asm_mod_of_fixed_field rfl (by decide) (by omega) ?_
    exact asm_mod_nil (by omega)

theorem decodeFields_spells (hw : w < 2 ^ 32) : AllOk (Spells w lit) (decodeFields w lit) := by
  obtain ⟨hshi, hamo, hred, hsync, hlctl⟩ := scalarDecoders_spell (lit := lit) hw
  obtain ⟨hvop, hvcvt, hvmem, hvprm⟩ := vectorDecoders_spell (lit := lit) hw
  obtain ⟨hdmov, hmaux, hbank, htcmd, hstrm, hbar, htask, hsys⟩ := unitDecoders_spell (lit := lit) hw
  unfold decodeFields
  refine .row (decodeOpr_spells hw) <| .row (fun _ => ?_) <| .row (fun _ => ?_) <| .row (fun _ => ?_) <| .row (fun _ => ?_) <|
    .row (fun _ => ?_) <| .row (fun _ => ?_) <| .row hshi <| .guarded (fun _ _ => ?_) <| .guarded (fun _ _ => ?_) <|
    .row (decodeFop_spells hw) <| .row (fun _ => ?_) <| .row (fun _ => ?_) <| .guarded (fun _ _ => ?_) <| .guarded (fun _ _ => ?_) <|
    .row hamo <| .row hred <| .row hsync <| .row (fun _ => ?_) <| .row (fun _ => ?_) <| .row (fun _ => ?_) <| .row (fun _ => ?_) <|
    .row (fun _ => ?_) <| .row (fun _ => ?_) <| .row (fun _ => ?_) <| .row (fun _ => ?_) <| .row (fun _ => ?_) <| .row hlctl <|
    .row hvop <| .row hvcvt <| .row hvmem <| .row hvprm <| .guarded (fun _ _ => ?_) <| .row hdmov <| .guarded (fun _ _ => ?_) <|
    .guarded (fun _ _ => ?_) <| .guarded (fun _ _ => ?_) <| .guarded (fun _ _ => ?_) <| .guarded (fun _ _ => ?_) <|
    .row (fun _ => ?_) <| .guarded (fun _ _ => ?_) <| .row hmaux <| .row hbank <| .row htcmd <| .row hstrm <| .row hbar <|
    .row htask <| .row hsys <| .guarded (fun _ _ => ?_) <| .guarded (fun _ _ => ?_) <| .guarded (fun _ _ => ?_) <|
    .guarded (fun _ _ => ?_) <| .error
  all_goals
    have hl := not_takesLiteral ‹w / 2 ^ 26 = _› (by decide) (by decide)
    refine .ok ⟨rfl, ?_, fun h => absurd h hl, fun _ => rfl⟩
    refine asm_eq_of_mod (by decide) hw ?_
    repeat' first | refine asm_mod_of_field rfl rfl ?_ | refine asm_mod_of_fixed_field rfl (by decide) (by omega) ?_
    exact asm_mod_nil (by omega)

end

/-! ### Words and bytes -/

/-- Decoding reads the fields and then checks their values (03 R64). -/
theorem decode_eq_ok {w x : BitVec 32} {i : Instr} : decode w x = .ok i ↔ decodeFields w.toNat x = .ok i ∧ i.wf = true := by
  unfold decode
  split
  case h_1 j hj =>
    rw [hj]
    split
    case isTrue hwf => exact ⟨fun e => ⟨e, Except.ok.inj e ▸ hwf⟩, And.left⟩
    case isFalse hwf => exact ⟨fun e => absurd e (by simp), fun ⟨e, hi⟩ => absurd (Except.ok.inj e ▸ hi) hwf⟩
  case h_2 e he =>
    rw [he]
    exact ⟨fun h => absurd h (by simp), fun h => absurd h.1 (by simp)⟩

theorem toNat_firstWord (i : Instr) : (BitVec.ofNat 32 i.firstWord).toNat = i.firstWord :=
  (BitVec.toNat_ofNat _ _).trans (Nat.mod_eq_of_lt (Claims.firstWord_lt i))

theorem decode_firstWord {i : Instr} (lit : BitVec 32) (henc : i.encoded = true) (hwf : i.wf = true) :
    decode (BitVec.ofNat 32 i.firstWord) (i.literal.getD lit) = .ok i :=
  decode_eq_ok.2 ⟨by rw [toNat_firstWord]; exact readsBack henc lit, hwf⟩

/-- The first word of an instruction takes a literal where the instruction has one. -/
theorem hasLiteral_firstWord {i : Instr} (henc : i.encoded = true) :
    hasLiteral (BitVec.ofNat 32 i.firstWord) = i.literal.isSome := by
  obtain ⟨-, -, hsome, hnone⟩ := decodeFields_spells (Claims.firstWord_lt i) i (readsBack henc 0)
  rw [Bool.eq_iff_iff, hasLiteral_iff, toNat_firstWord]
  by_cases h : TakesLiteral i.firstWord
  · simp [h, Option.isSome_iff_exists.2 ⟨_, hsome h⟩]
  · simp [h, hnone h]

theorem wordOfBytes_natLe (w : BitVec 32) : ∃ a b c d, Machine.natLe w.toNat 4 = [a, b, c, d] ∧ wordOfBytes a b c d = w := by
  refine ⟨_, _, _, _, rfl, BitVec.eq_of_toNat_eq ?_⟩
  simp only [wordOfBytes, BitVec.toNat_ofNat]
  omega

/-- A word without a literal is decoded alone (03 R41). -/
theorem decodeBytes_word {w : BitVec 32} (rest : List (BitVec 8)) (h : hasLiteral w = false) :
    decodeBytes (Machine.natLe w.toNat 4 ++ rest) = (decode w 0).map (·, rest) := by
  obtain ⟨a, b, c, d, hbytes, hword⟩ := wordOfBytes_natLe w
  simp [hbytes, decodeBytes, hword, h]

/-- A word with a literal is decoded with the word behind it (03 R44). -/
theorem decodeBytes_literal {w : BitVec 32} (x : BitVec 32) (rest : List (BitVec 8)) (h : hasLiteral w = true) :
    decodeBytes (Machine.natLe w.toNat 4 ++ (Machine.natLe x.toNat 4 ++ rest)) = (decode w x).map (·, rest) := by
  obtain ⟨a, b, c, d, hbytes, hword⟩ := wordOfBytes_natLe w
  obtain ⟨a', b', c', d', hbytes', hword'⟩ := wordOfBytes_natLe x
  simp [hbytes, hbytes', decodeBytes, hword, hword', h]

theorem decodeBytes_codeBytes {i : Instr} (rest : List (BitVec 8)) (henc : i.encoded = true) (hwf : i.wf = true) :
    decodeBytes (Claims.codeBytes i ++ rest) = .ok (i, rest) := by
  have hlit := hasLiteral_firstWord henc
  have hdec := decode_firstWord 0 henc hwf
  simp only [Claims.codeBytes, encode, if_pos henc]
  cases h : i.literal with
  | none =>
    rw [h] at hlit hdec
    rw [Option.getD_none] at hdec
    simp only [Option.toList_none, List.flatMap_cons, List.flatMap_nil, List.append_nil]
    rw [decodeBytes_word rest hlit, hdec]
    rfl
  | some x =>
    rw [h] at hlit hdec
    rw [Option.getD_some] at hdec
    simp only [Option.toList_some, List.flatMap_cons, List.flatMap_nil, List.append_nil, List.append_assoc]
    rw [decodeBytes_literal x rest hlit, hdec]
    rfl

theorem encode_of_decode {w x : BitVec 32} {i : Instr} (h : decode w x = .ok i) :
    i.wf = true ∧ i.encoded = true ∧ encode i = if hasLiteral w then [w, x] else [w] := by
  obtain ⟨hfields, hwf⟩ := decode_eq_ok.1 h
  obtain ⟨henc, hword, hsome, hnone⟩ := decodeFields_spells w.isLt i hfields
  refine ⟨hwf, henc, ?_⟩
  rw [encode, if_pos henc, hword, BitVec.ofNat_toNat, BitVec.setWidth_eq]
  by_cases hl : TakesLiteral w.toNat
  · rw [if_pos ((hasLiteral_iff w).2 hl), hsome hl]
    rfl
  · rw [if_neg (mt (hasLiteral_iff w).1 hl), hnone hl]
    rfl

/-- Settles O57. The decoder reads the first word of every encoded instruction (`readsBack`), and the first word of what it gives is the
word that it has read (`decodeFields_spells`); the two say together which words take a literal. -/
theorem decodeEncodeAgree : Obligations.DecodeEncodeAgree := by
  unfold Obligations.DecodeEncodeAgree
  exact ⟨fun _ rest henc hwf => decodeBytes_codeBytes rest henc hwf, fun _ _ _ h => encode_of_decode h⟩

/-- Settles O56: each word is that of its instruction, and the two others have reserved majors. -/
theorem wordsDecode : Obligations.WordsDecode := by
  unfold Obligations.WordsDecode
  exact ⟨rfl, rfl, rfl, rfl, rfl, rfl, ⟨_, rfl⟩, ⟨_, rfl⟩⟩

end Sys2Proof
end

section
/-! # One step, from the choice to the instruction

A step makes one choice: the head of the agenda, or the machine's own (log 4). Where it is the turn of a thread set that nothing
keeps from its next instruction, the step is `State.instruction` with the core's pointer moved on, and `State.instruction` runs what
the fetched word, with its literal, decodes to (03 R64, R65; 07 R136, R137). -/

namespace Sys2Proof.Claims

open Sys2Proof.Machine

/-! ### The choice -/

/-- The step takes the choice and leaves the rest of the agenda. -/
theorem step_of_chooses {s : State} {c : Choice} {l : List Choice} (h : chooses s c l) : step s = (opens s l).act exec c := by
  rcases h with h | ⟨h, rfl, hauto⟩
  · unfold step State.advance opens
    rw [h]
  · cases s
    cases h
    rw [← hauto]
    rfl

/-- An event of the outside that may happen. -/
theorem act_input {s : State} {e : Instr} (h : s.canAct e = true) :
    s.act exec (.input e) = Machine.unheld (exec e { s with here := s.pend.length }) s := if_pos h

/-- The end of a cycle in which nothing is left to do. -/
theorem act_clock {s : State} (h : s.cycleOver = true) : s.act exec .clock = exec .coreClockCycle s := if_pos h

theorem sameBytes_opens (s : State) (l : List Choice) : sameBytes s (opens s l) := fun home pa => byteAt_congr rfl rfl home pa

/-! ### The turn of a thread set -/

/-- A thread set that neither a machine check, the end of WFI nor an interrupt keeps from its next instruction (20 R353, R356;
24 R417). -/
theorem slot_instruction {s : State} (hmc : (isSys s.cur && s.me.mcDue) = false) (hwfi : s.me.wait ≠ some .wfi)
    (hirq : s.irqReady s.cur = false) : s.slot exec = s.instruction exec := by
  have hw : (s.me.wait == some .wfi) = false := beq_false_of_ne hwfi
  unfold State.slot
  simp only [hmc, hw, hirq, Bool.false_eq_true, if_false]

/-- A turn in a cc in which the core has not issued: its pointer moves on (07 R137). -/
theorem settleTurn_unissued {s : State} {tk : Nat} (h : s.coreIssued (coreOf tk) = false) (o : Out) :
    s.settleTurn tk o = onNext o (fun t => .next (t.turn tk)) := by
  unfold State.settleTurn
  rw [h]
  cases o <;> rfl

/-- The step of a thread set that may fetch is its instruction. -/
theorem step_of_mayFetch {s : State} {tk : Nat} {l : List Choice} (h : mayFetch s tk l) :
    step s = turned s tk l ((taking s tk l).instruction exec) := by
  obtain ⟨hchooses, hfirst, hissued, hmay, hmc, hwfi, hirq⟩ := h
  have hslot : (taking s tk l).slot exec = (taking s tk l).instruction exec := slot_instruction hmc hwfi hirq
  have hissue : (opens s l).issue exec tk = turned s tk l ((taking s tk l).slot exec) := by
    change (if !(taking s tk l).mayIssue tk then _ else
      Machine.unheld ((taking s tk l).settleTurn tk ((taking s tk l).slot exec)) (later s tk l)) = _
    rw [hmay, settleTurn_unissued hissued]
    rfl
  calc step s = (opens s l).act exec (.issue tk) := step_of_chooses hchooses
    _ = (opens s l).issue exec tk := if_pos hfirst
    _ = turned s tk l ((taking s tk l).instruction exec) := by rw [hissue, hslot]

/-! ### The instruction -/

theorem start_free {s : State} {i : Instr} (h : free s i) : s.start exec i = exec i s := by
  unfold State.start
  rw [h.1, h.2]
  rfl

theorem start_stalled {s : State} {i : Instr} (h : s.stalls i = true) : s.start exec i = s.again := if_pos h

section
variable {s s1 : State} {w : BitVec 32}

/-- A fetch that gives no word is INSTRUCTION_FETCH. -/
theorem instruction_no_word (h : ∀ w s1, s.fetchAt s.cur s.me.pc ≠ (.ok w, s1)) : s.instruction exec = exec .instructionFetch s := by
  unfold State.instruction
  split
  · rename_i e
    exact absurd e (h _ _)
  · rfl

/-- A word that is no instruction is NOT_AN_INSTRUCTION (03 R64). -/
theorem instruction_refused {e : DecodeError} (hf : s.fetchAt s.cur s.me.pc = (.ok w, s1)) (hw : s1.fetchWatch s1.cur = false)
    (hd : decode w 0 = .error e) : s.instruction exec = exec (.notAnInstruction w) s1 := by
  unfold State.instruction
  simp only [hf, hw, hd, Bool.false_eq_true, if_false]
  rfl

/-- A word without a literal starts what it decodes to. -/
theorem instruction_of_word {i : Instr} (hf : s.fetchAt s.cur s.me.pc = (.ok w, s1)) (hw : s1.fetchWatch s1.cur = false)
    (hd : decode w 0 = .ok i) (hl : hasLiteral w = false) : s.instruction exec = s1.start exec i := by
  unfold State.instruction
  simp only [hf, hw, hd, hl, Bool.false_eq_true, if_false]

/-- A word with a literal starts what the two decode to. -/
theorem instruction_of_literal {s2 : State} {x : BitVec 32} {i j : Instr} (hf : s.fetchAt s.cur s.me.pc = (.ok w, s1))
    (hw : s1.fetchWatch s1.cur = false) (hd : decode w 0 = .ok j) (hl : hasLiteral w = true)
    (hf2 : s1.fetchAt s1.cur (s1.me.pc + 4) = (.ok x, s2)) (hd2 : decode w x = .ok i) : s.instruction exec = s2.start exec i := by
  unfold State.instruction
  simp only [hf, hw, hd, hl, hf2, hd2, Bool.false_eq_true, if_false, if_true]

end

/-! ### A stalled instruction -/

/-- The pointer of a core changes no thread set. -/
theorem turn_ts (s : State) (tk : Nat) : (s.turn tk).ts = s.ts := by
  unfold State.turn
  split <;> rfl

theorem turn_cur (s : State) (tk : Nat) : (s.turn tk).cur = s.cur := by
  unfold State.turn
  split <;> rfl

theorem turn_blocked (s : State) (tk : Nat) : (s.turn tk).blocked = s.blocked := by
  unfold State.turn
  split <;> rfl

theorem turn_me (s : State) (tk : Nat) : (s.turn tk).me = s.me := by
  unfold State.me State.t
  rw [turn_ts, turn_cur]

theorem sameBytes_turn (s : State) (tk : Nat) : sameBytes s (s.turn tk) := by
  intro home pa
  unfold State.turn
  split
  · exact byteAt_congr rfl rfl home pa
  · rfl

/-- The machine after an instruction that is tried again in the next cc. -/
def retried (s : State) : State := s.upMe (fun t => { t with readyAt := s.cyc + 1 })

theorem again_eq_retried (s : State) : s.again = .next (retried s) := rfl

theorem retried_me (s : State) : (retried s).me = { s.me with readyAt := s.cyc + 1 } := upT_at_same s s.cur _

/-- The turn of an instruction that is tried again in the next cc leaves its registers, its pc and every byte. -/
theorem turned_again {s s1 : State} (tk : Nat) (l : List Choice) (hb : s1.blocked = false) :
    ∃ t, turned s tk l s1.again = .next t ∧ t.me.a = s1.me.a ∧ t.me.pc = s1.me.pc ∧ sameBytes s1 t := by
  have hbt : ((retried s1).turn tk).blocked = false := (turn_blocked (retried s1) tk).trans hb
  refine ⟨(retried s1).turn tk, ?_, ?_, ?_, fun home pa => ?_⟩
  · rw [again_eq_retried]
    change (if ((retried s1).turn tk).blocked then _ else _) = _
    rw [hbt]
    rfl
  · rw [turn_me, retried_me]
  · rw [turn_me, retried_me]
  · exact (sameBytes_turn (retried s1) tk home pa).trans (sameBytes_upT s1 s1.cur _ home pa)

/-! ### A message -/

/-- A message of the machine has the meaning of its event. -/
theorem runEv_eq_exec (e : Ev) (s : State) : runEv e s = exec (evInstr e) s := by
  cases e <;> rfl

/-- The levels of a slice that give its lines. -/
abbrev levels (x : SliceSt) := (x.l2, x.msc, x.quar, x.lost)

/-- The value of a line depends on memory and on the levels of its home slice. -/
theorem lineVal_of_levels {s t : State} {home : Nat} (hm : t.mem = s.mem) (h : levels (t.slice home) = levels (s.slice home))
    (key : Nat) : t.lineVal home key = s.lineVal home key := by
  simp only [levels, Prod.mk.injEq] at h
  obtain ⟨hl2, hmsc, hquar, hlost⟩ := h
  have hline : t.mscLine home key = s.mscLine home key := by
    unfold State.mscLine State.mscOff
    rw [hmsc, hquar, hlost]
  unfold State.lineVal State.below
  rw [hm, hl2, hline]

/-- A change of a slice beside its levels changes no byte. -/
theorem sameBytes_upSlice (s : State) (k : Nat) {f : SliceSt → SliceSt} (hf : ∀ x, levels (f x) = levels x) :
    sameBytes s (s.upSlice k f) := by
  intro home pa
  unfold State.byteAt
  rw [lineVal_of_levels (s := s) (upSlice_mem s k f)]
  by_cases hk : home = k
  · subst hk
    rw [upSlice_at_same, hf]
  · rw [upSlice_at_ne s f hk]

theorem lineReq_of_arrives {s : State} {before : List Pend} {e : Ev} (h : s.arrives before e = true) : ∃ r, lineReq e = some r := by
  unfold State.arrives at h
  split at h
  · cases h
  · exact ⟨_, ‹_›⟩

section
variable {s : State} {k : Nat} {l : List Choice} {x : Pend}

/-- The step that delivers a message. -/
theorem step_of_deliver (h : chooses s (.deliver k) l) (hd : (opens s l).deliverable k = true) :
    step s = (opens s l).deliver k := (step_of_chooses h).trans (if_pos hd)

/-- A message that does not arrive at a held line runs as its event. -/
theorem deliver_event (hx : s.pend[k]? = some x) (ha : s.arrives (s.pend.take k) x.ev = false) :
    s.deliver k = Machine.unheld (exec (evInstr x.ev) { s.unqueue x.ev with pend := dropAt s.pend k, here := k })
      { s with pend := setAt s.pend k { x with due := s.cyc + 1 } } := by
  unfold State.deliver
  simp only [hx, ha, runEv_eq_exec, Bool.false_eq_true, if_false]

/-- An access that arrives at a held line waits behind those before it (24 R414, R421). -/
theorem deliver_arrives {r : Req} (hx : s.pend[k]? = some x) (ha : s.arrives (s.pend.take k) x.ev = true)
    (hr : lineReq x.ev = some r) : s.deliver k = .next (s.upSlice r.home (fun sl => { sl with queue := sl.queue ++ [x.ev] })) := by
  unfold State.deliver
  simp only [hx, ha, hr, if_true]

end

/-- Settles O55: a step is one choice, and each clause names the choice and follows it through `act`, `issue` and `instruction`
or through `deliver`. -/
theorem stepRunsDecoded : Obligations.StepRunsDecoded := by
  unfold Obligations.StepRunsDecoded
  refine ⟨?_, ?_, ?_, ?_, ?_, ?_, ?_, ?_⟩
  case refine_1 =>
    intro s s1 tk l w i hmay hf hw hd hl
    rw [step_of_mayFetch hmay, instruction_of_word hf hw hd hl]
    constructor
    · intro hfree
      rw [start_free hfree]
    · intro hstall hblocked
      rw [start_stalled hstall]
      exact turned_again tk l hblocked
  case refine_2 =>
    intro s s1 s2 tk l w x i j hmay hf hw hd hl hf2 hd2 hfree
    rw [step_of_mayFetch hmay, instruction_of_literal hf hw hd hl hf2 hd2, start_free hfree]
  case refine_3 =>
    intro s s1 tk l w e hmay hf hw hd
    rw [step_of_mayFetch hmay, instruction_refused hf hw hd]
  case refine_4 =>
    intro s s1 tk l hmay hne he
    rw [step_of_mayFetch hmay, instruction_no_word]
    intro w s2 hw
    have h2 : s2 = s1 := congrArg Prod.snd (hw.symm.trans he)
    exact hne w (h2 ▸ hw)
  case refine_5 =>
    intro s k l x hc hx hd ha
    exact (step_of_deliver hc hd).trans (deliver_event (s := opens s l) hx ha)
  case refine_6 =>
    intro s k l x hc hx hd ha
    obtain ⟨r, hr⟩ := lineReq_of_arrives ha
    refine ⟨_, (step_of_deliver hc hd).trans (deliver_arrives (s := opens s l) hx ha hr), rfl, rfl, fun home pa => ?_, r, hr, ?_⟩
    · refine (sameBytes_upSlice (opens s l) r.home ?_ home pa).trans (sameBytes_opens s l home pa)
      exact fun _ => rfl
    · rw [upSlice_at_same]
      rfl
  case refine_7 =>
    intro s e l hc ha
    exact (step_of_chooses hc).trans (act_input ha)
  case refine_8 =>
    intro s l hc ho
    exact (step_of_chooses hc).trans (act_clock ho)

end Sys2Proof.Claims
end

section
/-! # What a fill of a line leaves

A read at a home slice first fills sectors of its line into L2 and into the memory-side cache (10 R182; 24 R413). The filled copies
hold what the levels below them give, so that no line has another value after a fill than before it. -/

namespace Sys2Proof.Claims

open Sys2Proof.Machine

/-! ### Sectors -/

theorem getLsbD_sectMask (j i : Nat) (hi : i < 1536) : (sectMask j).getLsbD i = decide (i / 384 = j) := by
  unfold sectMask
  rw [BitVec.getLsbD_ofNat, Nat.testBit_mul_two_pow, Nat.testBit_two_pow_sub_one, Bool.eq_iff_iff]
  simp only [Bool.and_eq_true, decide_eq_true_eq]
  omega

/-- A bit of a mixed line comes from the line that the mask names for its sector. -/
theorem getLsbD_mixSect (m : BitVec 4) (x y : BitVec 1536) (i : Nat) (hi : i < 1536) :
    (mixSect m x y).getLsbD i = if m.getLsbD (i / 384) then x.getLsbD i else y.getLsbD i := by
  have hmask (j : Nat) : (if m.getLsbD j then sectMask j else 0).getLsbD i = (m.getLsbD j && decide (i / 384 = j)) := by
    cases m.getLsbD j
    · simp
    · simp [getLsbD_sectMask j i hi]
  have hj : i / 384 = 0 ∨ i / 384 = 1 ∨ i / 384 = 2 ∨ i / 384 = 3 := by omega
  have hpick : (m.getLsbD 0 && decide (i / 384 = 0) || m.getLsbD 1 && decide (i / 384 = 1) || m.getLsbD 2 && decide (i / 384 = 2) ||
      m.getLsbD 3 && decide (i / 384 = 3)) = m.getLsbD (i / 384) := by
    rcases hj with hj | hj | hj | hj <;> simp [hj]
  unfold mixSect
  simp only [BitVec.getLsbD_or, BitVec.getLsbD_and, BitVec.getLsbD_not, hmask, hi, decide_true, Bool.true_and, hpick]
  cases m.getLsbD (i / 384) <;> simp

theorem mixSect_none (x y : BitVec 1536) : mixSect 0 x y = y := by
  refine BitVec.eq_of_getLsbD_eq fun i hi => ?_
  rw [getLsbD_mixSect _ _ _ _ hi]
  simp

/-- A line with the sectors `k` that it lacks taken from `d`. -/
def joined (l : Line) (k : BitVec 4) (d : BitVec 1536) : Line :=
  { l with valid := l.valid ||| k, data := mixSect (k &&& ~~~l.valid) d l.data }

/-- Sectors that come from the level below change no value. -/
theorem mixSect_joined (l : Line) (k : BitVec 4) (d : BitVec 1536) :
    mixSect (joined l k d).valid (joined l k d).data d = mixSect l.valid l.data d := by
  refine BitVec.eq_of_getLsbD_eq fun i hi => ?_
  have h4 : i / 384 < 4 := by omega
  simp only [joined, getLsbD_mixSect _ _ _ _ hi, BitVec.getLsbD_or, BitVec.getLsbD_and, BitVec.getLsbD_not, h4, decide_true,
    Bool.true_and]
  cases l.valid.getLsbD (i / 384) <;> cases k.getLsbD (i / 384) <;> simp

/-- Sectors that come from the line's own value change no value. -/
theorem mixSect_joined_self (l : Line) (k : BitVec 4) (d : BitVec 1536) :
    mixSect (joined l k (mixSect l.valid l.data d)).valid (joined l k (mixSect l.valid l.data d)).data d = mixSect l.valid l.data d := by
  refine BitVec.eq_of_getLsbD_eq fun i hi => ?_
  have h4 : i / 384 < 4 := by omega
  simp only [joined, getLsbD_mixSect _ _ _ _ hi, BitVec.getLsbD_or, BitVec.getLsbD_and, BitVec.getLsbD_not, h4, decide_true,
    Bool.true_and]
  cases l.valid.getLsbD (i / 384) <;> cases k.getLsbD (i / 384) <;> simp

/-! ### Levels -/

theorem mget_of_mfind_none {α : Type} {m : AMap α} {k : Nat} {d : α} (h : mfind m k = none) : mget m k d = d := by
  induction m with
  | nil => rfl
  | cons x m ih =>
    unfold mfind at h
    unfold mget
    split
    · simp_all
    · split
      · rfl
      · exact ih (by simp_all)

/-- A line that a level may hold, over the level below it. -/
theorem mixSect_mget (m : AMap Line) (key : Nat) (d : BitVec 1536) :
    (match mfind m key with | none => d | some l => mixSect l.valid l.data d) =
      mixSect (mget m key Line.none).valid (mget m key Line.none).data d := by
  cases h : mfind m key with
  | none => exact (by rw [mget_of_mfind_none h, show Line.none.valid = 0 from rfl, mixSect_none])
  | some l => rw [mget_of_mfind h]

theorem lineVal_eq_mixSect (s : State) (home key : Nat) :
    s.lineVal home key = mixSect (mget (s.slice home).l2 key Line.none).valid (mget (s.slice home).l2 key Line.none).data
      (s.below home key).1 := by
  rw [← mixSect_mget]
  rfl

/-- A quarantined slot serves no line: what lies below L2 is memory (24 R422). -/
theorem below_of_mscOff {s : State} {home key : Nat} (h : s.mscOff home key = true) : (s.below home key).1 = memLine s.mem key := by
  unfold State.below State.mscLine
  rw [h]
  rfl

theorem below_eq_mixSect {s : State} {home key : Nat} (h : s.mscOff home key = false) :
    (s.below home key).1 = mixSect (mget (s.slice home).msc key Line.none).valid (mget (s.slice home).msc key Line.none).data
      (memLine s.mem key) := by
  rw [← mixSect_mget]
  unfold State.below State.mscLine
  rw [h]
  simp only [Bool.false_eq_true, if_false]
  cases mfind (s.slice home).msc key <;> rfl

/-! ### The fill -/

/-- The slice of a home after a fill of the sectors `k` of a line. -/
def filled (s : State) (home key : Nat) (k : BitVec 4) (sl : SliceSt) : SliceSt :=
  let l2 := mget (s.slice home).l2 key Line.none
  let d := s.below home key
  { sl with l2 := mset sl.l2 key { joined l2 k d.1 with tag := mergeTag l2.tag d.2 }
            msc := if s.mscOff home key then sl.msc
              else mset sl.msc key (joined (mget (s.slice home).msc key Line.none) (k &&& ~~~l2.valid) d.1) }

section
variable (s : State) (home key : Nat) (k : BitVec 4)

theorem fillLine_eq : s.fillLine home key k =
    if (mget (s.slice home).l2 key Line.none).valid &&& k = k then s else s.upSlice home (filled s home key k) := rfl

theorem fillLine_mem : (s.fillLine home key k).mem = s.mem := by
  rw [fillLine_eq]
  split <;> rfl

theorem fillLine_ts : (s.fillLine home key k).ts = s.ts := by
  rw [fillLine_eq]
  split <;> rfl

variable {s home key k}

theorem mscOff_filled (j : Nat) : (s.upSlice home (filled s home key k)).mscOff home j = s.mscOff home j := by
  unfold State.mscOff
  rw [upSlice_at_same]
  rfl

/-- What lies below L2 is the same after a fill. -/
theorem below_filled (j : Nat) : ((s.upSlice home (filled s home key k)).below home j).1 = (s.below home j).1 := by
  cases hoff : s.mscOff home j with
  | true => rw [below_of_mscOff hoff, below_of_mscOff ((mscOff_filled j).trans hoff), upSlice_mem]
  | false =>
    rw [below_eq_mixSect hoff, below_eq_mixSect ((mscOff_filled j).trans hoff), upSlice_mem, upSlice_at_same]
    by_cases hj : j = key
    · subst hj
      simp only [filled, hoff, Bool.false_eq_true, if_false, mget_mset_same]
      rw [below_eq_mixSect hoff]
      exact mixSect_joined_self _ _ _
    · simp only [filled]
      split
      · rfl
      · rw [mget_mset_ne _ _ _ hj]

/-- A line of the filled slice has the value that it had. -/
theorem lineVal_filled (j : Nat) : (s.upSlice home (filled s home key k)).lineVal home j = s.lineVal home j := by
  rw [lineVal_eq_mixSect, lineVal_eq_mixSect, below_filled, upSlice_at_same]
  by_cases hj : j = key
  · subst hj
    simp only [filled, mget_mset_same]
    exact mixSect_joined _ _ _
  · simp only [filled]
    rw [mget_mset_ne _ _ _ hj]

end

/-- A fill changes no line. -/
theorem lineVal_fillLine (s : State) (home key : Nat) (k : BitVec 4) (h j : Nat) :
    (s.fillLine home key k).lineVal h j = s.lineVal h j := by
  rw [fillLine_eq]
  split
  · rfl
  · by_cases hh : h = home
    · subst hh
      exact lineVal_filled j
    · refine lineVal_of_levels (upSlice_mem s home _) ?_ j
      rw [upSlice_at_ne s _ hh]

theorem sameBytes_fillLine (s : State) (home key : Nat) (k : BitVec 4) : sameBytes s (s.fillLine home key k) := by
  intro h pa
  unfold State.byteAt
  rw [lineVal_fillLine]

/-! ### The bytes of a line -/

/-- Bytes of one line part, as a number. -/
theorem memNat_line (s : State) (home key : Nat) (n : Nat) : ∀ pa, pa % 192 + n ≤ 192 → (∀ i, i < n → lineKey (pa + i) = key) →
    memNat s home pa n = (s.lineVal home key).toNat / 2 ^ (8 * (pa % 192)) % 256 ^ n := by
  induction n with
  | zero =>
    intro pa _ _
    rw [Nat.pow_zero, Nat.mod_one]
    rfl
  | succ n ih =>
    intro pa hpa hkey
    have hbyte : (s.byteAt home pa).toNat = (s.lineVal home key).toNat / 2 ^ (8 * (pa % 192)) % 256 := by
      unfold State.byteAt
      rw [BitVec.toNat_ofNat, show lineKey pa = key from hkey 0 (Nat.succ_pos n)]
    have hrest : memNat s home (pa + 1) n = (s.lineVal home key).toNat / 2 ^ (8 * (pa % 192)) / 256 % 256 ^ n := by
      cases n with
      | zero => rw [Nat.pow_zero, Nat.mod_one]; rfl
      | succ n =>
        have hnext : (pa + 1) % 192 = pa % 192 + 1 := by omega
        rw [ih (pa + 1) (by omega) (fun i hi => by rw [Nat.add_right_comm, Nat.add_assoc]; exact hkey (i + 1) (by omega)), hnext,
          Nat.div_div_eq_div_mul, show (256 : Nat) = 2 ^ 8 from rfl, ← Nat.pow_add, Nat.mul_add, Nat.mul_one]
    calc memNat s home pa (n + 1) = (s.byteAt home pa).toNat + 256 * memNat s home (pa + 1) n := rfl
      _ = (s.lineVal home key).toNat / 2 ^ (8 * (pa % 192)) % 256 ^ (n + 1) := by
        rw [hbyte, hrest, Nat.pow_succ', Nat.mod_mul]

end Sys2Proof.Claims
end

section
/-! # What a fetch leaves

A fetch translates its address, reads a word and fills the L1 (03 R65; 05 R100). It moves no pc, so that a fault of the fetch and a
watchpoint carry the pc of the thread set that fetches. Read at its home, the word is the four bytes at its address, and no byte
changes. -/

namespace Sys2Proof.Claims

open Sys2Proof.Machine

/-! ### No pc moves -/

/-- The machine `s` has the current thread set of `b` and every pc. -/
structure SamePcs (b s : State) : Prop where
  cur : s.cur = b.cur
  pcs : ∀ k, (s.t k).pc = (b.t k).pc

section
variable {b s t : State}

theorem SamePcs.refl : SamePcs s s := ⟨rfl, fun _ => rfl⟩

theorem SamePcs.trans (h : SamePcs b s) (h' : SamePcs s t) : SamePcs b t :=
  ⟨h'.cur.trans h.cur, fun k => (h'.pcs k).trans (h.pcs k)⟩

theorem SamePcs.me (h : SamePcs b s) : s.me.pc = b.me.pc := by
  unfold State.me
  rw [h.cur, h.pcs]

/-- A change beside the thread sets. -/
theorem SamePcs.same (h : SamePcs b s) (e : (t.cur, t.ts) = (s.cur, s.ts) := by rfl) : SamePcs b t := by
  obtain ⟨hcur, hts⟩ := Prod.ext_iff.1 e
  dsimp only at hcur hts
  refine ⟨hcur.trans h.cur, fun k => ?_⟩
  rw [State.t, hts]
  exact h.pcs k

/-- An access of the hardware. -/
theorem SamePcs.accessed (h : SamePcs b s) (ha : Accessed s t) : SamePcs b t := by
  refine h.trans ⟨congrArg (fun r => r.1.1) ha.rest, fun k => ?_⟩
  change (calm (t.t k)).pc = (calm (s.t k)).pc
  rw [ha.ts k]

/-- The machine that a function gives beside a result. -/
theorem SamePcs.snd {α : Type} {p : α × State} {a : α} (h : SamePcs b p.2) (e : p = (a, t)) : SamePcs b t := by
  rw [e] at h; exact h

/-- The machine that a function gives beside two results. -/
theorem SamePcs.snd2 {α β : Type} {p : α × β × State} {a : α} {c : β} (h : SamePcs b p.2.2) (e : p = (a, c, t)) : SamePcs b t := by
  rw [e] at h; exact h

theorem SamePcs.ite {c : Prop} [Decidable c] (hs : SamePcs b s) (ht : SamePcs b t) : SamePcs b (if c then s else t) := by
  split
  · exact hs
  · exact ht

/-- An event that a thread set counts. -/
theorem SamePcs.evt {tk code : Nat} (h : SamePcs b s) : SamePcs b (s.evt tk code) := by
  refine h.trans ⟨rfl, fun j => ?_⟩
  unfold State.evt
  by_cases hj : j = tk
  · subst hj
    rw [upT_at_same]
    rfl
  · rw [upT_at_ne _ _ hj]

/-! ### Translation -/

theorem SamePcs.upCl {cl : Nat} {f : ClusterSt → ClusterSt} (h : SamePcs b s) : SamePcs b (s.upCl cl f) := h.same
theorem SamePcs.upCore {c : Nat} {f : CoreSt → CoreSt} (h : SamePcs b s) : SamePcs b (s.upCore c f) := h.same

theorem SamePcs.notePtrs {cid cl : Nat} {va : Word} {big : Bool} (h : SamePcs b s) : SamePcs b (s.notePtrs cid cl va big) := by
  unfold State.notePtrs
  split
  · exact h.upCl
  · exact .ite h.upCl h.upCl.upCl

theorem SamePcs.walkCl {cl cid : Nat} {va : Word} {k : AccessKind} {priv : Nat} (h : SamePcs b s) :
    SamePcs b (s.walkCl cl cid va k priv).2.2 := by
  unfold State.walkCl
  extract_lets
  split
  · exact h
  · split
    · exact h.accessed Accessed.refl.walkAt
    · exact h.accessed Accessed.refl.walkAt
    · exact h.accessed Accessed.refl.walkBy

theorem SamePcs.walkFill {cl cid : Nat} {va : Word} {k : AccessKind} {priv : Nat} (h : SamePcs b s) :
    SamePcs b (s.walkFill cl cid va k priv).2.2 := by
  unfold State.walkFill
  split
  · rename_i e1
    dsimp only
    exact (h.walkCl.snd2 e1).notePtrs.upCl
  · exact h.walkCl

/-- Translation counts misses, walks and fills translation caches (20 R366, R367). -/
theorem SamePcs.xlat {tk : Nat} {va : Word} {k : AccessKind} {priv : Nat} (h : SamePcs b s) : SamePcs b (s.xlat tk va k priv).2 := by
  unfold State.xlat
  extract_lets _ _ _ _ _ s1
  have h1 : SamePcs b s1 := h.evt
  split
  · exact h
  · split
    · exact h
    · split
      · dsimp only
        exact h1.upCore
      · split
        · rename_i e1
          dsimp only
          exact (h1.evt.walkFill.snd2 e1).upCore
        · rename_i e1
          exact h1.evt.walkFill.snd2 e1

theorem SamePcs.site {tk : Nat} {ea : Word} {k : AccessKind} {priv : Nat} (h : SamePcs b s) : SamePcs b (s.site tk ea k priv).2 := by
  unfold State.site
  split
  · exact h
  · split
    · rename_i e1
      have h1 := h.xlat.snd e1
      split <;> exact h1
    · rename_i e1
      exact h.xlat.snd e1
    · rename_i e1
      exact h.xlat.snd e1
    · rename_i e1
      exact h.xlat.snd e1

/-! ### The L1 -/

/-- A refill of the L1 changes the cores alone. -/
theorem fillL1_cores (s : State) (core cid seq : Nat) (lanes : List (Nat × BitVec 64)) :
    ∃ c, s.fillL1 core cid seq lanes = { s with cores := c } := by
  have key (f : State → Nat → State) (hf : ∀ s k, ∃ c, f s k = { s with cores := c }) (ks : List Nat) :
      ∀ s : State, ∃ c, ks.foldl f s = { s with cores := c } := by
    induction ks with
    | nil => exact fun s => ⟨s.cores, rfl⟩
    | cons k ks ih =>
      intro s
      obtain ⟨c, hc⟩ := hf s k
      obtain ⟨c', hc'⟩ := ih (f s k)
      exact ⟨c', by rw [List.foldl_cons, hc', hc]⟩
  unfold State.fillL1
  exact key _ (fun s k => ⟨_, rfl⟩) _ s

/-- What the L1 takes of a fetch, or does not take, changes no part of `b` that the fetch speaks of. -/
structure L1Filled (b s : State) : Prop where
  cur : s.cur = b.cur
  ts : s.ts = b.ts
  mem : s.mem = b.mem
  slices : s.slices = b.slices

theorem SamePcs.l1Filled (h : SamePcs b s) (hf : L1Filled s t) : SamePcs b t := h.same (by rw [hf.cur, hf.ts])

/-- The bytes of a fetched word, from a replica or from the home, and the machine before its L1 takes them. -/
def wordRead (s : State) (tk pa home : Nat) (pte : Word) : List Byte × State :=
  if pte.getLsbD 8 && !pte.getLsbD 7 && dieOf tk != dieOfRouter home then
    (s.swNote home pa 4 false 0 (clusterOf tk)).repRead (dieOf tk) home pa 4
  else (s.swNote home pa 4 false 0 (clusterOf tk)).homeRead home pa 4

theorem fetchHome_wordRead (s : State) (tk pa home : Nat) (pte : Word) :
    (s.fetchHome tk pa home pte).1 = BitVec.ofNat 32 (leNat (wordRead s tk pa home pte).1) ∧
      L1Filled (wordRead s tk pa home pte).2 (s.fetchHome tk pa home pte).2 := by
  rcases h : wordRead s tk pa home pte with ⟨bs, s1⟩
  unfold wordRead at h
  unfold State.fetchHome
  simp only [h]
  split
  · exact ⟨rfl, rfl, rfl, rfl, rfl⟩
  · refine ⟨rfl, ?_⟩
    obtain ⟨c, hc⟩ := fillL1_cores { s1 with seq := s1.seq + 1 } (coreOf tk) (cidOf tk) (s1.seq + 1)
      (State.refill { s1 with seq := s1.seq + 1 } home pa 4)
    dsimp only
    rw [hc]
    exact ⟨rfl, rfl, rfl, rfl⟩

theorem SamePcs.fetchHome {tk pa home : Nat} {pte : Word} (h : SamePcs b s) : SamePcs b (s.fetchHome tk pa home pte).2 := by
  have h1 : SamePcs b (s.swNote home pa 4 false 0 (clusterOf tk)) := h.accessed Accessed.refl.swNote
  have h2 : SamePcs b (wordRead s tk pa home pte).2 := by
    unfold wordRead
    split
    · exact h1.same
    · exact h1.accessed Accessed.refl.homeRead
  exact h2.l1Filled (fetchHome_wordRead s tk pa home pte).2

/-- A fetch moves no pc. -/
theorem SamePcs.fetchAt {tk : Nat} {va : Word} (h : SamePcs b s) : SamePcs b (s.fetchAt tk va).2 := by
  unfold State.fetchAt
  split
  · rename_i e1
    exact h.site.snd e1
  · rename_i e1
    exact h.site.snd e1
  · rename_i e1
    exact h.site.snd e1
  · rename_i e1
    have h1 := h.site.snd e1
    split
    · exact h1
    · split
      · exact h1.accessed Accessed.refl.swNote
      · split
        · exact h1
        · split
          · exact h1
          · exact h1.fetchHome

end

theorem fetchAt_pc {s s1 : State} {tk : Nat} {va : Word} {r : Fetched} (h : s.fetchAt tk va = (r, s1)) : s1.me.pc = s.me.pc :=
  (SamePcs.refl.fetchAt.snd h).me

/-! ### A word at its home -/

/-- A word that the L1 does not hold is read at its page's home. -/
theorem fetchAt_of_miss {s s1 : State} {tk pa home : Nat} {va pte : Word} (hsys : isSys tk = false)
    (hsite : s.site tk va .fetch (s.t tk).priv = (.ok pa home pte, s1)) (hreg : s1.isReg pa = false)
    (hl1 : (s1.core (coreOf tk)).l1Word pa = none) (hheld : s1.heldLine home pa = false) :
    s.fetchAt tk va = (.ok (s1.fetchHome tk pa home pte).1, (s1.fetchHome tk pa home pte).2) := by
  unfold State.fetchAt
  simp only [hsite, hreg, hsys, hl1, hheld, Bool.false_eq_true, if_false]

/-- What a home reads of one line part, as a number. -/
theorem leNat_homeRead {s : State} {home pa n : Nat} (hpa : pa % 192 + n ≤ 192) (hkey : ∀ i, i < n → lineKey (pa + i) = lineKey pa) :
    leNat (s.homeRead home pa n).1 = memNat s home pa n := by
  unfold State.homeRead
  dsimp only
  rw [leNat_natLe, lineVal_fillLine, memNat_line s home (lineKey pa) n pa hpa hkey]

theorem memNat_lt (s : State) (home n : Nat) : ∀ pa, memNat s home pa n < 256 ^ n := by
  induction n with
  | zero => exact fun _ => Nat.one_pos
  | succ n ih =>
    intro pa
    have hb := (s.byteAt home pa).isLt
    have hr := ih (pa + 1)
    unfold memNat
    rw [Nat.pow_succ]
    omega

/-- The word that a home gives is the one at its address, and no byte changes. -/
theorem fetchHome_word {s : State} {tk pa home : Nat} {pte : Word} (hrm : pte.getLsbD 8 = false) (hpa : pa % 192 + 4 ≤ 192)
    (hkey : ∀ i, i < 4 → lineKey (pa + i) = lineKey pa) (hquiet : noSliceWatch s home) :
    (s.fetchHome tk pa home pte).1.toNat = memNat s home pa 4 ∧ sameBytes s (s.fetchHome tk pa home pte).2 ∧
      (s.fetchHome tk pa home pte).2.ts = s.ts := by
  have hread : wordRead s tk pa home pte = s.homeRead home pa 4 := by
    unfold wordRead
    rw [hrm, swNote_quiet s home pa 4 false 0 (clusterOf tk) hquiet]
    rfl
  obtain ⟨hword, hfilled⟩ := fetchHome_wordRead s tk pa home pte
  rw [hread] at hword hfilled
  refine ⟨?_, fun h a => ?_, hfilled.ts.trans (fillLine_ts s home _ _)⟩
  · rw [hword, leNat_homeRead hpa hkey, BitVec.toNat_ofNat]
    exact Nat.mod_eq_of_lt (memNat_lt s home 4 pa)
  · exact (byteAt_congr hfilled.mem hfilled.slices h a).trans (sameBytes_fillLine s home _ _ h a)

/-! ### INSTRUCTION_FETCH -/

section
variable {s s1 : State}

theorem exec_instructionFetch_of_word {w : BitVec 32} (h : s.fetchAt s.cur s.me.pc = (.ok w, s1)) :
    exec .instructionFetch s = if s1.fetchWatch s1.cur then .next (s1.trap 0x22 s1.me.pc) else .next s1 := by
  change execInstructionFetch s = _
  unfold execInstructionFetch
  rw [h]

theorem exec_instructionFetch_of_fault {c : Nat} (h : s.fetchAt s.cur s.me.pc = (.flt c, s1)) :
    exec .instructionFetch s = .next (s1.fetchTrap c s1.me.pc) := by
  change execInstructionFetch s = _
  unfold execInstructionFetch
  rw [h]

/-- A fault of a fetch traps, but at a handler's first instruction. -/
theorem fetchTrap_eq_trap (c : Nat) (va : Word) (h : s.me.entered = false ∨ isSys s.cur = true) :
    s.fetchTrap c va = s.trapAt s.cur c va s.me.pc := by
  refine if_neg ?_
  rcases h with h | h <;> simp [h]

/-- At a handler's first instruction it starts the context's termination (20 R352). -/
theorem fetchTrap_eq_startTerm (c : Nat) (va : Word) (he : s.me.entered = true) (hs : isSys s.cur = false) :
    s.fetchTrap c va = s.startTerm (s.partOf s.cur) (cidOf s.cur) (some (c, va)) :=
  if_pos (by rw [he, hs]; rfl)

/-- The dispatcher of a die that is free begins the termination. -/
theorem startTerm_die {d cid : Nat} (why : Option (Nat × Word)) (hbusy : (s.die d).tbusy = false) (hend : s.ending cid = false) :
    ((s.startTerm d cid why).die d).tbusy = true ∧ ((s.startTerm d cid why).die d).tcid = cid := by
  have hdie : (s.startTerm d cid why).die d = { s.die d with tcid := cid, tbusy := true, tfault := why } := by
    unfold State.startTerm
    rw [hend, hbusy]
    exact mget_mset_same s.dies d _ _
  rw [hdie]
  exact ⟨rfl, rfl⟩

end

/-- Settles O54: a fetch at the home gives the word of memory, and each outcome of a fetch is the matching branch of
INSTRUCTION_FETCH at the pc that the fetch has left alone. -/
theorem fetchAndDecodeFaults : Obligations.FetchAndDecodeFaults := by
  unfold Obligations.FetchAndDecodeFaults
  refine ⟨?_, ?_, ?_, fun w s => rfl⟩
  case refine_1 =>
    intro pa home pte s s1 hsys hsite hreg hl1 hheld hrm hpa hkey hquiet
    have hfetch := fetchAt_of_miss hsys hsite hreg hl1 hheld
    obtain ⟨hword, hbytes, hts⟩ := fetchHome_word (tk := s.cur) hrm hpa hkey hquiet
    refine ⟨_, _, hfetch, hword, hbytes, hts, fun hwatch => ?_⟩
    rw [exec_instructionFetch_of_word hfetch, hwatch]
    rfl
  case refine_2 =>
    intro w s s1 hfetch
    rw [exec_instructionFetch_of_word hfetch, ← fetchAt_pc hfetch]
    exact ⟨fun hwatch => by rw [hwatch]; rfl, fun hwatch => by rw [hwatch]; rfl⟩
  case refine_3 =>
    intro c s s1 hfetch
    rw [exec_instructionFetch_of_fault hfetch, ← fetchAt_pc hfetch]
    constructor
    · intro h
      rw [fetchTrap_eq_trap c _ h]
    · intro hentered hsys hbusy hend
      rw [fetchTrap_eq_startTerm c _ hentered hsys]
      exact ⟨_, rfl, startTerm_die _ hbusy hend⟩

end Sys2Proof.Claims
end

section
/-! # What the tensor array computes

A tile is written element by element, so an element read back is the one computed, and a rounded code fits its element. The products
of MMA are then the model's chunk loop, projected on the accumulator that it carries beside the flags. -/

namespace Sys2Proof.Claims

open Sys2Proof.Machine

/-! ### A rounded code fits its format (04 R79) -/

theorem Fmt.infCode_lt (f : Fmt) : (2 ^ f.eb - 1) * 2 ^ f.mb < 2 ^ (f.eb + f.mb) := by
  rw [Nat.pow_add]
  exact Nat.mul_lt_mul_of_pos_right (Nat.sub_lt (Nat.two_pow_pos _) Nat.one_pos) (Nat.two_pow_pos _)

theorem Fmt.maxMag_lt (f : Fmt) : f.maxMag < 2 ^ (f.eb + f.mb) := by
  have := Fmt.infCode_lt f
  unfold Fmt.maxMag
  split <;> omega

theorem Fmt.signed_lt {f : Fmt} (neg : Bool) {mag : Nat} (h : mag < 2 ^ (f.eb + f.mb)) : f.signed neg mag < 2 ^ f.w := by
  have hw : 2 ^ f.w = 2 ^ (f.eb + f.mb) + 2 ^ (f.eb + f.mb) := by
    rw [Fmt.w, Nat.add_assoc, Nat.add_comm, Nat.pow_succ, Nat.mul_two]
  unfold Fmt.signed
  split <;> omega

theorem Fmt.cnan_lt (f : Fmt) : f.cnan < 2 ^ f.w := by
  unfold Fmt.cnan
  split
  case isTrue h => rw [h]; decide
  case isFalse _ =>
    have hinf := Fmt.infCode_lt f
    have hquiet : 2 ^ (f.mb - 1) ≤ 2 ^ (f.eb + f.mb) := Nat.pow_le_pow_right Nat.two_pos (by omega)
    rw [Fmt.w, Nat.add_assoc, Nat.add_comm 1, Nat.pow_succ]
    omega

theorem Fmt.round_lt (f : Fmt) (mode r : Nat) (x : XR) : (f.round mode r x).1 < 2 ^ f.w := by
  have hmax (n : Bool) := Fmt.signed_lt n (Fmt.maxMag_lt f)
  have hinf (n : Bool) := Fmt.signed_lt n (Fmt.infCode_lt f)
  cases x with
  | nan =>
    rw [Fmt.round]
    split
    · exact hmax false
    · exact Fmt.cnan_lt f
  | inf n =>
    rw [Fmt.round]
    split
    · exact hmax n
    · exact hinf n
  | zero n => exact Fmt.signed_lt n (Nat.two_pow_pos _)
  | fin n a b e =>
    unfold Fmt.round
    extract_lets mode
    dsimp -zeta only
    extract_lets ex toInf ovf
    have hovf : ovf.1 < 2 ^ f.w := by
      unfold ovf
      split
      · exact hmax n
      · unfold toInf
        split
        · exact hinf n
        · exact hmax n
    split
    · exact hovf
    · split
      · exact hovf
      · next h => exact Fmt.signed_lt n (Nat.lt_of_le_of_lt (Nat.le_of_not_gt h) (Fmt.maxMag_lt f))

/-! ### Tiles -/

theorem span_eq_range' (lo n : Nat) : span lo n = List.range' lo n := by
  induction n generalizing lo with
  | zero => rfl
  | succ n ih => rw [span, ih, List.range'_succ]

theorem span_zero_eq_range (n : Nat) : span 0 n = List.range n := by
  rw [span_eq_range', List.range_eq_range']

theorem foldl_append_fst {α β : Type} (g : α → List β) (fl : α → Flags) (l : List α) (x : List β × Flags) :
    (l.foldl (fun (x : List β × Flags) a => (x.1 ++ g a, x.2 ||| fl a)) x).1 = x.1 ++ l.flatMap g := by
  induction l generalizing x with
  | nil => simp
  | cons a l ih => rw [List.foldl_cons, ih, List.flatMap_cons, List.append_assoc]

/-- Row `i` of a tile of `w`-bit elements. -/
def tileRow (w : Nat) (f : Nat → Nat → Nat × Flags) (i : Nat) : List Byte :=
  (List.range 32).flatMap (fun j => natLe (f i j).1 (w / 8))

theorem tileOf_fst (w : Nat) (f : Nat → Nat → Nat × Flags) : (tileOf w f).1 = (List.range 32).flatMap (tileRow w f) := by
  have key (l : List Nat) (x : List Byte × Flags) :
      (l.foldl (fun (x : List Byte × Flags) i => (List.range 32).foldl (fun (x : List Byte × Flags) j =>
        (x.1 ++ natLe (f i j).1 (w / 8), x.2 ||| (f i j).2)) x) x).1 = x.1 ++ l.flatMap (tileRow w f) := by
    induction l generalizing x with
    | nil => simp
    | cons i l ih => rw [List.foldl_cons, ih, foldl_append_fst, List.flatMap_cons, List.append_assoc]; rfl
  unfold tileOf
  rw [span_zero_eq_range]
  exact key _ _

theorem length_flatMap_const {α β : Type} (g : α → List β) {n : Nat} (hg : ∀ a, (g a).length = n) (l : List α) :
    (l.flatMap g).length = l.length * n := by
  simp [List.length_flatMap, hg]

/-- Block `i` of a list that is made of blocks of one length. -/
theorem drop_flatMap_range {β : Type} (g : Nat → List β) {n m i : Nat} (hg : ∀ a, (g a).length = n) (hi : i < m) :
    ∃ rest, ((List.range m).flatMap g).drop (i * n) = g i ++ rest := by
  obtain ⟨k, rfl⟩ : ∃ k, m = i + (1 + k) := ⟨m - i - 1, by omega⟩
  have hlen : ((List.range i).flatMap g).length = i * n := by rw [length_flatMap_const g hg, List.length_range]
  rw [List.range_add, List.flatMap_append, ← hlen, List.drop_left, Nat.add_comm 1, List.range_succ_eq_map]
  exact ⟨_, rfl⟩

theorem length_tileRow (w : Nat) (f : Nat → Nat → Nat × Flags) (i : Nat) : (tileRow w f i).length = 32 * (w / 8) := by
  rw [tileRow, length_flatMap_const _ (fun j => natLe_length _ _), List.length_range]

theorem length_tileOf (w : Nat) (f : Nat → Nat → Nat × Flags) : (tileOf w f).1.length = 32 * (32 * (w / 8)) := by
  rw [tileOf_fst, length_flatMap_const _ (length_tileRow w f), List.length_range]

/-- An element read from a tile is the one computed, cut to its width. -/
theorem tileElem_tileOf {w : Nat} (hw : 8 ∣ w) (f : Nat → Nat → Nat × Flags) {i j : Nat} (hi : i < 32) (hj : j < 32) :
    tileElem (w / 8) (tileOf w f).1 i j = (f i j).1 % 2 ^ w := by
  obtain ⟨n, rfl⟩ := hw
  have hn : 8 * n / 8 = n := Nat.mul_div_cancel_left n (by decide)
  obtain ⟨below, hrow⟩ := drop_flatMap_range (tileRow (8 * n) f) (length_tileRow _ f) hi
  obtain ⟨right, hel⟩ := drop_flatMap_range (fun j => natLe (f i j).1 (8 * n / 8)) (fun j => natLe_length _ _) hj
  have hoff : (i * 32 + j) * (8 * n / 8) = i * (32 * (8 * n / 8)) + j * (8 * n / 8) := by ring
  have hin : j * (8 * n / 8) ≤ (tileRow (8 * n) f i).length := by
    rw [length_tileRow]
    exact Nat.mul_le_mul_right _ hj.le
  unfold tileElem
  rw [tileOf_fst, hoff, ← List.drop_drop, hrow, List.drop_append_of_le_length hin, tileRow, hel, List.append_assoc,
    List.take_left' (natLe_length _ _), leNat_natLe, hn, show 256 = 2 ^ 8 from rfl, ← Nat.pow_mul]

/-! ### Operands and chunks (04 R84, R85; 12 R235, R236) -/

theorem imageOf_zero (o : TenOp) {x : Nat} (hx : x < 2 ^ 19) : imageOf o x 0 = x := by
  have h0 : imageOf o x 0 = (BitVec.ofNat 64 x).toNat := congrArg BitVec.toNat (BitVec.add_zero _)
  rw [h0, BitVec.toNat_ofNat]
  omega

theorem elem_eq_operand {o : TenOp} (h : o.fmt ≤ 5) (isB : Bool) (x i k : Nat) : o.elem isB x i k = operand o isB x i k := by
  have hk : 32 * (32 * o.n) * o.k = 1024 * o.n * o.k := by ring
  have hf : o.fmt = 0 ∨ o.fmt = 1 ∨ o.fmt = 2 ∨ o.fmt = 3 ∨ o.fmt = 4 ∨ o.fmt = 5 := by omega
  unfold TenOp.elem operand TenOp.elBits TenOp.kk bits
  rcases hf with hf | hf | hf | hf | hf | hf <;> simp [hf, hk]

theorem any_eq_any_fst (ps : List (XR × Flags)) {f : XR × Flags → Bool} {g : XR → Bool} (h : ∀ x fl, f (x, fl) = g x) :
    ps.any f = (ps.map Prod.fst).any g := by
  rw [List.any_map]
  exact congrArg ps.any (funext fun p => h p.1 p.2)

theorem xsum_fst (ps : List (XR × Flags)) : (xsum ps).1 = exactSum (ps.map Prod.fst) := by
  unfold xsum exactSum
  extract_lets inf clash fl
  have hinf (n : Bool) : inf n = (ps.map Prod.fst).any (fun x => x == .inf n) := by
    refine any_eq_any_fst ps fun x fl => ?_
    cases x with
    | inf m => cases m <;> cases n <;> rfl
    | nan | zero _ | fin _ _ _ _ => rfl
  have hclash : clash = ((ps.map Prod.fst).any (fun x => x == .inf true) && (ps.map Prod.fst).any (fun x => x == .inf false)) :=
    congrArg₂ and (hinf true) (hinf false)
  rw [hclash, any_eq_any_fst ps (g := fun x => x.isNan) (fun _ _ => rfl), Bool.or_comm, List.foldl_map]
  split <;> rfl

theorem chunk_eq_chunkLen {o : TenOp} (h : o.fmt ≤ 5) : o.chunk = chunkLen o := by
  have : (o.fmt == 6) = false := by simp; omega
  simp [TenOp.chunk, chunkLen, this]

theorem chunk_ne_zero (o : TenOp) : o.chunk ≠ 0 := by
  unfold TenOp.chunk
  split <;> decide

theorem chunks_eq (o : TenOp) : o.chunks = (List.range ((32 * o.n + o.chunk - 1) / o.chunk)).map
    (fun q => (q * o.chunk, min o.chunk (32 * o.n - q * o.chunk))) := by
  simp only [TenOp.chunks, ceilDiv, TenOp.kk, if_neg (chunk_ne_zero o), span_zero_eq_range]

theorem span_eq_map_range (lo n : Nat) : span lo n = (List.range n).map (fun k => lo + k) := by
  rw [span_eq_range', List.range'_eq_map_range]

/-- The chunk loop carries the accumulator of R84 beside its flags. -/
theorem loop_fst {o : TenOp} (h : o.fmt ≤ 5) (a b i j : Nat) (acc : Nat × Flags) :
    (o.loop a b i j acc).1 = chunkLoop o a b i j acc.1 := by
  unfold TenOp.loop chunkLoop
  rw [chunks_eq, List.foldl_map, chunk_eq_chunkLen h]
  refine (List.foldl_hom Prod.fst fun acc q => ?_).symm
  simp only [chunkStep, rnd, xsum_fst, span_eq_map_range, List.map_map, elem_eq_operand h, Function.comp_def]
  rfl

theorem chunkLoop_of_no_blocks {o : TenOp} (h : o.n = 0) (a b i j acc : Nat) : chunkLoop o a b i j acc = acc := by
  have hlen : (chunkLen o - 1) / chunkLen o = 0 := by
    unfold chunkLen
    split <;> decide
  rw [chunkLoop, h, Nat.mul_zero, Nat.zero_add, hlen]
  rfl

theorem cElem_eq (o : TenOp) (c i j : Nat) :
    o.cElem c i j = c / 2 ^ ((i * 32 + j) * o.outW) % 2 ^ o.outW * (if o.out16 then 65536 else 1) := by
  unfold TenOp.cElem bits
  split
  · rfl
  · rw [Nat.mul_one]

theorem scaled_fst (o : TenOp) (acc : Nat × Flags) :
    (o.scaled acc).1 = ((if o.out16 then BF16 else F32).round 0 0 (xmul (F32.dec o.scale.toNat) (F32.dec acc.1)).1).1 := by
  unfold TenOp.scaled rnd TenOp.outFmt
  rfl

theorem outW_eq (o : TenOp) : o.outW = o.outFmt.w := by
  unfold TenOp.outW TenOp.outFmt
  split <;> rfl

theorem outW_dvd (o : TenOp) : 8 ∣ o.outW := by
  unfold TenOp.outW
  split <;> decide

theorem outBytes_eq (o : TenOp) : 32 * (32 * (o.outW / 8)) = o.outBytes := by
  unfold TenOp.outW TenOp.outBytes
  split <;> rfl

theorem scaled_lt (o : TenOp) (acc : Nat × Flags) : (o.scaled acc).1 < 2 ^ o.outW := by
  rw [outW_eq]
  exact Fmt.round_lt ..

/-! ### MMA.S8 (04 R85) -/

theorem s32_eq_toInt (x : Nat) : s32 (x % 2 ^ 32) = (BitVec.ofNat 32 x).toInt := by
  rw [s32, BitVec.toInt_eq_toNat_cond, BitVec.toNat_ofNat]
  split <;> split <;> omega

theorem s8_eq_toInt (x : Nat) : s8 (x % 2 ^ 8) = (BitVec.ofNat 8 x).toInt := by
  rw [s8, BitVec.toInt_eq_toNat_cond, BitVec.toNat_ofNat]
  split <;> split <;> omega

theorem toInt_bounds (x : BitVec 32) : -(2 ^ 31) ≤ x.toInt ∧ x.toInt < 2 ^ 31 := ⟨BitVec.le_toInt x, BitVec.toInt_lt⟩

/-- A saturated sum is an S32, and so is what is left of one where there is no chunk. -/
theorem foldl_sat32_mem {α : Type} (g : Int → α → Int) (l : List α) {x : Int} (hx : -(2 ^ 31) ≤ x ∧ x < 2 ^ 31) :
    -(2 ^ 31) ≤ l.foldl (fun acc q => sat32 (g acc q)) x ∧ l.foldl (fun acc q => sat32 (g acc q)) x < 2 ^ 31 := by
  induction l generalizing x with
  | nil => exact hx
  | cons q l ih =>
    apply ih
    dsimp only [sat32]
    omega

theorem toInt_ofNat_emod {x : Int} (hx : -(2 ^ 31) ≤ x ∧ x < 2 ^ 31) : (BitVec.ofNat 32 (x % 2 ^ 32).toNat).toInt = x := by
  rw [BitVec.toInt_eq_toNat_cond, BitVec.toNat_ofNat]
  split <;> omega

theorem foldl_add_eq_sum (f : Nat → Int) (l : List Nat) (x : Int) : l.foldl (fun t k => t + f k) x = x + (l.map f).sum := by
  induction l generalizing x with
  | nil => simp
  | cons k l ih => rw [List.foldl_cons, ih, List.map_cons, List.sum_cons, Int.add_assoc]

theorem s8Chunk_eq (o : TenOp) (a b i j q : Nat) :
    (span (q * 64) (min 64 (32 * o.n - q * 64))).foldl (fun (t : Int) k =>
      t + s8 (bits a ((i * o.kk + k) * 8) 8) * s8 (bits b ((j * o.kk + k) * 8) 8)) 0 = s8Chunk o a b i j q := by
  have hoff (r k : Nat) : (r * (32 * o.n) + k) * 8 = 8 * (32 * o.n * r + k) := by ring
  rw [foldl_add_eq_sum, Int.zero_add, span_eq_map_range, List.map_map]
  simp only [s8Chunk, bits, s8_eq_toInt, TenOp.kk, Function.comp_def, hoff, Nat.mul_comm q 64]

theorem s8Elem_toInt {o : TenOp} (h : o.fmt = 6) (a b c i j : Nat) :
    (BitVec.ofNat 32 (o.s8Elem a b c i j)).toInt = (List.range ((32 * o.n + 63) / 64)).foldl
      (fun acc q => sat32 (acc + s8Chunk o a b i j q)) (BitVec.ofNat 32 (c / 2 ^ (32 * (32 * i + j)))).toInt := by
  have hchunk : o.chunk = 64 := by simp [TenOp.chunk, h]
  have hc : (i * 32 + j) * 32 = 32 * (32 * i + j) := by ring
  unfold TenOp.s8Elem
  simp only [chunks_eq, List.foldl_map, hchunk, s8Chunk_eq]
  simp only [bits, s32_eq_toInt, hc]
  exact toInt_ofNat_emod (foldl_sat32_mem _ _ (toInt_bounds _))

/-! ### The tiles that an instruction writes (12 R238, R241, R245) -/

theorem TenOp.pos_of_mem_planes {o : TenOp} {p : Nat} (h : p ∈ planesOf o.planes.toNat) : p ≠ 0 := by
  have := planesOf_le _ _ h
  omega

theorem TenOp.run_mzero {o : TenOp} (h : o.fmt = 7) (rd : Nat → Nat → Nat) :
    o.run rd = ((0 :: planesOf o.planes.toNat).map (fun p => (imageOf o o.dA p, zeros o.outBytes)), 0) := by
  unfold TenOp.run
  rw [if_pos h]
  rfl

/-- The transposed tile of plane `p`. -/
def transposed (o : TenOp) (rd : Nat → Nat → Nat) (p : Nat) : List Byte :=
  (tileOf o.outW (fun i j => (bits (rd (imageOf o o.aA p) o.outBytes) ((j * 32 + i) * o.outW) o.outW, 0))).1

theorem TenOp.run_mtrn {o : TenOp} (h : o.fmt = 8) (rd : Nat → Nat → Nat) :
    o.run rd = ((0 :: planesOf o.planes.toNat).map (fun p => (imageOf o o.dA p, transposed o rd p)), 0) := by
  unfold TenOp.run
  rw [if_neg (by omega), if_pos h]
  rfl

/-- The bytes of plane `p` of A or B, which is not read where there are no K blocks. -/
def source (o : TenOp) (rd : Nat → Nat → Nat) (x p : Nat) : Nat := if o.n = 0 then 0 else rd (imageOf o x p) o.inBytes

/-- The tile of plane `p` that MMA.S8 writes. -/
def s8Tile (o : TenOp) (rd : Nat → Nat → Nat) (p : Nat) : List Byte :=
  if p = 0 then (tileOf 32 (fun i j =>
    (o.s8Elem (source o rd o.aA 0) (source o rd o.bA 0) (rd (imageOf o o.dA 0) o.outBytes) i j, 0))).1
  else zeros o.outBytes

theorem TenOp.run_s8 {o : TenOp} (h : o.fmt = 6) (hd : o.dA < 2 ^ 19) (rd : Nat → Nat → Nat) :
    o.run rd = ((0 :: planesOf o.planes.toNat).map (fun p => (imageOf o o.dA p, s8Tile o rd p)), 0) := by
  have hplanes : (planesOf o.planes.toNat).map (fun p => (imageOf o o.dA p, s8Tile o rd p)) =
      (planesOf o.planes.toNat).map (fun p => (imageOf o o.dA p, zeros o.outBytes)) :=
    List.map_congr_left fun p hp => by rw [s8Tile, if_neg (TenOp.pos_of_mem_planes hp)]
  rw [List.map_cons, hplanes, imageOf_zero o hd]
  unfold TenOp.run
  rw [if_neg (by omega), if_neg (by omega), if_pos h]
  rfl

/-- Element (i, j) of plane `p` before it is scaled: a plane goes on from dC over dA·B and then A·dB (04 R84). -/
def planeAcc (o : TenOp) (rd : Nat → Nat → Nat) (p i j : Nat) : Nat × Flags :=
  let c := o.cElem (rd (imageOf o o.dA p) o.outBytes) i j
  let b := source o rd o.bA
  o.loop (source o rd o.aA 0) (b p) i j (if p = 0 then (c, 0) else o.loop (source o rd o.aA p) (b 0) i j (c, 0))

/-- The tile of plane `p` that every other MMA writes. -/
def mmaTile (o : TenOp) (rd : Nat → Nat → Nat) (p : Nat) : List Byte :=
  (tileOf o.outW (fun i j => o.scaled (planeAcc o rd p i j))).1

theorem TenOp.run_mma {o : TenOp} (h : o.fmt ≤ 5) (hd : o.dA < 2 ^ 19) (rd : Nat → Nat → Nat) :
    (o.run rd).1 = (0 :: planesOf o.planes.toNat).map (fun p => (imageOf o o.dA p, mmaTile o rd p)) := by
  have hplanes : (planesOf o.planes.toNat).map (fun p => (imageOf o o.dA p, mmaTile o rd p)) =
      (planesOf o.planes.toNat).map (fun p => (imageOf o o.dA p, (tileOf o.outW (fun i j => o.scaled
        (o.loop (source o rd o.aA 0) (source o rd o.bA p) i j (o.loop (source o rd o.aA p) (source o rd o.bA 0) i j
          (o.cElem (rd (imageOf o o.dA p) o.outBytes) i j, 0))))).1)) :=
    List.map_congr_left fun p hp => by simp only [mmaTile, planeAcc, if_neg (TenOp.pos_of_mem_planes hp)]
  rw [List.map_cons, hplanes, imageOf_zero o hd, ← List.flatMap_pure_eq_map]
  unfold TenOp.run
  rw [if_neg (by omega), if_neg (by omega), if_neg (by omega)]
  exact foldl_append_fst _ _ _ _

theorem chunkLoop_source (o : TenOp) (rd : Nat → Nat → Nat) (x p y q i j acc : Nat) :
    chunkLoop o (source o rd x p) (source o rd y q) i j acc =
      chunkLoop o (rd (imageOf o x p) o.inBytes) (rd (imageOf o y q) o.inBytes) i j acc := by
  by_cases hn : o.n = 0
  · rw [chunkLoop_of_no_blocks hn, chunkLoop_of_no_blocks hn]
  · rw [source, source, if_neg hn, if_neg hn]

theorem mmaTile_elem (o : TenOp) (rd : Nat → Nat → Nat) (p : Nat) {i j : Nat} (hi : i < 32) (hj : j < 32) :
    tileElem (o.outW / 8) (mmaTile o rd p) i j = (o.scaled (planeAcc o rd p i j)).1 := by
  rw [mmaTile, tileElem_tileOf (outW_dvd o) _ hi hj, Nat.mod_eq_of_lt (scaled_lt o _)]

theorem transposed_elem (o : TenOp) (rd : Nat → Nat → Nat) (p : Nat) {i j : Nat} (hi : i < 32) (hj : j < 32) :
    tileElem (o.outW / 8) (transposed o rd p) i j =
      rd (imageOf o o.aA p) o.outBytes / 2 ^ ((j * 32 + i) * o.outW) % 2 ^ o.outW :=
  (tileElem_tileOf (outW_dvd o) _ hi hj).trans (Nat.mod_mod _ _)

/-- An element of MMA.S8, from A, B and C as bytes in memory. -/
theorem s8Tile_elem {o : TenOp} (h : o.fmt = 6) (h32 : o.out16 = false) (ha : o.aA < 2 ^ 19) (hb : o.bA < 2 ^ 19) (hd : o.dA < 2 ^ 19)
    (rd : Nat → Nat → Nat) {i j : Nat} (hi : i < 32) (hj : j < 32) :
    (BitVec.ofNat 32 (tileElem 4 (s8Tile o rd 0) i j)).toInt =
      (List.range ((32 * o.n + 63) / 64)).foldl
        (fun acc q => sat32 (acc + s8Chunk o (rd o.aA o.inBytes) (rd o.bA o.inBytes) i j q))
        (BitVec.ofNat 32 (rd o.dA 4096 / 2 ^ (32 * (32 * i + j)))).toInt := by
  have hout : o.outBytes = 4096 := by rw [TenOp.outBytes, h32]; rfl
  have hel : tileElem 4 (s8Tile o rd 0) i j = _ := tileElem_tileOf (w := 32) (by decide) _ hi hj
  have hmod (x : Nat) : BitVec.ofNat 32 (x % 2 ^ 32) = BitVec.ofNat 32 x := BitVec.eq_of_toNat_eq (by simp)
  rw [hel, hmod, s8Elem_toInt h, imageOf_zero o hd, hout]
  by_cases hn : o.n = 0
  · simp [hn]
  · rw [source, source, if_neg hn, if_neg hn, imageOf_zero o ha, imageOf_zero o hb]

/-- Settles O36: `run` lists one tile for each plane, and each tile is read back element by element. -/
theorem tensorResults : Obligations.TensorResults := by
  unfold Obligations.TensorResults
  refine ⟨fun o rd h r hr => ?mzero, fun o rd h _ _ => ?mtrn, fun o rd h h32 ha hb hd => ?s8, fun o rd h _ _ hd => ?mma⟩
  case mzero =>
    rw [TenOp.run_mzero h, List.mem_map] at hr
    obtain ⟨p, -, rfl⟩ := hr
    exact ⟨List.length_replicate, fun x hx => List.eq_of_mem_replicate hx⟩
  case mtrn =>
    refine ⟨transposed o rd, congrArg Prod.fst (TenOp.run_mtrn h rd), congrArg Prod.snd (TenOp.run_mtrn h rd), fun p _ => ⟨?_, ?_⟩⟩
    · exact (length_tileOf _ _).trans (outBytes_eq o)
    · exact fun i j hi hj => transposed_elem o rd p hi hj
  case s8 =>
    refine ⟨s8Tile o rd, congrArg Prod.fst (TenOp.run_s8 h hd rd), congrArg Prod.snd (TenOp.run_s8 h hd rd), fun p hp x hx => ?_, ?_⟩
    · rw [s8Tile, if_neg (TenOp.pos_of_mem_planes hp)] at hx
      exact List.eq_of_mem_replicate hx
    · exact fun i j hi hj => s8Tile_elem h h32 ha hb hd rd hi hj
  case mma =>
    refine ⟨mmaTile o rd, TenOp.run_mma h hd rd, fun i j hi hj => ⟨?_, fun p hp => ?_⟩⟩
    · rw [mmaTile_elem o rd 0 hi hj, scaled_fst, planeAcc, if_pos rfl, loop_fst h, chunkLoop_source, cElem_eq]
    · rw [mmaTile_elem o rd p hi hj, scaled_fst, planeAcc, if_neg (TenOp.pos_of_mem_planes hp), loop_fst h, loop_fst h,
        chunkLoop_source, chunkLoop_source, cElem_eq]

end Sys2Proof.Claims
end

section
/-! # Vector instructions with a v destination

Each of them is one completion (`vecDone`) whose change of the registers writes v[d] alone, which gives the frame of them all. A
conversion to narrower lanes folds over its active lanes; the seed that it carries along is that of the lanes below. -/

namespace Sys2Proof.Claims

open Sys2Proof.Machine

/-! ### Lanes -/

theorem lane_setLane_same (x : VWord) {w i : Nat} (v : Nat) (h : w * i + w ≤ 512) : lane (setLane x w i v) w i = v % 2 ^ w :=
  wbits_putBits_same x (w * i) w v h

theorem lane_setLane_ne (x : VWord) (w v : Nat) {i k : Nat} (h : k ≠ i) : lane (setLane x w i v) w k = lane x w k := by
  refine wbits_putBits_apart x (w * i) w v (w * k) w ?_
  rcases Nat.lt_or_gt_of_ne h with h | h
  · exact .inl (Nat.mul_le_mul_left w h)
  · exact .inr (Nat.mul_le_mul_left w h)

/-- Lanes `lo + i` written with `c i`, for the `i` of a list. -/
def setLanes (w lo : Nat) (c : Nat → Nat) (l : List Nat) (x : VWord) : VWord := l.foldl (fun x i => setLane x w (lo + i) (c i)) x

theorem setLanes_append (w lo : Nat) (c : Nat → Nat) (l l' : List Nat) (x : VWord) :
    setLanes w lo c (l ++ l') x = setLanes w lo c l' (setLanes w lo c l x) := List.foldl_append

/-- The active ones of `n` lanes. -/
abbrev activeBelow (on : Nat → Bool) (n : Nat) : List Nat := (List.range n).filter on

theorem activeBelow_succ (on : Nat → Bool) (n : Nat) :
    activeBelow on (n + 1) = activeBelow on n ++ if on n = true then [n] else [] := by
  rw [activeBelow, List.range_succ, List.filter_append, List.filter_singleton]
  cases on n <;> rfl

theorem active_eq (m : Word) (n : Nat) : active m n = activeBelow m.getLsbD n := by
  rw [active, span_zero_eq_range]

theorem lane_setLanes (w lo n : Nat) (on : Nat → Bool) (c : Nat → Nat) (x : VWord) {k : Nat} (hk : w * k + w ≤ 512) :
    lane (setLanes w lo c (activeBelow on n) x) w k =
      if lo ≤ k ∧ k < lo + n ∧ on (k - lo) = true then c (k - lo) % 2 ^ w else lane x w k := by
  induction n with
  | zero => rw [if_neg (by omega)]; rfl
  | succ n ih =>
    rw [activeBelow_succ, setLanes_append]
    by_cases hlast : k = lo + n
    · subst hlast
      rw [Nat.add_sub_cancel_left] at ih ⊢
      by_cases hon : on n = true
      · rw [if_pos hon, if_pos ⟨by omega, by omega, hon⟩]
        exact lane_setLane_same _ _ hk
      · rw [if_neg hon, if_neg (by tauto)]
        exact ih.trans (if_neg (by omega))
    · have hin : (lo ≤ k ∧ k < lo + (n + 1) ∧ on (k - lo) = true) ↔ (lo ≤ k ∧ k < lo + n ∧ on (k - lo) = true) := by
        constructor <;> exact fun ⟨h1, h2, h3⟩ => ⟨h1, by omega, h3⟩
      simp only [hin, ← ih]
      split
      · exact lane_setLane_ne _ w _ hlast
      · rfl

/-! ### Writes of one v register -/

/-- `b` is `a` but for the planes `P` of v[d], FMODE and SRSEED. -/
structure OnlyV (d : Reg) (P : Nat → Prop) (a b : Arch) : Prop where
  banks : a.Banks b
  g : ∀ p r, b.gp p r = a.gp p r
  v : ∀ r p, p ≤ 2 → ¬ (r = d ∧ P p) → b.vp p r = a.vp p r
  m : ∀ r, b.mp r = a.mp r

section

variable {d : Reg} {P : Nat → Prop} {a b c : Arch}

theorem OnlyV.refl (d : Reg) (P : Nat → Prop) (a : Arch) : OnlyV d P a a := ⟨Banks.refl a, fun _ _ => rfl, fun _ _ _ _ => rfl, fun _ => rfl⟩

theorem OnlyV.trans (h : OnlyV d P a b) (k : OnlyV d P b c) : OnlyV d P a c :=
  ⟨Banks.trans h.banks k.banks, fun p r => (k.g p r).trans (h.g p r), fun r p hp hr => (k.v r p hp hr).trans (h.v r p hp hr),
    fun r => (k.m r).trans (h.m r)⟩

theorem OnlyV.mono {Q : Nat → Prop} (h : OnlyV d P a b) (hPQ : ∀ p, P p → Q p) : OnlyV d Q a b :=
  ⟨h.banks, h.g, fun r p hp hr => h.v r p hp fun ⟨hd, hP⟩ => hr ⟨hd, hPQ p hP⟩, h.m⟩

theorem OnlyV.foldl {α : Type} {f : Arch → α → Arch} {l : List α} (h : ∀ x ∈ l, ∀ a, OnlyV d P a (f a x)) (a : Arch) :
    OnlyV d P a (l.foldl f a) := by
  induction l generalizing a with
  | nil => exact OnlyV.refl d P a
  | cons x l ih => exact (h x List.mem_cons_self a).trans (ih (fun y hy => h y (List.mem_cons_of_mem x hy)) _)

/-- Flags and the seed are free. -/
theorem OnlyV.withFlags (h : OnlyV d P a b) (fm sd : Word) : OnlyV d P a { b with fmode := fm, srseed := sd } :=
  h.trans ⟨⟨_, _, _, _, _, _, _, _, _, rfl⟩, fun _ _ => rfl, fun _ _ _ _ => rfl, fun _ => rfl⟩

theorem OnlyV.setV (a : Arch) (d : Reg) {p : Nat} (hp : p ≤ 2) (w : VWord) : OnlyV d (· = p) a (a.setV p d w) where
  banks := Banks.setV a p d w
  g q r := gp_setV a p q d r w
  v r q hq hr := by rw [vp_setV a hp hq, if_neg hr]
  m r := by
    obtain ⟨v, v1, v2, h⟩ := setV_frame a p d w
    rw [h]
    rfl

theorem OnlyV.keeps (h : OnlyV d P a b) : a.Keeps b NoReg (fun r p => r = d ∧ P p) NoMask :=
  Banks.keeps h.banks (fun r p _ _ => h.g p r) h.v (fun r _ => h.m r)

end

theorem setV_srseed (a : Arch) (p : Nat) (d : Reg) (w : VWord) : (a.setV p d w).srseed = a.srseed := by
  obtain ⟨v, v1, v2, h⟩ := setV_frame a p d w
  rw [h]

theorem setV_vp_same (a : Arch) {p : Nat} (hp : p ≤ 2) (d : Reg) (w : VWord) : (a.setV p d w).vp p d = w := by
  rw [vp_setV a hp hp, if_pos ⟨rfl, rfl⟩]

/-! ### A conversion of the active lanes of one plane -/

/-- `f` writes lane `lo + i` of plane `p` of v[d] with the code that `conv` gives for the draw of the seed so far; there is no draw
where `dr` is false. -/
structure ConvertsLane (d : Reg) (p w lo : Nat) (dr : Bool) (conv : Nat → Nat → Nat) (f : Arch → Nat → Arch) : Prop where
  only : ∀ a i, OnlyV d (· = p) a (f a i)
  code : ∀ a i, (f a i).vp p d = setLane (a.vp p d) w (lo + i) (conv (if dr = true then (srDraw a.srseed).1 else 0) i)
  seed : ∀ a i, (f a i).srseed = if dr = true then (srDraw a.srseed).2 else a.srseed

/-- The seed after a draw for each active lane below `i`. -/
def seedBelow (sd : Word) (on : Nat → Bool) (i : Nat) : Word := (activeBelow on i).foldl (fun w _ => (srDraw w).2) sd

theorem seedBelow_succ (sd : Word) (on : Nat → Bool) (i : Nat) :
    seedBelow sd on (i + 1) = if on i = true then (srDraw (seedBelow sd on i)).2 else seedBelow sd on i := by
  rw [seedBelow, activeBelow_succ, List.foldl_append]
  split <;> rfl

section

variable {d : Reg} {p w lo : Nat} {dr : Bool} {conv : Nat → Nat → Nat} {f : Arch → Nat → Arch}

theorem ConvertsLane.foldl (h : ConvertsLane d p w lo dr conv f) (a : Arch) (on : Nat → Bool) (n : Nat) :
    ((activeBelow on n).foldl f a).srseed = (if dr = true then seedBelow a.srseed on n else a.srseed) ∧
    ((activeBelow on n).foldl f a).vp p d =
      setLanes w lo (fun i => conv (if dr = true then (srDraw (seedBelow a.srseed on i)).1 else 0) i) (activeBelow on n) (a.vp p d) := by
  induction n with
  | zero => exact ⟨by cases dr <;> rfl, rfl⟩
  | succ n ih =>
    obtain ⟨hseed, hcode⟩ := ih
    rw [activeBelow_succ, List.foldl_append, setLanes_append, ← hcode, seedBelow_succ]
    split
    · rw [List.foldl_cons, List.foldl_nil, h.seed, h.code, hseed]
      exact ⟨by cases dr <;> rfl, by cases dr <;> rfl⟩
    · exact ⟨hseed, rfl⟩

/-- The lanes of a plane that is converted with no draw. -/
theorem ConvertsLane.foldl_plain (h : ConvertsLane d p w lo false conv f) (l : List Nat) (a : Arch) :
    OnlyV d (· = p) a (l.foldl f a) ∧ (l.foldl f a).vp p d = setLanes w lo (conv 0) l (a.vp p d) ∧ (l.foldl f a).srseed = a.srseed := by
  refine ⟨OnlyV.foldl (fun i _ a => h.only a i) a, ?_⟩
  induction l generalizing a with
  | nil => exact ⟨rfl, rfl⟩
  | cons i l ih =>
    obtain ⟨hcode, hseed⟩ := ih (f a i)
    exact ⟨hcode.trans (congrArg (setLanes w lo (conv 0) l) (h.code a i)), hseed.trans (h.seed a i)⟩

end

/-! ### A narrowing conversion, plane by plane (06 R123, R124, R126) -/

/-- `g` writes the lanes `l` of one plane of v[d] with the codes `tan` and leaves the seed. -/
structure ConvertsPlane (d : Reg) (w lo : Nat) (l : List Nat) (tan : Nat → Nat → Nat) (g : Arch → Nat → Arch) : Prop where
  only : ∀ a p, p ≤ 2 → OnlyV d (· = p) a (g a p)
  code : ∀ a p, p ≤ 2 → (g a p).vp p d = setLanes w lo (tan p) l (a.vp p d)
  seed : ∀ a p, p ≤ 2 → (g a p).srseed = a.srseed

theorem planesOf_nodup (f : Nat) : (planesOf f).Nodup := by
  unfold planesOf
  split <;> split <;> decide

theorem dual_nodup (t : TSet) : t.dual.Nodup := by
  unfold TSet.dual
  split
  · exact List.nodup_nil
  · split
    · exact planesOf_nodup _
    · split
      · exact planesOf_nodup _
      · exact List.nodup_nil

section

variable {d : Reg} {w lo : Nat} {l : List Nat} {tan : Nat → Nat → Nat} {g : Arch → Nat → Arch}

theorem ConvertsPlane.foldl_only (h : ConvertsPlane d w lo l tan g) {ps : List Nat} (hle : ∀ p ∈ ps, p ≤ 2) (a : Arch) :
    OnlyV d (· ∈ ps) a (ps.foldl g a) :=
  OnlyV.foldl (fun p hp a => (h.only a p (hle p hp)).mono fun _ hq => hq ▸ hp) a

theorem ConvertsPlane.foldl_seed (h : ConvertsPlane d w lo l tan g) {ps : List Nat} (hle : ∀ p ∈ ps, p ≤ 2) (a : Arch) :
    (ps.foldl g a).srseed = a.srseed := by
  induction ps generalizing a with
  | nil => rfl
  | cons p ps ih => exact (ih (fun q hq => hle q (List.mem_cons_of_mem p hq)) _).trans (h.seed a p (hle p List.mem_cons_self))

theorem ConvertsPlane.foldl_code (h : ConvertsPlane d w lo l tan g) {ps : List Nat} (hle : ∀ p ∈ ps, p ≤ 2) (hnd : ps.Nodup) (a : Arch)
    {p : Nat} (hp : p ∈ ps) : (ps.foldl g a).vp p d = setLanes w lo (tan p) l (a.vp p d) := by
  induction ps generalizing a with
  | nil => cases hp
  | cons q ps ih =>
    obtain ⟨hq, hnd⟩ := List.nodup_cons.mp hnd
    have hle' (r : Nat) (hr : r ∈ ps) : r ≤ 2 := hle r (List.mem_cons_of_mem q hr)
    have hq2 : q ≤ 2 := hle q List.mem_cons_self
    rw [List.foldl_cons]
    by_cases hpq : p = q
    · subst hpq
      rw [(h.foldl_only hle' (g a p)).v d p hq2 fun hin => hq hin.2, h.code a p hq2]
    · have hin : p ∈ ps := (List.mem_cons.mp hp).resolve_left hpq
      rw [ih hle' hnd (g a q) hin, (h.only a q hq2).v d p (hle' p hin) fun hin => hpq hin.2]

end

/-! ### The steps of the conversions -/

theorem putLanes_only (a : Arch) {p : Nat} (hp : p ≤ 2) (d : Reg) (w : Nat) (on : List Nat) (f : Nat → Nat × Flags) :
    OnlyV d (· = p) a (a.putLanes p d w on f) :=
  (OnlyV.setV a d hp _).withFlags _ (a.setV p d _).srseed

theorem foldl_pair_fst (w : Nat) (f : Nat → Nat × Flags) (l : List Nat) (x : VWord × Flags) :
    (l.foldl (fun (x : VWord × Flags) i => (setLane x.1 w i (f i).1, x.2 ||| (f i).2)) x).1 = setLanes w 0 (fun i => (f i).1) l x.1 := by
  induction l generalizing x with
  | nil => rfl
  | cons i l ih => rw [List.foldl_cons, ih, setLanes, setLanes, List.foldl_cons, Nat.zero_add]

theorem putLanes_code (a : Arch) {p : Nat} (hp : p ≤ 2) (d : Reg) (w : Nat) (on : List Nat) (f : Nat → Nat × Flags) :
    (a.putLanes p d w on f).vp p d = setLanes w 0 (fun i => (f i).1) on (a.vp p d) :=
  (setV_vp_same a hp d _).trans (foldl_pair_fst w f on _)

theorem putLanes_seed (a : Arch) (p : Nat) (d : Reg) (w : Nat) (on : List Nat) (f : Nat → Nat × Flags) :
    (a.putLanes p d w on f).srseed = a.srseed := setV_srseed a p d _

theorem vecPut_only (a : Arch) {ps : List Nat} (hle : ∀ p ∈ ps, p ≤ 2) (d : Reg) (w : Nat) (on : List Nat) (f : Nat → Nat × Flags)
    (tan : Nat → Nat → Nat × Flags) : OnlyV d (fun p => p = 0 ∨ p ∈ ps) a (a.vecPut ps d w on f tan) :=
  ((putLanes_only a (by decide) d w on f).mono fun _ => .inl).trans
    (OnlyV.foldl (fun p hp a => (putLanes_only a (hle p hp) d w on (tan p)).mono fun _ hq => .inr (hq ▸ hp)) _)

/-- A lane written alone, with its flags and the seed after its draw. -/
theorem ConvertsLane.of_setV {d : Reg} {p w lo : Nat} {dr : Bool} {conv : Nat → Nat → Nat} {f : Arch → Nat → Arch} (hp : p ≤ 2)
    (h : ∀ a i, ∃ c fm sd, f a i = { a.setV p d (setLane (a.vp p d) w (lo + i) c) with fmode := fm, srseed := sd } ∧
      c = conv (if dr = true then (srDraw a.srseed).1 else 0) i ∧ sd = if dr = true then (srDraw a.srseed).2 else a.srseed) :
    ConvertsLane d p w lo dr conv f where
  only a i := by
    obtain ⟨c, fm, sd, h, -, -⟩ := h a i
    rw [h]
    exact (OnlyV.setV a d hp _).withFlags _ _
  code a i := by
    obtain ⟨c, fm, sd, h, hc, -⟩ := h a i
    rw [h, ← hc]
    exact setV_vp_same a hp d _
  seed a i := by
    obtain ⟨c, fm, sd, h, -, hsd⟩ := h a i
    rw [h, ← hsd]

theorem ConvertsPlane.of_lanes {d : Reg} {w lo : Nat} {tan : Nat → Nat → Nat} {f : Nat → Arch → Nat → Arch} (l : List Nat)
    (h : ∀ p, p ≤ 2 → ConvertsLane d p w lo false (fun _ => tan p) (f p)) : ConvertsPlane d w lo l tan (fun a p => l.foldl (f p) a) where
  only a p hp := ((h p hp).foldl_plain l a).1
  code a p hp := ((h p hp).foldl_plain l a).2.1
  seed a p hp := ((h p hp).foldl_plain l a).2.2

theorem ConvertsPlane.of_putLanes (d : Reg) (w : Nat) (l : List Nat) (c : Nat → Nat → Nat × Flags) :
    ConvertsPlane d w 0 l (fun p i => (c p i).1) (fun a p => a.putLanes p d w l (c p)) where
  only a p hp := putLanes_only a hp d w l (c p)
  code a p hp := putLanes_code a hp d w l (c p)
  seed a p _ := putLanes_seed a p d w l (c p)

/-! ### The one shape of a vector instruction -/

theorem dual_le_two (t : TSet) : ∀ p ∈ t.dual, p ≤ 2 := fun p hp => (dual_le t p hp).2

/-- `o` is the completion of a vector instruction that writes v[d] alone, in the primal and the planes acted on. -/
def WritesV (s : State) (d : Reg) (o : Out) : Prop :=
  ∃ lat f, o = vecDone lat 1 d.toNat f s ∧ OnlyV d (fun p => p = 0 ∨ p ∈ s.me.dual) s.me.a (f s.me.a)

/-- `vecDone` where v[d] alone is written. -/
theorem vecDone_completes {s : State} {d : Reg} {f : Arch → Arch} (lat : Nat) (hs : s.stepping = false)
    (hf : OnlyV d (fun p => p = 0 ∨ p ∈ s.me.dual) s.me.a (f s.me.a)) :
    ∃ t, vecDone lat 1 d.toNat f s = .next t ∧ s.RegStep t 4 NoReg (s.Dest d) NoMask ∧ (∀ p, t.me.a.vp p d = (f s.me.a).vp p d) ∧
      t.me.a.srseed = (f s.me.a).srseed ∧
      ∃ lat, t.me.busy = { cls := 1, r := d.toNat, due := some (s.cyc + lat) } :: (s.me.renew [(1, d.toNat)]).busy := by
  obtain ⟨t, ht, hstep, -, hv, -, -, hseed, hbusy⟩ := vecDone_spec lat 1 d.toNat f s hs hf.banks (V := s.Dest d) hf.keeps
  exact ⟨t, ht, hstep, fun p => hv p d, hseed, _, hbusy⟩

/-- The frame of an instruction that writes v[d] alone, and when its result is ready. -/
def Framed (s : State) (d : Reg) (o : Out) : Prop :=
  ∃ t, o = .next t ∧ s.RegStep t 4 NoReg (s.Dest d) NoMask ∧
    ∃ lat, t.me.busy = { cls := 1, r := d.toNat, due := some (s.cyc + lat) } :: (s.me.renew [(1, d.toNat)]).busy

theorem WritesV.framed {s : State} {d : Reg} {o : Out} (h : WritesV s d o) (hs : s.stepping = false) : Framed s d o := by
  obtain ⟨lat, f, rfl, hf⟩ := h
  obtain ⟨t, ht, hstep, -, -, hbusy⟩ := vecDone_completes lat hs hf
  exact ⟨t, ht, hstep, hbusy⟩

theorem WritesV.ite {s : State} {d : Reg} {c : Prop} [Decidable c] {x y : Out} (hx : WritesV s d x) (hy : WritesV s d y) :
    WritesV s d (if c then x else y) := by
  split
  · exact hx
  · exact hy

theorem vecPut_writes (s : State) (lat : Nat) (d : Reg) (w : Nat) (on : List Nat) (f : Nat → Nat × Flags) (tan : Nat → Nat → Nat × Flags) :
    WritesV s d (vecDone lat 1 d.toNat (fun a => a.vecPut s.me.dual d w on f tan) s) :=
  ⟨lat, _, rfl, vecPut_only s.me.a (dual_le_two s.me) d w on f tan⟩

theorem vop_writes (fo : Fmt → Nat → FArg → FArg → FArg → FRes) (io : Nat → Nat → Nat → Nat) (lf li : Nat) (d a b : Reg) (m t : BitVec 3)
    (s : State) : WritesV s d (vop fo io lf li d a b m t s) :=
  .ite (vecPut_writes s lf d _ _ _ _) (vecPut_writes s li d _ _ _ _)

theorem vopG_writes (fo : Fmt → Nat → FArg → FArg → FArg → FRes) (io : Nat → Nat → Nat → Nat) (lf li : Nat) (d a b : Reg) (m t : BitVec 3)
    (s : State) : WritesV s d (vopG fo io lf li d a b m t s) :=
  .ite (vecPut_writes s lf d _ _ _ _) (vecPut_writes s li d _ _ _ _)

theorem vmove_writes (d : Reg) (t : Nat) (on : List Nat) (src : Nat → Nat → Nat) (s : State) : WritesV s d (vmove d t on src s) :=
  vecPut_writes s 2 d _ on _ _

theorem vwiden_writes (wi : Nat) (conv : Nat → Nat × Flags) (zeroTan : Bool) (d a : Reg) (q : Nat) (m : BitVec 3) (s : State) :
    WritesV s d (vwiden wi conv zeroTan d a q m s) :=
  vecPut_writes s 3 d _ _ _ _

theorem execVcvtS32F32_writes (d a : Reg) (m : BitVec 3) (s : State) : WritesV s d (execVcvtS32F32 d a m s) := by
  unfold execVcvtS32F32
  exact vwiden_writes ..

theorem execVcvtF32S32_writes (d a : Reg) (m : BitVec 3) (s : State) : WritesV s d (execVcvtF32S32 d a m s) := by
  unfold execVcvtF32S32
  exact vwiden_writes ..

theorem execVperm_writes (d a b : Reg) (m t : BitVec 3) (s : State) : WritesV s d (execVperm d a b m t s) :=
  vecPut_writes s 3 d _ _ _ _

theorem execBfpenc_writes (d a : Reg) (m k : BitVec 3) (s : State) : WritesV s d (execBfpenc d a m k s) :=
  ⟨4, _, rfl, (((OnlyV.setV s.me.a d (by decide) _).withFlags _ _).mono fun _ => .inl).trans
    (OnlyV.foldl (fun p hp a => ((OnlyV.setV a d (dual_le_two s.me p hp) _).withFlags _ _).mono fun _ hq => .inr (hq ▸ hp)) _)⟩

/-! ### The conversions as folds -/

/-- `o` is a vector instruction that converts the lanes of `r`: the active primal lanes in turn, then each plane acted on. -/
def Converts (s : State) (r : Narrow) (o : Out) : Prop :=
  ∃ lat f g, o = vecDone lat 1 r.d.toNat (fun a => s.me.dual.foldl g ((active (s.me.a.mp r.m) r.n).foldl f a)) s ∧
    ConvertsLane r.d 0 r.w r.lo (r.draws && s.me.rm == 5) r.conv f ∧
    ConvertsPlane r.d r.w r.lo (active (s.me.a.mp r.m) r.n) r.tan g

theorem vnarrow_converts (wo : Nat) (conv : Nat → Nat → Nat → Nat × Flags) (zeroTan draws : Bool) (d a : Reg) (q : Nat) (m : BitVec 3)
    (s : State) : Converts s
      ⟨d, wo, 16 * q, 16, m, draws, fun r i => (conv s.me.rm r (lane (s.me.a.vp 0 a) 32 i)).1,
        fun p i => (if zeroTan = true then (0, 0) else conv (rmOf s) 0 (lane (s.me.a.vp p a) 32 i)).1⟩
      (vnarrow wo conv zeroTan draws d a q m s) := by
  refine ⟨3, _, _, rfl, ConvertsLane.of_setV (by decide) fun acc i => ?_, ConvertsPlane.of_lanes _ fun p hp =>
    ConvertsLane.of_setV hp fun acc i => ?_⟩
  · dsimp only
    split <;> exact ⟨_, _, _, rfl, rfl, rfl⟩
  · exact ⟨_, _, _, rfl, rfl, setV_srseed acc p d _⟩

theorem execBfpdec_converts (d a : Reg) (m k : BitVec 3) (s : State) : Converts s
      ⟨d, 16, 0, 32, m, true, fun r i => (BF16.round s.me.rm r (bfpElem s a (k.toNat + 2) 0 i)).1,
        fun p i => (BF16.round (rmOf s) 0 (bfpElem s a (k.toNat + 2) p i)).1⟩
      (execBfpdec d a m k s) := by
  refine ⟨4, _, _, rfl, ConvertsLane.of_setV (by decide) fun acc i => ?_, ConvertsPlane.of_putLanes d 16 _ _⟩
  simp only [Bool.true_and, Nat.zero_add]
  split <;> exact ⟨_, _, _, rfl, rfl, rfl⟩

theorem exec_converts {i : Instr} {s : State} {r : Narrow} (h : narrowOf i s = some r) : Converts s r (exec i s) := by
  cases i
  case vcvtBf16F32 d a q m => cases h; exact vnarrow_converts 16 (narrowF BF16) false true d a q.toNat m s
  case vcvtF16F32 d a q m => cases h; exact vnarrow_converts 16 (narrowF F16) false true d a q.toNat m s
  case vcvtE4m3F32 d a q m => cases h; exact vnarrow_converts 8 (narrowF (E4M3 (s.nxm s.cur))) false true d a q.toNat m s
  case vcvtE5m2F32 d a q m => cases h; exact vnarrow_converts 8 (narrowF (E5M2 (s.nxm s.cur))) false true d a q.toNat m s
  case vcvtS8S32 d a q m => cases h; exact vnarrow_converts 8 satS8 true false d a q.toNat m s
  case bfpdec d a m k => cases h; exact execBfpdec_converts d a m k s
  all_goals cases h

theorem converts_only (s : State) {r : Narrow} {f g : Arch → Nat → Arch} {l : List Nat} {dr : Bool}
    (hf : ConvertsLane r.d 0 r.w r.lo dr r.conv f) (hg : ConvertsPlane r.d r.w r.lo l r.tan g) :
    OnlyV r.d (fun p => p = 0 ∨ p ∈ s.me.dual) s.me.a (s.me.dual.foldl g (l.foldl f s.me.a)) :=
  (OnlyV.foldl (fun i _ a => (hf.only a i).mono fun _ => .inl) s.me.a).trans
    ((hg.foldl_only (dual_le_two s.me) _).mono fun _ => .inr)

theorem Converts.writes {s : State} {r : Narrow} {o : Out} (h : Converts s r o) : WritesV s r.d o := by
  obtain ⟨lat, f, g, ho, hf, hg⟩ := h
  exact ⟨lat, _, ho, converts_only s hf hg⟩

/-- What a conversion changes, and the lanes of each plane. -/
theorem Converts.completes {s : State} {r : Narrow} {o : Out} (h : Converts s r o) (hs : s.stepping = false) :
    ∃ t, o = .next t ∧ s.RegStep t 4 NoReg (s.Dest r.d) NoMask ∧
      (∀ k, k < 512 / r.w → lane (t.me.a.vp 0 r.d) r.w k =
        if r.lo ≤ k ∧ k < r.lo + r.n ∧ (s.me.a.mp r.m).getLsbD (k - r.lo) = true
          then r.conv (drawAt s r (k - r.lo)) (k - r.lo) % 2 ^ r.w else lane (s.me.a.vp 0 r.d) r.w k) ∧
      (∀ p ∈ s.me.dual, ∀ k, k < 512 / r.w → lane (t.me.a.vp p r.d) r.w k =
        if r.lo ≤ k ∧ k < r.lo + r.n ∧ (s.me.a.mp r.m).getLsbD (k - r.lo) = true
          then r.tan p (k - r.lo) % 2 ^ r.w else lane (s.me.a.vp p r.d) r.w k) ∧
      t.me.a.srseed = if r.draws = true ∧ s.me.rm = 5 then seedAt s r.m r.n else s.me.a.srseed := by
  obtain ⟨lat, f, g, rfl, hf, hg⟩ := h
  rw [active_eq] at hg ⊢
  let prim (a : Arch) : Arch := (activeBelow (s.me.a.mp r.m).getLsbD r.n).foldl f a
  obtain ⟨t, ht, hstep, hv, hseed, -⟩ :=
    vecDone_completes (d := r.d) (f := fun a => s.me.dual.foldl g (prim a)) lat hs (converts_only s hf hg)
  have honly : OnlyV r.d (· = 0) s.me.a (prim s.me.a) := OnlyV.foldl (fun i _ a => hf.only a i) s.me.a
  obtain ⟨hprimSeed, hprim⟩ := hf.foldl s.me.a (s.me.a.mp r.m).getLsbD r.n
  have hin {k : Nat} (hk : k < 512 / r.w) : r.w * k + r.w ≤ 512 := by
    rw [← Nat.mul_succ, Nat.mul_comm]
    exact Nat.mul_le_of_le_div _ _ _ hk
  refine ⟨t, ht, hstep, fun k hk => ?_, fun p hp k hk => ?_, ?_⟩
  · have h0 : 0 ∉ s.me.dual := fun h => absurd (dual_le s.me 0 h).1 (by decide)
    have hkeep := (hg.foldl_only (dual_le_two s.me) (prim s.me.a)).v r.d 0 (by decide) fun h => h0 h.2
    rw [hv, hkeep, hprim, lane_setLanes _ _ _ _ _ _ (hin hk)]
    simp [drawAt, seedAt, seedBelow]
  · obtain ⟨hp1, hp2⟩ := dual_le s.me p hp
    rw [hv, hg.foldl_code (dual_le_two s.me) (dual_nodup s.me) _ hp, lane_setLanes _ _ _ _ _ _ (hin hk),
      honly.v r.d p hp2 fun h => absurd h.2 (by omega)]
  · rw [hseed, hg.foldl_seed (dual_le_two s.me), hprimSeed]
    simp [seedAt, seedBelow]

theorem vnarrow_writes (wo : Nat) (conv : Nat → Nat → Nat → Nat × Flags) (zeroTan draws : Bool) (d a : Reg) (q : Nat) (m : BitVec 3)
    (s : State) : WritesV s d (vnarrow wo conv zeroTan draws d a q m s) :=
  (vnarrow_converts wo conv zeroTan draws d a q m s).writes

theorem execVcvtS8S32_writes (d a : Reg) (q : BitVec 2) (m : BitVec 3) (s : State) : WritesV s d (execVcvtS8S32 d a q m s) := by
  unfold execVcvtS8S32
  exact vnarrow_writes ..

/-! ### Every vector instruction with a v destination -/

theorem Elsewhere.trans {s t u : State} (h : s.Elsewhere t) (k : t.Elsewhere u) : s.Elsewhere u where
  cur := k.cur.trans h.cur
  cyc := k.cyc.trans h.cyc
  others j hj := (k.others j (h.cur ▸ hj)).trans (h.others j hj)
  cores j :=
    have hj := h.cores j
    have kj := k.cores j
    ⟨kj.act.trans hj.act, kj.stby.trans hj.stby, kj.strm.trans hj.strm, kj.cnext.trans hj.cnext, kj.l1.trans hj.l1,
      kj.tile.trans hj.tile, kj.hold.trans hj.hold, kj.utlb.trans hj.utlb, kj.waddr.trans hj.waddr, kj.wctl.trans hj.wctl⟩
  bytes home pa := (k.bytes home pa).trans (h.bytes home pa)
  mem := k.mem.trans h.mem
  slices := k.slices.trans h.slices
  reps := k.reps.trans h.reps
  ccs := k.ccs.trans h.ccs
  clusters := k.clusters.trans h.clusters
  chans := k.chans.trans h.chans
  dies := k.dies.trans h.dies
  parts := k.parts.trans h.parts
  ctxs := k.ctxs.trans h.ctxs
  host := k.host.trans h.host
  jost := k.jost.trans h.jost
  images := k.images.trans h.images
  stretch := k.stretch.trans h.stretch
  throt := k.throt.trans h.throt

theorem Framed.of_useTrn {s : State} {d : Reg} {o : Out} (h : Framed s.useTrn d o) : Framed s d o := by
  obtain ⟨t, ho, hstep, hbusy⟩ := h
  have htimer : s.Elsewhere s.useTrn := (upCore_spec s (coreOf s.cur) (fun c => { c with trnAt := s.cyc + 4 }) fun _ => ⟨rfl, rfl, rfl, rfl, rfl, rfl, rfl, rfl, rfl, rfl⟩).2
  exact ⟨t, ho, ⟨hstep.pc, hstep.regs, hstep.runs, hstep.tset, Elsewhere.trans htimer hstep.rest⟩, hbusy⟩

/-- An instruction of the transcendental unit takes the unit and then writes as any other. -/
theorem vtrn_framed (fo : Fmt → Nat → FArg → FArg → FArg → FRes) (lat : Nat) (d a b : Reg) (m t : BitVec 3) {s : State}
    (hs : s.stepping = false) : Framed s d (vtrn fo lat d a b m t s) :=
  ((vop_writes fo ioAdd lat lat d a b m t s.useTrn).framed hs).of_useTrn

theorem exec_framed {i : Instr} {s : State} {d : Reg} (h : vDest i = some d) (hs : s.stepping = false) : Framed s d (exec i s) := by
  cases i
  case vadd | vsub | vmul | vfma | vfms | vmin | vmax | vand | vor | vxor | vshl | vshr | vabs | vneg =>
    cases h; exact (vop_writes _ _ _ _ _ _ _ _ _ s).framed hs
  case vaddg | vmulg | vfmag | vming | vmaxg => cases h; exact (vopG_writes _ _ _ _ _ _ _ _ _ s).framed hs
  case vrcp | vrsq | vexp2 | vlog2 | vsqrt | vdiv => cases h; exact vtrn_framed _ _ _ _ _ _ _ hs
  case vsel | vmovg | vins => cases h; exact (vmove_writes _ _ _ _ s).framed hs
  case vperm => cases h; exact (execVperm_writes _ _ _ _ _ s).framed hs
  case vcvtF32Bf16 | vcvtF32F16 | vcvtF32E4m3 | vcvtF32E5m2 =>
    cases h; exact (vwiden_writes _ _ _ _ _ _ _ s).framed hs
  case vcvtS32F32 => cases h; exact (execVcvtS32F32_writes _ _ _ s).framed hs
  case vcvtF32S32 => cases h; exact (execVcvtF32S32_writes _ _ _ s).framed hs
  case vcvtBf16F32 | vcvtF16F32 | vcvtE4m3F32 | vcvtE5m2F32 =>
    cases h; exact (vnarrow_writes _ _ _ _ _ _ _ _ s).framed hs
  case vcvtS8S32 => cases h; exact (execVcvtS8S32_writes _ _ _ _ s).framed hs
  case bfpdec => cases h; exact (execBfpdec_converts _ _ _ _ s).writes.framed hs
  case bfpenc => cases h; exact (execBfpenc_writes _ _ _ _ s).framed hs
  all_goals cases h

/-- Settles O9: the frame is that of `vecDone`, and the lanes of a conversion are those of its folds. -/
theorem vectorFrames : Obligations.VectorFrames := by
  unfold Obligations.VectorFrames
  refine ⟨fun i s d h hs => exec_framed h hs, fun i s r h _ hs => ?_⟩
  obtain ⟨t, ht, hstep, hprim, htan, hseed⟩ := (exec_converts h).completes hs
  exact ⟨t, ht, hprim, htan, hseed, hstep⟩

end Sys2Proof.Claims
end

section
/-! # Integer results

What each operation of 05 R88-R90 computes, in the terms of the claims, and the three ways in which an integer result completes. -/

namespace Sys2Proof.Claims

open Sys2Proof.Machine

/-! ### The operations -/

theorem opSll_eq (x y : Word) : opSll x y = sllV x y := by
  unfold opSll sllV
  by_cases h : y.toNat < 64
  · rw [if_neg (by omega), if_pos h]
  · rw [if_pos (by omega), if_neg h]

theorem opSrl_eq (x y : Word) : opSrl x y = srlV x y := by
  unfold opSrl srlV
  by_cases h : y.toNat < 64
  · rw [if_neg (by omega), if_pos h]
  · rw [if_pos (by omega), if_neg h]

theorem opSra_eq (x y : Word) : opSra x y = sraV x y := by
  unfold opSra sraV
  by_cases h : y.toNat < 64
  · rw [if_pos h, Nat.min_eq_left (by omega)]
  · rw [if_neg h, Nat.min_eq_right (by omega)]
    apply BitVec.eq_of_getElem_eq
    intro i hi
    rw [BitVec.getElem_sshiftRight, dif_neg (by omega)]
    cases x.msb
    · exact (BitVec.getElem_zero hi).symm
    · exact (BitVec.getElem_allOnes i hi).symm

theorem toNat_setWidth_of_six (n : BitVec 6) : (n.setWidth 64 : Word).toNat = n.toNat ∧ n.toNat < 64 := by
  have hn := n.isLt
  rw [BitVec.toNat_setWidth]
  omega

theorem sllV_imm (x : Word) (n : BitVec 6) : x <<< n.toNat = sllV x (n.setWidth 64) := by
  obtain ⟨h, hn⟩ := toNat_setWidth_of_six n
  rw [sllV, h, if_pos hn]

theorem srlV_imm (x : Word) (n : BitVec 6) : x >>> n.toNat = srlV x (n.setWidth 64) := by
  obtain ⟨h, hn⟩ := toNat_setWidth_of_six n
  rw [srlV, h, if_pos hn]

theorem sraV_imm (x : Word) (n : BitVec 6) : x.sshiftRight n.toNat = sraV x (n.setWidth 64) := by
  obtain ⟨h, hn⟩ := toNat_setWidth_of_six n
  rw [sraV, h, if_pos hn]

theorem opSlt_eq (x y : Word) : opSlt x y = if x.toInt < y.toInt then 1 else 0 := by
  simp [opSlt, boolW, BitVec.slt]

theorem opSltu_eq (x y : Word) : opSltu x y = if x.toNat < y.toNat then 1 else 0 := by
  simp [opSltu, boolW, BitVec.ult]

theorem opMin_eq (x y : Word) : opMin x y = if x.toInt ≤ y.toInt then x else y := by
  simp only [opMin, BitVec.slt, decide_eq_true_eq, ← not_le, ite_not]

theorem opMax_eq (x y : Word) : opMax x y = if x.toInt ≤ y.toInt then y else x := by
  simp only [opMax, BitVec.slt, decide_eq_true_eq]
  rcases lt_trichotomy x.toInt y.toInt with h | h | h
  · rw [if_pos h, if_pos h.le]
  · rw [BitVec.toInt_inj.mp h]
    simp
  · rw [if_neg h.not_gt, if_neg h.not_ge]

theorem opMinu_eq (x y : Word) : opMinu x y = if x.toNat ≤ y.toNat then x else y := by
  simp only [opMinu, BitVec.ult, decide_eq_true_eq, ← not_le, ite_not]

theorem opMaxu_eq (x y : Word) : opMaxu x y = if x.toNat ≤ y.toNat then y else x := by
  simp only [opMaxu, BitVec.ult, decide_eq_true_eq]
  rcases lt_trichotomy x.toNat y.toNat with h | h | h
  · rw [if_pos h, if_pos h.le]
  · rw [BitVec.toNat_inj.mp h]
    simp
  · rw [if_neg h.not_gt, if_neg h.not_ge]

theorem opMulhu_eq (x y : Word) : opMulhu x y = BitVec.ofNat 64 (x.toNat * y.toNat / 2 ^ 64) := by
  rw [opMulhu, high, ← Nat.cast_mul, ← BitVec.ofInt_natCast]
  rfl

/-- `sdiv` rounds toward zero; the one quotient that does not fit is the case that DIV saturates. -/
theorem opDiv_eq (x y : Word) : opDiv x y = divV x y := by
  unfold opDiv divV
  have hq : BitVec.ofInt 64 (x.toInt.tdiv y.toInt) = x.sdiv y := by
    rw [← BitVec.toInt_inj, BitVec.toInt_sdiv, BitVec.toInt_ofInt]
  rw [hq]
  rfl

theorem opDivu_eq (x y : Word) : opDivu x y = divuV x y := rfl

theorem opRem_eq (x y : Word) : opRem x y = remV x y := by
  unfold opRem remV
  have hr : BitVec.ofInt 64 (x.toInt.tmod y.toInt) = x.srem y := by
    rw [← BitVec.toInt_srem, BitVec.ofInt_toInt]
  rw [hr]
  by_cases hy : y = 0
  · rw [if_pos (.inl hy), if_pos hy]
  · simp only [hy, false_or, if_false]
    rfl

theorem opRemu_eq (x y : Word) : opRemu x y = remuV x y := rfl

theorem clzN_eq (n x : Nat) (hx : x < 2 ^ n) : clzN x n = if x = 0 then n else n - 1 - Nat.log2 x := by
  induction n with
  | zero => rw [clzN, if_pos (by omega)]
  | succ n ih =>
    rw [clzN]
    by_cases htop : 2 ^ n ≤ x
    · have h1 : x / 2 ^ n = 1 := by
        rw [Nat.div_eq_iff (by positivity)]
        omega
      have hpos := Nat.two_pow_pos n
      have hlog : Nat.log2 x = n := (Nat.log2_eq_iff (by omega)).mpr ⟨htop, hx⟩
      rw [if_pos (by rw [h1]), if_neg (by omega), hlog]
      omega
    · have h0 : x / 2 ^ n = 0 := Nat.div_eq_of_lt (by omega)
      rw [if_neg (by rw [h0]; decide), ih (by omega)]
      by_cases hz : x = 0
      · rw [if_pos hz, if_pos hz, Nat.add_comm]
      · have hlog : Nat.log2 x < n := (Nat.log2_lt hz).mpr (by omega)
        rw [if_neg hz, if_neg hz]
        omega

theorem testBit_eq_div (x i : Nat) : x.testBit i = decide (x / 2 ^ i % 2 = 1) := Nat.testBit_eq_decide_div_mod_eq

theorem ctzN_eq (x n i : Nat) : i + ctzN x i n = ((List.range' i n).find? x.testBit).getD (i + n) := by
  induction n generalizing i with
  | zero => rfl
  | succ n ih =>
    rw [ctzN, List.range'_succ, List.find?_cons, testBit_eq_div]
    by_cases h : x / 2 ^ i % 2 = 1
    · simp [h]
    · have := ih (i + 1)
      simp only [h, if_false, decide_false]
      rw [← Nat.add_assoc, this, Nat.add_assoc, Nat.add_comm 1 n]

theorem popN_eq (n x : Nat) : popN x n = ((List.range n).filter x.testBit).length := by
  induction n generalizing x with
  | zero => rfl
  | succ n ih =>
    have hrest : x.testBit ∘ Nat.succ = (x / 2).testBit := funext fun i => Nat.testBit_succ x i
    rw [popN, ih, List.range_succ_eq_map, List.filter_cons, List.filter_map, hrest]
    rcases Nat.mod_two_eq_zero_or_one x with h | h <;> simp [Nat.testBit_zero, h, Nat.add_comm]

theorem clz_eq (x : Word) :
    BitVec.ofNat 64 (clzN x.toNat 64) = BitVec.ofNat 64 (if x = 0 then 64 else 63 - Nat.log2 x.toNat) := by
  rw [clzN_eq 64 _ x.isLt]
  simp only [← BitVec.toNat_inj, BitVec.ofNat_eq_ofNat, BitVec.toNat_zero]

theorem ctz_eq (x : Word) :
    BitVec.ofNat 64 (ctzN x.toNat 0 64) = BitVec.ofNat 64 (((List.range 64).find? (fun i => x.getLsbD i)).getD 64) := by
  have h := ctzN_eq x.toNat 64 0
  rw [Nat.zero_add, Nat.zero_add, ← List.range_eq_range'] at h
  rw [h]
  rfl

theorem popc_eq (x : Word) :
    BitVec.ofNat 64 (popN x.toNat 64) = BitVec.ofNat 64 ((List.range 64).filter (fun i => x.getLsbD i)).length := by
  rw [popN_eq]
  rfl

/-! ### How an integer result completes -/

/-- `o` is the completion of an integer result: at once, or in the multiply or the divide group. -/
inductive IntCompletes (s : State) (len : Nat) (d : Reg) (w : Word) (o : Out) : Prop where
  | int (h : o = intOp len d w s)
  | mul (h : o = mulOp len d w s)
  | div (h : o = divOp len d w s)

theorem IntCompletes.of_intOp {s : State} {len : Nat} {d : Reg} {v w : Word} (h : v = w) : IntCompletes s len d w (intOp len d v s) :=
  .int (h ▸ rfl)

theorem IntCompletes.of_mulOp {s : State} {len : Nat} {d : Reg} {v w : Word} (h : v = w) : IntCompletes s len d w (mulOp len d v s) :=
  .mul (h ▸ rfl)

theorem IntCompletes.of_divOp {s : State} {len : Nat} {d : Reg} {v w : Word} (h : v = w) : IntCompletes s len d w (divOp len d v s) :=
  .div (h ▸ rfl)

theorem exec_int {i : Instr} {s : State} {d : Reg} {w : Word} {len : Nat} (h : intValue i s = some (d, w, len)) :
    IntCompletes s len d w (exec i s) := by
  cases i
  case add | sub | and | or | xor | andn | addw | subw | addLit | subLit | andLit | orLit | xorLit | andnLit | addwLit | subwLit
      | sextB | sextH | sextW | zextH | zextW | addi | andi | ori | xori | rori | addpc =>
    cases h; exact .of_intOp rfl
  case sll | sllLit => cases h; exact .of_intOp (opSll_eq _ _)
  case srl | srlLit => cases h; exact .of_intOp (opSrl_eq _ _)
  case sra | sraLit => cases h; exact .of_intOp (opSra_eq _ _)
  case ror | rorLit => cases h; exact .of_intOp rfl
  case slt | sltLit | slti => cases h; exact .of_intOp (opSlt_eq _ _)
  case sltu | sltuLit | sltiu => cases h; exact .of_intOp (opSltu_eq _ _)
  case min | minLit => cases h; exact .of_intOp (opMin_eq _ _)
  case max | maxLit => cases h; exact .of_intOp (opMax_eq _ _)
  case minu | minuLit => cases h; exact .of_intOp (opMinu_eq _ _)
  case maxu | maxuLit => cases h; exact .of_intOp (opMaxu_eq _ _)
  case lui =>
    simp only [intValue, Option.some.injEq, Prod.mk.injEq] at h
    obtain ⟨rfl, rfl, rfl⟩ := h
    exact .of_intOp rfl
  case slli => cases h; exact .of_intOp (sllV_imm _ _)
  case srli => cases h; exact .of_intOp (srlV_imm _ _)
  case srai => cases h; exact .of_intOp (sraV_imm _ _)
  case mul | mulLit | mulh | mulhLit | mulhsu | mulhsuLit => cases h; exact .of_mulOp rfl
  case mulhu | mulhuLit => cases h; exact .of_mulOp (opMulhu_eq _ _)
  case div | divLit => cases h; exact .of_divOp (opDiv_eq _ _)
  case divu | divuLit => cases h; exact .of_divOp rfl
  case rem | remLit => cases h; exact .of_divOp (opRem_eq _ _)
  case remu | remuLit => cases h; exact .of_divOp rfl
  case clz d a => cases h; exact .of_intOp (clz_eq _)
  case ctz d a => cases h; exact .of_intOp (ctz_eq _)
  case popc d a => cases h; exact .of_intOp (popc_eq _)
  all_goals cases h

/-- The instructions of the multiply and the divide group are the ones that complete as `mulOp` and `divOp`. -/
theorem exec_long {i : Instr} {s : State} {d : Reg} {lat : Nat} (h : longInt i = some (d, lat)) :
    ∃ len w, lat = 3 ∧ exec i s = mulOp len d w s ∨ lat = 36 ∧ exec i s = divOp len d w s := by
  cases i
  case mul | mulLit | mulh | mulhLit | mulhu | mulhuLit | mulhsu | mulhsuLit => cases h; exact ⟨_, _, .inl ⟨rfl, rfl⟩⟩
  case div | divLit | divu | divuLit | rem | remLit | remu | remuLit => cases h; exact ⟨_, _, .inr ⟨rfl, rfl⟩⟩
  all_goals cases h

/-- Settles O1: the operations compute the claimed values, and each of the three completions writes its value in the one frame. -/
theorem integerResults : Obligations.IntegerResults := by
  unfold Obligations.IntegerResults
  refine ⟨fun i s d w len h hs => ?values, fun i s d lat h hs => ?latencies⟩
  case values =>
    cases exec_int h with
    | int h =>
      obtain ⟨hstep, hd, hp, hfm, hsr, -⟩ := putInt_doneD_spec s d w len hs
      exact ⟨_, h, hd, hp, hfm, hsr, hstep⟩
    | mul h =>
      obtain ⟨t, ht, hstep, hd, hp, hfm, hsr, -⟩ := mulOp_spec len d w s hs
      exact ⟨t, h.trans ht, hd, hp, hfm, hsr, hstep⟩
    | div h =>
      obtain ⟨t, ht, hstep, hd, hp, hfm, hsr, -⟩ := divOp_spec len d w s hs
      exact ⟨t, h.trans ht, hd, hp, hfm, hsr, hstep⟩
  case latencies =>
    obtain ⟨len, w, ⟨rfl, he⟩ | ⟨rfl, he⟩⟩ := exec_long (s := s) h
    · obtain ⟨t, ht, -, -, -, -, -, hbusy⟩ := mulOp_spec len d w s hs
      exact ⟨t, he.trans ht, hbusy, fun h => absurd h (by decide)⟩
    · obtain ⟨t, ht, -, -, -, -, -, hbusy, hdiv⟩ := divOp_spec len d w s hs
      exact ⟨t, he.trans ht, hbusy, fun _ => hdiv⟩

end Sys2Proof.Claims
end

section
/-! # The end of an instruction: loops and transfers

What a completion, a transfer and a branch that is not taken leave of the current thread set, as one register file each, and what
the loop checks do to a level. -/

namespace Sys2Proof.Claims

open Sys2Proof.Machine

/-! ### The loop checks of one level (05 R106) -/

/-- Is the end of an armed level in the words of an instruction of `len` bytes at `pc`? -/
def endsAt (a : Arch) (pc : Word) (len l : Nat) : Bool := armed a l && inWords pc len (vget a.le l 0)

theorem ends_eq (s : State) (len l : Nat) : ends s len l = endsAt s.me.a s.me.pc len l := by
  unfold ends endsAt inWords
  congr

/-- What the check of a level gives. -/
inductive Checked (a : Arch) (pc : Word) (len l : Nat) : Arch × Bool → Prop where
  | off (h : endsAt a pc len l = false) : Checked a pc len l (a, false)
  | back (h : endsAt a pc len l = true) (hc : 1 < count a l) :
      Checked a pc len l ({ a with lc := vset a.lc l (vget a.lc l 0 - 1) }, true)
  | last (lc : Vector Word 2) (h : endsAt a pc len l = true) (hc : count a l ≤ 1) (hlc : lc = vset a.lc l 0) :
      Checked a pc len l ({ a with lc := lc, lstat := putBits a.lstat l 1 0 }, false)

theorem vset_vget {α : Type} {n : Nat} (v : Vector α n) (i : Nat) (d : α) : vset v i (vget v i d) = v := by
  unfold vset vget
  split <;> simp

theorem loopCheck_checked (a : Arch) (pc : Word) (len l : Nat) : Checked a pc len l (loopCheck a l pc len) := by
  unfold loopCheck
  split
  next h =>
    dsimp only
    split
    next h0 => exact .last a.lc h (by rw [count, h0]; decide) (by rw [← h0, vset_vget])
    next h0 =>
      split
      next h1 =>
        have hc : vget a.lc l 0 = 1 := by rwa [sub_eq_zero] at h1
        exact .last _ h (by rw [count, hc]; decide) (by rw [h1])
      next h1 => exact .back h (by unfold count; bv_omega)
  next h => exact .off (Bool.eq_false_iff.mpr h)

/-- A check of one level keeps the spans, and the count and the arm of every other. -/
theorem Checked.others {a b : Arch} {pc : Word} {len l : Nat} {back : Bool} (h : Checked a pc len l (b, back)) :
    b.ls = a.ls ∧ b.le = a.le ∧ ∀ k, k ≠ l → vget b.lc k 0 = vget a.lc k 0 ∧ armed b k = armed a k := by
  have harm (k : Nat) (hk : k ≠ l) : (putBits a.lstat l 1 0).getLsbD k = a.lstat.getLsbD k :=
    getLsbD_putBits_apart _ _ _ _ _ (by omega)
  cases h with
  | off => exact ⟨rfl, rfl, fun k _ => ⟨rfl, rfl⟩⟩
  | back => exact ⟨rfl, rfl, fun k hk => ⟨by rw [vget_vset, if_neg (by tauto)], rfl⟩⟩
  | last lc _ _ hlc => exact ⟨rfl, rfl, fun k hk => ⟨by rw [hlc, vget_vset, if_neg (by tauto)], harm k hk⟩⟩

/-- A level whose end is not reached keeps its count and its arm. -/
theorem Checked.same {a b : Arch} {pc : Word} {len l : Nat} {back : Bool} (h : Checked a pc len l (b, back))
    (he : endsAt a pc len l = false) : b = a ∧ back = false := by
  cases h with
  | off => exact ⟨rfl, rfl⟩
  | back h => rw [he] at h; cases h
  | last _ h => rw [he] at h; cases h

/-- A level that has passes left goes back. -/
theorem Checked.passes {a b : Arch} {pc : Word} {len l : Nat} {back : Bool} (h : Checked a pc len l (b, back)) (hl : l < 2)
    (he : endsAt a pc len l = true) (hc : 1 < count a l) : back = true ∧ count b l = count a l - 1 ∧ armed b l = true := by
  cases h with
  | off h => rw [he] at h; cases h
  | back h =>
    refine ⟨rfl, ?_, (Bool.and_eq_true_iff.mp h).1⟩
    unfold count at hc ⊢
    rw [vget_vset_same _ _ _ hl]
    bv_omega
  | last _ _ h => omega

theorem Checked.of_back {a b : Arch} {pc : Word} {len l : Nat} (h : Checked a pc len l (b, true)) :
    endsAt a pc len l = true ∧ 1 < count a l := by
  cases h with
  | back h hc => exact ⟨h, hc⟩

/-- The last pass of a level ends it. -/
theorem Checked.ends {a b : Arch} {pc : Word} {len l : Nat} {back : Bool} (h : Checked a pc len l (b, back)) (hl : l < 2)
    (he : endsAt a pc len l = true) (hc : count a l ≤ 1) : back = false ∧ count b l = 0 ∧ armed b l = false := by
  cases h with
  | off h => rw [he] at h; cases h
  | back _ h => omega
  | last lc _ _ hlc =>
    refine ⟨rfl, ?_, ?_⟩
    · rw [count, hlc, vget_vset_same _ _ _ hl]
      rfl
    · rw [armed, getLsbD_putBits, if_pos ⟨le_refl l, Nat.lt_succ_self l⟩]
      simp

/-! ### The two levels -/

/-- Level 1 is checked first, and level 0 unless level 1 goes back. -/
theorem loopEnd_checked (a : Arch) (pc : Word) (len : Nat) :
    (∃ b, Checked a pc len 1 (b, true) ∧ loopEnd a pc len = (b, vget a.ls 1 0, true)) ∨
    (∃ b c back, Checked a pc len 1 (b, false) ∧ Checked b pc len 0 (c, back) ∧
      loopEnd a pc len = (c, if back then vget a.ls 0 0 else pc + BitVec.ofNat 64 len, back)) := by
  have h1 := loopCheck_checked a pc len 1
  unfold loopEnd
  generalize loopCheck a 1 pc len = r1 at h1 ⊢
  obtain ⟨b, _ | _⟩ := r1
  · have h0 := loopCheck_checked b pc len 0
    dsimp only
    generalize loopCheck b 0 pc len = r0 at h0 ⊢
    obtain ⟨c, _ | _⟩ := r0
    · exact .inr ⟨b, c, false, h1, h0, rfl⟩
    · exact .inr ⟨b, c, true, h1, h0, by rw [← h1.others.1, ← h0.others.1]; rfl⟩
  · exact .inl ⟨b, h1, by rw [← h1.others.1]⟩

/-- The end of level 0 is where it was once level 1 has been checked. -/
theorem Checked.endsAt_zero {a b : Arch} {pc : Word} {len : Nat} {back : Bool} (h : Checked a pc len 1 (b, back)) :
    endsAt b pc len 0 = endsAt a pc len 0 ∧ count b 0 = count a 0 ∧ armed b 0 = armed a 0 := by
  obtain ⟨-, hle, h0⟩ := h.others
  obtain ⟨hlc, harm⟩ := h0 0 (by decide)
  exact ⟨by rw [endsAt, endsAt, harm, hle], by rw [count, count, hlc], harm⟩

/-- A level whose end is not reached is not touched by the check of any level. -/
theorem Checked.level_same {a b : Arch} {pc : Word} {len k l : Nat} {back : Bool} (h : Checked a pc len k (b, back))
    (he : endsAt a pc len l = false) : vget b.lc l 0 = vget a.lc l 0 ∧ armed b l = armed a l ∧ endsAt b pc len l = false := by
  by_cases hl : l = k
  · subst hl
    obtain ⟨rfl, -⟩ := h.same he
    exact ⟨rfl, rfl, he⟩
  · obtain ⟨-, hle, hk⟩ := h.others
    obtain ⟨hlc, harm⟩ := hk l hl
    exact ⟨hlc, harm, by rwa [endsAt, harm, hle]⟩

theorem loopEnd_level_same {a : Arch} {pc : Word} {len l : Nat} (h : endsAt a pc len l = false) :
    vget (loopEnd a pc len).1.lc l 0 = vget a.lc l 0 ∧ armed (loopEnd a pc len).1 l = armed a l := by
  obtain ⟨b, h1, he⟩ | ⟨b, c, back, h1, h0, he⟩ := loopEnd_checked a pc len <;> rw [he]
  · exact ⟨(h1.level_same h).1, (h1.level_same h).2.1⟩
  · obtain ⟨hlc, harm, hb⟩ := h1.level_same h
    obtain ⟨hlc', harm', -⟩ := h0.level_same hb
    exact ⟨hlc'.trans hlc, harm'.trans harm⟩

/-- What the checks of the two levels do (05 R106). -/
theorem loopEnd_levels (a : Arch) (pc : Word) (len : Nat) :
    let r := loopEnd a pc len
    let e1 := endsAt a pc len 1
    let e0 := endsAt a pc len 0
    let c1 := count a 1
    let c0 := count a 0
    let outer : Prop := e1 = false ∨ c1 ≤ 1
    (e1 = true → 1 < c1 → r.2.1 = vget a.ls 1 0 ∧ count r.1 1 = c1 - 1 ∧ armed r.1 1 = true ∧ count r.1 0 = c0 ∧
      armed r.1 0 = armed a 0) ∧
    (e1 = true → c1 ≤ 1 → count r.1 1 = 0 ∧ armed r.1 1 = false) ∧
    (e1 = false → count r.1 1 = c1 ∧ armed r.1 1 = armed a 1) ∧
    (outer → e0 = true → 1 < c0 → r.2.1 = vget a.ls 0 0 ∧ count r.1 0 = c0 - 1 ∧ armed r.1 0 = true) ∧
    (outer → e0 = true → c0 ≤ 1 → r.2.1 = pc + BitVec.ofNat 64 len ∧ count r.1 0 = 0 ∧ armed r.1 0 = false) ∧
    (outer → e0 = false → r.2.1 = pc + BitVec.ofNat 64 len ∧ count r.1 0 = c0 ∧ armed r.1 0 = armed a 0) := by
  obtain ⟨b, h1, he⟩ | ⟨b, c, back, h1, h0, he⟩ := loopEnd_checked a pc len <;> dsimp only <;> rw [he]
  · have h0 := h1.endsAt_zero
    obtain ⟨hend, hlt⟩ := h1.of_back
    obtain ⟨-, hc1, ha1⟩ := h1.passes (by decide) hend hlt
    have hno : ¬ (endsAt a pc len 1 = false ∨ count a 1 ≤ 1) := by rw [hend]; simp; omega
    exact ⟨fun _ _ => ⟨rfl, hc1, ha1, h0.2⟩, fun _ h => absurd (.inr h) hno, fun h => absurd (.inl h) hno, fun h => absurd h hno,
      fun h => absurd h hno, fun h => absurd h hno⟩
  · obtain ⟨hend0, hcount0, harm0⟩ := h1.endsAt_zero
    obtain ⟨-, -, hothers⟩ := h0.others
    obtain ⟨hlc1, hkeep1⟩ := hothers 1 (by decide)
    have hcount1 : count c 1 = count b 1 := by rw [count, count, hlc1]
    rw [← hend0, ← hcount0, ← harm0, hcount1, hkeep1]
    refine ⟨fun h hc => ?_, fun h hc => (h1.ends (by decide) h hc).2, fun h => ?_, fun _ h hc => ?_, fun _ h hc => ?_, fun _ h => ?_⟩
    · cases (h1.passes (by decide) h hc).1
    · obtain ⟨rfl, -⟩ := h1.same h
      exact ⟨rfl, rfl⟩
    · obtain ⟨rfl, hc', ha'⟩ := h0.passes (by decide) h hc
      exact ⟨rfl, hc', ha'⟩
    · obtain ⟨rfl, hc', ha'⟩ := h0.ends (by decide) h hc
      exact ⟨rfl, hc', ha'⟩
    · obtain ⟨rfl, rfl⟩ := h0.same h
      exact ⟨rfl, rfl, rfl⟩

/-! ### A completion as one register file -/

/-- `t` is `s` with the registers `a` and the pc `pc` of the current thread set; the special registers and everything outside the
thread set are kept. -/
structure Leaves (s : State) (a : Arch) (pc : Word) (t : State) : Prop where
  arch : t.me.a = a
  pc : t.me.pc = pc
  tset : s.me.Keeps t.me
  rest : s.Elsewhere t

theorem elsewhere_upMe (s : State) (f : TSet → TSet) : s.Elsewhere (s.upMe f) :=
  ⟨rfl, rfl, fun _ hk => upMe_at_ne s f hk, fun _ => CoreSt.Keeps.refl _, fun home pa => byteAt_congr rfl rfl home pa, rfl, rfl, rfl,
    rfl, rfl, rfl, rfl, rfl, rfl, rfl, rfl, rfl, rfl, rfl⟩

theorem leaves_upMe (s : State) (f : TSet → TSet) {a : Arch} {pc : Word} (ha : (f s.me).a = a) (hpc : (f s.me).pc = pc)
    (hk : s.me.Keeps (f s.me)) : Leaves s a pc (s.upMe f) :=
  ⟨by rw [upMe_me, ha], by rw [upMe_me, hpc], by rw [upMe_me]; exact hk, elsewhere_upMe s f⟩

/-- No single step follows where none was due and the step keeps PMCTL. -/
theorem sstep_upMe {s : State} (h : s.stepping = false) (f : TSet → TSet) (hf : (f s.me).pmctl = s.me.pmctl) :
    (s.upMe f).sstep s.me.pc s.me.priv = s.upMe f := by
  apply sstep_off
  rw [upMe_me, hf, upMe_cur]
  rw [Bool.and_right_comm]
  exact h

/-- The registers after the instruction at `pc` completes without a transfer; `win` says what becomes of the window. -/
def retiredArch (a : Arch) (user : Bool) (pc : Word) (len : Nat) (win : Word → Word) : Arch :=
  let b := { a with status := win a.status }
  let e := loopEnd b pc len
  if user then (if e.2.2 then { e.1 with status := noWindow e.1.status } else e.1) else b

theorem retireW_leaves {s : State} (h : s.stepping = false) (len extra : Nat) (win : Word → Word) (under : Bool) :
    Leaves s (retiredArch s.me.a s.user s.me.pc len win) (s.nextPc len) (s.retireW len extra win under) := by
  unfold State.retireW
  dsimp only
  rw [sstep_upMe h _ (by split <;> rfl)]
  have hn : s.nextPc len = if s.user then (loopEnd { s.me.a with status := win s.me.a.status } s.me.pc len).2.1
      else s.me.pc + BitVec.ofNat 64 len := by
    rw [loopEnd_congr (a := s.me.a) (b := { s.me.a with status := win s.me.a.status }) rfl rfl rfl rfl]
    rfl
  have hu : (decide (s.me.priv = 0) && !isSys s.cur) = s.user := rfl
  rw [hn, retiredArch, hu]
  refine leaves_upMe s _ ?_ ?_ ?_
  · split <;> cases s.user <;> rfl
  · split <;> cases s.user <;> rfl
  · split <;> exact ⟨rfl, rfl, rfl, rfl, rfl, rfl, rfl, rfl, rfl, rfl, rfl, rfl, rfl, rfl, rfl, rfl, rfl, rfl, rfl, rfl, rfl⟩

/-- The loop checks read the arms, the ends and the counts only. -/
theorem loopEnd_words {a b : Arch} (hs : b.lstat = a.lstat) (he : b.le = a.le) (hc : b.lc = a.lc) (pc : Word) (len : Nat) :
    (loopEnd b pc len).1.lc = (loopEnd a pc len).1.lc ∧ (loopEnd b pc len).1.lstat = (loopEnd a pc len).1.lstat := by
  have h1 := loopCheck_congr hs he hc 1 pc len
  unfold loopEnd
  generalize loopCheck a 1 pc len = ra at h1 ⊢
  generalize loopCheck b 1 pc len = rb at h1 ⊢
  obtain ⟨a1, x⟩ := ra
  obtain ⟨b1, y⟩ := rb
  obtain ⟨hxy, hs1, hc1, he1, -, he1', -⟩ := h1
  obtain rfl : y = x := hxy
  cases y
  · have h0 := loopCheck_congr hs1 (he1.trans he1'.symm) hc1 0 pc len
    dsimp only
    generalize loopCheck a1 0 pc len = qa at h0 ⊢
    generalize loopCheck b1 0 pc len = qb at h0 ⊢
    obtain ⟨a0, x⟩ := qa
    obtain ⟨b0, y⟩ := qb
    obtain ⟨hxy, hs0, hc0, -⟩ := h0
    obtain rfl : y = x := hxy
    cases y <;> exact ⟨hc0, hs0⟩
  · exact ⟨hc1, hs1⟩

/-- A completion changes the loop words as the checks do at privilege 0, and STATUS; nothing else. -/
theorem retiredArch_eq (a : Arch) (user : Bool) (pc : Word) (len : Nat) (win : Word → Word) :
    ∃ st, (st = win a.status ∨ st = noWindow (win a.status)) ∧
      retiredArch a user pc len win = { a with
        status := st
        lc := if user then (loopEnd a pc len).1.lc else a.lc
        lstat := if user then (loopEnd a pc len).1.lstat else a.lstat } := by
  unfold retiredArch
  dsimp only
  cases user
  · exact ⟨_, .inl rfl, rfl⟩
  · obtain ⟨hlc, hls⟩ := loopEnd_words (a := a) (b := { a with status := win a.status }) rfl rfl rfl pc len
    obtain ⟨lc, ls, hf⟩ := loopEnd_frame { a with status := win a.status } pc len
    rw [← hlc, ← hls, hf]
    simp only [if_true]
    split
    · exact ⟨_, .inr rfl, rfl⟩
    · exact ⟨_, .inl rfl, rfl⟩

/-- `t` is at the same place of the program as `s`: pc, STATUS, the loop words and what decides on a single step agree. -/
structure SamePlace (s t : State) : Prop where
  cur : t.cur = s.cur
  pc : t.me.pc = s.me.pc
  pmctl : t.me.pmctl = s.me.pmctl
  status : t.me.a.status = s.me.a.status
  ls : t.me.a.ls = s.me.a.ls
  le : t.me.a.le = s.me.a.le
  lc : t.me.a.lc = s.me.a.lc
  lstat : t.me.a.lstat = s.me.a.lstat

section

variable {s t : State} (h : SamePlace s t)

include h

theorem SamePlace.user : t.user = s.user := by
  simp only [State.user, TSet.priv, h.cur, h.status]

theorem SamePlace.stepping : t.stepping = s.stepping := by
  rw [State.stepping, State.stepping, h.user, h.pmctl]

theorem SamePlace.nextPc (len : Nat) : t.nextPc len = s.nextPc len := by
  rw [State.nextPc, State.nextPc, h.user, h.pc, loopEnd_congr h.lstat h.le h.lc h.ls]

end

theorem stepping_of_system {s : State} (h : s.user = false) : s.stepping = false := by
  rw [State.stepping, h, Bool.false_and]

/-! ### The loop check after an integer instruction -/

theorem putInt_place (s : State) (d : Reg) (w : Word) : SamePlace s (s.putInt d w) := by
  obtain ⟨g, g1, g2, hput⟩ := putInt_others s.me.a s.me.dual d w
  have hme : (s.putInt d w).me = { s.me with a := s.me.a.putInt s.me.dual d w }.renew [(0, d.toNat)] := upMe_me ..
  rw [hput] at hme
  refine ⟨rfl, ?_, ?_, ?_, ?_, ?_, ?_, ?_⟩ <;> (rw [hme]; rfl)

/-- The pc and the loop words that an integer instruction leaves are those of the loop checks. -/
theorem IntCompletes.loops {s : State} {len : Nat} {d : Reg} {w : Word} {o : Out} (h : IntCompletes s len d w o)
    (hs : s.stepping = false) :
    ∃ t, o = .next t ∧ t.me.pc = s.nextPc len ∧
      t.me.a.lc = (if s.user then (loopEnd s.me.a s.me.pc len).1.lc else s.me.a.lc) ∧
      t.me.a.lstat = (if s.user then (loopEnd s.me.a s.me.pc len).1.lstat else s.me.a.lstat) := by
  have hdone : ∃ t, o = .next t ∧ t.me.a = ((s.putInt d w).doneD len).me.a ∧ t.me.pc = ((s.putInt d w).doneD len).me.pc := by
    cases h with
    | int h => exact ⟨_, h, rfl, rfl⟩
    | mul h =>
      obtain ⟨ha, hpc, -⟩ := longAfter_spec ((s.putInt d w).doneD len) s.me 3 [(0, d.toNat)]
      exact ⟨_, h, ha, hpc⟩
    | div h =>
      obtain ⟨ha, hpc, -⟩ := longAfter_spec ((s.putInt d w).doneD len) s.me 36 [(0, d.toNat)]
      exact ⟨_, h, ha, hpc⟩
  obtain ⟨t, ho, ha, hpc⟩ := hdone
  have hplace := putInt_place s d w
  have hleaves := retireW_leaves (hplace.stepping.trans hs) len (s.putInt d w).me.dual.length countWindow true
  obtain ⟨st, -, hret⟩ := retiredArch_eq (s.putInt d w).me.a (s.putInt d w).user (s.putInt d w).me.pc len countWindow
  obtain ⟨hlc, hls⟩ := loopEnd_words hplace.lstat hplace.le hplace.lc s.me.pc len
  have ht : t.me.a = _ := ha.trans (hleaves.arch.trans hret)
  refine ⟨t, ho, hpc.trans (hleaves.pc.trans (hplace.nextPc len)), ?_, ?_⟩
  · rw [ht, hplace.user, hplace.pc, hlc, hplace.lc]
  · rw [ht, hplace.user, hplace.pc, hls, hplace.lstat]

/-- Settles O6: an integer instruction leaves what the checks of the two levels leave, level 1 first. -/
theorem loopEndChecks : Obligations.LoopEndChecks := by
  unfold Obligations.LoopEndChecks
  refine ⟨fun i s d w len h hu => ?system, fun i s d w len h hs hu => ?user⟩
  case system =>
    obtain ⟨t, ho, hpc, hlc, hls⟩ := (exec_int h).loops (stepping_of_system hu)
    rw [hu] at hlc hls
    refine ⟨t, ho, ?_, hlc, hls⟩
    rw [hpc, State.nextPc, hu]
    rfl
  case user =>
    obtain ⟨t, ho, hpc, hlc, hls⟩ := (exec_int h).loops hs
    rw [State.nextPc, hu, if_pos rfl] at hpc
    rw [hu, if_pos rfl] at hlc hls
    refine ⟨t, ho, ?_⟩
    have hcount (l : Nat) : count t.me.a l = count (loopEnd s.me.a s.me.pc len).1 l := by rw [count, count, hlc]
    have harmed (l : Nat) : armed t.me.a l = armed (loopEnd s.me.a s.me.pc len).1 l := by rw [armed, armed, hls]
    simp only [hcount, harmed, hpc, ends_eq]
    exact loopEnd_levels s.me.a s.me.pc len

end Sys2Proof.Claims
end

section
/-! # Branches, jumps and the loop instructions -/

namespace Sys2Proof.Claims

open Sys2Proof.Machine

/-! ### A transfer that is taken -/

/-- What a taken transfer leaves of the registers (03 R61; 05 R107). -/
def jumpedArch (a : Arch) (user : Bool) (target : Word) : Arch :=
  let b := { a with status := noWindow a.status }
  if user then disarmOut b target else b

theorem jump_leaves {s : State} (h : s.stepping = false) (target : Word) :
    Leaves s (jumpedArch s.me.a s.user target) target (s.jump target) := by
  unfold State.jump
  dsimp only
  rw [sstep_upMe h _ rfl]
  refine leaves_upMe s _ rfl rfl ?_
  exact ⟨rfl, rfl, rfl, rfl, rfl, rfl, rfl, rfl, rfl, rfl, rfl, rfl, rfl, rfl, rfl, rfl, rfl, rfl, rfl, rfl, rfl⟩

/-- Does the span of a level hold an address? -/
def spanHolds (a : Arch) (l : Nat) (x : Word) : Bool := decide (vget a.ls l 0 ≤ x) && decide (x ≤ vget a.le l 0)

/-- One level of a transfer (05 R107). -/
def disarmLevel (a : Arch) (target : Word) (l : Nat) : Arch :=
  if spanHolds a l target then a else { a with lstat := putBits a.lstat l 1 0 }

theorem disarmLevel_eq (a : Arch) (target : Word) (l : Nat) : ∃ lstat, disarmLevel a target l = { a with lstat := lstat } ∧
    ∀ k, k < 2 → lstat.getLsbD k = (armed a k && (decide (k ≠ l) || spanHolds a l target)) := by
  unfold disarmLevel
  cases spanHolds a l target
  · refine ⟨_, if_neg (by decide), fun k hk => ?_⟩
    rw [getLsbD_putBits]
    by_cases hkl : k = l
    · simp [hkl]
    · rw [if_neg (by omega), armed]
      simp [hkl, show k < 64 by omega]
  · exact ⟨a.lstat, rfl, fun k _ => by simp [armed]⟩

theorem disarmOut_eq (a : Arch) (target : Word) : ∃ lstat, disarmOut a target = { a with lstat := lstat } ∧
    ∀ l, l < 2 → lstat.getLsbD l = (armed a l && spanHolds a l target) := by
  have htwo : disarmOut a target = disarmLevel (disarmLevel a target 0) target 1 := rfl
  obtain ⟨x, hx, hx'⟩ := disarmLevel_eq a target 0
  obtain ⟨y, hy, hy'⟩ := disarmLevel_eq { a with lstat := x } target 1
  refine ⟨y, by rw [htwo, hx, hy], fun l hl => ?_⟩
  have hspan : spanHolds { a with lstat := x } 1 target = spanHolds a 1 target := rfl
  rw [hy' l hl, armed, hx' l hl, hspan]
  obtain rfl | rfl : l = 0 ∨ l = 1 := by omega
  · simp
  · simp

/-- A taken transfer closes the window and disarms, at privilege 0, the levels whose span does not hold the target. -/
theorem jumpedArch_eq (a : Arch) (user : Bool) (target : Word) : ∃ lstat,
    jumpedArch a user target = { a with status := noWindow a.status, lstat := lstat } ∧
    ∀ l, l < 2 → lstat.getLsbD l = (armed a l && (!user || spanHolds a l target)) := by
  unfold jumpedArch
  dsimp only
  cases user
  · exact ⟨_, rfl, fun l _ => by simp [armed]⟩
  · obtain ⟨lstat, he, hl⟩ := disarmOut_eq { a with status := noWindow a.status } target
    exact ⟨lstat, he, hl⟩

theorem TSetKeeps.trans {t u v : TSet} (h : t.Keeps u) (k : u.Keeps v) : t.Keeps v where
  bound := k.bound.trans h.bound
  cause := k.cause.trans h.cause
  epc := k.epc.trans h.epc
  tval := k.tval.trans h.tval
  escr := k.escr.trans h.escr
  cycle := k.cycle.trans h.cycle
  wlimit := k.wlimit.trans h.wlimit
  specst := k.specst.trans h.specst
  speccnt := k.speccnt.trans h.speccnt
  residx := k.residx.trans h.residx
  pmc := k.pmc.trans h.pmc
  pmsel := k.pmsel.trans h.pmsel
  pmovf := k.pmovf.trans h.pmovf
  pmctl := k.pmctl.trans h.pmctl
  irq := k.irq.trans h.irq
  mc := k.mc.trans h.mc
  eceil := k.eceil.trans h.eceil
  epoch := k.epoch.trans h.epoch
  spec := k.spec.trans h.spec
  halted := k.halted.trans h.halted
  stopped := k.stopped.trans h.stopped

theorem Leaves.trans {s u t : State} {a b : Arch} {pc q : Word} (h : Leaves s b q u) (k : Leaves u a pc t) : Leaves s a pc t :=
  ⟨k.arch, k.pc, TSetKeeps.trans h.tset k.tset, Elsewhere.trans h.rest k.rest⟩

theorem keeps_regs (t : TSet) (a : Arch) (b : List Busy) : t.Keeps { t with a := a, busy := b } :=
  ⟨rfl, rfl, rfl, rfl, rfl, rfl, rfl, rfl, rfl, rfl, rfl, rfl, rfl, rfl, rfl, rfl, rfl, rfl, rfl, rfl, rfl⟩

theorem gp_setG_same (a : Arch) {p : Nat} (hp : p ≤ 2) (d : Reg) (w : Word) : (a.setG p d w).gp p d = if d = 0 then 0 else w := by
  rw [gp_setG a hp hp]
  by_cases hd : d = 0
  · rw [if_neg (by tauto), if_pos hd]
    simp only [Arch.gp, if_pos hd]
  · rw [if_pos ⟨rfl, rfl, hd⟩, if_neg hd]

theorem upA_leaves (s : State) (f : Arch → Arch) : Leaves s (f s.me.a) s.me.pc (s.upA f) :=
  leaves_upMe s _ rfl rfl (keeps_regs s.me _ _)

/-- Registers that differ outside the banks alone, in what a flow instruction may change. -/
theorem keeps_flow (a : Arch) (status : Word) (ls le lc : Vector Word 2) (lstat : Word) :
    a.Keeps { a with status := status, ls := ls, le := le, lc := lc, lstat := lstat } NoReg NoReg NoMask :=
  ⟨fun _ _ _ _ => rfl, fun _ _ _ _ => rfl, fun _ _ => rfl, rfl, rfl, rfl, rfl, rfl, rfl⟩

/-- A transfer to `target` once the g registers are those of `b`. -/
theorem Leaves.jumps {s t : State} {b : Arch} {target lstat : Word} {G : Reg → Nat → Prop}
    (h : Leaves s { b with status := noWindow b.status, lstat := lstat } target t)
    (hb : ∃ g g1 g2, b = { s.me.a with g := g, gd1 := g1, gd2 := g2 })
    (hG : ∀ r p, p ≤ 2 → ¬ G r p → b.gp p r = s.me.a.gp p r)
    (hl : ∀ l, l < 2 → lstat.getLsbD l = (armed b l && (!s.user || spanHolds b l target))) : Jumps s t target G := by
  obtain ⟨harch, hpc, htset, hrest⟩ := h
  have hgp (p : Nat) (r : Reg) : t.me.a.gp p r = b.gp p r := by rw [harch]; rfl
  obtain ⟨g, g1, g2, rfl⟩ := hb
  have hkeep : s.me.a.Keeps t.me.a G NoReg NoMask :=
    ⟨fun r p hp hr => (hgp p r).trans (hG r p hp hr), by rw [harch]; exact fun _ _ _ _ => rfl, by rw [harch]; exact fun _ _ => rfl,
      by rw [harch], by rw [harch], by rw [harch], by rw [harch], by rw [harch], by rw [harch]⟩
  exact ⟨hpc, hkeep, by rw [harch], by rw [harch], by rw [harch], by rw [harch], by rw [harch], by rw [harch],
    by rw [harch]; exact hl, htset, hrest⟩

/-- A taken transfer with no link. -/
theorem jump_jumps {s : State} (hs : s.stepping = false) (target : Word) : Jumps s (s.jump target) target NoReg := by
  obtain ⟨lstat, hj, hl⟩ := jumpedArch_eq s.me.a s.user target
  exact (hj ▸ jump_leaves hs target).jumps ⟨_, _, _, rfl⟩ (fun _ _ _ _ => rfl) hl

/-- JAL and JALR write the link, if any, and go to their target. -/
theorem link_jumps {s : State} (hs : s.stepping = false) (d : Reg) (w target : Word) :
    ((s.setG d w).jump target).me.a.gp 0 d = (if d = 0 then 0 else w) ∧
      Jumps s ((s.setG d w).jump target) target (fun r p => r = d ∧ p = 0) := by
  have hset := setG_frame s.me.a 0 d w
  have hlink : Leaves s (s.me.a.setG 0 d w) s.me.pc (s.setG d w) := leaves_upMe s _ rfl rfl (keeps_regs s.me _ _)
  have hplace : SamePlace s (s.setG d w) := by
    obtain ⟨g, g1, g2, hset⟩ := hset
    refine ⟨rfl, hlink.pc, hlink.tset.pmctl, ?_, ?_, ?_, ?_, ?_⟩ <;> rw [hlink.arch, hset]
  obtain ⟨lstat, hj, hl⟩ := jumpedArch_eq (s.setG d w).me.a (s.setG d w).user target
  have h := hlink.trans (hj ▸ jump_leaves (hplace.stepping.trans hs) target)
  rw [hlink.arch, hplace.user] at hl
  rw [hlink.arch] at h
  refine ⟨?_, h.jumps hset (fun r p hp hr => ?_) hl⟩
  · rw [← gp_setG_same s.me.a (p := 0) (by decide) d w, h.arch]
    rfl
  · rw [gp_setG _ (by decide) hp, if_neg (by tauto)]

/-! ### A transfer that is not taken -/

theorem wbits_noWindow (st : Word) : wbits (noWindow st) 0 2 = wbits st 0 2 := by
  rw [noWindow, wbits_putBits_apart _ _ _ _ _ _ (.inl (by decide)), wbits_putBits_apart _ _ _ _ _ _ (.inl (by decide))]

theorem countWindow_noWindow (st : Word) : countWindow (noWindow st) = noWindow st := by
  rw [countWindow, if_neg]
  rw [getLsbD_noWindow]
  simp

/-- A branch that is not taken, LDIS, and LSPAN with a count close the window and end with the loop checks. -/
theorem noJump_leaves {s : State} (hs : s.stepping = false) :
    Leaves s { s.me.a with
      status := noWindow s.me.a.status
      lc := if s.user then (loopEnd s.me.a s.me.pc 4).1.lc else s.me.a.lc
      lstat := if s.user then (loopEnd s.me.a s.me.pc 4).1.lstat else s.me.a.lstat } (s.nextPc 4) s.noJump := by
  let u := s.upA (fun a => { a with status := noWindow a.status })
  have hclose : Leaves s { s.me.a with status := noWindow s.me.a.status } s.me.pc u :=
    upA_leaves s (fun a => { a with status := noWindow a.status })
  have huser : u.user = s.user := by
    simp only [State.user, TSet.priv, hclose.arch, wbits_noWindow]
    rfl
  have hstep : u.stepping = false := by
    rw [State.stepping, huser, hclose.tset.pmctl]
    exact hs
  have hnext : u.nextPc 4 = s.nextPc 4 := by
    rw [State.nextPc, State.nextPc, huser, hclose.pc, loopEnd_congr (a := s.me.a) (b := u.me.a) (by rw [hclose.arch])
      (by rw [hclose.arch]) (by rw [hclose.arch]) (by rw [hclose.arch])]
  obtain ⟨st, hst, hret⟩ := retiredArch_eq u.me.a u.user u.me.pc 4 countWindow
  obtain ⟨hlc, hls⟩ := loopEnd_words (a := s.me.a) (b := u.me.a) (by rw [hclose.arch]) (by rw [hclose.arch]) (by rw [hclose.arch])
    s.me.pc 4
  have h := hclose.trans (hret ▸ hnext ▸ retireW_leaves hstep 4 0 countWindow false)
  obtain rfl : st = noWindow s.me.a.status := by
    rw [hclose.arch, countWindow_noWindow, noWindow_noWindow, or_self] at hst
    exact hst
  rw [huser, hclose.pc, hlc, hls, hclose.arch] at h
  exact h

/-- The same as the completion of an instruction that writes no register. -/
theorem noJump_regStep {s : State} (hs : s.stepping = false) :
    s.RegStep s.noJump 4 NoReg NoReg NoMask ∧ s.noJump.me.a.status = noWindow s.me.a.status ∧
      s.noJump.me.a.fmode = s.me.a.fmode ∧ s.noJump.me.a.srseed = s.me.a.srseed := by
  obtain ⟨harch, hpc, htset, hrest⟩ := noJump_leaves hs
  refine ⟨⟨hpc, ?_, ⟨?_, ?_, ?_⟩, htset, hrest⟩, ?_, ?_, ?_⟩ <;> rw [harch]
  · exact keeps_flow s.me.a _ _ _ _ _
  · exact noWindow_noWindow _

/-! ### Conditional branches (05 R104) -/

/-- `o` is a conditional branch of that condition and distance. -/
theorem exec_branch {i : Instr} {s : State} {c : Bool} {o : BitVec 16} (h : branchOf i s = some (c, o)) :
    exec i s = branch c o s := by
  cases i
  case beq a b o | blt a b o | bltu a b o => cases h; rfl
  case bne a b o =>
    cases h
    exact congrArg (branch · o s) (by rw [bne, Bool.beq_eq_decide_eq]; simp)
  case bge a b o =>
    cases h
    exact congrArg (branch · o s) (by rw [BitVec.slt, ← decide_not]; simp only [not_lt])
  case bgeu a b o =>
    cases h
    exact congrArg (branch · o s) (by rw [BitVec.ult, ← decide_not]; simp only [not_lt])
  all_goals cases h

/-- Settles O4: a taken branch, JAL and an aligned JALR are transfers; a branch that is not taken completes. -/
theorem transfers : Obligations.Transfers := by
  unfold Obligations.Transfers
  refine ⟨fun i s c o h hs => ?branch, fun d o s hs => ?jal, fun d a n s hs hal => ?jalr, fun d a n s hal => ?misaligned⟩
  case branch =>
    rw [exec_branch h]
    cases c
    · obtain ⟨hstep, hst, hfm, hsr⟩ := noJump_regStep hs
      exact ⟨s.noJump, rfl, nofun, fun _ => ⟨hstep, hst, hfm, hsr⟩⟩
    · exact ⟨_, rfl, fun _ => jump_jumps hs _, nofun⟩
  case jal => exact ⟨_, rfl, link_jumps hs d (s.me.pc + 4) (s.me.pc + wordOff o)⟩
  case jalr =>
    have h : exec (.jalr d a n) s = .next ((s.setG d (s.me.pc + 4)).jump (s.g a + immS n)) := if_pos (decide_eq_true hal)
    exact ⟨_, h, link_jumps hs d (s.me.pc + 4) (s.g a + immS n)⟩
  case misaligned => exact if_neg (fun h => hal (of_decide_eq_true h))

/-! ### The loop instructions (05 R105, R108) -/

theorem ArchKeeps.trans {a b c : Arch} {G V : Reg → Nat → Prop} {M : BitVec 3 → Prop} (h : a.Keeps b G V M) (k : b.Keeps c G V M) :
    a.Keeps c G V M where
  g r p hp hr := (k.g r p hp hr).trans (h.g r p hp hr)
  v r p hp hr := (k.v r p hp hr).trans (h.v r p hp hr)
  m r hr := (k.m r hr).trans (h.m r hr)
  tc := k.tc.trans h.tc
  dmode := k.dmode.trans h.dmode
  dtoff := k.dtoff.trans h.dtoff
  claim := k.claim.trans h.claim
  rend := k.rend.trans h.rend
  bar := k.bar.trans h.bar

/-- `u` is `s` with the words of one loop level changed. -/
structure Leveled (s u : State) (l : Nat) : Prop where
  keeps : s.me.a.Keeps u.me.a NoReg NoReg NoMask
  cur : u.cur = s.cur
  pc : u.me.pc = s.me.pc
  status : u.me.a.status = s.me.a.status
  tset : s.me.Keeps u.me
  rest : s.Elsewhere u
  ls : vget u.me.a.ls (1 - l) 0 = vget s.me.a.ls (1 - l) 0
  le : vget u.me.a.le (1 - l) 0 = vget s.me.a.le (1 - l) 0
  lc : vget u.me.a.lc (1 - l) 0 = vget s.me.a.lc (1 - l) 0
  arm : armed u.me.a (1 - l) = armed s.me.a (1 - l)

section

variable {s u : State} {l : Nat} (h : Leveled s u l)

include h

theorem Leveled.user : u.user = s.user := by
  simp only [State.user, TSet.priv, h.cur, h.status]

theorem Leveled.stepping (hs : s.stepping = false) : u.stepping = false := by
  rw [State.stepping, h.user, h.tset.pmctl]
  exact hs

/-- A level changes and a transfer follows. -/
theorem Leveled.jump (hs : s.stepping = false) (target : Word) : Jumps u (u.jump target) target NoReg ∧
    otherLevel s (u.jump target) l target ∧ (u.jump target).me.a.status = noWindow s.me.a.status ∧
    s.me.a.Keeps (u.jump target).me.a NoReg NoReg NoMask ∧ s.me.Keeps (u.jump target).me ∧ s.Elsewhere (u.jump target) := by
  have hj := jump_jumps (h.stepping hs) target
  refine ⟨hj, ⟨?_, ?_, ?_, ?_⟩, ?_, ArchKeeps.trans h.keeps hj.regs, TSetKeeps.trans h.tset hj.tset, Elsewhere.trans h.rest hj.rest⟩
  · rw [hj.ls, h.ls]
  · rw [hj.le, h.le]
  · rw [hj.lc, h.lc]
  · rw [hj.arms _ (by omega), h.arm, h.user, h.ls, h.le]
  · rw [hj.status, h.status]

/-- A level changes, so that its end is not here, and the instruction completes. -/
theorem Leveled.noJump (hs : s.stepping = false) (he : endsAt u.me.a u.me.pc 4 l = false) : u.noJump.me.pc = u.nextPc 4 ∧
    u.noJump.me.a.ls = u.me.a.ls ∧ u.noJump.me.a.le = u.me.a.le ∧ vget u.noJump.me.a.lc l 0 = vget u.me.a.lc l 0 ∧
    armed u.noJump.me.a l = armed u.me.a l ∧ u.noJump.me.a.status = noWindow s.me.a.status ∧
    s.me.a.Keeps u.noJump.me.a NoReg NoReg NoMask ∧ s.me.Keeps u.noJump.me ∧ s.Elsewhere u.noJump := by
  obtain ⟨harch, hpc, htset, hrest⟩ := noJump_leaves (h.stepping hs)
  obtain ⟨hlc, harm⟩ := loopEnd_level_same he
  refine ⟨hpc, ?_, ?_, ?_, ?_, ?_, ?_, TSetKeeps.trans h.tset htset, Elsewhere.trans h.rest hrest⟩ <;> rw [harch]
  · cases u.user
    · rfl
    · exact hlc
  · cases u.user
    · rfl
    · exact harm
  · rw [h.status]
  · exact ArchKeeps.trans h.keeps (keeps_flow u.me.a _ _ _ _ _)

end

/-- The arm of one level set or cleared. -/
theorem armed_putBits (a : Arch) {l : Nat} (hl : l < 2) (v : Nat) :
    (putBits a.lstat l 1 v).getLsbD l = v.testBit 0 ∧ (putBits a.lstat l 1 v).getLsbD (1 - l) = armed a (1 - l) := by
  refine ⟨?_, getLsbD_putBits_apart _ _ _ _ _ (by omega)⟩
  rw [getLsbD_putBits, if_pos ⟨le_refl l, Nat.lt_succ_self l⟩, Nat.sub_self]
  simp [show l < 64 by omega]

theorem disarmed_leveled (s : State) {l : Nat} (hl : l < 2) :
    let u := s.upA (fun a => { a with lstat := putBits a.lstat l 1 0 })
    Leveled s u l ∧ u.me.a = { s.me.a with lstat := putBits s.me.a.lstat l 1 0 } ∧ armed u.me.a l = false := by
  intro u
  obtain ⟨harch, hpc, htset, hrest⟩ : Leaves s { s.me.a with lstat := putBits s.me.a.lstat l 1 0 } s.me.pc u :=
    upA_leaves s (fun a => { a with lstat := putBits a.lstat l 1 0 })
  obtain ⟨hoff, hother⟩ := armed_putBits s.me.a hl 0
  refine ⟨⟨?_, rfl, hpc, ?_, htset, hrest, ?_, ?_, ?_, ?_⟩, harch, ?_⟩ <;> rw [harch]
  · exact keeps_flow s.me.a _ _ _ _ _
  · exact hother
  · exact hoff

theorem spanned_leveled (s : State) {l : Nat} (hl : l < 2) (le c : Word) :
    let u := spanned s l le c
    Leveled s u l ∧ vget u.me.a.ls l 0 = s.me.pc + 4 ∧ vget u.me.a.le l 0 = le ∧ vget u.me.a.lc l 0 = c ∧
      armed u.me.a l = decide (c ≠ 0) := by
  intro u
  let f : Arch → Arch := fun a => { a with
    ls := vset a.ls l (s.me.pc + 4), le := vset a.le l le, lc := vset a.lc l c
    lstat := putBits a.lstat l 1 (if c = 0 then 0 else 1) }
  obtain ⟨harch, hpc, htset, hrest⟩ : Leaves s (f s.me.a) s.me.pc u := upA_leaves s f
  obtain ⟨harm, hother⟩ := armed_putBits s.me.a hl (if c = 0 then 0 else 1)
  have hne (v : Vector Word 2) (x : Word) : vget (vset v l x) (1 - l) 0 = vget v (1 - l) 0 := by
    rw [vget_vset, if_neg (by omega)]
  refine ⟨⟨?_, rfl, hpc, ?_, htset, hrest, ?_, ?_, ?_, ?_⟩, ?_, ?_, ?_, ?_⟩ <;> rw [harch]
  · exact keeps_flow s.me.a _ _ _ _ _
  · exact hne _ _
  · exact hne _ _
  · exact hne _ _
  · exact hother
  · exact vget_vset_same _ _ _ hl
  · exact vget_vset_same _ _ _ hl
  · exact vget_vset_same _ _ _ hl
  · refine harm.trans ?_
    by_cases hc : c = 0
    · rw [if_pos hc, decide_eq_false (not_not.mpr hc)]
      rfl
    · rw [if_neg hc, decide_eq_true hc]
      rfl

/-- The count of LSPAN (05 R105). -/
def spanCount (s : State) (c : BitVec 1) (n : BitVec 12) : Word :=
  if c = 1 then BitVec.ofNat 64 ((s.g (n.setWidth 5)).toNat % 2 ^ 32) else n.setWidth 64

theorem execLspan_eq (l c : BitVec 1) (b n : BitVec 12) (s : State) :
    let k := spanCount s c n
    let le := s.me.pc + BitVec.ofNat 64 (4 * b.toNat)
    exec (.lspan l c b n) s =
      if k = 0 then .next ((spanned s l.toNat le k).jump (le + 4)) else .next (spanned s l.toNat le k).noJump := by
  intro k le
  have hk : k = if c = 1 then BitVec.ofNat 64 (wbits (s.g (n.setWidth 5)) 0 32) else immZ n := by
    rw [wbits, bits, Nat.pow_zero, Nat.div_one]
    rfl
  have hspan : s.upA (fun a => a.span l.toNat (s.me.pc + 4) le k (k != 0)) = spanned s l.toNat le k := by
    unfold spanned Arch.span
    by_cases h : k = 0 <;> simp [h]
  rw [← hspan, hk]
  rfl

/-- The end of a body that is not empty is not at LSPAN. -/
theorem spanned_not_here (pc : Word) (b : BitVec 12) (hb : b.toNat ≠ 0) :
    inWords pc 4 (pc + BitVec.ofNat 64 (4 * b.toNat)) = false := by
  have hlt := b.isLt
  have hne : pc + BitVec.ofNat 64 (4 * b.toNat) ≠ pc := by
    intro h
    have h := congrArg BitVec.toNat h
    rw [BitVec.toNat_add, BitVec.toNat_ofNat] at h
    omega
  simp [inWords, hne]

/-- Settles O5: each loop instruction changes one level, then transfers or completes. -/
theorem loopInstructions : Obligations.LoopInstructions := by
  unfold Obligations.LoopInstructions
  refine ⟨fun l c b n s hwf hs => ?lspan, fun l s hs ha => ?lexit, fun l s hs ha => ?lexitOff, fun l s hs => ?ldis⟩
  case lspan =>
    have hb : b.toNat ≠ 0 := by
      have h : (b.toNat != 0 && (c.toNat == 0 || decide (n.toNat < 32))) = true := hwf
      exact bne_iff_ne.mp (Bool.and_eq_true_iff.mp h).1
    intro k le
    have hexec := execLspan_eq l c b n s
    obtain ⟨hlev, hls, hle, hlc, harm⟩ := spanned_leveled s l.isLt le k
    by_cases hk : k = 0
    · obtain ⟨hj, hother, hst, hkeep, htset, hrest⟩ := hlev.jump hs (le + 4)
      refine ⟨(spanned s l.toNat le k).jump (le + 4), hexec.trans (if_pos hk), ?_, ?_, hst, fun _ => ⟨?_, ?_, hj.pc, hother⟩, fun h => absurd hk h, hkeep, htset, hrest⟩
      · rw [hj.ls, hls]
      · rw [hj.le, hle]
      · rw [hj.lc, hlc, hk]
      · rw [hj.arms _ l.isLt, harm, decide_eq_false (not_not.mpr hk), Bool.false_and]
    · have hend : endsAt (spanned s l.toNat le k).me.a (spanned s l.toNat le k).me.pc 4 l.toNat = false := by
        rw [endsAt, hle, hlev.pc, spanned_not_here s.me.pc b hb, Bool.and_false]
      obtain ⟨hpc, hls', hle', hlc', harm', hst, hkeep, htset, hrest⟩ := hlev.noJump hs hend
      refine ⟨(spanned s l.toNat le k).noJump, hexec.trans (if_neg hk), ?_, ?_, hst, fun h => absurd h hk, fun _ => ⟨?_, ?_, hpc⟩, hkeep, htset, hrest⟩
      · rw [hls', hls]
      · rw [hle', hle]
      · rw [hlc', hlc]
      · rw [harm', harm, decide_eq_true hk]
  case lexit =>
    obtain ⟨hlev, harch, hoff⟩ := disarmed_leveled s l.isLt
    obtain ⟨hj, hother, hst, hkeep, htset, hrest⟩ := hlev.jump hs (vget s.me.a.le l.toNat 0 + 4)
    refine ⟨_, if_pos ha, hj.pc, ?_, hother, ?_, hst, hkeep, htset, hrest⟩
    · rw [hj.arms _ l.isLt, hoff, Bool.false_and]
    · rw [hj.lc, harch]
  case lexitOff =>
    obtain ⟨hstep, hst, -, -⟩ := noJump_regStep hs
    refine ⟨s.noJump, if_neg (by rw [show s.me.a.lstat.getLsbD l.toNat = false from ha]; decide), ?_, hst, hstep⟩
    rw [(noJump_leaves hs).arch]
    cases s.user
    · rfl
    · exact (loopEnd_level_same (by rw [endsAt, ha, Bool.false_and])).1
  case ldis =>
    obtain ⟨hlev, harch, hoff⟩ := disarmed_leveled s l.isLt
    obtain ⟨hpc, hls', hle', hlc', harm', hst, hkeep, htset, hrest⟩ :=
      hlev.noJump hs (by rw [endsAt, hoff, Bool.false_and])
    exact ⟨_, rfl, harm'.trans hoff, hpc, hlc'.trans (by rw [harch]), hst, hkeep, htset, hrest⟩

end Sys2Proof.Claims
end

section
/-! # Scalar floating point

One register of g is written, the primal first and then each plane acted on, with the flags of all of them. -/

namespace Sys2Proof.Claims

open Sys2Proof.Machine

/-! ### Writes of one g register -/

/-- `b` is `a` but for the planes `P` of g[d], FMODE and SRSEED. -/
structure OnlyG (d : Reg) (P : Nat → Prop) (a b : Arch) : Prop where
  banks : a.Banks b
  g : ∀ r p, p ≤ 2 → ¬ (r = d ∧ P p) → b.gp p r = a.gp p r
  v : ∀ p r, b.vp p r = a.vp p r
  m : ∀ r, b.mp r = a.mp r

section

variable {d : Reg} {P : Nat → Prop} {a b c : Arch}

theorem OnlyG.refl (d : Reg) (P : Nat → Prop) (a : Arch) : OnlyG d P a a :=
  ⟨Banks.refl a, fun _ _ _ _ => rfl, fun _ _ => rfl, fun _ => rfl⟩

theorem OnlyG.trans (h : OnlyG d P a b) (k : OnlyG d P b c) : OnlyG d P a c :=
  ⟨Banks.trans h.banks k.banks, fun r p hp hr => (k.g r p hp hr).trans (h.g r p hp hr), fun p r => (k.v p r).trans (h.v p r),
    fun r => (k.m r).trans (h.m r)⟩

theorem OnlyG.mono {Q : Nat → Prop} (h : OnlyG d P a b) (hPQ : ∀ p, P p → Q p) : OnlyG d Q a b :=
  ⟨h.banks, fun r p hp hr => h.g r p hp fun ⟨hd, hP⟩ => hr ⟨hd, hPQ p hP⟩, h.v, h.m⟩

theorem OnlyG.foldl {α : Type} {f : Arch → α → Arch} {l : List α} (h : ∀ x ∈ l, ∀ a, OnlyG d P a (f a x)) (a : Arch) :
    OnlyG d P a (l.foldl f a) := by
  induction l generalizing a with
  | nil => exact OnlyG.refl d P a
  | cons x l ih => exact (h x List.mem_cons_self a).trans (ih (fun y hy => h y (List.mem_cons_of_mem x hy)) _)

/-- Flags are free. -/
theorem OnlyG.withFlags (h : OnlyG d P a b) (fm : Word) : OnlyG d P a { b with fmode := fm } :=
  h.trans ⟨Banks.fmode b fm, fun _ _ _ _ => rfl, fun _ _ => rfl, fun _ => rfl⟩

theorem OnlyG.setG (a : Arch) (d : Reg) {p : Nat} (hp : p ≤ 2) (w : Word) : OnlyG d (· = p) a (a.setG p d w) where
  banks := Banks.setG a p d w
  g r q hq hr := by rw [gp_setG a hp hq, if_neg (by tauto)]
  v q r := vp_setG a p q d r w
  m r := by
    obtain ⟨g, g1, g2, h⟩ := setG_frame a p d w
    rw [h]
    rfl

theorem OnlyG.keeps (h : OnlyG d P a b) : a.Keeps b (fun r p => r = d ∧ P p) NoReg NoMask :=
  Banks.keeps h.banks h.g (fun r p _ _ => h.v p r) (fun r _ => h.m r)

end

theorem OnlyG.putInt (a : Arch) {ps : List Nat} (hps : ∀ p ∈ ps, p ≤ 2) (d : Reg) (w : Word) :
    OnlyG d (fun p => p = 0 ∨ p ∈ ps) a (a.putInt ps d w) :=
  ((OnlyG.setG a d (by decide) w).mono fun _ => .inl).trans
    (OnlyG.foldl (fun p hp a => (OnlyG.setG a d (hps p hp) 0).mono fun _ hq => .inr (hq ▸ hp)) _)

theorem gp_zero_reg (a : Arch) (p : Nat) : a.gp p 0 = 0 := by
  simp only [Arch.gp, if_true]

section

variable (a : Arch) {ps : List Nat} (hps : ∀ p ∈ ps, 1 ≤ p ∧ p ≤ 2) (d : Reg) (w : Word)

include hps

theorem putInt_gp_zero : (a.putInt ps d w).gp 0 d = if d = 0 then 0 else w := by
  rw [gp_putInt a ps hps d d (by decide)]
  by_cases hd : d = 0
  · rw [if_neg (by tauto), if_pos hd, hd, gp_zero_reg]
  · rw [if_pos ⟨rfl, hd, .inl rfl⟩, if_pos rfl, if_neg hd]

theorem putInt_gp_plane {p : Nat} (hp : p ∈ ps) : (a.putInt ps d w).gp p d = 0 := by
  obtain ⟨h1, h2⟩ := hps p hp
  rw [gp_putInt a ps hps d d h2]
  by_cases hd : d = 0
  · rw [if_neg (by tauto), hd, gp_zero_reg]
  · rw [if_pos ⟨rfl, hd, .inr hp⟩, if_neg (by omega)]

end

/-! ### A primal code and one code for each plane, with their flags -/

/-- The primal of g[d] set to `prim` and each of the planes `ps` to `c`. -/
def putFs (a : Arch) (ps : List Nat) (d : Reg) (prim : Nat × Flags) (c : Nat → Nat × Flags) : Arch :=
  ps.foldl (fun a p => a.putF p d (c p)) (a.putF 0 d prim)

theorem OnlyG.putF (a : Arch) (d : Reg) {p : Nat} (hp : p ≤ 2) (c : Nat × Flags) : OnlyG d (· = p) a (a.putF p d c) :=
  (OnlyG.setG a d hp _).withFlags _

theorem putF_gp_same (a : Arch) (d : Reg) {p : Nat} (hp : p ≤ 2) (c : Nat × Flags) :
    (a.putF p d c).gp p d = if d = 0 then 0 else BitVec.ofNat 64 c.1 := gp_setG_same a hp d _

theorem putF_fmode (a : Arch) (d : Reg) (p : Nat) (c : Nat × Flags) : (a.putF p d c).fmode = orFlags a.fmode c.2 := by
  obtain ⟨g, g1, g2, h⟩ := setG_frame a p d (BitVec.ofNat 64 c.1)
  simp only [Arch.putF, h]

section

variable (a : Arch) {ps : List Nat} (hps : ∀ p ∈ ps, 1 ≤ p ∧ p ≤ 2) (d : Reg) (prim : Nat × Flags) (c : Nat → Nat × Flags)

include hps

theorem foldl_putF_only : OnlyG d (· ∈ ps) a (ps.foldl (fun a p => a.putF p d (c p)) a) :=
  OnlyG.foldl (fun p hp a => (OnlyG.putF a d (hps p hp).2 (c p)).mono fun _ hq => hq ▸ hp) a

theorem putFs_only : OnlyG d (fun p => p = 0 ∨ p ∈ ps) a (putFs a ps d prim c) :=
  ((OnlyG.putF a d (by decide) prim).mono fun _ => .inl).trans ((foldl_putF_only _ hps d c).mono fun _ => .inr)

theorem putFs_gp_zero : (putFs a ps d prim c).gp 0 d = if d = 0 then 0 else BitVec.ofNat 64 prim.1 := by
  have h0 : 0 ∉ ps := fun h => absurd (hps 0 h).1 (by decide)
  rw [putFs, (foldl_putF_only _ hps d c).g d 0 (by decide) fun h => h0 h.2, putF_gp_same a d (by decide)]

theorem foldl_putF_gp {p : Nat} (hp : p ∈ ps) :
    (ps.foldl (fun a p => a.putF p d (c p)) a).gp p d = if d = 0 then 0 else BitVec.ofNat 64 (c p).1 := by
  induction ps generalizing a with
  | nil => cases hp
  | cons q ps ih =>
    have hps' (r : Nat) (hr : r ∈ ps) : 1 ≤ r ∧ r ≤ 2 := hps r (List.mem_cons_of_mem q hr)
    have hle := hps q List.mem_cons_self
    rw [List.foldl_cons]
    by_cases hin : p ∈ ps
    · exact ih _ hps' hin
    · obtain rfl : p = q := (List.mem_cons.mp hp).resolve_right hin
      rw [(foldl_putF_only _ hps' d c).g d p hle.2 fun h => hin h.2, putF_gp_same a d hle.2]

omit hps in
theorem putFs_fmode : (putFs a ps d prim c).fmode = ps.foldl (fun w p => orFlags w (c p).2) (orFlags a.fmode prim.2) := by
  have hfold (b : Arch) : (ps.foldl (fun a p => a.putF p d (c p)) b).fmode = ps.foldl (fun w p => orFlags w (c p).2) b.fmode := by
    induction ps generalizing b with
    | nil => rfl
    | cons p ps ih => rw [List.foldl_cons, List.foldl_cons, ih, putF_fmode]
  rw [putFs, hfold, putF_fmode]

end

/-! ### Results that are ready later -/

theorem mset_mset {α : Type} (m : AMap α) (k : Nat) (v w : α) : mset (mset m k v) k w = mset m k w := by
  induction m with
  | nil => simp [mset]
  | cons p m ih =>
    obtain ⟨j, x⟩ := p
    rw [mset, mset]
    by_cases h1 : k < j
    · simp [h1, mset]
    · by_cases h2 : k = j
      · simp [h2, mset]
      · simp [h1, h2, mset, ih]

theorem upMe_upMe (s : State) (f g : TSet → TSet) : (s.upMe f).upMe g = s.upMe (fun t => g (f t)) := by
  have hf : (s.upT s.cur f).t s.cur = f (s.t s.cur) := upT_at_same s s.cur f
  unfold State.upMe
  rw [upT_cur, State.upT, hf]
  unfold State.setT State.upT State.setT
  rw [mset_mset]

/-- A change of the banks that completes with a result that is ready later. -/
theorem regStep_long {s : State} (hs : s.stepping = false) (f : Arch → Arch) (k : List Busy → List Busy) (len extra lat : Nat)
    (b : List (Nat × Nat)) {d : Reg} (hf : OnlyG d (fun p => p = 0 ∨ p ∈ s.me.dual) s.me.a (f s.me.a)) :
    s.RegStep (((s.upRegs f k).retire len extra).longAfter s.me lat b) len (s.Dest d) NoReg NoMask ∧
      (∀ p, (((s.upRegs f k).retire len extra).longAfter s.me lat b).me.a.gp p d = (f s.me.a).gp p d) ∧
      (((s.upRegs f k).retire len extra).longAfter s.me lat b).me.a.fmode = (f s.me.a).fmode := by
  obtain ⟨hstep, hg, -, -, hfm, -⟩ := regStep_banks s f k len extra (G := s.Dest d) hs hf.banks hf.keeps
  obtain ⟨ha, -⟩ := longAfter_spec ((s.upRegs f k).retire len extra) s.me lat b
  exact ⟨hstep.long s.me lat b, fun p => by rw [ha, hg], by rw [ha, hfm]⟩

/-- `fpRes`: the primal code, a rounded tangent in each plane acted on, and the flags of all of them. -/
theorem fpRes_completes {s : State} (hs : s.stepping = false) (len lat : Nat) (p : BitVec 2) (d : Reg) (prim : Nat × Flags)
    (tan : Nat → XR × Flags) :
    ∃ t, fpRes len lat p d (prim, tan) s = .next t ∧ t.me.a.gp 0 d = (if d = 0 then 0 else BitVec.ofNat 64 prim.1) ∧
      (∀ q ∈ s.me.dual, t.me.a.gp q d =
        if d = 0 then 0 else BitVec.ofNat 64 ((fpFmt p).round (rmOf s) 0 (tan q).1).1) ∧
      t.me.a.fmode = fmodeAfter s prim.2 (fun q => (tan q).2 ||| ((fpFmt p).round (rmOf s) 0 (tan q).1).2) ∧
      s.RegStep t len (s.Dest d) NoReg NoMask := by
  let c (q : Nat) : Nat × Flags := rnd (fpFmt p) s.me.rm (tan q)
  have hle : ∀ q ∈ s.me.dual, 1 ≤ q ∧ q ≤ 2 := dual_le s.me
  obtain ⟨hstep, hg, hfm⟩ := regStep_long hs (fun a => putFs a s.me.dual d prim c) id len
    (s.upA (fun a => putFs a s.me.dual d prim c)).me.dual.length lat [(0, d.toNat)] (putFs_only s.me.a hle d prim c)
  refine ⟨_, rfl, (hg 0).trans (putFs_gp_zero s.me.a hle d prim c), fun q hq => (hg q).trans (foldl_putF_gp _ hle d c hq), ?_, hstep⟩
  exact hfm.trans (putFs_fmode s.me.a d prim c)

/-- `fpInt`: a word, zero in the planes acted on, and flags. -/
theorem fpInt_completes {s : State} (hs : s.stepping = false) (len : Nat) (d : Reg) (w : Word) (f : Flags) :
    ∃ t, fpInt len d w f s = .next t ∧ t.me.a.gp 0 d = (if d = 0 then 0 else w) ∧ (∀ q ∈ s.me.dual, t.me.a.gp q d = 0) ∧
      t.me.a.fmode = orFlags s.me.a.fmode f ∧ s.RegStep t len (s.Dest d) NoReg NoMask := by
  let write (a : Arch) : Arch := { a.putInt s.me.dual d w with fmode := orFlags (a.putInt s.me.dual d w).fmode f }
  let fresh (l : List Busy) : List Busy :=
    l.filter (fun b => b.due.isNone || !([(0, d.toNat)] : List (Nat × Nat)).contains (b.cls, b.r))
  have hupd : (s.putInt d w).upA (fun a => { a with fmode := orFlags a.fmode f }) = s.upRegs write fresh := upMe_upMe s _ _
  obtain ⟨g, g1, g2, hput⟩ := putInt_others s.me.a s.me.dual d w
  obtain ⟨hstep, hg, hfm⟩ := regStep_long hs write fresh len (s.upRegs write fresh).me.dual.length 2 [(0, d.toNat)]
    ((OnlyG.putInt s.me.a (fun p hp => (dual_le s.me p hp).2) d w).withFlags _)
  have hexec : fpInt len d w f s = .next (((s.upRegs write fresh).doneD len).longAfter s.me 2 [(0, d.toNat)]) := by
    rw [fpInt, hupd]
  refine ⟨_, hexec, (hg 0).trans (putInt_gp_zero s.me.a (dual_le s.me) d w), fun q hq => ?_, ?_, hstep⟩
  · exact (hg q).trans (putInt_gp_plane s.me.a (dual_le s.me) d w hq)
  · exact hfm.trans (congrArg (orFlags · f) (by rw [hput]))

/-! ### Results that are rounded once (05 R92, R96) -/

/-- A fused sum carries the flags of its product and of its sum. -/
theorem fadd2_xmul (rm : Nat) (x y d : XR) : fadd2 rm (xmul x y) (exact d) = xfma (rm == 3) x y d := by
  unfold fadd2 exact xfma
  have h0 : (xmul x y).2 ||| (0 : Flags) = (xmul x y).2 := BitVec.or_zero
  dsimp only
  rw [h0]

theorem foFma_fst (neg sub : Bool) (f : Fmt) (rm : Nat) (x y d : FArg) :
    (foFma neg sub f rm x y d).1 =
      rnd f rm ((if neg then fneg1 else id) (xfma (rm == 3) x.val y.val (if sub then xneg d.val else d.val))) := by
  unfold foFma
  dsimp only
  rw [fadd2_xmul]
  cases neg <;> rfl

/-- `o` is the result of `r`, rounded. -/
def Rounds (s : State) (r : FRound) (o : Out) : Prop :=
  ∃ lat p, r.fmt = fpFmt p ∧ o = fpRes r.len lat p r.d (rnd r.fmt s.me.rm r.x, r.tan) s

theorem Rounds.of_fpOp {s : State} {fo : Fmt → Nat → FArg → FArg → FArg → FRes} {len l32 l64 : Nat} {p : BitVec 2} {d a : Reg} {b : FArg}
    {x : XR × Flags} (h : (fo (fpFmt p) s.me.rm (s.farg p a) b (s.farg p d)).1 = rnd (fpFmt p) s.me.rm x) :
    Rounds s ⟨d, len, fpFmt p, x, (fo (fpFmt p) s.me.rm (s.farg p a) b (s.farg p d)).2⟩ (fpOp fo len l32 l64 p d a b s) :=
  ⟨_, p, rfl, by rw [← h]; rfl⟩

theorem exec_rounds {i : Instr} {s : State} {r : FRound} (h : fpRounded i s = some r) : Rounds s r (exec i s) := by
  cases i
  case fadd | faddLit | fsub | fsubLit | fmul | fmulLit | fdiv | fdivLit | fsqrt => cases h; exact .of_fpOp rfl
  case fmadd | fmaddLit | fmsub | fmsubLit | fnmadd | fnmaddLit => cases h; exact .of_fpOp (foFma_fst ..)
  case fcvtfS d a p => cases h; exact ⟨2, p, rfl, rfl⟩
  case fcvtfZ d a p => cases h; exact ⟨2, p, rfl, rfl⟩
  case fcvtp d a p => cases h; exact ⟨2, p, rfl, rfl⟩
  all_goals cases h

/-- Settles O2: every such instruction is `fpRes` of the rounded exact value and of the exact tangents. -/
theorem floatRoundedResults : Obligations.FloatRoundedResults := by
  unfold Obligations.FloatRoundedResults
  intro i s r h hs
  obtain ⟨lat, p, hp, he⟩ := exec_rounds h
  obtain ⟨t, ht, hd, hplane, hfm, hstep⟩ := fpRes_completes hs r.len lat p r.d (rnd r.fmt s.me.rm r.x) r.tan
  rw [← hp] at hplane hfm
  exact ⟨t, he.trans ht, hd, hplane, hfm, hstep⟩

/-! ### Words and codes that are not rounded (05 R93-R95) -/

theorem exec_toWord {i : Instr} {s : State} {d : Reg} {len : Nat} {w : Word} {f : Flags} (h : fpToWord i s = some (d, len, w, f)) :
    exec i s = fpInt len d w f s := by
  cases i
  case feq | feqLit | flt | fltLit | fle | fleLit | fclass => cases h; rfl
  case fcvtS d a p => cases h; rfl
  case fcvtZ d a p => cases h; rfl
  case fcvtSt d a p => cases h; rfl
  all_goals cases h

/-- `o` writes the code `c`, with no flag, and the rounded tangents. -/
def MovesCode (s : State) (d : Reg) (len : Nat) (f : Fmt) (c : Nat) (tan : Nat → XR) (o : Out) : Prop :=
  ∃ lat p, f = fpFmt p ∧ o = fpRes len lat p d ((c, 0), fun q => exact (tan q)) s

theorem MovesCode.of_minmax {s : State} (mx : Bool) (len : Nat) (p : BitVec 2) (d a : Reg) (b : FArg) :
    let r := (fpFmt p).minmax mx (s.farg p a).code b.code
    MovesCode s d len (fpFmt p) r.1 (fun q => if r.2 = 1 then (s.farg p a).tan q else if r.2 = 2 then b.tan q else .zero false)
      (fpOp (foMinmax mx) len 2 2 p d a b s) := ⟨_, p, rfl, rfl⟩

/-- The sign of a code. -/
def codeSign (f : Fmt) (c : Nat) : Bool := decide (c / 2 ^ (f.eb + f.mb) % 2 = 1)

theorem MovesCode.of_sgn {s : State} (sg : Bool → Bool → Bool) (len : Nat) (p : BitVec 2) (d a : Reg) (b : FArg) :
    let f := fpFmt p
    let x := s.farg p a
    let r := sg (codeSign f x.code) (codeSign f b.code)
    MovesCode s d len f (x.code % 2 ^ (f.eb + f.mb) + (if r then 2 ^ (f.eb + f.mb) else 0))
      (fun q => if r = codeSign f x.code then x.tan q else xneg (x.tan q)) (fpOp (foSgn sg) len 2 2 p d a b s) := by
  intro f x r
  have hcode : f.signed r (x.code % 2 ^ (f.eb + f.mb)) = x.code % 2 ^ (f.eb + f.mb) + (if r then 2 ^ (f.eb + f.mb) else 0) := by
    unfold Fmt.signed
    cases r <;> rfl
  exact ⟨latP p 2 2, p, rfl, by rw [← hcode]; rfl⟩

theorem exec_movesCode {i : Instr} {s : State} {d : Reg} {len : Nat} {f : Fmt} {c : Nat} {tan : Nat → XR}
    (h : fpMoved i s = some (d, len, f, c, tan)) : MovesCode s d len f c tan (exec i s) := by
  cases i
  case fmin | fminLit | fmax | fmaxLit => cases h; exact MovesCode.of_minmax ..
  case fsgnj | fsgnjLit | fsgnjn | fsgnjnLit | fsgnjx | fsgnjxLit => cases h; exact MovesCode.of_sgn ..
  all_goals cases h

/-- Settles O3: the words are `fpInt`'s, and the codes chosen or moved are `fpRes`'s with no flag of their own. -/
theorem floatComparedAndMoved : Obligations.FloatComparedAndMoved := by
  unfold Obligations.FloatComparedAndMoved
  refine ⟨fun i s d len w f h hs => ?word, fun i s d len f c tan h hs => ?moved⟩
  case word => exact exec_toWord h ▸ fpInt_completes hs len d w f
  case moved =>
    obtain ⟨lat, p, rfl, he⟩ := exec_movesCode h
    obtain ⟨t, ht, hd, hplane, hfm, hstep⟩ := fpRes_completes hs len lat p d (c, 0) (fun q => exact (tan q))
    have hflags (q : Nat) : (exact (tan q)).2 ||| ((fpFmt p).round (rmOf s) 0 (tan q)).2 = ((fpFmt p).round (rmOf s) 0 (tan q)).2 :=
      BitVec.zero_or
    refine ⟨t, he.trans ht, hd, hplane, ?_, hstep⟩
    rw [hfm]
    exact congrArg (fmodeAfter s 0) (funext hflags)

end Sys2Proof.Claims
end

section
/-! # Masks, extracts and reductions

Each of them writes one m register or one g register. -/

namespace Sys2Proof.Claims

open Sys2Proof.Machine

/-! ### One mask register -/

theorem mp_setM (a : Arch) (d r : BitVec 3) (w : Word) : (a.setM d w).mp r = if r = d ∧ d ≠ 0 then w else a.mp r := by
  unfold Arch.setM
  by_cases hd : d = 0
  · rw [if_pos hd, if_neg (by tauto)]
  · rw [if_neg hd]
    unfold Arch.mp
    by_cases hr : r = 0
    · rw [if_pos hr, if_pos hr, if_neg (by rintro ⟨rfl, h⟩; exact h hr)]
    · rw [if_neg hr, if_neg hr]
      by_cases hrd : r = d
      · subst hrd
        rw [if_pos ⟨rfl, hd⟩]
        simp
      · have hne : d.toNat ≠ r.toNat := fun h => hrd (BitVec.eq_of_toNat_eq h.symm)
        simp [hrd, hne]

theorem setM_frame (a : Arch) (d : BitVec 3) (w : Word) : ∃ m, a.setM d w = { a with m := m } := by
  unfold Arch.setM
  split
  · exact ⟨a.m, rfl⟩
  · exact ⟨_, rfl⟩

/-- A write of m[d], and of the flags, keeps everything else. -/
theorem setM_keeps (a : Arch) (d : BitVec 3) (w fm : Word) :
    a.Banks { a.setM d w with fmode := fm } ∧ a.Keeps { a.setM d w with fmode := fm } NoReg NoReg (fun r => r = d) := by
  have hb : a.Banks { a.setM d w with fmode := fm } := Banks.trans (Banks.setM a d w) (Banks.fmode _ fm)
  obtain ⟨m, hm⟩ := setM_frame a d w
  refine ⟨hb, Banks.keeps hb (fun r p _ _ => ?_) (fun r p _ _ => ?_) (fun r hr => ?_)⟩
  · rw [hm]; rfl
  · rw [hm]; rfl
  · exact (mp_setM a d r w).trans (if_neg (by tauto))

/-! ### Compares (06 R120) -/

/-- The mask of the lanes `l` whose comparison holds. -/
def maskOf (holds : Nat → Bool) (l : List Nat) : Nat := l.foldl (fun x i => if holds i then x + 2 ^ i else x) 0

theorem maskOf_testBit (holds on : Nat → Bool) (n : Nat) : maskOf holds (activeBelow on n) < 2 ^ n ∧
    ∀ k, (maskOf holds (activeBelow on n)).testBit k = (decide (k < n) && on k && holds k) := by
  induction n with
  | zero => exact ⟨Nat.zero_lt_one, fun k => by simp [maskOf, activeBelow]⟩
  | succ n ih =>
    obtain ⟨hlt, hbit⟩ := ih
    have hlast : maskOf holds (activeBelow on (n + 1)) =
        2 ^ n * (if on n && holds n then 1 else 0) + maskOf holds (activeBelow on n) := by
      rw [maskOf, activeBelow_succ, List.foldl_append]
      cases on n <;> cases h : holds n <;> simp [maskOf, h, Nat.add_comm]
    rw [hlast]
    refine ⟨by rw [Nat.pow_succ]; split <;> omega, fun k => ?_⟩
    rw [Nat.testBit_two_pow_mul_add _ hlt, hbit]
    rcases Nat.lt_trichotomy k n with hk | rfl | hk
    · rw [if_pos hk, decide_eq_true hk, decide_eq_true (Nat.lt_succ_of_lt hk)]
    · rw [if_neg (lt_irrefl k), decide_eq_true (Nat.lt_succ_self k), Nat.sub_self]
      cases on k <;> cases holds k <;> rfl
    · rw [if_neg hk.not_gt, decide_eq_false (by omega), Nat.testBit_lt_two_pow (lt_of_lt_of_le ?_ (Nat.one_lt_two_pow (by omega)))]
      · simp
      · split <;> decide

theorem vcmp_compares (fc : XR → XR → Bool) (ic : Int → Int → Bool) (ord : Bool) (d : BitVec 3) (a b : Reg) (m t : BitVec 3) {s : State}
    (hd : d ≠ 0) (hs : s.stepping = false) :
    ∃ u, vcmp fc ic ord d a b m t s = .next u ∧ Compares s u fc ic ord d a b m t := by
  let holds (i : Nat) : Bool :=
    if t.toNat < 3 then fc (floatLane s 0 a t i) (floatLane s 0 b t i) else ic (intLane s a t i) (intLane s b t i)
  let nv : Bool := ord && decide (t.toNat < 3) &&
    (onLanes s m t).any (fun i => (floatLane s 0 a t i).isNan || (floatLane s 0 b t i).isNan)
  let r : Word := BitVec.ofNat 64 (maskOf holds (onLanes s m t))
  let f (x : Arch) : Arch := { x.setM d r with fmode := orFlags x.fmode (if nv then fNV else 0) }
  obtain ⟨hb, hk⟩ := setM_keeps s.me.a d r (orFlags s.me.a.fmode (if nv then fNV else 0))
  obtain ⟨u, hu, hstep, -, -, hm, hfm, -⟩ := vecDone_spec 2 2 d.toNat f s hs hb hk
  refine ⟨u, hu, fun k hk64 => ?_, hfm.trans ?_, hstep⟩
  · have hmask : u.me.a.mp d = r := (hm d).trans ((mp_setM s.me.a d d r).trans (if_pos ⟨rfl, hd⟩))
    have hon : onLanes s m t = activeBelow (s.me.a.mp m).getLsbD (tLanes t.toNat) := active_eq ..
    rw [hmask, BitVec.getLsbD_ofNat, decide_eq_true hk64, Bool.true_and, hon, (maskOf_testBit holds _ _).2]
  · have hnv : nv = true ↔ ord = true ∧ t.toNat < 3 ∧
        ∃ k ∈ onLanes s m t, (floatLane s 0 a t k).isNan = true ∨ (floatLane s 0 b t k).isNan = true := by
      simp only [nv, Bool.and_eq_true, decide_eq_true_eq, List.any_eq_true, Bool.or_eq_true, and_assoc]
    exact congrArg (orFlags s.me.a.fmode) (by simp only [hnv])

theorem maskOp_completes {s : State} (hs : s.stepping = false) (d : BitVec 3) (hd : d ≠ 0) (w : Word) :
    ∃ u, maskOp d w s = .next u ∧ u.me.a.mp d = w ∧ u.me.a.fmode = s.me.a.fmode ∧ s.RegStep u 4 NoReg NoReg (fun r => r = d) := by
  obtain ⟨m, hm⟩ := setM_frame s.me.a d w
  obtain ⟨hb, hk⟩ := setM_keeps s.me.a d w (s.me.a.setM d w).fmode
  obtain ⟨hstep, -, -, hmp, hfm, -⟩ := regStep_banks s (fun a => a.setM d w)
    (fun l => l.filter (fun b => b.due.isNone || !([(2, d.toNat)] : List (Nat × Nat)).contains (b.cls, b.r))) 4 0 hs hb hk
  exact ⟨_, rfl, (hmp d).trans ((mp_setM s.me.a d d w).trans (if_pos ⟨rfl, hd⟩)), hfm.trans (by rw [hm]), hstep⟩

/-! ### Results in a g register (06 R121, R134, R135) -/

/-- `vecDone` where g[d] alone is written. -/
theorem vecDone_scalar {s : State} (hs : s.stepping = false) (lat : Nat) {d : Reg} {f : Arch → Arch}
    (hf : OnlyG d (fun p => p = 0 ∨ p ∈ s.me.dual) s.me.a (f s.me.a)) :
    ∃ u, vecDone lat 0 d.toNat f s = .next u ∧ s.RegStep u 4 (s.Dest d) NoReg NoMask ∧ (∀ p, u.me.a.gp p d = (f s.me.a).gp p d) ∧
      u.me.a.fmode = (f s.me.a).fmode := by
  obtain ⟨u, hu, hstep, hg, -, -, hfm, -⟩ := vecDone_spec lat 0 d.toNat f s hs hf.banks (G := s.Dest d) hf.keeps
  exact ⟨u, hu, hstep, fun p => hg p d, hfm⟩

/-- An integer result: the word, zero in the planes acted on, no flag. -/
theorem vecDone_putInt {s : State} (hs : s.stepping = false) (lat : Nat) (d : Reg) (w : Word) :
    ∃ u, vecDone lat 0 d.toNat (fun a => a.putInt s.me.dual d w) s = .next u ∧ u.me.a.gp 0 d = (if d = 0 then 0 else w) ∧
      (∀ p ∈ s.me.dual, u.me.a.gp p d = 0) ∧ u.me.a.fmode = s.me.a.fmode ∧ s.RegStep u 4 (s.Dest d) NoReg NoMask := by
  obtain ⟨g, g1, g2, hput⟩ := putInt_others s.me.a s.me.dual d w
  obtain ⟨u, hu, hstep, hg, hfm⟩ := vecDone_scalar hs lat (f := fun a => a.putInt s.me.dual d w)
    (OnlyG.putInt s.me.a (dual_le_two s.me) d w)
  exact ⟨u, hu, (hg 0).trans (putInt_gp_zero s.me.a (dual_le s.me) d w),
    fun p hp => (hg p).trans (putInt_gp_plane s.me.a (dual_le s.me) d w hp), hfm.trans (by rw [hput]), hstep⟩

/-- A float result: a code in the primal and in each plane acted on, with the flags of all of them. -/
theorem vecDone_putFs {s : State} (hs : s.stepping = false) (lat : Nat) (d : Reg) (prim : Nat × Flags) (c : Nat → Nat × Flags) :
    ∃ u, vecDone lat 0 d.toNat (fun a => putFs a s.me.dual d prim c) s = .next u ∧
      u.me.a.gp 0 d = (if d = 0 then 0 else BitVec.ofNat 64 prim.1) ∧
      (∀ p ∈ s.me.dual, u.me.a.gp p d = if d = 0 then 0 else BitVec.ofNat 64 (c p).1) ∧
      u.me.a.fmode = fmodeAfter s prim.2 (fun p => (c p).2) ∧ s.RegStep u 4 (s.Dest d) NoReg NoMask := by
  obtain ⟨u, hu, hstep, hg, hfm⟩ := vecDone_scalar hs lat (f := fun a => putFs a s.me.dual d prim c)
    (putFs_only s.me.a (dual_le s.me) d prim c)
  exact ⟨u, hu, (hg 0).trans (putFs_gp_zero s.me.a (dual_le s.me) d prim c),
    fun p hp => (hg p).trans (foldl_putF_gp _ (dual_le s.me) d c hp), hfm.trans (putFs_fmode s.me.a d prim c), hstep⟩

/-- Writes of planes of one g register change the banks of g alone. -/
theorem foldl_setG_frame (ps : List Nat) (d : Reg) (w : Nat → Word) (a : Arch) :
    ∃ g g1 g2, ps.foldl (fun x p => x.setG p d (w p)) a = { a with g := g, gd1 := g1, gd2 := g2 } := by
  induction ps generalizing a with
  | nil => exact ⟨a.g, a.gd1, a.gd2, rfl⟩
  | cons p ps ih =>
    obtain ⟨x, x1, x2, hset⟩ := setG_frame a p d (w p)
    obtain ⟨g, g1, g2, hfold⟩ := ih (a.setG p d (w p))
    exact ⟨g, g1, g2, by rw [List.foldl_cons, hfold, hset]⟩

theorem execVext_completes (d a b : Reg) (t : BitVec 3) {s : State} (hs : s.stepping = false) :
    let j := (s.g b).toNat % tLanes t.toNat
    let prim : Word := if tSigned t.toNat then BitVec.ofInt 64 (intLane s a t j)
      else BitVec.ofNat 64 (lane (s.me.a.vp 0 a) (tWidth t.toNat) j)
    ∃ u, execVext d a b t s = .next u ∧ u.me.a.gp 0 d = (if d = 0 then 0 else prim) ∧
      (∀ p ∈ s.me.dual, u.me.a.gp p d =
        (if d = 0 then 0 else BitVec.ofNat 64 (movedTan t.toNat (lane (s.me.a.vp p a) (tWidth t.toNat) j)))) ∧
      u.me.a.fmode = s.me.a.fmode ∧ s.RegStep u 4 (s.Dest d) NoReg NoMask := by
  intro j prim
  let tan (p : Nat) : Word := BitVec.ofNat 64 (movedTan t.toNat (lane (s.me.a.vp p a) (tWidth t.toNat) j))
  let f (x : Arch) : Arch := s.me.dual.foldl (fun x p => x.setG p d (tan p)) (x.setG 0 d prim)
  have hle := dual_le_two s.me
  have h0 : 0 ∉ s.me.dual := fun h => absurd (dual_le s.me 0 h).1 (by decide)
  have hplanes (x : Arch) : OnlyG d (· ∈ s.me.dual) x (s.me.dual.foldl (fun x p => x.setG p d (tan p)) x) :=
    OnlyG.foldl (fun p hp x => (OnlyG.setG x d (hle p hp) _).mono fun _ hq => hq ▸ hp) x
  have hfm : (f s.me.a).fmode = s.me.a.fmode := by
    obtain ⟨x, x1, x2, hset⟩ := setG_frame s.me.a 0 d prim
    obtain ⟨g, g1, g2, hfold⟩ := foldl_setG_frame s.me.dual d tan (s.me.a.setG 0 d prim)
    exact (congrArg Arch.fmode hfold).trans (by rw [hset])
  obtain ⟨u, hu, hstep, hg, hfm'⟩ := vecDone_scalar hs 2 (f := f)
    (((OnlyG.setG s.me.a d (by decide) prim).mono fun _ => .inl).trans ((hplanes _).mono fun _ => .inr))
  refine ⟨u, hu, (hg 0).trans ?_, fun p hp => (hg p).trans ?_, hfm'.trans hfm, hstep⟩
  · rw [(hplanes _).g d 0 (by decide) fun h => h0 h.2, gp_setG_same _ (by decide)]
  · rw [gp_foldl_setG s.me.dual hle _ d d (hle p hp)]
    by_cases hd : d = 0
    · rw [if_neg (by tauto), if_pos hd, hd, gp_zero_reg]
    · rw [if_pos ⟨rfl, hp, hd⟩, if_neg hd]

/-! ### The largest and the smallest lane (06 R134) -/

/-- The least and the greatest integer of a type. -/
def tLeast (t : Nat) : Int := if tSigned t then -(2 ^ (tWidth t - 1)) else 0
def tGreatest (t : Nat) : Int := if tSigned t then 2 ^ (tWidth t - 1) - 1 else 2 ^ tWidth t - 1

theorem tInt_bounds {t x : Nat} (ht : 3 ≤ t) (hx : x < 2 ^ tWidth t) : tLeast t ≤ tInt t x ∧ tInt t x ≤ tGreatest t := by
  have hw : 1 ≤ tWidth t := by
    unfold tWidth
    split <;> decide
  have hpow : 2 ^ tWidth t = 2 * 2 ^ (tWidth t - 1) := by rw [← Nat.pow_succ', Nat.succ_eq_add_one, Nat.sub_add_cancel hw]
  have hpowZ : (2 : Int) ^ tWidth t = 2 * 2 ^ (tWidth t - 1) := by exact_mod_cast hpow
  have hcast : ((2 ^ (tWidth t - 1) : Nat) : Int) = 2 ^ (tWidth t - 1) := by push_cast; rfl
  unfold tLeast tGreatest tInt
  dsimp only
  rw [hpowZ]
  cases tSigned t <;> simp only [Bool.false_and, Bool.true_and, decide_eq_true_eq, if_true, if_false, Bool.false_eq_true] <;>
    (try split) <;> omega

theorem foldl_max_of_le {lo : Int} (xs : List Int) (h : ∀ x ∈ xs, lo ≤ x) :
    xs.foldl max lo = match xs with | [] => lo | x :: xs => xs.foldl max x := by
  cases xs with
  | nil => rfl
  | cons x xs => rw [List.foldl_cons, max_eq_right (h x List.mem_cons_self)]

theorem foldl_min_of_le {hi : Int} (xs : List Int) (h : ∀ x ∈ xs, x ≤ hi) :
    xs.foldl min hi = match xs with | [] => hi | x :: xs => xs.foldl min x := by
  cases xs with
  | nil => rfl
  | cons x xs => rw [List.foldl_cons, min_eq_right (h x List.mem_cons_self)]

theorem chooseF_eq_none {f : Fmt} {mx : Bool} {xs : List (Nat × Nat)} (h : chooseF f mx xs = none) : xs = [] := by
  cases xs with
  | nil => rfl
  | cons x xs => cases h

theorem extremeInt_eq (mx : Bool) (s : State) (a : Reg) (m t : BitVec 3) (ht : 3 ≤ t.toNat) :
    (if mx then ((onLanes s m t).map (intLane s a t)).foldl max (tLeast t.toNat)
      else ((onLanes s m t).map (intLane s a t)).foldl min (tGreatest t.toNat)) = extremeInt mx s a m t := by
  have hb : ∀ x ∈ (onLanes s m t).map (intLane s a t), tLeast t.toNat ≤ x ∧ x ≤ tGreatest t.toNat := by
    intro x hx
    obtain ⟨i, -, rfl⟩ := List.mem_map.mp hx
    exact tInt_bounds ht (wbits_lt ..)
  unfold extremeInt
  dsimp only
  generalize (onLanes s m t).map (intLane s a t) = xs at hb ⊢
  cases mx
  · rw [if_neg (by decide), foldl_min_of_le xs fun x hx => (hb x hx).2]
    cases xs <;> rfl
  · rw [if_pos rfl, foldl_max_of_le xs fun x hx => (hb x hx).1]
    cases xs <;> rfl

theorem vredMinmax_extreme (mx : Bool) (d a : Reg) (m t : BitVec 3) {s : State} (hs : s.stepping = false) :
    ∃ u, vredMinmax mx d a m t s = .next u ∧ Extreme mx s u d a m t := by
  have hlanes : (active (s.me.a.mp m) (tLanes t.toNat)) = onLanes s m t := rfl
  by_cases ht : t.toNat < 3
  · cases hc : chooseF (tFmt t.toNat) mx ((onLanes s m t).map (fun i => (i, lane (s.me.a.vp 0 a) (tWidth t.toNat) i))) with
    | none =>
      obtain ⟨u, hu, hd, hplane, -, hstep⟩ := vecDone_putInt hs 6 d (if mx then 0xFF800000 else 0x7F800000)
      refine ⟨u, ?_, fun h => absurd ht (Nat.not_lt.mpr h), fun _ i c h => ?_, fun _ _ => hd, hstep⟩
      · unfold vredMinmax
        dsimp only
        rw [if_pos ht, hlanes, hc]
        exact hu
      · rw [hc] at h
        cases h
    | some x =>
      obtain ⟨i, c⟩ := x
      obtain ⟨u, hu, hd, hplane, -, hstep⟩ := vecDone_putFs hs 6 d (widenF (tFmt t.toNat) c)
        (fun p => widenF (tFmt t.toNat) (lane (s.me.a.vp p a) (tWidth t.toNat) i))
      refine ⟨u, ?_, fun h => absurd ht (Nat.not_lt.mpr h), fun _ j e h => ?_, fun _ h => ?_, hstep⟩
      · unfold vredMinmax
        dsimp only
        rw [if_pos ht, hlanes, hc]
        exact hu
      · rw [hc] at h
        cases h
        exact ⟨hd, hplane⟩
      · rw [h] at hc
        cases hc
  · obtain ⟨u, hu, hd, hplane, hfm, hstep⟩ := vecDone_putInt hs 6 d (BitVec.ofInt 64 (extremeInt mx s a m t))
    refine ⟨u, ?_, fun _ => ⟨hd, hplane, hfm⟩, fun h => absurd h ht, fun h => absurd h ht, hstep⟩
    unfold vredMinmax
    dsimp only
    rw [if_neg ht, ← hu, ← extremeInt_eq mx s a m t (Nat.not_lt.mp ht)]
    rfl

theorem execVredsum_completes (d a : Reg) (m t : BitVec 3) {s : State} (hs : s.stepping = false) :
    let sum (p : Nat) : XR × Flags := sumF s.me.rm ((onLanes s m t).map (floatLane s p a t))
    ∃ u, execVredsum d a m t s = .next u ∧
      (3 ≤ t.toNat → u.me.a.gp 0 d = (if d = 0 then 0 else
        BitVec.ofInt 64 (((onLanes s m t).map (intLane s a t)).foldl (· + ·) 0)) ∧
        (∀ p ∈ s.me.dual, u.me.a.gp p d = 0) ∧ u.me.a.fmode = s.me.a.fmode) ∧
      (t.toNat < 3 → u.me.a.gp 0 d = (if d = 0 then 0 else BitVec.ofNat 64 (F32.round (rmOf s) 0 (sum 0).1).1) ∧
        (∀ p ∈ s.me.dual, u.me.a.gp p d = (if d = 0 then 0 else BitVec.ofNat 64 (F32.round (rmOf s) 0 (sum p).1).1)) ∧
        u.me.a.fmode = fmodeAfter s ((sum 0).2 ||| (F32.round (rmOf s) 0 (sum 0).1).2)
          (fun p => (sum p).2 ||| (F32.round (rmOf s) 0 (sum p).1).2)) ∧
      s.RegStep u 4 (s.Dest d) NoReg NoMask := by
  intro sum
  by_cases ht : t.toNat < 3
  · obtain ⟨u, hu, hd, hplane, hfm, hstep⟩ := vecDone_putFs hs 6 d (rnd F32 s.me.rm (sum 0)) (fun p => rnd F32 s.me.rm (sum p))
    exact ⟨u, (if_pos ht).trans hu, fun h => absurd ht (Nat.not_lt.mpr h), fun _ => ⟨hd, hplane, hfm⟩, hstep⟩
  · obtain ⟨u, hu, hd, hplane, hfm, hstep⟩ :=
      vecDone_putInt hs 6 d (BitVec.ofInt 64 (((onLanes s m t).map (intLane s a t)).foldl (· + ·) 0))
    exact ⟨u, (if_neg ht).trans hu, fun _ => ⟨hd, hplane, hfm⟩, fun h => absurd h ht, hstep⟩

/-- A mask register that an instruction may name as its destination. -/
theorem maskDst_ne_zero {d : BitVec 3} (h : WellFormed.maskDst d = true) : d ≠ 0 := by
  rintro rfl
  exact absurd h (by decide)

/-- Settles O10: a compare or a mask operation writes m[d], the rest g[d], each by one completion. -/
theorem masksAndScalars : Obligations.MasksAndScalars := by
  unfold Obligations.MasksAndScalars
  refine ⟨fun d a b m t s hwf hs => vcmp_compares xeq (fun x y => decide (x = y)) false d a b m t (maskDst_ne_zero hwf) hs,
    fun d a b m t s hwf hs => vcmp_compares xlt (fun x y => decide (x < y)) true d a b m t (maskDst_ne_zero hwf) hs,
    fun d a b m t s hwf hs => vcmp_compares (fun x y => xlt x y || xeq x y) (fun x y => decide (x ≤ y)) true
      d a b m t (maskDst_ne_zero hwf) hs,
    fun d a b s hwf hs => maskOp_completes hs d (maskDst_ne_zero hwf) _,
    fun d a b s hwf hs => maskOp_completes hs d (maskDst_ne_zero hwf) _,
    fun d a s hwf hs => maskOp_completes hs d (maskDst_ne_zero hwf) _,
    fun a => if_pos rfl,
    fun d a b t s _ hs => execVext_completes d a b t hs,
    fun d a m t s _ hs => execVredsum_completes d a m t hs,
    fun d a m t s _ hs => vredMinmax_extreme true d a m t hs,
    fun d a m t s _ hs => vredMinmax_extreme false d a m t hs,
    fun d a t s hs => ?mpop⟩
  case mpop =>
    obtain ⟨hstep, hd, hplane, hfm, -, -⟩ := putInt_doneD_spec s d (BitVec.ofNat 64 (onLanes s a t).length) 4 hs
    exact ⟨_, rfl, hd, hplane, hfm, hstep⟩

end Sys2Proof.Claims
end

section
/-! # Local accesses

A store is a list of writes to one bank in order: a byte that no write covers is as before, and a byte that a write covers is that
write's where no later one covers it. Two aligned accesses of one length are of the same bytes or of none in common. -/

namespace Sys2Proof.Claims

open Sys2Proof.Machine

/-! ### Bytes of the local space -/

/-- One byte of the local space of a core's table. -/
def bankByte (c : CC) (a : Nat) : Option Byte := (c.slot (a / 65536)).bank?.map (fun b => memGet b.data (a % 65536))

/-- Every bank of the table holds its bytes in the one canonical form. -/
def BanksWf (c : CC) : Prop := ∀ n b, (c.slot n).bank? = some b → Memory.wf b.data = true

/-- Bytes that a store writes at a local address, where `on` says so. -/
structure Put where
  lo : Nat
  on : Nat → Bool
  bs : List Byte

def Put.write (c : CC) (w : Put) : CC := c.locWrite w.lo w.on w.bs

/-- Does the write change the byte at `a`? -/
def Put.Covers (w : Put) (a : Nat) : Prop := w.lo ≤ a ∧ a < w.lo + w.bs.length ∧ w.on (a - w.lo) = true

/-- The write lies in one slot that carries a bank. -/
structure Put.Fits (w : Put) (c : CC) : Prop where
  bank : (c.slot (w.lo / 65536)).bank?.isSome
  room : w.lo % 65536 + w.bs.length ≤ 65536

theorem memGet_foldl_memSet (on : Nat → Bool) (bs : List Byte) (lo : Nat) (m : List Host.Cell) (hm : Memory.wf m = true) (n x : Nat) :
    memGet ((List.range n).foldl (fun m i => if on i then memSet m (lo + i) (bs.getD i 0) else m) m) x =
      if lo ≤ x ∧ x < lo + n ∧ on (x - lo) = true then bs.getD (x - lo) 0 else memGet m x := by
  have hwf (n : Nat) : Memory.wf ((List.range n).foldl (fun m i => if on i then memSet m (lo + i) (bs.getD i 0) else m) m) = true := by
    refine foldl_wf _ _ (fun m i hm => ?_) m hm
    split
    · exact memSet_wf m _ _ hm
    · exact hm
  induction n with
  | zero => rw [if_neg (by omega)]; rfl
  | succ n ih =>
    rw [List.range_succ, List.foldl_append]
    by_cases hx : x = lo + n
    · subst hx
      rw [Nat.add_sub_cancel_left] at ih ⊢
      by_cases hon : on n = true
      · rw [List.foldl_cons, List.foldl_nil, if_pos hon, memGet_memSet_same _ _ _ (hwf n), if_pos ⟨by omega, by omega, hon⟩]
      · rw [List.foldl_cons, List.foldl_nil, if_neg hon, if_neg (by tauto), ih, if_neg (by tauto)]
    · have hin : (lo ≤ x ∧ x < lo + (n + 1) ∧ on (x - lo) = true) ↔ (lo ≤ x ∧ x < lo + n ∧ on (x - lo) = true) := by
        constructor <;> exact fun ⟨h1, h2, h3⟩ => ⟨h1, by omega, h3⟩
      simp only [hin, ← ih, List.foldl_cons, List.foldl_nil]
      split
      · exact memGet_memSet_other _ _ _ _ (hwf n) hx
      · rfl

theorem memGet_bankWrite (m : List Host.Cell) (hm : Memory.wf m = true) (a : Nat) (on : Nat → Bool) (bs : List Byte) (x : Nat) :
    memGet (bankWrite m a on bs) x =
      if a % 65536 ≤ x ∧ x < a % 65536 + bs.length ∧ on (x - a % 65536) = true then bs.getD (x - a % 65536) 0 else memGet m x := by
  rw [bankWrite, span_zero_eq_range]
  exact memGet_foldl_memSet on bs (a % 65536) m hm bs.length x

/-! ### One write -/

theorem bank_map (sl : Slot) (f : Bank → Bank) : (sl.map f).bank? = sl.bank?.map f := by
  cases sl <;> rfl

theorem Put.write_wf {c : CC} (w : Put) (h : BanksWf c) : BanksWf (w.write c) := locWrite_banks c w.lo w.on w.bs h

theorem Put.Fits.write {w v : Put} {c : CC} (h : w.Fits c) : w.Fits (v.write c) := by
  refine ⟨?_, h.room⟩
  rw [Put.write, slot_locWrite]
  split
  · rw [bank_map, Option.isSome_map]
    exact h.bank
  · exact h.bank

open Classical in
theorem bankByte_write {w : Put} {c : CC} (hw : w.Fits c) (hc : BanksWf c) (a : Nat) :
    bankByte (w.write c) a = if w.Covers a then some (w.bs.getD (a - w.lo) 0) else bankByte c a := by
  obtain ⟨hbank, hroom⟩ := hw
  unfold Put.Covers
  by_cases hslot : a / 65536 = w.lo / 65536
  · obtain ⟨b, hb⟩ := Option.isSome_iff_exists.mp hbank
    have hin : (w.lo % 65536 ≤ a % 65536 ∧ a % 65536 < w.lo % 65536 + w.bs.length ∧ w.on (a % 65536 - w.lo % 65536) = true) ↔
        (w.lo ≤ a ∧ a < w.lo + w.bs.length ∧ w.on (a - w.lo) = true) := by
      by_cases hle : w.lo ≤ a
      · rw [show a % 65536 - w.lo % 65536 = a - w.lo by omega]
        constructor <;> exact fun ⟨h1, h2, h3⟩ => ⟨by omega, by omega, h3⟩
      · constructor <;> exact fun ⟨h1, h2, h3⟩ => by omega
    rw [bankByte, Put.write, slot_locWrite, if_pos hslot, bankByte, hslot, bank_map, hb]
    simp only [Option.map_some, memGet_bankWrite _ (hc _ b hb), hin]
    split
    · rename_i h
      rw [show a % 65536 - w.lo % 65536 = a - w.lo by omega]
    · rfl
  · rw [bankByte, Put.write, slot_locWrite, if_neg hslot, if_neg (by omega)]
    rfl

/-! ### Writes in order -/

theorem foldl_write {ws : List Put} {c : CC} (hc : BanksWf c) (hw : ∀ w ∈ ws, w.Fits c) :
    BanksWf (ws.foldl Put.write c) ∧ ∀ v : Put, v.Fits c → v.Fits (ws.foldl Put.write c) := by
  induction ws generalizing c with
  | nil => exact ⟨hc, fun _ h => h⟩
  | cons w ws ih =>
    obtain ⟨h1, h2⟩ := ih (w.write_wf hc) (fun v hv => (hw v (List.mem_cons_of_mem _ hv)).write)
    exact ⟨h1, fun v hv => h2 v hv.write⟩

/-- A byte that no write covers is as before. -/
theorem bankByte_foldl_apart {ws : List Put} {c : CC} (hc : BanksWf c) (hw : ∀ w ∈ ws, w.Fits c) {a : Nat} (ha : ∀ w ∈ ws, ¬ w.Covers a) :
    bankByte (ws.foldl Put.write c) a = bankByte c a := by
  induction ws generalizing c with
  | nil => rfl
  | cons w ws ih =>
    rw [List.foldl_cons, ih (w.write_wf hc) (fun v hv => (hw v (List.mem_cons_of_mem _ hv)).write)
      (fun v hv => ha v (List.mem_cons_of_mem _ hv)), bankByte_write (hw w List.mem_cons_self) hc, if_neg (ha w List.mem_cons_self)]

/-- The last write that covers a byte says what it is. -/
theorem bankByte_foldl_last {l r : List Put} {w : Put} {c : CC} (hc : BanksWf c) (hw : ∀ v ∈ l ++ w :: r, v.Fits c) {a : Nat}
    (ha : w.Covers a) (hr : ∀ v ∈ r, ¬ v.Covers a) : bankByte ((l ++ w :: r).foldl Put.write c) a = some (w.bs.getD (a - w.lo) 0) := by
  rw [List.foldl_append, List.foldl_cons]
  obtain ⟨hwf, hfit⟩ := foldl_write hc (fun v hv => hw v (List.mem_append_left _ hv))
  have hin (v : Put) (hv : v ∈ w :: r) : v.Fits (l.foldl Put.write c) := hfit v (hw v (List.mem_append_right _ hv))
  rw [bankByte_foldl_apart (w.write_wf hwf) (fun v hv => (hin v (List.mem_cons_of_mem _ hv)).write) hr,
    bankByte_write (hin w List.mem_cons_self) hwf, if_pos ha]

/-! ### Addresses that pass the checks (05 R101) -/

theorem aligned_room {lo n : Nat} (h : lo % n = 0) (hn : n ∣ 65536) : lo % 65536 + n ≤ 65536 := by
  obtain ⟨k, rfl⟩ := Nat.dvd_of_mod_eq_zero h
  obtain ⟨j, hj⟩ := hn
  have hlt : n * (k % j) + n ≤ n * j := by
    have : k % j < j := Nat.mod_lt _ (Nat.pos_of_ne_zero (by rintro rfl; omega))
    calc n * (k % j) + n = n * (k % j + 1) := (Nat.mul_succ _ _).symm
      _ ≤ n * j := Nat.mul_le_mul_left n this
  rw [hj, Nat.mul_mod_mul_left]
  exact hlt

/-- Aligned ranges of one length that meet are the same. -/
theorem aligned_apart {x y n a : Nat} (hx : x % n = 0) (hy : y % n = 0) (hxa : x ≤ a ∧ a < x + n) (hya : y ≤ a ∧ a < y + n) : y = x := by
  have start {z : Nat} (hz : z % n = 0) (hza : z ≤ a ∧ a < z + n) : z = n * (a / n) := by
    obtain ⟨k, rfl⟩ := Nat.dvd_of_mod_eq_zero hz
    rw [Nat.div_eq_of_lt_le (by rw [Nat.mul_comm]; exact hza.1) (by rw [Nat.succ_mul, Nat.mul_comm]; exact hza.2)]
  rw [start hx hxa, start hy hya]

theorem firstSome_none {α β : Type} {f : α → Option β} {l : List α} (h : firstSome f l = none) : ∀ x ∈ l, f x = none := by
  induction l with
  | nil => exact fun _ hx => nomatch hx
  | cons y l ih =>
    rw [firstSome] at h
    split at h
    · cases h
    · rename_i hy
      exact fun x hx => (List.mem_cons.mp hx).elim (fun e => e ▸ hy) (ih h x)

/-- A local address that passes the checks is aligned and lies in a slot that carries a bank. -/
theorem locStop_none {c : CC} {al n : Nat} {eas : List Word} (h : c.locStop al n eas = none) :
    ∀ ea ∈ eas, ea.toNat % al = 0 ∧ (c.slot (ea.toNat / 65536)).bank?.isSome := by
  intro ea hea
  have hf : c.locFault ea al = none := by
    unfold CC.locStop at h
    split at h
    · cases h
    · rename_i hnone
      exact firstSome_none hnone ea hea
  unfold CC.locFault aligned at hf
  split at hf
  · cases hf
  rename_i hal
  split at hf
  · cases hf
  rename_i hrange
  have hslot : wbits ea 16 3 = ea.toNat / 65536 := by
    have := ea.isLt
    simp only [wbits, bits, not_not] at hrange ⊢
    omega
  rw [hslot] at hf
  refine ⟨by simpa using hal, ?_⟩
  split at hf
  · cases hf
  · cases hf
  · rename_i hempty hreserved
    cases hs : c.slot (ea.toNat / 65536) with
    | empty => exact absurd hs hempty
    | reserved => exact absurd hs hreserved
    | attached b => rfl
    | outgoing b => rfl

/-! ### Writes of one length that are all aligned -/

/-- Writes of `n` bytes at aligned addresses that pass the checks of a local access. -/
structure Stored (c : CC) (n : Nat) (ws : List Put) : Prop where
  wf : BanksWf c
  dvd : n ∣ 65536
  len : ∀ w ∈ ws, w.bs.length = n
  passes : ∀ w ∈ ws, w.lo % n = 0 ∧ (c.slot (w.lo / 65536)).bank?.isSome

section

variable {c : CC} {n : Nat} {ws : List Put} (h : Stored c n ws)

include h

theorem Stored.fits : ∀ w ∈ ws, w.Fits c :=
  fun w hw => ⟨(h.passes w hw).2, by rw [h.len w hw]; exact aligned_room (h.passes w hw).1 h.dvd⟩

theorem Stored.apart {a : Nat} (ha : ∀ w ∈ ws, a < w.lo ∨ w.lo + n ≤ a) : bankByte (ws.foldl Put.write c) a = bankByte c a := by
  refine bankByte_foldl_apart h.wf h.fits (fun w hw ⟨h1, h2, _⟩ => ?_)
  rw [h.len w hw] at h2
  have := ha w hw
  omega

/-- Writes at one address or apart from it, of which none has byte `i` on, leave that byte. -/
theorem Stored.off {x i : Nat} (hi : i < n) (hx : x % n = 0) (hoff : ∀ w ∈ ws, w.on i = false) :
    bankByte (ws.foldl Put.write c) (x + i) = bankByte c (x + i) := by
  refine bankByte_foldl_apart h.wf h.fits (fun w hw ⟨h1, h2, h3⟩ => ?_)
  rw [h.len w hw] at h2
  have hlo : w.lo = x := aligned_apart hx (h.passes w hw).1 ⟨by omega, by omega⟩ ⟨h1, h2⟩
  rw [hlo, Nat.add_sub_cancel_left, hoff w hw] at h3
  cases h3

theorem Stored.last {l r : List Put} {w : Put} (hsplit : ws = l ++ w :: r) (hr : ∀ v ∈ r, v.lo ≠ w.lo) {i : Nat} (hi : i < n)
    (hon : w.on i = true) : bankByte (ws.foldl Put.write c) (w.lo + i) = some (w.bs.getD i 0) := by
  subst hsplit
  have hw : w ∈ l ++ w :: r := List.mem_append_right _ List.mem_cons_self
  have hcov : w.Covers (w.lo + i) := ⟨by omega, by rw [h.len w hw]; omega, by rw [Nat.add_sub_cancel_left]; exact hon⟩
  have key := bankByte_foldl_last h.wf h.fits hcov fun v hv ⟨h1, h2, _⟩ => by
    have hv' : v ∈ l ++ w :: r := List.mem_append_right _ (List.mem_cons_of_mem _ hv)
    rw [h.len v hv'] at h2
    exact hr v hv (aligned_apart (h.passes w hw).1 (h.passes v hv').1 ⟨by omega, by omega⟩ ⟨h1, h2⟩)
  rw [key, Nat.add_sub_cancel_left]

end

/-! ### Accesses that pass, and their completion -/

theorem local_passes {s : State} {i : Instr} {al n : Nat} {ts : List Touch} {eas : List Word} (h : LocalOn s al n ts eas) (k : Out) :
    s.localOn i al n ts eas k = k := by
  obtain ⟨hsys, -, hstop, hwatch⟩ := h
  rw [State.localOn, State.notSys, hsys, if_neg Bool.false_ne_true, hstop]
  simp only [State.watched, hwatch]

/-- A completion that writes no register. -/
theorem retire_regStep {s : State} (hs : s.stepping = false) (len extra : Nat) : s.RegStep (s.retire len extra) len NoReg NoReg NoMask := by
  obtain ⟨st, hst, hret⟩ := retiredArch_eq s.me.a s.user s.me.pc len countWindow
  obtain ⟨harch, hpc, htset, hrest⟩ := hret ▸ retireW_leaves hs len extra countWindow true
  refine ⟨hpc, ?_, ⟨?_, ?_, ?_⟩, htset, hrest⟩
  all_goals unfold State.retire; rw [harch]
  · exact keeps_flow s.me.a _ _ _ _ _
  · rcases hst with rfl | rfl
    · exact noWindow_countWindow _
    · exact (noWindow_noWindow _).trans (noWindow_countWindow _)

theorem useVec_regStep {s t : State} {len : Nat} {G V : Reg → Nat → Prop} {M : BitVec 3 → Prop} (h : s.RegStep t len G V M) (n : Nat) :
    s.RegStep (t.useVec n) len G V M := h.core _ _ (fun _ => ⟨rfl, rfl, rfl, rfl, rfl, rfl, rfl, rfl, rfl, rfl⟩)

/-- Changes of the current core-and-context's table, one for each of `xs`. -/
theorem foldl_upCC {α : Type} (g : α → CC → CC) (xs : List α) (s : State) :
    ∃ ccs, xs.foldl (fun s x => s.upCC (ccOf s.cur) (g x)) s = { s with ccs := ccs } ∧
      ∀ k, mget ccs k CC.reset = if k = ccOf s.cur then xs.foldl (fun c x => g x c) s.myCC else s.cc k := by
  induction xs generalizing s with
  | nil => exact ⟨s.ccs, rfl, fun k => by split <;> simp_all [State.myCC, State.cc]⟩
  | cons x xs ih =>
    obtain ⟨ccs, hfold, hcc⟩ := ih (s.upCC (ccOf s.cur) (g x))
    refine ⟨ccs, hfold, fun k => (hcc k).trans ?_⟩
    rw [upCC_cur, State.myCC, upCC_cur, upCC_at_same]
    split
    · rfl
    · exact upCC_at_ne s _ ‹_›

/-! ### Stores -/

/-- `t` is `s` once an instruction of 4 bytes has written `ws` to the current table's banks and completed. -/
structure StoresTo (s t : State) (ws : List Put) : Prop where
  pc : t.me.pc = s.nextPc 4
  keeps : s.me.a.Keeps t.me.a NoReg NoReg NoMask
  bytes : ∀ home pa, t.byteAt home pa = s.byteAt home pa
  here : ∀ a, t.localAt (ccOf s.cur) a = bankByte (ws.foldl Put.write s.myCC) a
  others : ∀ k, k ≠ ccOf s.cur → ∀ a, t.localAt k a = s.localAt k a

theorem StoresTo.of_regStep {s t : State} {ws : List Put} {ccs : AMap CC}
    (hcc : ∀ k, mget ccs k CC.reset = if k = ccOf s.cur then ws.foldl Put.write s.myCC else s.cc k)
    (h : State.RegStep { s with ccs := ccs } t 4 NoReg NoReg NoMask) : StoresTo s t ws := by
  have hread (k a : Nat) : t.localAt k a = bankByte (mget ccs k CC.reset) a := by
    rw [State.localAt, State.cc, h.rest.ccs]
    rfl
  refine ⟨h.pc, h.regs, h.rest.bytes, fun a => ?_, fun k hk a => ?_⟩
  · rw [hread, hcc, if_pos rfl]
  · rw [hread, hcc, if_neg hk]
    rfl

/-- The writes of a store, made plane by plane, and its completion. -/
theorem foldl_puts_completes {α : Type} {s : State} (hs : s.stepping = false) (puts : α → List Put) (xs : List α) :
    let u := xs.foldl (fun s x => s.upCC (ccOf s.cur) (fun c => (puts x).foldl Put.write c)) s
    ∀ extra, StoresTo s (u.retire 4 extra) (xs.flatMap puts) ∧ ∀ n, StoresTo s ((u.retire 4 extra).useVec n) (xs.flatMap puts) := by
  intro u extra
  obtain ⟨ccs, hfold, hcc⟩ := foldl_upCC (fun x c => (puts x).foldl Put.write c) xs s
  have hstep : State.RegStep { s with ccs := ccs } (u.retire 4 extra) 4 NoReg NoReg NoMask := by
    rw [show u = { s with ccs := ccs } from hfold]
    exact retire_regStep (s := { s with ccs := ccs }) hs 4 extra
  rw [← List.foldl_flatMap] at hcc
  exact ⟨.of_regStep hcc hstep, fun n => .of_regStep hcc (useVec_regStep hstep n)⟩

theorem StoresTo.onlyLocal {s t : State} {ws : List Put} (h : StoresTo s t ws) {n : Nat} (hw : Stored s.myCC n ws) {eas : List Word}
    (heas : ∀ w ∈ ws, ∃ ea ∈ eas, w.lo = ea.toNat) : onlyLocal s t eas n := by
  intro k a hk
  by_cases hcc : k = ccOf s.cur
  · subst hcc
    rw [h.here]
    refine hw.apart fun w hmem => ?_
    obtain ⟨ea, hea, hlo⟩ := heas w hmem
    rw [hlo]
    exact (hk.resolve_left fun e => e rfl) ea hea
  · exact h.others k hcc a

theorem natLe_getD (x n i : Nat) (hi : i < n) : (natLe x n).getD i 0 = nth x i := by
  induction n generalizing x i with
  | zero => omega
  | succ n ih =>
    cases i with
    | zero => simp [natLe, nth]
    | succ i =>
      rw [natLe, List.getD_cons_succ, ih _ _ (by omega), nth, nth, Nat.div_div_eq_div_mul, Nat.mul_succ, Nat.add_comm, Nat.pow_add]

/-- A member of an ordered list, with what comes after it. -/
theorem split_of_pairwise {α : Type} {R : α → α → Prop} {xs : List α} (h : xs.Pairwise R) {x : α} (hx : x ∈ xs) :
    ∃ l r, xs = l ++ x :: r ∧ ∀ y ∈ r, R x y := by
  obtain ⟨l, r, rfl⟩ := List.append_of_mem hx
  exact ⟨l, r, rfl, (List.pairwise_cons.mp (List.pairwise_append.mp h).2.1).1⟩

theorem planesOf_sorted (f : Nat) : (planesOf f).Pairwise (· < ·) := by
  unfold planesOf
  split <;> split <;> decide

theorem planes_sorted (t : TSet) (on : Bool) : (t.planes on).Pairwise (· < ·) := by
  have hdual : t.dual.Pairwise (· < ·) := by
    unfold TSet.dual
    split
    · exact List.Pairwise.nil
    · split
      · exact planesOf_sorted _
      · split
        · exact planesOf_sorted _
        · exact List.Pairwise.nil
  unfold TSet.planes
  split
  · exact List.pairwise_cons.mpr ⟨fun p hp => (dual_le t p hp).1, hdual⟩
  · exact List.pairwise_singleton _ _

theorem planes_le (t : TSet) (on : Bool) : ∀ p ∈ t.planes on, p ≤ 2 := by
  unfold TSet.planes
  split
  · exact fun p hp => (List.mem_cons.mp hp).elim (by omega) (dual_le_two t p)
  · exact fun p hp => by simp at hp; omega

theorem mem_planes {t : TSet} {on : Bool} {p : Nat} (hp : p ∈ t.planes on) : p = 0 ∨ p ∈ t.dual := by
  unfold TSet.planes at hp
  split at hp
  · exact List.mem_cons.mp hp
  · exact .inl (List.mem_singleton.mp hp)

/-- The planes acted on in which a load has no access of its own. -/
def otherPlanes (t : TSet) (on : Bool) : List Nat := if on then [] else t.dual

theorem mem_otherPlanes {t : TSet} {on : Bool} {p : Nat} (hp : p ∈ otherPlanes t on) : p ∈ t.dual ∧ p ∉ t.planes on := by
  cases on
  · refine ⟨hp, fun h => ?_⟩
    have h0 : p = 0 := List.mem_singleton.mp h
    have := (dual_le t p hp).1
    omega
  · exact nomatch hp

/-- What a write of an ordered list leaves, where no later one has its address. -/
theorem Stored.ordered {α : Type} {R : α → α → Prop} {xs : List α} {put : α → Put} {c : CC} {n : Nat} (h : Stored c n (xs.map put))
    (hR : xs.Pairwise R) {x : α} (hx : x ∈ xs) (hlast : ∀ y ∈ xs, R x y → (put y).lo ≠ (put x).lo) {i : Nat} (hi : i < n)
    (hon : (put x).on i = true) : bankByte ((xs.map put).foldl Put.write c) ((put x).lo + i) = some ((put x).bs.getD i 0) := by
  obtain ⟨l, r, hsplit, hr⟩ := split_of_pairwise hR hx
  refine h.last (l := l.map put) (r := r.map put) (by rw [hsplit, List.map_append, List.map_cons]) (fun v hv => ?_) hi hon
  obtain ⟨y, hy, rfl⟩ := List.mem_map.mp hv
  exact hlast y (by rw [hsplit]; exact List.mem_append_right _ (List.mem_cons_of_mem _ hy)) (hr y hy)

/-- The write of plane `p` by STL. -/
def stlPut (s : State) (x : Reg) (z : BitVec 2) (ea : Word) (p : Nat) : Put :=
  { lo := (s.me.a.lea ea p).toNat, on := fun _ => true, bs := wordLe (s.me.a.gp p x) (storeLen z) }

/-- The write of plane `p` by VST.L. -/
def vstPut (s : State) (d : Reg) (on : BitVec 64) (ea : Word) (p : Nat) : Put :=
  { lo := (s.me.a.lea ea p).toNat, on := fun i => on.getLsbD i, bs := natLe (s.me.a.vp p d).toNat 64 }

/-- The write of lane `i` in plane `p` by VSCAT.L. -/
def vscatPut (s : State) (d : Reg) (ea : Nat → Word) (p i : Nat) : Put :=
  { lo := (s.me.a.lea (ea i) p).toNat, on := fun _ => true, bs := natLe (lane (s.me.a.vp p d) 32 i) 4 }

theorem storeLen_dvd (z : BitVec 2) : storeLen z ∣ 65536 := by
  have hz := z.isLt
  exact Nat.pow_dvd_pow 2 (show z.toNat ≤ 16 by omega)

theorem Stored.of_localOn {s : State} {n : Nat} {ts : List Touch} {eas : List Word} {ws : List Put} (hok : LocalOn s n n ts eas)
    (hbanks : s.banksOk) (hdvd : n ∣ 65536) (hlen : ∀ w ∈ ws, w.bs.length = n) (heas : ∀ w ∈ ws, ∃ ea ∈ eas, w.lo = ea.toNat) :
    Stored s.myCC n ws := by
  refine ⟨fun k b hb => hbanks (ccOf s.cur) k b hb, hdvd, hlen, fun w hw => ?_⟩
  obtain ⟨-, -, hstop, -⟩ := hok
  obtain ⟨ea, hea, hlo⟩ := heas w hw
  rw [hlo]
  exact locStop_none hstop ea hea

theorem execStl_completes (x a : Reg) (z : BitVec 2) (o : BitVec 12) {s : State}
    (hok : LocalOk s (storeLen z) (storeLen z) false true ((s.me.planes (storeDual z)).map (s.me.a.lea (s.ea a o)))) :
    ∃ t, exec (.stl x a z o) s = .next t ∧ StoresTo s t ((s.me.planes (storeDual z)).map (stlPut s x z (s.ea a o))) := by
  have hrun := foldl_puts_completes hok.2.1 (fun p => [stlPut s x z (s.ea a o) p]) (s.me.planes (storeDual z))
  rw [← List.map_eq_flatMap] at hrun
  refine ⟨_, local_passes hok _, ?_⟩
  split
  · exact (hrun _).1
  · exact (hrun 0).1

theorem execVstL_completes (d a b : Reg) (m t : BitVec 3) {s : State}
    (hok : LocalLanes s m t false true ((s.me.planes true).map (s.me.a.lea (s.g a + s.g b)))) :
    ∃ u, exec (.vstL d a b m t) s = .next u ∧
      StoresTo s u ((s.me.planes true).map (vstPut s d (laneBytes (s.me.a.mp m) (tWidth t.toNat)) (s.g a + s.g b))) := by
  have hrun := foldl_puts_completes hok.2.1
    (fun p => [vstPut s d (laneBytes (s.me.a.mp m) (tWidth t.toNat)) (s.g a + s.g b) p]) (s.me.planes true)
  rw [← List.map_eq_flatMap] at hrun
  rw [LocalLanes, List.map_map] at hok
  exact ⟨_, local_passes hok _, (hrun _).2 _⟩

theorem execVscatL_completes (d a b : Reg) (m t : BitVec 3) {s : State}
    (hok : LocalOk s 4 4 false true ((s.me.planes true).flatMap (fun p => (active (s.me.a.mp m) 16).map (fun i =>
      s.me.a.lea (s.g a + BitVec.ofNat 64 (lane (s.me.a.vp 0 b) 32 i)) p)))) :
    ∃ u, exec (.vscatL d a b m t) s = .next u ∧ StoresTo s u ((s.me.planes true).flatMap (fun p => (active (s.me.a.mp m) 16).map
      (vscatPut s d (fun i => s.g a + BitVec.ofNat 64 (lane (s.me.a.vp 0 b) 32 i)) p))) := by
  have hrun := foldl_puts_completes hok.2.1 (fun p => (active (s.me.a.mp m) 16).map
      (vscatPut s d (fun i => s.g a + BitVec.ofNat 64 (lane (s.me.a.vp 0 b) 32 i)) p)) (s.me.planes true)
  simp only [List.foldl_map] at hrun
  exact ⟨_, local_passes hok _, (hrun _).2 _⟩

/-- The lanes of a scatter in the order in which they are written: plane by plane, each in rising order. -/
def laneOrder (x y : Nat × Nat) : Prop := x.1 < y.1 ∨ y.1 = x.1 ∧ x.2 < y.2

theorem lanes_ordered {ps ls : List Nat} (hps : ps.Pairwise (· < ·)) (hls : ls.Pairwise (· < ·)) :
    (ps.flatMap (fun p => ls.map (fun i => (p, i)))).Pairwise laneOrder := by
  refine List.pairwise_flatMap.mpr ⟨fun p _ => List.pairwise_map.mpr (hls.imp fun h => .inr ⟨rfl, h⟩), hps.imp fun h x hx y hy => ?_⟩
  obtain ⟨_, _, rfl⟩ := List.mem_map.mp hx
  obtain ⟨_, _, rfl⟩ := List.mem_map.mp hy
  exact .inl h

theorem active_sorted (m : Word) (n : Nat) : (active m n).Pairwise (· < ·) := by
  rw [active_eq]
  exact List.pairwise_lt_range.filter _

/-! ### Loads -/

theorem upMe_congr {s : State} {f g : TSet → TSet} (h : f s.me = g s.me) : s.upMe f = s.upMe g := by
  unfold State.upMe State.upT
  rw [show f (s.t s.cur) = g (s.t s.cur) from h]

/-- A change of the registers whose result is ready later. -/
theorem soon_upRegs (s : State) (f : Arch → Arch) (lat : Nat) (bs : List (Nat × Nat)) : ∃ k, (s.upA f).soon lat bs = s.upRegs f k := by
  let t := { s.me with a := f s.me.a }
  refine ⟨fun _ => (t.soon bs (s.cyc + lat + t.extra)).busy, ?_⟩
  rw [State.upA, State.soon, upMe_upMe]
  exact upMe_congr rfl

theorem execLdl_completes (d a : Reg) (z : BitVec 3) (o : BitVec 11) {s : State}
    (hok : LocalOk s (loadLen z) (loadLen z) true false ((s.me.planes (loadDual z)).map (s.me.a.lea (s.ea a o)))) :
    ∃ t, exec (.ldl d a z o) s = .next t ∧ s.RegStep t 4 (s.Dest d) NoReg NoMask ∧
      (∀ p ∈ s.me.planes (loadDual z), t.me.a.gp p d = (if d = 0 then 0 else
        loadExt z.toNat (leNat (s.myCC.locRead (s.me.a.lea (s.ea a o) p).toNat (loadLen z))))) := by
  let w (p : Nat) : Word := loadExt z.toNat (leNat (s.myCC.locRead (s.me.a.lea (s.ea a o) p).toNat (loadLen z)))
  let zero := otherPlanes s.me (loadDual z)
  let f (x : Arch) : Arch := zero.foldl (fun x p => x.setG p d 0) ((s.me.planes (loadDual z)).foldl (fun x p => x.setG p d (w p)) x)
  have hzle : ∀ p ∈ zero, p ≤ 2 := fun p hp => dual_le_two _ p (mem_otherPlanes hp).1
  have honly : OnlyG d (fun p => p = 0 ∨ p ∈ s.me.dual) s.me.a (f s.me.a) :=
    (OnlyG.foldl (fun p hp x => (OnlyG.setG x d (planes_le _ _ p hp) _).mono (fun q (e : q = p) => e ▸ mem_planes hp)) _).trans
      (OnlyG.foldl (fun p hp x => (OnlyG.setG x d (hzle p hp) _).mono (fun q (e : q = p) => e ▸ .inr (mem_otherPlanes hp).1)) _)
  obtain ⟨k, hk⟩ := soon_upRegs s f 3 [(0, d.toNat)]
  obtain ⟨hstep, hg, -⟩ := regStep_banks s f k 4 (s.upRegs f k).me.dual.length (G := s.Dest d) hok.2.1 honly.banks honly.keeps
  refine ⟨(s.upRegs f k).doneD 4, (local_passes hok _).trans (congrArg (fun u : State => Host.Outcome.next (u.doneD 4)) hk), hstep,
    fun p hp => ?_⟩
  have hple := planes_le _ _ p hp
  rw [State.doneD, hg, gp_foldl_setG _ hzle _ _ _ hple, if_neg (fun h => (mem_otherPlanes h.2.1).2 hp),
    gp_foldl_setG _ (planes_le _ _) _ _ _ hple]
  by_cases hd : d = 0
  · rw [if_neg (by tauto), if_pos hd, hd, gp_zero_reg]
  · rw [if_pos ⟨rfl, hp, hd⟩, if_neg hd]

theorem vp_foldl_setV (ps : List Nat) (hps : ∀ p ∈ ps, p ≤ 2) (a : Arch) (d : Reg) (w : Nat → VWord) {q : Nat} (hq : q ≤ 2) :
    (ps.foldl (fun a p => a.setV p d (w p)) a).vp q d = if q ∈ ps then w q else a.vp q d := by
  induction ps generalizing a with
  | nil => rfl
  | cons p ps ih =>
    rw [List.foldl_cons, ih (fun p hp => hps p (List.mem_cons_of_mem _ hp)), vp_setV a (hps p List.mem_cons_self) hq]
    by_cases hin : q ∈ ps
    · rw [if_pos hin, if_pos (List.mem_cons_of_mem _ hin)]
    · by_cases hqp : q = p
      · rw [if_neg hin, if_pos ⟨rfl, hqp⟩, if_pos (hqp ▸ List.mem_cons_self), hqp]
      · rw [if_neg hin, if_neg (by tauto), if_neg (by simp [hqp, hin])]

/-- A vector load writes the planes of v[d] and completes. -/
theorem vload_completes {s : State} (hs : s.stepping = false) (d : Reg) (lat : Nat) (w : Nat → VWord) :
    let f (x : Arch) : Arch := (s.me.planes true).foldl (fun x p => x.setV p d (w p)) x
    s.RegStep ((s.upA f).soon lat [(1, d.toNat)]).vmemDone 4 NoReg (s.Dest d) NoMask ∧
      ∀ p ∈ s.me.planes true, ((s.upA f).soon lat [(1, d.toNat)]).vmemDone.me.a.vp p d = w p := by
  intro f
  have honly : OnlyV d (fun p => p = 0 ∨ p ∈ s.me.dual) s.me.a (f s.me.a) :=
    OnlyV.foldl (fun p hp x => (OnlyV.setV x d (planes_le _ _ p hp) _).mono
      (fun q (e : q = p) => e ▸ List.mem_cons.mp hp)) _
  obtain ⟨k, hk⟩ := soon_upRegs s f lat [(1, d.toNat)]
  obtain ⟨hstep, -, hv, -⟩ := regStep_banks s f k 4 (s.upRegs f k).me.dual.length (V := s.Dest d) hs honly.banks honly.keeps
  rw [hk]
  refine ⟨useVec_regStep hstep _, fun p hp => (hv p d).trans ?_⟩
  exact (vp_foldl_setV _ (planes_le _ _) _ _ _ (planes_le _ _ p hp)).trans (if_pos hp)

theorem execVldL_completes (d a b : Reg) (m t : BitVec 3) {s : State}
    (hok : LocalLanes s m t true false ((s.me.planes true).map (s.me.a.lea (s.g a + s.g b)))) :
    ∃ u, exec (.vldL d a b m t) s = .next u ∧ s.RegStep u 4 NoReg (s.Dest d) NoMask ∧
      (∀ p ∈ s.me.planes true, u.me.a.vp p d = maskLanes (s.me.a.mp m) (tWidth t.toNat) (s.me.a.vp p d)
        (vOf (s.myCC.locRead (s.me.a.lea (s.g a + s.g b) p).toNat 64))) := by
  have hrun := vload_completes hok.2.1 d 4 (fun p => maskLanes (s.me.a.mp m) (tWidth t.toNat) (s.me.a.vp p d)
    (vOf (s.myCC.locRead (s.me.a.lea (s.g a + s.g b) p).toNat 64)))
  rw [LocalLanes, List.map_map] at hok
  exact ⟨_, local_passes hok _, hrun⟩

theorem lane_lt (x : VWord) (w i : Nat) : lane x w i < 2 ^ w := Nat.mod_lt _ (Nat.two_pow_pos w)

/-- The active lanes of one value, the others of another. -/
theorem lane_maskLanes (m : Word) {w k : Nat} (old new : VWord) (hk : k < 512 / w) :
    lane (maskLanes m w old new) w k = if m.getLsbD k then lane new w k else lane old w k := by
  have hfold : maskLanes m w old new = setLanes w 0 (lane new w) (activeBelow m.getLsbD (512 / w)) old := by
    rw [maskLanes, setLanes, List.foldl_filter, span_zero_eq_range]
    simp only [Nat.zero_add]
  have hroom : w * k + w ≤ 512 :=
    calc w * k + w = w * (k + 1) := (Nat.mul_succ w k).symm
      _ ≤ w * (512 / w) := Nat.mul_le_mul_left w hk
      _ ≤ 512 := Nat.mul_div_le 512 w
  rw [hfold, lane_setLanes _ _ _ _ _ _ hroom, Nat.sub_zero, Nat.mod_eq_of_lt (lane_lt _ _ _)]
  by_cases hm : m.getLsbD k = true
  · rw [if_pos ⟨Nat.zero_le k, by omega, hm⟩, if_pos hm]
  · rw [if_neg (fun h => hm h.2.2), if_neg hm]

theorem locRead_length (c : CC) (a n : Nat) : (c.locRead a n).length = n := by
  unfold CC.locRead
  split
  · exact memRead_length _ _ _
  · exact List.length_replicate

theorem execVgathL_completes (d a b : Reg) (m t : BitVec 3) {s : State}
    (hok : LocalOk s 4 4 true false ((s.me.planes true).flatMap (fun p => (active (s.me.a.mp m) 16).map (fun i =>
      s.me.a.lea (s.g a + BitVec.ofNat 64 (lane (s.me.a.vp 0 b) 32 i)) p)))) :
    ∃ u, exec (.vgathL d a b m t) s = .next u ∧ s.RegStep u 4 NoReg (s.Dest d) NoMask ∧
      (∀ p ∈ s.me.planes true, ∀ k, k < 16 → lane (u.me.a.vp p d) 32 k =
        (if (s.me.a.mp m).getLsbD k
         then leNat (s.myCC.locRead (s.me.a.lea (s.g a + BitVec.ofNat 64 (lane (s.me.a.vp 0 b) 32 k)) p).toNat 4)
         else lane (s.me.a.vp p d) 32 k)) := by
  let x (p i : Nat) : Nat := leNat (s.myCC.locRead (s.me.a.lea (s.g a + BitVec.ofNat 64 (lane (s.me.a.vp 0 b) 32 i)) p).toNat 4)
  have hx (p i : Nat) : x p i < 2 ^ 32 := by
    have := leNat_lt (s.myCC.locRead (s.me.a.lea (s.g a + BitVec.ofNat 64 (lane (s.me.a.vp 0 b) 32 i)) p).toNat 4)
    rw [locRead_length] at this
    exact this
  obtain ⟨hstep, hv⟩ := vload_completes hok.2.1 d (4 + ceilDiv (active (s.me.a.mp m) 16).length 4)
    (fun p => (active (s.me.a.mp m) 16).foldl (fun v i => setLane v 32 i (x p i)) (s.me.a.vp p d))
  refine ⟨_, local_passes hok _, hstep, fun p hp k hk => ?_⟩
  have hlanes : (active (s.me.a.mp m) 16).foldl (fun v i => setLane v 32 i (x p i)) (s.me.a.vp p d) =
      setLanes 32 0 (x p) (activeBelow (s.me.a.mp m).getLsbD 16) (s.me.a.vp p d) := by
    rw [active_eq, setLanes]
    simp only [Nat.zero_add]
  rw [hv p hp, hlanes, lane_setLanes _ _ _ _ _ _ (by omega), Nat.sub_zero, Nat.mod_eq_of_lt (hx p k)]
  by_cases hm : (s.me.a.mp m).getLsbD k = true
  · rw [if_pos ⟨Nat.zero_le k, by omega, hm⟩, if_pos hm]
  · rw [if_neg (fun h => hm h.2.2), if_neg hm]

/-- Settles O14, for stores by the last of the writes at an address. -/
theorem localAccesses : Obligations.LocalAccesses := by
  unfold Obligations.LocalAccesses
  refine ⟨fun d a z o s => execLdl_completes d a z o, fun x a z o s => ?stl, fun d a b m t s => ?vldL, fun d a b m t s => ?vstL,
    fun d a b m t s => execVgathL_completes d a b m t, fun d a b m t s => ?vscatL⟩
  case stl =>
    intro eas hok hbanks
    obtain ⟨t, hexec, hst⟩ := execStl_completes x a z o hok
    have hws : ∀ w ∈ (s.me.planes (storeDual z)).map (stlPut s x z (s.ea a o)), w.bs.length = storeLen z ∧ ∃ ea ∈ eas, w.lo = ea.toNat := by
      intro w hw
      obtain ⟨p, hp, rfl⟩ := List.mem_map.mp hw
      exact ⟨natLe_length _ _, _, List.mem_map.mpr ⟨p, hp, rfl⟩, rfl⟩
    have hstored := Stored.of_localOn hok hbanks (storeLen_dvd z) (fun w hw => (hws w hw).1) (fun w hw => (hws w hw).2)
    refine ⟨t, hexec, hst.pc, hst.keeps, hst.onlyLocal hstored (fun w hw => (hws w hw).2), hst.bytes, fun p hp hlast i hi => ?_⟩
    rw [hst.here]
    exact (hstored.ordered (planes_sorted s.me _) hp (fun q hq hpq h => hlast q hq hpq (BitVec.eq_of_toNat_eq h)) hi rfl).trans
      (congrArg some (natLe_getD _ _ _ hi))
  case vldL =>
    intro eas hok
    obtain ⟨u, hexec, hstep, hv⟩ := execVldL_completes d a b m t hok
    exact ⟨u, hexec, hstep, fun p hp k hk => by rw [hv p hp, lane_maskLanes _ _ _ hk]⟩
  case vstL =>
    intro eas hok hbanks
    obtain ⟨u, hexec, hst⟩ := execVstL_completes d a b m t hok
    have hws : ∀ w ∈ (s.me.planes true).map (vstPut s d (laneBytes (s.me.a.mp m) (tWidth t.toNat)) (s.g a + s.g b)),
        w.bs.length = 64 ∧ (∃ ea ∈ eas, w.lo = ea.toNat) ∧ w.on = fun i => (laneBytes (s.me.a.mp m) (tWidth t.toNat)).getLsbD i := by
      intro w hw
      obtain ⟨p, hp, rfl⟩ := List.mem_map.mp hw
      exact ⟨natLe_length _ _, ⟨_, List.mem_map.mpr ⟨p, hp, rfl⟩, rfl⟩, rfl⟩
    have hstored := Stored.of_localOn hok hbanks (by decide) (fun w hw => (hws w hw).1) (fun w hw => (hws w hw).2.1)
    refine ⟨u, hexec, hst.pc, hst.keeps, hst.onlyLocal hstored (fun w hw => (hws w hw).2.1), hst.bytes,
      fun p hp hlast i hi => ⟨fun hon => ?_, fun hoff => ?_⟩⟩
    · rw [hst.here]
      exact (hstored.ordered (planes_sorted s.me _) hp (fun q hq hpq h => hlast q hq hpq (BitVec.eq_of_toNat_eq h)) hi hon).trans
        (congrArg some (natLe_getD _ _ _ hi))
    · rw [hst.here]
      exact hstored.off hi (hstored.passes _ (List.mem_map.mpr ⟨p, hp, rfl⟩)).1 fun w hw => by rw [(hws w hw).2.2]; exact hoff
  case vscatL =>
    intro ls ea eas hok hbanks
    obtain ⟨u, hexec, hst⟩ := execVscatL_completes d a b m t hok
    let put (y : Nat × Nat) : Put := vscatPut s d ea y.1 y.2
    have hmap : (s.me.planes true).flatMap (fun p => ls.map (vscatPut s d ea p)) =
        ((s.me.planes true).flatMap (fun p => ls.map (fun i => (p, i)))).map put := by
      simp only [List.map_flatMap, List.map_map]
      rfl
    rw [hmap] at hst
    have hws : ∀ w ∈ ((s.me.planes true).flatMap (fun p => ls.map (fun i => (p, i)))).map put,
        w.bs.length = 4 ∧ ∃ ea ∈ eas, w.lo = ea.toNat := by
      intro w hw
      obtain ⟨⟨p, i⟩, hy, rfl⟩ := List.mem_map.mp hw
      obtain ⟨p', hp, hi⟩ := List.mem_flatMap.mp hy
      obtain ⟨i', hi', he⟩ := List.mem_map.mp hi
      obtain ⟨rfl, rfl⟩ := Prod.mk.injEq .. ▸ he
      exact ⟨natLe_length _ _, _, List.mem_flatMap.mpr ⟨p', hp, List.mem_map.mpr ⟨i', hi', rfl⟩⟩, rfl⟩
    have hstored := Stored.of_localOn hok hbanks (by decide) (fun w hw => (hws w hw).1) (fun w hw => (hws w hw).2)
    refine ⟨u, hexec, hst.pc, hst.keeps, hst.onlyLocal hstored (fun w hw => (hws w hw).2), hst.bytes, fun p hp i hi hlast k hk => ?_⟩
    rw [hst.here]
    refine (hstored.ordered (lanes_ordered (planes_sorted s.me _) (active_sorted _ _)) (x := (p, i))
      (List.mem_flatMap.mpr ⟨p, hp, List.mem_map.mpr ⟨i, hi, rfl⟩⟩) (fun y hy hlater h => ?_) hk rfl).trans
      (congrArg some (natLe_getD _ _ _ hk))
    obtain ⟨q, hq, hj⟩ := List.mem_flatMap.mp hy
    obtain ⟨j, hj', rfl⟩ := List.mem_map.mp hj
    exact hlast q hq j hj' hlater (BitVec.eq_of_toNat_eq h)

end Sys2Proof.Claims
end

section
/-! # Loads and stores leave the core

Of one instruction each plane is an access of its own. `Issues` says what an access leaves alone, so that what the first of them sends
is still on its way when the last has been made. -/

namespace Sys2Proof.Claims

open Sys2Proof.Machine

/-! ### What an access leaves alone -/

/-- `t` is `s` after accesses of the current instruction: at the same place, with the planes `P` of g[d] free. Messages stay on their
way (a reply may lose sectors of L1), and registers that wait for one go on waiting. -/
structure Issues (d : Reg) (P : Nat → Prop) (s t : State) : Prop where
  cur : t.cur = s.cur
  pc : t.me.pc = s.me.pc
  tset : s.me.Keeps t.me
  regs : OnlyG d P s.me.a t.me.a
  mem : t.mem = s.mem
  slices : t.slices = s.slices
  jost : t.jost = s.jost
  waits : ∀ b ∈ s.me.busy, b.due = none → b ∈ t.me.busy
  sent : ∀ e, (∀ r, e ≠ .loadReply r) → Sent s e → Sent t e

section

variable {d : Reg} {P : Nat → Prop} {s t u : State}

theorem Issues.refl (d : Reg) (P : Nat → Prop) (s : State) : Issues d P s s :=
  ⟨rfl, rfl, TSet.Keeps.refl _, OnlyG.refl d P _, rfl, rfl, rfl, fun _ h _ => h, fun _ _ h => h⟩

theorem Issues.mono {Q : Nat → Prop} (h : Issues d P s t) (hPQ : ∀ p, P p → Q p) : Issues d Q s t :=
  ⟨h.cur, h.pc, h.tset, h.regs.mono hPQ, h.mem, h.slices, h.jost, h.waits, h.sent⟩

theorem Issues.trans (h : Issues d P s t) (k : Issues d P t u) : Issues d P s u where
  cur := k.cur.trans h.cur
  pc := k.pc.trans h.pc
  tset := TSetKeeps.trans h.tset k.tset
  regs := h.regs.trans k.regs
  mem := k.mem.trans h.mem
  slices := k.slices.trans h.slices
  jost := k.jost.trans h.jost
  waits b hb hd := k.waits b (h.waits b hb hd) hd
  sent e he hs := k.sent e he (h.sent e he hs)

/-- A change of what the relation does not speak of. -/
theorem Issues.of_ts (hcur : t.cur = s.cur) (hts : t.ts = s.ts) (hmem : (t.mem, t.slices, t.jost) = (s.mem, s.slices, s.jost))
    (hsent : ∀ e, (∀ r, e ≠ .loadReply r) → Sent s e → Sent t e) : Issues d P s t := by
  have hme : t.me = s.me := by
    unfold State.me State.t
    rw [hcur, hts]
  simp only [Prod.mk.injEq] at hmem
  obtain ⟨h1, h2, h3⟩ := hmem
  exact ⟨hcur, by rw [hme], by rw [hme]; exact TSet.Keeps.refl _, by rw [hme]; exact OnlyG.refl d P _, h1, h2, h3,
    by rw [hme]; exact fun _ h _ => h, hsent⟩

theorem Issues.push (s : State) (e : Ev) : Issues d P s (s.push e) :=
  .of_ts rfl rfl rfl (fun _ _ ⟨due, h⟩ => ⟨due, mem_insAt_of_mem _ _ _ h⟩)

theorem Issues.upCore (s : State) (k : Nat) (f : CoreSt → CoreSt) : Issues d P s (s.upCore k f) := .of_ts rfl rfl rfl (fun _ _ h => h)

theorem Issues.upCC (s : State) (k : Nat) (f : CC → CC) : Issues d P s (s.upCC k f) := .of_ts rfl rfl rfl (fun _ _ h => h)

/-- A change of the current thread set. -/
theorem Issues.upMe (s : State) (f : TSet → TSet) (hpc : (f s.me).pc = s.me.pc) (htset : s.me.Keeps (f s.me))
    (hregs : OnlyG d P s.me.a (f s.me).a) (hwaits : ∀ b ∈ s.me.busy, b.due = none → b ∈ (f s.me).busy) : Issues d P s (s.upMe f) :=
  ⟨rfl, by rw [upMe_me, hpc], by rw [upMe_me]; exact htset, by rw [upMe_me]; exact hregs, rfl, rfl, rfl, by rw [upMe_me]; exact hwaits,
    fun _ _ h => h⟩

theorem keeps_issued (t : TSet) (a : Arch) (b : List Busy) (e : BitVec 64) : t.Keeps { t with a := a, busy := b, evts := e } :=
  ⟨rfl, rfl, rfl, rfl, rfl, rfl, rfl, rfl, rfl, rfl, rfl, rfl, rfl, rfl, rfl, rfl, rfl, rfl, rfl, rfl, rfl⟩

/-- Registers, what waits for a reply, and events counted. -/
theorem Issues.renewed (s : State) {f : TSet → TSet} {a : Arch} {b : List Busy} {l : List (Nat × Nat)} {e : BitVec 64}
    (hf : f s.me = { s.me with a := a, busy := b ++ (s.me.renew l).busy, evts := e }) (hregs : OnlyG d P s.me.a a) :
    Issues d P s (s.upMe f) := by
  refine .upMe s f (by rw [hf]) (by rw [hf]; exact keeps_issued s.me _ _ _) (by rw [hf]; exact hregs) fun x hx hd => ?_
  rw [hf]
  exact List.mem_append_right _ (List.mem_filter.mpr ⟨hx, by rw [hd]; rfl⟩)

/-- An event counted by any thread set. -/
theorem Issues.evt (s : State) (tk code : Nat) : Issues d P s (s.evt tk code) := by
  by_cases htk : tk = s.cur
  · subst htk
    exact .upMe s (fun t => t.ev code) rfl (keeps_issued s.me _ _ _) (OnlyG.refl d P _) (fun _ h _ => h)
  · have hme : (s.evt tk code).me = s.me := upT_at_ne s _ (fun e => htk e.symm)
    exact ⟨rfl, by rw [hme], by rw [hme]; exact TSet.Keeps.refl _, by rw [hme]; exact OnlyG.refl d P _, rfl, rfl, rfl,
      by rw [hme]; exact fun _ h _ => h, fun _ _ h => h⟩

theorem Issues.foldl {α : Type} {f : State → α → State} {xs : List α} (hf : ∀ u, ∀ x ∈ xs, Issues d P s u → Issues d P u (f u x))
    (h : Issues d P s t) : Issues d P s (xs.foldl f t) := by
  induction xs generalizing t with
  | nil => exact h
  | cons x xs ih => exact ih (fun u y hy => hf u y (List.mem_cons_of_mem x hy)) (h.trans (hf t x List.mem_cons_self h))

/-- What each access leaves and later ones keep. -/
theorem Issues.foldl_each {α : Type} {f : State → α → State} {xs : List α} {Q : α → State → Prop}
    (hf : ∀ u, ∀ x ∈ xs, Issues d P s u → Issues d P u (f u x)) (hest : ∀ u, ∀ x ∈ xs, Issues d P s u → Q x (f u x))
    (hkeep : ∀ x u v, Issues d P u v → Q x u → Q x v) (h : Issues d P s t) : ∀ x ∈ xs, Q x (xs.foldl f t) := by
  induction xs generalizing t with
  | nil => exact fun _ hx => nomatch hx
  | cons y xs ih =>
    have hy := h.trans (hf t y List.mem_cons_self h)
    intro x hx
    rcases List.mem_cons.mp hx with rfl | hx
    · refine hkeep x (f t x) _ (Issues.foldl (s := f t x) (t := f t x) (fun u z hz hu => ?_) (Issues.refl d P _)) (hest t x List.mem_cons_self h)
      exact hf u z (List.mem_cons_of_mem _ hz) (hy.trans hu)
    · exact ih (fun u z hz => hf u z (List.mem_cons_of_mem y hz)) (fun u z hz => hest u z (List.mem_cons_of_mem y hz)) hy x hx

theorem Issues.isReg (h : Issues d P s t) (pa : Nat) : t.isReg pa = s.isReg pa := by
  unfold State.isReg State.paClass
  rw [h.jost]

theorem Issues.specOn (h : Issues d P s t) : t.me.specOn = s.me.specOn := by
  obtain ⟨g, g1, g2, v, v1, v2, m, fm, sr, hb⟩ := h.regs.banks
  rw [TSet.specOn, TSet.specOn, hb]

theorem Issues.place (h : Issues d P s t) : SamePlace s t := by
  obtain ⟨g, g1, g2, v, v1, v2, m, fm, sr, hb⟩ := h.regs.banks
  exact ⟨h.cur, h.pc, h.tset.pmctl, by rw [hb], by rw [hb], by rw [hb], by rw [hb], by rw [hb]⟩

theorem Issues.bytes (h : Issues d P s t) (home pa : Nat) : t.byteAt home pa = s.byteAt home pa := byteAt_congr h.mem h.slices home pa

end

/-! ### The end of the instruction -/

/-- `t` is `s` once an instruction of 4 bytes has made its accesses and completed. -/
structure Accesses (d : Reg) (P : Nat → Prop) (s t : State) : Prop where
  pc : t.me.pc = s.nextPc 4
  bytes : ∀ home pa, t.byteAt home pa = s.byteAt home pa
  regs : s.me.a.Keeps t.me.a (fun r p => r = d ∧ P p) NoReg NoMask
  tset : s.me.Keeps t.me

theorem retire_sent {s : State} (hs : s.stepping = false) (len extra : Nat) (e : Ev) : Sent (s.retire len extra) e ↔ Sent s e := by
  obtain ⟨st, lc, lstat, q, ev, pa, hret, -⟩ := retireW_spec s len extra countWindow true hs
  unfold State.retire Sent
  rw [hret]
  exact Iff.rfl

/-- After the accesses, the registers change in g[d] alone and the instruction completes. -/
theorem Issues.retire {d : Reg} {P : Nat → Prop} {s u : State} (h : Issues d P s u) (hs : s.stepping = false) {f : Arch → Arch}
    (hf : OnlyG d P u.me.a (f u.me.a)) (extra : Nat) :
    Accesses d P s ((u.upA f).retire 4 extra) ∧ (∀ p r, ((u.upA f).retire 4 extra).me.a.gp p r = (f u.me.a).gp p r) ∧
      ((u.upA f).retire 4 extra).me.busy = u.me.busy ∧ ∀ e, Sent ((u.upA f).retire 4 extra) e ↔ Sent u e := by
  have hus : u.stepping = false := h.place.stepping.trans hs
  obtain ⟨hstep, hg, -, -, -, -, hbusy⟩ := regStep_banks u f id 4 extra hus hf.banks hf.keeps
  obtain ⟨g, g1, g2, v, v1, v2, m, fm, sr, hb⟩ := hf.banks
  have hstep' : (u.upA f).stepping = false := (stepping_upA u f (by rw [hb])).trans hus
  refine ⟨⟨?_, ?_, ?_, ?_⟩, hg, hbusy, fun e => retire_sent hstep' 4 extra e⟩
  · exact hstep.pc.trans (h.place.nextPc 4)
  · exact fun home pa => (hstep.rest.bytes home pa).trans (h.bytes home pa)
  · exact ArchKeeps.trans h.regs.keeps hstep.regs
  · exact TSetKeeps.trans h.tset hstep.tset

/-! ### Addresses that pass -/

theorem plan_length {s s1 : State} {tk : Nat} {c : Checks} {eas : List Word} {hs : List Hit} (h : s.plan tk c eas = (.ok hs, s1)) :
    hs.length = eas.length := by
  induction eas generalizing s hs with
  | nil =>
    rw [State.plan] at h
    cases h
    rfl
  | cons ea eas ih =>
    rw [State.plan] at h
    split at h
    · cases h
    · split at h
      · cases h
      · cases h
      · cases h
      · split at h
        · cases h
        · split at h
          · rename_i hs' s2 hrest
            cases h
            rw [List.length_cons, List.length_cons, ih hrest]
          · rename_i r hno
            exact absurd h (fun e => hno _ _ e)

theorem planned_passes {s s1 : State} {c : Checks} {eas : List Word} {ts : List Touch} {hs : List Hit} (h : PassesOn s c eas ts hs s1)
    (k : List Hit → State → Out) : s.planned c eas k = k hs s1 := by
  rw [State.planned, h.1]

theorem watched_passes {s s1 : State} {c : Checks} {eas : List Word} {ts : List Touch} {hs : List Hit} (h : PassesOn s c eas ts hs s1)
    (k : Out) : s1.watched ts k = k := by
  rw [State.watched, h.2.1]

theorem regWait_of_memory {s : State} {hs : List Hit} (h : ∀ x ∈ hs, s.isReg x.pa = false) : s.regWait hs = false := by
  unfold State.regWait
  rw [List.any_eq_false.mpr (fun x hx => by rw [h x hx]; exact Bool.false_ne_true), Bool.false_and]

theorem planes_congr {t u : TSet} (h : t.a = u.a) (on : Bool) : t.planes on = u.planes on := by
  unfold TSet.planes TSet.dual TSet.dact TSet.dpln TSet.priv
  rw [h]

theorem otherPlanes_congr {t u : TSet} (h : t.a = u.a) (on : Bool) : otherPlanes t on = otherPlanes u on := by
  unfold otherPlanes TSet.dual TSet.dact TSet.dpln TSet.priv
  rw [h]

/-! ### One load (05 R97, R99) -/

/-- May L1 serve the load? -/
def servable (s : State) (h : Hit) (o : LoadOp) : Prop :=
  o.fresh = false ∧ o.acq = false ∧ h.pte.getLsbD 9 = false ∧ isSys s.cur = false ∧ s.me.specOn = false

/-- The request of a load. -/
structure LoadReq (s : State) (h : Hit) (dst : Dst) (o : LoadOp) (r : Req) : Prop where
  who : r.who = s.cur
  kind : r.kind = .load
  pa : r.pa = h.pa
  home : r.home = h.home
  len : r.len = o.len
  dst : r.dst = dst
  pl : r.pl = o.pl
  acq : r.acq = (o.acq && !s.me.specOn)

theorem load_of_l1 {s : State} {h : Hit} {dst : Dst} {o : LoadOp} (hserve : servable s h o) {x : BitVec 512}
    (hx : s.l1Read s.cur o.pl h.pa o.len = some x) : s.load h dst o = s.upMe (fun t =>
      { (t.ev 0x04).readyBy dst (s.cyc + o.lat + t.extra) with a := t.a.land dst o.len (mixBytes o.keep o.old x o.len) }) := by
  obtain ⟨hfresh, hacq, hnc, hsys, hspec⟩ := hserve
  unfold State.load
  simp only [hfresh, hacq, hnc, hsys, hspec, Bool.or_false, Bool.false_eq_true, if_false, hx]

theorem load_of_miss {s : State} {h : Hit} {dst : Dst} {o : LoadOp}
    (hmiss : ¬ servable s h o ∨ s.l1Read s.cur o.pl h.pa o.len = none) : ∃ r, LoadReq s h dst o r ∧
      s.load h dst o = (s.upMe (fun t => (if o.fresh || o.acq then t else t.ev 0x05).await dst)).push (.homeLoadServe r) := by
  have hnone : (if o.fresh || o.acq || h.pte.getLsbD 9 || isSys s.cur || s.me.specOn then none
      else s.l1Read s.cur o.pl h.pa o.len) = none := by
    by_cases hserve : servable s h o
    · rw [hmiss.resolve_left (fun hn => hn hserve)]
      exact ite_self _
    · refine if_pos ?_
      unfold servable at hserve
      simp only [Bool.or_eq_true]
      grind
  unfold State.load
  simp only [hnone]
  exact ⟨_, ⟨rfl, rfl, rfl, rfl, rfl, rfl, rfl, rfl⟩, rfl⟩

/-- A destination that has its bytes, and an event. -/
theorem TSet.ready_eq (t : TSet) (dst : Dst) (code due : Nat) (a : Arch) :
    { (t.ev code).readyBy dst due with a := a } = { t with
      a := a
      busy := (((dstBusy dst).map (fun b => (b.cls, b.r))).map (fun x => { cls := x.1, r := x.2, due := some due })) ++
        (t.renew ((dstBusy dst).map (fun b => (b.cls, b.r)))).busy
      evts := (t.ev code).evts } := by
  rw [TSet.readyBy, TSet.soon, TSet.renew, TSet.ev, TSet.renew]

/-- A load changes its own plane of its destination. -/
theorem load_issues (s : State) (h : Hit) {d : Reg} {dst : Dst} {o : LoadOp} {p : Nat} (hp : p ≤ 2)
    (hdst : dst = .none ∨ ∃ z, dst = .g d p z) : Issues d (· = p) s (s.load h dst o) := by
  have hland (a : Arch) (n : Nat) (x : BitVec 512) : OnlyG d (· = p) a (a.land dst n x) := by
    rcases hdst with rfl | ⟨z, rfl⟩
    · exact OnlyG.refl d _ a
    · exact OnlyG.setG a d hp _
  by_cases hserve : servable s h o ∧ (s.l1Read s.cur o.pl h.pa o.len).isSome
  · obtain ⟨hserve, hsome⟩ := hserve
    obtain ⟨x, hx⟩ := Option.isSome_iff_exists.mp hsome
    rw [load_of_l1 hserve hx]
    exact .renewed s (TSet.ready_eq s.me dst 0x04 _ _) (hland _ _ _)
  · have hmiss : ¬ servable s h o ∨ s.l1Read s.cur o.pl h.pa o.len = none := by
      rw [← Option.not_isSome_iff_eq_none]
      tauto
    obtain ⟨r, -, hload⟩ := load_of_miss hmiss
    rw [hload]
    refine Issues.trans ?_ (Issues.push _ _)
    refine .renewed s (a := s.me.a) (b := dstBusy dst) (l := (dstBusy dst).map (fun b => (b.cls, b.r)))
      (e := if o.fresh || o.acq then s.me.evts else (s.me.ev 0x05).evts) ?_ (OnlyG.refl d _ _)
    split <;> rfl

/-! ### LD -/

/-- The destination of plane `p`. -/
def ldDst (d : Reg) (z : BitVec 3) (p : Nat) : Dst := if d = 0 then .none else .g d p z.toNat

/-- The load of plane `p`. -/
def ldOp (z : BitVec 3) (q : BitVec 2) (p : Nat) : LoadOp := { len := loadLen z, fresh := (q == 1), acq := (q == 2), lat := 4, pl := p }

/-- The loads of an LD, plane by plane. -/
def ldLoads (d : Reg) (z : BitVec 3) (q : BitVec 2) (s : State) (xs : List (Nat × Hit)) : State :=
  xs.foldl (fun s x => s.loadOne x.2 (ldDst d z x.1) (ldOp z q x.1)) s

theorem loadOne_of_memory {s : State} {h : Hit} (hreg : s.isReg h.pa = false) (dst : Dst) (o : LoadOp) :
    s.loadOne h dst o = s.load h dst o := by
  rw [State.loadOne, hreg, if_neg Bool.false_ne_true]

section

variable {d : Reg} {z : BitVec 3} {q : BitVec 2} {s : State} {xs : List (Nat × Hit)} {P : Nat → Prop}
  (hreg : ∀ x ∈ xs, s.isReg x.2.pa = false) (hle : ∀ x ∈ xs, x.1 ≤ 2) (hP : ∀ x ∈ xs, P x.1)

include hreg hle hP

theorem ldLoads_step (u : State) (x : Nat × Hit) (hx : x ∈ xs) (hu : Issues d P s u) :
    Issues d P u (u.loadOne x.2 (ldDst d z x.1) (ldOp z q x.1)) := by
  rw [loadOne_of_memory ((hu.isReg _).trans (hreg x hx))]
  refine (load_issues u x.2 (hle x hx) ?_).mono (fun p (hp : p = x.1) => hp ▸ hP x hx)
  unfold ldDst
  split
  · exact .inl rfl
  · exact .inr ⟨_, rfl⟩

theorem ldLoads_issues : Issues d P s (ldLoads d z q s xs) :=
  Issues.foldl (ldLoads_step hreg hle hP) (Issues.refl d P s)

/-- A plane's load that L1 may not serve is sent, and its destination waits. -/
theorem ldLoads_sent (hmiss : q = 1 ∨ q = 2 ∨ isSys s.cur = true ∨ s.me.specOn = true) : ∀ x ∈ xs,
    (d ≠ 0 → { cls := 0, r := d.toNat, due := none } ∈ (ldLoads d z q s xs).me.busy) ∧
      ∃ r, Sent (ldLoads d z q s xs) (.homeLoadServe r) ∧ LoadReq s x.2 (ldDst d z x.1) (ldOp z q x.1) r := by
  refine Issues.foldl_each (Q := fun x u => (d ≠ 0 → { cls := 0, r := d.toNat, due := none } ∈ u.me.busy) ∧
    ∃ r, Sent u (.homeLoadServe r) ∧ LoadReq s x.2 (ldDst d z x.1) (ldOp z q x.1) r) (ldLoads_step hreg hle hP) ?_ ?_ (Issues.refl d P s)
  · intro u x hx hu
    have hno : ¬ servable u x.2 (ldOp z q x.1) := by
      rintro ⟨hfresh, hacq, -, hsys, hspec⟩
      rw [hu.cur] at hsys
      rw [hu.specOn] at hspec
      rcases hmiss with rfl | rfl | h | h
      · cases hfresh
      · cases hacq
      · exact absurd (h.symm.trans hsys) (by decide)
      · exact absurd (h.symm.trans hspec) (by decide)
    obtain ⟨r, hr, hload⟩ := load_of_miss (dst := ldDst d z x.1) (.inl hno)
    rw [loadOne_of_memory ((hu.isReg _).trans (hreg x hx)), hload]
    refine ⟨fun hd => ?_, r, ⟨_, pushAt_sent _ _ _⟩, ⟨hr.who.trans hu.cur, hr.kind, hr.pa, hr.home, hr.len, hr.dst, hr.pl, ?_⟩⟩
    · rw [push_me, upMe_me, ldDst, if_neg hd]
      exact List.mem_cons_self
    · rw [hr.acq, hu.specOn]
  · rintro x u v huv ⟨hbusy, r, hsent, hr⟩
    exact ⟨fun hd => huv.waits _ (hbusy hd) rfl, r, huv.sent _ (fun _ => by simp) hsent, hr⟩

end

theorem execLd_passes {d a : Reg} {z : BitVec 3} {q : BitVec 2} {o : BitVec 11} {s s1 : State} {hs : List Hit}
    (h : Passes s { kind := .load, al := loadLen z, ctr := none, regs := (loadLen z == 8) }
      ((s.me.planes (loadDual z)).map (s.me.a.gea (s.ea a o))) (loadLen z) true false hs s1) (hreg : ∀ h ∈ hs, s1.isReg h.pa = false) :
    exec (.ld d a z q o) s = s1.marking hs (.next (((ldLoads d z q s1 ((s.me.planes (loadDual z)).zip hs)).upA
      (fun a => a.zeroPlanes (otherPlanes s.me (loadDual z)) d)).doneD 4)) := by
  refine (planned_passes h _).trans ((watched_passes h _).trans ?_)
  rw [regWait_of_memory hreg]
  rfl

/-- What a load that L1 serves leaves in its destination. -/
theorem gp_of_served {s : State} {h : Hit} {d : Reg} {z : BitVec 3} {q : BitVec 2} (hserve : servable s h (ldOp z q 0)) {x : BitVec 512}
    (hx : s.l1Read s.cur 0 h.pa (loadLen z) = some x) : (s.load h (ldDst d z 0) (ldOp z q 0)).me.a.gp 0 d =
      if d = 0 then 0 else loadExt z.toNat (x.toNat % 2 ^ (8 * loadLen z)) := by
  have hmix (n : Nat) : mixBytes 0 0 x n = x := by
    unfold mixBytes
    induction span 0 n with
    | nil => rfl
    | cons i l ih =>
      rw [List.foldl_cons, if_neg (by simp)]
      exact ih
  have hbits (n : Nat) : wbits x 0 n = x.toNat % 2 ^ n := by
    rw [wbits, bits, Nat.pow_zero, Nat.div_one]
  rw [load_of_l1 hserve hx, upMe_me]
  unfold ldDst
  by_cases hd : d = 0
  · rw [if_pos hd, if_pos hd, hd, gp_zero_reg]
  · rw [if_neg hd]
    refine (gp_setG_same _ (Nat.zero_le 2) d _).trans ?_
    rw [show mixBytes (ldOp z q 0).keep (ldOp z q 0).old x (ldOp z q 0).len = x from hmix _, hbits]
    rfl

/-- Settles O11: each plane's load is an access that leaves the others' messages and destinations alone. -/
theorem loadsComplete : Obligations.LoadsComplete := by
  unfold Obligations.LoadsComplete
  intro d a z q o s s1 hs n ps hwf hpass hreg
  have hexec := execLd_passes (d := d) (q := q) hpass hreg
  obtain ⟨-, -, hstep, hcur, harch⟩ := hpass
  refine ⟨fun hfull => ?_, fun hfull => ?_⟩
  · rw [hexec, State.marking, if_pos hfull]
    rfl
  rw [State.marking, hfull, if_neg Bool.false_ne_true] at hexec
  have hps : ps = s1.me.planes (loadDual z) := planes_congr harch.symm _
  have hin : ∀ x ∈ ps.zip hs, x.1 ∈ ps ∧ x.2 ∈ hs := fun x hx => ⟨List.of_mem_zip hx |>.1, List.of_mem_zip hx |>.2⟩
  have hreg' : ∀ x ∈ ps.zip hs, s1.isReg x.2.pa = false := fun x hx => hreg _ (hin x hx).2
  have hle : ∀ x ∈ ps.zip hs, x.1 ≤ 2 := fun x hx => planes_le _ _ _ (hin x hx).1
  have hP : ∀ x ∈ ps.zip hs, x.1 = 0 ∨ x.1 ∈ s1.me.dual := fun x hx => mem_planes (hps ▸ (hin x hx).1)
  have hissues : Issues d (fun p => p = 0 ∨ p ∈ s1.me.dual) s1 (ldLoads d z q s1 (ps.zip hs)) := ldLoads_issues hreg' hle hP
  have hzero : OnlyG d (fun p => p = 0 ∨ p ∈ s1.me.dual) (ldLoads d z q s1 (ps.zip hs)).me.a
      ((ldLoads d z q s1 (ps.zip hs)).me.a.zeroPlanes (otherPlanes s.me (loadDual z)) d) := by
    rw [otherPlanes_congr harch.symm]
    exact OnlyG.foldl (fun p hp x => (OnlyG.setG x d (dual_le_two _ p (mem_otherPlanes hp).1) 0).mono
      (fun q (e : q = p) => e ▸ .inr (mem_otherPlanes hp).1)) _
  obtain ⟨⟨hpc, hbytes, hregs, htset⟩, hgp, hbusy, hsent⟩ := hissues.retire hstep
    (f := fun a => a.zeroPlanes (otherPlanes s.me (loadDual z)) d) hzero _
  refine ⟨_, hexec, hpc, hbytes, hregs, htset, ?_, ?_⟩
  · intro h x hps0 hhs0 hq hnc hsys hspec hx
    have hone : ldLoads d z q s1 (ps.zip hs) = s1.load h (ldDst d z 0) (ldOp z q 0) := by
      rw [hps0, hhs0]
      exact loadOne_of_memory (hreg h (hhs0 ▸ List.mem_singleton_self h)) _ _
    have hother : 0 ∉ otherPlanes s.me (loadDual z) := fun h0 => by have := (dual_le _ _ (mem_otherPlanes h0).1).1; omega
    refine (hgp 0 d).trans ?_
    rw [Arch.zeroPlanes, gp_foldl_setG _ (fun p hp => dual_le_two _ p (mem_otherPlanes hp).1) _ _ _ (Nat.zero_le 2),
      if_neg (fun h0 => hother h0.2.1), hone]
    exact gp_of_served ⟨by rw [ldOp, hq]; rfl, by rw [ldOp, hq]; rfl, hnc, hcur ▸ hsys, hspec⟩ (hcur ▸ hx)
  · intro hmiss p h hx
    have hq : q.toNat < 3 := by
      have hok : (WellFormed.loadSizeOk z && WellFormed.loadQualOk q) = true := hwf
      exact of_decide_eq_true (Bool.and_eq_true_iff.mp hok).2
    have hmiss' : q = 1 ∨ q = 2 ∨ isSys s1.cur = true ∨ s1.me.specOn = true := by
      rw [hcur]
      rcases hmiss with h0 | h0 | h0
      · bv_omega
      · exact .inr (.inr (.inl h0))
      · exact .inr (.inr (.inr h0))
    obtain ⟨hwait, r, hr, hreq⟩ := ldLoads_sent (P := fun p => p = 0 ∨ p ∈ s1.me.dual) hreg' hle hP hmiss' (p, h) hx
    refine ⟨fun hd => ?_, r, (hsent _).mpr hr, hreq.who.trans hcur, hreq.kind, hreq.pa, hreq.home, hreq.len, hreq.dst, hreq.pl, hreq.acq⟩
    rw [State.doneD, hbusy]
    exact hwait hd

end Sys2Proof.Claims
end

section
/-! # Stores leave the core, or are held

Outside speculation each plane's store goes to its home slice, under speculation into the hold buffer, where a store of at most eight
bytes takes at most two entries. -/

namespace Sys2Proof.Claims

open Sys2Proof.Machine

/-! ### What a store leaves alone -/

section

variable {d : Reg} {P : Nat → Prop}

/-- A store removes sectors of L1, and those that replies carry; nothing else in flight changes. -/
theorem dropL1_pend (s : State) (core : Nat) (ks : List Nat) (e : Ev) (he : ∀ r, e ≠ .loadReply r) :
    Sent (s.dropL1 core ks) e ↔ Sent s e := by
  have hmem (due : Nat) : { due := due, ev := e } ∈ (s.dropL1 core ks).pend ↔ { due := due, ev := e } ∈ s.pend := by
    unfold State.dropL1
    dsimp only
    rw [List.mem_map]
    constructor
    · rintro ⟨x, hx, hxe⟩
      split at hxe
      · split at hxe
        · exact absurd (congrArg Pend.ev hxe).symm (he _)
        · exact hxe ▸ hx
      · exact hxe ▸ hx
    · intro hx
      refine ⟨_, hx, ?_⟩
      split
      · rename_i r hr
        exact absurd hr (he r)
      · rfl
  exact exists_congr hmem

theorem Issues.dropL1 (s : State) (core : Nat) (ks : List Nat) : Issues d P s (s.dropL1 core ks) :=
  .of_ts rfl rfl rfl (fun e he h => (dropL1_pend s core ks e he).mpr h)

theorem Issues.sendRes (s : State) (core : Nat) (p : Res → Bool) : Issues d P s (s.sendRes core p) := by
  refine Issues.foldl (fun u i _ _ => ?_) (Issues.refl d P s)
  split
  · exact Issues.refl d P u
  · split
    · refine Issues.foldl (fun v k _ _ => ?_) (((Issues.upCore u _ _).trans (Issues.upCC _ _ _)).trans (Issues.push _ _))
      split
      · exact Issues.evt v _ _
      · exact Issues.refl d P v
    · exact Issues.refl d P u

theorem Issues.relStep (s : State) (tk scope : Nat) : Issues d P s (s.relStep tk scope) := by
  unfold State.relStep
  split
  · exact Issues.refl d P s
  · exact Issues.sendRes s _ _

end

/-! ### One store -/

/-- A store's request as it leaves the core. -/
def stReq (s : State) (h : Hit) (pl len : Nat) (mask : BitVec 64) (data : BitVec 512) (rel : Bool) : Req :=
  let r : Req := { s.req s.cur .store h.ea h.pa h.home h.pte len with mask := mask, data := data, pl := pl }
  if rel then asRel r 4 else r

/-- The machine once the store's sectors have left L1. -/
def stDropped (s : State) (h : Hit) (len : Nat) (mask : BitVec 64) : State :=
  if isSys s.cur then s else s.dropL1 (coreOf s.cur) (maskSectors h.pa len mask)

theorem store_eq (s : State) (h : Hit) (pl len : Nat) (mask : BitVec 64) (data : BitVec 512) (rel : Bool) :
    s.store h pl len mask data rel =
      if (stDropped s h len mask).me.specOn then
        match holdPut (tieOf (stReq s h pl len mask data rel)) ((stDropped s h len mask).core (coreOf s.cur)).hold
            (holdPieces (stReq s h pl len mask data rel)) with
        | none => none
        | some l => some (((stDropped s h len mask).upCore (coreOf s.cur) (fun c => { c with hold := l })).evt s.cur 0x11)
      else some ((if rel then (stDropped s h len mask).relStep s.cur 4 else stDropped s h len mask).push
        (.homeStoreApply (stReq s h pl len mask data rel))) := rfl

theorem stDropped_issues {d : Reg} {P : Nat → Prop} (s : State) (h : Hit) (len : Nat) (mask : BitVec 64) :
    Issues d P s (stDropped s h len mask) := by
  unfold stDropped
  split
  · exact Issues.refl d P s
  · exact Issues.dropL1 s _ _

theorem upCore_hold (s : State) (k j : Nat) {f : CoreSt → CoreSt} (hf : ∀ c, (f c).hold = c.hold) :
    ((s.upCore k f).core j).hold = (s.core j).hold := by
  by_cases hj : j = k
  · subst hj
    rw [upCore_at_same, hf]
  · rw [upCore_at_ne s f hj]

theorem stDropped_hold (s : State) (h : Hit) (len : Nat) (mask : BitVec 64) (k : Nat) :
    ((stDropped s h len mask).core k).hold = (s.core k).hold := by
  unfold stDropped
  split
  · rfl
  · exact upCore_hold s (coreOf s.cur) k
      (f := fun c => { c with l1 := c.l1.filter (fun x => !(maskSectors h.pa len mask).contains x.sector) }) (fun _ => rfl)

theorem stDropped_sent (s : State) (h : Hit) (len : Nat) (mask : BitVec 64) (r : Req) :
    Sent (stDropped s h len mask) (.homeStoreApply r) ↔ Sent s (.homeStoreApply r) := by
  unfold stDropped
  split
  · exact Iff.rfl
  · exact dropL1_pend s _ _ _ (fun _ => by simp)

/-! ### Outside speculation -/

theorem store_of_unspec {s : State} (hspec : s.me.specOn = false) (h : Hit) (pl len : Nat) (mask : BitVec 64) (data : BitVec 512)
    (rel : Bool) {d : Reg} {P : Nat → Prop} : ∃ u, s.store h pl len mask data rel = some u ∧ Issues d P s u ∧
      Sent u (.homeStoreApply (stReq s h pl len mask data rel)) := by
  have hdrop : Issues d P s (stDropped s h len mask) := stDropped_issues s h len mask
  refine ⟨_, (store_eq s h pl len mask data rel).trans (if_neg ?_), ?_, _, pushAt_sent _ _ _⟩
  · rw [hdrop.specOn, hspec]
    exact Bool.false_ne_true
  · refine Issues.trans ?_ (Issues.push _ _)
    split
    · exact hdrop.trans (Issues.relStep _ _ _)
    · exact hdrop

/-! ### The hold buffer (14 R283) -/

theorem setAt_length {α : Type} (l : List α) (k : Nat) (x : α) : (setAt l k x).length = l.length := by
  induction l generalizing k with
  | nil => rfl
  | cons y l ih =>
    cases k with
    | zero => rfl
    | succ k => rw [setAt, List.length_cons, List.length_cons, ih]

/-- A slot that a piece merges into holds an entry of its thread set. -/
theorem holdSlot_some {l : List Held} {r : Req} {i : Nat} (h : holdSlot l r = some i) : ∃ e, l[i]? = some e ∧ e.r.who = r.who := by
  unfold holdSlot at h
  split at h
  · cases h
  · have hfound := List.find?_some h
    split at hfound
    · rename_i e he
      simp only [Bool.and_eq_true, beq_iff_eq] at hfound
      obtain ⟨⟨hwho, -⟩, -⟩ := hfound
      exact ⟨e, he, hwho⟩
    · cases hfound

/-- The pieces of a store find room where each could have an entry of its own. -/
theorem holdPut_room (tie : List Nat) (rs : List Req) : ∀ l : List Held, l.length + rs.length ≤ 64 →
    ∃ l', holdPut tie l rs = some l' ∧ l'.length ≤ l.length + rs.length := by
  induction rs with
  | nil => exact fun l _ => ⟨l, rfl, Nat.le_refl _⟩
  | cons r rs ih =>
    intro l hl
    rw [List.length_cons] at hl
    rw [holdPut]
    cases hslot : holdSlot l r with
    | some i =>
      obtain ⟨e, he, -⟩ := holdSlot_some hslot
      simp only [he]
      obtain ⟨l', hput, hlen⟩ := ih (setAt l i (mergeHeld e tie r)) (by rw [setAt_length]; omega)
      rw [setAt_length] at hlen
      exact ⟨l', hput, by rw [List.length_cons]; omega⟩
    | none =>
      simp only [show l.length < 64 by omega, if_true]
      obtain ⟨l', hput, hlen⟩ := ih (l ++ [{ sector := r.pa / 48, rel := r.rel, ties := tie, r := r }])
        (by rw [List.length_append, List.length_singleton]; omega)
      rw [List.length_append, List.length_singleton] at hlen
      exact ⟨l', hput, by rw [List.length_cons]; omega⟩

/-- A full buffer with no entry of the thread set takes nothing. -/
theorem holdPut_full (tie : List Nat) {l : List Held} {r : Req} (rs : List Req) (hfull : 64 ≤ l.length) (hown : ∀ e ∈ l, e.r.who ≠ r.who) :
    holdPut tie l (r :: rs) = none := by
  rw [holdPut]
  cases hslot : holdSlot l r with
  | some i =>
    obtain ⟨e, he, hwho⟩ := holdSlot_some hslot
    exact absurd hwho (hown e (List.mem_of_getElem? he))
  | none => exact if_neg (by omega)

theorem span_length (lo n : Nat) : (span lo n).length = n := by
  rw [span_eq_range', List.length_range']

/-- At most eight bytes lie in one sector or in two. -/
theorem holdPieces_length {r : Req} (hlen : 0 < r.len) (h8 : r.len ≤ 8) : 0 < (holdPieces r).length ∧ (holdPieces r).length ≤ 2 := by
  rw [holdPieces, List.length_map, sectors, span_length]
  omega

theorem stReq_len (s : State) (h : Hit) (pl len : Nat) (mask : BitVec 64) (data : BitVec 512) (rel : Bool) :
    (stReq s h pl len mask data rel).len = len := by
  unfold stReq
  split <;> rfl

theorem stReq_who (s : State) (h : Hit) (pl len : Nat) (mask : BitVec 64) (data : BitVec 512) (rel : Bool) :
    (stReq s h pl len mask data rel).who = s.cur := by
  unfold stReq
  split <;> rfl

theorem holdPieces_who {r p : Req} (h : p ∈ holdPieces r) : p.who = r.who := by
  obtain ⟨k, -, rfl⟩ := List.mem_map.mp h
  rfl

/-- A store of at most eight bytes that is held. -/
theorem store_of_spec {s : State} (hspec : s.me.specOn = true) (h : Hit) (pl : Nat) {len : Nat} (hlen : 0 < len ∧ len ≤ 8)
    (mask : BitVec 64) (data : BitVec 512) (rel : Bool) (hroom : (s.core (coreOf s.cur)).hold.length + 2 ≤ 64) {d : Reg} {P : Nat → Prop} :
    ∃ u, s.store h pl len mask data rel = some u ∧ Issues d P s u ∧ (∀ r, Sent u (.homeStoreApply r) → Sent s (.homeStoreApply r)) ∧
      (u.core (coreOf s.cur)).hold.length ≤ (s.core (coreOf s.cur)).hold.length + 2 := by
  have hdrop : Issues d P s (stDropped s h len mask) := stDropped_issues s h len mask
  obtain ⟨-, htwo⟩ := holdPieces_length (r := stReq s h pl len mask data rel) (by rw [stReq_len]; exact hlen.1)
    (by rw [stReq_len]; exact hlen.2)
  obtain ⟨l, hput, hl⟩ := holdPut_room (tieOf (stReq s h pl len mask data rel)) (holdPieces (stReq s h pl len mask data rel))
    ((stDropped s h len mask).core (coreOf s.cur)).hold (by rw [stDropped_hold]; omega)
  let held (c : CoreSt) : CoreSt := { c with hold := l }
  refine ⟨((stDropped s h len mask).upCore (coreOf s.cur) held).evt s.cur 0x11, ?_,
    (hdrop.trans (Issues.upCore _ _ held)).trans (Issues.evt _ _ _), fun r hr => (stDropped_sent s h len mask r).mp hr, ?_⟩
  · rw [store_eq, if_pos (hdrop.specOn.trans hspec), hput]
  · rw [stDropped_hold] at hl
    have hlast := congrArg (fun c : CoreSt => c.hold.length) (upCore_at_same (stDropped s h len mask) (coreOf s.cur) held)
    exact Nat.le_trans (Nat.le_of_eq hlast) (Nat.le_trans hl (Nat.add_le_add_left htwo _))

theorem store_of_full {s : State} (hspec : s.me.specOn = true) (h : Hit) (pl : Nat) {len : Nat} (hlen : 0 < len ∧ len ≤ 8)
    (mask : BitVec 64) (data : BitVec 512) (rel : Bool) (hfull : 64 ≤ (s.core (coreOf s.cur)).hold.length)
    (hown : ∀ e ∈ (s.core (coreOf s.cur)).hold, e.r.who ≠ s.cur) : s.store h pl len mask data rel = none := by
  have hdrop : Issues 0 (fun _ => False) s (stDropped s h len mask) := stDropped_issues s h len mask
  obtain ⟨hpos, -⟩ := holdPieces_length (r := stReq s h pl len mask data rel) (by rw [stReq_len]; exact hlen.1)
    (by rw [stReq_len]; exact hlen.2)
  obtain ⟨r, rs, hpieces⟩ := List.exists_cons_of_length_pos hpos
  have hwho : r.who = s.cur := (holdPieces_who (hpieces ▸ List.mem_cons_self)).trans (stReq_who ..)
  have hnone := holdPut_full (tieOf (stReq s h pl len mask data rel)) rs hfull (r := r) (by rw [hwho]; exact hown)
  rw [store_eq, if_pos (hdrop.specOn.trans hspec), stDropped_hold, hpieces, hnone]

/-! ### ST -/

/-- The mask of a store of `n` bytes. -/
def stMask (n : Nat) : BitVec 64 := BitVec.ofNat 64 (2 ^ n - 1)

theorem storeOne_of_memory {s : State} {h : Hit} (hreg : s.isReg h.pa = false) (pl n : Nat) (w : Word) (rel : Bool) :
    s.storeOne h pl n w rel = (s.store h pl n (stMask n) (w.setWidth 512) rel).map (fun s => .next s) := by
  rw [State.storeOne, hreg, if_neg Bool.false_ne_true]
  rfl

/-- The request of plane `p` of an ST. -/
structure StoreReq (s : State) (n p : Nat) (h : Hit) (w : Word) (rel : Bool) (r : Req) : Prop where
  who : r.who = s.cur
  kind : r.kind = .store
  pa : r.pa = h.pa
  home : r.home = h.home
  len : r.len = n
  pl : r.pl = p
  mask : r.mask = stMask n
  rel : r.rel = rel
  data : r.data = w.setWidth 512

theorem stReq_storeReq (s : State) (h : Hit) (pl n : Nat) (w : Word) (rel : Bool) :
    StoreReq s n pl h w rel (stReq s h pl n (stMask n) (w.setWidth 512) rel) := by
  cases rel <;> exact ⟨rfl, rfl, rfl, rfl, rfl, rfl, rfl, rfl, rfl⟩

section

variable {s : State} {a0 : Arch} {src : Reg} {n : Nat} {rel : Bool} {d : Reg} {P : Nat → Prop} {xs : List (Nat × Hit)}

theorem storeAll_cons_some {x : Nat × Hit} {u : State} (hreg : s.isReg x.2.pa = false)
    (hstore : s.store x.2 x.1 n (stMask n) ((a0.gp x.1 src).setWidth 512) rel = some u) :
    s.storeAll a0 src n rel (x :: xs) = u.storeAll a0 src n rel xs := by
  rw [State.storeAll, storeOne_of_memory hreg, hstore]
  rfl

/-- Outside speculation each plane's store is sent. -/
theorem storeAll_sent (hspec : s.me.specOn = false) (hreg : ∀ x ∈ xs, s.isReg x.2.pa = false) :
    ∃ u, s.storeAll a0 src n rel xs = some (.next u) ∧ Issues d P s u ∧
      ∀ x ∈ xs, ∃ r, Sent u (.homeStoreApply r) ∧ StoreReq s n x.1 x.2 (a0.gp x.1 src) rel r := by
  induction xs generalizing s with
  | nil => exact ⟨s, rfl, Issues.refl d P s, fun _ h => nomatch h⟩
  | cons x xs ih =>
    obtain ⟨v, hstore, hv, hvsent⟩ := store_of_unspec (d := d) (P := P) hspec x.2 x.1 n (stMask n) ((a0.gp x.1 src).setWidth 512) rel
    obtain ⟨u, hall, hu, husent⟩ := ih (s := v) (hv.specOn.trans hspec)
      (fun y hy => (hv.isReg _).trans (hreg y (List.mem_cons_of_mem x hy)))
    refine ⟨u, (storeAll_cons_some (hreg x List.mem_cons_self) hstore).trans hall, hv.trans hu, fun y hy => ?_⟩
    rcases List.mem_cons.mp hy with rfl | hy
    · exact ⟨_, hu.sent _ (fun _ => by simp) hvsent, stReq_storeReq ..⟩
    · obtain ⟨r, hr, hreq⟩ := husent y hy
      exact ⟨r, hr, hreq.who.trans hv.cur, hreq.kind, hreq.pa, hreq.home, hreq.len, hreq.pl, hreq.mask, hreq.rel, hreq.data⟩

/-- Under speculation every plane's store is held, where the buffer has room. -/
theorem storeAll_held (hspec : s.me.specOn = true) (hreg : ∀ x ∈ xs, s.isReg x.2.pa = false) (hn : 0 < n ∧ n ≤ 8)
    (hroom : (s.core (coreOf s.cur)).hold.length + 2 * xs.length ≤ 64) :
    ∃ u, s.storeAll a0 src n rel xs = some (.next u) ∧ Issues d P s u ∧
      ∀ r, Sent u (.homeStoreApply r) → Sent s (.homeStoreApply r) := by
  induction xs generalizing s with
  | nil => exact ⟨s, rfl, Issues.refl d P s, fun _ h => h⟩
  | cons x xs ih =>
    rw [List.length_cons] at hroom
    obtain ⟨v, hstore, hv, hvsent, hvhold⟩ := store_of_spec (d := d) (P := P) hspec x.2 x.1 hn (stMask n) ((a0.gp x.1 src).setWidth 512) rel
      (by omega)
    obtain ⟨u, hall, hu, husent⟩ := ih (s := v) (hv.specOn.trans hspec)
      (fun y hy => (hv.isReg _).trans (hreg y (List.mem_cons_of_mem x hy))) (by rw [hv.cur]; omega)
    exact ⟨u, (storeAll_cons_some (hreg x List.mem_cons_self) hstore).trans hall, hv.trans hu, fun r hr => hvsent r (husent r hr)⟩

end

/-- How an ST ends: it completes, or it waits where the hold buffer has no room. -/
def stEnd (z : BitVec 2) (s : State) (o : Option Out) : Out :=
  o.elim s.untilResolved (onNext · fun u => .next (if storeDual z then u.doneD 4 else u.done 4))

theorem execSt_passes {x a : Reg} {z q : BitVec 2} {o : BitVec 12} {s s1 : State} {hs : List Hit}
    (h : Passes s { kind := .store, al := storeLen z, ctr := some true, regs := (storeLen z == 8) }
      ((s.me.planes (storeDual z)).map (s.me.a.gea (s.ea a o))) (storeLen z) false true hs s1) (hreg : ∀ h ∈ hs, s1.isReg h.pa = false) :
    exec (.st x a z q o) s = stEnd z s (s1.storeAll s.me.a x (storeLen z) (q == 1) ((s.me.planes (storeDual z)).zip hs)) := by
  refine (planned_passes h _).trans ((watched_passes h _).trans ?_)
  rw [regWait_of_memory hreg, if_neg Bool.false_ne_true]
  cases s1.storeAll s.me.a x (storeLen z) (q == 1) ((s.me.planes (storeDual z)).zip hs) <;> rfl

theorem ArchKeeps.mono {a b : Arch} {G G' V V' : Reg → Nat → Prop} {M : BitVec 3 → Prop} (h : a.Keeps b G V M)
    (hG : ∀ r p, G r p → G' r p) (hV : ∀ r p, V r p → V' r p) : a.Keeps b G' V' M :=
  ⟨fun r p hp hr => h.g r p hp fun hg => hr (hG r p hg), fun r p hp hr => h.v r p hp fun hv => hr (hV r p hv), h.m, h.tc, h.dmode,
    h.dtoff, h.claim, h.rend, h.bar⟩

/-- The accesses of a store have been made, and the instruction completes with no register changed. -/
structure StoreDone (s u t : State) : Prop where
  pc : t.me.pc = s.nextPc 4
  bytes : ∀ home pa, t.byteAt home pa = s.byteAt home pa
  regs : s.me.a.Keeps t.me.a NoReg NoReg NoMask
  tset : s.me.Keeps t.me
  sent : ∀ e, Sent t e ↔ Sent u e

theorem Issues.storeDone {s u : State} (h : Issues 0 (fun _ => False) s u) (hs : s.stepping = false) (extra : Nat) :
    StoreDone s u (u.retire 4 extra) := by
  have hus : u.stepping = false := h.place.stepping.trans hs
  have hstep := retire_regStep hus 4 extra
  exact ⟨hstep.pc.trans (h.place.nextPc 4), fun home pa => (hstep.rest.bytes home pa).trans (h.bytes home pa),
    ArchKeeps.trans (ArchKeeps.mono h.regs.keeps (fun _ _ hf => hf.2) (fun _ _ hf => hf)) hstep.regs,
    TSetKeeps.trans h.tset hstep.tset, retire_sent hus 4 extra⟩

theorem exec_storeDone {s u : State} (h : Issues 0 (fun _ => False) s u) (hs : s.stepping = false) (z : BitVec 2) :
    ∃ t, (if storeDual z then u.doneD 4 else u.done 4) = t ∧ StoreDone s u t := by
  split
  · exact ⟨_, rfl, h.storeDone hs _⟩
  · exact ⟨_, rfl, h.storeDone hs 0⟩

theorem storeLen_pos_le (z : BitVec 2) : 0 < storeLen z ∧ storeLen z ≤ 8 := by
  have hz := z.isLt
  exact ⟨Nat.two_pow_pos _, Nat.pow_le_pow_right (by decide) (show z.toNat ≤ 3 by omega)⟩

/-- Settles O12: outside speculation plane by plane, under it by the room in the hold buffer. -/
theorem storesComplete : Obligations.StoresComplete := by
  unfold Obligations.StoresComplete
  intro x a z q o s s1 hs n ps _ hpass hreg
  have hexec := execSt_passes (x := x) (q := q) hpass hreg
  have hlen : hs.length = ps.length := by
    rw [plan_length hpass.1, List.length_map]
  obtain ⟨-, -, hstep, hcur, harch⟩ := hpass
  have hreg' : ∀ y ∈ ps.zip hs, s1.isReg y.2.pa = false := fun y hy => hreg _ (List.of_mem_zip hy).2
  refine ⟨fun hspec => ?sent, fun hspec hroom => ?held, fun hspec hfull hown => ?full⟩
  case sent =>
    obtain ⟨u, hall, hu, hsent⟩ := storeAll_sent (a0 := s.me.a) (src := x) (n := n) (rel := q == 1) (d := 0) (P := fun _ => False) hspec hreg'
    obtain ⟨t, ht, hdone⟩ := exec_storeDone hu hstep z
    rw [hall] at hexec
    refine ⟨t, hexec.trans (congrArg Host.Outcome.next ht), hdone.pc, hdone.bytes, hdone.regs, hdone.tset, fun p h hx => ?_⟩
    obtain ⟨r, hr, hreq⟩ := hsent (p, h) hx
    refine ⟨r, (hdone.sent _).mpr hr, hreq.who.trans hcur, hreq.kind, hreq.pa, hreq.home, hreq.len, hreq.pl, hreq.mask, hreq.rel, fun i _ => ?_⟩
    rw [dataByte, hreq.data, BitVec.toNat_setWidth_of_le (by decide)]
  case held =>
    obtain ⟨u, hall, hu, hsent⟩ := storeAll_held (a0 := s.me.a) (src := x) (n := n) (rel := q == 1) (d := 0) (P := fun _ => False) hspec hreg'
      (storeLen_pos_le z) (by rw [List.length_zip, hlen, Nat.min_self, hcur, ← hlen]; exact hroom)
    obtain ⟨t, ht, hdone⟩ := exec_storeDone hu hstep z
    rw [hall] at hexec
    exact ⟨t, hexec.trans (congrArg Host.Outcome.next ht), hdone.pc, hdone.bytes, hdone.regs, fun r hr => hsent r ((hdone.sent _).mp hr)⟩
  case full =>
    obtain ⟨h, hs', rfl⟩ := List.exists_cons_of_length_pos (show 0 < hs.length by rw [hlen]; exact Nat.succ_pos _)
    have hstore := store_of_full hspec h 0 (storeLen_pos_le z) (stMask n) ((s.me.a.gp 0 x).setWidth 512) (q == 1) (hcur ▸ hfull) (hcur ▸ hown)
    rw [hexec, show ps.zip (h :: hs') = (0, h) :: (if storeDual z then s.me.dual else []).zip hs' from rfl, State.storeAll,
      storeOne_of_memory (hreg h List.mem_cons_self), hstore]
    rfl

end Sys2Proof.Claims
end

section
/-! # Loads and stores at their home slice

A write at a home fills the sectors that it touches and then writes their bytes in L2, where the line is served from; every other byte
of the machine's memory keeps its value. -/

namespace Sys2Proof.Claims

open Sys2Proof.Machine

/-! ### Bytes of a word -/

/-- Byte `i` of a word. -/
def byteOf {w : Nat} (x : BitVec w) (i : Nat) : Byte := BitVec.ofNat 8 (x.toNat / 2 ^ (8 * i))

section

variable {w : Nat}

theorem byteOf_eq_wbits (x : BitVec w) (i : Nat) : byteOf x i = BitVec.ofNat 8 (wbits x (8 * i) 8) :=
  BitVec.eq_of_toNat_eq (by simp [byteOf, wbits, bits])

theorem getLsbD_byteOf (x : BitVec w) (i j : Nat) (hj : j < 8) : (byteOf x i).getLsbD j = x.getLsbD (8 * i + j) := by
  rw [byteOf, BitVec.getLsbD_ofNat, Nat.testBit_div_two_pow, decide_eq_true hj, Bool.true_and, BitVec.getLsbD, Nat.add_comm]

theorem byteOf_putBits_same (x : BitVec w) {i : Nat} (v : Byte) (h : 8 * i + 8 ≤ w) : byteOf (putBits x (8 * i) 8 v.toNat) i = v := by
  rw [byteOf_eq_wbits, wbits_putBits_same x _ 8 _ h]
  exact BitVec.eq_of_toNat_eq (by simp [v.isLt])

theorem byteOf_putBits_ne (x : BitVec w) {i k : Nat} (v : Nat) (h : k ≠ i) : byteOf (putBits x (8 * i) 8 v) k = byteOf x k := by
  rw [byteOf_eq_wbits, byteOf_eq_wbits, wbits_putBits_apart x _ 8 v _ 8 (by omega)]

end

theorem byteAt_eq_byteOf (s : State) (home pa : Nat) : s.byteAt home pa = byteOf (s.lineVal home (lineKey pa)) (pa % 192) := rfl

theorem dataByte_eq_byteOf (r : Req) (i : Nat) : dataByte r i = byteOf r.data i := rfl

/-- Bytes of one value where the mask has a bit, of another elsewhere. -/
theorem byteOf_mixBytes (m : BitVec 64) (known x : BitVec 512) {n i : Nat} (hn : n ≤ 64) (hi : i < n) :
    byteOf (mixBytes m known x n) i = if m.getLsbD i then byteOf known i else byteOf x i := by
  have hfold (k : Nat) (hk : k ≤ 64) : byteOf ((List.range k).foldl (fun v i =>
      if m.getLsbD i then putBits v (8 * i) 8 (wbits known (8 * i) 8) else v) x) i =
        if i < k ∧ m.getLsbD i = true then byteOf known i else byteOf x i := by
    induction k with
    | zero => rw [if_neg (by omega)]; rfl
    | succ k ih =>
      rw [List.range_succ, List.foldl_append, List.foldl_cons, List.foldl_nil]
      by_cases hik : i = k
      · subst hik
        by_cases hm : m.getLsbD i = true
        · have hw : (wbits known (8 * i) 8) = (byteOf known i).toNat := by
            rw [byteOf_eq_wbits, BitVec.toNat_ofNat, Nat.mod_eq_of_lt (wbits_lt known _ 8)]
          rw [if_pos hm, if_pos ⟨Nat.lt_succ_self i, hm⟩, hw, byteOf_putBits_same _ _ (by omega)]
        · rw [if_neg hm, if_neg (by tauto), ih (by omega), if_neg (by tauto)]
      · have hin : (i < k + 1 ∧ m.getLsbD i = true) ↔ (i < k ∧ m.getLsbD i = true) := and_congr_left fun _ => by omega
        simp only [hin, ← ih (Nat.le_of_succ_le hk)]
        split
        · exact byteOf_putBits_ne _ _ hik
        · rfl
  rw [mixBytes, span_zero_eq_range, hfold n hn]
  simp only [hi, true_and]

/-- Bytes that were read, as one number. -/
theorem byteOf_leNat_natLe (x : BitVec 1536) (off : Nat) {n i : Nat} (hn : n ≤ 64) (hi : i < n) :
    byteOf (BitVec.ofNat 512 (leNat (natLe (x.toNat / 2 ^ (8 * off)) n))) i = byteOf x (off + i) := by
  refine BitVec.eq_of_getLsbD_eq fun j hj => ?_
  rw [getLsbD_byteOf _ _ _ hj, getLsbD_byteOf _ _ _ hj, BitVec.getLsbD_ofNat, leNat_natLe, show (256 : Nat) = 2 ^ 8 from rfl, ← Nat.pow_mul,
    Nat.testBit_mod_two_pow, Nat.testBit_div_two_pow, decide_eq_true (show 8 * i + j < 512 by omega),
    decide_eq_true (show 8 * i + j < 8 * n by omega), Bool.true_and, Bool.true_and, BitVec.getLsbD]
  congr 1
  omega

/-! ### Bytes of a line -/

theorem byteOf_mixSect (m : BitVec 4) (x y : BitVec 1536) {o : Nat} (ho : o < 192) :
    byteOf (mixSect m x y) o = if m.getLsbD (o / 48) then byteOf x o else byteOf y o := by
  refine BitVec.eq_of_getLsbD_eq fun j hj => ?_
  rw [getLsbD_byteOf _ _ _ hj, getLsbD_mixSect _ _ _ _ (by omega), show (8 * o + j) / 384 = o / 48 by omega]
  split <;> rw [getLsbD_byteOf _ _ _ hj]

/-- Bytes written into a line. -/
theorem byteOf_putBytes (on : List Bool) : ∀ (bs : List Byte) (d : BitVec 1536) (off o : Nat), on.length = bs.length → off + bs.length ≤ 192 →
    byteOf (putBytes d off on bs) o =
      if off ≤ o ∧ o < off + bs.length ∧ on.getD (o - off) false = true then bs.getD (o - off) 0 else byteOf d o := by
  induction on with
  | nil =>
    intro bs d off o hlen _
    rw [if_neg (by rw [← hlen, List.length_nil]; omega)]
    rfl
  | cons c on ih =>
    intro bs d off o hlen hroom
    cases bs with
    | nil => cases hlen
    | cons b bs =>
      simp only [List.length_cons] at hlen hroom ⊢
      rw [putBytes, ih bs _ (off + 1) o (by omega) (by omega)]
      by_cases ho : o = off
      · subst ho
        rw [if_neg (by omega), Nat.sub_self, List.getD_cons_zero, List.getD_cons_zero]
        cases c
        · rw [if_neg (by simp), if_neg (by simp)]
        · rw [if_pos rfl, if_pos ⟨Nat.le_refl o, by omega, rfl⟩, byteOf_putBits_same _ _ (by omega)]
      · by_cases hin : off + 1 ≤ o
        · have hsub : o - off = (o - (off + 1)) + 1 := by omega
          rw [hsub, List.getD_cons_succ, List.getD_cons_succ]
          have hiff : (off + 1 ≤ o ∧ o < off + 1 + bs.length ∧ on.getD (o - (off + 1)) false = true) ↔
              (off ≤ o ∧ o < off + (bs.length + 1) ∧ on.getD (o - (off + 1)) false = true) := by
            constructor <;> exact fun ⟨h1, h2, h3⟩ => ⟨by omega, by omega, h3⟩
          simp only [hiff]
          split
          · rfl
          · split
            · exact byteOf_putBits_ne _ _ ho
            · rfl
        · have hout : ¬ (off ≤ o ∧ o < off + (bs.length + 1) ∧ (c :: on).getD (o - off) false = true) := by omega
          rw [if_neg (by omega), if_neg hout]
          split
          · exact byteOf_putBits_ne _ _ ho
          · rfl

/-! ### A write at the home -/

/-- The sectors that bytes of a line touch. -/
theorem sectsOf_touched {off n o : Nat} (hroom : off + n ≤ 192) (ho : off ≤ o ∧ o < off + n) : (sectsOf off n).getLsbD (o / 48) = true := by
  have hfinite : ∀ lo < 4, ∀ cnt < 5, ∀ j < 4, lo ≤ j → j < lo + cnt →
      (BitVec.ofNat 4 ((span lo cnt).foldl (fun a i => a + 2 ^ i) 0)).getLsbD j = true := by decide
  exact hfinite _ (by omega) _ (by omega) _ (by omega) (by omega) (by omega)

theorem getLsbD_of_and_eq {v k : BitVec 4} (h : v &&& k = k) {j : Nat} (hj : k.getLsbD j = true) : v.getLsbD j = true := by
  rw [← h, BitVec.getLsbD_and, Bool.and_eq_true] at hj
  exact hj.1

/-- After a fill the sectors are in L2. -/
theorem fillLine_valid (s : State) (home key : Nat) (k : BitVec 4) :
    (mget ((s.fillLine home key k).slice home).l2 key Line.none).valid &&& k = k := by
  rw [fillLine_eq]
  split
  · assumption
  · rw [upSlice_at_same]
    simp only [filled, mget_mset_same, joined]
    refine BitVec.eq_of_getLsbD_eq fun j _ => ?_
    rw [BitVec.getLsbD_and, BitVec.getLsbD_or]
    cases k.getLsbD j <;> simp

/-- The slice of a home after a write of bytes to a line that has been filled. -/
def written (s : State) (home pa : Nat) (on : List Bool) (bs : List Byte) (w : Nat) (sl : SliceSt) : SliceSt :=
  let l := mget (s.slice home).l2 (lineKey pa) Line.none
  { sl with
    l2 := mset sl.l2 (lineKey pa) { l with
      dirty := l.dirty ||| sectsOf (pa % 192) bs.length
      data := putBytes l.data (pa % 192) on bs
      tag := mergeTag l.tag w }
    adds := overAdds sl.adds (lineKey pa) (pa % 192) on }

theorem homeWrite_eq (s : State) (home pa : Nat) (on : List Bool) (bs : List Byte) (w : Nat) :
    s.homeWrite home pa on bs w = (s.fillLine home (lineKey pa) (sectsOf (pa % 192) bs.length)).upSlice home
      (written (s.fillLine home (lineKey pa) (sectsOf (pa % 192) bs.length)) home pa on bs w) := rfl

section

variable {s : State} {home pa : Nat} {on : List Bool} {bs : List Byte} {w : Nat}

/-- What lies below L2 is the same after a write. -/
theorem below_written (j : Nat) : (s.upSlice home (written s home pa on bs w)).below home j = s.below home j := by
  unfold State.below State.mscLine State.mscOff
  rw [upSlice_at_same, upSlice_mem]
  rfl

theorem lineVal_written_ne {h j : Nat} (hne : h ≠ home ∨ j ≠ lineKey pa) :
    (s.upSlice home (written s home pa on bs w)).lineVal h j = s.lineVal h j := by
  by_cases hh : h = home
  · subst hh
    rw [lineVal_eq_mixSect, lineVal_eq_mixSect, below_written, upSlice_at_same, written]
    dsimp only
    rw [mget_mset_ne _ _ _ (hne.resolve_left fun e => e rfl)]
  · refine lineVal_of_levels (upSlice_mem s home _) ?_ j
    rw [upSlice_at_ne s _ hh]

/-- The written bytes of the line are those of `bs`, the others are as before. -/
theorem byteOf_lineVal_written (hvalid : (mget (s.slice home).l2 (lineKey pa) Line.none).valid &&& sectsOf (pa % 192) bs.length =
    sectsOf (pa % 192) bs.length) (hlen : on.length = bs.length) (hroom : pa % 192 + bs.length ≤ 192) {o : Nat} (ho : o < 192) :
    byteOf ((s.upSlice home (written s home pa on bs w)).lineVal home (lineKey pa)) o =
      if pa % 192 ≤ o ∧ o < pa % 192 + bs.length ∧ on.getD (o - pa % 192) false = true then bs.getD (o - pa % 192) 0
      else byteOf (s.lineVal home (lineKey pa)) o := by
  rw [lineVal_eq_mixSect, lineVal_eq_mixSect, below_written, upSlice_at_same, written]
  simp only [mget_mset_same]
  rw [byteOf_mixSect _ _ _ ho, byteOf_mixSect _ _ _ ho, byteOf_putBytes on bs _ _ _ hlen hroom]
  by_cases hin : pa % 192 ≤ o ∧ o < pa % 192 + bs.length ∧ on.getD (o - pa % 192) false = true
  · rw [if_pos hin, if_pos hin, if_pos (getLsbD_of_and_eq hvalid (sectsOf_touched hroom ⟨hin.1, hin.2.1⟩))]
  · rw [if_neg hin, if_neg hin]

/-- Bytes of one line part written at a home: those that `on` selects, and no other. -/
theorem byteAt_homeWrite (hlen : on.length = bs.length) (hroom : pa % 192 + bs.length ≤ 192) (h x : Nat) :
    (s.homeWrite home pa on bs w).byteAt h x =
      if h = home ∧ lineKey x = lineKey pa ∧ pa ≤ x ∧ x < pa + bs.length ∧ on.getD (x - pa) false = true then bs.getD (x - pa) 0
      else s.byteAt h x := by
  rw [homeWrite_eq, byteAt_eq_byteOf, ← sameBytes_fillLine s home (lineKey pa) (sectsOf (pa % 192) bs.length) h x, byteAt_eq_byteOf]
  by_cases hx : h = home ∧ lineKey x = lineKey pa
  · obtain ⟨rfl, hkey⟩ := hx
    have hline : x / 192 = pa / 192 := by rw [← lineKey_line, ← lineKey_line, hkey]
    rw [hkey, byteOf_lineVal_written (fillLine_valid s h _ _) hlen hroom (by omega)]
    by_cases hle : pa ≤ x
    · rw [show x % 192 - pa % 192 = x - pa by omega]
      have hiff : (pa % 192 ≤ x % 192 ∧ x % 192 < pa % 192 + bs.length ∧ on.getD (x - pa) false = true) ↔
          (h = h ∧ lineKey pa = lineKey pa ∧ pa ≤ x ∧ x < pa + bs.length ∧ on.getD (x - pa) false = true) := by
        constructor
        · exact fun ⟨_, h2, h3⟩ => ⟨rfl, rfl, hle, by omega, h3⟩
        · exact fun ⟨_, _, _, h2, h3⟩ => ⟨by omega, by omega, h3⟩
      simp only [hiff]
    · rw [if_neg (by omega), if_neg (by omega)]
  · rw [lineVal_written_ne (by tauto), if_neg (by tauto)]

end

/-! ### What a request writes (05 R97; 06 R128) -/

/-- A write that aborts crossings sends messages, and changes nothing else. -/
theorem abortMarks_sends (s : State) (home pa : Nat) (chans : List (Nat × BitVec 32)) (burst : Bool) :
    ∃ pend here, s.abortMarks home pa chans burst = { s with pend := pend, here := here } := by
  have sends {α : Type} (f : State → α → State) (hf : ∀ s x, ∃ pend here, f s x = { s with pend := pend, here := here }) (l : List α) :
      ∀ s : State, ∃ pend here, l.foldl f s = { s with pend := pend, here := here } := by
    induction l with
    | nil => exact fun s => ⟨s.pend, s.here, rfl⟩
    | cons x l ih =>
      intro s
      obtain ⟨p, k, hx⟩ := hf s x
      obtain ⟨p', k', hl⟩ := ih (f s x)
      exact ⟨p', k', by rw [List.foldl_cons, hl, hx]⟩
  refine sends _ (fun s m => sends _ (fun s x => ?_) _ s) _ s
  split
  · split
    · exact ⟨_, _, rfl⟩
    · exact ⟨s.pend, s.here, rfl⟩
  · exact ⟨s.pend, s.here, rfl⟩

theorem homeWrite_reps (s : State) (home pa : Nat) (on : List Bool) (bs : List Byte) (w : Nat) :
    (s.homeWrite home pa on bs w).reps = s.reps := by
  rw [homeWrite_eq, upSlice_reps, fillLine_eq]
  split <;> rfl

theorem noteReq_quiet {s : State} {r : Req} (hquiet : noSliceWatch s r.home) (pa n : Nat) (wr : Bool) :
    s.noteReq r r.home pa n wr = s := swNote_quiet s _ _ _ _ _ _ hquiet

section

variable {s : State} {r : Req} {on : List Bool} {bs : List Byte}

/-- A request's write, at a slice with no watchpoint: its bytes where `on` says so. -/
theorem byteAt_wrReq (hquiet : noSliceWatch s r.home) (hlen : on.length = bs.length) (hroom : r.pa % 192 + bs.length ≤ 192) (h x : Nat) :
    (s.wrReq r on bs).byteAt h x =
      if h = r.home ∧ lineKey x = lineKey r.pa ∧ r.pa ≤ x ∧ x < r.pa + bs.length ∧ on.getD (x - r.pa) false = true then bs.getD (x - r.pa) 0
      else s.byteAt h x := by
  obtain ⟨p, k, hsend⟩ := abortMarks_sends ((s.collapse (lineKey r.pa)).homeWrite r.home r.pa on bs r.cid) r.home r.pa r.chans (r.agent == .copy)
  have hcollapse : (s.collapse (lineKey r.pa)).byteAt h x = s.byteAt h x := byteAt_congr rfl rfl h x
  rw [State.wrReq, noteReq_quiet hquiet, hsend, ← hcollapse]
  exact byteAt_homeWrite hlen hroom h x

theorem wrReq_reps (hquiet : noSliceWatch s r.home) : (s.wrReq r on bs).reps = (s.collapse (lineKey r.pa)).reps := by
  obtain ⟨p, k, hsend⟩ := abortMarks_sends ((s.collapse (lineKey r.pa)).homeWrite r.home r.pa on bs r.cid) r.home r.pa r.chans (r.agent == .copy)
  rw [State.wrReq, noteReq_quiet hquiet, hsend]
  exact homeWrite_reps (s.collapse (lineKey r.pa)) r.home r.pa on bs r.cid

end

theorem getD_map_span {α : Type} (f : Nat → α) {n i : Nat} (hi : i < n) (d : α) : ((span 0 n).map f).getD i d = f i := by
  rw [span_zero_eq_range]
  simp [hi]

theorem length_map_span {α : Type} (f : Nat → α) (n : Nat) : ((span 0 n).map f).length = n := by
  rw [List.length_map, span_length]

/-- The bytes that a store writes, with the request's whole range in one line. -/
structure WritesStored (s : State) (r : Req) (on : List Bool) (bs : List Byte) : Prop where
  on_length : on.length = r.len
  bs_length : bs.length = r.len
  stored : ∀ i, i < r.len → (if on.getD i false = true then bs.getD i 0 else s.byteAt r.home (r.pa + i)) = storedByte s r i

theorem writesStored_of_mask {s : State} {r : Req} (h : r.lanes = []) :
    WritesStored s r (maskList r.mask r.len) (natLe r.data.toNat r.len) := by
  refine ⟨length_map_span _ _, natLe_length _ _, fun i hi => ?_⟩
  rw [maskList, getD_map_span _ hi, natLe_getD _ _ _ hi, storedByte, h]
  rfl

theorem writesStored_of_lanes (s : State) (r : Req) : WritesStored s r (storeOn r) (storeBytes r) := by
  refine ⟨length_map_span _ _, length_map_span _ _, fun i hi => ?_⟩
  rw [storeOn, storeBytes, getD_map_span _ hi, getD_map_span _ hi, storedByte]
  cases mfind r.lanes (r.pa + i) with
  | some b => rw [Option.isSome_some, Bool.or_true, if_pos rfl]
  | none =>
    have hbyte : r.data.extractLsb' (8 * i) 8 = dataByte r i := BitVec.eq_of_toNat_eq (by
      rw [BitVec.extractLsb'_toNat, Nat.shiftRight_eq_div_pow, dataByte, BitVec.toNat_ofNat])
    rw [Option.isSome_none, Bool.or_false, hbyte]

theorem sysHeal_unheld {s : State} {r : Req} (h : unheld s r) : s.sysHeal r = s := by
  unfold State.sysHeal
  split
  · rename_i hsys
    exact heal_unheld s _ _ _ (h.resolve_left (by rw [hsys]; decide))
  · rfl

/-- A store that is performed: exactly its active bytes, and the replicas of its line gone. -/
theorem perform_store {s : State} {r : Req} (hkind : r.kind = .store) (hline : oneLine r) (hheld : unheld s r)
    (hquiet : noSliceWatch s r.home) : (s.perform r).reps = (s.collapse (lineKey r.pa)).reps ∧ onlyBytes s (s.perform r) r ∧
      ∀ i, i < r.len → (s.perform r).byteAt r.home (r.pa + i) = storedByte s r i := by
  obtain ⟨hroom, hkey⟩ := hline
  obtain ⟨on, bs, hwrites, hperform⟩ : ∃ on bs, WritesStored s r on bs ∧ s.perform r = s.wrReq r on bs := by
    rw [State.perform, sysHeal_unheld hheld, hkind]
    dsimp only
    split
    · exact ⟨_, _, writesStored_of_mask ‹_›, rfl⟩
    · exact ⟨_, _, writesStored_of_lanes s r, rfl⟩
  obtain ⟨hon, hbs, hstored⟩ := hwrites
  have hbyte := byteAt_wrReq (on := on) (bs := bs) hquiet (hon.trans hbs.symm) (by rw [hbs]; exact hroom)
  rw [hbs] at hbyte
  rw [hperform]
  refine ⟨wrReq_reps hquiet, fun home pa hout => ?_, fun i hi => ?_⟩
  · rw [hbyte, if_neg]
    rintro ⟨h1, h2, h3, h4, -⟩
    rcases hout with h | h | h | h
    · exact h h1
    · exact h h2
    · omega
    · omega
  · rw [hbyte, ← hstored i hi, Nat.add_sub_cancel_left]
    have hin : (r.home = r.home ∧ lineKey (r.pa + i) = lineKey r.pa ∧ r.pa ≤ r.pa + i ∧ r.pa + i < r.pa + r.len ∧ on.getD i false = true) ↔
        on.getD i false = true :=
      ⟨fun ⟨_, _, _, _, h⟩ => h, fun h => ⟨rfl, hkey i hi, by omega, by omega, h⟩⟩
    exact if_congr hin rfl rfl

/-! ### Replicas (10 R183) -/

theorem mfind_eq_none {α : Type} {m : AMap α} {k : Nat} (h : ∀ p ∈ m, p.1 ≠ k) : mfind m k = none := by
  induction m with
  | nil => rfl
  | cons p m ih =>
    obtain ⟨j, v⟩ := p
    rw [mfind, if_neg (h _ List.mem_cons_self)]
    split
    · rfl
    · exact ih fun q hq => h q (List.mem_cons_of_mem _ hq)

theorem mem_foldl_mdel {α : Type} (ks : List Nat) (m : AMap α) (p : Nat × α) :
    p ∈ ks.foldl mdel m ↔ p ∈ m ∧ p.1 ∉ ks := by
  induction ks generalizing m with
  | nil => simp
  | cons k ks ih =>
    rw [List.foldl_cons, ih, mdel, List.mem_filter, List.mem_cons, bne_iff_ne]
    tauto

theorem repDies_of_reps {s t : State} (h : t.reps = s.reps) (key : Nat) : t.repDies key = s.repDies key := by
  unfold State.repDies
  rw [h]

/-- After a collapse no die holds a replica of the line. -/
theorem repDies_collapse (s : State) (key : Nat) : (s.collapse key).repDies key = [] := by
  have hreps : (s.collapse key).reps = (([0, 1, 2, 3].map (fun d => repKey d key)).foldl mdel s.reps) := by
    rw [List.foldl_map]
    rfl
  refine List.filter_eq_nil_iff.mpr fun d hd hsome => ?_
  rw [mfind_eq_none (fun p hp he => ?_)] at hsome
  · cases hsome
  · rw [hreps, mem_foldl_mdel] at hp
    exact hp.2 (he ▸ List.mem_map_of_mem hd)

/-! ### A load at the home (05 R97, R99) -/

/-- The event counted, and the reply sent, by a load that is served. -/
theorem exec_homeLoadServe {r : Req} {s : State} (hrm : r.rm = false) (hsys : isSys r.who = false) (hspec : r.spec = none)
    (hquiet : noSliceWatch s r.home) : ∃ lanes cmp, exec (.homeLoadServe r) s =
      .next (({ (s.homeRead r.home r.pa r.len).2 with seq := (s.homeRead r.home r.pa r.len).2.seq + 1 }.evt r.who 0x06).push
        (.loadReply { r with
          data := mixBytes r.mask r.data (BitVec.ofNat 512 (leNat (s.homeRead r.home r.pa r.len).1)) r.len
          lanes := lanes
          cmp := cmp })) := by
  have hserve : s.serveBytes r = s.homeRead r.home r.pa r.len := by
    unfold State.serveBytes
    rw [hrm, hsys, noteReq_quiet hquiet]
    rfl
  let u := (s.homeRead r.home r.pa r.len).2
  refine ⟨if r.fill && !u.inFlight (storeInFlight (coreOf r.who) r.pa r.len) then u.refill r.home r.pa r.len else [],
    BitVec.ofNat 64 (u.seq + 1), ?_⟩
  change execHomeLoadServe r s = _
  unfold execHomeLoadServe
  rw [hserve, hspec]
  rfl

/-- Bytes of one line that a home reads. -/
theorem byteOf_homeRead {s : State} {r : Req} (hline : oneLine r) (hlen : r.len ≤ 64) {i : Nat} (hi : i < r.len) :
    byteOf (BitVec.ofNat 512 (leNat (s.homeRead r.home r.pa r.len).1)) i = s.byteAt r.home (r.pa + i) := by
  obtain ⟨hroom, hkey⟩ := hline
  rw [byteAt_eq_byteOf, hkey i hi, show (r.pa + i) % 192 = r.pa % 192 + i by omega]
  unfold State.homeRead
  dsimp only
  rw [byteOf_leNat_natLe _ _ hlen hi, lineVal_fillLine]

/-! ### Replies (05 R87; 10 R184) -/

/-- A thread set whose bytes have come back: in its registers, in those that an abandoned operation goes back to, and in the
checkpoint of a crossing that began after the load. -/
def landedTs (r : Req) (t : TSet) : TSet :=
  let t := { t with a := t.a.land r.dst r.len r.data
                    undo := t.undo.map (fun (u : Arch × Word × Nat) => (u.1.land r.dst r.len r.data, u.2)) }.arrived r.dst
  match t.spec with
  | some c => if r.spec.isNone then { t with spec := some { c with chk := c.chk.land r.dst r.len r.data } } else t
  | none => t

theorem landedTs_fields (r : Req) (t : TSet) : (landedTs r t).a = t.a.land r.dst r.len r.data ∧
    (landedTs r t).undo = t.undo.map (fun u => (u.1.land r.dst r.len r.data, u.2)) ∧ (landedTs r t).epoch = t.epoch ∧
    (landedTs r t).pc = t.pc := by
  have harrived (t : TSet) (d : Dst) : ∃ busy, t.arrived d = { t with busy := busy } := by
    unfold TSet.arrived
    split
    · exact ⟨t.busy, rfl⟩
    · exact ⟨_, rfl⟩
  obtain ⟨busy, hb⟩ := harrived { t with
    a := t.a.land r.dst r.len r.data
    undo := t.undo.map (fun (u : Arch × Word × Nat) => (u.1.land r.dst r.len r.data, u.2)) } r.dst
  unfold landedTs
  rw [hb]
  dsimp only
  split
  · split
    · exact ⟨rfl, rfl, rfl, rfl⟩
    · exact ⟨rfl, rfl, rfl, rfl⟩
  · exact ⟨rfl, rfl, rfl, rfl⟩

/-- LOAD_REPLY changes one thread set, whose bytes land and for which an acquire begins an epoch, beside the L1. -/
theorem exec_loadReply (r : Req) (s : State) : ∃ t, exec (.loadReply r) s = .next t ∧
    t.t r.who = { landedTs r (s.t r.who) with epoch := if r.acq then s.seq + 1 else (s.t r.who).epoch } ∧
    (∀ k, k ≠ r.who → t.t k = s.t k) ∧ sameBytes s t := by
  have hlanded : s.landed r = s.upT r.who (landedTs r) := rfl
  obtain ⟨cores, hfill⟩ : ∃ c, (if r.lanes = [] then s.landed r else (s.landed r).fillL1 (coreOf r.who) r.cid r.cmp.toNat r.lanes) =
      { s.upT r.who (landedTs r) with cores := c } := by
    rw [hlanded]
    split
    · exact ⟨_, rfl⟩
    · exact fillL1_cores _ _ _ _ _
  have hexec : exec (.loadReply r) s = .next (if r.acq then ({ s.upT r.who (landedTs r) with cores := cores }).acquire r.who
      else { s.upT r.who (landedTs r) with cores := cores }) := by
    change execLoadReply r s = _
    unfold execLoadReply
    dsimp only
    rw [hfill]
  obtain ⟨-, -, hepoch, -⟩ := landedTs_fields r (s.t r.who)
  refine ⟨_, hexec, ?_⟩
  cases hacq : r.acq
  · rw [if_neg Bool.false_ne_true, if_neg Bool.false_ne_true, ← hepoch]
    exact ⟨upT_at_same s _ _, fun k hk => upT_at_ne s _ hk, fun home pa => byteAt_congr rfl rfl home pa⟩
  · rw [if_pos rfl, if_pos rfl]
    refine ⟨?_, fun k hk => ?_, fun home pa => byteAt_congr rfl rfl home pa⟩
    · rw [← upT_at_same s r.who (landedTs r)]
      exact upT_at_same _ _ _
    · exact (upT_at_ne _ _ hk).trans (upT_at_ne s _ hk)

/-- Bytes that land in plane `p` of g[d]. -/
theorem land_gp (a : Arch) (d : Reg) {p : Nat} (hp : p ≤ 2) (z n : Nat) (x : BitVec 512) :
    (a.land (.g d p z) n x).gp p d = if d = 0 then 0 else loadExt z (x.toNat % 2 ^ (8 * n)) := by
  refine (gp_setG_same a hp d _).trans ?_
  rw [wbits, bits, Nat.pow_zero, Nat.div_one]

/-- Settles O15: stores by what a write leaves of each byte, replies by the one thread set that they change. -/
theorem loadsAndStoresPerformed : Obligations.LoadsAndStoresPerformed := by
  unfold Obligations.LoadsAndStoresPerformed
  refine ⟨fun r s hrm hsys hspec hline hlen hquiet => ?serve, fun r s d p z hdst hp => ?reply,
    fun r s hkind hreps hline hheld _ hquiet => ?store, fun r s hreps => ?collapse, fun r s hkind hline hheld _ hquiet => ?ack⟩
  case serve =>
    obtain ⟨lanes, cmp, hexec⟩ := exec_homeLoadServe hrm hsys hspec hquiet
    refine ⟨_, _, hexec, ⟨_, pushAt_sent _ _ _⟩, rfl, rfl, rfl, rfl, fun i hi hm => ?_, fun i hi hm => ?_, fun home pa => ?_⟩
    · rw [dataByte_eq_byteOf, byteOf_mixBytes _ _ _ hlen hi, if_neg (by rw [hm]; exact Bool.false_ne_true), byteOf_homeRead hline hlen hi]
    · rw [dataByte_eq_byteOf, byteOf_mixBytes _ _ _ hlen hi, if_pos hm, dataByte_eq_byteOf]
    · exact (byteAt_congr rfl rfl home pa).trans (sameBytes_fillLine s r.home (lineKey r.pa) (sectsOf (r.pa % 192) r.len) home pa)
  case reply =>
    obtain ⟨t, hexec, hts, hothers, hbytes⟩ := exec_loadReply r s
    obtain ⟨ha, hundo, -, hpc⟩ := landedTs_fields r (s.t r.who)
    rw [hdst] at ha hundo
    have hregs : OnlyG d (· = p) (s.t r.who).a (t.t r.who).a := by
      rw [hts]
      exact ha ▸ OnlyG.setG _ d hp _
    refine ⟨t, hexec, ?_, fun x q hq hne => hregs.g x q hq (by tauto), fun x q => hregs.v q x, hregs.m, fun u pc due hu => ?_, ?_, ?_,
      hothers, hbytes⟩
    · rw [hts]
      exact ha ▸ land_gp _ d hp z _ _
    · refine ⟨u.land (.g d p z) r.len r.data, ?_, land_gp _ d hp z _ _⟩
      rw [hts]
      exact hundo.trans (by rw [hu]; rfl)
    · rw [hts]
    · rw [hts]
      exact hpc
  case store =>
    obtain ⟨-, honly, hstored⟩ := perform_store hkind hline hheld hquiet
    refine ⟨s.perform r, ?_, honly, hstored⟩
    change Host.Outcome.next (s.afterCollapse r) = _
    rw [State.afterCollapse, if_pos hreps]
  case collapse =>
    refine ⟨(s.collapse (lineKey r.pa)).push (.replicaCollapseAck r), ?_, ⟨_, pushAt_sent _ _ _⟩, repDies_collapse s _,
      fun home pa => byteAt_congr rfl rfl home pa⟩
    change Host.Outcome.next (s.afterCollapse r) = _
    rw [State.afterCollapse, if_neg hreps]
  case ack =>
    have hbytes (home pa : Nat) : (s.collapse (lineKey r.pa)).byteAt home pa = s.byteAt home pa := byteAt_congr rfl rfl home pa
    obtain ⟨hreps, honly, hstored⟩ := perform_store (s := s.collapse (lineKey r.pa)) hkind hline hheld hquiet
    refine ⟨_, rfl, ?_, fun home pa hout => (honly home pa hout).trans (hbytes home pa), fun i hi => (hstored i hi).trans ?_⟩
    · rw [repDies_of_reps hreps]
      exact repDies_collapse _ _
    · rw [storedByte, storedByte, hbytes]

end Sys2Proof.Claims
end

section
/-! # Lane-wise vector instructions

Each of them is one completion that puts codes into the active lanes of the primal and of each plane acted on (`Arch.vecPut`). What is left
to say is that the codes are those of the claims, which for integers is arithmetic modulo the width of a lane. -/

namespace Sys2Proof.Claims

open Sys2Proof.Machine

/-! ### Lanes that are put -/

/-- `o` puts the codes of `r` into its active lanes. -/
def PutsLanes (s : State) (r : Lanes) (o : Out) : Prop :=
  ∃ lat f tan, o = vecDone lat 1 r.d.toNat (fun a => a.vecPut s.me.dual r.d r.w (activeBelow r.on r.n) f tan) s ∧
    r.w * r.n ≤ 512 ∧ (∀ i, (f i).1 % 2 ^ r.w = r.prim i % 2 ^ r.w) ∧ ∀ p i, (tan p i).1 % 2 ^ r.w = r.tan p i % 2 ^ r.w

/-- The instruction completes with the codes of `r` in its active lanes, and nothing else changed. -/
def WritesLanes (s : State) (r : Lanes) (o : Out) : Prop :=
  ∃ t, o = .next t ∧
    (∀ k, k < r.n → lane (t.me.a.vp 0 r.d) r.w k = (if r.on k then r.prim k % 2 ^ r.w else lane (s.me.a.vp 0 r.d) r.w k)) ∧
    (∀ p ∈ s.me.dual, ∀ k, k < r.n → lane (t.me.a.vp p r.d) r.w k =
      (if r.on k then r.tan p k % 2 ^ r.w else lane (s.me.a.vp p r.d) r.w k)) ∧
    s.RegStep t 4 NoReg (s.Dest r.d) NoMask

theorem lane_setLanes_all {w n : Nat} (hroom : w * n ≤ 512) (on : Nat → Bool) (c : Nat → Nat) (x : VWord) {k : Nat} (hk : k < n) :
    lane (setLanes w 0 c (activeBelow on n) x) w k = if on k then c k % 2 ^ w else lane x w k := by
  have hin : w * k + w ≤ 512 := Nat.le_trans (Nat.mul_le_mul_left w hk) hroom
  rw [lane_setLanes w 0 n on c x hin, Nat.zero_add, Nat.sub_zero]
  exact if_congr (by simp [hk]) rfl rfl

theorem PutsLanes.writes {s : State} {r : Lanes} {o : Out} (h : PutsLanes s r o) (hs : s.stepping = false) : WritesLanes s r o := by
  obtain ⟨lat, f, tan, ho, hroom, hf, htan⟩ := h
  let l := activeBelow r.on r.n
  obtain ⟨t, ht, hstep, hv, -⟩ := vecDone_completes (d := r.d) (f := fun a => a.vecPut s.me.dual r.d r.w l f tan) lat hs
    (vecPut_only s.me.a (dual_le_two s.me) r.d r.w l f tan)
  have hplanes := ConvertsPlane.of_putLanes r.d r.w l tan
  refine ⟨t, ho.trans ht, fun k hk => ?_, fun p hp k hk => ?_, hstep⟩
  · have h0 : 0 ∉ s.me.dual := fun h => absurd (dual_le s.me 0 h).1 (by decide)
    have hkeep := (hplanes.foldl_only (dual_le_two s.me) (s.me.a.putLanes 0 r.d r.w l f)).v r.d 0 (by decide) fun h => h0 h.2
    rw [hv, Arch.vecPut, hkeep, putLanes_code _ (by decide), lane_setLanes_all hroom _ _ _ hk, hf]
  · obtain ⟨hp1, hp2⟩ := dual_le s.me p hp
    have hprim := (putLanes_only s.me.a (p := 0) (by decide) r.d r.w l f).v r.d p hp2 fun h => absurd h.2 (by omega)
    rw [hv, Arch.vecPut, hplanes.foldl_code (dual_le_two s.me) (dual_nodup s.me) _ hp, lane_setLanes_all hroom _ _ _ hk, htan, hprim]

theorem WritesLanes.of_useTrn {s : State} {r : Lanes} {o : Out} (h : WritesLanes s.useTrn r o) : WritesLanes s r o := by
  obtain ⟨t, ho, hprim, htan, hstep⟩ := h
  have htimer : s.Elsewhere s.useTrn :=
    (upCore_spec s (coreOf s.cur) (fun c => { c with trnAt := s.cyc + 4 }) fun _ => ⟨rfl, rfl, rfl, rfl, rfl, rfl, rfl, rfl, rfl, rfl⟩).2
  exact ⟨t, ho, hprim, htan, hstep.pc, hstep.regs, hstep.runs, hstep.tset, Elsewhere.trans htimer hstep.rest⟩

theorem activeBelow_single {j n : Nat} (hj : j < n) : activeBelow (fun i => i == j) n = [j] := by
  induction n with
  | zero => exact absurd hj (Nat.not_lt_zero j)
  | succ n ih =>
    rw [activeBelow_succ]
    by_cases hlast : j = n
    · subst hlast
      rw [if_pos (beq_self_eq_true j), activeBelow, List.filter_eq_nil_iff.mpr, List.nil_append]
      intro i hi
      have := List.mem_range.mp hi
      simp only [beq_iff_eq]
      omega
    · rw [ih (by omega), if_neg (by simpa using Ne.symm hlast), List.append_nil]

theorem typeLanes_room (t : Nat) : tWidth t * tLanes t ≤ 512 := Nat.mul_div_le 512 (tWidth t)

/-! ### Integers in a lane -/

theorem wbits_zero {w : Nat} (x : BitVec w) (n : Nat) : wbits x 0 n = x.toNat % 2 ^ n := by
  rw [wbits, bits, Nat.pow_zero, Nat.div_one]

theorem inLane_natCast (w n : Nat) : inLane w n = n % 2 ^ w := by
  rw [inLane, show ((n : Int) % 2 ^ w) = ((n % 2 ^ w : Nat) : Int) by push_cast; rfl, Int.toNat_natCast]

theorem mod_of_modEq {w n : Nat} {z : Int} (h : (n : Int) ≡ z [ZMOD 2 ^ w]) : n % 2 ^ w = inLane w z % 2 ^ w := by
  rw [show inLane w z = inLane w n from congrArg Int.toNat h.symm, inLane_natCast, Nat.mod_mod]

/-- A lane read as a signed or as an unsigned integer is the same modulo its width. -/
theorem tInt_modEq (t x : Nat) : tInt t x ≡ x [ZMOD 2 ^ tWidth t] := by
  unfold tInt
  dsimp only
  split
  · exact Int.modEq_iff_dvd.mpr ⟨1, by ring⟩
  · rfl

/-- The model's operation gives the code `c` on two lanes. -/
def GivesCode (t : Nat) (io : Nat → Nat → Nat → Nat) (c : Nat → Nat → Nat) : Prop :=
  ∀ x y, x < 2 ^ tWidth t → y < 2 ^ tWidth t → io t x y % 2 ^ tWidth t = c x y % 2 ^ tWidth t

/-- The code of an operation on integers. -/
def intCode (t : Nat) (io : Int → Int → Int) (x y : Nat) : Nat := inLane (tWidth t) (io (tInt t x) (tInt t y))

section

variable (t : Nat)

theorem ioAdd_code : GivesCode t ioAdd (intCode t (fun x y => x + y)) := fun x y _ _ =>
  mod_of_modEq (by push_cast [ioAdd]; exact ((tInt_modEq t x).add (tInt_modEq t y)).symm)

theorem ioSub_code : GivesCode t ioSub (intCode t (fun x y => x - y)) := by
  intro x y _ hy
  have hcast : ((ioSub t x y : Nat) : Int) = (x - y) + 2 ^ tWidth t * 1 := by
    rw [ioSub, Nat.cast_sub (by omega)]
    push_cast
    ring
  refine mod_of_modEq (Int.ModEq.trans ?_ ((tInt_modEq t x).sub (tInt_modEq t y)).symm)
  rw [hcast]
  exact Int.add_mul_emod_self_left ..

theorem ioMul_code : GivesCode t ioMul (intCode t (fun x y => x * y)) := fun x y _ _ =>
  mod_of_modEq (by push_cast [ioMul]; exact ((tInt_modEq t x).mul (tInt_modEq t y)).symm)

theorem ioMin_code : GivesCode t ioMin (intCode t (fun x y => min x y)) := by
  intro x y _ _
  refine mod_of_modEq (z := min (tInt t x) (tInt t y)) ?_
  rw [ioMin]
  split
  next h => rw [min_eq_right h.le]; exact (tInt_modEq t y).symm
  next h => rw [min_eq_left (not_lt.mp h)]; exact (tInt_modEq t x).symm

theorem ioMax_code : GivesCode t ioMax (intCode t (fun x y => max x y)) := by
  intro x y _ _
  refine mod_of_modEq (z := max (tInt t x) (tInt t y)) ?_
  rw [ioMax]
  split
  next h => rw [max_eq_right h.le]; exact (tInt_modEq t y).symm
  next h => rw [max_eq_left (not_lt.mp h)]; exact (tInt_modEq t x).symm

theorem ioAbs_code : GivesCode t ioAbs (intCode t (fun x _ => x.natAbs)) := fun _ _ _ _ => mod_of_modEq (Int.ModEq.refl _)

theorem ioNeg_code : GivesCode t ioNeg (intCode t (fun x _ => -x)) := by
  intro x y hx _
  have hcast : ((ioNeg t x y : Nat) : Int) = -x + 2 ^ tWidth t * 1 := by
    rw [ioNeg, Nat.cast_sub hx.le]
    push_cast
    ring
  refine mod_of_modEq (Int.ModEq.trans ?_ (tInt_modEq t x).neg.symm)
  rw [hcast]
  exact Int.add_mul_emod_self_left ..

/-- A right shift is one of the integer, so that its sign fills in for a signed type. -/
theorem ioShr_code : GivesCode t ioShr (fun x y => inLane (tWidth t) (tInt t x / 2 ^ (y % tWidth t))) := by
  intro x y _ _
  unfold ioShr
  dsimp only
  split
  · rfl
  next hsigned =>
    refine mod_of_modEq ?_
    rw [tInt, if_neg (by simp [hsigned])]
    push_cast
    rfl

end

/-! ### Arithmetic (06 R116-R118) -/

section

variable {s : State} {d a : Reg} {m t : BitVec 3}

theorem tFmt_w {t : Nat} (ht : t < 3) : (tFmt t).w = tWidth t := by
  interval_cases t <;> rfl

/-- Float lanes of an operation. -/
theorem vopF_puts (fo : Fmt → Nat → FArg → FArg → FArg → FRes) (lat : Nat) (b : Nat → FArg) (ht : t.toNat < 3) :
    let res (i : Nat) : FRes := fo (tFmt t.toNat) s.me.rm (s.me.a.larg (tFmt t.toNat) a i) (b i) (s.me.a.larg (tFmt t.toNat) d i)
    PutsLanes s ⟨d, tWidth t.toNat, tLanes t.toNat, fun i => (s.me.a.mp m).getLsbD i, fun i => (res i).1.1,
        fun p i => ((tFmt t.toNat).round (rmOf s) 0 ((res i).2 p).1).1⟩
      (vecDone lat 1 d.toNat (vopF fo s.me.a s.me.dual s.me.rm d a b m t.toNat) s) := by
  intro res
  refine ⟨lat, fun i => (res i).1, fun p i => rnd (tFmt t.toNat) s.me.rm ((res i).2 p), ?_, typeLanes_room _, fun _ => rfl, fun _ _ => rfl⟩
  unfold vopF
  dsimp only
  rw [tFmt_w ht, active_eq]

/-- Integer lanes of an operation. -/
theorem vopI_puts {io : Nat → Nat → Nat → Nat} {c : Nat → Nat → Nat} (hc : GivesCode t.toNat io c) (lat : Nat) {b : Nat → Nat}
    (hb : ∀ i, b i < 2 ^ tWidth t.toNat) :
    PutsLanes s ⟨d, tWidth t.toNat, tLanes t.toNat, fun i => (s.me.a.mp m).getLsbD i,
        fun i => c (lane (s.me.a.vp 0 a) (tWidth t.toNat) i) (b i), fun _ _ => 0⟩
      (vecDone lat 1 d.toNat (vopI io s.me.a s.me.dual d a b m t.toNat) s) := by
  let f (i : Nat) : Nat × Flags := (io t.toNat (lane (s.me.a.vp 0 a) (tWidth t.toNat) i) (b i) % 2 ^ tWidth t.toNat, 0)
  refine ⟨lat, f, fun _ _ => (0, 0), ?_, typeLanes_room _, fun i => (Nat.mod_mod _ _).trans (hc _ _ (lane_lt _ _ _) (hb i)),
    fun _ _ => rfl⟩
  unfold vopI
  dsimp only
  rw [active_eq]

variable (hs : s.stepping = false)

include hs

theorem vop_lanes {io : Nat → Nat → Nat → Nat} {ioZ : Int → Int → Int} (hop : t.toNat < 3 ∨ GivesCode t.toNat io (intCode t.toNat ioZ))
    (fo : Fmt → Nat → FArg → FArg → FArg → FRes) (lf li : Nat) (b : Reg) :
    WritesLanes s (lanesV fo ioZ d a b m t s) (vop fo io lf li d a b m t s) := by
  unfold lanesV vop
  dsimp only
  by_cases ht : t.toNat < 3
  · rw [if_pos ht, if_pos ht]
    exact (vopF_puts fo lf (s.me.a.larg (tFmt t.toNat) b) ht).writes hs
  · rw [if_neg ht, if_neg ht]
    exact (vopI_puts (hop.resolve_left ht) li fun i => lane_lt (s.me.a.vp 0 b) (tWidth t.toNat) i).writes hs

theorem vopG_lanes {io : Nat → Nat → Nat → Nat} {ioZ : Int → Int → Int} (hop : t.toNat < 3 ∨ GivesCode t.toNat io (intCode t.toNat ioZ))
    (fo : Fmt → Nat → FArg → FArg → FArg → FRes) (lf li : Nat) (b : Reg) :
    WritesLanes s (lanesG fo ioZ d a b m t s) (vopG fo io lf li d a b m t s) := by
  unfold lanesG vopG
  dsimp only
  by_cases ht : t.toNat < 3
  · rw [if_pos ht, if_pos ht]
    exact (vopF_puts fo lf (fun _ => s.me.a.garg (tFmt t.toNat) b) ht).writes hs
  · rw [if_neg ht, if_neg ht, wbits_zero]
    exact (vopI_puts (hop.resolve_left ht) li fun _ => Nat.mod_lt _ (Nat.two_pow_pos _)).writes hs

theorem vop_bitLanes {io : Nat → Nat → Nat → Nat} {c : Nat → Nat → Nat} (ht : WellFormed.intType t = true)
    (hc : GivesCode t.toNat io c) (fo : Fmt → Nat → FArg → FArg → FArg → FRes) (lf li : Nat) (b : Reg) :
    WritesLanes s (lanesB c d a b m t s) (vop fo io lf li d a b m t s) := by
  have ht3 : ¬ t.toNat < 3 := Nat.not_lt.mpr (of_decide_eq_true ht)
  unfold vop
  dsimp only
  rw [if_neg ht3]
  exact (vopI_puts hc li fun i => lane_lt (s.me.a.vp 0 b) (tWidth t.toNat) i).writes hs

theorem vtrn_lanes {ioZ : Int → Int → Int} (ht : WellFormed.floatType t = true) (fo : Fmt → Nat → FArg → FArg → FArg → FRes) (lat : Nat)
    (b : Reg) : WritesLanes s (lanesV fo ioZ d a b m t s) (vtrn fo lat d a b m t s) :=
  (vop_lanes (s := s.useTrn) hs (.inl (of_decide_eq_true ht)) fo lat lat b).of_useTrn

/-! ### Moves and conversions (06 R121-R126, R133) -/

theorem moved_lanes (lat : Nat) (on : Nat → Bool) (src : Nat → Nat → Nat) : WritesLanes s (lanesM d t on src)
    (vecDone lat 1 d.toNat (fun a => a.vecPut s.me.dual d (tWidth t.toNat) (activeBelow on (tLanes t.toNat)) (fun i => (src 0 i, 0))
      (fun p i => (tanMove t.toNat (src p i), 0))) s) :=
  PutsLanes.writes ⟨lat, _, _, rfl, typeLanes_room _, fun _ => rfl, fun _ _ => rfl⟩ hs

theorem execVsel_lanes (b : Reg) : WritesLanes s (lanesM d t (fun _ => true)
    (fun p i => lane (s.me.a.vp p (if (s.me.a.mp m).getLsbD i then a else b)) (tWidth t.toNat) i)) (execVsel d a b m t s) := by
  have hall : span 0 (tLanes t.toNat) = activeBelow (fun _ => true) (tLanes t.toNat) := by
    rw [activeBelow, List.filter_true, span_zero_eq_range]
  unfold execVsel vmove
  rw [hall]
  exact moved_lanes hs 2 _ _

theorem execVmovg_lanes (b : Reg) : WritesLanes s (lanesM d t (fun i => (s.me.a.mp m).getLsbD i)
    (fun p _ => (s.me.a.gp p b).toNat % 2 ^ tWidth t.toNat)) (execVmovg d b m t s) := by
  unfold execVmovg vmove
  simp only [active_eq, wbits_zero]
  exact moved_lanes hs 2 _ _

theorem execVins_lanes (b : Reg) : WritesLanes s (lanesM d t (fun i => i == (s.g b).toNat % tLanes t.toNat)
    (fun p _ => (s.me.a.gp p a).toNat % 2 ^ tWidth t.toNat)) (execVins d a b t s) := by
  have hpos : 0 < tLanes t.toNat := by
    unfold tLanes tWidth
    split <;> decide
  have hone := activeBelow_single (Nat.mod_lt (s.me.a.gp 0 b).toNat hpos)
  unfold execVins vmove
  simp only [wbits_zero]
  rw [← hone]
  exact moved_lanes hs 2 _ _

theorem execVperm_lanes (b : Reg) : WritesLanes s (lanesM d t (fun i => (s.me.a.mp m).getLsbD i)
    (fun p i => lane (s.me.a.vp p a) (tWidth t.toNat) (lane (s.me.a.vp 0 b) (tWidth t.toNat) i % tLanes t.toNat)))
    (execVperm d a b m t s) := by
  unfold execVperm
  dsimp only
  rw [active_eq]
  exact moved_lanes hs 3 _ _

theorem vwiden_lanes (wi : Nat) (conv : Nat → Nat × Flags) (zeroTan : Bool) (q : Nat) :
    WritesLanes s (lanesW wi (fun c => (conv c).1) zeroTan d a q m s) (vwiden wi conv zeroTan d a q m s) := by
  unfold vwiden
  dsimp only
  rw [active_eq]
  exact PutsLanes.writes ⟨3, _, _, rfl, Nat.le_refl 512, fun _ => rfl, fun _ _ => by cases zeroTan <;> rfl⟩ hs

end

/-! ### Every lane-wise instruction -/

theorem exec_lanes {i : Instr} {s : State} {r : Lanes} (h : lanesOf i s = some r) (hwf : i.wf = true) (hs : s.stepping = false) :
    WritesLanes s r (exec i s) := by
  cases i
  case vadd => cases h; exact vop_lanes hs (.inr (ioAdd_code _)) foAdd 4 2 _
  case vsub => cases h; exact vop_lanes hs (.inr (ioSub_code _)) foSub 4 2 _
  case vmul => cases h; exact vop_lanes hs (.inr (ioMul_code _)) foMul 4 3 _
  case vmin => cases h; exact vop_lanes hs (.inr (ioMin_code _)) (foMinmax false) 4 2 _
  case vmax => cases h; exact vop_lanes hs (.inr (ioMax_code _)) (foMinmax true) 4 2 _
  case vabs => cases h; exact vop_lanes hs (.inr (ioAbs_code _)) foAbs 2 2 _
  case vneg => cases h; exact vop_lanes hs (.inr (ioNeg_code _)) foNeg 2 2 _
  case vfma => cases h; exact vop_lanes hs (.inl (of_decide_eq_true hwf)) (foFma false false) 4 4 _
  case vfms => cases h; exact vop_lanes hs (.inl (of_decide_eq_true hwf)) (foFma false true) 4 4 _
  case vaddg => cases h; exact vopG_lanes hs (.inr (ioAdd_code _)) foAdd 4 2 _
  case vmulg => cases h; exact vopG_lanes hs (.inr (ioMul_code _)) foMul 4 3 _
  case vming => cases h; exact vopG_lanes hs (.inr (ioMin_code _)) (foMinmax false) 4 2 _
  case vmaxg => cases h; exact vopG_lanes hs (.inr (ioMax_code _)) (foMinmax true) 4 2 _
  case vfmag => cases h; exact vopG_lanes hs (.inl (of_decide_eq_true hwf)) (foFma false false) 4 4 _
  case vrcp | vrsq | vexp2 | vlog2 | vsqrt | vdiv => cases h; exact vtrn_lanes hs hwf _ _ _
  case vand | vor | vxor | vshl => cases h; exact vop_bitLanes hs hwf (fun _ _ _ _ => rfl) foAdd 2 2 _
  case vshr => cases h; exact vop_bitLanes hs hwf (ioShr_code _) foAdd 2 2 _
  case vsel => cases h; exact execVsel_lanes hs _
  case vmovg => cases h; exact execVmovg_lanes hs _
  case vins => cases h; exact execVins_lanes hs _
  case vperm => cases h; exact execVperm_lanes hs _
  case vcvtF32Bf16 => cases h; exact vwiden_lanes hs 16 (widenF BF16) false _
  case vcvtF32F16 => cases h; exact vwiden_lanes hs 16 (widenF F16) false _
  case vcvtF32E4m3 => cases h; exact vwiden_lanes hs 8 (widenF (E4M3 (s.nxm s.cur))) false _
  case vcvtF32E5m2 => cases h; exact vwiden_lanes hs 8 (widenF (E5M2 (s.nxm s.cur))) false _
  case vcvtF32S32 => cases h; exact vwiden_lanes hs 32 (fun c => rnd F32 s.me.rm (xint (tInt 3 c) 0, 0)) true 0
  case vcvtS32F32 =>
    cases h
    exact vwiden_lanes hs 32 (fun c => (inLane 32 (xToInt s.me.rm (-(2 ^ 31)) (2 ^ 31 - 1) (F32.dec c)).1,
      (xToInt s.me.rm (-(2 ^ 31)) (2 ^ 31 - 1) (F32.dec c)).2)) true 0
  all_goals cases h

/-- Settles O8: each instruction puts the codes of its claim into its active lanes. -/
theorem vectorLaneResults : Obligations.VectorLaneResults := by
  unfold Obligations.VectorLaneResults
  exact fun i s r h hwf hs => exec_lanes h hwf hs

end Sys2Proof.Claims
end

section
/-! # Vector accesses of global memory

A vector load is one load for each plane, or for each active lane of each plane. It may be served by L1 or sent; either way only its own
plane of v[d] can change, and under speculation, where L1 serves nothing, it is sent. -/

namespace Sys2Proof.Claims

open Sys2Proof.Machine

/-! ### What a load into a v register leaves alone -/

/-- `t` is `s` after loads into v[d]: at the same place and with the same memory, with the planes `P` of v[d] free. -/
structure Fills (d : Reg) (P : Nat → Prop) (s t : State) : Prop where
  cur : t.cur = s.cur
  pc : t.me.pc = s.me.pc
  pmctl : t.me.pmctl = s.me.pmctl
  regs : OnlyV d P s.me.a t.me.a
  mem : t.mem = s.mem
  slices : t.slices = s.slices

section

variable {d : Reg} {P : Nat → Prop} {s t u : State}

theorem Fills.refl (d : Reg) (P : Nat → Prop) (s : State) : Fills d P s s := ⟨rfl, rfl, rfl, OnlyV.refl d P _, rfl, rfl⟩

theorem Fills.trans (h : Fills d P s t) (k : Fills d P t u) : Fills d P s u :=
  ⟨k.cur.trans h.cur, k.pc.trans h.pc, k.pmctl.trans h.pmctl, h.regs.trans k.regs, k.mem.trans h.mem, k.slices.trans h.slices⟩

theorem Fills.upMe (s : State) (f : TSet → TSet) (hpc : (f s.me).pc = s.me.pc) (hpmctl : (f s.me).pmctl = s.me.pmctl)
    (hregs : OnlyV d P s.me.a (f s.me).a) : Fills d P s (s.upMe f) :=
  ⟨rfl, by rw [upMe_me, hpc], by rw [upMe_me, hpmctl], by rw [upMe_me]; exact hregs, rfl, rfl⟩

theorem Fills.push (s : State) (e : Ev) : Fills d P s (s.push e) := ⟨rfl, rfl, rfl, OnlyV.refl d P _, rfl, rfl⟩

theorem Fills.foldl {α : Type} {f : State → α → State} {xs : List α} (hf : ∀ u, ∀ x ∈ xs, Fills d P u (f u x)) (s : State) :
    Fills d P s (xs.foldl f s) := by
  induction xs generalizing s with
  | nil => exact Fills.refl d P s
  | cons x xs ih => exact (hf s x List.mem_cons_self).trans (ih (fun u y hy => hf u y (List.mem_cons_of_mem x hy)) _)

theorem Fills.place (h : Fills d P s t) : SamePlace s t := by
  obtain ⟨g, g1, g2, v, v1, v2, m, fm, sr, hb⟩ := h.regs.banks
  exact ⟨h.cur, h.pc, h.pmctl, by rw [hb], by rw [hb], by rw [hb], by rw [hb], by rw [hb]⟩

end

/-- A load changes its own plane of its destination. -/
theorem load_fills (s : State) (h : Hit) (d : Reg) {p : Nat} (hp : p ≤ 2) (lo : Nat) (o : LoadOp) :
    Fills d (· = p) s (s.load h (.v d p lo) o) := by
  by_cases hserve : servable s h o ∧ (s.l1Read s.cur o.pl h.pa o.len).isSome
  · obtain ⟨hserve, hsome⟩ := hserve
    obtain ⟨x, hx⟩ := Option.isSome_iff_exists.mp hsome
    rw [load_of_l1 hserve hx]
    exact .upMe s _ rfl rfl (OnlyV.setV s.me.a d hp _)
  · have hmiss : ¬ servable s h o ∨ s.l1Read s.cur o.pl h.pa o.len = none := by
      rw [← Option.not_isSome_iff_eq_none]
      tauto
    obtain ⟨r, -, hload⟩ := load_of_miss (dst := .v d p lo) hmiss
    rw [hload]
    refine (Fills.upMe s _ ?_ ?_ ?_).trans (Fills.push _ _)
    · split <;> rfl
    · split <;> rfl
    · split <;> exact OnlyV.refl d _ _

/-- Under speculation a load is sent, whatever its destination. -/
theorem load_of_spec {s : State} (hspec : s.me.specOn = true) (h : Hit) (dst : Dst) (o : LoadOp) {d : Reg} {P : Nat → Prop} :
    Issues d P s (s.load h dst o) ∧ ∃ r, Sent (s.load h dst o) (.homeLoadServe r) ∧ LoadReq s h dst o r := by
  have hno : ¬ servable s h o := fun ⟨_, _, _, _, hunspec⟩ => absurd (hspec.symm.trans hunspec) (by decide)
  obtain ⟨r, hr, hload⟩ := load_of_miss (dst := dst) (.inl hno)
  rw [hload]
  refine ⟨Issues.trans (Issues.renewed s (a := s.me.a) (b := dstBusy dst) (l := (dstBusy dst).map (fun b => (b.cls, b.r)))
    (e := if o.fresh || o.acq then s.me.evts else (s.me.ev 0x05).evts) ?_ (OnlyG.refl d _ _)) (Issues.push _ _),
    r, ⟨_, pushAt_sent _ _ _⟩, hr⟩
  split <;> rfl

/-! ### The end of a vector access -/

theorem vmemDone_ends {s u : State} (hplace : SamePlace s u) (hbytes : ∀ home pa, u.byteAt home pa = s.byteAt home pa)
    (hs : s.stepping = false) : u.vmemDone.me.pc = s.nextPc 4 ∧ (∀ home pa, u.vmemDone.byteAt home pa = s.byteAt home pa) ∧
      u.me.a.Keeps u.vmemDone.me.a NoReg NoReg NoMask ∧ ∀ e, Sent u.vmemDone e ↔ Sent u e := by
  have hus : u.stepping = false := hplace.stepping.trans hs
  have hstep : u.RegStep u.vmemDone 4 NoReg NoReg NoMask := useVec_regStep (retire_regStep hus 4 u.me.dual.length) _
  exact ⟨hstep.pc.trans (hplace.nextPc 4), fun home pa => (hstep.rest.bytes home pa).trans (hbytes home pa), hstep.regs,
    retire_sent hus 4 u.me.dual.length⟩

/-! ### Loads of a list of places of v[d] -/

section

variable {α : Type} {d : Reg} {pl lo : α → Nat} {op : α → LoadOp} {s : State} {xs : List (α × Hit)}

/-- Loads into v[d], each into a plane and from a byte on. -/
def vLoads (d : Reg) (pl lo : α → Nat) (op : α → LoadOp) (s : State) (xs : List (α × Hit)) : State :=
  xs.foldl (fun s x => s.load x.2 (.v d (pl x.1) (lo x.1)) (op x.1)) s

theorem vLoads_fills (hpl : ∀ x ∈ xs, pl x.1 ∈ s.me.planes true) :
    Fills d (fun p => p = 0 ∨ p ∈ s.me.dual) s (vLoads d pl lo op s xs) :=
  Fills.foldl (fun u x hx =>
    have h := load_fills u x.2 d (planes_le _ _ _ (hpl x hx)) (lo x.1) (op x.1)
    { h with regs := h.regs.mono fun _ hq => hq ▸ mem_planes (hpl x hx) }) s

/-- Under speculation every one of them is sent. -/
theorem vLoads_sent (hspec : s.me.specOn = true) : ∀ x ∈ xs, ∃ r, Sent (vLoads d pl lo op s xs) (.homeLoadServe r) ∧
    LoadReq s x.2 (.v d (pl x.1) (lo x.1)) (op x.1) r := by
  have hload (u : State) (x : α × Hit) (hu : Issues 0 (fun _ => False) s u) :=
    load_of_spec (d := 0) (P := fun _ => False) (hu.specOn.trans hspec) x.2 (.v d (pl x.1) (lo x.1)) (op x.1)
  refine Issues.foldl_each (d := 0) (P := fun _ => False)
    (Q := fun x u => ∃ r, Sent u (.homeLoadServe r) ∧ LoadReq s x.2 (.v d (pl x.1) (lo x.1)) (op x.1) r)
    (fun u x _ hu => (hload u x hu).1) (fun u x _ hu => ?_) ?_ (Issues.refl _ _ s)
  · obtain ⟨r, hr, hreq⟩ := (hload u x hu).2
    exact ⟨r, hr, hreq.who.trans hu.cur, hreq.kind, hreq.pa, hreq.home, hreq.len, hreq.dst, hreq.pl, by rw [hreq.acq, hu.specOn]⟩
  · rintro x u v huv ⟨r, hr, hreq⟩
    exact ⟨r, huv.sent _ (fun _ => by simp) hr, hreq⟩

/-- What such loads and their completion leave. -/
theorem vLoads_complete (hs : s.stepping = false) (hpl : ∀ x ∈ xs, pl x.1 ∈ s.me.planes true) :
    (vLoads d pl lo op s xs).vmemDone.me.pc = s.nextPc 4 ∧
      (∀ home pa, (vLoads d pl lo op s xs).vmemDone.byteAt home pa = s.byteAt home pa) ∧
      s.me.a.Keeps (vLoads d pl lo op s xs).vmemDone.me.a NoReg (s.Dest d) NoMask ∧
      (s.me.specOn = true → ∀ x ∈ xs, ∃ r, Sent (vLoads d pl lo op s xs).vmemDone (.homeLoadServe r) ∧
        LoadReq s x.2 (.v d (pl x.1) (lo x.1)) (op x.1) r) := by
  have hfills : Fills d (fun p => p = 0 ∨ p ∈ s.me.dual) s (vLoads d pl lo op s xs) := vLoads_fills hpl
  obtain ⟨hpc, hbytes, hkeeps, hsent⟩ := vmemDone_ends hfills.place (byteAt_congr hfills.mem hfills.slices) hs
  refine ⟨hpc, hbytes, ArchKeeps.trans hfills.regs.keeps (ArchKeeps.mono hkeeps (fun _ _ h => h) (fun _ _ h => h.elim)),
    fun hspec x hx => ?_⟩
  obtain ⟨r, hr, hreq⟩ := vLoads_sent hspec x hx
  exact ⟨r, (hsent _).mpr hr, hreq⟩

end

/-! ### VLD.G and VLDS -/

/-- The load of plane `p` of a VLD.G. -/
def vldGOp (a0 : Arch) (d : Reg) (on : BitVec 64) (p : Nat) : LoadOp :=
  { len := 64, fresh := false, acq := false, keep := ~~~on, old := a0.vp p d, lat := 6, pl := p }

theorem execVldG_passes {d a b : Reg} {m t : BitVec 3} {s s1 : State} {hs : List Hit}
    (h : PassesOn s { kind := .load, al := 64, ctr := none, regs := false } ((s.me.planes true).map (s.me.a.gea (s.g a + s.g b)))
      (laneTouches s m t true false hs) hs s1) (hfull : s1.markFull hs = false) :
    exec (.vldG d a b m t) s = .next (vLoads d id (fun _ => 0) (vldGOp s.me.a d (laneBytes (s.me.a.mp m) (tWidth t.toNat))) s1
      ((s.me.planes true).zip hs)).vmemDone := by
  refine (planned_passes h _).trans ?_
  rw [BitVec.not_not]
  refine (watched_passes h _).trans ?_
  rw [State.marking, if_neg (by rw [hfull]; exact Bool.false_ne_true)]
  rfl

/-- The planes and lanes of a VLDS. -/
abbrev stridedLanes (s : State) (m t : BitVec 3) : List (Nat × Nat) :=
  (s.me.planes true).flatMap (fun p => (onLanes s m t).map (fun i => (p, i)))

/-- The load of one lane of a VLDS. -/
def vldsOp (w : Nat) (x : Nat × Nat) : LoadOp := { len := w, fresh := false, acq := false, lat := 6, pl := x.1 }

theorem execVlds_passes {d a b : Reg} {m t : BitVec 3} {s s1 : State} {hs : List Hit}
    (h : Passes s { kind := .load, al := tWidth t.toNat / 8, ctr := none, regs := false }
      ((stridedLanes s m t).map (fun x => s.me.a.gea (s.g a + BitVec.ofNat 64 x.2 * s.g b) x.1)) (tWidth t.toNat / 8) true false hs s1)
    (hfull : s1.markFull hs = false) :
    exec (.vlds d a b m t) s = .next (vLoads d Prod.fst (fun x => tWidth t.toNat / 8 * x.2) (vldsOp (tWidth t.toNat / 8)) s1
      ((stridedLanes s m t).zip hs)).vmemDone := by
  refine (planned_passes h _).trans ((watched_passes h _).trans ?_)
  rw [State.marking, if_neg (by rw [hfull]; exact Bool.false_ne_true)]
  rfl

/-! ### VST.G -/

/-- The stores of a VST.G, plane by plane: none where no lane is active. -/
def vStores (a0 : Arch) (d : Reg) (on : BitVec 64) (s : State) (xs : List (Nat × Hit)) : Option State :=
  xs.foldlM (fun s x => if on = 0 then some s else s.store x.2 x.1 64 on (a0.vp x.1 d) false) s

/-- Outside speculation each plane's active bytes are sent. -/
theorem vStores_sent (a0 : Arch) (d : Reg) (on : BitVec 64) {s : State} (hspec : s.me.specOn = false) (xs : List (Nat × Hit)) :
    ∃ u, vStores a0 d on s xs = some u ∧ Issues 0 (fun _ => False) s u ∧
      (on ≠ 0 → ∀ x ∈ xs, ∃ r, Sent u (.homeStoreApply r) ∧ r.pa = x.2.pa ∧ r.home = x.2.home ∧ r.len = 64 ∧ r.mask = on ∧
        r.data = a0.vp x.1 d) := by
  induction xs generalizing s with
  | nil => exact ⟨s, rfl, Issues.refl _ _ s, fun _ _ hx => nomatch hx⟩
  | cons x xs ih =>
    by_cases hon : on = 0
    · obtain ⟨u, hall, hu, -⟩ := ih hspec
      refine ⟨u, ?_, hu, fun h => absurd hon h⟩
      rw [vStores, List.foldlM_cons, if_pos hon]
      exact hall
    · obtain ⟨v, hstore, hv, hvsent⟩ := store_of_unspec (d := 0) (P := fun _ => False) hspec x.2 x.1 64 on (a0.vp x.1 d) false
      obtain ⟨u, hall, hu, husent⟩ := ih (hv.specOn.trans hspec)
      refine ⟨u, ?_, hv.trans hu, fun _ y hy => ?_⟩
      · rw [vStores, List.foldlM_cons, if_neg hon, hstore]
        exact hall
      · rcases List.mem_cons.mp hy with rfl | hy
        · exact ⟨_, hu.sent _ (fun _ => by simp) hvsent, rfl, rfl, rfl, rfl, rfl⟩
        · exact husent hon y hy

theorem execVstG_passes {d a b : Reg} {m t : BitVec 3} {s s1 : State} {hs : List Hit}
    (h : PassesOn s { kind := .store, al := 64, ctr := some true, regs := false }
      ((s.me.planes true).map (s.me.a.gea (s.g a + s.g b))) (laneTouches s m t false true hs) hs s1) :
    exec (.vstG d a b m t) s = (vStores s.me.a d (laneBytes (s.me.a.mp m) (tWidth t.toNat)) s1 ((s.me.planes true).zip hs)).elim
      s.untilResolved (fun u => .next u.vmemDone) := by
  refine (planned_passes h _).trans ((watched_passes h _).trans ?_)
  cases hst : vStores s.me.a d (laneBytes (s.me.a.mp m) (tWidth t.toNat)) s1 ((s.me.planes true).zip hs) <;>
    · rw [vStores] at hst
      rw [hst]
      rfl

/-- Settles O13: loads by what each may change and, under speculation, sends; the store plane by plane. -/
theorem vectorGlobalAccesses : Obligations.VectorGlobalAccesses := by
  unfold Obligations.VectorGlobalAccesses
  refine ⟨fun d a b m t s s1 hs hpass hfull => ?vldG, fun d a b m t s s1 hs => ?vlds,
    fun d a b m t s s1 hs hpass hspec => ?vstG⟩
  case vldG =>
    have hexec := execVldG_passes (d := d) hpass hfull
    obtain ⟨-, -, hstep, -, harch⟩ := hpass
    obtain ⟨hpc, hbytes, hkeeps, hsent⟩ := vLoads_complete (d := d) (pl := id) (lo := fun _ => 0)
      (op := vldGOp s.me.a d (laneBytes (s.me.a.mp m) (tWidth t.toNat))) (xs := (s.me.planes true).zip hs) hstep
      (fun x hx => planes_congr harch true ▸ (List.of_mem_zip hx).1)
    refine ⟨_, hexec, hpc, hbytes, hkeeps, fun hspec p h hx => ?_⟩
    obtain ⟨r, hr, hreq⟩ := hsent hspec (p, h) hx
    exact ⟨r, hr, hreq.pa, hreq.home, hreq.len, hreq.pl, hreq.dst⟩
  case vlds =>
    intro w xs hpass hfull
    have hexec := execVlds_passes (d := d) hpass hfull
    obtain ⟨-, -, hstep, -, harch⟩ := hpass
    have hplane : ∀ x ∈ xs.zip hs, x.1.1 ∈ s1.me.planes true := by
      intro x hx
      obtain ⟨p, hp, hi⟩ := List.mem_flatMap.mp (List.of_mem_zip hx).1
      obtain ⟨i, -, he⟩ := List.mem_map.mp hi
      rw [planes_congr harch true, ← he]
      exact hp
    obtain ⟨hpc, hbytes, hkeeps, hsent⟩ := vLoads_complete (d := d) (lo := fun x => w * x.2) (op := vldsOp w) hstep hplane
    refine ⟨_, hexec, hpc, hbytes, hkeeps, fun hspec p i h hx => ?_⟩
    obtain ⟨r, hr, hreq⟩ := hsent hspec ((p, i), h) hx
    exact ⟨r, hr, hreq.pa, hreq.len, hreq.pl, hreq.dst⟩
  case vstG =>
    have hexec := execVstG_passes (d := d) hpass
    obtain ⟨-, -, hstep, -, -⟩ := hpass
    obtain ⟨u, hall, hu, hsent⟩ := vStores_sent s.me.a d (laneBytes (s.me.a.mp m) (tWidth t.toNat)) hspec ((s.me.planes true).zip hs)
    obtain ⟨hpc, hbytes, hkeeps, hends⟩ := vmemDone_ends hu.place hu.bytes hstep
    rw [hall] at hexec
    refine ⟨u.vmemDone, hexec, hpc, hbytes,
      ArchKeeps.trans (ArchKeeps.mono hu.regs.keeps (fun _ _ h => h.2) (fun _ _ h => h)) hkeeps, fun hon p h hx => ?_⟩
    obtain ⟨r, hr, hreq⟩ := hsent hon (p, h) hx
    exact ⟨r, (hends _).mpr hr, hreq⟩

end Sys2Proof.Claims
end

section
/-! # A TSPAWN whose launch record lies on a lost line

TSPAWN_STATUS reads the field that names the queue as the release of a lost line will leave it (24 R421). `Obligations.TaskReleases`
reads it as the home slice serves it, and has no premise that the line is not held (24 R414): where the two differ, so may the queue. -/

namespace Sys2Proof.Claims

open Sys2Proof.Machine

/-- A running partition whose queue 1, the context's own open memory queue of one entry, is full, and a record at 0x100 that names
it. The sector of the record's field at 0x28 is lost in LPDDR6. -/
def lostRecord : State :=
  { State.reset with
    mem := [(0x20, 0x20), (0x30, 1), (0x39, 0x80), (0x12C, 1)]
    dies := [(0, { DieSt.reset with state := 0 })]
    slices := [(0, { SliceSt.reset with
      lost := [{ line := lineKey 0x128, recno := 1, level := 3, way := 0, l2 := 0, msc := 0, mem := 4 }] })] }

theorem lostRecord_noSliceWatch : noSliceWatch lostRecord 0 := by
  unfold noSliceWatch
  decide +kernel

/-- The slice still serves the field as naming queue 1. -/
theorem lostRecord_queue : memNat lostRecord 0 0x128 8 / 2 ^ 32 % 64 = 1 := by decide +kernel

/-- Queue 1 is the context's own open memory queue. -/
theorem lostRecord_own : (lostRecord.qw 0 1 3).getLsbD 15 = true ∧ (lostRecord.qw 0 1 0).toNat % 32 ≤ 16 ∧
    (lostRecord.qw 0 1 0).getLsbD 5 = true ∧ (lostRecord.qw 0 1 3).toNat % 2 ^ 12 = cidOf 0 := by decide +kernel

theorem lostRecord_full : (lostRecord.qw 0 1 2 - lostRecord.qw 0 1 1).toNat = 2 ^ ((lostRecord.qw 0 1 0).toNat % 32) := by decide +kernel

/-- The field reads as zero, and queue 0 is not enabled. -/
theorem lostRecord_append : (lostRecord.append 0 0x100 0x128 0).1 = 2 := by decide +kernel

end Sys2Proof.Claims

namespace Sys2Proof

open Sys2Proof.Machine Sys2Proof.Claims

/-- Refutes O44: its clause on TSPAWN's status reads the queue of a record on a lost line as the home slice serves it, where the append
reads it as the line's release will leave it, so that a full queue gives status 2. -/
theorem not_taskReleases : ¬ Obligations.TaskReleases := by
  unfold Obligations.TaskReleases
  rintro ⟨-, -, -, -, happend, -, -, -⟩
  obtain ⟨-, -, hfull, -⟩ := happend 0 0x128 0 0x100 lostRecord lostRecord_noSliceWatch
  rw [show lostRecord.partOf 0 = 0 from by decide +kernel, lostRecord_queue, lostRecord_append] at hfull
  exact absurd (hfull (by decide +kernel) lostRecord_own lostRecord_full) (by decide)

end Sys2Proof
end

section
/-! # The dispatcher's tables after an access

`Accessed` lets the dispatcher's caches of records and TCBs change. The accesses of the hardware that are none of the dispatcher's own
leave those too: one equation for each function, and what the caches hold after a TCB has been read or written (19 R343). -/

namespace Sys2Proof.Claims

open Sys2Proof.Machine

/-! ### A home slice -/

theorem parts_ite {c : Prop} [Decidable c] {s t u : State} (ht : t.parts = s.parts) (hu : u.parts = s.parts) :
    (if c then t else u).parts = s.parts := by
  split
  · exact ht
  · exact hu

@[simp] theorem fillLine_parts (s : State) (home key : Nat) (k : BitVec 4) : (s.fillLine home key k).parts = s.parts := by
  unfold State.fillLine
  refine parts_ite rfl ?_
  split
  rfl

@[simp] theorem heal_parts (s : State) (home key : Nat) (k : BitVec 4) : (s.heal home key k).parts = s.parts := by
  unfold State.heal
  split <;> rfl

@[simp] theorem homeRead_parts (s : State) (home pa n : Nat) : (s.homeRead home pa n).2.parts = s.parts := fillLine_parts ..

@[simp] theorem homeWrite_parts (s : State) (home pa : Nat) (on : List Bool) (bs : List Byte) (w : Nat) :
    (s.homeWrite home pa on bs w).parts = s.parts := by
  unfold State.homeWrite
  exact fillLine_parts ..

@[simp] theorem collapse_parts (s : State) (key : Nat) : (s.collapse key).parts = s.parts := rfl

@[simp] theorem learn_parts (s : State) (p cid : Nat) : (s.learn p cid).parts = s.parts := by
  unfold State.learn
  split <;> rfl

@[simp] theorem postIrq_parts (s : State) (tk : Nat) (lines : BitVec 8) : (s.postIrq tk lines).parts = s.parts := by
  unfold State.postIrq
  split
  · rfl
  · split
    · rfl
    · split
      · rfl
      · simp

@[simp] theorem swNote_parts (s : State) (home pa n : Nat) (wr : Bool) (cls clus : Nat) :
    (s.swNote home pa n wr cls clus).parts = s.parts := by
  unfold State.swNote
  refine List.foldlRecOn (motive := fun t : State => t.parts = s.parts) _ _ rfl fun t ht w _ => ?_
  exact parts_ite (parts_ite ht (parts_ite (by simpa using ht) (by simpa using ht))) ht

@[simp] theorem hwNote_parts (s : State) (home pa n : Nat) (wr : Bool) : (s.hwNote home pa n wr).parts = s.parts := by
  unfold State.hwNote
  split
  · rfl
  · exact swNote_parts ..

/-! ### Bytes that the hardware reads and writes -/

@[simp] theorem noteN_parts (h : Nat → Nat) (wr : Bool) (f : Nat) (s : State) (pa n : Nat) : (s.noteN h pa n wr f).parts = s.parts := by
  induction f generalizing s pa n with
  | zero => rfl
  | succ f ih =>
    rw [State.noteN]
    split
    · rfl
    · rw [ih, hwNote_parts]

theorem wrN_parts (h : Nat → Nat) (w f : Nat) (s : State) (pa : Nat) (bs : List Byte) : (s.wrN h pa w bs f).parts = s.parts := by
  induction f generalizing s pa bs with
  | zero => rfl
  | succ f ih =>
    cases bs with
    | nil => rfl
    | cons b bs => simp [State.wrN, ih]

@[simp] theorem wrBy_parts (s : State) (h : Nat → Nat) (pa w : Nat) (bs : List Byte) : (s.wrBy h pa w bs).parts = s.parts := wrN_parts ..

/-! ### Walks and trace records -/

@[simp] theorem markAD_parts (s : State) (p ea cid : Nat) (e : Word) (k : AccessKind) : (s.markAD p ea cid e k).parts = s.parts := by
  unfold State.markAD
  exact parts_ite rfl (wrBy_parts ..)

theorem walkAt_parts (hw : Bool) (p cid : Nat) (va : Word) (k : AccessKind) (priv f : Nat) (s : State) (t lvl : Nat) :
    (s.walkAt hw p cid va k priv t lvl f).2.2.parts = s.parts := by
  induction f generalizing s t lvl with
  | zero => rfl
  | succ f ih =>
    unfold State.walkAt
    extract_lets _ _ _ s1 _ s2
    have h1 : s1.parts = s.parts := hwNote_parts ..
    have h2 : s2.parts = s.parts := (markAD_parts ..).trans h1
    split
    · rfl
    · split
      · rfl
      · split
        · exact h1
        · split
          · split
            · exact h1
            · exact (ih ..).trans h1
          · split
            · exact h1
            · split
              · exact h2
              · exact h1

@[simp] theorem walkBy_parts (s : State) (hw : Bool) (cid : Nat) (va : Word) (k : AccessKind) (priv : Nat) :
    (s.walkBy hw cid va k priv).2.2.parts = s.parts := by
  unfold State.walkBy
  dsimp only
  split
  · rfl
  · exact walkAt_parts ..

@[simp] theorem xlatHw_parts (s : State) (cid d : Nat) (va : Word) (k : AccessKind) (priv : Nat) :
    (s.xlatHw cid d va k priv).2.parts = s.parts := by
  have hwalk := walkBy_parts s true cid va k priv
  unfold State.xlatHw
  split
  · rename_i e
    rw [e] at hwalk
    split <;> exact hwalk
  · rename_i e
    rw [e] at hwalk
    exact hwalk

theorem hwWrite_parts {s t : State} {cid d : Nat} {va : Word} {bs : List Byte} (h : s.hwWrite cid d va bs = some t) : t.parts = s.parts := by
  have hx := xlatHw_parts s cid d va .store 1
  unfold State.hwWrite at h
  split at h
  · rename_i e
    rw [e] at hx
    cases h
    simpa using hx
  · cases h

@[simp] theorem wakeWaiters_parts (s : State) (home pa c : Nat) : (s.wakeWaiters home pa c).parts = s.parts := by
  unfold State.wakeWaiters
  dsimp only
  refine List.foldlRecOn (motive := fun t : State => t.parts = s.parts) _ _ rfl fun t ht x _ => ?_
  split <;> exact ht

@[simp] theorem ctrAdd_parts (s : State) (home pa amt cid : Nat) (sat : Bool) : (s.ctrAdd home pa amt cid sat).2.parts = s.parts := by
  unfold State.ctrAdd
  dsimp only
  split
  · simp
  · split <;> simp

@[simp] theorem trace_parts (s : State) (tk kind : Nat) (step : BitVec 32) (pc val : Word) : (s.trace tk kind step pc val).parts = s.parts := by
  unfold State.trace
  extract_lets cid c d
  refine parts_ite rfl ?_
  split
  · extract_lets
    refine parts_ite rfl ?_
    split
    · rfl
    · rename_i e1
      split
      · rfl
      · rename_i e2
        simp [hwWrite_parts e2, hwWrite_parts e1]
  · rfl

/-! ### The cache of TCBs -/

theorem length_mset_le {α : Type} (m : AMap α) (k : Nat) (v : α) : (mset m k v).length ≤ m.length + 1 := by
  induction m with
  | nil => simp [mset]
  | cons x m ih =>
    unfold mset
    split
    · simp
    · split <;> simp_all

theorem mfind_mput_same {α : Type} (m : AMap α) (k : Nat) (v : α) (n : Nat) : mfind (mput m k v n) k = some v := mfind_mset_same ..

/-- A cache with room keeps what it holds. -/
theorem mput_of_room {α : Type} {m : AMap α} {k n : Nat} (v : α) (h : (mfind m k).isSome = true ∨ m.length < n) : mput m k v n = mset m k v := by
  unfold mput
  rw [if_pos (by simpa using h)]

theorem mfind_mput_ne {α : Type} {m : AMap α} {k j n : Nat} (v : α) (h : (mfind m k).isSome = true ∨ m.length < n) (hj : j ≠ k) :
    mfind (mput m k v n) j = mfind m j := by
  rw [mput_of_room v h, mfind_mset_ne _ _ hj]

theorem putTcb_part (s : State) (p pa : Nat) (r : TcbRec) :
    (s.putTcb p pa r).part p = { s.part p with tcbs := mput (s.part p).tcbs pa r 256 } := by
  unfold State.putTcb
  rw [upPart_at_same, State.part, wrBy_parts]
  rfl

/-- A TCB that has been read is in the cache, which has room for it if it held fewer than 256. -/
theorem getTcb_cached (s : State) (p pa : Nat) : (mfind ((s.getTcb p pa).2.part p).tcbs pa).isSome = true := by
  unfold State.getTcb
  split
  · rename_i e
    simp [e]
  · dsimp only
    rw [upPart_at_same, mfind_mput_same]
    rfl

theorem getTcb_keeps {s : State} {p pa j : Nat} (hroom : (s.part p).tcbs.length < 256) (hj : j ≠ pa) :
    mfind ((s.getTcb p pa).2.part p).tcbs j = mfind (s.part p).tcbs j := by
  unfold State.getTcb
  split
  · rfl
  · dsimp only
    rw [upPart_at_same, State.part, noteN_parts]
    exact mfind_mput_ne _ (.inr hroom) hj

end Sys2Proof.Claims
end

section
/-! # The dispatcher's instructions behind a release

TDONE, TSPAWN and TSYNC send what they own and stall until the release is performed; a residual entry that leaves changes nothing that
they read (07 R142; 19 R329, R344). -/

namespace Sys2Proof.Claims

open Sys2Proof.Machine

/-! ### Residual entries that leave -/

/-- A thread set beside the events that it counts. -/
abbrev uncounted (u : TSet) : TSet := { u with evts := 0 }

/-- `t` is `s` after residual entries have left: their messages are on their way, and thread sets have counted events. -/
structure Sends (s t : State) : Prop where
  rest : (t.cur, t.cyc, t.mem, t.slices, t.parts, t.dies, t.images) = (s.cur, s.cyc, s.mem, s.slices, s.parts, s.dies, s.images)
  ts : ∀ k, uncounted (t.t k) = uncounted (s.t k)

theorem Sends.refl (s : State) : Sends s s := ⟨rfl, fun _ => rfl⟩

theorem Sends.evt {s t : State} (h : Sends s t) (tk code : Nat) : Sends s (t.evt tk code) := by
  refine ⟨h.rest, fun k => ?_⟩
  by_cases hk : k = tk
  · subst hk
    rw [State.evt, upT_at_same]
    exact h.ts k
  · rw [State.evt, upT_at_ne _ _ hk]
    exact h.ts k

theorem Sends.sendRes (s : State) (core : Nat) (p : Res → Bool) : Sends s (s.sendRes core p) := by
  refine List.foldlRecOn (motive := Sends s) _ _ (Sends.refl s) fun t ht i _ => ?_
  split
  · exact ht
  · split
    · refine List.foldlRecOn (motive := Sends s) _ _ ⟨ht.rest, ht.ts⟩ fun u hu k _ => ?_
      split
      · exact hu.evt _ _
      · exact hu
    · exact ht

theorem Sends.relStep (s : State) (tk scope : Nat) : Sends s (s.relStep tk scope) := by
  unfold State.relStep
  split
  · exact Sends.refl s
  · exact Sends.sendRes s _ _

section
variable {s t : State} (h : Sends s t)
include h

theorem Sends.cur : t.cur = s.cur := congrArg (fun x => x.1) h.rest
theorem Sends.cyc : t.cyc = s.cyc := congrArg (fun x => x.2.1) h.rest
theorem Sends.parts : t.parts = s.parts := congrArg (fun x => x.2.2.2.2.1) h.rest
theorem Sends.dies : t.dies = s.dies := congrArg (fun x => x.2.2.2.2.2.1) h.rest
theorem Sends.images : t.images = s.images := congrArg (fun x => x.2.2.2.2.2.2) h.rest

theorem Sends.bytes : sameBytes s t :=
  byteAt_congr (congrArg (fun x => x.2.2.1) h.rest) (congrArg (fun x => x.2.2.2.1) h.rest)

/-- A thread set after the entries have left: only its events may differ. -/
theorem Sends.tset (k : Nat) : t.t k = { s.t k with evts := (t.t k).evts } := by
  have e : { uncounted (t.t k) with evts := (t.t k).evts } = { uncounted (s.t k) with evts := (t.t k).evts } := by rw [h.ts k]
  exact e

theorem Sends.me : t.me = { s.me with evts := t.me.evts } := by
  unfold State.me
  rw [h.cur]
  exact h.tset s.cur

end

/-! ### Stalls behind a release (07 R142; 19 R329, R344) -/

/-- The instruction stalls once the residual entries have left, and its release is asked for. -/
theorem stalls_of_sends {s u : State} (h : Sends s u) (w : Wait) (e : Ev) :
    Stalls s ((u.startWait w).push e) w ∧ Sent ((u.startWait w).push e) e := by
  refine ⟨⟨?_, ?_, ?_, fun home pa => (byteAt_congr rfl rfl home pa).trans (h.bytes home pa)⟩, ⟨_, pushAt_sent ..⟩⟩
  all_goals rw [push_me, State.startWait, upMe_me]
  all_goals rw [h.me]

theorem notSys_of_not_isSys {s : State} (i : Instr) (k : Out) (h : isSys s.cur = false) : s.notSys i k = k := by
  rw [State.notSys, h, if_neg Bool.false_ne_true]

theorem execTdone_stalls {s : State} (hsys : isSys s.cur = false) :
    ∃ t, exec .tdone s = .next t ∧ Stalls s t .tdone ∧ Sent t (.releasePerformed s.cur) :=
  ⟨_, notSys_of_not_isSys _ _ hsys, stalls_of_sends (Sends.refl s) _ _⟩

theorem execTsync_stalls {s : State} (a : Reg) (hsys : isSys s.cur = false) :
    ∃ t, exec (.tsync a) s = .next t ∧ Stalls s t (.tsync (s.g a) (a == 0)) ∧ Sent t (.releasePerformed s.cur) := by
  have hexec : exec (.tsync a) s = .next (((s.relStep s.cur 3).startWait (.tsync (s.g a) (a == 0))).push (.releasePerformed s.cur)) :=
    if_neg (by rw [hsys]; exact Bool.false_ne_true)
  exact ⟨_, hexec, stalls_of_sends (Sends.relStep s s.cur 3) _ _⟩

/-- The request of a TSPAWN: the field of the record at `h` that names its queue. -/
def queueReq (s : State) (h : Hit) : Req :=
  s.req s.cur .load h.ea (h.pa + 0x28) ((s.homeOf (s.partOf s.cur) (dieOf s.cur) h.pte (h.pa + 0x28)).getD h.home) h.pte 8

theorem execTspawn_stalls {s s1 : State} {d a : Reg} {h : Hit} (hsys : isSys s.cur = false)
    (hpass : Passes s { kind := .load, al := 256, ctr := none, regs := false } [s.g a] 256 true false [h] s1) :
    ∃ t, exec (.tspawn d a) s = .next t ∧ Stalls s1 t (.tspawn d (queueReq s1 h)) ∧ Sent t (.releasePerformed s.cur) := by
  have hexec : exec (.tspawn d a) s =
      .next (((s1.relStep s1.cur 3).startWait (.tspawn d (queueReq s1 h))).push (.releasePerformed s1.cur)) :=
    (notSys_of_not_isSys _ _ hsys).trans ((planned_passes hpass _).trans (watched_passes hpass _))
  obtain ⟨-, -, -, hcur, -⟩ := hpass
  exact ⟨_, hexec, hcur ▸ stalls_of_sends (Sends.relStep s1 s1.cur 3) _ _⟩

/-- On a system core each of the dispatcher's instructions is illegal (01 R19). -/
theorem exec_task_illegal {s : State} {i : Instr} (hsys : isSys s.cur = true)
    (hi : i = .tdone ∨ i = .yield ∨ (∃ d, i = .rtnext d) ∨ (∃ a, i = .tsync a) ∨ ∃ d a, i = .tspawn d a) :
    exec i s = .next (s.trapAt s.cur 1 (wordOf i) s.me.pc) := by
  have hno : notOnSystem i = true := by
    rcases hi with rfl | rfl | ⟨d, rfl⟩ | ⟨a, rfl⟩ | ⟨d, a, rfl⟩ <;> rfl
  obtain ⟨k, hexec⟩ := exec_eq_notSys_of_notOnSystem s hno
  rw [hexec, notSys_of_isSys i k hsys, illegal_firstWord]

end Sys2Proof.Claims
end

section
/-! # RTNEXT: a claim, and the split that it may serve first

An RTNEXT is a claim of one iteration from the machine that a pending split request leaves (07 R140; 19 R333, R341). Both results follow
from the end of the instruction, `rtnextEnd_spec`, at that machine. -/

namespace Sys2Proof.Claims

open Sys2Proof.Machine

/-! ### The claim of one iteration (07 R140) -/

/-- The claim interval after one RTNEXT. -/
def claimed (a : Arch) : Arch := if a.claim < a.rend then { a with claim := a.claim + 1 } else a

theorem claimed_eq (a : Arch) : claimed a = { a with claim := (claimed a).claim } := by
  unfold claimed
  split <;> rfl

theorem claimed_claim (a : Arch) : (claimed a).claim = if a.claim.toNat < a.rend.toNat then a.claim + 1 else a.claim := by
  unfold claimed
  by_cases h : a.claim.toNat < a.rend.toNat
  · rw [if_pos (BitVec.lt_def.mpr h), if_pos h]
  · rw [if_neg (fun hlt => h (BitVec.lt_def.mp hlt)), if_neg h]

/-- A thread set whose registers differ in the claim interval alone is at the same place, with the same planes acted on. -/
theorem samePlace_of_range {s t : State} {c e : Word} (hcur : t.cur = s.cur) (hpc : t.me.pc = s.me.pc)
    (hctl : t.me.pmctl = s.me.pmctl) (ha : t.me.a = { s.me.a with claim := c, rend := e }) :
    SamePlace s t ∧ t.me.dual = s.me.dual := by
  refine ⟨⟨hcur, hpc, hctl, by rw [ha], by rw [ha], by rw [ha], by rw [ha], by rw [ha]⟩, ?_⟩
  unfold TSet.dual TSet.dact TSet.dpln TSet.priv
  rw [ha]

/-- The bound task follows the claim interval's size. -/
def sized (p : Nat) (s : State) : State :=
  match s.me.bound with
  | none => s
  | some tcb => s.upTask p tcb (fun k => { k with size := s.me.a.rend.toNat - s.me.a.claim.toNat })

/-- The latency of an RTNEXT, and the machine once it has served a pending split. -/
def servedSplit (s : State) : Nat × State :=
  match s.me.bound with
  | none => (1, s)
  | some tcb => match s.task? (s.partOf s.cur) tcb with
    | none => (1, s)
    | some k => match s.launch? (s.partOf s.cur) k.cid k.seq with
      | none => (1, s)
      | some l => match s.split? (s.partOf s.cur) k l with
        | some (some mid, s) => (2, s.upA (fun a => { a with rend := BitVec.ofNat 64 mid }))
        | some (none, s) => (1, s)
        | none => (1, s)

/-- The end of an RTNEXT of latency `lat`, once a split has been made or not. -/
def rtnextEnd (d : Reg) (p lat : Nat) (s : State) : State :=
  let t := (sized p (s.upA claimed)).putInt d s.me.a.rend
  (if lat = 1 then t else t.soon lat [(0, d.toNat)]).doneD 4

theorem execRtnext_eq {s : State} (d : Reg) (hsys : isSys s.cur = false) :
    exec (.rtnext d) s = .next (rtnextEnd d (s.partOf s.cur) (servedSplit s).1 (servedSplit s).2) :=
  notSys_of_not_isSys _ _ hsys

/-- What tells a task made by a split from others: its range's lower end, its state, its launch and its position. -/
abbrev halfOf (k : Task) := (k.low, k.st, k.cid, k.seq, k.pos, k.split, k.hv)

/-- Updates of tasks beside `halfOf` keep each in the list. -/
theorem exists_half_upTask {s : State} {p tcb : Nat} {f : Task → Task} {x : Nat × Nat × Nat × Nat × Nat × Bool × Bool}
    (hf : ∀ k, halfOf (f k) = halfOf k) (h : ∃ n ∈ (s.part p).tasks, halfOf n = x) :
    ∃ n ∈ ((s.upTask p tcb f).part p).tasks, halfOf n = x := by
  obtain ⟨n, hn, hx⟩ := h
  refine ⟨if n.tcb = tcb then f n else n, ?_, ?_⟩
  · rw [State.upTask, upPart_at_same]
    exact List.mem_map_of_mem hn
  · split
    · rw [hf, hx]
    · exact hx

theorem exists_half_sized {s : State} {p : Nat} {x : Nat × Nat × Nat × Nat × Nat × Bool × Bool}
    (h : ∃ n ∈ (s.part p).tasks, halfOf n = x) : ∃ n ∈ ((sized p s).part p).tasks, halfOf n = x := by
  unfold sized
  split
  · exact h
  · exact exists_half_upTask (fun _ => rfl) h

/-- `sized` changes a task alone. -/
theorem sized_eq (p : Nat) (s : State) : ∃ parts, sized p s = { s with parts := parts } := by
  unfold sized
  split <;> exact ⟨_, rfl⟩

/-- The result of an integer operation, ready at once or later. -/
theorem putInt_upRegs (s : State) (d : Reg) (w : Word) (lat : Nat) :
    ∃ k, (if lat = 1 then s.putInt d w else (s.putInt d w).soon lat [(0, d.toNat)]) = s.upRegs (fun a => a.putInt s.me.dual d w) k := by
  by_cases h : lat = 1
  · refine ⟨fun l => l.filter (fun b => b.due.isNone || !([(0, d.toNat)] : List (Nat × Nat)).contains (b.cls, b.r)), ?_⟩
    rw [if_pos h]
    rfl
  · let t := { s.me with a := s.me.a.putInt s.me.dual d w }.renew [(0, d.toNat)]
    refine ⟨fun _ => (t.soon [(0, d.toNat)] (s.cyc + lat + t.extra)).busy, ?_⟩
    rw [if_neg h, State.putInt, State.soon, upMe_upMe]
    exact upMe_congr rfl

/-- An integer result that is ready at once or later completes, and leaves the messages on their way. -/
theorem putInt_completes {s : State} (hs : s.stepping = false) (d : Reg) (w : Word) (lat : Nat) :
    let t := (if lat = 1 then s.putInt d w else (s.putInt d w).soon lat [(0, d.toNat)]).doneD 4
    s.RegStep t 4 (s.Dest d) NoReg NoMask ∧ t.me.a.gp 0 d = (if d = 0 then 0 else w) ∧ ∀ e, Sent t e ↔ Sent s e := by
  dsimp only
  obtain ⟨k, hk⟩ := putInt_upRegs s d w lat
  rw [hk]
  have honly := OnlyG.putInt s.me.a (dual_le_two s.me) d w
  obtain ⟨g, g1, g2, hput⟩ := putInt_others s.me.a s.me.dual d w
  have hstill : (s.upRegs (fun a => a.putInt s.me.dual d w) k).stepping = false := by
    rw [← hs]
    unfold State.stepping State.user TSet.priv State.upRegs
    rw [upMe_me, upMe_cur]
    dsimp only
    rw [hput]
  obtain ⟨hstep, hg, -⟩ := regStep_banks s (fun a => a.putInt s.me.dual d w) k 4
    (s.upRegs (fun a => a.putInt s.me.dual d w) k).me.dual.length hs honly.banks honly.keeps
  exact ⟨hstep, (hg 0 d).trans (putInt_gp_zero s.me.a (dual_le s.me) d w), fun e => retire_sent hstill 4 _ e⟩

/-- `t` is `s` once an iteration has been claimed. -/
structure Claimed (s t : State) : Prop where
  place : SamePlace s t
  dual : t.me.dual = s.me.dual
  arch : t.me.a = claimed s.me.a
  bytes : sameBytes s t
  pend : t.pend = s.pend

theorem sized_claims (p : Nat) (s : State) : Claimed s (sized p (s.upA claimed)) := by
  obtain ⟨parts, hw⟩ := sized_eq p (s.upA claimed)
  have hme : (sized p (s.upA claimed)).me = { s.me with a := claimed s.me.a } := by
    rw [hw]
    exact upA_me s claimed
  obtain ⟨hplace, hdual⟩ := samePlace_of_range (s := s) (t := sized p (s.upA claimed)) (by rw [hw]; rfl) (by rw [hme]) (by rw [hme])
    (by rw [hme]; exact claimed_eq s.me.a)
  refine ⟨hplace, hdual, by rw [hme], ?_, by rw [hw]; rfl⟩
  rw [hw]
  exact fun home pa => byteAt_congr rfl rfl home pa

/-- What the end of an RTNEXT does (07 R140). -/
theorem rtnextEnd_spec {s : State} (d : Reg) (p lat : Nat) (hs : s.stepping = false) :
    let t := rtnextEnd d p lat s
    t.me.a.gp 0 d = (if d = 0 then 0 else s.me.a.rend) ∧ t.me.pc = s.nextPc 4 ∧ sameBytes s t ∧
      (claimed s.me.a).Keeps t.me.a (s.Dest d) NoReg NoMask ∧ (∀ e, Sent s e → Sent t e) ∧
      (t.part p).tasks = ((sized p (s.upA claimed)).part p).tasks := by
  dsimp only
  obtain ⟨hplace, hdual, harch, hbytes, hpend⟩ := sized_claims p s
  obtain ⟨hstep, hg, hsent⟩ := putInt_completes (hplace.stepping.trans hs) d s.me.a.rend lat
  refine ⟨hg, hstep.pc.trans (hplace.nextPc 4), fun home pa => (hstep.rest.bytes home pa).trans (hbytes home pa), ?_,
    fun e he => (hsent e).mpr (by rwa [Sent, hpend]), ?_⟩
  · have hregs := hstep.regs
    rw [harch] at hregs
    unfold State.Dest at hregs ⊢
    rw [hdual] at hregs
    exact hregs
  · exact congrArg (fun x => (mget x p PartSt.reset).tasks) hstep.rest.parts

/-! ### RTNEXT that splits nothing -/

/-- The start of a termination marks thread sets as stopped, and changes no other part of one. -/
theorem startTerm_tset (s : State) (d cid : Nat) (why : Option (Nat × Word)) (k : Nat) :
    { (s.startTerm d cid why).t k with stopped := false } = { s.t k with stopped := false } := by
  unfold State.startTerm
  split
  · rfl
  · split
    · rfl
    · refine apply_mget_map (f := fun u : TSet => { u with stopped := false }) (fun x => ?_) (fun x => ?_) s.ts k TSet.reset
      · split <;> rfl
      · split <;> rfl

theorem startTerm_bytes (s : State) (d cid : Nat) (why : Option (Nat × Word)) :
    (s.startTerm d cid why).cur = s.cur ∧ sameBytes s (s.startTerm d cid why) := by
  unfold State.startTerm
  split
  · exact ⟨rfl, fun _ _ => rfl⟩
  · split <;> exact ⟨rfl, fun home pa => byteAt_congr rfl rfl home pa⟩

theorem granule_eq_recG (x : BitVec 2048) : granule x = recG x := rfl

theorem Accessed.succAdd {b s t : State} {p : Nat} {l : Launch} {d : Word} (h : Accessed b s) (e : s.succAdd p l d = (true, t)) :
    Accessed b t := by
  unfold State.succAdd at e
  split at e
  · cases e
    exact h
  · split at e
    · rename_i he
      cases e
      exact h.predAdd he
    · cases e

/-- A successor whose count cannot be raised ends the context (19 R333). -/
theorem succAdd_fails {s t : State} {p : Nat} {l : Launch} {d : Word} (h : s.succAdd p l d = (false, t)) : t = s.dispFail p l.cid := by
  unfold State.succAdd at h
  split at h
  · cases h
  · split at h <;> cases h
    rfl

/-- Without what a split needs none is made, and at most the successor's count fails. -/
theorem split?_of_not_splits {s : State} {k : Task} {l : Launch} (h : ¬ splits s k l) :
    s.split? (s.partOf s.cur) k l = none ∨ s.split? (s.partOf s.cur) k l = some (none, s.dispFail (s.partOf s.cur) l.cid) := by
  unfold State.split?
  dsimp only
  split
  · rename_i q c x xs hreq hfree
    split
    · exact .inl rfl
    · rename_i hguard
      split
      · rename_i u hadd
        rw [succAdd_fails hadd]
        exact .inr rfl
      · rename_i u hadd
        refine absurd ?_ h
        simp only [Bool.or_eq_true, decide_eq_true_eq, not_or, Bool.not_eq_true, not_lt] at hguard
        obtain ⟨⟨hspec, hserved⟩, hroom⟩ := hguard
        exact ⟨⟨q, c, hreq, by simpa [State.served] using hserved⟩, by rw [hfree]; exact List.cons_ne_nil x xs, hspec, hroom, by rw [hadd]⟩
  · exact .inl rfl

/-- RTNEXT that splits nothing claims from the machine as it stands, or from one whose context ends. -/
theorem servedSplit_of_not_splits {s : State} (h : ∀ tcb k l, boundTask s s.cur tcb k l → ¬ splits s k l) :
    servedSplit s = (1, s) ∨ ∃ cid, servedSplit s = (1, s.dispFail (s.partOf s.cur) cid) := by
  unfold servedSplit
  split
  · exact .inl rfl
  · rename_i tcb hbound
    split
    · exact .inl rfl
    · rename_i k htask
      split
      · exact .inl rfl
      · rename_i l hlaunch
        rcases split?_of_not_splits (h tcb k l ⟨hbound, htask, hlaunch⟩) with hno | hfail
        · rw [hno]
          exact .inl rfl
        · rw [hfail]
          exact .inr ⟨l.cid, rfl⟩

/-! ### RTNEXT that splits (07 R140; 19 R333, R341) -/

/-- A machine in which the range `[mid, hi)` of task `k` has become a new task for position `q`, with the TCB `tcb`. -/
def splitOff (s : State) (p : Nat) (k : Task) (l : Launch) (tcb : Nat × Word) (q mid hi : Nat) : State :=
  (((s.upPart p (fun x => { x with launches := x.launches.map (fun o =>
      if o.seq = l.seq && o.cid == l.cid then { o with left := o.left + 1 } else o) })).newTask p l tcb (posOf q) mid hi true).upTask p
    k.tcb (fun k => { k with req := none })).push (.taskBind (posOf q))

/-- The middle of the claim interval's rest: the upper half begins there. -/
def middle (a : Arch) : Nat := a.claim.toNat + (a.rend.toNat - a.claim.toNat + 1) / 2

theorem split?_of_splits {s : State} {k : Task} {l : Launch} {q c : Nat} (h : splits s k l) (hreq : k.req = some (q, c)) :
    ∃ u tcb, Accessed s u ∧ s.split? (s.partOf s.cur) k l =
      some (some (middle s.me.a), splitOff u (s.partOf s.cur) k l tcb q (middle s.me.a) s.me.a.rend.toNat) := by
  obtain ⟨⟨q', c', hreq', hcand⟩, hfree, hspec, hroom, hadd⟩ := h
  obtain ⟨rfl, rfl⟩ : q = q' ∧ c = c' := by simpa using hreq.symm.trans hreq'
  obtain ⟨tcb, tcbs, htcbs⟩ := List.exists_cons_of_ne_nil hfree
  rcases hu : s.succAdd (s.partOf s.cur) l 1 with ⟨ok, u⟩
  obtain rfl : ok = true := by rw [hu] at hadd; exact hadd
  refine ⟨u, tcb, Accessed.refl.succAdd hu, ?_⟩
  have hguard : (s.me.specOn || s.served (s.partOf s.cur) q || decide ((s.me.a.rend.toNat - s.me.a.claim.toNat) / 2 < recG l.snap)) = false := by
    rw [granule_eq_recG] at hroom
    rw [hspec, State.served, hcand, decide_eq_false (Nat.not_lt.mpr hroom)]
    rfl
  unfold State.split?
  simp only [hreq, htcbs, hguard, hu, Bool.false_eq_true, if_false]
  rfl

theorem newTask_eq (s : State) (p : Nat) (l : Launch) (tcb : Nat × Word) (pos lo hi : Nat) (split : Bool) :
    ∃ u, Accessed u (s.newTask p l tcb pos lo hi split) ∧ (∀ k, u.t k = s.t k) ∧ u.cur = s.cur ∧
      ∃ n ∈ (u.part p).tasks, halfOf n = (lo, 1, l.cid, l.seq, pos, split, false) := by
  unfold State.newTask
  dsimp only
  refine ⟨_, Accessed.refl.putTcb, fun _ => rfl, rfl, ?_⟩
  rw [upPart_at_same]
  exact ⟨_, List.mem_append_right _ List.mem_cons_self, rfl⟩

/-- What a split leaves of the thread set, and the task that it makes. -/
theorem splitOff_spec {s u : State} (h : Accessed s u) (p : Nat) (k : Task) (l : Launch) (tcb : Nat × Word) (q mid hi : Nat) :
    let t := splitOff u p k l tcb q mid hi
    t.cur = s.cur ∧ (∃ irq, t.me = { s.me with irq := irq }) ∧ Sent t (.taskBind (posOf q)) ∧
      ∃ n ∈ (t.part p).tasks, halfOf n = (mid, 1, l.cid, l.seq, posOf q, true, false) := by
  unfold splitOff
  dsimp only
  generalize hv : State.upPart u p _ = v
  have hvt : ∀ j, v.t j = u.t j := by rw [← hv]; exact fun _ => rfl
  have hvcur : v.cur = u.cur := by rw [← hv]; rfl
  obtain ⟨w, hw, hwt, hwcur, hnew⟩ := newTask_eq v p l tcb (posOf q) mid hi true
  generalize State.newTask v p l tcb (posOf q) mid hi true = x at hw ⊢
  have hxcur : x.cur = s.cur := (congrArg (fun r => r.1.1) hw.rest).trans (hwcur.trans (hvcur.trans (congrArg (fun r => r.1.1) h.rest)))
  refine ⟨hxcur, ⟨(x.t s.cur).irq, ?_⟩, ⟨_, pushAt_sent ..⟩, ?_⟩
  · change x.t x.cur = _
    rw [hxcur, hw.tset s.cur, hwt, hvt, h.tset s.cur]
    rfl
  · rw [push_at_part]
    refine exists_half_upTask (fun _ => rfl) ?_
    rw [hw.tasks p]
    exact hnew

/-- RTNEXT that splits claims from the lower half. -/
theorem servedSplit_of_splits {s : State} {tcb q c : Nat} {k : Task} {l : Launch} (hbound : boundTask s s.cur tcb k l)
    (hsplits : splits s k l) (hreq : k.req = some (q, c)) :
    ∃ u x, Accessed s u ∧ servedSplit s = (2, (splitOff u (s.partOf s.cur) k l x q (middle s.me.a) s.me.a.rend.toNat).upA
      (fun a => { a with rend := BitVec.ofNat 64 (middle s.me.a) })) := by
  obtain ⟨hb, htask, hlaunch⟩ := hbound
  obtain ⟨u, x, hu, hsplit⟩ := split?_of_splits hsplits hreq
  refine ⟨u, x, hu, ?_⟩
  have hb' : s.me.bound = some tcb := hb
  unfold servedSplit
  simp only [hb', htask, hlaunch, hsplit]

/-- A range that a split halves: its middle lies above the claim and not above the end. -/
theorem middle_bounds {s : State} {k : Task} {l : Launch} (h : splits s k l) :
    s.me.a.claim.toNat < middle s.me.a ∧ middle s.me.a ≤ s.me.a.rend.toNat := by
  obtain ⟨-, -, -, hroom, -⟩ := h
  have hpos : 0 < granule l.snap := by
    unfold granule
    split <;> omega
  unfold middle
  omega

/-! ### The two results of RTNEXT (07 R140) -/

/-- The machine from which an RTNEXT that splits nothing claims is at the same place, with the same registers and bytes. -/
theorem served_keeps {s u : State} (h : u = s ∨ ∃ cid, u = s.dispFail (s.partOf s.cur) cid) :
    SamePlace s u ∧ u.me.dual = s.me.dual ∧ u.me.a = s.me.a ∧ sameBytes s u := by
  rcases h with rfl | ⟨cid, rfl⟩
  · exact ⟨⟨rfl, rfl, rfl, rfl, rfl, rfl, rfl, rfl⟩, rfl, rfl, fun _ _ => rfl⟩
  · obtain ⟨hcur, hbytes⟩ := startTerm_bytes s (s.partOf s.cur) cid none
    have hme : { (s.dispFail (s.partOf s.cur) cid).me with stopped := false } = { s.me with stopped := false } := by
      unfold State.me State.dispFail
      rw [hcur]
      exact startTerm_tset ..
    have ha : (s.dispFail (s.partOf s.cur) cid).me.a = s.me.a := (congrArg TSet.a hme :)
    obtain ⟨hplace, hdual⟩ := samePlace_of_range (c := s.me.a.claim) (e := s.me.a.rend) hcur (congrArg TSet.pc hme :)
      (congrArg TSet.pmctl hme :) ha
    exact ⟨hplace, hdual, ha, hbytes⟩

/-- RTNEXT without a split: one iteration is claimed, and the range end is the answer. -/
theorem rtnext_unsplit {s : State} (d : Reg) (hsys : isSys s.cur = false) (hs : s.stepping = false)
    (h : ∀ tcb k l, boundTask s s.cur tcb k l → ¬ splits s k l) :
    ∃ t, exec (.rtnext d) s = .next t ∧ t.me.a.gp 0 d = (if d = 0 then 0 else s.me.a.rend) ∧ t.me.a.rend = s.me.a.rend ∧
      t.me.a.claim = (if s.me.a.claim.toNat < s.me.a.rend.toNat then s.me.a.claim + 1 else s.me.a.claim) ∧
      t.me.pc = s.nextPc 4 ∧ sameBytes s t ∧ s.me.a.Keeps { t.me.a with claim := s.me.a.claim } (s.Dest d) NoReg NoMask := by
  obtain ⟨u, hu, hserved⟩ : ∃ u, (u = s ∨ ∃ cid, u = s.dispFail (s.partOf s.cur) cid) ∧ servedSplit s = (1, u) := by
    rcases servedSplit_of_not_splits h with h | ⟨cid, h⟩
    · exact ⟨_, .inl rfl, h⟩
    · exact ⟨_, .inr ⟨cid, rfl⟩, h⟩
  obtain ⟨hplace, hdual, ha, hbytes⟩ := served_keeps hu
  obtain ⟨hg, hpc, hb, hkeeps, -, -⟩ := rtnextEnd_spec d (s.partOf s.cur) 1 (hplace.stepping.trans hs)
  have hdest : u.Dest d = s.Dest d := by
    unfold State.Dest
    rw [hdual]
  rw [ha, hdest] at hkeeps
  rw [ha] at hg
  refine ⟨_, (execRtnext_eq d hsys).trans (by rw [hserved]), hg, ?_, ?_, hpc.trans (hplace.nextPc 4),
    fun home pa => (hb home pa).trans (hbytes home pa), ?_⟩
  · rw [hkeeps.rend, claimed_eq]
  · rw [hkeeps.claim, claimed_claim]
  · rw [claimed_eq] at hkeeps
    exact ⟨hkeeps.g, hkeeps.v, hkeeps.m, hkeeps.tc, hkeeps.dmode, hkeeps.dtoff, rfl, hkeeps.rend, hkeeps.bar⟩

/-- RTNEXT with a split: the lower half's end is the answer, and the upper half is a new task for the position that asked. -/
theorem rtnext_split {s : State} {d : Reg} {tcb q c : Nat} {k : Task} {l : Launch} (hsys : isSys s.cur = false) (hs : s.stepping = false)
    (hbound : boundTask s s.cur tcb k l) (hsplits : splits s k l) (hreq : k.req = some (q, c)) :
    ∃ t, exec (.rtnext d) s = .next t ∧ t.me.a.gp 0 d = (if d = 0 then 0 else BitVec.ofNat 64 (middle s.me.a)) ∧
      t.me.a.rend = BitVec.ofNat 64 (middle s.me.a) ∧ t.me.a.claim = s.me.a.claim + 1 ∧ Sent t (.taskBind (posOf q)) ∧
      ∃ n ∈ (t.part (s.partOf s.cur)).tasks, halfOf n = (middle s.me.a, 1, l.cid, l.seq, posOf q, true, false) := by
  obtain ⟨u, x, hu, hserved⟩ := servedSplit_of_splits hbound hsplits hreq
  obtain ⟨hcur, ⟨irq, hme⟩, hsent, hnew⟩ := splitOff_spec hu (s.partOf s.cur) k l x q (middle s.me.a) s.me.a.rend.toNat
  generalize splitOff u (s.partOf s.cur) k l x q (middle s.me.a) s.me.a.rend.toNat = w at hserved hcur hme hsent hnew
  have ha : (w.upA (fun a => { a with rend := BitVec.ofNat 64 (middle s.me.a) })).me.a =
      { s.me.a with rend := BitVec.ofNat 64 (middle s.me.a) } := by rw [upA_me, hme]
  obtain ⟨hplace, -⟩ := samePlace_of_range (s := s) (t := w.upA (fun a => { a with rend := BitVec.ofNat 64 (middle s.me.a) })) hcur
    (by rw [upA_me, hme]) (by rw [upA_me, hme]) ha
  obtain ⟨hg, -, -, hkeeps, hkept, htasks⟩ := rtnextEnd_spec d (s.partOf s.cur) 2 (hplace.stepping.trans hs)
  obtain ⟨hlo, hhi⟩ := middle_bounds hsplits
  have hmid : (BitVec.ofNat 64 (middle s.me.a)).toNat = middle s.me.a := by
    rw [BitVec.toNat_ofNat, Nat.mod_eq_of_lt (hhi.trans_lt s.me.a.rend.isLt)]
  rw [ha] at hg hkeeps
  refine ⟨_, (execRtnext_eq d hsys).trans (by rw [hserved]), hg, ?_, ?_, hkept _ hsent, ?_⟩
  · rw [hkeeps.rend, claimed_eq]
  · rw [hkeeps.claim, claimed_claim]
    exact if_pos (hmid.symm ▸ hlo)
  · rw [htasks]
    exact exists_half_sized hnew

end Sys2Proof.Claims
end

section
/-! # YIELD: a park, and a bind beside it

A YIELD parks its task and binds the candidate (07 R143). What the park wrote is still there after the bind, since the two tasks have
different TCBs and the cache has room for both. -/

namespace Sys2Proof.Claims

open Sys2Proof.Machine

/-! ### Tasks and launches beside an update -/

theorem launch?_congr {s t : State} {p : Nat} (h : (t.part p).launches = (s.part p).launches) (cid seq : Nat) :
    t.launch? p cid seq = s.launch? p cid seq := by
  unfold State.launch?
  rw [h]

/-- An update of one task leaves those of other TCBs. -/
theorem task?_upTask_ne {s : State} {p tcb j : Nat} {f : Task → Task} (hf : ∀ k, (f k).tcb = k.tcb) (hj : j ≠ tcb) :
    (s.upTask p tcb f).task? p j = s.task? p j := by
  unfold State.upTask
  rw [task?_upPart_map]
  · rcases h : s.task? p j with _ | k
    · rfl
    · have hk : k.tcb = j := by simpa using List.find?_some h
      rw [Option.map_some, if_neg (hk ▸ hj)]
  · intro k
    split
    · exact hf k
    · rfl

/-- The current thread set, the dies and the images after an access. -/
theorem Accessed.tables {b s : State} (h : Accessed b s) : (s.cur, s.dies, s.images) = (b.cur, b.dies, b.images) :=
  congrArg (fun x => (x.1.1, x.2.2.1.1, x.2.2.1.2.2.2)) h.rest

theorem Sends.tables {s t : State} (h : Sends s t) : (t.cur, t.dies, t.images) = (s.cur, s.dies, s.images) :=
  congrArg (fun x => (x.1, x.2.2.2.2.2)) h.rest

/-! ### The park of a task (07 R143; 19 R335, R342) -/

/-- What a park makes of its task. -/
def parkedAt (tk state : Nat) (t : TSet) (wait : Option (Nat × Nat × Word)) (k : Task) : Task :=
  { k with st := state, pos := posOf tk, hv := true, req := none, wait := wait, wclk := t.wclk, wlim := t.wlim }

/-- `t` is `s` once the task `k` of the TCB `tcb` has been parked in its TCB. -/
structure ParkedFrom (s t : State) (tk tcb state : Nat) (pc : Word) (wait : Option (Nat × Nat × Word)) (k : Task) : Prop where
  tables : (t.cur, t.dies, t.images) = (s.cur, s.dies, s.images)
  idle : (t.t tk).bound = none
  tcbs : ∃ r, r.state = state ∧ r.pc = pc ∧ (t.part (s.partOf tk)).tcbs = mput (s.part (s.partOf tk)).tcbs tcb r 256
  launches : (t.part (s.partOf tk)).launches = (s.part (s.partOf tk)).launches
  task : t.task? (s.partOf tk) tcb = some (parkedAt tk state (s.t tk) wait k)

theorem park_eq {s : State} {tk tcb : Nat} {k : Task} (hbound : (s.t tk).bound = some tcb) (htask : s.task? (s.partOf tk) tcb = some k)
    (state : Nat) (pc : Word) (wait : Option (Nat × Nat × Word)) :
    ∃ r : TcbRec, r.state = state ∧ r.pc = pc ∧ s.park tk state pc wait =
      (((s.sendOwn tk).putTcb (s.partOf tk) tcb r).upTask (s.partOf tk) tcb (parkedAt tk state (s.t tk) wait)).upT tk TSet.idle := by
  unfold State.park
  simp only [hbound, htask]
  exact ⟨_, rfl, rfl, rfl⟩

theorem park_spec {s : State} {tk tcb : Nat} {k : Task} (hbound : (s.t tk).bound = some tcb) (htask : s.task? (s.partOf tk) tcb = some k)
    (state : Nat) (pc : Word) (wait : Option (Nat × Nat × Word)) :
    ParkedFrom s (s.park tk state pc wait) tk tcb state pc wait k := by
  obtain ⟨r, hstate, hpc, hpark⟩ := park_eq hbound htask state pc wait
  have hsent : Sends s (s.sendOwn tk) := Sends.sendRes s _ _
  have hput : Accessed (s.sendOwn tk) ((s.sendOwn tk).putTcb (s.partOf tk) tcb r) := Accessed.refl.putTcb
  have hpart : ((s.sendOwn tk).putTcb (s.partOf tk) tcb r).part (s.partOf tk) =
      { s.part (s.partOf tk) with tcbs := mput (s.part (s.partOf tk)).tcbs tcb r 256 } := by
    rw [putTcb_part, State.part, hsent.parts]
    rfl
  have htables := hput.tables.trans hsent.tables
  rw [hpark]
  generalize (s.sendOwn tk).putTcb (s.partOf tk) tcb r = v at htables hpart ⊢
  refine ⟨?_, ?_, ⟨r, hstate, hpc, ?_⟩, ?_, ?_⟩
  · exact htables
  · rw [upT_at_same]
    rfl
  · rw [upT_at_part, State.upTask, upPart_at_same, hpart]
  · rw [upT_at_part, State.upTask, upPart_at_same, hpart]
  · refine task?_upTask (f := parkedAt tk state (s.t tk) wait) ((task?_congr ?_).trans htask) fun _ => rfl
    rw [hpart]

theorem ParkedFrom.partOf {s t : State} {tk tcb state : Nat} {pc : Word} {wait : Option (Nat × Nat × Word)} {k : Task}
    (h : ParkedFrom s t tk tcb state pc wait k) (j : Nat) : t.partOf j = s.partOf j := by
  have hdies : t.dies = s.dies := congrArg (fun x => x.2.1) h.tables
  unfold State.partOf State.partOfDie State.die
  rw [hdies]

/-- A park that no fault makes, with its trace record (23 R399, R408). -/
theorem yieldTo_spec {s : State} {tk tcb : Nat} {k : Task} (hbound : (s.t tk).bound = some tcb) (htask : s.task? (s.partOf tk) tcb = some k)
    (pc : Word) (wait : Option (Nat × Nat × Word)) : ParkedFrom s (s.yieldTo tk pc wait) tk tcb 3 pc wait k := by
  have hpark := park_spec hbound htask 3 pc wait
  unfold State.yieldTo
  dsimp only
  split
  · obtain ⟨htables, hidle, ⟨r, hstate, hpc, htcbs⟩, hlaunches, htask'⟩ := hpark
    generalize s.park tk 3 pc wait = u at *
    have htrace : Accessed { u with free := u.free + 1 }
        (State.trace { u with free := u.free + 1 } tk 3 (s.stepOf tk) pc (Config.parkCause u.free)) := Accessed.refl.trace
    have hparts := trace_parts { u with free := u.free + 1 } tk 3 (s.stepOf tk) pc (Config.parkCause u.free)
    generalize State.trace { u with free := u.free + 1 } tk 3 (s.stepOf tk) pc (Config.parkCause u.free) = v at htrace hparts ⊢
    have hpart : ∀ p, v.part p = u.part p := fun p => congrArg (fun x => mget x p PartSt.reset) hparts
    refine ⟨?_, ?_, ⟨r, hstate, hpc, ?_⟩, ?_, ?_⟩
    · exact htrace.tables.trans htables
    · rw [htrace.tset tk]
      exact hidle
    · rw [hpart]
      exact htcbs
    · rw [hpart]
      exact hlaunches
    · exact (task?_congr (by rw [hpart])).trans htask'
  · exact hpark

/-! ### A bind beside another task's TCB -/

/-- A task of another TCB stays what it is in a bind, but that its split request may be withdrawn. -/
theorem bindEnd_task_ne {u : State} {p tk tcb : Nat} {k k0 : Task} {l : Launch} {r : TcbRec} (hne : tcb ≠ k.tcb)
    (h : u.task? p tcb = some k0) : (bindEnd u p tk k l r).task? p tcb = some (withdrawn tk k0) := by
  unfold bindEnd
  dsimp only
  generalize hv : State.putTcb _ _ _ _ = v
  have ha : Accessed (u.upT tk (tsetAt u.cyc (posOf tk) k l r)) v := by
    rw [← hv]
    exact Accessed.refl.putTcb
  have hup : (v.upTask p k.tcb (taskAt (posOf tk) r)).task? p tcb = some k0 :=
    (task?_upTask_ne (f := taskAt (posOf tk) r) (fun _ => rfl) hne).trans ((task?_congr (ha.tasks p)).trans h)
  split <;> exact task?_withdraw hup

/-- A TCB in the cache stays there in a bind of a task whose TCB the cache holds. -/
theorem bindEnd_tcbs_ne {u : State} {p tk tcb : Nat} {k : Task} {l : Launch} {r r0 : TcbRec} (hne : tcb ≠ k.tcb)
    (hcached : (mfind (u.part p).tcbs k.tcb).isSome = true) (h : mfind (u.part p).tcbs tcb = some r0) :
    mfind ((bindEnd u p tk k l r).part p).tcbs tcb = some r0 := by
  have hput : mfind (mput (u.part p).tcbs k.tcb { r with state := 2, home := posOf tk / 4 * 4, hv := true } 256) tcb = some r0 :=
    (mfind_mput_ne _ (.inl hcached) hne).trans h
  unfold bindEnd
  dsimp only
  split
  · rw [State.evt, upT_at_part, withdraw_eq, upPart_at_same, State.upTask, upPart_at_same, putTcb_part]
    exact hput
  · rw [withdraw_eq, upPart_at_same, State.upTask, upPart_at_same, putTcb_part]
    exact hput

/-- The launches beside, a first bind whose kernel brings no image changes nothing of a partition. -/
theorem firstBind_tables {s : State} {p cc : Nat} {l : Launch} (h : s.imagesOf l.cid (recEntry l.snap) = []) :
    ∃ u, s.firstBind p cc l = (none, u) ∧ ∀ q, ((u.part q).tasks, (u.part q).tcbs) = ((s.part q).tasks, (s.part q).tcbs) := by
  unfold State.firstBind
  split
  · exact ⟨s, rfl, fun _ => rfl⟩
  · dsimp only
    have hi : ∀ f : PartSt → PartSt, (s.upPart p f).imagesOf l.cid (recEntry l.snap) = [] := fun _ => h
    simp only [hi, List.find?_nil, List.foldl_nil]
    refine ⟨_, rfl, fun q => ?_⟩
    by_cases hq : q = p
    · subst hq
      rw [upPart_at_same]
    · rw [upPart_at_ne _ _ hq]

/-- A bind whose kernel brings no image is its end in a machine that has read the TCB. -/
theorem bindTask_eq_bindEnd {s : State} {p tk : Nat} {k : Task} {l : Launch} (h : s.imagesOf l.cid (recEntry l.snap) = []) :
    ∃ u, s.bindTask p tk k l = bindEnd u p tk k l (s.getTcb p k.tcb).1 ∧ (u.part p).tasks = (s.part p).tasks ∧
      (u.part p).tcbs = ((s.getTcb p k.tcb).2.part p).tcbs := by
  unfold State.bindTask
  rcases hg : s.getTcb p k.tcb with ⟨r, s1⟩
  have h1 : Accessed s s1 := Accessed.refl.getTcb.snd hg
  dsimp only
  generalize hs2 : (if recNxm l.snap == (s1.cc (ccOf tk)).nxm then s1 else s1.upCC (ccOf tk) (fun c => c.retag (recNxm l.snap))) = s2
  obtain ⟨himages, hparts⟩ : s2.images = s1.images ∧ s2.parts = s1.parts := by
    rw [← hs2]
    split <;> exact ⟨rfl, rfl⟩
  have hi : s2.imagesOf l.cid (recEntry l.snap) = [] := by
    unfold State.imagesOf at h ⊢
    rw [himages, h1.images, h]
  obtain ⟨u, hu, hkept⟩ := firstBind_tables (p := p) (cc := ccOf tk) hi
  obtain ⟨htasks, htcbs⟩ := Prod.ext_iff.1 (hkept p)
  have hpart : s2.part p = s1.part p := congrArg (fun x => mget x p PartSt.reset) hparts
  rw [hpart] at htasks htcbs
  rw [hu]
  exact ⟨u, rfl, htasks.trans (h1.tasks p), htcbs⟩

theorem withdrawn_of_req_none {tk : Nat} {k : Task} (h : k.req = none) : withdrawn tk k = k := by
  unfold withdrawn
  rw [h]

/-- A bind beside a parked task: the position has the bound task, and the other's TCB and task stay, where the cache has room. -/
theorem bindTask_beside {s : State} {p tk tcb : Nat} {k k0 : Task} {l : Launch} {r : TcbRec} (hne : tcb ≠ k.tcb)
    (himages : s.imagesOf l.cid (recEntry l.snap) = []) (hroom : (s.part p).tcbs.length < 256)
    (htcb : mfind (s.part p).tcbs tcb = some r) (htask : s.task? p tcb = some k0) :
    ((s.bindTask p tk k l).t tk).bound = some k.tcb ∧ mfind ((s.bindTask p tk k l).part p).tcbs tcb = some r ∧
      (s.bindTask p tk k l).task? p tcb = some (withdrawn tk k0) := by
  obtain ⟨u, hbind, htasks, htcbs⟩ := bindTask_eq_bindEnd (p := p) (tk := tk) (k := k) himages
  obtain ⟨irq, evts, ht⟩ := bindEnd_tset u p tk k l (s.getTcb p k.tcb).1
  rw [hbind]
  refine ⟨?_, bindEnd_tcbs_ne hne ?_ ?_, bindEnd_task_ne hne ((task?_congr htasks).trans htask)⟩
  · rw [ht]
    exact (tsetAt_bound ..).1
  · rw [htcbs]
    exact getTcb_cached ..
  · rw [htcbs, getTcb_keeps hroom hne, htcb]

/-! ### YIELD (07 R143) -/

/-- A completion that raises no SSTEP: pc goes on, and the tables and the bound task stay. -/
theorem doneNoStep_spec (s : State) :
    (s.doneNoStep 4).me.pc = s.nextPc 4 ∧ (s.doneNoStep 4).me.bound = s.me.bound ∧ (s.doneNoStep 4).parts = s.parts ∧
      ((s.doneNoStep 4).cur, (s.doneNoStep 4).dies, (s.doneNoStep 4).images) = (s.cur, s.dies, s.images) := by
  let u := s.upMe (fun t => { t with pmctl := putBits t.pmctl 2 1 0 })
  have hme : u.me = { s.me with pmctl := putBits s.me.pmctl 2 1 0 } := upMe_me ..
  have hstill : u.stepping = false := by
    have hbit : u.me.pmctl.getLsbD 2 = false := by
      rw [hme]
      exact (getLsbD_putBits ..).trans (by simp)
    rw [State.stepping, hbit, Bool.and_false]
  have hnext : u.nextPc 4 = s.nextPc 4 := by
    have huser : u.user = s.user := by
      unfold State.user TSet.priv
      rw [hme]
      rfl
    rw [State.nextPc, State.nextPc, huser, hme]
  obtain ⟨-, hpc, htset, hrest⟩ := retireW_leaves hstill 4 0 countWindow true
  have hend : (s.doneNoStep 4).me = { (u.retireW 4 0 countWindow true).me with pmctl := s.me.pmctl } := upMe_me ..
  rw [hend]
  refine ⟨hpc.trans hnext, htset.bound.trans (by rw [hme]), hrest.parts, ?_⟩
  exact Prod.ext hrest.cur (Prod.ext hrest.dies hrest.images)

theorem execYield_nop {s : State} (hsys : isSys s.cur = false) (hnone : s.candidate (s.partOf s.cur) (cidOf s.cur) (posOf s.cur) = none) :
    exec .yield s = .next (s.done 4) := by
  change execYield s = _
  unfold execYield
  rw [notSys_of_not_isSys _ _ hsys]
  dsimp only
  rw [hnone]

/-- A YIELD for which a candidate waits: its task parks behind it, and the candidate binds. -/
theorem execYield_parks {s : State} {n : Task} {l : Launch} (hsys : isSys s.cur = false)
    (hcand : s.candidate (s.partOf s.cur) (cidOf s.cur) (posOf s.cur) = some n) (hbusy : ∀ b ∈ s.me.busy, b.due ≠ none)
    (hlaunch : ((s.doneNoStep 4).yieldTo s.cur (s.doneNoStep 4).me.pc none).launch? (s.partOf s.cur) n.cid n.seq = some l) :
    exec .yield s =
      .next (((s.doneNoStep 4).yieldTo s.cur (s.doneNoStep 4).me.pc none).bindTask (s.partOf s.cur) s.cur n l) := by
  have hready : s.me.busy.any (fun b => b.due.isNone) = false :=
    List.any_eq_false.mpr fun b hb => by simpa using hbusy b hb
  change execYield s = _
  unfold execYield
  rw [notSys_of_not_isSys _ _ hsys]
  dsimp only
  rw [hcand]
  dsimp only
  rw [hready, if_neg Bool.false_ne_true, hlaunch]

/-- What a YIELD leaves of its task and of the position, where the cache of TCBs has room for the two of them. -/
theorem yield_parks {s : State} {tcb : Nat} {k n : Task} {l : Launch} (hsys : isSys s.cur = false)
    (hcand : s.candidate (s.partOf s.cur) (cidOf s.cur) (posOf s.cur) = some n) (hbusy : ∀ b ∈ s.me.busy, b.due ≠ none)
    (hbound : s.me.bound = some tcb) (htask : s.task? (s.partOf s.cur) tcb = some k) (hne : n.tcb ≠ tcb)
    (hlaunch : s.launch? (s.partOf s.cur) n.cid n.seq = some l) (himages : s.imagesOf l.cid (recEntry l.snap) = [])
    (hroom : (s.part (s.partOf s.cur)).tcbs.length ≤ 254) :
    ∃ t, exec .yield s = .next t ∧ (t.t s.cur).bound = some n.tcb ∧
      (∃ r, mfind (t.part (s.partOf s.cur)).tcbs tcb = some r ∧ r.state = 3 ∧ r.pc = s.nextPc 4) ∧
      ∃ k', t.task? (s.partOf s.cur) tcb = some k' ∧ k'.st = 3 ∧ k'.req = none := by
  obtain ⟨hpc, hb, hparts, htables⟩ := doneNoStep_spec s
  have hexec := execYield_parks (l := l) hsys hcand hbusy
  generalize s.doneNoStep 4 = v at hpc hb hparts htables hexec
  simp only [Prod.mk.injEq] at htables
  obtain ⟨hcur, hdies, himg⟩ := htables
  have hpart : ∀ q, v.part q = s.part q := fun q => congrArg (fun x => mget x q PartSt.reset) hparts
  have hpof : v.partOf s.cur = s.partOf s.cur := by
    unfold State.partOf State.partOfDie State.die
    rw [hdies]
  have hbv : (v.t s.cur).bound = some tcb := by
    rw [← hbound, ← hb, State.me, hcur]
  have hpark := yieldTo_spec hbv ((task?_congr (by rw [hpof, hpart])).trans (hpof ▸ htask)) v.me.pc none
  generalize v.yieldTo s.cur v.me.pc none = x at hpark hexec
  obtain ⟨hxtables, -, ⟨r, hstate, hrpc, htcbs⟩, hxlaunches, hxtask⟩ := hpark
  rw [hpof] at htcbs hxlaunches hxtask
  rw [hpart] at htcbs hxlaunches
  have hximg : x.images = v.images := congrArg (fun y => y.2.2) hxtables
  have hximages : x.imagesOf l.cid (recEntry l.snap) = [] := by
    rw [← himages]
    unfold State.imagesOf
    rw [hximg, himg]
  have hxlen : (x.part (s.partOf s.cur)).tcbs.length < 256 := by
    have hlen := length_mset_le (s.part (s.partOf s.cur)).tcbs tcb r
    rw [htcbs, mput_of_room r (.inr (by omega))]
    omega
  obtain ⟨hbind, htcb, htask'⟩ := bindTask_beside (tk := s.cur) hne.symm hximages hxlen (by rw [htcbs, mfind_mput_same]) hxtask
  rw [withdrawn_of_req_none rfl] at htask'
  exact ⟨_, hexec ((launch?_congr hxlaunches _ _).trans hlaunch), hbind, ⟨r, htcb, hstate, hrpc.trans hpc⟩, _, htask', rfl, rfl⟩

end Sys2Proof.Claims

namespace Sys2Proof

open Sys2Proof.Machine Sys2Proof.Claims

/-- Settles O43, row by row: an RTNEXT claims from what a split leaves, a YIELD parks and binds, and the others stall behind a release. -/
theorem taskInstructions : Obligations.TaskInstructions := by
  unfold Obligations.TaskInstructions
  refine ⟨fun d s hsys hs h => rtnext_unsplit d hsys hs h, fun d s tcb q c k l hsys hs hbound hsplits hreq => ?split,
    fun s hsys hs => ⟨fun hnone => ?nop, fun tcb k n l => ?parks⟩, fun s hsys => execTdone_stalls hsys,
    fun a s hsys => execTsync_stalls a hsys, fun d a s s1 h hsys hpass => ?spawn, fun i s hsys hi => exec_task_illegal hsys hi⟩
  case split =>
    obtain ⟨t, hexec, hg, hrend, hclaim, hsent, n, hn, hhalf⟩ := rtnext_split (d := d) hsys hs hbound hsplits hreq
    simp only [halfOf, Prod.mk.injEq] at hhalf
    obtain ⟨hlow, hst, hcid, hseq, hpos, hsplit, hhv⟩ := hhalf
    exact ⟨t, hexec, hg, hrend, hclaim, hsent, n, hn, hlow, hst, hcid, hseq, hpos, hsplit, hhv⟩
  case nop => exact ⟨_, execYield_nop hsys hnone, retire_regStep hs 4 0⟩
  case parks =>
    intro p hcand hbusy hbound htask hne hlaunch himages hroom
    exact yield_parks hsys hcand hbusy hbound htask hne hlaunch himages hroom
  case spawn =>
    obtain ⟨t, hexec, hstalls, hsent⟩ := execTspawn_stalls (d := d) hsys hpass
    obtain ⟨-, -, -, hcur, -⟩ := hpass
    refine ⟨t, queueReq s1 h, hexec, hstalls, rfl, rfl, fun x hx => ?_, hsent⟩
    rw [← hcur] at hx
    exact congrArg (Option.getD · h.home) hx

end Sys2Proof
end

section
/-! # Tables of banks, pools, and the stalls and completions of the BANK instructions

Every operation on banks changes the slots of tables, the places of pools and the messages in flight, and nothing else: `MovesBanks`.
What such an operation leaves of a thread set is then one lemma, and only the slot and the place that a statement names need rules of
their own (08 R155-R172). -/

namespace Sys2Proof.Claims

open Sys2Proof.Machine

/-! ### What the operations on banks leave alone -/

/-- `t` is `s` but for the tables of the cores and contexts, the clusters and the messages in flight. -/
def MovesBanks (s t : State) : Prop :=
  ∃ ccs clusters pend here, t = { s with ccs := ccs, clusters := clusters, pend := pend, here := here }

theorem MovesBanks.refl (s : State) : MovesBanks s s := ⟨_, _, _, _, rfl⟩

section
variable {s t : State} (h : MovesBanks s t)
include h

theorem MovesBanks.tset (k : Nat) : t.t k = s.t k := by
  obtain ⟨_, _, _, _, rfl⟩ := h
  rfl

theorem MovesBanks.cur : t.cur = s.cur := by
  obtain ⟨_, _, _, _, rfl⟩ := h
  rfl

theorem MovesBanks.me : t.me = s.me := by
  rw [State.me, h.cur, h.tset]
  rfl

theorem MovesBanks.bytes : sameBytes s t := by
  obtain ⟨_, _, _, _, rfl⟩ := h
  exact fun home pa => byteAt_congr rfl rfl home pa

theorem MovesBanks.samePlace : SamePlace s t := by
  obtain ⟨_, _, _, _, rfl⟩ := h
  exact ⟨rfl, rfl, rfl, rfl, rfl, rfl, rfl, rfl⟩

theorem MovesBanks.upCC (cc : Nat) (f : CC → CC) : MovesBanks s (t.upCC cc f) := by
  obtain ⟨_, _, _, _, rfl⟩ := h
  exact ⟨_, _, _, _, rfl⟩

theorem MovesBanks.setSlot (cc n : Nat) (x : Slot) : MovesBanks s (t.setSlot cc n x) := h.upCC _ _

theorem MovesBanks.upBank (cc n : Nat) (f : Bank → Bank) : MovesBanks s (t.upBank cc n f) := h.upCC _ _

theorem MovesBanks.setPhys (cl b st : Nat) : MovesBanks s (t.setPhys cl b st) := by
  obtain ⟨_, _, _, _, rfl⟩ := h
  exact ⟨_, _, _, _, rfl⟩

theorem MovesBanks.pushAt (due : Nat) (e : Ev) : MovesBanks s (t.pushAt due e) := by
  obtain ⟨_, _, _, _, rfl⟩ := h
  exact ⟨_, _, _, _, rfl⟩

theorem MovesBanks.dropPend (p : Ev → Bool) : MovesBanks s (t.dropPend p) := by
  obtain ⟨_, _, _, _, rfl⟩ := h
  exact ⟨_, _, _, _, rfl⟩

theorem MovesBanks.scrub (cl b : Nat) : MovesBanks s (t.scrub cl b) := (h.setPhys _ _ _).pushAt _ _

theorem MovesBanks.evictBank (cc n : Nat) : MovesBanks s (t.evictBank cc n) := by
  unfold State.evictBank
  split
  · split
    · split
      · exact h
      · exact (h.upBank _ _ _).scrub _ _
    · exact h
  · exact h

theorem MovesBanks.makeRoom (cl : Nat) : MovesBanks s (t.makeRoom cl) := by
  unfold State.makeRoom
  split
  · exact h
  · split
    · exact h.evictBank _ _
    · exact h

theorem MovesBanks.refillBank (cc n : Nat) : MovesBanks s (t.refillBank cc n) := by
  unfold State.refillBank
  split
  · split
    · exact h.pushAt _ _
    · exact h
  · exact h

theorem MovesBanks.wakeBwait (cc n : Nat) : MovesBanks s (t.wakeBwait cc n) := by
  refine List.foldlRecOn (motive := MovesBanks s) _ _ h fun u hu k _ => ?_
  dsimp only
  split
  · split
    · exact hu.pushAt _ _
    · exact hu
  · exact hu

theorem MovesBanks.attach (cc n p : Nat) (nxm : Bool) (data : List Host.Cell) : MovesBanks s (t.attach cc n p nxm data) :=
  ((h.setSlot _ _ _).setPhys _ _ _).wakeBwait _ _

theorem MovesBanks.release (cc n : Nat) : MovesBanks s (t.release cc n) := by
  unfold State.release
  split
  · exact h.setSlot _ _ _
  · dsimp only
    split
    · exact (h.setSlot _ _ _).scrub _ _
    · exact h.setSlot _ _ _

/-- An instruction that stalls once tables, pools and messages have changed. -/
theorem MovesBanks.stalls (w : Wait) : Stalls s (t.startWait w) w := by
  refine ⟨?_, ?_, ?_, fun home pa => (byteAt_congr rfl rfl home pa).trans (h.bytes home pa)⟩
  all_goals rw [State.startWait, upMe_me]
  all_goals rw [h.me]

/-- The same of one that then asks for an event. -/
theorem MovesBanks.stallsFor (w : Wait) (e : Ev) :
    Stalls s ((t.startWait w).push e) w ∧ Sent ((t.startWait w).push e) e := by
  obtain ⟨hwait, hpc, ha, hbytes⟩ := h.stalls w
  exact ⟨⟨hwait, hpc, ha, fun home pa => (byteAt_congr rfl rfl home pa).trans (hbytes home pa)⟩, _, pushAt_sent ..⟩

end

/-! ### Waits and refills change messages alone -/

theorem wakeBwait_at (s : State) (cc n : Nat) : (s.wakeBwait cc n).ccs = s.ccs ∧ (s.wakeBwait cc n).clusters = s.clusters := by
  refine List.foldlRecOn (motive := fun u : State => u.ccs = s.ccs ∧ u.clusters = s.clusters) _ _ ⟨rfl, rfl⟩ fun u hu k _ => ?_
  dsimp only
  split
  · split <;> exact hu
  · exact hu

theorem refillBank_ccs (s : State) (cc n : Nat) : (s.refillBank cc n).ccs = s.ccs := by
  unfold State.refillBank
  split
  · split <;> rfl
  · rfl

theorem cc_congr {s t : State} (h : t.ccs = s.ccs) (k : Nat) : t.cc k = s.cc k := congrArg (fun m => mget m k CC.reset) h

theorem cl_congr {s t : State} (h : t.clusters = s.clusters) (k : Nat) : t.cl k = s.cl k :=
  congrArg (fun m => mget m k ClusterSt.reset) h

/-! ### One slot, one place -/

theorem setSlot_slot_same (s : State) (cc : Nat) {n : Nat} (hn : n < 8) (x : Slot) : ((s.setSlot cc n x).cc cc).slot n = x := by
  rw [State.setSlot, upCC_at_same, CC.slot, vget_vset, if_pos ⟨rfl, hn⟩]

theorem setSlot_slot_ne (s : State) {cc n k m : Nat} (x : Slot) (h : k ≠ cc ∨ m ≠ n) :
    ((s.setSlot cc n x).cc k).slot m = (s.cc k).slot m := by
  by_cases hk : k = cc
  · subst hk
    rw [State.setSlot, upCC_at_same, CC.slot, vget_vset, if_neg (by tauto), CC.slot]
  · rw [State.setSlot, upCC_at_ne _ _ hk]

theorem upBank_eq (s : State) (cc n : Nat) (f : Bank → Bank) : s.upBank cc n f = s.setSlot cc n (((s.cc cc).slot n).map f) := rfl

/-- A place of a pool after `setPhys`, which changes its state alone. -/
theorem setPhys_st (s : State) (cl st : Nat) {b : Nat} (hb : b < 32) : (vget ((s.setPhys cl b st).cl cl).phys b Phys.reset).st = st := by
  rw [State.setPhys, upCl_at_same, vget_vset, if_pos ⟨rfl, hb⟩]

theorem setPhys_gen (s : State) (cl b st k q : Nat) :
    (vget ((s.setPhys cl b st).cl k).phys q Phys.reset).gen = (vget (s.cl k).phys q Phys.reset).gen := by
  by_cases hk : k = cl
  · subst hk
    rw [State.setPhys, upCl_at_same, vget_vset]
    split
    · rename_i h
      rw [h.1]
    · rfl
  · rw [State.setPhys, upCl_at_ne _ _ hk]

/-- The search for a place finds the pool's lowest free one (08 R160). -/
theorem free_eq_some_iff {c : ClusterSt} {p : Nat} : c.free = some p ↔ lowestFree c p := by
  rw [ClusterSt.free, span_zero_eq_range, List.find?_range_eq_some, lowestFree]
  simp only [Bool.and_eq_true, beq_iff_eq, Bool.not_eq_true', Bool.and_eq_false_imp, List.mem_range, not_and,
    Bool.not_eq_false', Bool.not_eq_false]
  tauto

theorem free_eq_none {c : ClusterSt} (h : ∀ p, ¬ lowestFree c p) : c.free = none :=
  Option.eq_none_iff_forall_not_mem.2 fun p hp => h p (free_eq_some_iff.1 hp)

/-- The core of a compute thread set's table stands in the thread set's cluster. -/
theorem ccCore_ccOf {tk : Nat} (h : isSys tk = false) : ccCore (ccOf tk) / 8 = clusterOf tk := by
  unfold ccCore ccOf coreOf clusterOf posOf
  rw [h, if_neg Bool.false_ne_true]
  omega

/-! ### The slot word (08 R157) -/

theorem slotWord_empty {s : State} {cc n : Nat} (h : (s.cc cc).slot n = .empty) : s.slotWord cc n = 0 := by
  rw [State.slotWord, h]

theorem slotWord_resident {s : State} {cc n p : Nat} {b : Bank}
    (h : (s.cc cc).slot n = .attached b ∨ (s.cc cc).slot n = .outgoing b) (hp : b.phys = some p) :
    s.slotWord cc n = slotOf s cc p b.nxm := by
  rcases h with h | h <;> simp only [State.slotWord, h, Slot.bank?, hp, slotOf]

/-- The generations decide the slot word of a place. -/
theorem slotOf_congr {s t : State} {cc p : Nat} (nxm : Bool)
    (h : (vget (t.cl (ccCore cc / 8)).phys p Phys.reset).gen = (vget (s.cl (ccCore cc / 8)).phys p Phys.reset).gen) :
    slotOf t cc p nxm = slotOf s cc p nxm := by
  rw [slotOf, slotOf, h]

/-- A BATT's bank in its slot, with its slot word (08 R157, R160). -/
theorem attach_slot (s : State) (cc : Nat) {n : Nat} (hn : n < 8) (p : Nat) (nxm : Bool) (data : List Host.Cell) :
    ((s.attach cc n p nxm data).cc cc).slot n =
        .attached { data := data, nxm := nxm, owner := ccCid cc, phys := some p, bad := false } ∧
      (s.attach cc n p nxm data).slotWord cc n = slotOf s cc p nxm := by
  let u := (s.setSlot cc n (.attached { data := data, nxm := nxm, owner := ccCid cc, phys := some p, bad := false })).setPhys
    (ccCore cc / 8) p 1
  obtain ⟨hccs, hclusters⟩ := wakeBwait_at u cc n
  have hslot : ((u.wakeBwait cc n).cc cc).slot n =
      .attached { data := data, nxm := nxm, owner := ccCid cc, phys := some p, bad := false } := by
    rw [cc_congr hccs]
    exact setSlot_slot_same s cc hn _
  refine ⟨hslot, (slotWord_resident (.inl hslot) rfl).trans (slotOf_congr nxm ?_)⟩
  rw [cl_congr hclusters]
  exact setPhys_gen ..

/-! ### Completions -/

theorem retire_wait {s : State} (hs : s.stepping = false) (len extra : Nat) : (s.retire len extra).me.wait = s.me.wait := by
  obtain ⟨st, lc, lstat, q, ev, pa, hret, -⟩ := retireW_spec s len extra countWindow true hs
  rw [State.retire, hret, upMe_me]

theorem retire_pend {s : State} (hs : s.stepping = false) (len extra : Nat) : (s.retire len extra).pend = s.pend := by
  obtain ⟨st, lc, lstat, q, ev, pa, hret, -⟩ := retireW_spec s len extra countWindow true hs
  rw [State.retire, hret]
  rfl

theorem samePlace_putInt (s : State) (d : Reg) (w : Word) (k : List Busy → List Busy) :
    SamePlace s (s.upRegs (fun a => a.putInt s.me.dual d w) k) := by
  obtain ⟨g, g1, g2, hput⟩ := putInt_others s.me.a s.me.dual d w
  have hme : (s.upRegs (fun a => a.putInt s.me.dual d w) k).me =
      { s.me with a := { s.me.a with g := g, gd1 := g1, gd2 := g2 }, busy := k s.me.busy } := by
    rw [State.upRegs, upMe_me, hput]
  exact ⟨rfl, by rw [hme], by rw [hme], by rw [hme], by rw [hme], by rw [hme], by rw [hme], by rw [hme]⟩

/-- `v` is `u` once its current instruction has completed: pc has gone on, only the g planes `G` have changed, and no wait has begun. -/
structure Completes (u v : State) (G : Reg → Nat → Prop) : Prop where
  cur : v.cur = u.cur
  pc : v.me.pc = u.nextPc 4
  regs : u.me.a.Keeps v.me.a G NoReg NoMask
  wait : v.me.wait = u.me.wait
  bytes : sameBytes u v

theorem completes_of_regStep {u v : State} {G : Reg → Nat → Prop} (h : u.RegStep v 4 G NoReg NoMask) (hwait : v.me.wait = u.me.wait) :
    Completes u v G :=
  ⟨h.rest.cur, h.pc, h.regs, hwait, h.rest.bytes⟩

theorem done_completes {s : State} (hs : s.stepping = false) : Completes s (s.done 4) NoReg :=
  completes_of_regStep (retire_regStep hs 4 0) (retire_wait hs 4 0)

/-- An integer result, ready at once or later, completes the instruction, and begins no wait. -/
theorem putInt_completes_unwaiting {s : State} (hs : s.stepping = false) (d : Reg) (w : Word) (lat : Nat) :
    Completes s ((if lat = 1 then s.putInt d w else (s.putInt d w).soon lat [(0, d.toNat)]).doneD 4) (s.Dest d) := by
  refine completes_of_regStep (putInt_completes hs d w lat).1 ?_
  obtain ⟨k, hk⟩ := putInt_upRegs s d w lat
  rw [hk, State.doneD, retire_wait ((samePlace_putInt s d w k).stepping.trans hs), State.upRegs, upMe_me]

/-- A completion once tables, pools and messages have changed. -/
theorem MovesBanks.completes {s u v : State} {G : Reg → Nat → Prop} (h : MovesBanks s u) (hv : Completes u v G) : Completes s v G := by
  obtain ⟨hcur, hpc, hregs, hwait, hbytes⟩ := hv
  exact ⟨hcur.trans h.cur, hpc.trans (h.samePlace.nextPc 4), h.me ▸ hregs, hwait.trans (congrArg TSet.wait h.me),
    fun home pa => (hbytes home pa).trans (h.bytes home pa)⟩

theorem MovesBanks.dest {s u : State} (h : MovesBanks s u) (d : Reg) : u.Dest d = s.Dest d := by
  unfold State.Dest
  rw [h.me]

/-! ### A waiting instruction completes -/

/-- The machine seen from `tk`, with the wait of `tk` over. -/
def awake (s : State) (tk : Nat) : State := (from_ s tk).upMe (fun t => { t with wait := none })

theorem awake_me (s : State) (tk : Nat) : (awake s tk).me = { s.t tk with wait := none } := upMe_me ..

theorem samePlace_awake (s : State) (tk : Nat) : SamePlace (from_ s tk) (awake s tk) := by
  have hme := awake_me s tk
  exact ⟨rfl, by rw [hme]; rfl, by rw [hme]; rfl, by rw [hme]; rfl, by rw [hme]; rfl, by rw [hme]; rfl, by rw [hme]; rfl,
    by rw [hme]; rfl⟩

theorem awake_dest (s : State) (tk : Nat) (d : Reg) : (awake s tk).Dest d = fun x p => x = d ∧ (p = 0 ∨ p ∈ (s.t tk).dual) := by
  unfold State.Dest
  rw [awake_me]
  rfl

/-- An event takes `tk` out of its wait and runs `f` for it, in no issue slot of its core. -/
def resumed (s : State) (tk : Nat) (f : State → State) : State := s.offSlot tk (fun u => { f (awake u tk) with cur := u.cur })

theorem finish_eq_resumed (s : State) (tk : Nat) : s.finish tk = resumed s tk (·.done 4) := rfl

theorem finishD_eq_resumed (s : State) (tk : Nat) (d : Reg) (w : Word) :
    s.finishD tk d w = resumed s tk (fun u => (u.putInt d w).doneD 4) := rfl

theorem resumed_tset (s : State) (tk : Nat) (f : State → State) :
    (resumed s tk f).t tk = { (f (awake s tk)).t tk with lastIss := (s.t tk).lastIss } := upT_at_same ..

/-- What the event runs completes the instruction that waited. -/
theorem resumed_resumes {s : State} {tk : Nat} {f : State → State} {G : Reg → Nat → Prop}
    (h : Completes (awake s tk) (f (awake s tk)) G) :
    Resumes s (resumed s tk f) tk G ∧ ((resumed s tk f).t tk).a = (f (awake s tk)).me.a ∧ sameBytes s (resumed s tk f) := by
  obtain ⟨hcur, hpc, hregs, hwait, hbytes⟩ := h
  have hme : (f (awake s tk)).t tk = (f (awake s tk)).me := by
    rw [State.me, hcur]
    rfl
  rw [awake_me] at hregs hwait
  rw [Resumes, resumed_tset, hme]
  exact ⟨⟨hwait, hpc.trans ((samePlace_awake s tk).nextPc 4), hregs⟩, rfl,
    fun home pa => (byteAt_congr rfl rfl home pa).trans (hbytes home pa)⟩

theorem finish_resumes {s : State} {tk : Nat} (hs : (from_ s tk).stepping = false) :
    Resumes s (s.finish tk) tk NoReg ∧ sameBytes s (s.finish tk) := by
  rw [finish_eq_resumed]
  obtain ⟨hres, -, hbytes⟩ := resumed_resumes (f := (·.done 4)) (done_completes ((samePlace_awake s tk).stepping.trans hs))
  exact ⟨hres, hbytes⟩

theorem finishD_resumes {s : State} {tk : Nat} (hs : (from_ s tk).stepping = false) (d : Reg) (w : Word) :
    Resumes s (s.finishD tk d w) tk (fun x p => x = d ∧ (p = 0 ∨ p ∈ (s.t tk).dual)) ∧
      ((s.finishD tk d w).t tk).a.gp 0 d = (if d = 0 then 0 else w) ∧ sameBytes s (s.finishD tk d w) := by
  have hstill : (awake s tk).stepping = false := (samePlace_awake s tk).stepping.trans hs
  rw [finishD_eq_resumed]
  obtain ⟨hres, ha, hbytes⟩ := resumed_resumes (f := fun u => (u.putInt d w).doneD 4) (putInt_completes_unwaiting hstill d w 1)
  obtain ⟨-, hg, -⟩ := putInt_completes hstill d w 1
  exact ⟨awake_dest s tk d ▸ hres, (congrArg (Arch.gp · 0 d) ha).trans hg, hbytes⟩

/-- A completion leaves tables, clusters and messages. -/
theorem finish_rest {s : State} {tk : Nat} (hs : (from_ s tk).stepping = false) :
    (s.finish tk).ccs = s.ccs ∧ (s.finish tk).clusters = s.clusters ∧ (s.finish tk).pend = s.pend := by
  have hstill : (awake s tk).stepping = false := (samePlace_awake s tk).stepping.trans hs
  have hrest := (retire_regStep hstill 4 0).rest
  exact ⟨hrest.ccs, hrest.clusters, retire_pend hstill 4 0⟩

theorem finishD_ccs {s : State} {tk : Nat} (hs : (from_ s tk).stepping = false) (d : Reg) (w : Word) :
    (s.finishD tk d w).ccs = s.ccs :=
  (putInt_completes ((samePlace_awake s tk).stepping.trans hs) d w 1).1.rest.ccs

/-- Seen from a thread set, a change of tables, pools and messages is none. -/
theorem MovesBanks.from_ {s u : State} (h : MovesBanks s u) (tk : Nat) : MovesBanks (from_ s tk) (from_ u tk) := by
  obtain ⟨_, _, _, _, rfl⟩ := h
  exact ⟨_, _, _, _, rfl⟩

theorem MovesBanks.resumes {s u t : State} {tk : Nat} {G : Reg → Nat → Prop} (h : MovesBanks s u) (hres : Resumes u t tk G) :
    Resumes s t tk G := by
  obtain ⟨hwait, hpc, hregs⟩ := hres
  exact ⟨hwait, hpc.trans ((h.from_ tk).samePlace.nextPc 4), h.tset tk ▸ hregs⟩

end Sys2Proof.Claims
end

section
/-! # BATT, BQRY, BWAIT, BDET and HOVER, and the events of banks

The instructions and their events, each from `MovesBanks` and the rule of the slot or the place that it changes (08 R155-R172). -/

namespace Sys2Proof.Claims

open Sys2Proof.Machine

/-! ### BATT (08 R160) -/

/-- What lets a BATT attach the place `p`. -/
structure Attaches (s : State) (n p : Nat) : Prop where
  slot : s.myCC.slot n = .empty
  quota : s.heldBanks (cidOf s.cur) (clusterOf s.cur) < s.quotaOf (cidOf s.cur) (clusterOf s.cur)
  place : lowestFree (s.cl (clusterOf s.cur)) p

theorem batt_eq_of_free {s : State} {n p : Nat} (h : Attaches s n p) (d : Reg) :
    s.batt d n = (((s.attach (ccOf s.cur) n p (s.nxm s.cur) []).putInt d
      ((s.attach (ccOf s.cur) n p (s.nxm s.cur) []).slotWord (ccOf s.cur) n)).soon 8 [(0, d.toNat)]).doneD 4 := by
  obtain ⟨hslot, hquota, hplace⟩ := h
  rw [State.myCC] at hslot
  simp only [State.batt, hslot, if_neg (not_le.2 hquota), free_eq_some_iff.2 hplace]

/-- A BATT that finds a free place completes with a bank of zeros in its slot, and the slot word as its result. -/
theorem batt_attaches {s : State} {n p : Nat} (h : Attaches s n p) (d : Reg) (hn : n < 8) (hs : s.stepping = false) :
    Completes s (s.batt d n) (s.Dest d) ∧ ((s.batt d n).cc (ccOf s.cur)).slot n = .attached (freshBank s s.cur p) ∧
      (s.batt d n).me.a.gp 0 d = (if d = 0 then 0 else slotOf s (ccOf s.cur) p (s.nxm s.cur)) := by
  have hmoves := (MovesBanks.refl s).attach (ccOf s.cur) n p (s.nxm s.cur) []
  obtain ⟨hslot, hword⟩ := attach_slot s (ccOf s.cur) hn p (s.nxm s.cur) []
  rw [batt_eq_of_free h, hword]
  generalize s.attach (ccOf s.cur) n p (s.nxm s.cur) [] = u at hmoves hslot
  have hstill : u.stepping = false := hmoves.samePlace.stepping.trans hs
  obtain ⟨hstep, hg, -⟩ := putInt_completes hstill d (slotOf s (ccOf s.cur) p (s.nxm s.cur)) 8
  refine ⟨hmoves.dest d ▸ hmoves.completes (putInt_completes_unwaiting hstill d _ 8), ?_, hg⟩
  rw [freshBank, ← hslot]
  exact congrArg (CC.slot · n) (cc_congr hstep.rest.ccs _)

theorem batt_full {s : State} {n : Nat} (hslot : s.myCC.slot n = .empty)
    (hquota : s.heldBanks (cidOf s.cur) (clusterOf s.cur) < s.quotaOf (cidOf s.cur) (clusterOf s.cur))
    (hfull : ∀ p, ¬ lowestFree (s.cl (clusterOf s.cur)) p) (d : Reg) :
    s.batt d n = ((s.makeRoom (clusterOf s.cur)).startWait (.batt n d)).push (.battWake s.cur) := by
  rw [State.myCC] at hslot
  simp only [State.batt, hslot, if_neg (not_le.2 hquota), free_eq_none hfull]

theorem batt_over_quota {s : State} {n : Nat} (hslot : s.myCC.slot n = .empty)
    (hquota : s.quotaOf (cidOf s.cur) (clusterOf s.cur) ≤ s.heldBanks (cidOf s.cur) (clusterOf s.cur)) (d : Reg) :
    s.batt d n = s.trap cQuota 1 := by
  rw [State.myCC] at hslot
  simp only [State.batt, hslot, if_pos hquota]

theorem batt_held {s : State} {n : Nat} {b : Bank} (hslot : s.myCC.slot n = .attached b ∨ s.myCC.slot n = .outgoing b) (d : Reg) :
    s.batt d n = s.trap cQuota 2 := by
  rw [State.myCC] at hslot
  rcases hslot with hslot | hslot <;> simp only [State.batt, hslot]

theorem batt_reserved {s : State} {n : Nat} (hslot : s.myCC.slot n = .reserved) (d : Reg) : s.batt d n = s.trap cQuota 3 := by
  rw [State.myCC] at hslot
  simp only [State.batt, hslot]

theorem execBatt_eq {s : State} (hsys : isSys s.cur = false) (d : Reg) (sl : BitVec 3) :
    exec (.batt d sl) s = .next (s.batt d sl.toNat) :=
  notSys_of_not_isSys _ _ hsys

/-- Every byte of a bank that BATT has attached reads zero. -/
theorem localAt_freshBank {s t : State} {tk cc n p : Nat} (h : (t.cc cc).slot n = .attached (freshBank s tk p)) {a : Nat}
    (ha : a / 65536 = n) : t.localAt cc a = some 0 := by
  rw [State.localAt, ha, h]
  rfl

/-! ### BQRY and BWAIT (08 R165, R166) -/

theorem execBqry_completes {s : State} (hsys : isSys s.cur = false) (hs : s.stepping = false) (d : Reg) (sl : BitVec 3) :
    ∃ t, exec (.bqry d sl) s = .next t ∧ s.RegStep t 4 (s.Dest d) NoReg NoMask ∧
      t.me.a.gp 0 d = (if d = 0 then 0 else s.slotWord (ccOf s.cur) sl.toNat) := by
  obtain ⟨hstep, hg, -⟩ := putInt_completes hs d (s.slotWord (ccOf s.cur) sl.toNat) 1
  exact ⟨_, notSys_of_not_isSys _ _ hsys, hstep, hg⟩

theorem execBwait_held {s : State} {sl : BitVec 3} {b : Bank} (hsys : isSys s.cur = false)
    (hslot : s.myCC.slot sl.toNat = .attached b ∨ s.myCC.slot sl.toNat = .outgoing b) : exec (.bwait sl) s = .next (s.done 4) := by
  refine (notSys_of_not_isSys _ _ hsys).trans (if_pos ?_)
  rw [State.myCC] at hslot
  rcases hslot with hslot | hslot <;> rw [hslot] <;> rfl

theorem execBwait_unheld {s : State} {sl : BitVec 3} (hsys : isSys s.cur = false)
    (hslot : s.myCC.slot sl.toNat = .empty ∨ s.myCC.slot sl.toNat = .reserved) :
    exec (.bwait sl) s = .next ((s.dropPend (fun e => e == .bwaitWake s.cur)).startWait (.bwait sl.toNat)) := by
  refine (notSys_of_not_isSys _ _ hsys).trans (if_neg ?_)
  rw [State.myCC] at hslot
  rcases hslot with hslot | hslot <;> rw [hslot] <;> exact Bool.false_ne_true

/-! ### BDET (08 R161) -/

theorem execBdet_attached {s : State} {sl : BitVec 3} {b : Bank} (hsys : isSys s.cur = false)
    (hslot : s.myCC.slot sl.toNat = .attached b) :
    exec (.bdet sl) s = .next (((s.setSlot (ccOf s.cur) sl.toNat (.outgoing b)).startWait (.bdet sl.toNat)).push
      (.bdetTableStep s.cur)) := by
  refine (notSys_of_not_isSys _ _ hsys).trans ?_
  rw [State.myCC] at hslot
  simp only [hslot]

theorem execBdet_outgoing {s : State} {sl : BitVec 3} {b : Bank} (hsys : isSys s.cur = false)
    (hslot : s.myCC.slot sl.toNat = .outgoing b) : exec (.bdet sl) s = s.again := by
  refine (notSys_of_not_isSys _ _ hsys).trans ?_
  rw [State.myCC] at hslot
  simp only [hslot]

theorem execBdet_detached {s : State} {sl : BitVec 3} (hsys : isSys s.cur = false)
    (hslot : s.myCC.slot sl.toNat = .empty ∨ s.myCC.slot sl.toNat = .reserved) :
    exec (.bdet sl) s = .next (s.trap cDetached (BitVec.ofNat 64 (sl.toNat * 65536))) := by
  refine (notSys_of_not_isSys _ _ hsys).trans ?_
  rw [State.myCC] at hslot
  rcases hslot with hslot | hslot <;> simp only [hslot]

/-- An attached bank that BDET marks: the slot is outgoing, and the instruction waits for the table step. -/
theorem execBdet_stalls {s : State} {sl : BitVec 3} {b : Bank} (hsys : isSys s.cur = false)
    (hslot : s.myCC.slot sl.toNat = .attached b) :
    ∃ t, exec (.bdet sl) s = .next t ∧ Stalls s t (.bdet sl.toNat) ∧ t.myCC.slot sl.toNat = .outgoing b ∧
      Sent t (.bdetTableStep s.cur) := by
  obtain ⟨hstalls, hsent⟩ := ((MovesBanks.refl s).setSlot (ccOf s.cur) sl.toNat (.outgoing b)).stallsFor (.bdet sl.toNat)
    (.bdetTableStep s.cur)
  exact ⟨_, execBdet_attached hsys hslot, hstalls, setSlot_slot_same s _ sl.isLt _, hsent⟩

/-- What the release of a bank leaves: an empty slot, and its place, where it has one, being scrubbed (08 R161, R170). -/
theorem release_slot (s : State) (cc : Nat) {n : Nat} (hn : n < 8) : ((s.release cc n).cc cc).slot n = .empty := by
  have hempty := setSlot_slot_same s cc hn .empty
  unfold State.release
  split
  · exact hempty
  · dsimp only
    split <;> exact hempty

theorem release_scrubs {s : State} {cc n p : Nat} {b : Bank} (hslot : (s.cc cc).slot n = .outgoing b) (hp : b.phys = some p)
    (hlt : p < 32) :
    (vget ((s.release cc n).cl (ccCore cc / 8)).phys p Phys.reset).st = 2 ∧
      { due := s.cyc + 1024, ev := .bankScrubDone (ccCore cc / 8) p } ∈ (s.release cc n).pend := by
  have hrel : s.release cc n = (s.setSlot cc n .empty).scrub (ccCore cc / 8) p := by
    simp only [State.release, hslot, Slot.bank?, hp]
  rw [hrel]
  exact ⟨setPhys_st _ _ 2 hlt, pushAt_sent ..⟩

theorem execBdetTableStep_eq {s : State} {tk n : Nat} {b : Bank} (hwait : (s.t tk).wait = some (.bdet n))
    (hslot : (s.cc (ccOf tk)).slot n = .outgoing b) (hdrained : (s.cc (ccOf tk)).drained n = true) :
    exec (.bdetTableStep tk) s = .next ((s.release (ccOf tk) n).finish tk) := by
  change execBdetTableStep tk s = _
  simp only [execBdetTableStep, hwait, hslot, hdrained, Bool.not_true, if_neg Bool.false_ne_true]

/-! ### HOVER (08 R162, R163) -/

/-- The target's cluster and core are the fields of the register operand. -/
theorem hoverCore_eq (w : Word) : wbits w 5 8 * 8 + wbits w 2 3 = hoverCore w ∧ wbits w 5 8 = hoverCore w / 8 := by
  unfold wbits bits hoverCore
  omega

/-- The target that a HOVER may name: a core of the cluster, in the context's core set. -/
def HoverFits (s : State) (core : Nat) : Prop := core / 8 = clusterOf s.cur ∧ s.inCoreSet (cidOf s.cur) core = true

theorem hover_test_iff (s : State) (w : Word) :
    (wbits w 5 8 ≠ clusterOf s.cur || !s.inCoreSet (cidOf s.cur) (hoverCore w)) = true ↔ ¬ HoverFits s (hoverCore w) := by
  rw [(hoverCore_eq w).2, HoverFits]
  simp only [ne_eq, Bool.or_eq_true, decide_eq_true_eq, Bool.not_eq_true', not_and_or, Bool.not_eq_true]

section
variable {s : State} {d a : Reg} {m sl : BitVec 3} (hsys : isSys s.cur = false)
include hsys

theorem execHover_moves {b : Bank} (hslot : s.myCC.slot sl.toNat = .attached b) (hfits : HoverFits s (hoverCore (s.g a)))
    (htarget : (s.cc (cidOf s.cur * 2048 + hoverCore (s.g a))).slot m.toNat = .empty) :
    exec (.hover d a m sl) s = .next ((((s.setSlot (ccOf s.cur) sl.toNat (.outgoing b)).setSlot
      (cidOf s.cur * 2048 + hoverCore (s.g a)) m.toNat .reserved).startWait
      (.hover sl.toNat (hoverCore (s.g a)) m.toNat d)).push (.hoverTableStep s.cur)) := by
  refine (notSys_of_not_isSys _ _ hsys).trans ?_
  rw [State.myCC] at hslot
  simp only [hslot, (hoverCore_eq (s.g a)).1]
  rw [if_neg fun h => (hover_test_iff s (s.g a)).1 h hfits, htarget]

theorem execHover_taken {b : Bank} (hslot : s.myCC.slot sl.toNat = .attached b) (hfits : HoverFits s (hoverCore (s.g a)))
    (htarget : (s.cc (cidOf s.cur * 2048 + hoverCore (s.g a))).slot m.toNat ≠ .empty) :
    exec (.hover d a m sl) s = .next ((s.putInt d 1).doneD 4) := by
  refine (notSys_of_not_isSys _ _ hsys).trans ?_
  rw [State.myCC] at hslot
  simp only [hslot, (hoverCore_eq (s.g a)).1]
  rw [if_neg fun h => (hover_test_iff s (s.g a)).1 h hfits]

theorem execHover_outside {b : Bank} (hslot : s.myCC.slot sl.toNat = .attached b) (hfits : ¬ HoverFits s (hoverCore (s.g a))) :
    exec (.hover d a m sl) s = .next ((s.putInt d 2).doneD 4) := by
  refine (notSys_of_not_isSys _ _ hsys).trans ?_
  rw [State.myCC] at hslot
  simp only [hslot, (hoverCore_eq (s.g a)).1]
  rw [if_pos ((hover_test_iff s (s.g a)).2 hfits)]

theorem execHover_unattached (hslot : ∀ b, s.myCC.slot sl.toNat ≠ .attached b) :
    exec (.hover d a m sl) s = .next ((s.putInt d 3).doneD 4) := by
  refine (notSys_of_not_isSys _ _ hsys).trans ?_
  dsimp only
  split
  · rename_i b hb
    exact absurd hb (hslot b)
  · rfl

/-- A HOVER that moves its bank marks its slot outgoing, reserves the target's, and waits for the table step. -/
theorem execHover_stalls {b : Bank} (hslot : s.myCC.slot sl.toNat = .attached b) (hfits : HoverFits s (hoverCore (s.g a)))
    (htarget : (s.cc (cidOf s.cur * 2048 + hoverCore (s.g a))).slot m.toNat = .empty) :
    ∃ t, exec (.hover d a m sl) s = .next t ∧ Stalls s t (.hover sl.toNat (hoverCore (s.g a)) m.toNat d) ∧
      t.myCC.slot sl.toNat = .outgoing b ∧ (t.cc (cidOf s.cur * 2048 + hoverCore (s.g a))).slot m.toNat = .reserved ∧
      Sent t (.hoverTableStep s.cur) := by
  have hother : ccOf s.cur ≠ cidOf s.cur * 2048 + hoverCore (s.g a) ∨ sl.toNat ≠ m.toNat := by
    by_contra! h
    rw [← h.1, ← h.2] at htarget
    exact Slot.noConfusion (htarget.symm.trans hslot)
  obtain ⟨hstalls, hsent⟩ := (((MovesBanks.refl s).setSlot (ccOf s.cur) sl.toNat (.outgoing b)).setSlot
    (cidOf s.cur * 2048 + hoverCore (s.g a)) m.toNat .reserved).stallsFor (.hover sl.toNat (hoverCore (s.g a)) m.toNat d)
    (.hoverTableStep s.cur)
  exact ⟨_, execHover_moves hsys hslot hfits htarget, hstalls,
    (setSlot_slot_ne _ _ hother).trans (setSlot_slot_same s _ sl.isLt _), setSlot_slot_same _ _ m.isLt _, hsent⟩

/-- A HOVER that moves nothing completes with the reason, and changes no table. -/
theorem execHover_status (hs : s.stepping = false) {w : Word}
    (hw : (∃ b, s.myCC.slot sl.toNat = .attached b) ∧ HoverFits s (hoverCore (s.g a)) ∧
        (s.cc (cidOf s.cur * 2048 + hoverCore (s.g a))).slot m.toNat ≠ .empty ∧ w = 1 ∨
      (∃ b, s.myCC.slot sl.toNat = .attached b) ∧ ¬ HoverFits s (hoverCore (s.g a)) ∧ w = 2 ∨
      (∀ b, s.myCC.slot sl.toNat ≠ .attached b) ∧ w = 3) :
    ∃ t, exec (.hover d a m sl) s = .next t ∧ t.me.a.gp 0 d = (if d = 0 then 0 else w) ∧ s.RegStep t 4 (s.Dest d) NoReg NoMask := by
  have hexec : exec (.hover d a m sl) s = .next ((s.putInt d w).doneD 4) := by
    obtain ⟨⟨b, hslot⟩, hfits, htarget, rfl⟩ | ⟨⟨b, hslot⟩, hfits, rfl⟩ | ⟨hslot, rfl⟩ := hw
    · exact execHover_taken hsys hslot hfits htarget
    · exact execHover_outside hsys hslot hfits
    · exact execHover_unattached hsys hslot
  obtain ⟨hstep, hg, -⟩ := putInt_completes hs d w 1
  exact ⟨_, hexec, hg, hstep⟩

end

/-- The tables once a HOVER's bank has moved, its refill started where the target's context is active. -/
def hovered (s : State) (cc n tcc m : Nat) (b : Bank) : State :=
  let u := ((s.setSlot cc n .empty).setSlot tcc m (.attached b)).wakeBwait tcc m
  if u.active tcc then u.refillBank tcc m else u

theorem hovered_moves (s : State) (cc n tcc m : Nat) (b : Bank) : MovesBanks s (hovered s cc n tcc m b) := by
  have h : MovesBanks s (((s.setSlot cc n .empty).setSlot tcc m (.attached b)).wakeBwait tcc m) :=
    (((MovesBanks.refl s).setSlot _ _ _).setSlot _ _ _).wakeBwait _ _
  unfold hovered
  dsimp only
  split
  · exact h.refillBank _ _
  · exact h

theorem hovered_slots (s : State) {cc n tcc m : Nat} (b : Bank) (hn : n < 8) (hm : m < 8) (hother : tcc ≠ cc ∨ m ≠ n) :
    ((hovered s cc n tcc m b).cc cc).slot n = .empty ∧ ((hovered s cc n tcc m b).cc tcc).slot m = .attached b := by
  have hccs : (hovered s cc n tcc m b).ccs = ((s.setSlot cc n .empty).setSlot tcc m (.attached b)).ccs := by
    unfold hovered
    dsimp only
    split
    · exact (refillBank_ccs ..).trans (wakeBwait_at ..).1
    · exact (wakeBwait_at ..).1
  rw [cc_congr hccs, cc_congr hccs]
  refine ⟨?_, setSlot_slot_same _ _ hm _⟩
  rw [setSlot_slot_ne _ _ (hother.imp Ne.symm Ne.symm)]
  exact setSlot_slot_same _ _ hn _

theorem execHoverTableStep_eq {s : State} {tk n core m : Nat} {d : Reg} {b : Bank} (hwait : (s.t tk).wait = some (.hover n core m d))
    (hslot : (s.cc (ccOf tk)).slot n = .outgoing b) (hdrained : (s.cc (ccOf tk)).drained n = true) :
    exec (.hoverTableStep tk) s = .next ((hovered s (ccOf tk) n (cidOf tk * 2048 + core) m b).finishD tk d 0) := by
  change execHoverTableStep tk s = _
  simp only [execHoverTableStep, hwait, hslot, hdrained, Bool.not_true, if_neg Bool.false_ne_true]
  rfl

/-- The table step of a HOVER: the bank moves, and the HOVER completes with status 0. -/
theorem hoverTableStep_moves {s : State} {tk n core m : Nat} {d : Reg} {b : Bank} (hwait : (s.t tk).wait = some (.hover n core m d))
    (hslot : (s.cc (ccOf tk)).slot n = .outgoing b) (hdrained : (s.cc (ccOf tk)).drained n = true) (hn : n < 8) (hm : m < 8)
    (hs : (from_ s tk).stepping = false) (hother : cidOf tk * 2048 + core ≠ ccOf tk ∨ m ≠ n) :
    ∃ t, exec (.hoverTableStep tk) s = .next t ∧ (t.cc (ccOf tk)).slot n = .empty ∧
      (t.cc (cidOf tk * 2048 + core)).slot m = .attached b ∧
      Resumes s t tk (fun x p => x = d ∧ (p = 0 ∨ p ∈ (s.t tk).dual)) ∧ (t.t tk).a.gp 0 d = 0 ∧ sameBytes s t := by
  have hmoves := hovered_moves s (ccOf tk) n (cidOf tk * 2048 + core) m b
  obtain ⟨hempty, hattached⟩ := hovered_slots s b hn hm hother
  have hexec := execHoverTableStep_eq hwait hslot hdrained
  generalize hovered s (ccOf tk) n (cidOf tk * 2048 + core) m b = u at hmoves hempty hattached hexec
  have hstill : (from_ u tk).stepping = false := (hmoves.from_ tk).samePlace.stepping.trans hs
  obtain ⟨hres, hg, hbytes⟩ := finishD_resumes hstill d 0
  have hccs := finishD_ccs hstill d 0
  refine ⟨_, hexec, ?_, ?_, hmoves.tset tk ▸ hmoves.resumes hres, hg.trans (ite_self _),
    fun home pa => (hbytes home pa).trans (hmoves.bytes home pa)⟩
  · rw [cc_congr hccs, hempty]
  · rw [cc_congr hccs, hattached]

/-! ### The events of banks -/

/-- BDET's table step: the slot is empty, its place is being scrubbed, and the BDET completes (08 R161, R170). -/
theorem bdetTableStep_releases {s : State} {tk n : Nat} {b : Bank} (hsys : isSys tk = false) (hwait : (s.t tk).wait = some (.bdet n))
    (hslot : (s.cc (ccOf tk)).slot n = .outgoing b) (hn : n < 8) (hdrained : (s.cc (ccOf tk)).drained n = true)
    (hs : (from_ s tk).stepping = false) :
    ∃ t, exec (.bdetTableStep tk) s = .next t ∧ (t.cc (ccOf tk)).slot n = .empty ∧ Resumes s t tk NoReg ∧ sameBytes s t ∧
      ∀ p, b.phys = some p → p < 32 → (vget (t.cl (clusterOf tk)).phys p Phys.reset).st = 2 ∧
        { due := s.cyc + 1024, ev := .bankScrubDone (clusterOf tk) p } ∈ t.pend := by
  have hmoves := (MovesBanks.refl s).release (ccOf tk) n
  have hstill : (from_ (s.release (ccOf tk) n) tk).stepping = false := (hmoves.from_ tk).samePlace.stepping.trans hs
  obtain ⟨hres, hbytes⟩ := finish_resumes hstill
  obtain ⟨hccs, hclusters, hpend⟩ := finish_rest hstill
  refine ⟨_, execBdetTableStep_eq hwait hslot hdrained, ?_, hmoves.resumes hres,
    fun home pa => (hbytes home pa).trans (hmoves.bytes home pa), fun p hp hlt => ?_⟩
  · rw [cc_congr hccs, release_slot s _ hn]
  · rw [cl_congr hclusters, hpend, ← ccCore_ccOf hsys]
    exact release_scrubs hslot hp hlt

/-- A scrubbed place is free, its generation counted, and the pool's other places are as they were (08 R170). -/
theorem bankScrubDone_frees {s : State} {cl bank : Nat} (hst : (vget (s.cl cl).phys bank Phys.reset).st = 2) :
    ∃ t, exec (.bankScrubDone cl bank) s = .next t ∧ (vget (t.cl cl).phys bank Phys.reset).st = 0 ∧
      (vget (t.cl cl).phys bank Phys.reset).gen = (vget (s.cl cl).phys bank Phys.reset).gen + 1 ∧
      (∀ q, q ≠ bank → vget (t.cl cl).phys q Phys.reset = vget (s.cl cl).phys q Phys.reset) := by
  have hlt : bank < 32 := by
    by_contra h
    rw [vget, dif_neg h] at hst
    exact absurd hst (by decide)
  refine ⟨_, if_pos hst, ?_⟩
  rw [upCl_at_same, vget_vset, if_pos ⟨rfl, hlt⟩]
  exact ⟨rfl, rfl, fun q hq => (vget_vset ..).trans (if_neg fun h => hq h.1.symm)⟩

theorem execBattWake_eq {s : State} {tk n : Nat} {d : Reg} (hwait : (s.t tk).wait = some (.batt n d)) :
    exec (.battWake tk) s = .next (resumed s tk (·.batt d n)) := by
  change execBattWake tk s = _
  simp only [execBattWake, hwait]
  rfl

/-- A stalled BATT that is judged again and finds a place attaches it (08 R160). -/
theorem battWake_attaches {s : State} {tk n p : Nat} {d : Reg} (hn : n < 8) (hwait : (s.t tk).wait = some (.batt n d))
    (h : Attaches (from_ s tk) n p) (hs : (from_ s tk).stepping = false) :
    ∃ t, exec (.battWake tk) s = .next t ∧ (t.cc (ccOf tk)).slot n = .attached (freshBank s tk p) ∧
      Resumes s t tk (fun x q => x = d ∧ (q = 0 ∨ q ∈ (s.t tk).dual)) ∧
      (t.t tk).a.gp 0 d = (if d = 0 then 0 else slotOf s (ccOf tk) p (s.nxm tk)) := by
  have hawake : Attaches (awake s tk) n p := ⟨h.slot, h.quota, h.place⟩
  obtain ⟨hdone, hslot, hg⟩ := batt_attaches hawake d hn ((samePlace_awake s tk).stepping.trans hs)
  obtain ⟨hres, ha, -⟩ := resumed_resumes (f := (·.batt d n)) hdone
  exact ⟨_, execBattWake_eq hwait, hslot, awake_dest s tk d ▸ hres, (congrArg (Arch.gp · 0 d) ha).trans hg⟩

theorem execBwaitWake_eq {s : State} {tk n : Nat} (hwait : (s.t tk).wait = some (.bwait n)) :
    exec (.bwaitWake tk) s = .next (s.finish tk) := by
  change execBwaitWake tk s = _
  simp only [execBwaitWake, hwait]

/-- A refill places the bank in the lowest free place, its contents unchanged (08 R172; log 28). -/
theorem bankRefillDone_places {s : State} {cc n p : Nat} {b : Bank} (hn : n < 8) (hslot : (s.cc cc).slot n = .attached b)
    (hphys : b.phys = none) (hplace : lowestFree (s.cl (ccCore cc / 8)) p) :
    ∃ t, exec (.bankRefillDone cc n) s = .next t ∧ (t.cc cc).slot n = .attached { b with phys := some p } ∧
      (vget (t.cl (ccCore cc / 8)).phys p Phys.reset).st = 1 ∧ sameBytes s t := by
  have hexec : exec (.bankRefillDone cc n) s =
      .next ((s.upBank cc n (fun b => { b with phys := some p })).setPhys (ccCore cc / 8) p 1) := by
    change execBankRefillDone cc n s = _
    simp only [execBankRefillDone, hslot, Slot.bank?, hphys, Option.isSome_none, if_neg Bool.false_ne_true, free_eq_some_iff.2 hplace]
  refine ⟨_, hexec, ?_, setPhys_st _ _ 1 hplace.1, (((MovesBanks.refl s).upBank _ _ _).setPhys _ _ _).bytes⟩
  change ((s.upBank cc n _).cc cc).slot n = _
  rw [upBank_eq, setSlot_slot_same _ _ hn, hslot]
  rfl

end Sys2Proof.Claims

namespace Sys2Proof

open Sys2Proof.Machine Sys2Proof.Claims

/-- Settles O32, instruction by instruction, each outcome by the lemma of the slot's state. -/
theorem bankInstructions : Obligations.BankInstructions := by
  unfold Obligations.BankInstructions
  refine ⟨fun d sl s hsys => ⟨fun p hslot hquota hplace hs => ?attach, fun hslot hquota hfull => ?full, fun hslot hquota => ?quota,
      fun ⟨b, hslot⟩ => ?held, fun hslot => ?reserved⟩,
    fun d sl s hsys hs => ?bqry, fun sl s hsys => ⟨fun ⟨b, hslot⟩ hs => ?bwaitHeld, fun hslot => ?bwaitStalls⟩,
    fun sl s hsys => ⟨fun b => execBdet_stalls hsys, fun b => execBdet_outgoing hsys, execBdet_detached hsys⟩,
    fun d a m sl s hsys => ⟨fun b => execHover_stalls hsys, fun w hs => execHover_status hsys hs⟩,
    fun tk n core m d b s hwait hslot hdrained hn hm hs => hoverTableStep_moves hwait hslot hdrained hn hm hs⟩
  case attach =>
    obtain ⟨hdone, hattached, hg⟩ := batt_attaches ⟨hslot, hquota, hplace⟩ d sl.isLt hs
    exact ⟨_, execBatt_eq hsys d sl, hattached, hg, hdone.pc, hdone.regs, hdone.bytes, fun a => localAt_freshBank hattached⟩
  case full =>
    rw [execBatt_eq hsys, batt_full hslot hquota hfull]
    exact ⟨_, rfl, ((MovesBanks.refl s).makeRoom _).stallsFor _ _⟩
  case quota =>
    rw [execBatt_eq hsys, batt_over_quota hslot hquota]
    rfl
  case held =>
    rw [execBatt_eq hsys, batt_held hslot]
    rfl
  case reserved =>
    rw [execBatt_eq hsys, batt_reserved hslot]
    rfl
  case bqry =>
    obtain ⟨t, hexec, hstep, hg⟩ := execBqry_completes hsys hs d sl
    refine ⟨t, hexec, hstep, fun hslot => ?_, fun b p hslot hp => ?_⟩
    · rw [hg, slotWord_empty hslot, ite_self]
    · rw [hg, slotWord_resident hslot hp]
  case bwaitHeld => exact ⟨_, execBwait_held hsys hslot, retire_regStep hs 4 0⟩
  case bwaitStalls => exact ⟨_, execBwait_unheld hsys hslot, ((MovesBanks.refl s).dropPend _).stalls _⟩

/-- Settles O33, event by event. -/
theorem bankEvents : Obligations.BankEvents := by
  unfold Obligations.BankEvents
  refine ⟨fun tk n b s hsys hwait hslot hn hdrained hs => bdetTableStep_releases hsys hwait hslot hn hdrained hs,
    fun cl bank s hst => bankScrubDone_frees hst,
    fun tk n p d s _ hn hwait hslot hquota hplace hs => battWake_attaches hn hwait ⟨hslot, hquota, hplace⟩ hs,
    fun tk n s hwait hs => ?bwait,
    fun cc n p b s hn hslot hphys hplace => bankRefillDone_places hn hslot hphys hplace⟩
  case bwait => exact ⟨_, execBwaitWake_eq hwait, (finish_resumes hs).1⟩

end Sys2Proof
end

section
/-! # Atomics

An AMO leaves its core as one request and is performed as one write at its home slice. What such a write leaves of every byte is said
once (`PutsNat`), for a request and for a counter (10 R188, R198). -/

namespace Sys2Proof.Claims

open Sys2Proof.Machine

/-! ### A number written at a home -/

/-- `t` is `s` with the number `x` in `n` bytes from `pa` on of one line part at a home, as far as bytes go. -/
def PutsNat (s t : State) (home pa n x : Nat) : Prop :=
  ∀ h a, t.byteAt h a = if h = home ∧ lineKey a = lineKey pa ∧ pa ≤ a ∧ a < pa + n then nth x (a - pa) else s.byteAt h a

theorem memNat_congr {s t : State} {home : Nat} (n : Nat) : ∀ pa, (∀ i, i < n → t.byteAt home (pa + i) = s.byteAt home (pa + i)) →
    memNat t home pa n = memNat s home pa n := by
  induction n with
  | zero => exact fun _ _ => rfl
  | succ n ih =>
    intro pa h
    have hfirst : t.byteAt home pa = s.byteAt home pa := h 0 (Nat.succ_pos n)
    rw [memNat, memNat, hfirst, ih (pa + 1) fun i hi => by rw [Nat.add_right_comm]; exact h (i + 1) (by omega)]

theorem memNat_of_nth {s : State} {home : Nat} (n : Nat) : ∀ pa x, (∀ i, i < n → s.byteAt home (pa + i) = nth x i) →
    memNat s home pa n = x % 256 ^ n := by
  induction n with
  | zero => intro pa x _; rw [Nat.pow_zero, Nat.mod_one]; rfl
  | succ n ih =>
    intro pa x h
    have hrest := ih (pa + 1) (x / 256) fun i hi => by
      rw [Nat.add_right_comm, Nat.add_assoc, h (i + 1) (by omega), nth, nth, Nat.div_div_eq_div_mul,
        show (256 : Nat) = 2 ^ 8 from rfl, ← Nat.pow_add, Nat.mul_add, Nat.mul_one, Nat.add_comm]
    have hfirst : (s.byteAt home pa).toNat = x % 256 := by
      rw [show s.byteAt home pa = nth x 0 from h 0 (Nat.succ_pos n), nth, Nat.mul_zero, Nat.pow_zero, Nat.div_one, BitVec.toNat_ofNat]
    rw [memNat, hfirst, hrest, Nat.pow_succ', Nat.mod_mul]

/-- A word with room for the bytes of a number holds it. -/
theorem toNat_ofNat_memNat {w n : Nat} (s : State) (home pa : Nat) (h : 8 * n ≤ w) :
    (BitVec.ofNat w (memNat s home pa n)).toNat = memNat s home pa n := by
  have hlt : memNat s home pa n < 2 ^ (8 * n) := Nat.pow_mul 2 8 n ▸ memNat_lt s home n pa
  rw [BitVec.toNat_ofNat, Nat.mod_eq_of_lt (Nat.lt_of_lt_of_le hlt (Nat.pow_le_pow_right Nat.two_pos h))]

section

variable {s t u : State} {home pa n x : Nat}

theorem PutsNat.memNat (h : PutsNat s t home pa n x) (hkey : ∀ i, i < n → lineKey (pa + i) = lineKey pa) :
    memNat t home pa n = x % 256 ^ n := by
  refine memNat_of_nth n pa x fun i hi => ?_
  rw [h, if_pos ⟨rfl, hkey i hi, by omega, by omega⟩, Nat.add_sub_cancel_left]

theorem PutsNat.only {r : Req} (h : PutsNat s t r.home r.pa r.len x) : onlyBytes s t r := by
  intro h' a hout
  rw [h, if_neg]
  rintro ⟨h1, h2, h3, h4⟩
  rcases hout with hout | hout | hout | hout
  · exact hout h1
  · exact hout h2
  · omega
  · omega

/-- Steps before and after the write that change no byte. -/
theorem PutsNat.between (h : PutsNat t u home pa n x) (hs : sameBytes s t) {v : State} (hv : sameBytes u v) :
    PutsNat s v home pa n x := fun h' a => by rw [hv, h, hs]

/-- Every byte of a run is selected. -/
theorem getD_replicate_true {n i : Nat} : (List.replicate n true).getD i false = true ↔ i < n := by
  rw [List.getD_eq_getElem?_getD, List.getElem?_replicate]
  split <;> simp [*]

theorem if_run (h a x : Nat) (b : Byte) : (if h = home ∧ lineKey a = lineKey pa ∧ pa ≤ a ∧ a < pa + (natLe x n).length ∧
      (List.replicate n true).getD (a - pa) false = true then (natLe x n).getD (a - pa) 0 else b) =
    if h = home ∧ lineKey a = lineKey pa ∧ pa ≤ a ∧ a < pa + n then nth x (a - pa) else b := by
  by_cases hin : h = home ∧ lineKey a = lineKey pa ∧ pa ≤ a ∧ a < pa + n
  · obtain ⟨h1, h2, h3, h4⟩ := hin
    rw [if_pos ⟨h1, h2, h3, by rw [natLe_length]; exact h4, getD_replicate_true.mpr (by omega)⟩, if_pos ⟨h1, h2, h3, h4⟩,
      natLe_getD _ _ _ (by omega)]
  · rw [if_neg hin, if_neg fun hall => hin ⟨hall.1, hall.2.1, hall.2.2.1, by rw [natLe_length] at hall; exact hall.2.2.2.1⟩]

theorem putsNat_homeWrite (hroom : pa % 192 + n ≤ 192) (w : Nat) :
    PutsNat s (s.homeWrite home pa (List.replicate n true) (natLe x n) w) home pa n x := by
  intro h a
  rw [byteAt_homeWrite (by rw [natLe_length, List.length_replicate]) (by rw [natLe_length]; exact hroom)]
  exact if_run h a x _

theorem putsNat_wrReq {r : Req} (hquiet : noSliceWatch s r.home) (hroom : r.pa % 192 + r.len ≤ 192) :
    PutsNat s (s.wrReq r (List.replicate r.len true) (natLe x r.len)) r.home r.pa r.len x := by
  intro h a
  rw [byteAt_wrReq hquiet (by rw [natLe_length, List.length_replicate]) (by rw [natLe_length]; exact hroom)]
  exact if_run h a x _

end

/-! ### What a read or a write of a line leaves of the machine -/

/-- A slice beside the lines that it caches and what addends have done to them. -/
abbrev besideLines (x : SliceSt) : SliceSt := { x with l2 := [], msc := [], adds := [] }

/-- `t` is `s` but for the lines that slices cache and for replicas. -/
def MovesLines (s t : State) : Prop :=
  ∃ slices reps, t = { s with slices := slices, reps := reps } ∧ ∀ h, besideLines (t.slice h) = besideLines (s.slice h)

theorem MovesLines.refl (s : State) : MovesLines s s := ⟨_, _, rfl, fun _ => rfl⟩

section

variable {s t u : State}

theorem MovesLines.trans (h : MovesLines s t) (k : MovesLines t u) : MovesLines s u := by
  obtain ⟨_, _, rfl, hslices⟩ := h
  obtain ⟨_, _, rfl, kslices⟩ := k
  exact ⟨_, _, rfl, fun h => (kslices h).trans (hslices h)⟩

theorem MovesLines.upSlice (s : State) (k : Nat) {f : SliceSt → SliceSt} (hf : ∀ x, besideLines (f x) = besideLines x) :
    MovesLines s (s.upSlice k f) := by
  refine ⟨_, _, rfl, fun h => ?_⟩
  by_cases hk : h = k
  · subst hk
    rw [upSlice_at_same, hf]
  · rw [upSlice_at_ne s f hk]

theorem MovesLines.fillLine (s : State) (home key : Nat) (k : BitVec 4) : MovesLines s (s.fillLine home key k) := by
  rw [fillLine_eq]
  split
  · exact MovesLines.refl s
  · exact MovesLines.upSlice s home fun _ => rfl

theorem MovesLines.homeRead (s : State) (home pa n : Nat) : MovesLines s (s.homeRead home pa n).2 := MovesLines.fillLine ..

theorem MovesLines.homeWrite (s : State) (home pa : Nat) (on : List Bool) (bs : List Byte) (w : Nat) :
    MovesLines s (s.homeWrite home pa on bs w) := by
  rw [homeWrite_eq]
  exact (MovesLines.fillLine ..).trans (MovesLines.upSlice _ _ fun _ => rfl)

theorem MovesLines.collapse (s : State) (key : Nat) : MovesLines s (s.collapse key) := ⟨_, _, rfl, fun _ => rfl⟩

section

variable (h : MovesLines s t)

include h

theorem MovesLines.ts : t.ts = s.ts := by
  obtain ⟨_, _, rfl, -⟩ := h
  rfl

theorem MovesLines.tset (k : Nat) : t.t k = s.t k := congrArg (fun m => mget m k TSet.reset) h.ts

theorem MovesLines.seq : t.seq = s.seq := by
  obtain ⟨_, _, rfl, -⟩ := h
  rfl

theorem MovesLines.cyc : t.cyc = s.cyc := by
  obtain ⟨_, _, rfl, -⟩ := h
  rfl

theorem MovesLines.waiters (k : Nat) : (t.slice k).wait = (s.slice k).wait := by
  obtain ⟨_, _, -, hslices⟩ := h
  have hwait := congrArg SliceSt.wait (hslices k)
  exact hwait

theorem MovesLines.noSliceWatch {home : Nat} (hquiet : noSliceWatch s home) : noSliceWatch t home := by
  obtain ⟨_, _, -, hslices⟩ := h
  have hswctl := congrArg SliceSt.swctl (hslices home)
  exact fun w hw => (congrArg (fun v => (vget v w 0).getLsbD 0) hswctl).trans (hquiet w hw)

end

end

/-! ### An AMO leaves the core (10 R188) -/

/-- An instruction made its accesses and completes. -/
theorem Issues.doneD {d : Reg} {P : Nat → Prop} {s u : State} (h : Issues d P s u) (hs : s.stepping = false) :
    Accesses d P s (u.doneD 4) ∧ ∀ e, Sent (u.doneD 4) e ↔ Sent u e := by
  have hus : u.stepping = false := h.place.stepping.trans hs
  have hstep := retire_regStep hus 4 u.me.dual.length
  exact ⟨⟨hstep.pc.trans (h.place.nextPc 4), fun home pa => (hstep.rest.bytes home pa).trans (h.bytes home pa),
    ArchKeeps.trans h.regs.keeps (ArchKeeps.mono hstep.regs (fun _ _ hf => hf.elim) (fun _ _ hf => hf)),
    TSetKeeps.trans h.tset hstep.tset⟩, retire_sent hus 4 u.me.dual.length⟩

/-- The destination waits for a reply, and zero stands in the planes of g[d] that are acted on (10 R203). -/
def awaiting (s : State) (d : Reg) (dst : Dst) : State := s.upMe (fun t => { t with a := t.a.zeroPlanes t.dual d }.await dst)

theorem awaiting_issues (s : State) (d : Reg) (dst : Dst) : Issues d (· ∈ s.me.dual) s (awaiting s d dst) :=
  Issues.renewed s (a := s.me.a.zeroPlanes s.me.dual d) (b := dstBusy dst) (l := (dstBusy dst).map (fun b => (b.cls, b.r)))
    (e := s.me.evts) rfl (OnlyG.foldl (fun p hp a => (OnlyG.setG a d (dual_le_two _ p hp) 0).mono fun _ hq => hq ▸ hp) _)

theorem Issues.dual {d : Reg} {P : Nat → Prop} {s t : State} (h : Issues d P s t) : t.me.dual = s.me.dual := by
  obtain ⟨g, g1, g2, v, v1, v2, m, fm, sr, hb⟩ := h.regs.banks
  unfold TSet.dual TSet.dact TSet.dpln TSet.priv
  rw [hb]

/-- The request of an AMO as it leaves the core. -/
def amoReq (s : State) (op n : Nat) (d b : Reg) (o : BitVec 2) (sc : BitVec 3) (h : Hit) : Req :=
  let r : Req := { s.req s.cur (.amo op) h.ea h.pa h.home h.pte n with
    data := (s.g b).setWidth 512, cmp := s.g d, dst := if d = 0 then .none else .g d 0 2, acq := o.getLsbD 0 }
  let r := if o.getLsbD 1 then asRel r sc.toNat else r
  { r with dst := match r.dst with | .g x p _ => .g x p (if n = 4 then 2 else 3) | x => x }

/-- The machine once an AMO's release has been begun. -/
def amoReleased (s : State) (o : BitVec 2) (sc : BitVec 3) : State := if o.getLsbD 1 then s.relStep s.cur sc.toNat else s

/-- The machine as the request of an AMO leaves its core. -/
def amoSent (s : State) (op n : Nat) (d b : Reg) (o : BitVec 2) (sc : BitVec 3) (h : Hit) : State :=
  (awaiting (amoReleased s o sc) d (amoReq s op n d b o sc h).dst).push (.amoSliceApply (amoReq s op n d b o sc h))

theorem amo_passes {op : Nat} {d a b : Reg} {w : BitVec 1} {o : BitVec 2} {sc : BitVec 3} {s s1 : State} {h : Hit}
    (hpass : Passes s (rmwChecks (if w = 0 then 4 else 8)) [s.g a] (if w = 0 then 4 else 8) true true [h] s1) :
    amo op d a b w o sc s = .next ((amoSent s1 op (if w = 0 then 4 else 8) d b o sc h).doneD 4) :=
  (planned_passes hpass _).trans (watched_passes hpass _)

theorem exec_of_amoCode {i : Instr} {op : Nat} {d a b : Reg} {w : BitVec 1} {o : BitVec 2} {sc : BitVec 3}
    (h : amoCode i = some (op, d, a, b, w, o, sc)) (s : State) : exec i s = amo op d a b w o sc s := by
  unfold amoCode at h
  split at h <;> cases h <;> rfl

/-- The request of an AMO carries its operands. -/
structure AmoReq (s : State) (op n : Nat) (d b : Reg) (o : BitVec 2) (h : Hit) (r : Req) : Prop where
  who : r.who = s.cur
  kind : r.kind = .amo op
  pa : r.pa = h.pa
  home : r.home = h.home
  len : r.len = n
  data : r.data.toNat = (s.g b).toNat
  cmp : r.cmp = s.g d
  acq : r.acq = o.getLsbD 0
  rel : r.rel = o.getLsbD 1
  dst : r.dst = if d = 0 then .none else .g d 0 (if n = 4 then 2 else 3)

theorem amoReq_spec (s : State) (op n : Nat) (d b : Reg) (o : BitVec 2) (sc : BitVec 3) (h : Hit) :
    AmoReq s op n d b o h (amoReq s op n d b o sc h) := by
  have hdata : ((s.g b).setWidth 512).toNat = (s.g b).toNat := BitVec.toNat_setWidth_of_le (by decide)
  unfold amoReq
  by_cases hd : d = 0
  · simp only [hd, if_true]
    cases hrel : o.getLsbD 1 <;> exact ⟨rfl, rfl, rfl, rfl, rfl, hdata, rfl, rfl, hrel.symm, rfl⟩
  · simp only [hd, if_false]
    cases hrel : o.getLsbD 1 <;> exact ⟨rfl, rfl, rfl, rfl, rfl, hdata, rfl, rfl, hrel.symm, (if_neg hd).symm⟩

theorem amo_issues (s : State) (op n : Nat) (d b : Reg) (o : BitVec 2) (sc : BitVec 3) (h : Hit) :
    Issues d (· ∈ s.me.dual) s (amoSent s op n d b o sc h) := by
  have hrel : Issues d (fun _ => False) s (amoReleased s o sc) := by
    unfold amoReleased
    split
    · exact Issues.relStep ..
    · exact Issues.refl ..
  exact ((hrel.mono fun _ hf => hf.elim).trans (hrel.dual ▸ awaiting_issues _ d _)).trans (Issues.push _ _)

/-! ### An AMO is performed (10 R188) -/

/-- An AMO writes the claimed value, or nothing where that is the old one. -/
theorem amoNew_cases (op w old src cmp : Nat) : amoNew op w old src cmp = some (amoValue op w old src cmp) ∨
    amoNew op w old src cmp = none ∧ amoValue op w old src cmp = old := by
  match op with
  | 0 | 1 | 2 | 3 | 4 | 5 | 6 | 7 | 8 => exact .inl rfl
  | op + 9 =>
    change (if old = cmp then some src else none) = some (if old = cmp then src else old) ∨
      (if old = cmp then some src else none) = none ∧ (if old = cmp then src else old) = old
    split
    · exact .inl rfl
    · exact .inr ⟨rfl, rfl⟩

theorem amoValue_lt {w old src : Nat} (op cmp : Nat) (hold : old < 2 ^ w) (hsrc : src < 2 ^ w) : amoValue op w old src cmp < 2 ^ w := by
  unfold amoValue
  split
  · exact hsrc
  · exact Nat.mod_lt _ (Nat.two_pow_pos w)
  · exact Nat.lt_of_le_of_lt Nat.and_le_left hold
  · exact Nat.or_lt_two_pow hold hsrc
  · exact Nat.xor_lt_two_pow hold hsrc
  · split <;> assumption
  · split <;> assumption
  · exact Nat.lt_of_le_of_lt (Nat.min_le_left ..) hold
  · exact Nat.max_lt.mpr ⟨hold, hsrc⟩
  · split <;> assumption

section

variable {s : State} {r : Req} {op : Nat}

/-- The machine of an AMO once its new value has been written, where there is one. -/
def amoWritten (s : State) (r : Req) (new : Option Nat) : State :=
  match new with
  | some x => s.wrReq r (List.replicate r.len true) (natLe x r.len)
  | none => s.collapse (lineKey r.pa)

theorem perform_amo (hkind : r.kind = .amo op) : s.perform r = (s.sysHeal r).amoAt r op := by
  rw [State.perform, hkind]

theorem exec_amoSliceApply (hkind : r.kind = .amo op) (hheld : unheld s r) (hreps : s.repDies (lineKey r.pa) = [])
    (hquiet : noSliceWatch s r.home) (hline : oneLine r) :
    exec (.amoSliceApply r) s = .next ((amoWritten (s.homeRead r.home r.pa r.len).2 r
      (amoNew op (8 * r.len) (memNat s r.home r.pa r.len) (r.data.toNat % 2 ^ (8 * r.len)) (r.cmp.toNat % 2 ^ (8 * r.len)))).push
      (.amoReply { r with data := BitVec.ofNat 512 (memNat s r.home r.pa r.len) })) := by
  change Host.Outcome.next (s.afterCollapse r) = _
  rw [State.afterCollapse, if_pos hreps, perform_amo hkind, sysHeal_unheld hheld, State.amoAt]
  rw [noteReq_quiet hquiet, ← leNat_homeRead hline.1 hline.2, ← wbits_zero, ← wbits_zero]
  rfl

/-- An AMO leaves its value in its bytes, and every other byte. -/
theorem amoWritten_puts (hquiet : noSliceWatch s r.home) (hline : oneLine r) {src cmp : Nat} (hsrc : src < 2 ^ (8 * r.len)) :
    let old := memNat s r.home r.pa r.len
    let t := amoWritten (s.homeRead r.home r.pa r.len).2 r (amoNew op (8 * r.len) old src cmp)
    memNat t r.home r.pa r.len = amoValue op (8 * r.len) old src cmp ∧ onlyBytes s t r := by
  intro old t
  have hread : sameBytes s (s.homeRead r.home r.pa r.len).2 := sameBytes_fillLine _ _ _ _
  rcases amoNew_cases op (8 * r.len) old src cmp with hnew | ⟨hnew, hsame⟩
  · have hputs : PutsNat s t r.home r.pa r.len (amoValue op (8 * r.len) old src cmp) := by
      unfold t
      rw [hnew]
      exact (putsNat_wrReq ((MovesLines.homeRead ..).noSliceWatch hquiet) hline.1).between hread fun _ _ => rfl
    have hpow : 256 ^ r.len = 2 ^ (8 * r.len) := by rw [Nat.pow_mul]
    refine ⟨(hputs.memNat hline.2).trans (Nat.mod_eq_of_lt ?_), hputs.only⟩
    rw [hpow]
    exact amoValue_lt op cmp (hpow ▸ memNat_lt ..) hsrc
  · have hkept : sameBytes s t := by
      unfold t
      rw [hnew]
      exact fun home pa => (byteAt_congr rfl rfl home pa).trans (hread home pa)
    exact ⟨(memNat_congr _ _ fun i _ => hkept _ _).trans hsame.symm, fun home pa _ => hkept home pa⟩

end

/-- AMO_REPLY changes one thread set, whose bytes land (10 R188). -/
theorem exec_amoReply (r : Req) (s : State) :
    ∃ t, exec (.amoReply r) s = .next t ∧ (t.t r.who).a = (s.t r.who).a.land r.dst r.len r.data ∧ sameBytes s t := by
  obtain ⟨ha, -⟩ := landedTs_fields r (s.t r.who)
  have hland : ((s.landed r).t r.who).a = (s.t r.who).a.land r.dst r.len r.data := by
    rw [show s.landed r = s.upT r.who (landedTs r) from rfl, upT_at_same, ha]
  refine ⟨if r.acq then (s.landed r).acquire r.who else s.landed r, rfl, ?_, ?_⟩
  · split
    · rw [State.acquire, upT_at_same]
      exact hland
    · exact hland
  · split <;> exact fun home pa => byteAt_congr rfl rfl home pa

end Sys2Proof.Claims

namespace Sys2Proof

open Sys2Proof.Machine Sys2Proof.Claims

/-- Settles O16: the request is `amoReq`, the slice's write one number put at its home, and the reply one register plane. -/
theorem atomicsReadModifyWrite : Obligations.AtomicsReadModifyWrite := by
  unfold Obligations.AtomicsReadModifyWrite
  refine ⟨?leaves, ?performed, ?reply⟩
  case leaves =>
    intro i s s1 op d a b w o sc h hcode n hpass
    have hexec := (exec_of_amoCode hcode s).trans (amo_passes hpass)
    obtain ⟨-, -, hstep, hcur, harch⟩ := hpass
    have hg (x : Reg) : s1.g x = s.g x := congrArg (Arch.gp · 0 x) harch
    obtain ⟨hdone, hsent⟩ := (amo_issues s1 op n d b o sc h).doneD hstep
    have hr := amoReq_spec s1 op n d b o sc h
    have hwidth : n = 4 ↔ w = 0 := by
      by_cases hw : w = 0
      · exact iff_of_true (if_pos hw) hw
      · exact iff_of_false (by unfold n; rw [if_neg hw]; decide) hw
    refine ⟨_, _, hexec, hdone.pc, hdone.regs, hdone.bytes, (hsent _).mpr ⟨_, pushAt_sent ..⟩, hr.who.trans hcur, hr.kind, hr.pa,
      hr.home, hr.len, hr.data.trans (by rw [hg]), hr.cmp.trans (hg d), hr.acq, hr.rel, hr.dst.trans ?_⟩
    simp only [hwidth]
  case performed =>
    intro r s op hkind hlen hline hheld hreps hquiet old w
    obtain ⟨hvalue, honly⟩ := amoWritten_puts (op := op) (src := r.data.toNat % 2 ^ w) (cmp := r.cmp.toNat % 2 ^ w) hquiet hline
      (Nat.mod_lt _ (Nat.two_pow_pos _))
    have hbytes (u : State) (e : Ev) : sameBytes u (u.push e) := fun home pa => byteAt_congr rfl rfl home pa
    refine ⟨_, _, exec_amoSliceApply hkind hheld hreps hquiet hline, ⟨_, pushAt_sent ..⟩, rfl, rfl, rfl, ?_, ?_, ?_⟩
    · exact toNat_ofNat_memNat s r.home r.pa (by omega)
    · exact (memNat_congr _ _ fun i _ => hbytes _ _ _ _).trans hvalue
    · exact fun home pa hout => (hbytes _ _ home pa).trans (honly home pa hout)
  case reply =>
    intro r s d z hdst
    obtain ⟨t, hexec, ha, hbytes⟩ := exec_amoReply r s
    rw [hdst] at ha
    have hregs : OnlyG d (· = 0) (s.t r.who).a (t.t r.who).a := ha ▸ OnlyG.setG _ d (Nat.zero_le 2) _
    exact ⟨t, hexec, ha ▸ land_gp _ d (Nat.zero_le 2) z _ _, fun x hx => hregs.g x 0 (Nat.zero_le 2) fun h => hx h.1, hbytes⟩

end Sys2Proof
end

section
/-! # The residual tile

Refused addends wait in the tile of their core and leave it by forced message (10 R193-R195). Every way out is a walk over the tile's
places, `sendRes`; what it does to one place is said once (`sendRes_entry`), and its users name the entries that it takes. -/

namespace Sys2Proof.Claims

open Sys2Proof.Machine

/-! ### Entries that leave -/

/-- An entry of a core's tile as a forced message. -/
abbrev forcedOf (s : State) (core : Nat) (e : Res) : Ev :=
  .forcedMessageApply { e.r with chans := s.ownChans core e.r.cid e.r.own, drain := true }

/-- The place `i` of a core's tile. -/
abbrev place (s : State) (core i : Nat) : Option Res := vget (s.core core).tile i none

/-- The owners of an entry that has left count the event. -/
def countForced (s : State) (core : Nat) (e : Res) : State :=
  (span 0 4).foldl (fun s k => if e.r.own.getLsbD k then s.evt (tkOf e.r.cid (core * 4 + k)) 0x0E else s) s

/-- The entry of place `i` is on its way. -/
def freePlace (s : State) (core i : Nat) (e : Res) : State :=
  ((s.upCore core (fun c => { c with tile := vset c.tile i none })).upCC (e.r.cid * 2048 + core)
    (fun c => { c with forced := c.forced + 1 })).push (forcedOf s core e)

/-- The entry of place `i` leaves. -/
def sendEntry (s : State) (core i : Nat) (e : Res) : State := countForced (freePlace s core i e) core e

/-- One place of the walk: its entry leaves where it passes the test. -/
def sendPlace (core : Nat) (p : Res → Bool) (s : State) (i : Nat) : State :=
  match place s core i with
  | none => s
  | some e => if p e then sendEntry s core i e else s

theorem sendRes_eq_foldl (s : State) (core : Nat) (p : Res → Bool) : s.sendRes core p = (span 0 32).foldl (sendPlace core p) s := rfl

theorem countForced_rest (s : State) (core : Nat) (e : Res) :
    (countForced s core e).cores = s.cores ∧ (countForced s core e).chans = s.chans ∧ (countForced s core e).pend = s.pend := by
  refine List.foldlRecOn (motive := fun u : State => u.cores = s.cores ∧ u.chans = s.chans ∧ u.pend = s.pend) _ _ ⟨rfl, rfl, rfl⟩
    fun u hu k _ => ?_
  split <;> exact hu

section

variable {s : State} {core i j : Nat} {e : Res} {p : Res → Bool}

theorem place_sendEntry : place (sendEntry s core i e) core j = if i = j ∧ j < 32 then none else place s core j := by
  obtain ⟨hcores, -, -⟩ := countForced_rest (freePlace s core i e) core e
  have hcore : (sendEntry s core i e).core core = (s.upCore core (fun c => { c with tile := vset c.tile i none })).core core :=
    congrArg (fun m => mget m core CoreSt.reset) hcores
  rw [place, hcore, upCore_at_same, vget_vset]

theorem sendEntry_pend : (sendEntry s core i e).pend = (freePlace s core i e).pend := by
  obtain ⟨-, -, hpend⟩ := countForced_rest (freePlace s core i e) core e
  exact hpend

theorem sendEntry_sent : Sent (sendEntry s core i e) (forcedOf s core e) :=
  ⟨s.cyc, sendEntry_pend ▸ pushAt_sent ..⟩

theorem place_sendPlace_ne (h : i ≠ j) : place (sendPlace core p s i) core j = place s core j := by
  unfold sendPlace
  split
  · rfl
  · split
    · rw [place_sendEntry, if_neg fun hij => h hij.1]
    · rfl

theorem sendPlace_chans : (sendPlace core p s i).chans = s.chans := by
  unfold sendPlace
  split
  · rfl
  · split
    · obtain ⟨-, hchans, -⟩ := countForced_rest (freePlace s core i _) core _
      exact hchans
    · rfl

theorem ownChans_congr {s t : State} (h : t.chans = s.chans) (core cid : Nat) (own : BitVec 4) :
    t.ownChans core cid own = s.ownChans core cid own := by
  unfold State.ownChans State.preChans
  rw [h]

/-- Messages stay on their way while entries leave. -/
theorem sent_sendPlace {ev : Ev} (h : Sent s ev) : Sent (sendPlace core p s i) ev := by
  unfold sendPlace
  split
  · exact h
  · split
    · rename_i e _ _
      obtain ⟨due, hmem⟩ := h
      exact ⟨due, sendEntry_pend ▸ mem_insAt_of_mem _ _ _ hmem⟩
    · exact h

theorem sendPlaces_keep (l : List Nat) (hj : j ∉ l) : ∀ s, place (l.foldl (sendPlace core p) s) core j = place s core j := by
  induction l with
  | nil => exact fun _ => rfl
  | cons i l ih =>
    intro s
    obtain ⟨hi, hl⟩ := not_or.mp (mt List.mem_cons.mpr hj)
    exact (ih hl _).trans (place_sendPlace_ne (Ne.symm hi))

theorem sent_sendPlaces {ev : Ev} (l : List Nat) (h : Sent s ev) :
    Sent (l.foldl (sendPlace core p) s) ev :=
  List.foldlRecOn (motive := (Sent · ev)) _ _ h fun _ hu _ _ => sent_sendPlace hu

end

/-- What the walk over a list of places makes of an entry at one of them. -/
theorem sendPlaces_entry {core i : Nat} {e : Res} {p : Res → Bool} (hi : i < 32) (l : List Nat) : ∀ s, l.Nodup → i ∈ l →
    place s core i = some e →
    if p e then place (l.foldl (sendPlace core p) s) core i = none ∧ Sent (l.foldl (sendPlace core p) s) (forcedOf s core e)
    else place (l.foldl (sendPlace core p) s) core i = some e := by
  induction l with
  | nil => exact fun _ _ h => absurd h List.not_mem_nil
  | cons j l ih =>
    intro s hnodup hmem hplace
    obtain ⟨hj, hl⟩ := List.nodup_cons.mp hnodup
    rw [List.foldl_cons]
    by_cases hij : i = j
    · subst hij
      rw [sendPlaces_keep l hj]
      have hstep : sendPlace core p s i = if p e then sendEntry s core i e else s := by
        rw [sendPlace, hplace]
      rw [hstep]
      split
      · exact ⟨by rw [place_sendEntry, if_pos ⟨rfl, hi⟩], sent_sendPlaces l sendEntry_sent⟩
      · exact hplace
    · have hforced : forcedOf (sendPlace core p s j) core e = forcedOf s core e := by
        rw [forcedOf, ownChans_congr sendPlace_chans]
      rw [← hforced]
      exact ih _ hl ((List.mem_cons.mp hmem).resolve_left hij) ((place_sendPlace_ne (Ne.symm hij)).trans hplace)

/-- An entry that passes the test leaves its place by forced message, any other stays (10 R194). -/
theorem sendRes_entry {s : State} {core i : Nat} {e : Res} (p : Res → Bool) (hi : i < 32) (hplace : place s core i = some e) :
    if p e then place (s.sendRes core p) core i = none ∧ Sent (s.sendRes core p) (forcedOf s core e)
    else place (s.sendRes core p) core i = some e := by
  rw [sendRes_eq_foldl, span_zero_eq_range]
  exact sendPlaces_entry hi _ s List.nodup_range (List.mem_range.mpr hi) hplace

/-- The residual entries of a thread set leave (10 R186 step 1). -/
theorem sendOwn_entry {s : State} {tk i : Nat} {e : Res} (hi : i < 32) (hplace : place s (coreOf tk) i = some e)
    (hown : e.r.own.getLsbD (tsOf tk) = true) (hcid : e.r.cid = cidOf tk) :
    place (s.sendOwn tk) (coreOf tk) i = none ∧ Sent (s.sendOwn tk) (forcedOf s (coreOf tk) e) := by
  have h := sendRes_entry (fun e => e.r.own.getLsbD (tsOf tk) && e.r.cid == cidOf tk) hi hplace
  rwa [hown, hcid, beq_self_eq_true, Bool.and_self, if_pos rfl] at h

/-! ### A refused addend (10 R193) -/

/-- A refused addend with its issuer among the owners. -/
abbrev refusedReq (r : Req) : Req := { r with own := r.own ||| BitVec.ofNat 4 (2 ^ tsOf r.who) }

/-- The refusal counted. -/
def countRefused (s : State) (r : Req) : State :=
  (s.upCC (r.cid * 2048 + coreOf r.who) (fun c => { c with refused := c.refused + 1 })).evt r.who 0x0D

theorem relWaits_countRefused (s : State) (r : Req) (tk : Nat) : (countRefused s r).relWaits tk = s.relWaits tk := by
  have hwait : ((countRefused s r).t tk).wait = (s.t tk).wait := by
    unfold countRefused State.evt
    by_cases htk : tk = r.who
    · subst htk
      rw [upT_at_same]
      rfl
    · rw [upT_at_ne _ _ htk]
      rfl
  unfold State.relWaits
  rw [hwait]
  rfl

theorem newRes_free {s : State} {core i : Nat} (h : (span 0 32).find? (fun i => (place s core i).isNone) = some i) (r : Req) :
    s.newRes core r = s.upCore core (fun c => { c with tile := vset c.tile i (some { r := r, born := s.cyc }) }) := by
  unfold State.newRes
  simp only [h]

/-- A refused addend that no release waits for and no entry matches takes an entry of its own. -/
theorem exec_refusalReturn_new {r : Req} {s : State} (hact : (s.core (coreOf r.who)).act = some r.cid) (hending : s.ending r.cid = false)
    (hmatch : s.tileMatch (coreOf r.who) (refusedReq r) = none)
    (hrel : ∀ k, k < 4 → s.relWaits (tkOf r.cid (coreOf r.who * 4 + k)) = false) :
    exec (.refusalReturn r) s = .next ((countRefused s r).newRes (coreOf r.who) (refusedReq r)) := by
  have hnone : (span 0 4).any (fun k => (refusedReq r).own.getLsbD k &&
      (countRefused s r).relWaits (tkOf r.cid (coreOf r.who * 4 + k))) = false := by
    refine List.any_eq_false.mpr fun k hk => ?_
    rw [relWaits_countRefused, hrel k (by have := mem_span _ _ _ hk; omega), Bool.and_false]
    exact Bool.false_ne_true
  have hactive : ((s.core (coreOf r.who)).act != some r.cid) = false := by rw [hact, bne_self_eq_false]
  have hending' : (countRefused s r).ending r.cid = false := hending
  refine (if_neg (hending'.symm ▸ Bool.false_ne_true)).trans ((if_neg ?_).trans ?_)
  · rw [Bool.or_eq_true, not_or]
    exact ⟨hnone.symm ▸ Bool.false_ne_true, fun h => Bool.false_ne_true (hactive.symm.trans h)⟩
  · split
    · rename_i i hi
      exact absurd (hmatch.symm.trans hi) (Option.some_ne_none i).symm
    · rfl

theorem exec_refusalReturn_ending {r : Req} {s : State} (h : s.ending r.cid = true) :
    exec (.refusalReturn r) s = .next (countRefused s r) := if_pos h

/-! ### Windows and queues (10 R191, R192) -/

theorem mget_map_val {α : Type} (f : α → α) {d : α} (hd : f d = d) (m : AMap α) (k : Nat) :
    mget (m.map (fun x => (x.1, f x.2))) k d = f (mget m k d) := by
  induction m with
  | nil => exact hd.symm
  | cons x m ih =>
    obtain ⟨j, v⟩ := x
    rw [List.map_cons, mget, mget, ih]
    split
    · rfl
    · split
      · exact hd.symm
      · rfl

/-- The machine at the start of a quota window. -/
def windowStart (s : State) : State := { s with slices := s.slices.map (fun x => (x.1, { x.2 with cnt := [] })) }

theorem windowStart_slice (s : State) (h : Nat) : (windowStart s).slice h = { s.slice h with cnt := [] } :=
  mget_map_val (fun x : SliceSt => { x with cnt := [] }) rfl s.slices h

theorem sameBytes_windowStart (s : State) : sameBytes s (windowStart s) := by
  intro home pa
  unfold State.byteAt
  rw [lineVal_of_levels (s := s) (t := windowStart s) rfl]
  rw [windowStart_slice]

end Sys2Proof.Claims

namespace Sys2Proof

open Sys2Proof.Machine Sys2Proof.Claims

/-- Settles O18: a new entry by the first free place, an old one by `sendRes_entry`. -/
theorem residualTile : Obligations.ResidualTile := by
  unfold Obligations.ResidualTile
  refine ⟨fun r s hact hending hmatch hrel hfree => ?refused, fun r s hending => ⟨_, exec_refusalReturn_ending hending, rfl, rfl⟩,
    fun core s => ?aged, fun s => ⟨windowStart s, rfl, fun h => ?cleared, fun h => ?queued, sameBytes_windowStart s⟩,
    fun h s => ?drained⟩
  case refused =>
    obtain ⟨j, hj, hplace⟩ := hfree
    have hsome : ((span 0 32).find? (fun i => (place (countRefused s r) (coreOf r.who) i).isNone)).isSome = true :=
      List.find?_isSome.mpr ⟨j, by rw [span_zero_eq_range]; exact List.mem_range.mpr hj,
        Option.isNone_iff_eq_none.mpr hplace⟩
    obtain ⟨i, hi⟩ := Option.isSome_iff_exists.mp hsome
    have hi32 : i < 32 := by have := mem_span _ _ _ (List.mem_of_find?_eq_some hi); omega
    have hfound := List.find?_some hi
    have hnone : place s (coreOf r.who) i = none := Option.isNone_iff_eq_none.mp hfound
    have hexec := exec_refusalReturn_new hact hending hmatch hrel
    rw [newRes_free hi] at hexec
    refine ⟨_, i, { r := refusedReq r, born := s.cyc }, hexec, hi32, hnone, ?_, rfl, rfl, rfl, ?_⟩
    · rw [upCore_at_same]
      exact vget_vset_same _ _ _ hi32
    · have hcount := upCC_at_same s (r.cid * 2048 + coreOf r.who) (fun c => { c with refused := c.refused + 1 })
      exact congrArg CC.refused hcount
  case aged =>
    refine ⟨_, rfl, fun i e hi hplace => ?_⟩
    have hentry := sendRes_entry (fun e => decide (e.born + 4096 ≤ s.cyc)) hi hplace
    constructor
    · intro hold
      rwa [if_pos (decide_eq_true hold)] at hentry
    · intro hyoung
      rwa [if_neg (by rw [decide_eq_true_iff]; omega)] at hentry
  case cleared => rw [windowStart_slice]
  case queued => rw [windowStart_slice]
  case drained =>
    refine ⟨_, rfl, ?_, sameBytes_upSlice s h fun x => ?_⟩
    · rw [upSlice_at_same]
    · rfl

end Sys2Proof
end

section
/-! # FENCE and RFLUSH

Both stall behind what the thread set has sent, and RELEASE_PERFORMED completes them (10 R186, R187, R195). -/

namespace Sys2Proof.Claims

open Sys2Proof.Machine

theorem place_stalled (u : State) (w : Wait) (e : Ev) (core i : Nat) : place ((u.startWait w).push e) core i = place u core i := rfl

theorem sent_stalled {u : State} {f : Ev} (w : Wait) (e : Ev) (h : Sent u f) : Sent ((u.startWait w).push e) f := by
  obtain ⟨due, hsent⟩ := h
  exact ⟨due, mem_insAt_of_mem _ _ _ hsent⟩

/-- The entries of a thread set that a stalled release has sent. -/
theorem stalled_sendOwn {s : State} (w : Wait) {i : Nat} {e : Res} (hi : i < 32) (hplace : place s (coreOf s.cur) i = some e)
    (hown : e.r.own.getLsbD (tsOf s.cur) = true) (hcid : e.r.cid = cidOf s.cur) :
    place (((s.sendOwn s.cur).startWait w).push (.releasePerformed s.cur)) (coreOf s.cur) i = none ∧
      Sent (((s.sendOwn s.cur).startWait w).push (.releasePerformed s.cur)) (forcedOf s (coreOf s.cur) e) := by
  obtain ⟨hgone, hsent⟩ := sendOwn_entry hi hplace hown hcid
  exact ⟨(place_stalled ..).trans hgone, sent_stalled _ _ hsent⟩

theorem inFlight_false {s : State} {p : Ev → Bool} (h : ∀ x ∈ s.pend, p x.ev = false) : s.inFlight p = false :=
  List.any_eq_false.mpr fun x hx => by rw [h x hx]; exact Bool.false_ne_true

/-- A forced message of a thread set is among what its releases wait for. -/
theorem isForced_of_waitsFor {tk : Nat} {e : Ev} (h : waitsFor tk e = false) : isForced tk e = false := by
  unfold isForced
  split
  · exact h
  · rw [show owes tk _ = false from h, Bool.and_false]
  · rfl

/-- A quiet thread set's FENCE or RFLUSH has nothing left to wait for. -/
theorem relReady_of_quiet {s : State} {tk k : Nat} {wide : Bool}
    (hwait : (s.t tk).wait = some (.fence k wide) ∨ (s.t tk).wait = some .rflush) (hquiet : quietTs s tk) : s.relReady tk = true := by
  have hloads : s.inFlight (isLoad tk) = false := inFlight_false fun x hx => (hquiet x hx).2
  have hforced : s.inFlight (isForced tk) = false := inFlight_false fun x hx => isForced_of_waitsFor (hquiet x hx).1
  have hwaits : s.inFlight (fun e => waitsFor tk e && (wide || !isForced tk e)) = false :=
    inFlight_false fun x hx => by rw [(hquiet x hx).1, Bool.false_and]
  unfold State.relReady
  rcases hwait with h | h <;> rw [h]
  · unfold State.relDone
    dsimp only
    rw [hloads, hwaits]
    split <;> split <;> rfl
  · unfold State.relDone
    dsimp only
    rw [hforced]
    rfl

theorem retire_seq {s : State} (hs : s.stepping = false) (len extra : Nat) : (s.retire len extra).seq = s.seq := by
  obtain ⟨st, lc, lstat, q, ev, pa, hret, -⟩ := retireW_spec s len extra countWindow true hs
  rw [State.retire, hret]
  rfl

theorem finish_seq {s : State} {tk : Nat} (hs : (from_ s tk).stepping = false) : (s.finish tk).seq = s.seq :=
  retire_seq ((samePlace_awake s tk).stepping.trans hs) 4 0

theorem finishD_seq {s : State} {tk : Nat} (hs : (from_ s tk).stepping = false) (d : Reg) (w : Word) :
    (s.finishD tk d w).seq = s.seq := by
  have hstill : (awake s tk).stepping = false := (samePlace_awake s tk).stepping.trans hs
  obtain ⟨k, hput⟩ := putInt_upRegs (awake s tk) d w 1
  rw [if_pos rfl] at hput
  have hdone : (((awake s tk).putInt d w).doneD 4).seq = s.seq := by
    rw [hput]
    exact retire_seq ((samePlace_putInt _ d w k).stepping.trans hstill) 4 _
  exact hdone

/-- An acquire begins an epoch and leaves the rest of its thread set. -/
theorem acquire_tset (s : State) (tk : Nat) : (s.acquire tk).t tk = { s.t tk with epoch := s.seq + 1 } := upT_at_same ..

theorem Resumes.acquire {s t : State} {tk : Nat} {G : Reg → Nat → Prop} (h : Resumes s t tk G) : Resumes s (t.acquire tk) tk G := by
  unfold Resumes at h ⊢
  rw [acquire_tset]
  exact h

theorem sameBytes_acquire (s : State) (tk : Nat) : sameBytes s (s.acquire tk) := fun home pa => byteAt_congr rfl rfl home pa

section

variable {s : State} {tk k : Nat} {wide : Bool}

theorem exec_releasePerformed_fence (hwait : (s.t tk).wait = some (.fence k wide)) (hready : s.relReady tk = true) :
    exec (.releasePerformed tk) s = .next (if k = 1 then s.finish tk else (s.finish tk).acquire tk) := by
  change execReleasePerformed tk s = _
  unfold execReleasePerformed
  simp only [hwait, hready, Bool.not_true, Bool.false_eq_true, if_false]

theorem exec_releasePerformed_rflush (hwait : (s.t tk).wait = some .rflush) (hready : s.relReady tk = true) :
    exec (.releasePerformed tk) s = .next (s.finish tk) := by
  change execReleasePerformed tk s = _
  unfold execReleasePerformed
  simp only [hwait, hready, Bool.not_true, Bool.false_eq_true, if_false]

theorem exec_releasePerformed_unready {w : Wait} (hwait : (s.t tk).wait = some w) (hready : s.relReady tk = false) :
    exec (.releasePerformed tk) s = .next (s.pushAt (s.cyc + 1) (.releasePerformed tk)) := by
  change execReleasePerformed tk s = _
  unfold execReleasePerformed
  simp only [hwait, hready, Bool.not_false, if_true]

end

end Sys2Proof.Claims

namespace Sys2Proof

open Sys2Proof.Machine Sys2Proof.Claims

/-- Settles O19: the stall is that of a release behind `sendOwn`, and the completion `finish`, with an acquire where the fence has one. -/
theorem fencesWaitThenComplete : Obligations.FencesWaitThenComplete := by
  unfold Obligations.FencesWaitThenComplete
  refine ⟨fun k sc s => ?fence, fun s => ?rflush, fun tk k wide s hwait hquiet hstep => ?performed, fun tk s w hwait hready => ?waits⟩
  case fence =>
    let u := if k = 0 then s else s.relStep s.cur sc.toNat
    have hu : Sends s u := by
      unfold u
      split
      · exact Sends.refl s
      · exact Sends.relStep ..
    have hexec : exec (.fence k sc) s =
        .next ((u.startWait (.fence k.toNat (decide (sc.toNat ≠ 0)))).push (.releasePerformed u.cur)) := rfl
    rw [hu.cur] at hexec
    obtain ⟨hstalls, hasked⟩ := stalls_of_sends hu (.fence k.toNat (decide (sc.toNat ≠ 0))) (.releasePerformed s.cur)
    refine ⟨_, hexec, hstalls, hasked, fun hk hsc hsys i e hi hplace hown hcid => ?_⟩
    have hsc' : sc.toNat ≠ 0 := fun h => hsc (BitVec.eq_of_toNat_eq h)
    have hrel : u = s.sendOwn s.cur := (if_neg hk).trans (if_neg (by simp [hsc', hsys]))
    rw [hrel]
    exact stalled_sendOwn _ hi hplace hown hcid
  case rflush =>
    let u := if isSys s.cur then s else s.sendOwn s.cur
    have hu : Sends s u := by
      unfold u
      split
      · exact Sends.refl s
      · exact Sends.sendRes ..
    have hexec : exec .rflush s = .next ((u.startWait .rflush).push (.releasePerformed u.cur)) := rfl
    rw [hu.cur] at hexec
    obtain ⟨hstalls, hasked⟩ := stalls_of_sends hu .rflush (.releasePerformed s.cur)
    refine ⟨_, hexec, hstalls, hasked, fun hsys i e hi hplace hown hcid => ?_⟩
    rw [show u = s.sendOwn s.cur from if_neg (by rw [hsys]; exact Bool.false_ne_true)]
    exact stalled_sendOwn _ hi hplace hown hcid
  case performed =>
    have hready := relReady_of_quiet hwait hquiet
    obtain ⟨hres, hbytes⟩ := finish_resumes hstep
    rcases hwait with hfence | hflush
    · refine ⟨_, exec_releasePerformed_fence hfence hready, ?_⟩
      by_cases hk : k = 1
      · rw [if_pos hk]
        exact ⟨hres, hbytes, fun _ h => absurd hk h⟩
      · rw [if_neg hk]
        refine ⟨hres.acquire, fun home pa => (sameBytes_acquire _ tk home pa).trans (hbytes home pa), fun _ _ => ?_⟩
        rw [acquire_tset, finish_seq hstep]
    · exact ⟨_, exec_releasePerformed_rflush hflush hready, hres, hbytes, fun h => by rw [hflush] at h; cases h⟩
  case waits => exact ⟨_, exec_releasePerformed_unready hwait hready, hwait, rfl, pushAt_sent ..⟩

end Sys2Proof
end

section
/-! # Counters

A counter's home slice adds to it in one step and judges the waits for it (10 R197-R200). Both read and write the counter as the atomics
do; what then completes is a stalled instruction, and what fails traps into a handler (20 R351). -/

namespace Sys2Proof.Claims

open Sys2Proof.Machine

/-! ### Messages that are sent -/

/-- `t` is `s` with more messages on their way. -/
def Pushes (s t : State) : Prop := ∃ pend here, t = { s with pend := pend, here := here } ∧ ∀ x ∈ s.pend, x ∈ pend

theorem Pushes.refl (s : State) : Pushes s s := ⟨_, _, rfl, fun _ h => h⟩

section

variable {s t u : State}

theorem Pushes.push (h : Pushes s t) (e : Ev) : Pushes s (t.push e) := by
  obtain ⟨_, _, rfl, hpend⟩ := h
  exact ⟨_, _, rfl, fun x hx => mem_insAt_of_mem _ _ _ (hpend x hx)⟩

theorem Pushes.trans (h : Pushes s t) (k : Pushes t u) : Pushes s u := by
  obtain ⟨_, _, rfl, hpend⟩ := h
  obtain ⟨_, _, rfl, kpend⟩ := k
  exact ⟨_, _, rfl, fun x hx => kpend x (hpend x hx)⟩

theorem Pushes.foldl {α : Type} {f : State → α → State} (hf : ∀ s x, Pushes s (f s x)) (l : List α) (s : State) :
    Pushes s (l.foldl f s) :=
  List.foldlRecOn (motive := Pushes s) _ _ (Pushes.refl s) fun u hu x _ => hu.trans (hf u x)

section

variable (h : Pushes s t)

include h

theorem Pushes.ts : t.ts = s.ts := by
  obtain ⟨_, _, rfl, -⟩ := h
  rfl

theorem Pushes.sent {e : Ev} (hs : Sent s e) : Sent t e := by
  obtain ⟨_, _, rfl, hpend⟩ := h
  obtain ⟨due, hmem⟩ := hs
  exact ⟨due, hpend _ hmem⟩

theorem Pushes.bytes : sameBytes s t := by
  obtain ⟨_, _, rfl, -⟩ := h
  exact fun home pa => byteAt_congr rfl rfl home pa

end

end

theorem abortMarks_pushes (s : State) (home pa : Nat) (chans : List (Nat × BitVec 32)) (burst : Bool) :
    Pushes s (s.abortMarks home pa chans burst) := by
  refine Pushes.foldl (fun s m => Pushes.foldl (fun s x => ?_) _ s) _ s
  split
  · split
    · exact (Pushes.refl s).push _
    · exact Pushes.refl s
  · exact Pushes.refl s

/-! ### Waiters whose target is reached -/

/-- A waiter entry of a counter at `pa` whose target a count of `c` reaches. -/
abbrev reached (pa c : Nat) (x : Waiter × Nat × Word) : Bool := x.2.1 == pa && decide (x.2.2.toNat ≤ c)

/-- The message that wakes a waiter. -/
def wakeOf (x : Waiter × Nat × Word) : Ev :=
  match x.1 with
  | .ts tk => .waitgeWake tk
  | .adm p _ => .admissionWaitEnd p

/-- Messages sent for the elements of a list. -/
def sendAll {α : Type} (f : α → Ev) (l : List α) (s : State) : State := l.foldl (fun s x => s.push (f x)) s

theorem sendAll_pushes {α : Type} (f : α → Ev) (l : List α) (s : State) : Pushes s (sendAll f l s) :=
  Pushes.foldl (fun s x => (Pushes.refl s).push (f x)) l s

theorem sendAll_sent {α : Type} {f : α → Ev} {l : List α} {x : α} (hx : x ∈ l) (s : State) : Sent (sendAll f l s) (f x) := by
  induction l generalizing s with
  | nil => cases hx
  | cons y l ih =>
    rcases List.mem_cons.mp hx with rfl | hx
    · exact (sendAll_pushes f l _).sent ⟨_, pushAt_sent ..⟩
    · exact ih hx _

theorem wakeWaiters_eq (s : State) (home pa c : Nat) : s.wakeWaiters home pa c =
    sendAll wakeOf ((s.slice home).wait.filter (reached pa c))
      (s.upSlice home (fun sl => { sl with wait := sl.wait.filter (fun x => !reached pa c x) })) := by
  have hstep : (fun (s : State) (x : Waiter × Nat × Word) => match x.1 with
      | .ts tk => s.push (.waitgeWake tk)
      | .adm p _ => s.push (.admissionWaitEnd p)) = fun s x => s.push (wakeOf x) := by
    funext s x
    unfold wakeOf
    split <;> rfl
  unfold State.wakeWaiters sendAll
  exact congrArg (fun f => List.foldl f _ _) hstep

/-- The waiters that the count reaches are woken, and no byte and no thread set changes. -/
theorem wakeWaiters_spec (s : State) (home pa c : Nat) : (s.wakeWaiters home pa c).ts = s.ts ∧ sameBytes s (s.wakeWaiters home pa c) ∧
    ∀ tk tgt, (.ts tk, pa, tgt) ∈ (s.slice home).wait → tgt.toNat ≤ c → Sent (s.wakeWaiters home pa c) (.waitgeWake tk) := by
  rw [wakeWaiters_eq]
  have hpushes := sendAll_pushes wakeOf ((s.slice home).wait.filter (reached pa c))
    (s.upSlice home (fun sl => { sl with wait := sl.wait.filter (fun x => !reached pa c x) }))
  refine ⟨hpushes.ts, fun h a => (hpushes.bytes h a).trans (sameBytes_upSlice s home
    (f := fun sl => { sl with wait := sl.wait.filter (fun x => !reached pa c x) }) (fun _ => rfl) h a), fun tk tgt hmem hle => ?_⟩
  refine sendAll_sent (f := wakeOf) (x := (.ts tk, pa, tgt)) (List.mem_filter.mpr ⟨hmem, ?_⟩) _
  rw [reached, beq_self_eq_true, decide_eq_true hle, Bool.and_self]

/-! ### An addition at the home slice (10 R198) -/

section

variable {s : State} {home pa : Nat} (hroom : pa % 192 + 8 ≤ 192) (hkey : ∀ i, i < 8 → lineKey (pa + i) = lineKey pa)

include hroom hkey

/-- A sum that fits: the counter has it, and the waiters that it reaches are woken. -/
theorem ctrAdd_fits {amt : Nat} (cid : Nat) (h : memNat s home pa 8 + amt < 2 ^ 64) : ∃ t, s.ctrAdd home pa amt cid false = (true, t) ∧
    t.ts = s.ts ∧ PutsNat s t home pa 8 (memNat s home pa 8 + amt) ∧
    ∀ tk tgt, (.ts tk, pa, tgt) ∈ (s.slice home).wait → tgt.toNat ≤ memNat s home pa 8 + amt → Sent t (.waitgeWake tk) := by
  let read := (s.homeRead home pa 8).2
  let put := (read.collapse (lineKey pa)).homeWrite home pa (List.replicate 8 true) (natLe (memNat s home pa 8 + amt) 8) cid
  have hmoves : MovesLines s put :=
    ((MovesLines.homeRead s home pa 8).trans (MovesLines.collapse read _)).trans (MovesLines.homeWrite ..)
  have hputs : PutsNat s put home pa 8 (memNat s home pa 8 + amt) := by
    have hcollapsed : sameBytes s (read.collapse (lineKey pa)) := fun h a =>
      (byteAt_congr rfl rfl h a).trans (sameBytes_fillLine s home (lineKey pa) (sectsOf (pa % 192) 8) h a)
    exact (putsNat_homeWrite hroom cid).between hcollapsed fun _ _ => rfl
  obtain ⟨hts, hbytes, hwoken⟩ := wakeWaiters_spec put home pa (memNat s home pa 8 + amt)
  refine ⟨put.wakeWaiters home pa (memNat s home pa 8 + amt), ?_, hts.trans hmoves.ts, hputs.between (fun _ _ => rfl) hbytes,
    fun tk tgt hmem hle => hwoken tk tgt (hmoves.waiters home ▸ hmem) hle⟩
  unfold State.ctrAdd
  dsimp only
  rw [leNat_homeRead hroom hkey, if_pos h]

/-- A sum that does not fit changes no byte. -/
theorem ctrAdd_overflows {amt : Nat} (cid : Nat) (h : 2 ^ 64 ≤ memNat s home pa 8 + amt) :
    s.ctrAdd home pa amt cid false = (false, (s.homeRead home pa 8).2) := by
  unfold State.ctrAdd
  dsimp only
  rw [leNat_homeRead hroom hkey, if_neg (Nat.not_lt.mpr h), if_neg Bool.false_ne_true]

end

/-! ### Traps of a stalled instruction that enter a handler (20 R351) -/

/-- What a trap of a thread set leaves of its wait and of its exception words. -/
structure Trapped (t : State) (tk code : Nat) (tval epc : Word) : Prop where
  cause : (t.t tk).cause = BitVec.ofNat 64 code
  tval : (t.t tk).tval = tval
  epc : (t.t tk).epc = epc
  wait : (t.t tk).wait = none
  wclk : (t.t tk).wclk = 0

/-- A thread set's traps go to a handler by what is neither its wait nor the clock of it. -/
theorem ToHandler.congr {s t : State} {tk n : Nat} {w : Option Wait} (h : ToHandler s tk)
    (ht : t.t tk = { s.t tk with wait := w, wclk := n }) : ToHandler t tk := by
  unfold ToHandler at h ⊢
  rw [ht]
  exact h

section

variable {s : State} {tk : Nat} (h : ToHandler s tk)

include h

theorem ToHandler.not_user : (!isSys tk && (s.t tk).priv == 0) = false := by
  obtain ⟨-, hsys | hpriv, -⟩ := h
  · rw [hsys]
    rfl
  · rw [beq_eq_false_iff_ne.mpr hpriv, Bool.and_false]

theorem mustLand_of_toHandler (code : Nat) : s.mustLand tk code = false := by
  have ⟨hspec, _⟩ := h
  unfold State.mustLand
  dsimp only
  rw [hspec, show (none : Option Crossing).isNone = true from rfl, Bool.true_and, h.not_user, Bool.false_and, Bool.false_and]

theorem trapAt_of_toHandler (code : Nat) (tval epc : Word) : s.trapAt tk code tval epc = s.enterHandler tk code tval epc := by
  have ⟨hspec, _⟩ := h
  unfold State.trapAt
  dsimp only
  rw [hspec, if_neg (by decide), mustLand_of_toHandler h, if_neg Bool.false_ne_true, h.not_user, Bool.false_and,
    if_neg Bool.false_ne_true]

/-- The trap of a stalled instruction. -/
theorem waitTrap_trapped (code : Nat) (tval : Word) :
    Trapped (s.waitTrap tk code tval) tk code tval (s.t tk).pc ∧ sameBytes s (s.waitTrap tk code tval) := by
  have ⟨_, _, htrace⟩ := h
  have htrap : s.waitTrap tk code tval =
      (s.enterHandler tk code tval (s.t tk).pc).upT tk (fun t => { t with lastIss := (s.t tk).lastIss }) := by
    rw [← trapAt_of_toHandler h]
    rfl
  obtain ⟨f, henter, hcause, htval, hepc, hwait, hwclk⟩ : ∃ f, s.enterHandler tk code tval (s.t tk).pc = s.upT tk f ∧
      (f (s.t tk)).cause = BitVec.ofNat 64 code ∧ (f (s.t tk)).tval = tval ∧ (f (s.t tk)).epc = (s.t tk).pc ∧
      (f (s.t tk)).wait = none ∧ (f (s.t tk)).wclk = 0 := by
    unfold State.enterHandler
    dsimp only
    rw [htrace, if_neg Bool.false_ne_true]
    exact ⟨_, rfl, rfl, rfl, rfl, rfl, rfl⟩
  rw [htrap, henter]
  refine ⟨?_, fun home pa => byteAt_congr rfl rfl home pa⟩
  constructor <;> rw [upT_at_same, upT_at_same] <;> assumption

end

/-! ### SIGADD (10 R198) -/

/-- The request of a SIGADD as it leaves the core. -/
def sigaddReq (s : State) (b : Reg) (h : Hit) : Req :=
  asRel { s.req s.cur .sigadd h.ea h.pa h.home h.pte 8 with data := (s.g b).setWidth 512 } 4

theorem sigadd_passes {a b : Reg} {s s1 : State} {h : Hit} (hpass : Passes s (ctrChecks .rmw) [s.g a] 8 false true [h] s1) :
    exec (.sigadd a b) s = .next (((s1.relStep s1.cur 4).push (.sigaddApply (sigaddReq (s1.relStep s1.cur 4) b h))).startWait .sigadd) :=
  (planned_passes hpass _).trans (watched_passes hpass _)

/-- Seen from a thread set whose registers and pc are the same, the machine is at the same place. -/
theorem samePlace_from {s u : State} (h : u.ts = s.ts) (tk : Nat) : SamePlace (from_ s tk) (from_ u tk) := by
  have hme : (from_ u tk).me = (from_ s tk).me := congrArg (fun m => mget m tk TSet.reset) h
  exact ⟨rfl, by rw [hme], by rw [hme], by rw [hme], by rw [hme], by rw [hme], by rw [hme], by rw [hme]⟩

theorem Resumes.of_ts {s u t : State} {tk : Nat} {G : Reg → Nat → Prop} (h : u.ts = s.ts) (hres : Resumes u t tk G) :
    Resumes s t tk G := by
  obtain ⟨hwait, hpc, hregs⟩ := hres
  exact ⟨hwait, hpc.trans ((samePlace_from h tk).nextPc 4),
    (show u.t tk = s.t tk from congrArg (fun m => mget m tk TSet.reset) h) ▸ hregs⟩

section

variable {r : Req} {s : State} (hlen : r.len = 8) (hline : oneLine r) (hquiet : noSliceWatch s r.home) (hheld : unheld s r)
  (hwait : (s.t r.who).wait = some .sigadd)

include hlen hline hquiet hheld hwait

/-- The slice adds, and the SIGADD completes. -/
theorem exec_sigaddApply_fits (h : memNat s r.home r.pa 8 + r.data.toNat % 2 ^ 64 < 2 ^ 64) :
    ∃ u, exec (.sigaddApply r) s = .next (u.finish r.who) ∧ u.ts = s.ts ∧
      PutsNat s u r.home r.pa 8 (memNat s r.home r.pa 8 + r.data.toNat % 2 ^ 64) ∧
      ∀ tk tgt, (.ts tk, r.pa, tgt) ∈ (s.slice r.home).wait → tgt.toNat ≤ memNat s r.home r.pa 8 + r.data.toNat % 2 ^ 64 →
        Sent u (.waitgeWake tk) := by
  obtain ⟨hroom, hkey⟩ := hline
  rw [hlen] at hroom hkey
  obtain ⟨v, hadd, hts, hputs, hwoken⟩ := ctrAdd_fits hroom hkey r.cid h
  have haborts := abortMarks_pushes v r.home r.pa r.chans false
  refine ⟨v.abortMarks r.home r.pa r.chans false, ?_, haborts.ts.trans hts, hputs.between (fun _ _ => rfl) haborts.bytes,
    fun tk tgt hmem hle => haborts.sent (hwoken tk tgt hmem hle)⟩
  have hwait' : ((v.abortMarks r.home r.pa r.chans false).t r.who).wait = some .sigadd := by
    rw [State.t, haborts.ts, hts]
    exact hwait
  change execSigaddApply r s = _
  unfold execSigaddApply
  rw [noteReq_quiet hquiet, sysHeal_unheld hheld, wbits_zero, hadd]
  simp only [if_true, hwait', bne_self_eq_false, Bool.false_eq_true, if_false]

/-- The sum does not fit, and the SIGADD traps. -/
theorem exec_sigaddApply_overflows (h : 2 ^ 64 ≤ memNat s r.home r.pa 8 + r.data.toNat % 2 ^ 64) :
    exec (.sigaddApply r) s =
      .next (((s.homeRead r.home r.pa 8).2.upT r.who (fun t => { t with wait := none })).waitTrap r.who cCtrOvf r.va) := by
  obtain ⟨hroom, hkey⟩ := hline
  rw [hlen] at hroom hkey
  have hwait' : ((s.homeRead r.home r.pa 8).2.t r.who).wait = some .sigadd := by
    rw [(MovesLines.homeRead ..).tset]
    exact hwait
  change execSigaddApply r s = _
  unfold execSigaddApply
  rw [noteReq_quiet hquiet, sysHeal_unheld hheld, wbits_zero, ctrAdd_overflows hroom hkey r.cid h]
  simp only [hwait', bne_self_eq_false, Bool.false_eq_true, if_false]

end

end Sys2Proof.Claims

namespace Sys2Proof

open Sys2Proof.Machine Sys2Proof.Claims

/-- Settles O20: the sum is one number put at the home, a reached waiter a message of `wakeWaiters`, and an overflow a trap. -/
theorem counterAdditions : Obligations.CounterAdditions := by
  unfold Obligations.CounterAdditions
  refine ⟨fun a b s s1 h hpass => ?leaves, ?applied⟩
  case leaves =>
    have hexec := sigadd_passes (b := b) hpass
    obtain ⟨-, -, -, hcur, harch⟩ := hpass
    have hsends : Sends s1 (s1.relStep s1.cur 4) := Sends.relStep ..
    have hg : (s1.relStep s1.cur 4).g b = s.g b := congrArg (Arch.gp · 0 b) ((congrArg TSet.a hsends.me).trans harch)
    obtain ⟨⟨hw, hpc, ha, hbytes⟩, -⟩ := stalls_of_sends hsends .sigadd (.sigaddApply (sigaddReq (s1.relStep s1.cur 4) b h))
    refine ⟨_, sigaddReq (s1.relStep s1.cur 4) b h, hexec, ⟨hw, hpc, ha, fun home pa => ?_⟩, ⟨_, pushAt_sent ..⟩,
      hsends.cur.trans hcur, rfl, rfl, rfl, ?_, rfl⟩
    · exact (byteAt_congr rfl rfl home pa).trans (hbytes home pa)
    · rw [show (sigaddReq (s1.relStep s1.cur 4) b h).data = (s.g b).setWidth 512 by rw [← hg]; rfl]
      exact BitVec.toNat_setWidth_of_le (by decide)
  case applied =>
    intro r s hlen hline hquiet hheld hwait c x
    refine ⟨fun hfits hstep => ?adds, fun hover hto => ?traps⟩
    case adds =>
      obtain ⟨u, hexec, hts, hputs, hwoken⟩ := exec_sigaddApply_fits hlen hline hquiet hheld hwait hfits
      have hstep' : (from_ u r.who).stepping = false := (samePlace_from hts r.who).stepping.trans hstep
      obtain ⟨hres, hbytes⟩ := finish_resumes hstep'
      obtain ⟨-, -, hpend⟩ := finish_rest hstep'
      have hall : PutsNat s (u.finish r.who) r.home r.pa 8 (c + x) := hputs.between (fun _ _ => rfl) hbytes
      obtain ⟨-, hkey⟩ := hline
      rw [hlen] at hkey
      refine ⟨_, hexec, (hall.memNat hkey).trans (Nat.mod_eq_of_lt hfits), PutsNat.only (hlen ▸ hall), hres.of_ts hts,
        fun tk tgt hmem hle => ?_⟩
      obtain ⟨due, hsent⟩ := hwoken tk tgt hmem hle
      exact ⟨due, hpend ▸ hsent⟩
    case traps =>
      let u := (s.homeRead r.home r.pa 8).2
      have hu : u.t r.who = s.t r.who := (MovesLines.homeRead ..).tset _
      have ht : (u.upT r.who (fun t => { t with wait := none })).t r.who = { s.t r.who with wait := none } := by rw [upT_at_same, hu]
      obtain ⟨htrap, hbytes⟩ := waitTrap_trapped (hto.congr ht) cCtrOvf r.va
      refine ⟨_, exec_sigaddApply_overflows hlen hline hquiet hheld hwait hover, fun home pa => ?_, htrap.cause, htrap.tval,
        htrap.epc.trans (by rw [ht]), htrap.wait⟩
      exact (hbytes home pa).trans ((sameBytes_upT _ _ _ home pa).trans (sameBytes_fillLine _ _ _ _ home pa))

end Sys2Proof
end

section
/-! # Waits at counters

A wake and a poll both judge the wait at the counter's home slice, `waitgeAt` (10 R199); a wait that has lasted too long leaves the
slice and traps (07 R145). -/

namespace Sys2Proof.Claims

open Sys2Proof.Machine

/-! ### WAITGE and CTRRD leave the core (10 R199, R200) -/

/-- The request of a WAITGE. -/
def waitgeReq (s : State) (b : Reg) (h : Hit) : Req :=
  { s.req s.cur .waitge h.ea h.pa h.home h.pte 8 with cmp := s.g b, acq := true }

theorem waitge_passes {d a b : Reg} {s s1 : State} {h : Hit} (hpass : Passes s (ctrChecks .load) [s.g a] 8 true false [h] s1) :
    exec (.waitge d a b) s = .next ((s1.startWait (.waitge d (waitgeReq s1 b h) false)).push (.waitgeRepoll s1.cur)) :=
  (planned_passes hpass _).trans (watched_passes hpass _)

/-- The request of a CTRRD. -/
def ctrrdReq (s : State) (d : Reg) (h : Hit) : Req :=
  { s.req s.cur .ctrrd h.ea h.pa h.home h.pte 8 with dst := if d = 0 then .none else .g d 0 3, acq := true, mask := 0 }

/-- The machine as the request of a CTRRD leaves its core. -/
def ctrrdSent (s : State) (d : Reg) (h : Hit) : State := (awaiting s d (ctrrdReq s d h).dst).push (.homeLoadServe (ctrrdReq s d h))

theorem ctrrd_issues (s : State) (d : Reg) (h : Hit) : Issues d (· ∈ s.me.dual) s (ctrrdSent s d h) :=
  (awaiting_issues s d _).trans (Issues.push _ _)

theorem ctrrd_passes {d a : Reg} {s s1 : State} {h : Hit} (hpass : Passes s (ctrChecks .load) [s.g a] 8 true false [h] s1) :
    exec (.ctrrd d a) s = .next ((ctrrdSent s1 d h).doneD 4) :=
  (planned_passes hpass _).trans (watched_passes hpass _)

/-- A wait begins with a clock of 0 and the limit of then (07 R145). -/
theorem startWait_wlim (s : State) (w : Wait) (h : s.me.wclk = 0) : (s.startWait w).me.wlim = s.me.wlimit.toNat % 2 ^ 48 := by
  rw [State.startWait, upMe_me, ← wbits_zero]
  exact if_pos h

/-! ### The wait judged at the slice (10 R199) -/

theorem unregister_spec (s : State) (tk : Nat) : (s.unregister tk).ts = s.ts ∧ (s.unregister tk).seq = s.seq ∧
    sameBytes s (s.unregister tk) := by
  unfold State.unregister
  split
  · exact ⟨rfl, rfl, sameBytes_upSlice s _ fun _ => rfl⟩
  · exact ⟨rfl, rfl, fun _ _ => rfl⟩

section

variable {s : State} {tk : Nat} {d : Reg} {r : Req} {reg : Bool} (hwait : (s.t tk).wait = some (.waitge d r reg))
  (hline : oneLine { r with len := 8 }) (hquiet : noSliceWatch s r.home) (hheld : unheld s r)

include hwait hline hquiet hheld

/-- What the slice does by the count that it reads. -/
theorem waitgeAt_eq : s.waitgeAt tk =
    let u := (s.homeRead r.home r.pa 8).2
    if r.cmp.toNat ≤ memNat s r.home r.pa 8 then
      (((u.unregister tk).dropPend (fun e => e == .waitgeRepoll tk)).finishD tk d (BitVec.ofNat 64 (memNat s r.home r.pa 8))).acquire tk
    else if reg && (u.slice r.home).wait.any (fun x => x.1 == .ts tk) then u
    else if (u.slice r.home).wait.length < 256 then
      (u.upSlice r.home (fun sl => { sl with wait := (.ts tk, r.pa, r.cmp) :: sl.wait })).upT tk (fun t =>
        { t with wait := some (.waitge d r true) })
    else (u.upT tk (fun t => { t with wait := some (.waitge d r false) })).pushAt (u.cyc + 1024) (.waitgeRepoll tk) := by
  have hread := leNat_homeRead (s := s) (home := r.home) hline.1 hline.2
  dsimp only at hread
  unfold State.waitgeAt
  simp only [hwait]
  rw [noteReq_quiet hquiet, sysHeal_unheld hheld, hread]

/-- A count that has reached the target completes the WAITGE. -/
theorem waitgeAt_reached (h : r.cmp.toNat ≤ memNat s r.home r.pa 8) (hstep : (from_ s tk).stepping = false) :
    Resumes s (s.waitgeAt tk) tk (fun x p => x = d ∧ (p = 0 ∨ p ∈ (s.t tk).dual)) ∧ sameBytes s (s.waitgeAt tk) ∧
      ((s.waitgeAt tk).t tk).a.gp 0 d = (if d = 0 then 0 else BitVec.ofNat 64 (memNat s r.home r.pa 8)) ∧
      ((s.waitgeAt tk).t tk).epoch = s.seq + 1 := by
  let u := (s.homeRead r.home r.pa 8).2
  let v := (u.unregister tk).dropPend (fun e => e == .waitgeRepoll tk)
  have hread : MovesLines s u := MovesLines.homeRead ..
  obtain ⟨hts, hseq, hbytes⟩ := unregister_spec u tk
  have hvts : v.ts = s.ts := hts.trans hread.ts
  have hv : v.t tk = s.t tk := congrArg (fun m => mget m tk TSet.reset) hvts
  have hvstep : (from_ v tk).stepping = false := (samePlace_from hvts tk).stepping.trans hstep
  obtain ⟨hres, hg, hsame⟩ := finishD_resumes hvstep d (BitVec.ofNat 64 (memNat s r.home r.pa 8))
  have hfin : (v.finishD tk d (BitVec.ofNat 64 (memNat s r.home r.pa 8))).seq = s.seq :=
    (finishD_seq hvstep d _).trans (hseq.trans hread.seq)
  rw [waitgeAt_eq hwait hline hquiet hheld]
  dsimp only
  rw [if_pos h, acquire_tset, hfin]
  rw [hv] at hres
  refine ⟨(hres.of_ts hvts).acquire, fun home pa => ?_, hg, rfl⟩
  calc State.byteAt _ home pa = (v.finishD tk d (BitVec.ofNat 64 (memNat s r.home r.pa 8))).byteAt home pa := sameBytes_acquire _ tk home pa
    _ = v.byteAt home pa := hsame home pa
    _ = (u.unregister tk).byteAt home pa := byteAt_congr rfl rfl home pa
    _ = u.byteAt home pa := hbytes home pa
    _ = s.byteAt home pa := sameBytes_fillLine s r.home (lineKey r.pa) (sectsOf (r.pa % 192) 8) home pa

end

section

variable {s : State} {tk : Nat} {d : Reg} {r : Req} (hwait : (s.t tk).wait = some (.waitge d r false))
  (hline : oneLine { r with len := 8 }) (hquiet : noSliceWatch s r.home) (hheld : unheld s r)
  (hshort : memNat s r.home r.pa 8 < r.cmp.toNat)

include hwait hline hquiet hheld hshort

/-- An unregistered wait whose target the count has not reached is registered where the slice has room. -/
theorem waitgeAt_registers (hroom : (s.slice r.home).wait.length < 256) :
    sameBytes s (s.waitgeAt tk) ∧ (.ts tk, r.pa, r.cmp) ∈ ((s.waitgeAt tk).slice r.home).wait ∧
      (s.waitgeAt tk).t tk = { s.t tk with wait := some (.waitge d r true) } := by
  have hread : MovesLines s (s.homeRead r.home r.pa 8).2 := MovesLines.homeRead ..
  rw [waitgeAt_eq hwait hline hquiet hheld]
  dsimp only
  rw [if_neg (Nat.not_le.mpr hshort), Bool.false_and, if_neg Bool.false_ne_true, hread.waiters, if_pos hroom]
  refine ⟨fun home pa => ?_, ?_, ?_⟩
  · exact (sameBytes_upT _ tk _ home pa).trans ((sameBytes_upSlice (s.homeRead r.home r.pa 8).2 r.home
      (f := fun sl => { sl with wait := (.ts tk, r.pa, r.cmp) :: sl.wait }) (fun _ => rfl) home pa).trans
      (sameBytes_fillLine _ _ _ _ home pa))
  · rw [upT_at_slice, upSlice_at_same]
    exact List.mem_cons_self
  · rw [upT_at_same, upSlice_at_t, hread.tset]

/-- Where the slice has no room it polls again. -/
theorem waitgeAt_polls (hfull : 256 ≤ (s.slice r.home).wait.length) :
    sameBytes s (s.waitgeAt tk) ∧ { due := s.cyc + 1024, ev := .waitgeRepoll tk } ∈ (s.waitgeAt tk).pend ∧
      (s.waitgeAt tk).t tk = { s.t tk with wait := some (.waitge d r false) } := by
  have hread : MovesLines s (s.homeRead r.home r.pa 8).2 := MovesLines.homeRead ..
  rw [waitgeAt_eq hwait hline hquiet hheld]
  dsimp only
  rw [if_neg (Nat.not_le.mpr hshort), Bool.false_and, if_neg Bool.false_ne_true, hread.waiters, if_neg (Nat.not_lt.mpr hfull), hread.cyc]
  refine ⟨fun home pa => ?_, pushAt_sent .., ?_⟩
  · exact (byteAt_congr rfl rfl home pa).trans (sameBytes_fillLine _ _ _ _ home pa)
  · rw [pushAt_at_t, upT_at_same, hread.tset]

end

/-! ### A wait that has lasted too long (07 R145) -/

/-- The wait leaves its slice, and its wakes and polls go. -/
def waitLeft (s : State) (tk : Nat) : State :=
  (s.unregister tk).dropPend (fun e => e == .waitgeRepoll tk || e == .waitgeWake tk)

theorem waitLeft_ts (s : State) (tk : Nat) : (waitLeft s tk).ts = s.ts := (unregister_spec s tk).1

theorem waitLeft_t (s : State) (tk k : Nat) : (waitLeft s tk).t k = s.t k := congrArg (fun m => mget m k TSet.reset) (waitLeft_ts s tk)

theorem sameBytes_waitLeft (s : State) (tk : Nat) : sameBytes s (waitLeft s tk) := fun home pa =>
  (byteAt_congr rfl rfl home pa).trans ((unregister_spec s tk).2.2 home pa)

theorem exec_waitTimeout_over {s : State} {tk : Nat} {w : Wait} (hwait : (s.t tk).wait = some w) (hbounded : w.bounded = true)
    (hnot : ∀ n, w ≠ .expired n) (hlim : (s.t tk).wlim < (s.t tk).wclk) :
    exec (.waitTimeout tk) s = .next ((waitLeft s tk).timeOut tk (s.t tk).wclk) := by
  change execWaitTimeout tk s = _
  unfold execWaitTimeout
  dsimp only
  split
  · rename_i n hn
    rw [hwait] at hn
    exact absurd (Option.some.inj hn) (hnot n)
  · rename_i w' _ hw'
    obtain rfl : w = w' := Option.some.inj (hwait.symm.trans hw')
    rw [hbounded, decide_eq_true hlim]
    rfl
  · rename_i hnone
    rw [hwait] at hnone
    cases hnone

theorem exec_waitTimeout_expired {s : State} {tk n : Nat} (hwait : (s.t tk).wait = some (.expired n)) :
    exec (.waitTimeout tk) s = .next (s.timeOut tk n) := by
  change execWaitTimeout tk s = _
  unfold execWaitTimeout
  simp only [hwait]

/-- The trap of a wait whose clock stands at `n`. -/
theorem timeOut_trapped {s : State} {tk : Nat} (h : ToHandler s tk) (n : Nat) :
    Trapped (s.timeOut tk n) tk cTimeout (BitVec.ofNat 64 n) (s.t tk).pc ∧ sameBytes s (s.timeOut tk n) := by
  have ht : (s.upT tk (fun t => { t with wclk := 0 })).t tk = { s.t tk with wclk := 0 } := upT_at_same ..
  obtain ⟨htrap, hbytes⟩ := waitTrap_trapped (h.congr ht) cTimeout (BitVec.ofNat 64 n)
  rw [State.timeOut, mustLand_of_toHandler h, if_neg Bool.false_ne_true]
  rw [congrArg TSet.pc ht] at htrap
  exact ⟨htrap, fun home pa => (hbytes home pa).trans (sameBytes_upT s tk _ home pa)⟩

end Sys2Proof.Claims

namespace Sys2Proof

open Sys2Proof.Machine Sys2Proof.Claims

/-- Settles O21: a wake and a poll are `waitgeAt`, which goes by the count, and a wait that has lasted too long is `timeOut`. -/
theorem counterWaits : Obligations.CounterWaits := by
  unfold Obligations.CounterWaits
  refine ⟨fun d a b s s1 h hpass => ⟨?waitge, ?ctrrd⟩, ?judged,
    fun tk w s hwait hbounded hnot hlim => ⟨fun hto => ?timeout, fun hland => ?lands⟩, fun tk n s hwait hto => ?expired⟩
  case waitge =>
    have hexec := waitge_passes (d := d) (b := b) hpass
    obtain ⟨-, -, -, hcur, harch⟩ := hpass
    obtain ⟨hstalls, hsent⟩ := stalls_of_sends (Sends.refl s1) (.waitge d (waitgeReq s1 b h) false) (.waitgeRepoll s1.cur)
    exact ⟨_, waitgeReq s1 b h, hexec, hstalls, hcur ▸ hsent, rfl, rfl, congrArg (Arch.gp · 0 b) harch, startWait_wlim s1 _⟩
  case ctrrd =>
    have hexec := ctrrd_passes (d := d) hpass
    obtain ⟨-, -, hstep, hcur, -⟩ := hpass
    obtain ⟨hdone, hsent⟩ := (ctrrd_issues s1 d h).doneD hstep
    exact ⟨_, ctrrdReq s1 d h, hexec, hdone.pc, hdone.bytes, hdone.regs, (hsent _).mpr ⟨_, pushAt_sent ..⟩, hcur, rfl, rfl, rfl, rfl,
      rfl, rfl⟩
  case judged =>
    intro i tk d r reg s hi hwait hline hquiet hheld c
    have hexec : exec i s = .next (s.waitgeAt tk) := by rcases hi with rfl | rfl <;> rfl
    refine ⟨fun hle hstep => ?_, fun hlt hreg hroom => ?_, fun hlt hreg hfull => ?_⟩
    · obtain ⟨hres, hbytes, hg, hepoch⟩ := waitgeAt_reached hwait hline hquiet hheld hle hstep
      exact ⟨_, hexec, hbytes, hres, hg, hepoch⟩
    · subst hreg
      obtain ⟨hbytes, hmem, ht⟩ := waitgeAt_registers hwait hline hquiet hheld hlt hroom
      exact ⟨_, hexec, hbytes, hmem, by rw [ht], by rw [ht], by rw [ht]⟩
    · subst hreg
      obtain ⟨hbytes, hpend, ht⟩ := waitgeAt_polls hwait hline hquiet hheld hlt hfull
      exact ⟨_, hexec, hbytes, by rw [ht], hpend, by rw [ht], by rw [ht]⟩
  case timeout =>
    have ht := waitLeft_t s tk tk
    obtain ⟨htrap, hbytes⟩ := timeOut_trapped (hto.congr ht) (s.t tk).wclk
    exact ⟨_, exec_waitTimeout_over hwait hbounded hnot hlim, htrap.cause, htrap.tval, htrap.epc.trans (by rw [ht]), htrap.wait,
      htrap.wclk, fun home pa => (hbytes home pa).trans (sameBytes_waitLeft s tk home pa)⟩
  case lands =>
    have hland' : (waitLeft s tk).mustLand tk cTimeout = true := by
      unfold State.mustLand at hland ⊢
      rw [waitLeft_t]
      exact hland
    have hexec := exec_waitTimeout_over hwait hbounded hnot hlim
    rw [State.timeOut, if_pos hland'] at hexec
    have ht : ((waitLeft s tk).upT tk (fun t => { t with wait := some (.expired (s.t tk).wclk) })).t tk =
        { s.t tk with wait := some (.expired (s.t tk).wclk) } := by rw [upT_at_same, waitLeft_t]
    exact ⟨_, hexec, by rw [ht], by rw [ht], by rw [ht], fun home pa =>
      (sameBytes_upT _ tk _ home pa).trans (sameBytes_waitLeft s tk home pa)⟩
  case expired =>
    obtain ⟨htrap, hbytes⟩ := timeOut_trapped hto n
    exact ⟨_, exec_waitTimeout_expired hwait, htrap.cause, htrap.tval, htrap.epc, htrap.wait, hbytes⟩

end Sys2Proof
end

section
/-! # A lane of a queue entry with a base outside its type

A queue entry keeps the target that its addends found as a number of any size. `Obligations.ReductionsAccepted` takes FMAX and FMIN
of it as it is (10 R191, log 27), so that a lane whose base has more than 32 bits would have to read as more than its four bytes hold. -/

namespace Sys2Proof.Claims

open Sys2Proof.Machine

/-- A RED of MAX.F32 of the lane at 0, with an addend of zero. -/
def maxReq : Req := { State.reset.req 0 (.red 4) 0 0 0 0 4 with lanes := [(0, 0)] }

/-- Slice 0 carries an addend of zero for that lane, over a base of 2^32. -/
def wideBase : State :=
  { State.reset with
    slices := [(0, { SliceSt.reset with
      adds := [(lineKey 0, { mask := 0, was := 0, lanes := [{ op := 4, lane := 0, base := 2 ^ 32, sum := 0 }] })] })] }

theorem maxReq_lanesOk : lanesOk maxReq 4 := by
  refine ⟨by decide +kernel, fun k x hx => ?_⟩
  obtain ⟨rfl, rfl⟩ : k = 0 ∧ x = 0 := Prod.mk.inj (List.mem_singleton.mp hx)
  decide +kernel

theorem wideBase_noSliceWatch : noSliceWatch wideBase maxReq.home := by
  unfold noSliceWatch
  decide +kernel

theorem wideBase_redAfter : redAfter wideBase maxReq 4 0 (laneAddr maxReq 0) (redW 4) 0 = 2 ^ 32 := by decide +kernel

end Sys2Proof.Claims

namespace Sys2Proof

open Sys2Proof.Machine Sys2Proof.Claims

/-- Refutes O17: a forced MAX.F32 would have to leave 2^32 in the four bytes of its lane, which is the base that the lane's queue entry
carries. -/
theorem not_reductionsAccepted : ¬ Obligations.ReductionsAccepted := by
  unfold Obligations.ReductionsAccepted
  rintro ⟨-, -, -, happlied, -, -⟩
  obtain ⟨-, t, -, ⟨hlane, -⟩, -⟩ := happlied maxReq wideBase 4 rfl (by decide) maxReq_lanesOk (by decide +kernel)
    (by decide +kernel) wideBase_noSliceWatch (.inl (by decide +kernel))
  have hread : memNat t maxReq.home (laneAddr maxReq 0) 4 = 2 ^ 32 := (hlane 0 0 List.mem_cons_self).trans wideBase_redAfter
  have hlt := memNat_lt t maxReq.home 4 (laneAddr maxReq 0)
  rw [hread] at hlt
  exact absurd hlt (by decide)

end Sys2Proof
end

section
/-! # DISCARD of a held line by a system core

A line that crosses a page is two parts with one slot of the memory-side cache. A quarantine of the slot takes effect once no part of the
line is lost in it (25 R428), and a system core's DISCARD of a held part heals that part (24 R420): the other part is no longer served
from the slot. `Obligations.CacheMaintenance` has no premise against it. -/

namespace Sys2Proof.Claims

open Sys2Proof.Machine

theorem writeBack_none (m : List Host.Cell) (key : Nat) (d : BitVec 1536) : writeBack m key d 0 = m := by
  refine List.foldlRecOn (motive := (· = m)) _ _ rfl fun u hu i _ => ?_
  exact (if_neg (by simp)).trans hu

/-- A slice once the sectors `k` of its held line `h` are healed (24 R421). -/
def healed (key : Nat) (k : BitVec 4) (h : HeldLine) (sl : SliceSt) : SliceSt :=
  { sl with
    l2 := upLine sl.l2 key (fun l => l.dropSect (k &&& (h.l2 ||| h.msc)))
    msc := upLine sl.msc key (fun l => l.dropSect (k &&& h.msc))
    lost := sl.lost.map (fun x =>
      if x.line = key then { x with l2 := x.l2 &&& ~~~k, msc := x.msc &&& ~~~k, mem := x.mem &&& ~~~k } else x) }

section

variable {s : State} {home key : Nat}

/-- Where no copy in LPDDR6 is lost, healing changes the slice alone. -/
theorem heal_eq_upSlice {h : HeldLine} (hlost : s.lostAt home key = some h) (hmem : h.mem = 0) (k : BitVec 4) :
    s.heal home key k = s.upSlice home (healed key k h) := by
  unfold State.heal
  simp only [hlost]
  rw [hmem, show k &&& 0 = 0 from BitVec.and_zero, writeBack_none]
  rfl

/-- Dropping a line that L2 does not cache leaves every level. -/
theorem sameBytes_discardLine (hl2 : (s.slice home).l2 = []) : sameBytes s (s.discardLine home key) := by
  have hlevels (h : Nat) : levels ((s.discardLine home key).slice h) = levels (s.slice h) := by
    by_cases hh : h = home
    · subst hh
      have hdel : mdel (s.slice h).l2 key = (s.slice h).l2 := by
        rw [hl2]
        rfl
      rw [State.discardLine, upSlice_at_same]
      exact congrArg (·, (s.slice h).msc, (s.slice h).quar, (s.slice h).lost) hdel
    · exact congrArg levels (upSlice_at_ne (s.collapse key) _ hh)
  intro h pa
  unfold State.byteAt
  rw [lineVal_of_levels (s := s) (t := s.discardLine home key) rfl (hlevels h)]

theorem perform_discard {r : Req} (hkind : r.kind = .discard) : s.perform r = (((s.sysHeal r).noteReq r r.home r.pa r.len true).discardLine
    r.home (lineKey r.pa)).abortMarks r.home r.pa r.chans false := by
  rw [State.perform, hkind]

end

/-- The quarantine entry of the memory-side cache slot of a line. -/
def slotQuar (key : Nat) : BitVec 64 := putBits 3 2 17 (mscSlotOf key)

theorem slotQuar_names (key : Nat) :
    ((slotQuar key).getLsbD 0 && (slotQuar key).getLsbD 1 && wbits (slotQuar key) 2 17 == mscSlotOf key) = true := by
  have hslot : mscSlotOf key % 2 ^ 17 = mscSlotOf key := by
    refine Nat.mod_eq_of_lt (Nat.lt_of_lt_of_le (Nat.mod_lt _ ?_) ?_) <;> decide
  have hlow (i : Nat) (hi : i < 2) : (slotQuar key).getLsbD i = (3 : BitVec 64).getLsbD i := getLsbD_putBits_apart _ _ _ _ _ (.inl hi)
  rw [slotQuar, wbits_putBits_same 3 2 17 _ (by decide), hslot, ← slotQuar, hlow 0 (by decide), hlow 1 (by decide), beq_self_eq_true]
  rfl

/-- The line at 65472 crosses into the page at 65536. Its slot is quarantined; its first part, key 682, is lost there in the sectors `k`,
and its second part, key 683, is dirty there with a 1 at 65536. -/
def crossing (k : BitVec 4) : State :=
  { State.reset with
    slices := [(0, { SliceSt.reset with
      msc := [(683, { valid := 15, dirty := 15, data := BitVec.ofNat 1536 (2 ^ 512), tag := Config.tagNone })]
      quar := vset SliceSt.reset.quar 0 (slotQuar 682)
      lost := [{ line := 682, recno := 1, level := 2, way := 0, l2 := 0, msc := k, mem := 0 }] })] }

/-- A system core's DISCARD of the first part. -/
def crossingReq : Req := State.reset.req Config.sysBase .discard 0 65472 0 0 64

theorem crossing_noSliceWatch (k : BitVec 4) : noSliceWatch (crossing k) 0 := by
  unfold noSliceWatch
  rw [show ((crossing k).slice 0).swctl = SliceSt.reset.swctl from rfl]
  decide

/-- While the first part is lost in the slot, the slot serves the second. -/
theorem crossing_serves : (crossing 1).mscOff 0 683 = false := by
  rw [State.mscOff, show ((crossing 1).slice 0).lost.any (fun h => h.msc != 0 && sameSlot h.line 683) = true from rfl, Bool.not_true,
    Bool.and_false]

theorem crossing_byte : (crossing 1).byteAt 0 65536 = 1 := by
  have hline : (crossing 1).lineVal 0 683 = mixSect 15 (BitVec.ofNat 1536 (2 ^ 512)) (memLine [] 683) := below_eq_mixSect crossing_serves
  rw [State.byteAt, show lineKey 65536 = 683 from by decide, hline]
  decide +kernel

/-- Once it is not, memory does. -/
theorem crossing_off : (crossing 0).mscOff 0 683 = true := by
  rw [State.mscOff, show ((crossing 0).slice 0).lost.any (fun h => h.msc != 0 && sameSlot h.line 683) = false from rfl, Bool.not_false,
    Bool.and_true]
  exact List.any_eq_true.mpr ⟨slotQuar 682, List.mem_cons_self, slotQuar_names 682⟩

theorem crossing_healed_byte : (crossing 0).byteAt 0 65536 = 0 := by
  have hline : (crossing 0).lineVal 0 683 = memLine [] 683 := below_of_mscOff crossing_off
  rw [State.byteAt, show lineKey 65536 = 683 from by decide, hline]
  decide +kernel

/-- The system core's request heals the first part. -/
theorem crossing_sysHeal : (crossing 1).sysHeal crossingReq = crossing 0 := by
  have hkey : lineKey 65472 = 682 := by decide
  have hsys : (crossing 1).sysHeal crossingReq = (crossing 1).heal 0 (lineKey 65472) 15 := if_pos (by decide)
  rw [hsys, hkey, heal_eq_upSlice rfl rfl]
  rfl

theorem exec_discard_crossing : ∃ t, exec (.homeStoreApply crossingReq) (crossing 1) = .next t ∧ t.byteAt 0 65536 = 0 := by
  have hreps : (crossing 1).repDies (lineKey crossingReq.pa) = [] := by decide +kernel
  have hexec : exec (.homeStoreApply crossingReq) (crossing 1) = .next ((crossing 1).perform crossingReq) :=
    congrArg Host.Outcome.next (if_pos hreps)
  rw [perform_discard rfl, crossing_sysHeal, noteReq_quiet (r := crossingReq) (crossing_noSliceWatch 0)] at hexec
  refine ⟨_, hexec, ?_⟩
  rw [(abortMarks_pushes ..).bytes, sameBytes_discardLine, crossing_healed_byte]
  rfl

end Sys2Proof.Claims

namespace Sys2Proof

open Sys2Proof.Machine Sys2Proof.Claims

/-- Refutes O22: a system core's DISCARD of one part of a held line that crosses a page changes a byte of the line's other part. -/
theorem not_cacheMaintenance : ¬ Obligations.CacheMaintenance := by
  unfold Obligations.CacheMaintenance
  rintro ⟨-, hdiscard, -⟩
  obtain ⟨t, hexec, -, -, hbytes⟩ := hdiscard crossingReq (crossing 1) rfl (by decide +kernel) (crossing_noSliceWatch 1)
    List.Pairwise.nil
  have hsame := hbytes 0 65536 (.inl (by decide))
  obtain ⟨u, hexec', hbyte⟩ := exec_discard_crossing
  obtain rfl : t = u := Host.Outcome.next.inj (hexec.symm.trans hexec')
  rw [crossing_byte, hbyte] at hsame
  exact absurd hsame (by decide)

end Sys2Proof
end
